-- ==== Sys2Proof/Word.lean ====
section
/-!
DEFINITION. The word types of the model: bytes, FP32 codes and sparse tables.

A sparse table holds `(key, value)` pairs with keys strictly rising, and no entry whose value is the one that an
unlisted key reads as (that value is named where the table is read). Equal tables are then equal data.
-/

namespace Sys2Proof

/-- A byte (00 R4). -/
abbrev Byte := BitVec 8

/-- The 32 bits of an FP32 value (02 R22). -/
abbrev F32 := BitVec 32

/-- A sparse table: keys strictly rising, default values not listed. -/
abbrev SMap (α : Type) := List (Nat × α)

/-- Bytes by address; an unlisted address reads 0 (09 R229, 17 R446). -/
abbrev Mem := SMap Byte

end Sys2Proof
end

