-- ==== Sys2Proof/Syntax.lean ====
section
/-!
DEFINITION. The commands of the module, one constructor for each row of the operation table.

A core-instruction command names the core whose sequencer reaches the instruction and gives the whole 64-bit word by its
layout (05 R115), unassigned bits included. An event command names the unit at which the event falls and what comes with
it from outside. A register-write command gives the writer and the value written.
-/

namespace Sys2Proof

/-- A core, 0 to 319 (01 R12). -/
abbrev CoreId := Fin 320
/-- A client context, CTX0 to CTX15 (12 R306). -/
abbrev CtxN := Fin 16
/-- A context number, 16 being the administrative context (12 R306). -/
abbrev CtxId := Fin 17
/-- A link port, LP0 to LP35 (01 R17). -/
abbrev PortId := Fin 36
/-- A torus direction, numbered as LNK_DIR_d (10 R273). -/
abbrev DirId := Fin 8
/-- A quarter (01 R12). -/
abbrev QuarterId := Fin 4
/-- A command's tag (13 R350). -/
abbrev Tag := BitVec 16

/-- A word in layout S (05 R115). -/
structure SF where
  fn : BitVec 8
  d : BitVec 5
  a : BitVec 5
  b : BitVec 5
  i : BitVec 1
  imm : BitVec 32
  deriving DecidableEq, Repr

/-- A word in layout V (05 R115). -/
structure VF where
  fn : BitVec 8
  d : BitVec 5
  a : BitVec 5
  b : BitVec 5
  x : BitVec 11
  nm1 : BitVec 10
  misc : BitVec 12
  deriving DecidableEq, Repr

/-- The fields of MMA in layout M (05 R129); `rest` is bits 15 to 0. -/
structure MF where
  arr : BitVec 1
  init : BitVec 2
  keep : BitVec 1
  tl : BitVec 4
  tr : BitVec 4
  tout : BitVec 4
  ti : BitVec 4
  kb : BitVec 10
  cblk : BitVec 10
  rest : BitVec 16
  deriving DecidableEq, Repr

/-- The fields of UPD in layout M (05 R148); `rest` is bits 9 to 0. -/
structure UF where
  rule : BitVec 4
  aw : BitVec 5
  ag : BitVec 5
  ao : BitVec 5
  am : BitVec 5
  at_ : BitVec 5
  ae : BitVec 5
  ng : BitVec 12
  rest : BitVec 10
  deriving DecidableEq, Repr

/-- The layout-V instructions (05 R128, R133 to R141). -/
inductive VecOp where
  | vop | vred | vany | act | qnt | wid | sld | sst
  deriving DecidableEq, Repr

/-- A flit by its header fields and its payload words (10 R251, R252). -/
structure Flit where
  typ : BitVec 4
  vc : BitVec 3
  som : Bool
  seq : BitVec 12
  ack : BitVec 12
  crvc : BitVec 3
  crcum : BitVec 12
  eom : Bool
  dst : BitVec 16
  src : BitVec 16
  ctx : BitVec 5
  nw : BitVec 5
  hops : BitVec 6
  tag : BitVec 32
  words : List (BitVec 64)
  deriving DecidableEq, Repr

/-- What a peer sends in EXCHANGE (10 R248). -/
structure XInfo where
  serial : BitVec 64
  group : BitVec 16
  coord : BitVec 16
  member : Bool
  port : Nat
  version : BitVec 32
  fence : BitVec 32
  deriving DecidableEq, Repr

/-- Who writes a register (00 R8, 12 R331). -/
inductive Origin where
  | admin
  | ctx (n : CtxN)
  | shank
  deriving DecidableEq, Repr

/-- Bits found in error in a word by the time of an access: its address and how many of its 80 bits (09 R226). -/
structure Upset where
  addr : Nat
  bits : Nat
  deriving DecidableEq, Repr

/-- The commands: one constructor for each row of the operation table. An operand with a default may be left out: no replays, no
uncorrectable codewords, a round trip of 0, and a path MTU of 4,096 bytes. -/
inductive Instr where
  -- core instructions (05)
  | nop (c : CoreId) (w : SF)
  | alu (c : CoreId) (w : SF)
  | alih (c : CoreId) (w : SF)
  | acmp (c : CoreId) (w : SF)
  | lset (c : CoreId) (w : SF)
  | lget (c : CoreId) (w : SF)
  | fset (c : CoreId) (w : SF)
  | tset (c : CoreId) (w : SF)
  | tget (c : CoreId) (w : SF)
  | toff (c : CoreId) (w : SF)
  | tsb (c : CoreId) (w : SF)
  | br (c : CoreId) (w : SF)
  | bra (c : CoreId) (w : SF)
  | brf (c : CoreId) (w : SF)
  | loop (c : CoreId) (w : SF)
  | ald (c : CoreId) (w : SF)
  | ast (c : CoreId) (w : SF)
  | sld (c : CoreId) (w : VF)
  | sst (c : CoreId) (w : VF)
  | mma (c : CoreId) (w : MF)
  | vop (c : CoreId) (w : VF)
  | vred (c : CoreId) (w : VF)
  | vany (c : CoreId) (w : VF)
  | act (c : CoreId) (w : VF)
  | qnt (c : CoreId) (w : VF)
  | wid (c : CoreId) (w : VF)
  | topen (c : CoreId) (w : SF)
  | tclose (c : CoreId) (w : SF)
  | layer (c : CoreId) (w : SF)
  | sinc (c : CoreId) (w : SF)
  | swait (c : CoreId) (w : SF)
  | stry (c : CoreId) (w : SF)
  | srd (c : CoreId) (w : SF)
  | dma (c : CoreId) (w : SF)
  | coll (c : CoreId) (w : SF)
  | upd (c : CoreId) (w : UF)
  | blk (c : CoreId) (w : SF)
  | endTask (c : CoreId) (w : SF)
  -- core, array and task events
  | semaphoreWaitGrant (n : CtxN) (sem : BitVec 8)
  | issueQueueRoom (c : CoreId) (q : Fin 4)
  | arrayLastKStep (c : CoreId) (arr : Fin 2)
  | arrayDrainComplete (c : CoreId) (arr : Fin 2)
  | shadowRecompute (c : CoreId)
  | jitQuantisePass (c : CoreId)
  | trackerMerge (n : CtxN)
  | stepScalesFormed (n : CtxN) (replays : Nat := 0)
  | dmaTransactionComplete (c : CoreId) (desc txn : Nat) (replays : Nat) (upsets : List Upset)
  | dmaDescriptorComplete (c : CoreId) (desc : Nat)
  | remapLedgerCommit (ctl : PortId)
  | scrubAccess (t2 : Bool) (upsets : List Upset)
  | memFillComplete (k : Nat)
  | taskComplete (c : CoreId)
  | taskTake (c : CoreId) (replays : Nat := 0)
  | coreClockRestart (c : CoreId)
  | blockBoundExpiry (c : CoreId)
  | updDecisionRelease (c : CoreId) (replays : Nat := 0)
  | runEnd (n : CtxN) (tag : Tag) (replays : Nat := 0)
  | commitWaveComplete (n : CtxN) (replays : Nat := 0)
  -- collectives and the abort wave
  | grantReceive (k : Nat) (replays : Nat := 0)
  | collDataReceive (k : Nat) (replays : Nat := 0)
  | shardEndReceive (k : Nat) (replays : Nat := 0)
  | controlMessageReceive (k : Nat)
  | collStageComplete (id rail : Nat) (replays : Nat := 0)
  | collLocalComplete (id : Nat)
  | collWatchdogExpiry (id : Nat) (peer : BitVec 16)
  | abortReceive (k : Nat)
  | tallyReceive (k : Nat)
  | tallyTimer (k : Nat)
  | faultReportTimer (k : Nat := 0)
  | faultReset
  | dumpRegionComplete (bytes : List Byte)
  | dumpRegionTimeout (parity : Bool) (bytes : List Byte)
  | dumpEnd (written : Bool)
  -- link ports
  | flitReceive (p : PortId) (raw : List Byte) (uncorr : Nat := 0) (strand : Option (Fin 4) := none)
  | nakReceive (p : PortId) (f : Flit)
  | ackTimeout (p : PortId)
  | handover (k : Nat)
  | handoverTimeout (p : PortId)
  | resetting (k : Nat)
  | laneSignalDetect (p : PortId) (lanes : BitVec 8)
  | lanesConverge (p : PortId) (lanes : BitVec 8)
  | equaliseTimeout (p : PortId)
  | fecLock (p : PortId) (rtt : Nat)
  | alignTimeout (p : PortId)
  | exchange (p : PortId) (x : XInfo) (rtt : Nat := 0)
  | exchangeVerdictExpiry (p : PortId)
  | laneFault (p : PortId) (lane : Fin 8)
  | degradeComplete (p : PortId)
  | degradeTimeout (p : PortId)
  | codewordLossTimeout (p : PortId) (uncorr : Nat := 0)
  | downRetrainTimer (p : PortId)
  | failedRetryTimer (p : PortId)
  -- scheduling and teardown
  | sliceExpiry (q : QuarterId)
  | yieldIdleTimer (q : QuarterId)
  | preemptBoundaryReached (q : QuarterId)
  | saveComplete (q : QuarterId) (replays : Nat := 0)
  | restoreQuarterComplete (q : QuarterId) (replays : Nat := 0)
  | drainMarkPass (n : CtxN) (p : PortId) (vc : Fin 8)
  | retireTimeout (n : CtxN)
  | retireComplete (n : CtxN)
  -- host attachment
  | qpConnectRequest (qp : Fin 1024) (port : Fin 4) (key : BitVec 32) (mtu : Nat := 4096)
  | rdmaWrite (qp : Fin 1024) (rkey : BitVec 32) (addr : BitVec 64) (data : List Byte) (replays : Nat := 0)
  | rdmaRead (qp : Fin 1024) (rkey : BitVec 32) (addr : BitVec 64) (len : Nat) (upsets : List Upset) (replays : Nat := 0)
  | sqTail (n : CtxN) (v : BitVec 64)
  | cqHead (n : CtxN) (v : BitVec 64)
  | flagWrite (n : CtxN) (v : BitVec 64)
  | notify (n : CtxN) (v : BitVec 64)
  | congestionExperiencedPacket (qp : Fin 1024)
  | congestionNotificationPacket (qp : Fin 1024)
  | rateRiseTimer (qp : Fin 1024)
  | commandStart (n : CtxId)
  | completionPost (n : CtxId)
  | managementCommandDatagram (port : Fin 2) (ip : BitVec 128) (udp : BitVec 16) (bytes : List Byte)
  | heartbeatTimer (port : Fin 2)
  -- Itquel commands, named by issuer and tag
  | query (n : CtxId) (tag : Tag)
  | ctxCreate (tag : Tag)
  | ctxDestroy (tag : Tag)
  | memAlloc (n : CtxId) (tag : Tag)
  | memFree (n : CtxId) (tag : Tag)
  | quotaSet (tag : Tag)
  | loadPackage (n : CtxId) (tag : Tag) (head : List Byte)
  | packageCacheDrop (n : CtxId) (tag : Tag)
  | packageChunkLand (k : Nat) (data : List Byte) (replays : Nat := 0)
  | loadComplete (k : Nat)
  | cacheCopyComplete (k : Nat) (ok : Bool) (replays : Nat := 0)
  | loadRaw (n : CtxId) (tag : Tag)
  | rawArrivalComplete (k : Nat) (data : List Byte) (replays : Nat := 0)
  | quantiserPassComplete (k : Nat) (replays : Nat := 0)
  | lastSwitch (n : CtxId) (tag : Tag)
  | switchPoint
  | programLoad (n : CtxN) (tag : Tag) (replays : Nat := 0)
  | run (n : CtxN) (tag : Tag)
  | preemptSuspend (tag : Tag)
  | preemptResume (tag : Tag)
  | snapshot (n : CtxN) (tag : Tag)
  | snapshotSend (n : CtxN) (tag : Tag)
  | snapshotStopEnd (n : CtxN) (replays : Nat := 0)
  | snapshotDrainComplete (n : CtxN) (replays : Nat := 0)
  | restore (n : CtxN) (tag : Tag)
  | restoreSend (n : CtxN) (tag : Tag)
  | restoreReceive (n : CtxN) (tag : Tag)
  | restoreInstallComplete (n : CtxN) (replays : Nat := 0)
  | streamTimeout (n : CtxN)
  | exportImg (n : CtxN) (tag : Tag)
  | importImg (n : CtxN) (tag : Tag)
  | wakeBudget (tag : Tag)
  | powerShape (tag : Tag)
  | fwStage (tag : Tag) (replays : Nat := 0)
  | fwActivate (tag : Tag)
  | attest (n : CtxId) (tag : Tag)
  | reshard (n : CtxN) (tag : Tag)
  | joinGroup (tag : Tag)
  | leaveGroup (tag : Tag)
  | fencePeer (tag : Tag)
  | healthRead (tag : Tag)
  | spareReserveHint (tag : Tag)
  | dumpRead (tag : Tag)
  | enrolManagementKey (port : Fin 2) (ip : BitVec 128) (udp : BitVec 16) (bytes : List Byte)
  | enrolPackageKey (port : Fin 2) (ip : BitVec 128) (udp : BitVec 16) (bytes : List Byte)
  | revokePackageKey (port : Fin 2) (ip : BitVec 128) (udp : BitVec 16) (bytes : List Byte)
  -- lacing broadcast
  | lacePiece (k : Nat)
  | laceEnd (k : Nat)
  | laceBitmap (k : Nat)
  | laceRepairPiece (k : Nat)
  | lacePieceDatagram (port : Fin 2) (bytes : List Byte)
  | laceBitmapTimer
  -- supply, temperature, health and rest
  | supplySample (vin iin : BitVec 16)
  | sagRecovery
  | sagTimeout
  | holdupEnd
  | inputValid
  | governorPeriod
  | thermalThrottleStep
  | coolantReading (inlet outlet : BitVec 12) (dies : List (BitVec 12))
  | coolantLimitExpiry (outlet : Bool)
  | healthScoreTick
  | expulsionRequestRepeat
  | hintHoldExpiry
  | idleTimerExpiry
  | restStateEnter
  | wake
  | wakeComplete
  -- reset and bring-up
  | coldBoot (selfTestOk : Bool)
  | mrstNRelease
  | cold (o : Origin) (v : BitVec 64)
  | warm (o : Origin) (v : BitVec 64)
  | trainingComplete (failedUnit : Option (BitVec 9))
  | bringupFillComplete
  | startupTestComplete (failed : List (Fin 4 × Fin 84)) (failedUnit : Option (BitVec 9))
  | moduleReady
  | go (o : Origin) (v : BitVec 64)
  | partialDrainExpiry
  | partialResetEnd
  -- register writes with rows of their own
  | enable (o : Origin) (p : PortId) (v : BitVec 64)
  | hold (o : Origin) (p : PortId) (v : BitVec 64)
  | retrain (o : Origin) (p : PortId) (v : BitVec 64)
  | lnkDirWrite (o : Origin) (d : DirId) (v : BitVec 64)
  | arm (o : Origin) (v : BitVec 64)
  | readmit (o : Origin) (v : BitVec 64)
  | hltPolicyWrite (o : Origin) (v : BitVec 64)
  | clkReq (o : Origin) (v : BitVec 64)
  | ctxJobSeedWrite (o : Origin) (n : CtxN) (v : BitVec 64)
  | clrCount (o : Origin) (n : CtxN) (v : BitVec 64)
  | ctxShadowCountClr (o : Origin) (n : CtxN) (v : BitVec 64)
  | ctxRescaleCountClr (o : Origin) (n : CtxN) (v : BitVec 64)
  | ctxTaskCountClr (o : Origin) (n : CtxN) (v : BitVec 64)
  | ctxUpdateCountClr (o : Origin) (n : CtxN) (v : BitVec 64)
  | ctxCollCountClr (o : Origin) (n : CtxN) (v : BitVec 64)
  | ctxAcctCtlClr (o : Origin) (n : CtxN) (v : BitVec 64)
  | memEccClr (o : Origin) (t2 : Bool) (v : BitVec 64)
  | lnkDropClr (o : Origin) (v : BitVec 64)
  | lnkErrClr (o : Origin) (p : PortId) (v : BitVec 64)
  | mbxErrClr (o : Origin) (v : BitVec 64)
  | mbxMgmtClr (o : Origin) (port : Fin 2) (v : BitVec 64)
  | clrVmin (o : Origin) (v : BitVec 64)
  | pwrEventsClr (o : Origin) (v : BitVec 64)
  | registerWrite (o : Origin) (addr : BitVec 48) (size : Nat) (v : BitVec 64)
  -- further link, host and completion events
  | flitSlot (p : PortId)
  | degradeMarkerReceive (p : PortId) (lane : Fin 8)
  | ethernetLinkUpDown (mgmt : Bool) (n : Fin 4) (up : Bool)
  | backupCellFlat
  | joinGroupTimeout
  | vectorUpdateInstructionComplete (c : CoreId) (replays : Nat := 0)
  | remoteAldAstComplete (c : CoreId) (k : Nat) (replays : Nat := 0)
  | exportImportComplete (n : CtxN) (replays : Nat := 0)
  | fwStageWriteComplete (replays : Nat := 0)
  | dumpReadComplete (replays : Nat := 0)
  | streamSendComplete (n : CtxN) (replays : Nat := 0)
  deriving DecidableEq, Repr

end Sys2Proof
end

