-- ==== Sys2Proof/Decode.lean ====
section
/-!
DEFINITION. Words of the operation table, and the words of core instructions.

No row of the operation table gives bits, so no word spells a command. A core-instruction command carries the whole word
by its layout, and the issue check compares that word with the one in the instruction buffer (05 R115).
-/

namespace Sys2Proof

/-- The command a word of the table's bits spells: none, since the table gives no row any bits. -/
def decodeTableWord (_nbits _w : Nat) : Option Instr := none

/-- The 64-bit word of layout S: opcode, FN, D, A, B, I, IMM from bit 63 down (05 R115). -/
def encodeS (op : BitVec 8) (w : SF) : BitVec 64 :=
  op ++ w.fn ++ w.d ++ w.a ++ w.b ++ w.i ++ w.imm

/-- The 64-bit word of layout V: opcode, FN, D, A, B, X, NM1, MISC from bit 63 down (05 R115). -/
def encodeV (op : BitVec 8) (w : VF) : BitVec 64 :=
  op ++ w.fn ++ w.d ++ w.a ++ w.b ++ w.x ++ w.nm1 ++ w.misc

/-- The 64-bit word of MMA (05 R129). -/
def encodeM (w : MF) : BitVec 64 :=
  0x50#8 ++ w.arr ++ w.init ++ w.keep ++ w.tl ++ w.tr ++ w.tout ++ w.ti ++ w.kb ++ w.cblk ++ w.rest

/-- The 64-bit word of UPD (05 R148). -/
def encodeU (w : UF) : BitVec 64 :=
  0x70#8 ++ w.rule ++ w.aw ++ w.ag ++ w.ao ++ w.am ++ w.at_ ++ w.ae ++ w.ng ++ w.rest

/-- The opcodes that 05 defines (05 R116, R121 to R148). -/
def opcodeDefined (op : BitVec 8) : Bool :=
  [0x00#8, 0x01#8, 0x02#8, 0x03#8, 0x04#8, 0x05#8, 0x06#8, 0x07#8, 0x08#8, 0x09#8, 0x0A#8, 0x0B#8, 0x0C#8, 0x0D#8,
   0x0E#8, 0x0F#8, 0x10#8, 0x11#8, 0x12#8, 0x13#8, 0x14#8, 0x15#8, 0x30#8, 0x31#8, 0x32#8, 0x33#8, 0x34#8, 0x38#8,
   0x50#8, 0x60#8, 0x61#8, 0x62#8, 0x63#8, 0x64#8, 0x65#8, 0x68#8, 0x69#8, 0x70#8].contains op

end Sys2Proof
end

