-- ==== Sys2Proof/Machine/Hash.lean ====
section
/-!
DEFINITION. The checks and digests that the spec names: CRC-32C, CRC-32, SM3 and HMAC-SM3 (log 10).
-/

namespace Sys2Proof.Machine

open Sys2Proof

/-- A little-endian number of bytes (00 R4). -/
def leNat : List Byte → Nat
  | [] => 0
  | b :: bs => b.toNat + 256 * leNat bs

/-- A little-endian field of some bytes. -/
def field (bs : List Byte) (off n : Nat) : Nat := leNat ((bs.drop off).take n)

/-- `n` bytes of a number, least significant first (00 R4). -/
def natLe : Nat → Nat → List Byte
  | 0, _ => []
  | n + 1, v => BitVec.ofNat 8 v :: natLe n (v / 256)

/-- One bit of a reflected CRC. -/
def crcBit (poly : BitVec 32) : Nat → BitVec 32 → BitVec 32
  | 0, c => c
  | n + 1, c => crcBit poly n (if c.getLsbD 0 then (c >>> 1) ^^^ poly else c >>> 1)

/-- A reflected CRC run over bytes from a register value. -/
def crcRun (poly : BitVec 32) : List Byte → BitVec 32 → BitVec 32
  | [], c => c
  | b :: bs, c => crcRun poly bs (crcBit poly 8 (c ^^^ b.setWidth 32))

/-- CRC-32C of bytes (log 10). -/
def crc32c (bs : List Byte) : BitVec 32 := ~~~ (crcRun 0x82F63B78#32 bs 0xFFFFFFFF#32)

/-- CRC-32 of bytes (log 10). -/
def crc32 (bs : List Byte) : BitVec 32 := ~~~ (crcRun 0xEDB88320#32 bs 0xFFFFFFFF#32)

/-! ## SM3 (log 10) -/

/-- SM3's permutation P0. -/
def sm3P0 (x : BitVec 32) : BitVec 32 := x ^^^ x.rotateLeft 9 ^^^ x.rotateLeft 17
/-- SM3's permutation P1. -/
def sm3P1 (x : BitVec 32) : BitVec 32 := x ^^^ x.rotateLeft 15 ^^^ x.rotateLeft 23

/-- A big-endian word of a block. -/
def sm3Word (a b c d : Byte) : BitVec 32 := a ++ b ++ c ++ d

/-- The sixteen words of a block. -/
def sm3Words : List Byte → List (BitVec 32)
  | a :: b :: c :: d :: r => sm3Word a b c d :: sm3Words r
  | _ => []

/-- Extend the message schedule, newest word first. -/
def sm3Extend : Nat → List (BitVec 32) → List (BitVec 32)
  | 0, w => w
  | n + 1, w =>
    let g := fun i => w.getD i 0#32
    sm3Extend n ((sm3P1 (g 15 ^^^ g 8 ^^^ (g 2).rotateLeft 15) ^^^ (g 12).rotateLeft 7 ^^^ g 5) :: w)

/-- The eight words of SM3's state. -/
structure Sm3 where
  a : BitVec 32
  b : BitVec 32
  c : BitVec 32
  d : BitVec 32
  e : BitVec 32
  f : BitVec 32
  g : BitVec 32
  h : BitVec 32
  deriving DecidableEq, Repr

/-- One round of SM3. -/
def sm3Round (j : Nat) (w w4 : BitVec 32) (s : Sm3) : Sm3 :=
  let t := if j < 16 then 0x79CC4519#32 else 0x7A879D8A#32
  let ss1 := (s.a.rotateLeft 12 + s.e + t.rotateLeft (j % 32)).rotateLeft 7
  let ss2 := ss1 ^^^ s.a.rotateLeft 12
  let ff := if j < 16 then s.a ^^^ s.b ^^^ s.c else (s.a &&& s.b) ||| (s.a &&& s.c) ||| (s.b &&& s.c)
  let gg := if j < 16 then s.e ^^^ s.f ^^^ s.g else (s.e &&& s.f) ||| (~~~ s.e &&& s.g)
  let t1 := ff + s.d + ss2 + (w ^^^ w4)
  let t2 := gg + s.h + ss1 + w
  { a := t1, b := s.a, c := s.b.rotateLeft 9, d := s.c, e := sm3P0 t2, f := s.e, g := s.f.rotateLeft 19, h := s.g }

/-- The rounds from `j`, over the schedule's remaining words. -/
def sm3Rounds : Nat → Nat → List (BitVec 32) → Sm3 → Sm3
  | 0, _, _, s => s
  | n + 1, j, ws, s =>
    match ws with
    | [] => s
    | w :: r => sm3Rounds n (j + 1) r (sm3Round j w (r.getD 3 0#32) s)

/-- SM3's compression of one 64-byte block. -/
def sm3Block (s : Sm3) (blk : List Byte) : Sm3 :=
  let w := (sm3Extend 52 (sm3Words blk).reverse).reverse
  let r := sm3Rounds 64 0 w s
  { a := r.a ^^^ s.a, b := r.b ^^^ s.b, c := r.c ^^^ s.c, d := r.d ^^^ s.d,
    e := r.e ^^^ s.e, f := r.f ^^^ s.f, g := r.g ^^^ s.g, h := r.h ^^^ s.h }

/-- SM3's compression over `n` blocks. -/
def sm3Blocks : Nat → List Byte → Sm3 → Sm3
  | 0, _, s => s
  | n + 1, m, s => sm3Blocks n (m.drop 64) (sm3Block s (m.take 64))

/-- SM3's starting words. -/
def sm3Init : Sm3 :=
  { a := 0x7380166F#32, b := 0x4914B2B9#32, c := 0x172442D7#32, d := 0xDA8A0600#32,
    e := 0xA96F30BC#32, f := 0x163138AA#32, g := 0xE38DEE4D#32, h := 0xB0FB0E4E#32 }

/-- SM3's padding of a message. -/
def sm3Pad (m : List Byte) : List Byte :=
  m ++ [0x80#8] ++ List.replicate ((119 - m.length % 64) % 64) 0#8 ++ (natLe 8 (8 * m.length)).reverse

/-- The SM3 digest of bytes, its first byte most significant. -/
def sm3 (m : List Byte) : BitVec 256 :=
  let p := sm3Pad m
  let s := sm3Blocks (p.length / 64) p sm3Init
  s.a ++ s.b ++ s.c ++ s.d ++ s.e ++ s.f ++ s.g ++ s.h

/-- The 32 bytes of a digest in the order it is written out, first byte first. -/
def digestBytes (d : BitVec 256) : List Byte := (natLe 32 d.toNat).reverse

/-- A digest read from 32 bytes. -/
def digestOf (bs : List Byte) : BitVec 256 := BitVec.ofNat 256 (leNat bs.reverse)

/-- HMAC-SM3 under a key of at most 64 bytes (log 10). -/
def hmacSm3 (key m : List Byte) : BitVec 256 :=
  let k := key ++ List.replicate (64 - key.length) 0#8
  sm3 (k.map (· ^^^ 0x5C#8) ++ digestBytes (sm3 (k.map (· ^^^ 0x36#8) ++ m)))

end Sys2Proof.Machine
end

