-- ==== Sys2Proof/Config.lean ====
section
/-!
DEFINITION. What an implementation fixes, and the free values: constants with no body, so that no proof can rest on a
value of one. A claim that mentions one holds for every value it could have.
-/

namespace Sys2Proof

/-- The three ordering codes (00 R1). -/
inductive Ordering3 where
  | a | b | c
  deriving DecidableEq, Repr, Inhabited

namespace Config

/-! ## Fuses and manufacture -/

/-- Ordering code of the module (00 R1, 01 R13). -/
opaque ordering : Ordering3
/-- Serial number, SHK_ID (18 R480). -/
opaque serial : BitVec 64
/-- Physical core `84 q + p` is marked bad in the fuses (17 R452, R464). -/
opaque fuseBad : Nat → Bool
/-- Release, version epoch, rollback level and head-region digest of the image put into ACTIVE at manufacture (log 6). -/
opaque factoryRelease : BitVec 32
/-- See `factoryRelease`. -/
opaque factoryVersion : BitVec 32
/-- See `factoryRelease`. -/
opaque factoryLevel : Fin 65
/-- See `factoryRelease`. -/
opaque factoryDigest : BitVec 256
/-- Management key set at manufacture (18 R466). -/
opaque mgmtKey : BitVec 128
/-- Attestation public key (18 R466). -/
opaque attestPub : BitVec 512
/-- The two SM3 identifiers of the keys that may sign a firmware image, in fuses (18 R466). -/
opaque fwKey0 : BitVec 256
/-- See `fwKey0`. -/
opaque fwKey1 : BitVec 256
/-- Snapshot key, SM4-XTS, generated at manufacture and fused (18 R466, 15 R402). -/
opaque snapshotKey : BitVec 256
/-- Nominal core voltage in mV of a point of the clock-voltage curve that R428 does not list, by its clock in MHz (16 R428). -/
opaque curvePoint : Nat → Nat
/-- Fused trim of the curve: 0 to 80 stands for -40 to +40 mV (16 R428). -/
opaque trim : Fin 81

/-! ## Keyed functions of the Shank's engines, whose bodies no rule of the spec gives (log 7) -/

/-- SM2 verification of a 64-byte signature over a 32-byte digest under a public key (08 R196). -/
opaque sm2Verify : BitVec 512 → BitVec 256 → BitVec 512 → Bool
/-- A firmware signature block over a digest verifies under the key that the block names (18 R471). -/
opaque fwSigOk : BitVec 256 → List Byte → Bool
/-- SM2 decryption of a management-key enrolment under the identity key (18 R467). -/
opaque sm2Decrypt : List Byte → Option (BitVec 128)
/-- Signature by the identity key (18 R470). -/
opaque identitySign : BitVec 256 → BitVec 512
/-- Signature by the attestation key (18 R470). -/
opaque attestSign : BitVec 256 → BitVec 512

/-! ## Free values -/

/-- Undefined bytes, by a fresh number and the byte's address (08 R204, 11 R283). -/
opaque freeByte : Nat → Nat → Byte
/-- What a read meets in a word with four or more bits in error: 0 detected, 1 missed, 2 miscorrected as one bit, 3 miscorrected as two bits (09 R226). -/
opaque eccFour : Nat → Fin 4
/-- The word that a miss or a miscorrection delivers (09 R226). -/
opaque eccWord : Nat → BitVec 64
/-- Result of an activation's derivative mode where the spec states no derivative: function, mode, input and gradient (05 R138, log 12). -/
opaque actFree : Nat → Nat → F32 → F32 → F32
/-- Scaling-area units that a number of scaling records needs (09 R501, log 9). -/
opaque scalingUnits : Nat → Nat
/-- 2 MiB units of a task area, by the bytes of the program's tables and its number of tasks (09 R501, log 14). -/
opaque taskAreaUnits : Nat → Nat → Nat
/-- Recipe row of a tensor id that the layer table does not name (log 8). -/
opaque tensorKind : BitVec 32 → Fin 6
/-- The rise that the learned curve predicts within the next governor period, where it predicts one: how many microseconds ahead, and the
level in 10 mA (16 R426, log 51). -/
opaque predictRise : Nat → Option (Nat × Nat)
/-- Charge of the backup cell in percent while it is neither full nor flat (16 R433, R443). -/
opaque cellCharge : Nat → Fin 101
/-- The seed coordinate that a module takes which has met no message of the broadcast it waits for (18 R476, log 62). -/
opaque laceSeed : Nat → BitVec 16
/-- Result of an update whose operand runs overlap, by a fresh number and the element (07 R168). -/
opaque overlapByte : Nat → Nat → Byte

end Config

end Sys2Proof
end

