-- ==== Sys2Proof/Machine/State.lean ====
section
/-!
DEFINITION. The state of the module as plain data, and its value right after a cold reset.

Each field's docstring gives what it holds | its width | the file and rule of the spec that names it | its value at
reset. `log n` names an entry of the assumption log. A value marked DESIGN CHOICE is the model's, not the spec's.
-/

namespace Sys2Proof.Machine

open Sys2Proof

/-! ## Core-side records -/

/-- A resource one queued instruction reads or writes, for the holds of 04 R98. -/
inductive Res where
  | store (off len : Nat)
  | sreg (first len : Nat)
  | freg (i : Nat)
  | slot (i : Nat)
  | array (i : Nat)
  deriving DecidableEq, Repr

/-- A run of one vector-layout instruction with its captured A-register values (05 R133 to R141). -/
structure VecWork where
  op : VecOp
  f : VF
  ra : BitVec 64
  rb : BitVec 64
  rd : BitVec 64
  rc : BitVec 64
  deriving DecidableEq, Repr

/-- A DMA descriptor as 05 R146 lays it out. -/
structure DmaDesc where
  src : BitVec 64
  dst : BitVec 64
  rowLen : Nat
  rows : Nat
  planes : Nat
  srcRow : Nat
  srcPlane : Nat
  dstRow : Nat
  dstPlane : Nat
  sem : Nat
  fence : Bool
  mcast : Bool
  mask : BitVec 8
  deriving DecidableEq, Repr

/-- A collective descriptor as 11 R280 lays it out. -/
structure CollDesc where
  op : Nat
  combine : Nat
  dims : BitVec 4
  retain : Bool
  stepctl : Bool
  hipri : Bool
  record : Bool
  cid : BitVec 32
  src : Nat
  dst : Nat
  len : Nat
  tag : BitVec 64
  recAddr : Nat
  sem : Nat
  peer : BitVec 16
  entries : Nat
  deriving DecidableEq, Repr

/-- What an issue-queue entry does when it starts (04 R98, R499). -/
inductive Work where
  | vec (w : VecWork)
  | mma (f : MF) (tl tr tout ti : BitVec 64) (tile : Nat)
  | topen (slot : Nat) (tid : BitVec 32) (off size : Nat)
  | tclose (slot : Nat)
  | upd (f : UF) (aw ag ao am : Nat) (tid : BitVec 32) (ae : BitVec 64)
  | dma (d : DmaDesc) (ordc : Bool)
  | coll (d : CollDesc)
  | sinc (sem : Nat) (amount : BitVec 32)
  | swait (sem : Nat) (amount : BitVec 32) (dec : Bool)
  | stry (sem : Nat) (amount : BitVec 32) (d : Nat)
  | srd (sem d : Nat)
  deriving DecidableEq, Repr

/-- One entry of an issue queue: its place in program order, its word offset and word, what it does. `phase`: 0 waiting to start, 1 started, 2 a just-in-time pass measured (03 R72). -/
structure QEntry where
  seq : Nat
  pc : Nat
  word : BitVec 64
  work : Work
  reads : List Res
  writes : List Res
  phase : Nat
  deriving DecidableEq, Repr

/-- One DMA transaction of at most 512 bytes (04 R100). `dsts` has one address per multicast destination. -/
structure Txn where
  src : Nat
  dsts : List Nat
  len : Nat
  deriving DecidableEq, Repr

/-- A pending DMA descriptor in a core's engine: the next row, plane and row offset to break up, whether an unreadable word or a failed path has cut it short (09 R237), and the transactions outstanding (04 R100, R102). -/
structure DmaPend where
  d : DmaDesc
  seq : Nat
  task : Nat
  plane : Nat
  row : Nat
  pos : Nat
  cut : Bool
  out : List Txn
  deriving DecidableEq, Repr

/-- A semaphore wait of a core: SWAIT or a BLK wait not yet granted (05 R121, R144). -/
structure SemWait where
  sem : Nat
  amount : BitVec 32
  dec : Bool
  blk : Bool
  cls : Nat
  word : BitVec 64
  deriving DecidableEq, Repr

/-- An open block of a core (05 R121, R123). -/
structure Block where
  cls : Nat
  pc : Nat
  word : BitVec 64
  deriving DecidableEq, Repr

/-- An outstanding ALD or AST to an address outside the own core store (05 R149). -/
structure Remote where
  load : Bool
  reg : Nat
  addr : Nat
  value : BitVec 64
  seq : Nat
  deriving DecidableEq, Repr

/-- A tracker slot of a core (03 R57). -/
structure Slot where
  tid : BitVec 32
  perChan : Bool
  shOff : Nat
  shSize : Nat
  chans : Nat
  amax : SMap F32
  elements : Nat
  saturated : Nat
  underflow : Nat
  nonfinite : Nat
  tiles : Nat
  rerun : Bool
  deriving DecidableEq, Repr

/-- One operand of an MMA as the shadow check keeps it: its elements in BF16 form, k-major, and the scale of each column; or its widened codes, where it has no BF16 form (03 R75). -/
structure ShadowSide where
  v : List F32
  scale : Option (List F32)
  deriving DecidableEq, Repr

/-- What one MMA has fed into an accumulator, for the shadow check: its inner depth, its operands and the FP32 tile it was loaded with (03 R75). -/
structure Feed where
  k : Nat
  l : ShadowSide
  r : ShadowSide
  init : List F32
  deriving DecidableEq, Repr

/-- A shadow tile waiting for its recomputation (03 R75, 05 R132): the FP32 tile that the sum starts from, the operands in real units as FP32 codes, k-major, and the narrow result after descaling. -/
structure ShadowTile where
  ctx : Nat
  run : Nat
  tid : BitVec 32
  k : Nat
  init : List F32
  l : List F32
  r : List F32
  yn : List F32
  deriving DecidableEq, Repr

/-- The BF16 form that the quantiser keeps of an element it wrote in a narrow format: the narrow code, the form, and the scale it used (03 R75). -/
structure Form where
  code : Nat
  bf : BitVec 16
  scale : F32
  deriving DecidableEq, Repr

/-- The task a core runs or holds: its RUN, its id, and its place in the code (04 R106). -/
structure TaskRun where
  run : Nat
  tid : Nat
  deriving DecidableEq, Repr

/-- The compatibility-mode record of an open layer (03 R70, R71). -/
structure LayerRun where
  id : BitVec 32
  seq : Nat
  blkPc : Nat
  slotsPO : SMap (Option (BitVec 32))
  rerun : Bool
  done : Bool
  incs : SMap Nat
  decs : SMap Nat
  produced : SMap (Option (BitVec 32 × Nat))
  pending : Bool
  deriving DecidableEq, Repr

/-- One core (04 R83, 05 R118). -/
structure Core where
  /-- context whose work the core holds | Fin 16 option | 05 R118 | none (no task) -/
  ctx : Option Nat := none
  /-- task run or held | record | 04 R110 | none -/
  task : Option TaskRun := none
  /-- instruction buffer, the task's code block | up to 8,192 x 64 | 04 R98, 05 R115 | empty (DESIGN CHOICE log 3) -/
  code : List (BitVec 64) := []
  /-- word offset of the next instruction | 13 bits | 05 R117, R126 | 0 (DESIGN CHOICE log 3) -/
  pc : Nat := 0
  /-- A0 to A31 | 32 x 64 | 05 R118 | 0 -/
  a : SMap (BitVec 64) := []
  /-- T0 to T15 tile descriptors | 16 x 64 | 05 R118, R119 | 0 -/
  t : SMap (BitVec 64) := []
  /-- S0 to S2047 | 2,048 x 32 | 03 R51 | 0x3F80_0000 -/
  s : SMap F32 := []
  /-- L0 to L7 loop counters | 8 x 32 | 05 R118 | 0 -/
  l : SMap (BitVec 32) := []
  /-- F0 to F7 | 8 x 1 | 05 R118 | 0 -/
  f : SMap Bool := []
  /-- issue queues of the vector and update units, MA0, MA1, and DMA, semaphores and collectives | 16 entries each | 04 R98, R499 | empty -/
  vq : List QEntry := []
  mq0 : List QEntry := []
  mq1 : List QEntry := []
  dq : List QEntry := []
  /-- queue whose being full holds the sequencer | 2 bits | 04 R499 | none -/
  seqHeld : Option Nat := none
  /-- program-order number of the next instruction | model's own | 04 R98 | 0 -/
  nextSeq : Nat := 0
  /-- accumulators held in place by KEEP on MA0 and MA1, row-major | 2 x 4,096 x 32 | 04 R91, 05 R118, R131 | none held -/
  acc0 : Option (List F32) := none
  acc1 : Option (List F32) := none
  /-- operands that have fed the accumulators of MA0 and MA1, for the shadow check | lists | 03 R75 | none -/
  feed0 : List Feed := []
  feed1 : List Feed := []
  /-- program-order KEEP state of MA0 and MA1 for the checks of R131 | 2 bits | 05 R131 | 0 -/
  keep0 : Bool := false
  keep1 : Bool := false
  /-- an accumulator of MA0 and MA1 kept by KEEP that no MMA with INIT 2 and KEEP 0 has taken yet | 2 bits | 05 R131 | 0 -/
  owe0 : Bool := false
  owe1 : Bool := false
  /-- drain latch of MA0 and MA1 still being written | 2 x (1 bit) | 04 R91, R93 | 0 -/
  latch0 : Bool := false
  latch1 : Bool := false
  /-- place in program order of the MMA whose tile each latch drains | model's own | 05 R145, R146 | 0 -/
  drain0 : Nat := 0
  drain1 : Nat := 0
  /-- a completed instruction whose copy to the latch is held (R93): its drain work | record | 04 R93 | none -/
  wait0 : Option (List F32 × MF × BitVec 64) := none
  wait1 : Option (List F32 × MF × BitVec 64) := none
  /-- pending DMA descriptors | up to 32 | 04 R100 | empty -/
  dma : List DmaPend := []
  /-- outstanding remote ALD and AST | list | 05 R149 | empty -/
  remote : List Remote := []
  /-- the wait the core stands at | record | 05 R121, R144 | none -/
  wait : Option SemWait := none
  /-- the open block and the array clocks it has counted | class, offset, word, 22 bits | 05 R121, R123 | none, 0 -/
  block : Option Block := none
  clocks : Nat := 0
  /-- END executed, waiting for the task's DMA | 1 bit | 05 R121 | 0 -/
  ended : Bool := false
  /-- the last instruction was BLK (LAYER open must follow it) | 1 bit | 05 R143 | 0 -/
  afterBlk : Bool := false
  /-- open layer | record | 05 R143, 03 R70 | none -/
  layer : Option LayerRun := none
  /-- tracker slots | 8 | 03 R57, R59 | none open -/
  slots : SMap (Option Slot) := []
  /-- program-order open slots for the checks of TOPEN, TCLOSE and END | 8 x (id, scaling) | 05 R142 | none -/
  slotsPO : SMap (Option (BitVec 32)) := []
  /-- output tiles of each open slot's product handed out so far, in program order | 8 counts | 03 R74 | 0 -/
  tilesPO : SMap Nat := []
  /-- shadow tiles waiting for the vector unit | list | 03 R75 | empty -/
  shadow : List ShadowTile := []
  /-- BF16 forms of the narrow elements in the core store, by 4-bit place (twice the byte offset) | map | 03 R75 (log 13) | none -/
  forms : SMap (Option Form) := []
  /-- clock stopped for want of a task | 1 bit | 04 R111 | 0 -/
  clockOff : Bool := false
  /-- stopped for pre-emption at a boundary | 1 bit | 12 R315 | 0 -/
  stopped : Bool := false
  /-- stopped by a fault, a teardown or a fatal fault: issues nothing more | 1 bit | 05 R117, 12 R325, 14 R371 | 0 -/
  halted : Bool := false
  deriving DecidableEq, Repr

/-! ## Context records -/

/-- A scaling-recipe row (03 R62). -/
structure RecipeRow where
  kind : Nat
  fmt : Nat
  hist : Nat
  margin : Nat
  texp : Nat
  uexp : Nat
  shN : Nat
  shR : Nat
  shRun : Nat
  jit : Bool
  group : Bool
  init : F32
  deriving DecidableEq, Repr

/-- A scaling recipe (03 R61, R62). -/
structure Recipe where
  compat : Bool
  initLs : F32
  cleanRun : Nat
  rows : List RecipeRow
  deriving DecidableEq, Repr

/-- A task descriptor (04 R106). -/
structure TaskDesc where
  entry : Nat
  len : Nat
  prio : Nat
  pin : Bool
  home : Nat
  deps : Nat
  tid : Nat
  arg : BitVec 64
  succ : List Nat
  sem : Nat
  deriving DecidableEq, Repr

/-- An update rule (07 R169). -/
structure Rule where
  kind : Nat
  mfmt : Nat
  lrx : Nat
  gfx : Nat
  bc1x : Nat
  bc2x : Nat
  wd : F32
  b1 : F32
  c1 : F32
  b2 : F32
  c2 : F32
  eps : F32
  deriving DecidableEq, Repr

/-- A layer-table entry (06 R159). -/
structure Layer where
  lid : BitVec 32
  frozen : Bool
  row : Nat
  master : BitVec 32
  fwd : BitVec 32
  trans : BitVec 32
  deriving DecidableEq, Repr

/-- A stage descriptor (06 R163). -/
structure Stage where
  ix : Nat
  base : Nat
  global : Nat
  m : Nat
  f : Nat
  sf : Nat
  bk : Nat
  sb : Nat
  first : BitVec 32
  last : BitVec 32
  act : Nat
  quota : Nat
  deriving DecidableEq, Repr

/-- An installed program (13 R363). -/
structure Prog where
  addr : Nat
  len : Nat
  codeOff : Nat
  codeLen : Nat
  tasks : List TaskDesc
  rules : List Rule
  layers : List Layer
  stages : List Stage
  recipe : Recipe
  deriving DecidableEq, Repr

/-- A task's progress within a RUN (04 R107, 06 R164). `st`: 0 waiting, 1 runnable or taken, 2 completed. -/
structure TaskProg where
  tid : Nat
  count : Nat
  st : Nat
  deriving DecidableEq, Repr

/-- A stage's admission state within a RUN (06 R164): next micro-batch to admit, and micro-batches in flight. -/
structure StageProg where
  ix : Nat
  next : Nat
  flight : List Nat
  deriving DecidableEq, Repr

/-- A RUN in progress (13 R364). `rerun`: the layers it has run again (03 R71). `scaleIx`: the serving index of the non-step RUN at whose admission the scales in force were formed (03 R69). -/
structure Run where
  id : Nat
  tag : BitVec 16
  epoch : Nat
  step : Bool
  argOff : BitVec 64
  latched : Nat
  relFirst : Nat
  relCount : Nat
  released : Bool
  replay : Bool
  serveIx : Nat
  scaleIx : Nat
  tasks : List TaskProg
  stages : List StageProg
  reserved : Nat
  ran : Nat
  seq : Nat
  rerun : List (BitVec 32)
  deriving DecidableEq, Repr

/-- A runnable task (04 R107, R108). `pooled` false: queued in the task area. -/
structure PoolTask where
  run : Nat
  tid : Nat
  quarter : Nat
  prio : Nat
  pin : Bool
  order : Nat
  pooled : Bool
  deriving DecidableEq, Repr

/-- A tensor's counts (03 R57). -/
structure Totals where
  elements : Nat := 0
  saturated : Nat := 0
  underflow : Nat := 0
  nonfinite : Nat := 0
  deriving DecidableEq, Repr

/-- A tensor's pending totals of one RUN (03 R58, R60, R66, R76). `shadow` is the shadow-run counter as the RUN has left it. -/
structure Pend where
  chans : Nat := 0
  amax : SMap F32 := []
  tot : Totals := {}
  farOff : Bool := false
  groupFar : Bool := false
  shadowFar : Bool := false
  shadow : Option Nat := none
  deriving DecidableEq, Repr

/-- A scaling record (03 R58, R69, R72). -/
structure ScaleRec where
  /-- scale of each channel (channel 0 for per-tensor scaling), absent when never formed -/
  scales : SMap (Option F32) := []
  /-- the same for non-step RUNs, from the serving history -/
  sscales : SMap (Option F32) := []
  /-- step history of each channel: (epoch, amax), newest first -/
  hist : SMap (List (Nat × F32)) := []
  /-- serving history of each channel: (serving index, amax) -/
  serve : SMap (List (Nat × F32)) := []
  /-- shadow-run counter -/
  shadowRun : Nat := 0
  /-- last step's totals -/
  last : Totals := {}
  /-- pending totals by RUN -/
  pends : SMap (Option Pend) := []
  /-- just-in-time scales fixed, by step epoch, or by 2^48 plus the serving index -/
  jit : SMap (SMap (Option F32)) := []
  /-- scale that the codes of each channel of a copy of weights carry: the one it was last quantised with (06 R156) -/
  carried : SMap (Option F32) := []
  /-- there was a step history, and a serving history, as the scales in force were formed (03 R69, R72) -/
  stepped : Bool := false
  served : Bool := false
  deriving DecidableEq, Repr

/-- A closed slot on its way to the merge, and its TCLOSE's place in program order (03 R58, R70). -/
structure Closed where
  slot : Slot
  core : Nat
  run : Nat
  seq : Nat
  deriving DecidableEq, Repr

/-- A journal entry (07 R182). -/
structure JEntry where
  epoch : Nat
  tid : BitVec 32
  elem : BitVec 64
  ng : Nat
  deriving DecidableEq, Repr

/-- A retention record (07 R181). -/
structure Retention where
  epoch : Nat
  decision : Bool
  scale : F32
  regions : List (Nat × Nat)
  deriving DecidableEq, Repr

/-- The commit wave of a context (07 R183): the step, each word's minimum and maximum so far, the stage, and the members heard in it. -/
structure Wave where
  epoch : Nat
  mins : List (BitVec 64)
  maxs : List (BitVec 64)
  stage : Nat
  heard : List (BitVec 16)
  deriving DecidableEq, Repr

/-- A submission slot taken from the ring: its 128 bytes (13 R350). -/
structure Taken where
  bytes : List Byte
  seq : BitVec 64
  ports : BitVec 2
  deriving DecidableEq, Repr

/-- A command in progress (13 R352). `running`: its own row has run and it waits for its end. -/
structure Cmd where
  opcode : Nat
  tag : BitVec 16
  params : List Byte
  fence : Bool
  running : Bool
  seq : BitVec 64
  ports : BitVec 2
  deriving DecidableEq, Repr

/-- A completion entry waiting for the ring, or for a management port (13 R354). -/
structure Comp where
  opcode : Nat
  tag : BitVec 16
  status : Nat
  res0 : BitVec 64
  res1 : BitVec 64
  cacheFail : Bool
  extra : List Byte
  seq : BitVec 64
  ports : BitVec 2
  deriving DecidableEq, Repr

/-- A region of a state image (15 R397). -/
structure Region where
  addr : Nat
  size : Nat
  bytes : Mem
  deriving DecidableEq, Repr

/-- A state image (15 R397, R398). -/
structure Image where
  kind : Nat
  scaling : Bool
  label : BitVec 64
  step : Nat
  serial : BitVec 64
  length : Nat
  ctx : Nat
  regs : List (Nat × BitVec 64)
  decision : Bool
  scale : F32
  prog : Option Prog
  recs : SMap (Option ScaleRec)
  serveCount : Nat
  /-- carried with the scaling records: where the scales of loaded copies stand in T1, and the scale registers by core (06 R156, 03 R51, log 9) -/
  copies : SMap (Option Nat)
  sregs : SMap (SMap F32)
  regions : List Region
  /-- the bytes of an image that came from outside: absent for one that the module took itself -/
  raw : Option Mem := none
  deriving DecidableEq, Repr

/-- A snapshot generation (15 R402 to R404, R419). -/
structure Gen where
  image : Option Image := none
  valid : Bool := false
  newest : Bool := false
  writing : Bool := false
  units : Nat := 0
  /-- SM3 digest of the whole plaintext image, in the ledger (15 R402) -/
  digest : BitVec 256 := 0
  /-- units of an import in progress, and the next one (15 R416) -/
  raw : Mem := []
  next : Nat := 0
  deriving DecidableEq, Repr

/-- A snapshot, restore, export, import or stream in progress (15 R400). `kind`: 1 stop to T2, 2 stop to the fabric, 3 drain, 4 local restore, 5 restore from a stream, 6 stream of a generation, 7 export, 8 import. -/
structure SnapOp where
  kind : Nat
  tag : BitVec 16
  gen : Nat := 0
  image : Option Image := none
  /-- moment of step 4 of a snapshot, and whether it has come (15 R401) -/
  start : Nat := 0
  begun : Bool := false
  /-- kind 0x02 is selected (15 R400) -/
  retained : Bool := false
  /-- T2 staging: base and 2 MiB units (15 R401) -/
  staging : List (Nat × Nat) := []
  /-- pages and first unit of an export or import (15 R416) -/
  first : Nat := 0
  pages : Nat := 0
  off : Nat := 0
  /-- peer, bytes sent, bytes granted, and bytes arrived of a stream (15 R410) -/
  peer : BitVec 16 := 0
  sent : Nat := 0
  grant : Nat := 0
  got : Nat := 0
  rx : Mem := []
  /-- the regions of a restore have been taken (15 R406) -/
  placed : Bool := false
  deriving DecidableEq, Repr

/-- Scheduling and accounting of a context (12). -/
structure CtxSched where
  /-- STATE 0 FREE, 1 ACTIVE, 2 RETIRING | 2 | 12 R307, R332 | 0 -/
  st : Nat := 0
  /-- CLASS | 2 | 12 R310, R332 | 0 -/
  cls : Nat := 0
  /-- SLICE in ms | 7 | 12 R310, R332 | 0 -/
  slice : Nat := 0
  /-- context key | 32 | 13 R338, R362 | 0 (DESIGN CHOICE log 3) -/
  key : BitVec 32 := 0
  /-- suspended by PREEMPT | 1 | 13 R364 | 0 -/
  suspended : Bool := false
  /-- the fill of a retiring slot has begun | 1 | 12 R325 | 0 -/
  filling : Bool := false
  /-- DEBT Q0 to Q3 | 4 x 16 | 12 R318, R333 | 0 -/
  debt : SMap Nat := []
  /-- ACCT_WAIT | 64 | 12 R323, R334 | 0 -/
  wait : Nat := 0
  /-- ACCT_PREEMPT | 64 | 12 R323, R334 | 0 -/
  preempt : Nat := 0
  /-- ACCT_USED | 64 | 12 R323, R334 | 0 -/
  used : Nat := 0
  /-- ACCT_OVERRUN | 64 | 12 R323, R334 | 0 -/
  overrun : Nat := 0
  /-- ACCT_ENERGY in 1/40,000 uJ (log 52) | 64 + fraction | 12 R323, R324, R334 | 0 -/
  energy : Nat := 0
  /-- RETIRE.ABSORBED | 31 | 12 R335 | 0 -/
  absorbed : Nat := 0
  /-- drain marks not yet passed: (port, VC) | list | 12 R325, R327 | none -/
  marks : List (Nat × Nat) := []
  /-- the 1 ms of R327 has run out | 1 | 12 R327 | 0 -/
  markTimeout : Bool := false
  /-- the destroying command of the administrative context | tag | 12 R325 | none -/
  destroy : Option (BitVec 16) := none
  deriving DecidableEq, Repr

/-- Arithmetic status and counts of a context (02, 03, 04, 07, 11). -/
structure CtxArith where
  /-- OVF | 1 | 02 R36 | 0 -/
  ovf : Bool := false
  /-- INV | 1 | 02 R36 | 0 -/
  inv : Bool := false
  /-- SAT | 1 | 02 R36 | 0 -/
  sat : Bool := false
  /-- SAT_COUNT.COUNT | 48 | 02 R37 | 0 -/
  satCount : Nat := 0
  /-- SHADOW_COUNT.CHECKED | 32 | 03 R77 | 0 -/
  checked : Nat := 0
  /-- SHADOW_COUNT.EXCEEDED | 31 | 03 R77 | 0 -/
  exceeded : Nat := 0
  /-- RESCALE_COUNT.FAR_OFF | 24 | 03 R78 | 0 -/
  farOff : Nat := 0
  /-- RESCALE_COUNT.SHADOW | 24 | 03 R78 | 0 -/
  shadow : Nat := 0
  /-- RESCALE_COUNT.RERUN | 15 | 03 R78 | 0 -/
  rerun : Nat := 0
  /-- TASK_COUNT.TAKEN | 32 | 04 R112 | 0 -/
  taken : Nat := 0
  /-- TASK_COUNT.STOLEN | 31 | 04 R112 | 0 -/
  stolen : Nat := 0
  /-- UPDATE_COUNT.SKIPPED | 24 | 07 R190 | 0 -/
  skipped : Nat := 0
  /-- UPDATE_COUNT.REPLAYED | 24 | 07 R190 | 0 -/
  replayed : Nat := 0
  /-- UPDATE_COUNT.CLAMPED | 15 | 07 R190 | 0 -/
  clamped : Nat := 0
  /-- COLL_COUNT.COMPLETED | 32 | 11 R303 | 0 -/
  collDone : Nat := 0
  /-- SERVE_COUNT.COUNT | 48 | 03 R69, R80 | 0 -/
  serveCount : Nat := 0
  deriving DecidableEq, Repr

/-- Step and commit state of a context (07, 11). -/
structure CtxStep where
  /-- STEP_EPOCH.APPLIED | 48 | 07 R187 | 0 -/
  applied : Nat := 0
  /-- STEP_EPOCH.DECIDED | 1 | 07 R187 | 0 -/
  decided : Bool := false
  /-- STEP_EPOCH.OVERFLOW, the latched decision | 1 | 07 R187 | 0 -/
  decision : Bool := false
  /-- STEP_EPOCH.LATE | 1 | 07 R187 | 0 -/
  late : Bool := false
  /-- the module's overflow bit of the step | 1 | 07 R174 | 0 -/
  ovfBit : Bool := false
  /-- the contribution to the decision is fixed | 1 | 07 R175 | 0 -/
  fixed : Bool := false
  /-- a STEPCTL collective of the step has issued | 1 | 11 R289 | 0 -/
  stepctl : Bool := false
  /-- COMMIT_EPOCH.COMMITTED | 48 | 07 R188 | 0 -/
  committed : Nat := 0
  /-- COMMIT_EPOCH.WAVE_PENDING and the wave | record | 07 R183, R188 | none -/
  wave : Option Wave := none
  /-- LOSS_SCALE.SCALE | 32 | 07 R186 | 0 -/
  scale : F32 := 0
  /-- LOSS_SCALE.CLEAN | 20 | 07 R186 | 0 -/
  clean : Nat := 0
  /-- JOB_SEED | 64 | 07 R189 | 0 -/
  seed : BitVec 64 := 0
  /-- STEP_BLOCK.ADDR (whole address) | 48 | 07 R189 | 0 -/
  block : Nat := 0
  /-- an aborted attempt at this epoch makes its next RUN a replay | 48 option | 07 R181 | none -/
  aborted : Option Nat := none
  /-- update journal and its reservation | 2 x 1,048,576 entries | 07 R182 | empty -/
  journal : List JEntry := []
  journalRes : Bool := false
  /-- retention records | list | 07 R181 | none -/
  retained : List Retention := []
  /-- LAYOUT_EPOCH.CURRENT | 16 | 11 R302 | 0 -/
  layout : Nat := 0
  /-- LAYOUT_EPOCH.RESHARDING: the RESHARD's tag, and whether its PERMUTE has issued | 1 | 11 R295, R302 | 0 -/
  reshard : Option (BitVec 16 × Bool) := none
  deriving DecidableEq, Repr

/-- Memory books of a context (08, 09). -/
structure CtxMem where
  /-- QUOTA_T1 LIMIT and USED | 32 + 32 | 09 R244 | 0 -/
  lim1 : Nat := 0
  used1 : Nat := 0
  /-- QUOTA_T2 LIMIT and USED | 32 + 32 | 09 R244 | 0 -/
  lim2 : Nat := 0
  used2 : Nat := 0
  /-- QUOTA_T3 LIMIT and USED | 32 + 32 | 09 R244 | 0 -/
  lim3 : Nat := 0
  used3 : Nat := 0
  /-- ADAPTER_SETS | 64 | 08 R215 | 0 -/
  adapters : BitVec 64 := 0
  /-- save-area part bases | 4 addresses | 09 R501, 12 R316 | none -/
  save : SMap (Option Nat) := []
  /-- control block base | address | 09 R501 | none -/
  control : Option Nat := none
  /-- task area (base, 2 MiB units) | record | 09 R501 | none -/
  taskArea : Option (Nat × Nat) := none
  /-- scaling area units, each 2 MiB, newest first | addresses | 09 R501 | none -/
  scaling : List Nat := []
  deriving DecidableEq, Repr

/-- Itquel rings and commands of a context (13). -/
structure CtxHost where
  /-- SQ_TAIL | 32 | 13 R343 | 0 -/
  sqTail : BitVec 32 := 0
  /-- SQ_HEAD | 32 | 13 R343 | 0 -/
  sqHead : BitVec 32 := 0
  /-- CQ_HEAD | 32 | 13 R343 | 0 -/
  cqHead : BitVec 32 := 0
  /-- CQ_TAIL | 32 | 13 R343 | 0 -/
  cqTail : BitVec 32 := 0
  /-- NOTIFY queue pair and ENABLE | 24 + 1 | 13 R343, R356 | 0 -/
  notifyQp : BitVec 24 := 0
  notifyEn : Bool := false
  /-- slots taken and not yet started | list | 13 R351, R352 | empty -/
  taken : List Taken := []
  /-- commands in progress | up to 64 | 13 R352 | empty -/
  cmds : List Cmd := []
  /-- completions waiting for the ring | list | 13 R355 | empty -/
  comps : List Comp := []
  deriving DecidableEq, Repr

/-- Snapshot registers and generations of a context slot (15). -/
structure CtxSnap where
  /-- RESOLE.PEER | 16 | 15 R417 | 0 -/
  peer : BitVec 16 := 0
  /-- RESOLE.ROLE | 3 | 15 R417 | 0 -/
  role : Nat := 0
  /-- RESOLE.RETAINED | 1 | 15 R417 | 0 -/
  retained : Bool := false
  /-- RESOLE.FIRST_PAGE | 17 | 15 R417 | 0 -/
  firstPage : Nat := 0
  /-- RESOLE.PAGES | 17 | 15 R417 | 0 -/
  pages : Nat := 0
  /-- RESOLE_OFF.OFFSET | 32 | 15 R418 | 0 -/
  offset : Nat := 0
  /-- RESOLE_OFF.DONE | 32 | 15 R418 | 0 -/
  done : Nat := 0
  /-- generation 0 (ledger, T3) | record | 15 R402, R419 | empty: manufacture (DESIGN CHOICE log 3) -/
  g0 : Gen := {}
  /-- generation 1 (ledger, T3) | record | 15 R402, R419 | empty: manufacture (DESIGN CHOICE log 3) -/
  g1 : Gen := {}
  /-- the snapshot, restore or stream command in progress | record | 15 R400 to R411 | none -/
  op : Option SnapOp := none
  /-- a drain in the background | record | 15 R402 | none -/
  drain : Option SnapOp := none
  deriving DecidableEq, Repr

/-- One context slot (12 R306 to R309). -/
structure Ctx where
  sched : CtxSched := {}
  arith : CtxArith := {}
  step : CtxStep := {}
  mem : CtxMem := {}
  host : CtxHost := {}
  snap : CtxSnap := {}
  /-- installed program | record | 13 R363 | none -/
  prog : Option Prog := none
  /-- RUNs in progress | list | 13 R364 | none -/
  runs : List Run := []
  /-- pools of the four quarters and the queue in the task area | 4 x 4,096 and list | 04 R107 | empty -/
  pool : List PoolTask := []
  /-- number of the next task to become runnable, and of the next RUN | model's own order | 04 R107, R108 | 0 -/
  order : Nat := 0
  nextRun : Nat := 0
  /-- scaling records by tensor id | up to 16,384 | 03 R58, R59 | none -/
  recs : SMap (Option ScaleRec) := []
  /-- loaded copies that no quantiser has produced since: where each one's scales stand in T1, by tensor id | map | 06 R156, 08 R192 | none -/
  copies : SMap (Option Nat) := []
  /-- closed slots on their way to the merge | list | 03 R58 | empty -/
  mergeQ : List Closed := []
  /-- the next step's scales have been formed for epoch | 48 option | 03 R68 | none -/
  formed : Option Nat := none
  /-- semaphores 0 to 255 | 256 x 32 | 05 R144, 12 R336 | 0 -/
  sems : SMap (BitVec 32) := []
  /-- saved core records by core number | 320 records | 12 R316 | none -/
  saved : SMap (Option Core) := []
  deriving DecidableEq, Repr

/-! ## Link ports and collectives -/

/-- An item of an egress queue: a flit (with whether it enters a ring, 10 R260, and the port in whose input buffer it still holds a slot, 36 none, 10 R259) or a drain mark of a context (12 R325). -/
inductive EItem where
  | flit (f : Flit) (enters : Bool) (holder : Nat)
  | mark (ctx : Nat)
  deriving DecidableEq, Repr

/-- One link port (10). -/
structure Port where
  /-- CTL.ENABLE | 1 | 10 R275 | 1 -/
  enable : Bool := true
  /-- CTL.HOLD | 1 | 10 R275 | 0 -/
  hold : Bool := false
  /-- STAT.STATE 0 DISABLED, 1 DETECT, 2 EQUALISE, 3 ALIGN, 4 EXCHANGE, 5 HELD, 6 ACTIVE, 7 DEGRADE, 8 DOWN, 9 FAILED | 4 | 10 R249, R276 | 0 -/
  st : Nat := 0
  /-- STAT.LANES | 8 | 10 R276 | 0 -/
  lanes : BitVec 8 := 0
  /-- STAT.PEER | 16 | 10 R276 | 0 -/
  peer : BitVec 16 := 0
  /-- STAT.PEER_PORT | 6 | 10 R276 | 0 -/
  peerPort : Nat := 0
  /-- STAT.RTT | 16 | 10 R276 | 0 -/
  rtt : Nat := 0
  /-- PEER_ID.SERIAL | 64 | 10 R277 | 0 -/
  serial : BitVec 64 := 0
  /-- HLT_PEER_FENCE.EPOCH | 32 | 14 R396 | 0 -/
  peerFence : BitVec 32 := 0
  /-- the peer's last EXCHANGE: group, MEMBER, version epoch | 16 + 1 + 32 | 10 R248 | 0 (DESIGN CHOICE log 3) -/
  peerGroup : BitVec 16 := 0
  peerMember : Bool := false
  peerVersion : BitVec 32 := 0
  /-- an exchange has passed its checks and waits for the verdict | 1 | 10 R248 | 0 -/
  verdict : Bool := false
  /-- ERR.REFUSED | 16 | 10 R278 | 0 -/
  refused : Nat := 0
  /-- ERR.REPLAY | 16 | 10 R278 | 0 -/
  replays : Nat := 0
  /-- ERR.DEGRADE | 8 | 10 R278 | 0 -/
  degrades : Nat := 0
  /-- ERR.LOST | 8 | 10 R278 | 0 -/
  lost : Nat := 0
  /-- ERR.FEC_UNCORR | 15 | 10 R278 | 0 -/
  fecUncorr : Nat := 0
  /-- next SEQ to send | 12 | 10 R255 | 0 -/
  txSeq : BitVec 12 := 0
  /-- next SEQ expected | 12 | 10 R255 | 0 -/
  rxSeq : BitVec 12 := 0
  /-- a NAK has been sent since the last accepted flit | 1 | 10 R255 | 0 -/
  nakSent : Bool := false
  /-- NAKs that wait to be sent | count | 10 R255 | 0 -/
  nakDue : Nat := 0
  /-- replay buffer, oldest first | up to 2,048 flits | 10 R255 | empty -/
  rbuf : List Flit := []
  /-- flits of the running resend still to be sent | list | 10 R255 | empty -/
  resend : List Flit := []
  /-- replays begun at the oldest SEQ values | counts by SEQ | 10 R256 | 0 -/
  began : SMap Nat := []
  /-- LINKCTL flits waiting | list | 10 R261 | empty -/
  ctlq : List Flit := []
  /-- egress queues of VC0 to VC5 | lists | 10 R258, R261 | empty -/
  egress : SMap (List EItem) := []
  /-- credits held for VC0 to VC5 | 6 counts | 10 R259 | 0 -/
  credits : SMap Nat := []
  /-- slots taken in the input buffers of VC0 to VC5, of 64, 512, 512, 384, 384 and 128 | 6 counts | 10 R258, R259 | 0 -/
  occ : SMap Nat := []
  /-- cumulative slots freed for VC0 to VC5 | 6 x 12 | 10 R259 | 0 -/
  freed : SMap (BitVec 12) := []
  /-- last cumulative counts received | 6 x 12 | 10 R259 | 0 -/
  heard : SMap (BitVec 12) := []
  /-- channel whose freed count the next flit carries | 3 | 10 R259 | 0 -/
  crRot : Nat := 0
  /-- weighted round robin: flits left to each channel in this round | 5 counts | 10 R261 | 0 (DESIGN CHOICE log 3) -/
  wrr : SMap Nat := []
  /-- lane named by a degrade in progress | 3 | 10 R268 | none -/
  degLane : Option Nat := none
  /-- a HANDOVER for this lost port is awaited | 1 | 10 R269, R270 | 0 -/
  handover : Bool := false
  /-- direction the lost port served (for its handover) | 3 | 10 R269 | none -/
  lostDir : Option Nat := none
  /-- drain marks of this port whose flits ahead have been sent: context, channel, SEQ of the last of them, none where every one was acknowledged | list | 12 R327 | none -/
  marks : List (Nat × Nat × Option (BitVec 12)) := []
  /-- the port re-runs EXCHANGE after having been ACTIVE | 1 | 10 R250 | 0 -/
  rerun : Bool := false
  /-- HOLD or ENABLE brings the port to this state once its handover has ended | 4 | 10 R271 | none -/
  after : Option Nat := none
  deriving DecidableEq, Repr

/-- A direction entry (10 R273). `ports` defaults to the assignment of 01 R17 in `Link`. -/
structure Direc where
  /-- PORTS | 36 | 10 R266, R273 | by 01 R17 -/
  ports : BitVec 36
  /-- DETOUR | 1 | 10 R273 | 0 -/
  detour : Bool
  /-- DOWN | 1 | 10 R273 | 0 -/
  down : Bool
  /-- time of the last RESETTING notice | us | 10 R250, R270 | none -/
  resetting : Option Nat
  /-- flits of held flows, not yet given an egress port, with the port each arrived on and holds an input slot of (36 none) | list | 10 R259, R269 | empty -/
  held : List (Flit × Nat)
  deriving DecidableEq, Repr

/-- A seen-filter entry (11 R299, R305). -/
structure Seen where
  subject : BitVec 16
  lowest : BitVec 16
  epoch : BitVec 32
  origin : Bool
  primary : Bool
  dup : Nat
  tally : Nat
  deriving DecidableEq, Repr

/-- A whole message delivered to this module (11 R288): the port it came through, its head fields and its words after the head flit's four. -/
structure Msg where
  port : Nat
  vc : Nat
  ctx : Nat
  src : BitVec 16
  dst : BitVec 16
  tag : BitVec 32
  w0 : BitVec 64
  w1 : BitVec 64
  w2 : BitVec 64
  w3 : BitVec 64
  data : List (BitVec 64)
  deriving DecidableEq, Repr

/-- A message being reassembled on one flow (11 R288). -/
structure Reasm where
  port : Nat
  dir : Nat
  vc : Nat
  src : BitVec 16
  msg : Msg
  deriving DecidableEq, Repr

/-- A GRANT held pending (11 R287, R297). -/
structure PGrant where
  msg : Msg
  deriving DecidableEq, Repr

/-- Fabric state outside the ports (10, 11). -/
structure Link where
  /-- GROUP.COORD | 16 | 10 R272 | 0 -/
  coord : BitVec 16 := 0
  /-- GROUP.SIZE_M1 | 16 | 10 R272 | 0 -/
  sizeM1 : BitVec 16 := 0
  /-- GROUP.GROUP | 16 | 10 R272 | 0 -/
  group : BitVec 16 := 0
  /-- GROUP.MEMBER | 1 | 10 R272 | 0 -/
  member : Bool := false
  /-- a JOIN_GROUP with ADOPT announces this coordinate | 1 | 15 R413 | 0 -/
  adopt : Bool := false
  /-- FAULT_EPOCH.EPOCH | 32 | 11 R304 | 0 -/
  faultEpoch : BitVec 32 := 0
  /-- DROP.UNREACH | 32 | 10 R274 | 0 -/
  unreach : Nat := 0
  /-- DROP.HOPLIM | 16 | 10 R274 | 0 -/
  hoplim : Nat := 0
  /-- DROP.PROTO | 15 | 10 R274 | 0 -/
  proto : Nat := 0
  /-- seen-filter, oldest first | 64 entries | 11 R299, R305 | none -/
  seen : List (Nat × Seen) := []
  /-- messages delivered and not yet taken up | list | 11 R288 | empty -/
  inbox : List Msg := []
  /-- messages being reassembled | list | 11 R288 | empty -/
  reasm : List Reasm := []
  /-- LINKCTL flits accepted and not yet taken up: port, and payload words 0 to 2 | list | 10 R253 | empty -/
  ctlIn : List (Nat × BitVec 64 × BitVec 64 × BitVec 64) := []
  /-- GRANTs held pending | up to 1,024 | 11 R297 | empty -/
  grants : List PGrant := []
  deriving DecidableEq, Repr

/-- What a rail has still to send: a range of the values it holds, bytes to pass on, or the end of a shard's piece with its tag (11 R285, R288). -/
inductive RItem where
  | own (off len : Nat)
  | fwd (off : Nat) (data : List Byte)
  | fin (off : Nat) (word : BitVec 64) (tag : BitVec 64)
  deriving DecidableEq, Repr

/-- One rail of a ring collective (11 R284, R285, R287). Windows are counted by dimension. -/
structure Rail where
  /-- stage in progress, as an index into the stage list; its length when the rail is done -/
  stage : Nat := 0
  /-- bytes received, combined and consumed in the stage, and shard ends received in it -/
  got : Nat := 0
  ends : Nat := 0
  /-- what is still to be sent in the stage, in order -/
  sendQ : List RItem := []
  /-- cumulative bytes sent downstream, and granted by the downstream neighbour -/
  sent : SMap Nat := []
  heard : SMap Nat := []
  /-- cumulative bytes consumed from upstream, and granted to the upstream neighbour -/
  taken : SMap Nat := []
  granted : SMap Nat := []
  /-- values the rail holds after its stages, by byte offset in the rail part -/
  vals : Mem := []
  deriving DecidableEq, Repr

/-- One transfer of a SEND, RECEIVE or PERMUTE (11 R281, R296). `met`: its GRANT has been sent, or has arrived and its length matches; a SEND or RECEIVE of no bytes needs none. -/
structure P2p where
  send : Bool
  peer : BitVec 16
  addr : Nat
  len : Nat
  done : Nat := 0
  grant : Nat := 0
  met : Bool := false
  deriving DecidableEq, Repr

/-- A piece received by a gather, by (shard index, rail) (11 R291). -/
structure Piece where
  shard : Nat
  rail : Nat
  tag : BitVec 64
  crc : BitVec 32
  deriving DecidableEq, Repr

/-- A message of a control section that waits for its window: dimension, word offset, words (11 R287, R289). -/
structure CtlMsg where
  dim : Nat
  off : Nat
  words : List (BitVec 64)
  deriving DecidableEq, Repr

/-- A step control section under reduction (11 R289), and its messages that wait to be sent. -/
structure CtlSec where
  words : List (BitVec 64)
  tids : List (BitVec 32)
  chans : List Nat
  stage : Nat
  heard : Nat
  pos : Nat
  mismatch : Bool
  sendQ : List CtlMsg
  deriving DecidableEq, Repr

/-- An outstanding collective (11 R279). `owner`: 0 a core's COLL, 1 a RESHARD's PERMUTE. `results`: the ranges it writes its result to. -/
structure Coll where
  id : Nat
  ctx : Nat
  epoch : Nat
  layout : Nat
  d : CollDesc
  owner : Nat
  run : Nat
  rails : SMap Rail
  p2p : List P2p
  pieces : List Piece
  ctl : Option CtlSec
  results : List (Nat × Nat)
  deriving DecidableEq, Repr

/-! ## Host attachment -/

/-- A host queue pair (13 R337 to R340). -/
structure Qp where
  ctx : Nat
  port : Nat
  /-- rate limiter in Mb/s as a numerator (over `parts`), rises in a row, and the times of the last notification acted on and sent | 13 R340 -/
  rate : Nat
  rises : Nat
  lastActed : Option Nat
  lastSent : Option Nat
  parts : Nat := 1
  /-- path MTU in bytes | 13 R337 -/
  mtu : Nat := 4096
  deriving DecidableEq, Repr

/-- The owner byte and the sequence byte of a bulk page (13 R345). -/
structure Page where
  owner : Nat := 0
  seq : BitVec 8 := 0
  deriving DecidableEq, Repr

/-- A management command sequence number that was accepted (13 R359). -/
structure Kept where
  seq : BitVec 64
  ports : BitVec 2
  opcode : Nat
  tag : BitVec 16
  comp : Option (List Byte)
  done : Bool
  deriving DecidableEq, Repr

/-- Where a management port sends heartbeats and reports (13 R360). -/
structure Addr where
  ip : BitVec 128
  udp : BitVec 16
  deriving DecidableEq, Repr

/-- Host and management attachment (13). -/
structure HostSt where
  /-- queue pairs by number | up to 1,024 | 13 R337, R338 | none -/
  qps : SMap (Option Qp) := []
  /-- mailbox region bytes of the submission and completion rings, by offset | 512 KiB + 128 KiB | 13 R342 | 0 -/
  rings : Mem := []
  /-- flag array and sequence array | 131,072 x (8 + 8) | 13 R341, R345 | 0 -/
  pages : SMap Page := []
  /-- MBX_HOST_n.UP | 4 x 1 | 13 R365 | 0 -/
  hostUp : SMap Bool := []
  /-- MBX_MGMT_n.UP | 2 x 1 | 13 R367 | 0 -/
  mgmtUp : SMap Bool := []
  /-- MBX_ERR.DISCARDED | 16 | 13 R366 | 0 -/
  discarded : Nat := 0
  /-- MBX_ERR.STALE_DB | 16 | 13 R366 | 0 -/
  stale : Nat := 0
  /-- MBX_ERR.FLAG_REFUSED | 16 | 13 R366 | 0 -/
  flagRefused : Nat := 0
  /-- MBX_ERR.FAULTED | 15 | 13 R366 | 0 -/
  faulted : Nat := 0
  /-- MBX_MGMT_n.REJECTED | 2 x 16 | 13 R367 | 0 -/
  rejected : SMap Nat := []
  /-- MBX_MGMT_n.DUPLICATES | 2 x 16 | 13 R367 | 0 -/
  duplicates : SMap Nat := []
  /-- MBX_MGMT_n.HEARTBEATS | 2 x 24 | 13 R367 | 0 -/
  heartbeats : SMap (BitVec 24) := []
  /-- sequence numbers accepted, newest first | up to 1,024, 256 with completions | 13 R359 | none -/
  kept : List Kept := []
  deriving DecidableEq, Repr

/-! ## Memory books, lasts and loads -/

/-- An allocation (09 R220). `ctx` 16 is the administrative context. -/
structure Alloc where
  ctx : Nat
  tier : Nat
  base : Nat
  units : Nat
  freeing : Bool
  deriving DecidableEq, Repr

/-- A range being filled (09 R230). `done`: the MEM_FREE command that waits, as (context, tag); `retire`: the slot being torn down. -/
structure Fill where
  tier : Nat
  base : Nat
  units : Nat
  waiter : Option (Nat × BitVec 16)
  retire : Option Nat
  deriving DecidableEq, Repr

/-- A correction remembered by a controller, and its table of remapped lines (09 R234, R235). -/
structure Remap where
  valid : Bool
  cause : Nat
  line : Nat
  committed : Bool
  deriving DecidableEq, Repr

/-- Data-integrity state (09). Controllers 0 to 11 are stacks, 12 to 35 channels. -/
structure Ecc where
  /-- bits in error of each T1 and T2 word, by word address | 80-bit code words | 09 R226 | none -/
  bad : SMap Nat := []
  /-- MEM_ECC_T1 SINGLE, DOUBLE, UNCORR | 32, 16, 12 | 09 R238 | 0 -/
  single1 : Nat := 0
  double1 : Nat := 0
  uncorr1 : Nat := 0
  /-- MEM_ECC_T2 SINGLE, DOUBLE, UNCORR | 32, 16, 12 | 09 R238 | 0 -/
  single2 : Nat := 0
  double2 : Nat := 0
  uncorr2 : Nat := 0
  /-- MEM_ECC_LAST ADDR, KIND, FOUND | 45, 2, 2 | 09 R239 | 0 -/
  lastAddr : Nat := 0
  lastKind : Nat := 0
  lastFound : Nat := 0
  /-- MEM_SCRUB passes of T1 and T2 | 24, 24 | 09 R240 | 0 -/
  passes1 : Nat := 0
  passes2 : Nat := 0
  /-- scrub positions of T1 and T2, as word indices | counts | 09 R231, R232 | 0 -/
  pos1 : Nat := 0
  pos2 : Nat := 0
  /-- MEM_NOC REPLAYS and STORE_PAR | 32, 16 | 09 R240 | 0 -/
  nocReplays : Nat := 0
  storePar : Nat := 0
  /-- MEM_INJECT ADDR, FLIPS, PENDING | 45, 2, 1 | 09 R241 | 0 -/
  injAddr : Nat := 0
  injFlips : Nat := 0
  injArmed : Bool := false
  /-- one-bit corrected word addresses each controller remembers, newest first | 36 x 256 | 09 R234 | none -/
  recent : SMap (List Nat) := []
  /-- remap tables in use, oldest first; `committed` entries stand in the ledger | 12 x 64 and 24 x 16 | 09 R234, R235, R243 | ledger: none at manufacture (DESIGN CHOICE log 3) -/
  remaps : SMap (List Remap) := []
  deriving DecidableEq, Repr

/-- One of the two lasts (08 R207, R213). -/
structure Last where
  /-- STATE 0 EMPTY, 1 LOADING, 2 READY, 3 ACTIVE, 4 DRAINING | 3 | 08 R213 | 0 -/
  st : Nat := 0
  /-- INFLIGHT | 16 | 08 R213 | 0 -/
  inflight : Nat := 0
  /-- GEN | 8 | 08 R213 | 0 -/
  gen : BitVec 8 := 0
  /-- SIZE in 2 MiB units | 20 | 08 R213 | 0 -/
  size : Nat := 0
  /-- base of its T1 space | address | 08 R205 | none -/
  base : Option Nat := none
  /-- units charged for its space (SIZE is set when a load completes) | 20 | 08 R205, R207 | 0 -/
  units : Nat := 0
  /-- offsets of the scales of the copies its directory names, by tensor id | map | 08 R192, R206 | none -/
  copies : SMap (Option Nat) := []
  deriving DecidableEq, Repr

/-- MEM_LAST_PTR and the switch in progress (08 R210, R214). -/
structure LastPtr where
  /-- ACTIVE | 1 | 08 R214 | 0 -/
  active : Bool := false
  /-- VALID | 1 | 08 R214 | 0 -/
  valid : Bool := false
  /-- HOLDER | 4 | 08 R214 | 0 -/
  holder : Nat := 0
  /-- HOLDER_EN | 1 | 08 R214 | 0 -/
  holderEn : Bool := false
  /-- SWITCHES | 32 | 08 R214 | 0 -/
  switches : Nat := 0
  /-- accepted LAST_SWITCH commands before their switch point: (issuer, tag, target) | list | 08 R210 | none -/
  pendingSw : List (Nat × BitVec 16 × Nat) := []
  deriving DecidableEq, Repr

/-- A layout descriptor of a raw load (08 R199). -/
structure Layout where
  tid : BitVec 32
  srcFmt : Nat
  kind : Nat
  fmt : Nat
  outs : Nat
  i : Nat
  o : Nat
  stride : Nat
  fwd : Nat
  trans : Nat
  master : Nat
  rank : Nat
  set : Nat
  srcOff : Nat
  deriving DecidableEq, Repr

/-- A package tensor-table entry (08 R195). -/
structure PkgEntry where
  tid : BitVec 32
  kind : Nat
  fmt : Nat
  orient : Nat
  set : Nat
  k : Nat
  c : Nat
  off : Nat
  len : Nat
  scaleOff : Nat
  rank : Nat
  bytes : List Byte
  deriving DecidableEq, Repr

/-- A load in progress (08 R197 to R207). `raw` loads carry layouts and passes, package loads entries and digests. -/
structure Load where
  ctx : Nat
  tag : BitVec 16
  action : Nat
  source : Nat
  dest : Nat
  destBase : Nat
  srcAddr : Nat
  pkgId : BitVec 64
  raw : Bool
  payload : Nat
  digests : List (BitVec 256)
  next : Nat
  entries : List PkgEntry
  layouts : List Layout
  passes : List (Nat × Nat)
  arrived : Nat
  stage : Option (Nat × Nat)
  amaxes : SMap (SMap F32)
  copying : Bool
  failed : Option Nat
  head : List Byte
  /-- a host source's queue pair, RDMA address and R_Key, and the RDMA READs asked for so far (08 R202, 13 R362) -/
  qp : Nat := 0
  remote : Nat := 0
  rkey : BitVec 32 := 0
  asked : Nat := 0
  deriving DecidableEq, Repr

/-- A T3 package-cache entry (08 R203): its package id, the context charged and its units, and the package's bytes. -/
structure CacheEntry where
  pkgId : BitVec 64
  ctx : Nat
  units : Nat
  valid : Bool
  head : List Byte
  bytes : Mem
  deriving DecidableEq, Repr

/-- What A4 stages in T2: the two lasts, the pointer and the lasts' bytes by T1 address (16 R438). -/
structure Staged where
  a : Last
  b : Last
  active : Bool
  valid : Bool
  bytes : Mem
  deriving DecidableEq, Repr

/-! ## Quarters -/

/-- A quarter's scheduling state (12 R311 to R315). `phase`: 0 running or idle, 1 stopping, 2 saving, 3 restoring. -/
structure Quarter where
  /-- context whose slice holds the quarter | 4 + valid | 12 R311 | none -/
  cur : Option Nat := none
  /-- RUNNING bits: outgoing until its save ends, incoming from its restore | via cur and phase | 12 R323 | 0 -/
  phase : Nat := 0
  /-- incoming context of a switch | 4 + valid | 12 R315 | none -/
  next : Option Nat := none
  /-- time the slice ended | us | 12 R318 | 0 -/
  ended : Nat := 0
  /-- length of the running slice in us | 17 | 12 R312, R318 | 0 -/
  slice : Nat := 0
  /-- context that last held the quarter in each class | 4 x 4 | 12 R312 | none (15, so the first search starts at 0: DESIGN CHOICE log 3) -/
  lastOf : SMap (Option Nat) := []
  /-- the ending slice has been counted in ACCT_PREEMPT | 1 | 12 R323 | 0 -/
  counted : Bool := false
  /-- the running context has yielded its slice and keeps the quarter | 1 | 12 R314 | 0 -/
  yielded : Bool := false
  /-- context the quarter last ran (for the fill of 09 R225) | 4 + valid | 09 R225 | none -/
  lastRan : Option Nat := none
  deriving DecidableEq, Repr

/-! ## Faults, health and dumps -/

/-- A fault record (14 R370). -/
structure FRec where
  seq : Nat := 0
  cls : Nat := 0
  valid : Bool := false
  secondary : Bool := false
  primary : Bool := false
  ctx : Nat := 0
  insn : Bool := false
  coreValid : Bool := false
  time : Nat := 0
  subject : BitVec 16 := 0
  lowest : BitVec 16 := 0
  epoch : BitVec 32 := 0
  step : Nat := 0
  core : Nat := 0
  word : Nat := 0
  task : BitVec 32 := 0
  instr : BitVec 64 := 0
  detail : BitVec 64 := 0
  resets : Nat := 0
  tally : Nat := 0
  dump : Nat := 0
  deriving DecidableEq, Repr

/-- A region's directory entry in the held dump (14 R376). -/
structure DumpDir where
  id : Nat
  status : Nat
  off : Nat
  len : Nat
  read : Nat
  deriving DecidableEq, Repr

/-- Faults in progress and the dump (14). -/
structure Flt where
  /-- a fatal fault is latched and its reset has not begun | 1 | 14 R371 | 0 -/
  active : Bool := false
  /-- moment of the first fatal fault | us | 14 R371 | 0 -/
  tf : Nat := 0
  /-- SEQ of the latched primary record | 32 + valid | 14 R369 | none -/
  primary : Option Nat := none
  /-- secondary records since | 4 | 14 R369 | 0 -/
  secondaries : Nat := 0
  /-- records of this fault whose 1 ms has run: SEQ | list | 11 R300, 14 R370 | none -/
  ms1 : List Nat := []
  /-- records of this fault whose key this module has reported: SEQ | list | 11 R300, 14 R373 | none -/
  told : List Nat := []
  /-- the 2 ms event is done | 1 | 11 R300, 13 R357 | 0 -/
  twoMs : Bool := false
  /-- the fault is FC_FENCED (module state 0x04) | 1 | 14 R386 | 0 -/
  fenced : Bool := false
  /-- dump in progress: next region index, and it has ended | 9 + 1 | 14 R374, R377 | none -/
  dumping : Bool := false
  dumpNext : Nat := 0
  /-- a fault reset waits for the input (STOPPING) | 1 | 16 R431 | 0 -/
  waitInput : Bool := false
  /-- held dump: directory, bytes, header words | 64 MiB of T3 | 14 R374 to R378 | none (manufacture, DESIGN CHOICE log 3) -/
  dir : List DumpDir := []
  dumpBytes : Mem := []
  dumpValid : Bool := false
  dumpComplete : Bool := false
  dumpSeq : Nat := 0
  dumpRelease : Nat := 0
  dumpStart : Nat := 0
  dumpEnd : Nat := 0
  /-- a DUMP_READ in progress: tag, context, first page, pages, offset | record | 14 R380 | none -/
  dumpRead : Option (BitVec 16 × Nat × Nat × Nat × Nat) := none
  deriving DecidableEq, Repr

/-- An entry of the fence table (14 R388); `order` numbers the entries as they are made. -/
structure Fence where
  serial : BitVec 64
  epoch : BitVec 32
  coord : BitVec 16
  order : Nat
  deriving DecidableEq, Repr

/-- Health state outside the ledger, and the ledger's score and windows (14 R381 to R385, R391 to R394). -/
structure Hlt where
  /-- STATUS.SCORE | 10 | 14 R392 | ledger: 500 (14 R381) -/
  score : Nat := 500
  /-- STATUS.HSTATE | 2 | 14 R392 | ledger: 0 at manufacture (DESIGN CHOICE log 3) -/
  hstate : Nat := 0
  /-- STATUS.REQUESTED | 1 | 14 R392 | 0 -/
  requested : Bool := false
  /-- STATUS.WITHHELD | 1 | 14 R392 | 0 -/
  withheld : Bool := false
  /-- STATUS.HINT | 1 | 14 R392 | 0 -/
  hint : Bool := false
  /-- HINT has read 0 without a break for HOLD_MIN | 1 | 14 R385 | 0 -/
  hintHeld : Bool := false
  /-- a request has been made since the score last fell below REQ_BELOW in PROBATION | 1 | 14 R384 | 0 (DESIGN CHOICE log 3) -/
  asked : Bool := false
  /-- STATUS.EXPEL_CAUSE | 8 | 14 R392 | ledger: 0 at manufacture (DESIGN CHOICE log 3) -/
  expelCause : Nat := 0
  /-- POLICY | 10 + 10 + 10 + 11 | 14 R393 | ledger: 300, 400, 150, 30 -/
  probBelow : Nat := 300
  probExit : Nat := 400
  reqBelow : Nat := 150
  holdMin : Nat := 30
  /-- CTL.DUMP_ON_REMOTE | 1 | 14 R394 | 0 -/
  dumpOnRemote : Bool := false
  /-- FAULT_COUNT.DROPPED | 16 | 14 R395 | ledger: 0 at manufacture (DESIGN CHOICE log 3) -/
  dropped : Nat := 0
  /-- next record SEQ | 32 | 14 R370 | ledger: 0 (from manufacture) -/
  nextSeq : Nat := 0
  /-- record ring by entry | 256 x 512 | 14 R370 | ledger: none at manufacture (DESIGN CHOICE log 3) -/
  recs : SMap FRec := []
  /-- FENCE_SELF.EPOCH | 32 | 14 R387, R395 | ledger: 0 at manufacture (DESIGN CHOICE log 3) -/
  fenceSelf : Nat := 0
  /-- fence table by entry | 16 entries | 14 R388, R396 | ledger: none (DESIGN CHOICE log 3) -/
  fences : SMap (Option Fence) := []
  /-- number of the next entry made, by which the oldest is known | count | 14 R388 | ledger: 0 (DESIGN CHOICE log 3) -/
  fenceNext : Nat := 0
  /-- highest fence epoch each serial has announced on any port | by serial | 14 R388 | 0 (DESIGN CHOICE log 87) -/
  announced : SMap Nat := []
  /-- penalties charged in the present hour by input, with their times | list | 14 R382 | none -/
  charged : List (Nat × Nat × Nat) := []
  /-- times of the events counted over 24 h: (kind, time) | list | 14 R383, R391 | none -/
  events : List (Nat × Nat) := []
  /-- remainders of the divided inputs (per 1,024, 4,096, 65,536) | counts | 14 R382 | 0 -/
  rem1024 : Nat := 0
  rem4096 : Nat := 0
  rem65536 : Nat := 0
  /-- slot epochs kept in the ledger: job seed, E_a, committed | 16 records | 07 R184 | ledger: none at manufacture (DESIGN CHOICE log 3) -/
  slots : SMap (BitVec 64 × Nat × Nat) := []
  /-- report address of each management port | 2 records | 13 R360 | ledger: none (13 R360) -/
  reportAddr : SMap (Option Addr) := []
  deriving DecidableEq, Repr

/-! ## Supply, clocks and rest -/

/-- Supply, governor and rest states (16, 19 R497). -/
structure Pwr where
  /-- SUPPLY.VIN in 10 mV | 16 | 16 R440 | varies: 0 until the first sample (DESIGN CHOICE log 3) -/
  vin : Nat := 0
  /-- SUPPLY.VMIN in 10 mV | 16 | 16 R440 | 0xFFFF -/
  vmin : Nat := 0xFFFF
  /-- SUPPLY.IIN in 10 mA | 16 | 16 R440 | varies: 0 until the first sample (DESIGN CHOICE log 3) -/
  iin : Nat := 0
  /-- SUPPLY.STATE 0 NORMAL, 1 SAG, 2 STOPPING (3 OFF inside the model) | 2 | 16 R431, R440 | 0 -/
  sup : Nat := 0
  /-- SUPPLY.CAUSE | 2 | 16 R440 | ledger: 0 at manufacture (DESIGN CHOICE log 3) -/
  cause : Nat := 0
  /-- the samples of the last 120 ms, for the ramp limit and, of these, the last 10 ms for the average power and the detail of FC_SUPPLY: (time, voltage, current), newest first | list | 14 R368, 16 R423, R424, R431 | none -/
  window : List (Nat × Nat × Nat) := []
  /-- GOV.RAMP | 9 | 16 R441 | 40 -/
  ramp : Nat := 40
  /-- GOV.FLOOR | 12 | 16 R441 | 0 -/
  floor : Nat := 0
  /-- GOV.CLK in MHz | 11 | 16 R441 | varies: the floor clock 600 (DESIGN CHOICE log 3) -/
  clk : Nat := 600
  /-- point of the clock-voltage curve, in MHz, whose voltage the cores have | 11 | 16 R428 | 600 (DESIGN CHOICE log 51) -/
  vpt : Nat := 600
  /-- the rise that the learned curve predicts: its time and its level in 10 mA | record option | 16 R426 | none -/
  aim : Option (Nat × Nat) := none
  /-- the governor runs ballast | 1 | 16 R425 | 0 (DESIGN CHOICE log 51) -/
  ballast : Bool := false
  /-- GOV.CLK_REQ | 11 | 16 R441 | 0 -/
  clkReq : Nat := 0
  /-- GOV.HIST | 5 | 16 R441 | 0 -/
  hist : Nat := 0
  /-- GOV.THERMAL | 1 | 16 R441 | 0 -/
  thermal : Bool := false
  /-- clock limit of the thermal throttle in MHz | 11 | 16 R430 | none -/
  thermalCap : Option Nat := none
  /-- REST.STATE | 3 | 16 R442 | 0 -/
  rest : Nat := 0
  /-- rest state being entered | 3 | 16 R437, R438 | none -/
  entering : Option Nat := none
  /-- a wake in progress, and the state it goes to | 3 option | 16 R436, R437 | none -/
  waking : Option Nat := none
  /-- reset that follows the wake: 0 none, 1 warm, 2 cold request, 3 reset line | 2 | 16 R437, 17 R447 | 0 -/
  thenReset : Nat := 0
  /-- REST.KEEP_LASTS | 1 | 16 R442 | 0 -/
  keepLasts : Bool := false
  /-- REST.IDLE_MS | 10 | 16 R442 | 10 -/
  idleMs : Nat := 10
  /-- REST.BUDGET | 32 | 16 R442 | 0 -/
  budget : Nat := 0
  /-- ENERGY.UJ in 1/40,000 uJ (log 52) | 64 + fraction | 16 R422, R443 | 0 -/
  energy : Nat := 0
  /-- EVENTS.SAGS | 16 | 16 R443 | 0 -/
  sags : Nat := 0
  /-- EVENTS.RIDES | 16 | 16 R443 | 0 -/
  rides : Nat := 0
  /-- EVENTS.WAKES | 16 | 16 R443 | 0 -/
  wakes : Nat := 0
  /-- EVENTS.THROTTLES | 15 | 16 R443 | 0 -/
  throttles : Nat := 0
  /-- AON.CELL | 7 | 16 R443 | varies: 100 (DESIGN CHOICE log 3) -/
  cell : Nat := 100
  /-- time in us for which the input has fed the backup cell without a break | 64 | 16 R433 | 0 (DESIGN CHOICE log 73) -/
  fed : Nat := 0
  /-- the input stage is open | 1 | 16 R431 | 0 -/
  stageOpen : Bool := false
  /-- AON.ON_CELL | 1 | 16 R443 | varies: 0 (DESIGN CHOICE log 3) -/
  onCell : Bool := false
  /-- AON.LOST | 1 | 16 R443 | varies: 0 (DESIGN CHOICE log 3) -/
  lost : Bool := false
  /-- the cell has run flat since the input was last present | 1 | 16 R433 | 0 -/
  flat : Bool := false
  /-- always-on time in us since manufacture, and its last ledger commit | 64 | 14 R370, 16 R433, 17 R457 | ledger: 0 (from manufacture) -/
  aon : Nat := 0
  aonLedger : Nat := 0
  /-- lane equalisation settings kept in the always-on domain, by port | 36 x 1 | 10 R250, 16 R433 | none -/
  lanesKept : SMap Bool := []
  /-- lasts staged in T2 through A4: the two lasts, the pointer, the bytes | record | 16 R438 | none -/
  staged : Option Staged := none
  /-- COOLANT.INLET in 0.1 C | 12 | 19 R497 | 0 -/
  inlet : Nat := 0
  /-- COOLANT.OUTLET in 0.1 C | 12 | 19 R497 | 0 -/
  outlet : Nat := 0
  /-- COOLANT.DIE_MAX in 0.1 C | 12 | 19 R497 | 0 -/
  dieMax : Nat := 0
  /-- COOLANT.DIE_SENSOR | 8 | 19 R497 | 0 -/
  dieSensor : Nat := 0
  deriving DecidableEq, Repr

/-! ## Reset and bring-up -/

/-- Reset, bring-up and partial-reset state (17). -/
structure Rst where
  /-- CAUSE.LAST | 3 | 17 R458 | varies: 0 input valid -/
  last : Nat := 0
  /-- CAUSE.RETRIES | 2 | 17 R458 | kept: 0 at manufacture (DESIGN CHOICE log 3) -/
  retries : Nat := 0
  /-- PARTIAL.SCOPE | 2 | 17 R460 | 0 -/
  scope : Nat := 0
  /-- PARTIAL.INDEX | 9 | 17 R460 | 0 -/
  index : Nat := 0
  /-- PARTIAL.BUSY | 1 | 17 R460 | 0 -/
  busy : Bool := false
  /-- the outbound drain of R456 step 1 has ended | 1 | 17 R456 | 0 -/
  drained : Bool := false
  /-- PARTIAL.RESULT | 2 | 17 R460 | 0 -/
  result : Nat := 0
  /-- PARTIAL.STRAGGLERS | 16 | 17 R460 | 0 -/
  stragglers : Nat := 0
  /-- BRINGUP.PHASE | 4 | 17 R461 | varies: 0 Shank -/
  phase : Nat := 0
  /-- BRINGUP.UNIT | 9 | 17 R461 | varies: 0x1FF none -/
  unit : Nat := 0x1FF
  /-- BRINGUP.FULL_TEST | 1 | 17 R461 | 1 -/
  fullTest : Bool := true
  /-- BRINGUP.SHORT | 1 | 17 R461 | varies: 0 -/
  short : Bool := false
  /-- kind of the bring-up in progress: 0 cold, 1 warm, 2 fault, 3 fault reset that restarts a cold boot, and whether its own start event has run | 2 + 1 | 17 R448 to R450 | 0, 0 -/
  kind : Nat := 0
  started : Bool := false
  /-- COUNT_A.COLD | 32 | 17 R462 | kept: 0 at manufacture (DESIGN CHOICE log 3) -/
  cold : Nat := 0
  /-- COUNT_A.WARM | 32 | 17 R462 | kept: 0 at manufacture (DESIGN CHOICE log 3) -/
  warm : Nat := 0
  /-- COUNT_B.FAULT | 32 | 17 R462 | kept: 0 at manufacture (DESIGN CHOICE log 3) -/
  fault : Nat := 0
  /-- COUNT_B.ESCALATED | 32 | 17 R462 | kept: 0 at manufacture (DESIGN CHOICE log 3) -/
  escalated : Nat := 0
  /-- COUNT_C.CORE | 32 | 17 R462 | kept: 0 at manufacture (DESIGN CHOICE log 3) -/
  core : Nat := 0
  /-- COUNT_C.CLUSTER | 16 | 17 R462 | kept: 0 at manufacture (DESIGN CHOICE log 3) -/
  cluster : Nat := 0
  /-- COUNT_C.PARTITION | 16 | 17 R462 | kept: 0 at manufacture (DESIGN CHOICE log 3) -/
  partition : Nat := 0
  /-- ledger's last commit of the counters above and of RETRIES | 8 counts | 17 R457 | ledger: 0 at manufacture (DESIGN CHOICE log 3) -/
  ledger : List Nat := [0, 0, 0, 0, 0, 0, 0, 0]
  /-- RST_QUARTER ENABLED of each quarter | 4 x 7 | 17 R463 | varies: 80 before the first numbering (DESIGN CHOICE log 3) -/
  enabled : SMap Nat := []
  /-- RST_QUARTER GOOD of each quarter | 4 x 7 | 17 R463 | varies: 84 before the first test (DESIGN CHOICE log 3) -/
  good : SMap Nat := []
  /-- RST_QUARTER NEW_BAD of each quarter | 4 x 7 | 17 R463 | varies: 0 (DESIGN CHOICE log 3) -/
  newBad : SMap Nat := []
  /-- ledger bad-core map: marked cores by 84 q + p | 4 x 84 | 17 R452, R464 | ledger: none at manufacture (DESIGN CHOICE log 3) -/
  ledgerBad : SMap Bool := []
  /-- physical core that serves each enabled index, by 80 q + i | 320 x 7 | 01 R12, 17 R453 | none -/
  serves : SMap Nat := []
  deriving DecidableEq, Repr

/-! ## Shank, keys and firmware -/

/-- A firmware image as the slots hold it (18 R471): its bytes' length, header fields and head-region digest. -/
structure FwImage where
  release : BitVec 32
  version : BitVec 32
  level : Nat
  codes : BitVec 8
  chunks : Nat
  verified : Bool
  digest : BitVec 256
  bytes : Mem
  length : Nat
  deriving DecidableEq, Repr

/-- A lacing broadcast being received (18 R475, R476): its release and version epoch, its seed (none over the management network), the piece count an end message gave, the pieces held, those passed on or not to be, whether the head region has verified, and the pieces that requesters still want. -/
structure Lace where
  release : Option (BitVec 32) := none
  version : BitVec 32 := 0
  seed : Option (BitVec 16) := none
  count : Option Nat := none
  held : SMap (Option (List Byte)) := []
  done : List Nat := []
  headOk : Bool := false
  wants : List (BitVec 16 × Nat) := []
  deriving DecidableEq, Repr

/-- A firmware staging in progress (18 R474). -/
structure Staging where
  tag : BitVec 16
  source : Nat
  img : Option FwImage
  lace : Option Lace
  deriving DecidableEq, Repr

/-- Shank state (18). -/
structure Shk where
  /-- ACTIVE, FALLBACK and STAGED image slots | flash | 18 R472 | manufacture: ACTIVE the factory image, the others empty (DESIGN CHOICE log 3) -/
  slotA : Option FwImage := none
  slotF : Option FwImage := none
  slotS : Option FwImage := none
  /-- FW_RUN RELEASE and EPOCH | 32 + 32 | 18 R480 | varies: 0 until the firmware starts (DESIGN CHOICE log 3) -/
  release : BitVec 32 := 0
  version : BitVec 32 := 0
  /-- rollback level of the running image | 7 | 18 R473 | 0 (DESIGN CHOICE log 3) -/
  level : Nat := 0
  /-- FW_STATE.REQUIRED | 32 | 18 R481 | ledger: 0 at manufacture (DESIGN CHOICE log 3) -/
  required : BitVec 32 := 0
  /-- FW_STATE.ROLLBACK, the one-time cells | 7 | 18 R473, R481 | varies: 0 programmed at manufacture (DESIGN CHOICE log 3) -/
  rollback : Nat := 0
  /-- FW_STATE.FELL_BACK | 1 | 18 R481 | varies: 0 -/
  fellBack : Bool := false
  /-- FW_STAGE in progress | record | 18 R474 | none -/
  staging : Option Staging := none
  /-- MEAS0 to MEAS15 | 16 x 256 | 18 R469, R483 | 0 at the reset -/
  meas : SMap (BitVec 256) := []
  /-- the package keys, by slot | 8 x 512 | 18 R466 | ledger: none (DESIGN CHOICE log 3) -/
  pkgKeys : SMap (Option (BitVec 512)) := []
  /-- KEYS.PKG | 8 | 18 R482 | ledger: 0 at manufacture (DESIGN CHOICE log 3) -/
  pkgBits : BitVec 8 := 0
  /-- SHK_PKGKEY_s_w, the identifier of each slot | 8 x 256 | 18 R482 | ledger: 0 at manufacture (DESIGN CHOICE log 3) -/
  pkgIds : SMap (BitVec 256) := []
  /-- management key | 128 | 18 R466 | manufacture: Config.mgmtKey -/
  mgmtKey : BitVec 128
  /-- KEYS.MGMT_GEN | 32 | 18 R482 | ledger: 0 (since manufacture) -/
  mgmtGen : Nat := 0
  /-- LACE SEED, PATH, RELEASE | 1, 1, 32 | 18 R484 | 0 -/
  seed : Bool := false
  path : Bool := false
  laceRelease : BitVec 32 := 0
  /-- LACE_STAT HELD, BAD, REPAIRED, BITMAPS | 15, 16, 16, 16 | 18 R484 | 0 -/
  held : Nat := 0
  bad : Nat := 0
  repaired : Nat := 0
  bitmaps : Nat := 0
  deriving DecidableEq, Repr

/-! ## What the module sends outward -/

/-- What leaves the module, oldest first: the model's record of its outputs (log 5). -/
inductive Out where
  | rdmaAck (qp : Nat)
  | rdmaNak (qp : Nat) (access : Bool)
  | rdmaData (qp : Nat) (bytes : List Byte)
  | rdmaRead (qp addr : Nat) (rkey : BitVec 32) (len : Nat)
  | send (qp : Nat) (bytes : List Byte)
  | cnp (qp : Nat)
  | connect (qp : Nat) (ok : Bool)
  | datagram (port : Nat) (dest : Option Addr) (bytes : List Byte)
  | flit (port : Nat) (raw : List Byte)
  | exchange (port : Nat) (x : XInfo)
  | marker (port lane : Nat)
  deriving DecidableEq, Repr

/-! ## The module -/

/-- The state of the module (log 1 to 5 say what is the model's own). -/
structure State where
  /-- commands waiting, first in first out | list | the block's queue | empty -/
  pending : List Instr := []
  /-- model's own clock: 1 us supply samples since the start of the model | us | 16 R422 (log 4) | 0 -/
  now : Nat := 0
  /-- model's own count of free values drawn | count | log 2 | 0 (DESIGN CHOICE log 2) -/
  free : Nat := 0
  /-- bytes of core stores, quarter stores, T1 and T2 | 48-bit space | 09 R216, 17 R446 | 0 (09 R229, 17 R446) -/
  mem : Mem := []
  /-- data integrity | record | 09 R226 to R243 | below -/
  ecc : Ecc := {}
  /-- cores 0 to 319 | 320 records | 01 R12, 04 R83 | below -/
  cores : SMap Core := []
  /-- quarters 0 to 3 | 4 records | 12 R311 | below -/
  quarters : SMap Quarter := []
  /-- context slots 0 to 15, and 16 the administrative context | 17 records | 12 R306 | FREE -/
  ctxs : SMap Ctx := []
  /-- allocations of every context | list | 09 R220 | none -/
  allocs : List Alloc := []
  /-- number of the next T3 handle | model's own | 09 R220 | 1 (DESIGN CHOICE log 3) -/
  nextHandle : Nat := 1
  /-- fills in progress | list | 09 R230 | none -/
  fills : List Fill := []
  /-- Last A | record | 08 R213 | EMPTY -/
  lastA : Last := {}
  /-- Last B | record | 08 R213 | EMPTY -/
  lastB : Last := {}
  /-- MEM_LAST_PTR | record | 08 R214 | 0 -/
  lastPtr : LastPtr := {}
  /-- loads in progress | list | 08 R197 | none -/
  loads : List Load := []
  /-- T3 package cache | 16 entries | 08 R203 | none (manufacture, DESIGN CHOICE log 3) -/
  cache : List CacheEntry := []
  /-- link ports LP0 to LP35 | 36 records | 10 | below -/
  ports : SMap Port := []
  /-- direction entries 0 to 7, absent while at their Cold value | 8 records | 10 R273 | by 01 R17 -/
  dirs : SMap (Option Direc) := []
  /-- fabric | record | 10, 11 | below -/
  link : Link := {}
  /-- outstanding collectives | up to 256 | 11 R279 | none -/
  colls : List Coll := []
  /-- number of the next collective | model's own | 11 R279 | 0 -/
  nextColl : Nat := 0
  /-- host attachment | record | 13 | below -/
  host : HostSt := {}
  /-- faults in progress and the dump | record | 14 | below -/
  flt : Flt := {}
  /-- health and the ledger's records | record | 14 | below -/
  hlt : Hlt := {}
  /-- supply, clocks and rest | record | 16 | below -/
  pwr : Pwr := {}
  /-- reset and bring-up | record | 17 | below -/
  rst : Rst := {}
  /-- Shank and firmware | record | 18 | below -/
  shk : Shk
  /-- a JOIN_GROUP with ADOPT that waits for its directions | tag | 15 R413 | none -/
  joining : Option (BitVec 16) := none
  /-- what has been sent outward | list | model's own (log 5) | empty -/
  out : List Out := []
  deriving DecidableEq, Repr

/-! ## Stops -/

/-- Reasons to stop with a fault. The module itself turns every error the spec names into state (a fault record, a status,
a NAK), so no meaning of this model raises one.

* `unbacked`: reserved for an access that reaches no storage and for which no rule gives an effect; nothing raises it.
  Raising it would be safe: the machine stops where the hardware would go on. -/
inductive Fault where
  | unbacked
  deriving DecidableEq, Repr

/-- Reasons to refuse a command.

* `notModelled`: the arm of a command that has no meaning yet answers it. It is safe: nothing can be proved of such a
  command's effect. -/
inductive Refusal where
  | notModelled (mnemonic : String)
  deriving DecidableEq, Repr

/-! ## Reset -/

/-- The image in ACTIVE at manufacture (log 6). -/
def factoryImage : FwImage :=
  { release := Config.factoryRelease, version := Config.factoryVersion, level := Config.factoryLevel.val, codes := 7#8,
    chunks := 1, verified := true, digest := Config.factoryDigest, bytes := [], length := 4096 }

/-- The module right after a cold reset, before the cold boot's first event: every register at its Cold column, the
ledger as manufacture leaves it, core stores and tiers at 0 (17 R446, R448; log 3). -/
def State.reset : State :=
  { shk := { slotA := some factoryImage, mgmtKey := Config.mgmtKey } }

end Sys2Proof.Machine
end

