-- ==== Sys2Proof/Machine/Ops.lean ====
section
/-!
DEFINITION. Operations over sparse tables, memory bytes and the records of the state. Every meaning reads and writes
state through these.
-/

namespace Sys2Proof

/-! ## Sparse tables -/

/-- The value at a key; `d` where the key is not listed. -/
def SMap.get {α : Type} (d : α) : SMap α → Nat → α
  | [], _ => d
  | (k, v) :: m, i => if k = i then v else SMap.get d m i

/-- Enter a value that is not the default, keeping keys rising. -/
def SMap.put {α : Type} : SMap α → Nat → α → SMap α
  | [], i, v => [(i, v)]
  | (k, w) :: m, i, v => if i < k then (i, v) :: (k, w) :: m else if i = k then (i, v) :: m else (k, w) :: SMap.put m i v

/-- Set the value at a key; a default value is not listed. -/
def SMap.set {α : Type} [DecidableEq α] (d : α) (m : SMap α) (i : Nat) (v : α) : SMap α :=
  if v = d then m.filter (fun e => e.1 != i) else SMap.put m i v

/-- Change the value at a key. -/
def SMap.upd {α : Type} [DecidableEq α] (d : α) (m : SMap α) (i : Nat) (f : α → α) : SMap α := SMap.set d m i (f (SMap.get d m i))

/-- Drop every key in a range, so that each reads as the default. -/
def SMap.wipe {α : Type} (m : SMap α) (base len : Nat) : SMap α := m.filter (fun e => e.1 < base || base + len ≤ e.1)

/-- The canonical form: keys strictly rising, no default value listed. -/
def SMap.wf {α : Type} [DecidableEq α] (d : α) (m : SMap α) : Bool :=
  decide (m.Pairwise (fun a b => a.1 < b.1)) && m.all (fun e => e.2 != d)

/-- The canonical form of memory. -/
abbrev Memory.wf (m : Mem) : Bool := SMap.wf (0#8) m

/-- Read one byte (09 R229). -/
def Mem.byte (m : Mem) (a : Nat) : Byte := SMap.get (0#8) m a

/-- Read bytes from an address up. -/
def Mem.read (m : Mem) (a : Nat) : Nat → List Byte
  | 0 => []
  | n + 1 => Mem.byte m a :: Mem.read m (a + 1) n

/-- Write bytes from an address up. -/
def Mem.write (m : Mem) (a : Nat) : List Byte → Mem
  | [] => m
  | b :: bs => Mem.write (SMap.set (0#8) m a b) (a + 1) bs

namespace Machine

/-! ## Numbers -/

/-- Bits `[hi:lo]` of a number (00 R4). -/
def fld (v hi lo : Nat) : Nat := v / 2 ^ lo % 2 ^ (hi - lo + 1)

/-- Bit `i` of a number. -/
def bit (v i : Nat) : Bool := v / 2 ^ i % 2 == 1

/-- A Bool as a bit. -/
def b2n (b : Bool) : Nat := if b then 1 else 0

/-- A count that stops at the top of its field. -/
def satAdd (width v n : Nat) : Nat := min (v + n) (2 ^ width - 1)

/-- The first `some` of a list of numbers under a function. -/
def findSome? {α : Type} (f : Nat → Option α) : List Nat → Option α
  | [] => none
  | x :: xs => match f x with | some y => some y | none => findSome? f xs

/-- The numbers `a, a+1, …` (`n` of them). -/
def upFrom (a n : Nat) : List Nat := (List.range n).map (a + ·)

/-- Change the first element that meets a test. -/
def updFirst {α : Type} (p : α → Bool) (f : α → α) : List α → List α
  | [] => []
  | x :: xs => if p x then f x :: xs else x :: updFirst p f xs

/-- Drop the first element that meets a test. -/
def dropFirst {α : Type} (p : α → Bool) : List α → List α
  | [] => []
  | x :: xs => if p x then xs else x :: dropFirst p xs

/-- Drop the element at an index. -/
def dropAt {α : Type} : Nat → List α → List α
  | _, [] => []
  | 0, _ :: xs => xs
  | n + 1, x :: xs => x :: dropAt n xs

/-! ## The records of the state -/

/-- Core `c`. -/
def State.core (s : State) (c : Nat) : Core := SMap.get {} s.cores c
/-- Replace core `c`. -/
def State.setCore (s : State) (c : Nat) (k : Core) : State := { s with cores := SMap.set {} s.cores c k }
/-- Change core `c`. -/
def State.modCore (s : State) (c : Nat) (f : Core → Core) : State := s.setCore c (f (s.core c))

/-- Context `n`, 16 being the administrative context. -/
def State.ctx (s : State) (n : Nat) : Ctx := SMap.get {} s.ctxs n
/-- Replace context `n`. -/
def State.setCtx (s : State) (n : Nat) (k : Ctx) : State := { s with ctxs := SMap.set {} s.ctxs n k }
/-- Change context `n`. -/
def State.modCtx (s : State) (n : Nat) (f : Ctx → Ctx) : State := s.setCtx n (f (s.ctx n))

/-- Quarter of a core (01 R12). -/
def quarterOf (c : Nat) : Nat := c / 80
/-- Quarter `q`. -/
def State.quarter (s : State) (q : Nat) : Quarter := SMap.get {} s.quarters q
/-- Replace quarter `q`. -/
def State.setQuarter (s : State) (q : Nat) (k : Quarter) : State := { s with quarters := SMap.set {} s.quarters q k }
/-- Change quarter `q`. -/
def State.modQuarter (s : State) (q : Nat) (f : Quarter → Quarter) : State := s.setQuarter q (f (s.quarter q))

/-- Port `p`. -/
def State.port (s : State) (p : Nat) : Port := SMap.get {} s.ports p
/-- Replace port `p`. -/
def State.setPort (s : State) (p : Nat) (k : Port) : State := { s with ports := SMap.set {} s.ports p k }
/-- Change port `p`. -/
def State.modPort (s : State) (p : Nat) (f : Port → Port) : State := s.setPort p (f (s.port p))

/-- The Cold value of a direction entry: four ports by 01 R17. -/
def coldDir (d : Nat) : Direc :=
  { ports := BitVec.ofNat 36 (0xF * 16 ^ d), detour := false, down := false, resetting := none, held := [] }
/-- Direction entry `d`. -/
def State.dir (s : State) (d : Nat) : Direc := (SMap.get none s.dirs d).getD (coldDir d)
/-- Replace direction entry `d`. -/
def State.setDir (s : State) (d : Nat) (k : Direc) : State :=
  { s with dirs := SMap.set none s.dirs d (if k = coldDir d then none else some k) }
/-- Change direction entry `d`. -/
def State.modDir (s : State) (d : Nat) (f : Direc → Direc) : State := s.setDir d (f (s.dir d))

/-- Send something outward (log 5). -/
def State.emit (s : State) (o : Out) : State := { s with out := s.out ++ [o] }

/-- Draw a fresh number for a free value (log 2). -/
def State.draw (s : State) : Nat × State := (s.free, { s with free := s.free + 1 })

/-! ## Core registers (05 R118) -/

/-- A register. -/
def Core.ra (k : Core) (i : Nat) : BitVec 64 := SMap.get (0#64) k.a i
/-- Write an A register. -/
def Core.setA (k : Core) (i : Nat) (v : BitVec 64) : Core := { k with a := SMap.set (0#64) k.a i v }
/-- T register. -/
def Core.rt (k : Core) (i : Nat) : BitVec 64 := SMap.get (0#64) k.t i
/-- Write a T register. -/
def Core.setT (k : Core) (i : Nat) (v : BitVec 64) : Core := { k with t := SMap.set (0#64) k.t i v }
/-- Scale register, +1.0 after a reset (03 R51). -/
def Core.rs (k : Core) (i : Nat) : F32 := SMap.get (0x3F800000#32) k.s i
/-- Write a scale register. -/
def Core.setS (k : Core) (i : Nat) (v : F32) : Core := { k with s := SMap.set (0x3F800000#32) k.s i v }
/-- Loop counter. -/
def Core.rl (k : Core) (i : Nat) : BitVec 32 := SMap.get (0#32) k.l i
/-- Write a loop counter. -/
def Core.setL (k : Core) (i : Nat) (v : BitVec 32) : Core := { k with l := SMap.set (0#32) k.l i v }
/-- Flag. -/
def Core.rf (k : Core) (i : Nat) : Bool := SMap.get false k.f i
/-- Write a flag. -/
def Core.setF (k : Core) (i : Nat) (v : Bool) : Core := { k with f := SMap.set false k.f i v }
/-- Tracker slot. -/
def Core.slot (k : Core) (i : Nat) : Option Slot := SMap.get none k.slots i
/-- Write a tracker slot. -/
def Core.setSlot (k : Core) (i : Nat) (v : Option Slot) : Core := { k with slots := SMap.set none k.slots i v }
/-- Tensor of a slot in program order. -/
def Core.slotPO (k : Core) (i : Nat) : Option (BitVec 32) := SMap.get none k.slotsPO i
/-- Write a slot in program order. -/
def Core.setSlotPO (k : Core) (i : Nat) (v : Option (BitVec 32)) : Core := { k with slotsPO := SMap.set none k.slotsPO i v }

/-! ## Context parts -/

/-- Change the scheduling part. -/
def Ctx.modSched (k : Ctx) (f : CtxSched → CtxSched) : Ctx := { k with sched := f k.sched }
/-- Change the arithmetic part. -/
def Ctx.modArith (k : Ctx) (f : CtxArith → CtxArith) : Ctx := { k with arith := f k.arith }
/-- Change the step part. -/
def Ctx.modStep (k : Ctx) (f : CtxStep → CtxStep) : Ctx := { k with step := f k.step }
/-- Change the memory part. -/
def Ctx.modMem (k : Ctx) (f : CtxMem → CtxMem) : Ctx := { k with mem := f k.mem }
/-- Change the host part. -/
def Ctx.modHost (k : Ctx) (f : CtxHost → CtxHost) : Ctx := { k with host := f k.host }
/-- Change the snapshot part. -/
def Ctx.modSnap (k : Ctx) (f : CtxSnap → CtxSnap) : Ctx := { k with snap := f k.snap }

/-! ## Memory bytes -/

/-- Bytes from a device address up. -/
def State.bytes (s : State) (a n : Nat) : List Byte := Mem.read s.mem a n
/-- Store bytes from a device address up. -/
def State.setBytes (s : State) (a : Nat) (bs : List Byte) : State := { s with mem := Mem.write s.mem a bs }
/-- Fill a range with zeros. -/
def State.zero (s : State) (a n : Nat) : State := { s with mem := SMap.wipe s.mem a n }

/-- Base address of core `c`'s store (09 R216). -/
def coreBase (c : Nat) : Nat := c * 0x800000
/-- Backed bytes of a core store (04 R88). -/
def coreSize : Nat := 0x600000

/-- The retention record of a step. -/
def CtxStep.retention (t : CtxStep) (epoch : Nat) : Option Retention := t.retained.find? fun r => r.epoch == epoch

end Machine

end Sys2Proof
end

