-- ==== Sys2Proof/Machine/LinkOps.lean ====
section
/-!
DEFINITION. One hop of the fabric: coordinates, routing, egress choice, egress queues and the messages this module sends
(10 R258 to R270, 11 R288).
-/

namespace Sys2Proof.Machine

open Sys2Proof

/-! ## Coordinates (10 R262) -/

/-- A coordinate in dimension `j`: 0 X, 1 Y, 2 Z, 3 W. -/
def coordAt (c : BitVec 16) (j : Nat) : Nat := c.toNat / 16 ^ j % 16
/-- Size of dimension `j` (10 R272). -/
def State.dimSize (s : State) (j : Nat) : Nat := s.link.sizeM1.toNat / 16 ^ j % 16 + 1
/-- A coordinate with dimension `j` replaced. -/
def coordSet (c : BitVec 16) (j v : Nat) : BitVec 16 := BitVec.ofNat 16 (c.toNat - coordAt c j * 16 ^ j + v * 16 ^ j)
/-- Neighbour of a coordinate in direction `d` (numbered as LNK_DIR_d). -/
def State.neighbour (s : State) (d : Nat) : BitVec 16 :=
  let j := d / 2
  let n := s.dimSize j
  let c := coordAt s.link.coord j
  coordSet s.link.coord j (if d % 2 == 0 then (c + 1) % n else (c + n - 1) % n)
/-- The direction opposite to `d`. -/
def opposite (d : Nat) : Nat := if d % 2 == 0 then d + 1 else d - 1
/-- A coordinate inside the group's dimensions (10 R265). -/
def State.coordOk (s : State) (c : BitVec 16) : Bool := (List.range 4).all fun j => decide (coordAt c j < s.dimSize j)

/-- What routing says of a destination: the direction to take, or arrived (10 R262). -/
def State.route (s : State) (dst : BitVec 16) : Option Nat :=
  findSome? (fun j =>
    let n := s.dimSize j
    let f := (coordAt dst j + n - coordAt s.link.coord j % n) % n
    if f == 0 then none else if 2 * f ≤ n then some (2 * j) else some (2 * j + 1)) [0, 1, 2, 3]

/-! ## Ports of a direction (10 R263) -/

/-- LPn is in a PORTS mask. -/
def inMask (m : BitVec 36) (p : Nat) : Bool := m.getLsbD p
/-- A port in ACTIVE. -/
def State.active (s : State) (p : Nat) : Bool := (s.port p).st == 6
/-- The effective mask of a direction, ascending (10 R263). -/
def State.effective (s : State) (d : Nat) : List Nat := (List.range 36).filter fun p => inMask (s.dir d).ports p && s.active p
/-- The ports of a direction whose traffic flows or is being handed over (10 R269). -/
def State.serving (s : State) (d : Nat) : List Nat :=
  (List.range 36).filter fun p => inMask (s.dir d).ports p && (s.active p || (s.port p).handover)
/-- The direction whose mask holds a port. -/
def State.dirOf (s : State) (p : Nat) : Option Nat := (List.range 8).find? fun d => inMask (s.dir d).ports p

/-- The spread of flows over the ports of a direction (10 R263). -/
def flowHash (src dst : BitVec 16) (vc n : Nat) : Nat :=
  (src.toNat * 0x9E37 + dst.toNat * 0x79B9 + vc) % 65536 * n / 65536

/-- The choice of R263 among the ports of a mask: `arr` the port the flit arrived on, `rail` the rail a reduction engine sends it on (10 R263). -/
def egressOf (mask : List Nat) (d : Nat) (arr rail : Option Nat) (f : Flit) : Option Nat :=
  let hashed := mask[flowHash f.src f.dst f.vc.toNat mask.length]?
  match rail with
  | some r =>
    let p := 8 * (d / 2) + r
    if mask.contains p then some p else mask.head?
  | none =>
    match arr with
    | some a =>
      match mask.find? fun p => p % 4 == a % 4 with
      | some p => some p
      | none => hashed
    | none => hashed

/-- Egress port for a flit in a direction. A flow that R263 mapped to a port now being handed over stays with that port, and so is held (10 R269 point 1); every other flow is mapped over the effective mask (10 R263, R271). -/
def State.egressPort (s : State) (d : Nat) (arr rail : Option Nat) (f : Flit) : Option Nat :=
  match egressOf (s.serving d) d arr rail f with
  | some p => if s.active p then egressOf (s.effective d) d arr rail f else some p
  | none => none

/-! ## Counters (10 R274) -/

/-- A flit discarded as unreachable (10 R265). -/
def State.dropUnreach (s : State) : State := { s with link := { s.link with unreach := satAdd 32 s.link.unreach 1 } }
/-- A flit discarded at the hop limit (10 R265). -/
def State.dropHoplim (s : State) : State := { s with link := { s.link with hoplim := satAdd 16 s.link.hoplim 1 } }
/-- A protocol error (10 R254). -/
def State.dropProto (s : State) : State := { s with link := { s.link with proto := satAdd 15 s.link.proto 1 } }

/-! ## Input buffers (10 R258, R259) -/

/-- Slots of the input buffer of a channel (10 R258). -/
def vcBuffer (vc : Nat) : Nat := [64, 512, 512, 384, 384, 128].getD vc 0

/-- An accepted flit takes a slot of its channel's input buffer (10 R259). -/
def Port.takeSlot (k : Port) (vc : Nat) : Port :=
  if vc ≥ 6 then k else { k with occ := SMap.upd 0 k.occ vc (· + 1) }

/-- A flit leaves its input buffer: its slot is free, and the channel's cumulative count goes up (10 R259). -/
def Port.freeSlot (k : Port) (vc : Nat) : Port :=
  if vc ≥ 6 || SMap.get 0 k.occ vc == 0 then k
  else { k with occ := SMap.upd 0 k.occ vc (· - 1), freed := SMap.upd (0#12) k.freed vc (· + 1#12) }

/-- A flit that holds a slot of port `h` (36 none) leaves the module's input buffers: forwarded, delivered or discarded (10 R259). -/
def State.leaveBuf (s : State) (h vc : Nat) : State := if h < 36 then s.modPort h fun k => k.freeSlot vc else s

/-- The port in whose input buffer a flit stands; 36 for one that this module sends. -/
def holderOf (arr : Option Nat) : Nat := arr.getD 36

/-! ## Egress queues (10 R261) -/

/-- Append an item to a port's egress queue of a channel. -/
def State.enqueue (s : State) (p vc : Nat) (i : EItem) : State :=
  s.modPort p fun k => { k with egress := SMap.upd [] k.egress vc (· ++ [i]) }
/-- Put items at the head of a port's egress queue of a channel, in order (10 R269). -/
def State.enqueueHead (s : State) (p vc : Nat) (is : List EItem) : State :=
  s.modPort p fun k => { k with egress := SMap.upd [] k.egress vc (is ++ ·) }

/-- A flit that continues in the direction it arrived in does not enter a ring (10 R260). -/
def State.entersRing (s : State) (d : Nat) (arr : Option Nat) : Bool :=
  match arr with
  | none => true
  | some a => s.dirOf a != some (opposite d)

/-- Send a flit in a direction: give it an egress port, or hold its flow, or drop it (10 R263, R265, R269). -/
def State.sendIn (s : State) (d : Nat) (arr rail : Option Nat) (f : Flit) : State :=
  if (s.dir d).down then s.dropUnreach.leaveBuf (holderOf arr) f.vc.toNat
  else
    match s.egressPort d arr rail f with
    | none => s.dropUnreach.leaveBuf (holderOf arr) f.vc.toNat
    | some p =>
      if s.active p then s.enqueue p f.vc.toNat (.flit f (s.entersRing d arr) (holderOf arr))
      else s.modDir d fun k => { k with held := k.held ++ [(f, holderOf arr)] }

/-- Route a DATA flit of this module, or one that arrived, toward its destination (10 R262, R265). -/
def State.sendFlit (s : State) (arr : Option Nat) (f : Flit) : State :=
  if !s.link.member || !s.coordOk f.dst then s.dropUnreach.leaveBuf (holderOf arr) f.vc.toNat
  else
    match s.route f.dst with
    | none => s
    | some d =>
      if arr.isSome && decide (f.hops.toNat + 1 > 40) then s.dropHoplim.leaveBuf (holderOf arr) f.vc.toNat
      else s.sendIn d arr none (if arr.isSome then { f with hops := f.hops + 1#6 } else f)

/-! ## Messages (11 R288) -/

/-- A DATA flit of this module. -/
def mkFlit (vc ctx : Nat) (src dst : BitVec 16) (tag : BitVec 32) (som eom : Bool) (ws : List (BitVec 64)) : Flit :=
  { typ := 1#4, vc := BitVec.ofNat 3 vc, som := som, seq := 0#12, ack := 0#12, crvc := 0#3, crcum := 0#12, eom := eom,
    dst := dst, src := src, ctx := BitVec.ofNat 5 ctx, nw := BitVec.ofNat 5 (ws.length - 1), hops := 0#6, tag := tag, words := ws }

/-- The data flits of a message: 30 words each, the last one what remains, with EOM. `n` bounds their number. -/
def dataFlits (vc ctx : Nat) (src dst : BitVec 16) (tag : BitVec 32) : Nat → List (BitVec 64) → List Flit
  | 0, _ => []
  | n + 1, ws =>
    if ws.isEmpty then []
    else mkFlit vc ctx src dst tag false (ws.drop 30).isEmpty (ws.take 30) :: dataFlits vc ctx src dst tag n (ws.drop 30)

/-- The flits of a message: the head flit of four words, then its data (11 R288). -/
def msgFlits (vc ctx : Nat) (src dst : BitVec 16) (tag : BitVec 32) (w0 w1 w2 w3 : BitVec 64) (data : List (BitVec 64)) : List Flit :=
  mkFlit vc ctx src dst tag true data.isEmpty [w0, w1, w2, w3] :: dataFlits vc ctx src dst tag data.length data

/-- Send flits one after another. -/
def sendAll (send : State → Flit → State) : State → List Flit → State
  | s, [] => s
  | s, f :: fs => sendAll send (send s f) fs

/-- The same content as a delivered message. -/
def mkMsg (port vc ctx : Nat) (src dst : BitVec 16) (tag : BitVec 32) (w0 w1 w2 w3 : BitVec 64) (data : List (BitVec 64)) : Msg :=
  { port := port, vc := vc, ctx := ctx, src := src, dst := dst, tag := tag, w0 := w0, w1 := w1, w2 := w2, w3 := w3, data := data }

/-- Fields of a delivered message (11 R288). -/
def Msg.kind (m : Msg) : Nat := fld m.w0.toNat 7 0
def Msg.epoch (m : Msg) : Nat := fld m.w1.toNat 47 0
def Msg.layout (m : Msg) : Nat := fld m.w1.toNat 63 48
def Msg.off (m : Msg) : Nat := fld m.w2.toNat 39 0
def Msg.rail (m : Msg) : Nat := fld m.w2.toNat 42 40
def Msg.dim (m : Msg) : Nat := fld m.w2.toNat 44 43

/-- Send a message to a coordinate by the route table; one to the own coordinate is delivered (10 R262). -/
def State.sendMsg (s : State) (vc ctx : Nat) (dst : BitVec 16) (tag : BitVec 32) (w0 w1 w2 w3 : BitVec 64) (data : List (BitVec 64)) : State :=
  if s.link.member && dst == s.link.coord then
    { s with link := { s.link with inbox := s.link.inbox ++ [mkMsg 36 vc ctx s.link.coord dst tag w0 w1 w2 w3 data] } }
  else sendAll (fun s f => s.sendFlit none f) s (msgFlits vc ctx s.link.coord dst tag w0 w1 w2 w3 data)

/-- Send a message to the neighbour in a direction, on a rail's strand where one is given (10 R263, 11 R284). -/
def State.sendMsgIn (s : State) (d : Nat) (rail : Option Nat) (vc ctx : Nat) (tag : BitVec 32) (w0 w1 w2 w3 : BitVec 64)
    (data : List (BitVec 64)) : State :=
  sendAll (fun s f => s.sendIn d none rail f) s (msgFlits vc ctx s.link.coord (s.neighbour d) tag w0 w1 w2 w3 data)

/-- A LINKCTL flit on VC0 of a port (10 R253). -/
def State.sendLinkctl (s : State) (p : Nat) (ws : List (BitVec 64)) : State :=
  let f := { mkFlit 0 31 s.link.coord 0#16 0#32 true true ws with typ := 3#4 }
  s.modPort p fun k => { k with ctlq := k.ctlq ++ [f] }

end Sys2Proof.Machine
end

