-- ==== Sys2Proof/Machine/FaultOps.lean ====
section
/-!
DEFINITION. What every fault shares: the record ring, the key and its abort wave, the health score and state, and the
management datagrams that report them (11 R298 to R300, 13 R358, 14 R368 to R386).
-/

namespace Sys2Proof.Machine

open Sys2Proof

/-! ## Readiness -/

/-- Bring-up has reached ready (17 R461). -/
def State.ready (s : State) : Bool := s.rst.phase == 6
/-- Ready, and no fatal fault is latched (14 R371). -/
def State.live (s : State) : Bool := s.ready && !s.flt.active

/-- Module state of the heartbeat (14 R386). -/
def State.modState (s : State) : Nat :=
  if s.rst.phase == 15 then 0
  else if s.rst.phase != 6 then (if s.rst.kind == 0 || s.rst.kind == 3 then 0 else 6)
  else if s.hlt.hstate == 2 then 5
  else if s.flt.fenced then 4
  else if s.hlt.hstate == 1 then 3
  else if s.rst.short then 2
  else 1

/-- A trigger of a wake abandons an entry into a rest state, and counts as a wake (16 R437). -/
def State.abandonEntry (s : State) : State :=
  if s.pwr.entering.isNone then s else { s with pwr := { s.pwr with entering := none, wakes := satAdd 16 s.pwr.wakes 1 } }

/-- One more governor period of history; from the sixteenth on the next rise is predicted (16 R426, log 51). -/
def State.govPeriod (s : State) : State :=
  let (n, s) := s.draw
  { s with pwr := { s.pwr with hist := min 16 (s.pwr.hist + 1),
                               aim := if s.pwr.hist < 15 then none else (Config.predictRise n).map fun e => (s.now + e.1, e.2) } }

/-- Always-on time in 32.768 kHz ticks (14 R370). -/
def State.ticks (s : State) : Nat := s.pwr.aon * 32768 / 1000000

/-! ## Management datagrams (13 R358, R360, 14 R373) -/

/-- A management datagram with its header and MAC (13 R358). -/
def State.mgmtBytes (s : State) (kind seq : Nat) (body : List Byte) : List Byte :=
  let head := [0x5A#8, 0x49#8, 0x4D#8, 0x31#8, BitVec.ofNat 8 kind, 0#8, 0#8, 0#8] ++ natLe 8 seq
  head ++ (digestBytes (hmacSm3 (natLe 16 s.shk.mgmtKey.toNat) (head ++ body))).take 16 ++ body

/-- Send a management datagram from a port to its report address (13 R360). -/
def State.mgmtSend (s : State) (port kind seq : Nat) (body : List Byte) : State :=
  s.emit (.datagram port (SMap.get none s.hlt.reportAddr port) (s.mgmtBytes kind seq body))

/-! ## Records (14 R370) -/

/-- The eight words of a record (14 R370). -/
def FRec.words (r : FRec) : List (BitVec 64) :=
  [BitVec.ofNat 64 (r.seq % 2 ^ 32 + r.cls * 2 ^ 32 + b2n r.valid * 2 ^ 48 + b2n r.secondary * 2 ^ 49 + b2n r.primary * 2 ^ 50 +
     r.ctx * 2 ^ 51 + b2n r.insn * 2 ^ 56 + b2n r.coreValid * 2 ^ 57),
   BitVec.ofNat 64 r.time,
   BitVec.ofNat 64 (r.subject.toNat + r.lowest.toNat * 2 ^ 16 + r.epoch.toNat * 2 ^ 32),
   BitVec.ofNat 64 r.step,
   BitVec.ofNat 64 (r.core + r.word * 2 ^ 12 + r.task.toNat * 2 ^ 32),
   r.instr,
   r.detail,
   BitVec.ofNat 64 (r.resets % 2 ^ 16 + r.tally * 2 ^ 16 + r.dump * 2 ^ 32)]

/-- The 64 bytes of a record. -/
def FRec.bytes (r : FRec) : List Byte := r.words.flatMap fun w => natLe 8 w.toNat

/-- The record with a sequence number, in its ring entry (14 R370). -/
def State.record (s : State) (seq : Nat) : FRec := SMap.get {} s.hlt.recs (seq % 256)
/-- Change a record in its ring entry (14 R370). -/
def State.modRecord (s : State) (seq : Nat) (f : FRec → FRec) : State :=
  { s with hlt := { s.hlt with recs := SMap.upd {} s.hlt.recs (seq % 256) f } }

/-- Sequence numbers of the records of the fault in progress, the primary record first (14 R369). -/
def State.faultSeqs (s : State) : List Nat :=
  match s.flt.primary with | some q => upFrom q (s.hlt.nextSeq - q) | none => []

/-- FC_LINK_LOST of a direction stands among the faults in progress (11 R293). -/
def State.linkLost (s : State) (d : Nat) : Bool :=
  s.faultSeqs.any fun q => (s.record q).cls == 0x102 && (s.record q).detail.toNat % 8 == d

/-- A report on both management ports (14 R373). -/
def State.report (s : State) (type tally : Nat) (r : List Byte) : State :=
  let body := [BitVec.ofNat 8 type, BitVec.ofNat 8 s.modState] ++ natLe 2 s.hlt.score ++ natLe 4 tally ++
    natLe 8 Config.serial.toNat ++ r
  (s.mgmtSend 0 4 0 body).mgmtSend 1 4 0 body

/-- Sixteen zero words, the record field of a report that has none. -/
def noRecord : List Byte := List.replicate 64 0#8

/-! ## Health (14 R381 to R385) -/

/-- Move the health state by one event of 14 R384. Each fall of the score below REQ_BELOW makes one request, or has it withheld. -/
def State.judgeOnce (s : State) : State :=
  let h := s.hlt
  if h.hstate == 0 then
    if h.score < h.probBelow then { s with hlt := { h with hstate := 1, asked := false } }.report 3 0 noRecord else s
  else if h.hstate == 1 then
    if h.score ≥ h.probExit then
      { s with hlt := { h with hstate := 0, requested := false, withheld := false, asked := false } }.report 3 0 noRecord
    else if h.score ≥ h.reqBelow then { s with hlt := { h with asked := false } }
    else if h.asked then s
    else if h.hintHeld && !h.hint then { s with hlt := { h with requested := true, withheld := false, asked := true } }.report 2 0 noRecord
    else { s with hlt := { h with withheld := true } }
  else s

/-- Judge the health state after a change of the score or of a threshold (14 R384). -/
def State.judge (s : State) : State := s.judgeOnce.judgeOnce

/-- An hour and a day of always-on time in microseconds (14 R381). -/
def hourUs : Nat := 3600000000
def dayUs : Nat := 86400000000

/-- Lower the score by a penalty of an input, within its cap for the hour (14 R382). -/
def State.penalise (s : State) (input amount : Nat) (cap : Option Nat) : State :=
  let now := s.pwr.aon
  let recent := s.hlt.charged.filter fun e => decide (now < e.2.1 + hourUs)
  let sum := (recent.filter fun e => e.1 == input).foldl (fun t e => t + e.2.2) 0
  let amt := match cap with | some c => min amount (c - sum) | none => amount
  if amt == 0 then s
  else ({ s with hlt := { s.hlt with score := s.hlt.score - amt, charged := (input, now, amt) :: recent } }).judge

/-- Note an event of the 24 h counts: 0 two-bit correction, 1 uncorrectable word, 2 remap entry, 3 degrade, 4 port DOWN, 5 FC_UNCORR_MEM with this module as subject, 6 FC_THERMAL (14 R383, R391). -/
def State.note24 (s : State) (kind : Nat) : State :=
  let now := s.pwr.aon
  { s with hlt := { s.hlt with events := (kind, now) :: s.hlt.events.filter fun e => decide (now < e.2 + dayUs) } }

/-- Events of a kind in the last 24 h. -/
def State.count24 (s : State) (kind : Nat) : Nat :=
  (s.hlt.events.filter fun e => e.1 == kind && decide (s.pwr.aon < e.2 + dayUs)).length

/-- A hard fault expels the module (14 R383, R384). -/
def State.expel (s : State) (cause : Nat) : State :=
  if s.hlt.hstate == 2 then s
  else { s with hlt := { s.hlt with hstate := 2, expelCause := cause } }.report 3 0 noRecord

/-! ## The seen-filter and the abort wave (11 R298, R299) -/

/-- A key of a seen-filter entry. -/
def Seen.isKey (e : Seen) (subject : BitVec 16) (epoch : BitVec 32) : Bool := e.subject == subject && e.epoch == epoch

/-- The entry of a key. -/
def State.seenKey (s : State) (subject : BitVec 16) (epoch : BitVec 32) : Option Seen :=
  (s.link.seen.find? fun e => e.2.isKey subject epoch).map (·.2)

/-- Change the entry of a key. -/
def State.modSeen (s : State) (subject : BitVec 16) (epoch : BitVec 32) (f : Seen → Seen) : State :=
  { s with link := { s.link with seen := updFirst (fun e => e.2.isKey subject epoch) (fun e => (e.1, f e.2)) s.link.seen } }

/-- Enter a new key; a full filter replaces its oldest entry (11 R299). -/
def State.enterSeen (s : State) (k : Seen) : State :=
  let old := s.link.seen
  let new := if old.length < 64 then
      old ++ [(((List.range 64).find? fun i => old.all fun e => e.1 != i).getD 0, k)]
    else match old with | [] => [(0, k)] | e :: r => r ++ [(e.1, k)]
  { s with link := { s.link with seen := new } }

/-- Send an ABORT in every direction with an ACTIVE port but one (11 R299). -/
def State.sendAborts (s : State) (except : Option Nat) (w2 w3 : BitVec 64) : State :=
  (List.range 8).foldl (fun s d =>
    if some d == except || (s.effective d).isEmpty then s
    else s.sendMsgIn d none 0 (fld w2.toNat 20 16) 0xFFFFFFFF#32 0x20#64 0#64 w2 w3 []) s

/-- Word 2 of an ABORT or TALLY (11 R299). -/
def abortW2 (cls ctx : Nat) : BitVec 64 := BitVec.ofNat 64 (cls + ctx * 2 ^ 16)
/-- Word 3 of an ABORT or TALLY (11 R299). -/
def abortW3 (subject origin : BitVec 16) (epoch : BitVec 32) : BitVec 64 :=
  BitVec.ofNat 64 (subject.toNat + origin.toNat * 2 ^ 16 + epoch.toNat * 2 ^ 32)

/-- The class forms a key (11 R298, 14 R368). -/
def formsKey (cls : Nat) : Bool := cls != 0x105 && cls != 0x10B

/-- A member that raises a fault originates the wave of its key (11 R299 point 1). -/
def State.originate (s : State) (cls ctx : Nat) (subject : BitVec 16) : State :=
  let ep := s.link.faultEpoch
  let own := s.link.coord
  match s.seenKey subject ep with
  | some _ => s
  | none =>
    (s.enterSeen { subject := subject, lowest := own, epoch := ep, origin := true, primary := false, dup := 0, tally := 0 }).sendAborts
      none (abortW2 cls ctx) (abortW3 subject own ep)

/-! ## Raising a fatal fault (14 R368 to R371) -/

/-- The step of a record: the applied epoch plus 1 while the context has a RUN (14 R370). -/
def State.recStep (s : State) (ctx : Nat) : Nat :=
  if ctx < 16 && !(s.ctx ctx).runs.isEmpty then ((s.ctx ctx).step.applied + 1) % 2 ^ 48 else 0xFFFFFFFFFFFF

/-- Complete a record's common fields (14 R370). For FC_ABORT_REMOTE and FC_DUMP_INCOMPLETE the caller gives subject and lowest. -/
def State.fillRec (s : State) (r : FRec) (secondary : Bool) : FRec :=
  let own := s.link.coord
  let low := if formsKey r.cls then (match s.seenKey r.subject s.link.faultEpoch with | some e => e.lowest | none => own) else r.lowest
  { r with seq := s.hlt.nextSeq, valid := true, secondary := secondary, primary := false, time := s.ticks,
           subject := if s.link.member then r.subject else own, lowest := if s.link.member then low else own,
           epoch := s.link.faultEpoch, step := s.recStep r.ctx, resets := s.rst.fault, tally := 0, dump := 0 }

/-- Commit a record to the ring (14 R370). -/
def State.commitRec (s : State) (r : FRec) : State :=
  { s with hlt := { s.hlt with recs := SMap.set {} s.hlt.recs (r.seq % 256) r, nextSeq := s.hlt.nextSeq + 1 } }

/-- The penalties and hard faults of a class that names this module as subject (14 R382, R383). -/
def State.classHealth (s : State) (r : FRec) : State :=
  if r.subject != s.link.coord then s
  else if r.cls == 0x100 then s.penalise 10 20 none
  else if r.cls == 0x10A then
    let s := (s.penalise 11 100 none).note24 6
    if s.count24 6 ≥ 2 then s.expel 4 else s
  else if r.cls == 0x101 then
    let s := s.note24 5
    if s.count24 5 ≥ 3 then s.expel 3 else s
  else s

/-- The dump of the fault in progress is taken (14 R379). -/
def State.dumpDue (s : State) : Bool :=
  match s.flt.primary with | some q => (s.record q).cls != 0x105 || s.hlt.dumpOnRemote | none => false

/-- The start of a dump writes a new header, of this firmware's release, over the dump that was held (14 R376, R377). -/
def State.openDump (s : State) : State :=
  if s.flt.dumping then s
  else { s with flt := { s.flt with dumping := true, dumpNext := 0, dir := [], dumpBytes := [], dumpValid := true, dumpComplete := false,
                                    dumpSeq := s.flt.primary.getD 0, dumpRelease := s.shk.release.toNat, dumpStart := s.ticks, dumpEnd := 0 } }

/-- Raise a fatal fault: latch and record it, stop the module, originate its wave, and begin the dump where one is taken (14 R369, R371, R377, 11 R299). A fault beyond 15 secondary records is only counted, with its penalty (14 R382). -/
def State.fatal (s : State) (r : FRec) : State :=
  if s.flt.active && decide (s.flt.secondaries ≥ 15) then
    ({ s with hlt := { s.hlt with dropped := satAdd 16 s.hlt.dropped 1 } } : State).classHealth r
  else
    let second := s.flt.active
    let s := s.abandonEntry
    let s := if s.link.member && formsKey r.cls then s.originate r.cls r.ctx r.subject else s
    let rec_ := s.fillRec r second
    let s := s.commitRec rec_
    let s := if second then { s with flt := { s.flt with secondaries := s.flt.secondaries + 1 } }
      else { s with flt := { s.flt with active := true, tf := s.now, primary := some rec_.seq, secondaries := 0, ms1 := [], told := [],
                                        twoMs := false } }
    let s := if !second && s.dumpDue then s.openDump else s
    s.classHealth r

/-- FC_ILLEGAL raised for a context by no instruction (05 R144, 09 R224). -/
def State.illegal (s : State) (ctx : Nat) : State := s.fatal { cls := 0x106, ctx := ctx, subject := s.link.coord }

/-- FC_ILLEGAL raised for a context, naming a core and a task (05 R144). -/
def State.illegalTask (s : State) (ctx core : Nat) (task : BitVec 32) : State :=
  s.fatal { cls := 0x106, ctx := ctx, subject := s.link.coord, coreValid := true, core := core, task := task }

end Sys2Proof.Machine
end

