-- ==== Sys2Proof/Machine/MemOps.lean ====
section
/-!
DEFINITION. The tiers: the address map, the word code and its events, allocation, charges and fills (09).
-/

namespace Sys2Proof.Machine

open Sys2Proof

/-! ## The address map (09 R216 to R218) -/

/-- Base and size of T1, T2 and the bulk window. -/
def t1Base : Nat := 0x010000000000
def t1Size : Nat := 0xF000000000
def t2Base : Nat := 0x020000000000
def t2Size : Nat := 0x18000000000
def windowSize : Nat := 0x4000000000
/-- Size of a quarter region (09 R217). -/
def regionSize : Nat := 0x3C00000000
/-- The allocation unit, 2 MiB (09 R220). -/
def unit2M : Nat := 0x200000

/-- `[a, a+n)` lies inside `[b, b+m)`. -/
def within (a n b m : Nat) : Bool := decide (b ≤ a) && decide (a + n ≤ b + m)
/-- Two ranges share an address. -/
def overlaps (a n b m : Nat) : Bool := decide (a < b + m) && decide (b < a + n)
/-- An address in T1. -/
def inT1 (a : Nat) : Bool := within a 1 t1Base t1Size
/-- An address in T2. -/
def inT2 (a : Nat) : Bool := within a 1 t2Base t2Size

/-- Controller of a T1 or T2 address: stacks 0 to 11, channels 12 to 35 (09 R217, R218, R242). -/
def controllerOf (a : Nat) : Nat :=
  if inT1 a then
    let o := a - t1Base
    3 * (o / regionSize) + o % regionSize / 4096 % 3
  else 12 + (a - t2Base) / 256 % 24

/-- Entries of a controller's remap table (09 R235). -/
def remapMax (c : Nat) : Nat := if c < 12 then 64 else 16

/-! ## Remapping (09 R234, R235) -/

/-- Change the data-integrity record. -/
def State.modEcc (s : State) (f : Ecc → Ecc) : State := { s with ecc := f s.ecc }

/-- Remap table of a controller. -/
def State.remaps (s : State) (c : Nat) : List Remap := SMap.get [] s.ecc.remaps c

/-- Entries of a remap table in use (09 R242). -/
def usedRemaps (t : List Remap) : Nat := (t.filter (·.valid)).length

/-- Every entry of a controller's table is in use (09 R235, R242). -/
def State.remapFull (s : State) (c : Nat) : Bool := decide (remapMax c ≤ usedRemaps (s.remaps c))

/-- Enter a line in the next free place of a table (09 R234). -/
def enterRemap (t : List Remap) (e : Remap) : List Remap :=
  match t.findIdx? fun r => !r.valid with | some i => t.set i e | none => t ++ [e]

/-- Remap the line of a word, unless the table is full (09 R234, R235); the health inputs follow (14 R382). -/
def State.remap (s : State) (a cause : Nat) : State :=
  let c := controllerOf a
  if s.remapFull c then s
  else
    let t := enterRemap (s.remaps c) { valid := true, cause := cause, line := a / 64, committed := false }
    let s := s.modEcc fun e => { e with remaps := SMap.set [] e.remaps c t }
    let s := (s.note24 2).penalise 2 5 (some 50)
    if s.remapFull c then s.penalise 3 150 none else s

/-! ## The word code (09 R226 to R228, R236) -/

/-- Bits in error of a word. -/
def State.badBits (s : State) (w : Nat) : Nat := SMap.get 0 s.ecc.bad w
/-- Set the bits in error of a word. -/
def State.setBad (s : State) (w n : Nat) : State := s.modEcc fun e => { e with bad := SMap.set 0 e.bad w n }
/-- Bits found in error by the time of an access. -/
def State.applyUpsets (s : State) (us : List Upset) : State := us.foldl (fun s u => s.setBad (u.addr / 8 * 8) u.bits) s

/-- Enter an event in MEM_ECC_LAST (09 R239). -/
def State.eccLast (s : State) (w kind found : Nat) : State :=
  s.modEcc fun e => { e with lastAddr := w / 8, lastKind := kind, lastFound := found }

/-- A one-bit correction (09 R228, R234): count it, write the word back, remap a word corrected before. -/
def State.eccSingle (s : State) (w found : Nat) : State :=
  let s := (s.setBad w 0).eccLast w 1 found
  let s := s.modEcc fun e => if inT1 w then { e with single1 := satAdd 32 e.single1 1 } else { e with single2 := satAdd 32 e.single2 1 }
  let n := s.hlt.rem1024 + 1
  let s := if n ≥ 1024 then { s with hlt := { s.hlt with rem1024 := 0 } }.penalise 0 1 (some 4)
    else { s with hlt := { s.hlt with rem1024 := n } }
  let c := controllerOf w
  let r := SMap.get [] s.ecc.recent c
  let s := s.modEcc fun e => { e with recent := SMap.set [] e.recent c ((w :: r.filter (· != w)).take 256) }
  if r.contains w then s.remap w 1 else s

/-- A two-bit correction (09 R228, R234). -/
def State.eccDouble (s : State) (w found : Nat) : State :=
  let s := (s.setBad w 0).eccLast w 2 found
  let s := s.modEcc fun e => if inT1 w then { e with double1 := satAdd 16 e.double1 1 } else { e with double2 := satAdd 16 e.double2 1 }
  ((s.note24 0).penalise 1 2 (some 20)).remap w 0

/-- An uncorrectable word found by read, scrub or merge (09 R228, R238, 14 R382, R383). -/
def State.eccUncorr (s : State) (w found : Nat) : State :=
  let s := s.eccLast w 3 found
  let s := s.modEcc fun e => if inT1 w then { e with uncorr1 := satAdd 12 e.uncorr1 1 } else { e with uncorr2 := satAdd 12 e.uncorr2 1 }
  let s := (s.note24 1).penalise 4 40 none
  if s.remapFull (controllerOf w) then s.expel 2 else s

/-- A word that a miss or a miscorrection changed (09 R226). -/
def State.eccChange (s : State) (w : Nat) : State :=
  let (n, s) := s.draw
  (s.setBad w 0).setBytes w (natLe 8 (Config.eccWord n).toNat)

/-- An access meets a word: whether its data are good, and the state after. `found` is 0 read, 1 scrub, 2 merge (09 R226). A store word has one parity bit (09 R236). -/
def State.meetWord (s : State) (w found : Nat) : Bool × State :=
  let b := s.badBits w
  if b == 0 then (true, s)
  else if inT1 w || inT2 w then
    if b == 1 then (true, s.eccSingle w found)
    else if b == 2 then (true, s.eccDouble w found)
    else if b == 3 then (false, s.eccUncorr w found)
    else
      let (n, s) := s.draw
      match (Config.eccFour n).val with
      | 0 => (false, s.eccUncorr w found)
      | 1 => (true, s.eccChange w)
      | 2 => (true, (s.eccChange w).eccSingle w found)
      | _ => (true, (s.eccChange w).eccDouble w found)
  else if b % 2 == 1 then
    (false, (s.modEcc fun e => { e with storePar := satAdd 16 e.storePar 1 }).penalise 5 40 none)
  else (true, s.eccChange w)

/-- Meet every word in error of a list; the first uncorrectable one ends the access. -/
def State.meetWords (s : State) (found : Nat) : List Nat → Option Nat × State
  | [] => (none, s)
  | w :: ws =>
    match s.meetWord w found with
    | (true, s) => s.meetWords found ws
    | (false, s) => (some w, s)

/-- The words in error that a range covers, wholly or in part. -/
def State.badIn (s : State) (a n : Nat) : List Nat :=
  (s.ecc.bad.map (·.1)).filter fun w => overlaps w 8 a n

/-- Stores of the block that a partial reset names: the core stores, and the quarter store of a partition (17 R456, R460). -/
def Rst.block (r : Rst) : List (Nat × Nat) :=
  if r.scope == 1 then [(coreBase r.index, coreBase 1)]
  else if r.scope == 2 then [(coreBase (8 * r.index), coreBase 8)]
  else if r.scope == 3 then [(coreBase (80 * r.index), coreBase 80), (0xC0000000 + r.index * 0x4000000, 0x4000000)]
  else []

/-- Core `c` lies in the block (17 R456, R460). -/
def Rst.hasCore (r : Rst) (c : Nat) : Bool :=
  (r.scope == 1 && c == r.index) || (r.scope == 2 && c / 8 == r.index) || (r.scope == 3 && c / 80 == r.index)

/-- An access arrives for a block under partial reset (17 R456 step 2). -/
def State.inReset (s : State) (a n : Nat) : Bool := s.rst.busy && s.rst.block.any fun r => overlaps a n r.1 r.2

/-- Count stragglers of a partial reset (17 R456, R460). -/
def State.straggle (s : State) (n : Nat) : State := { s with rst := { s.rst with stragglers := satAdd 16 s.rst.stragglers n } }

/-- Read a range through the word code: the bytes, or the address of an uncorrectable word (09 R228, R237). A block under
partial reset answers zeros (17 R456). -/
def State.load (s : State) (a n : Nat) : (List Byte ⊕ Nat) × State :=
  if s.inReset a n then (.inl (List.replicate n 0#8), s.straggle 1)
  else
    match s.meetWords 0 (s.badIn a n) with
    | (none, s) => (.inl (s.bytes a n), s)
    | (some w, s) => (.inr w, s)

/-- The words that a range covers only in part. -/
def partWords (a n : Nat) : List Nat :=
  (if a % 8 != 0 then [a / 8 * 8] else []) ++ (if (a + n) % 8 != 0 then [(a + n) / 8 * 8] else [])

/-- A write meets an armed injection: its word is corrupted, and the injection is disarmed (09 R241). -/
def State.inject (s : State) (a n : Nat) : State :=
  if s.ecc.injArmed && overlaps (s.ecc.injAddr * 8) 8 a n then
    (s.modEcc fun e => { e with injArmed := false }).setBad (s.ecc.injAddr * 8) s.ecc.injFlips
  else s

/-- Clear the errors of the words a range covers wholly, and let an armed injection corrupt its word (09 R227, R241). -/
def State.afterStore (s : State) (a n : Nat) : State :=
  (s.modEcc fun e => { e with bad := e.bad.filter fun b => !within b.1 8 a n }).inject a n

/-- Write a range through the word code; an uncorrectable word that it covers in part stops the write (09 R227). A block under
partial reset drops it (17 R456). -/
def State.store (s : State) (a : Nat) (bs : List Byte) : Option Nat × State :=
  if s.inReset a bs.length then (none, s.straggle 1)
  else match s.meetWords 2 ((partWords a bs.length).filter fun w => s.badBits w != 0) with
  | (some w, s) => (some w, s)
  | (none, s) => (none, (s.setBytes a bs).afterStore a bs.length)

/-- Zeros and fresh check bits over a range (09 R229, R230). -/
def State.fill (s : State) (a n : Nat) : State := (s.zero a n).afterStore a n

/-- FC_UNCORR_MEM: the word, the row of the table of 09 R237, the context and the core (14 R368). -/
def State.uncorrFault (s : State) (w consumer ctx : Nat) (core : Option (Nat × BitVec 32)) : State :=
  s.fatal { cls := 0x101, ctx := ctx, subject := s.link.coord, coreValid := core.isSome,
            core := (core.getD (0, 0#32)).1, task := (core.getD (0, 0#32)).2,
            detail := BitVec.ofNat 64 (w / 8 * 8 + consumer * 2 ^ 48) }

/-- Path words replayed (09 R236, R240, 14 R382). -/
def State.noteReplays (s : State) (n : Nat) : State :=
  if n == 0 then s
  else
    let s := s.modEcc fun e => { e with nocReplays := satAdd 32 e.nocReplays n }
    let t := s.hlt.rem4096 + n
    let s := { s with hlt := { s.hlt with rem4096 := t % 4096 } }
    if t / 4096 == 0 then s else s.penalise 6 (t / 4096) (some 4)

/-- A transfer crosses the module's paths: the replays of a word are counted, and after eight of them the path has failed, with the outcome of R237 for what carried the word (09 R236, log 85). -/
def State.cross (s : State) (replays w consumer ctx : Nat) (core : Option (Nat × BitVec 32)) (body : State → State) : State :=
  let s := s.noteReplays replays
  if replays ≥ 8 then s.uncorrFault w consumer ctx core else body s

/-! ## Allocations and charges (09 R220 to R224, R501) -/

/-- Bytes of an allocation. -/
def Alloc.size (x : Alloc) : Nat := x.units * unit2M

/-- State areas of a context slot: base and bytes (09 R501). -/
def CtxMem.areas (m : CtxMem) : List (Nat × Nat) :=
  ((List.range 4).filterMap fun q => (SMap.get none m.save q).map fun b => (b, 492 * 0x100000)) ++
  (match m.control with | some b => [(b, unit2M)] | none => []) ++
  (match m.taskArea with | some (b, u) => [(b, u * unit2M)] | none => []) ++
  m.scaling.map fun b => (b, unit2M)

/-- Where a context's scaling records begin; 0 for none. -/
def CtxMem.scalingBase (m : CtxMem) : Nat := m.scaling.headD 0

/-- State areas of every slot. -/
def State.areas (s : State) : List (Nat × Nat) := (List.range 17).flatMap fun n => (s.ctx n).mem.areas

/-- T2 staging of snapshots and of raw loads: base and bytes (03 R81, 15 R401). -/
def State.staging (s : State) : List (Nat × Nat) :=
  ((List.range 16).flatMap fun n =>
    let k := (s.ctx n).snap
    ((match k.op with | some o => o.staging | none => []) ++ (match k.drain with | some o => o.staging | none => [])).map
      fun (r : Nat × Nat) => (r.1, r.2 * unit2M)) ++
  s.loads.filterMap fun l => l.stage.map fun r => (r.1, r.2 * unit2M)

/-- State areas of the slots whose teardown fill has begun, and of the others (09 R230, R501). -/
def State.areasOf (s : State) (filling : Bool) : List (Nat × Nat) :=
  ((List.range 17).filter fun n => (s.ctx n).sched.filling == filling).flatMap fun n => (s.ctx n).mem.areas

/-- Ranges of T1 or T2 in use other than by fills: allocations that are not being freed, lasts, state areas. -/
def State.usedRanges (s : State) (tier : Nat) : List (Nat × Nat) :=
  (s.allocs.filter fun a => a.tier == tier && !a.freeing).map (fun a => (a.base, a.size)) ++
  (if tier == 1 then
    ([s.lastA, s.lastB].filterMap fun l => l.base.map fun b => (b, l.units * unit2M)) ++ s.areasOf false
  else s.staging)

/-- Ranges of a tier that return to the free pool: those being filled, and the state areas of a slot until it is FREE (09 R230, R501). -/
def State.fillRanges (s : State) (tier : Nat) : List (Nat × Nat) :=
  (s.fills.filter fun f => f.tier == tier).map (fun f => (f.base, f.units * unit2M)) ++ (if tier == 1 then s.areasOf true else [])

/-- A range meets none of a list of ranges. -/
def clearOf (a n : Nat) (rs : List (Nat × Nat)) : Bool := rs.all fun r => !overlaps a n r.1 r.2

/-- The placement's range: T1 regions 0 to 3, or 4 for the whole tier; T2 0 outside the bulk window, 1 the window (09 R220, 13 R362). -/
def placeRange (tier place : Nat) : Nat × Nat :=
  if tier == 1 then (if place < 4 then (t1Base + place * regionSize, regionSize) else (t1Base, t1Size))
  else if place == 1 then (t2Base, windowSize)
  else (t2Base + windowSize, t2Size - windowSize)

/-- The lowest base of a free range of `n` bytes in a placement, when some ranges are in use: the placement's base or the end of a range in use (15 R408). -/
def lowestFree (base size n : Nat) (rs : List (Nat × Nat)) : Option Nat :=
  (base :: rs.map fun r => r.1 + r.2).foldl (fun m a =>
    if within a n base size && clearOf a n rs then (match m with | some x => some (min x a) | none => some a) else m) none

/-- Quota and use of a tier (09 R244). -/
def CtxMem.limit (m : CtxMem) (tier : Nat) : Nat := if tier == 1 then m.lim1 else if tier == 2 then m.lim2 else m.lim3
def CtxMem.used (m : CtxMem) (tier : Nat) : Nat := if tier == 1 then m.used1 else if tier == 2 then m.used2 else m.used3
/-- Change a tier's use. -/
def CtxMem.setUsed (m : CtxMem) (tier v : Nat) : CtxMem :=
  if tier == 1 then { m with used1 := v } else if tier == 2 then { m with used2 := v } else { m with used3 := v }

/-- T3 in 2 MiB units, less the dump area's 64 MiB (01 R16, 14 R374). -/
def t3Units : Nat := 0x400000 - 32
/-- T3 units in use: handles, package cache entries, snapshot generations (09 R221). -/
def State.t3Used (s : State) : Nat :=
  ((s.allocs.filter fun a => a.tier == 3).map (·.units)).sum + (s.cache.map (·.units)).sum +
    ((List.range 16).map fun n => (s.ctx n).snap.g0.units + (s.ctx n).snap.g1.units).sum

/-- Outcome of a charge (09 R222, R230): taken at a base, over quota, tier exhausted, or waiting for a fill. -/
inductive Charge where
  | ok (base : Nat)
  | overQuota
  | exhausted
  | wait
  deriving DecidableEq, Repr

/-- T1 units that charges without an address hold: the stages of RUNs and the journals (06 R165, 07 R182). Such a charge takes no range, so
that addresses stay a matter of CTX_CREATE and MEM_ALLOC alone (15 R408); a later charge leaves as many units free (log 110). -/
def State.heldUnits (s : State) : Nat :=
  ((List.range 16).map fun n => ((s.ctx n).runs.map (·.reserved)).sum + if (s.ctx n).step.journalRes then 16 else 0).sum

/-- Units that no range of a list takes. -/
def unitsLeft (rs : List (Nat × Nat)) : Nat := t1Size / unit2M - (rs.map fun r => r.2 / unit2M).sum

/-- Find room for a charge in a placement, when some more units are held without an address (09 R222, R230). -/
def State.findRoom (s : State) (tier place units : Nat) (more : Nat := 0) : Charge :=
  let (b, n) := placeRange tier place
  let used := s.usedRanges tier
  let room := fun rs => tier != 1 || decide (units + more + s.heldUnits ≤ unitsLeft rs)
  match lowestFree b n (units * unit2M) (used ++ s.fillRanges tier) with
  | some a => if room (used ++ s.fillRanges tier) then .ok a else if room used then .wait else .exhausted
  | none => if (lowestFree b n (units * unit2M) used).isSome && room used then .wait else .exhausted

/-- What a context uses of a tier's quota: its charges, and in T1 one unit for each retention record it holds; the bytes of a region in T2
are its allocation's and count in no T1 quota (07 R181, log 84). -/
def Ctx.usedIn (k : Ctx) (tier : Nat) : Nat := k.mem.used tier + (if tier == 1 then k.step.retained.length else 0)

/-- Judge a charge of a context: quota first, then room (09 R222). -/
def State.charge (s : State) (ctx tier place units : Nat) : Charge :=
  if (s.ctx ctx).usedIn tier + units > (s.ctx ctx).mem.limit tier then .overQuota
  else if tier == 3 then (if s.t3Used + units > t3Units then .exhausted else .ok s.nextHandle)
  else s.findRoom tier place units

/-- Add to a context's use of a tier. -/
def State.addUsed (s : State) (ctx tier units : Nat) : State :=
  s.modCtx ctx fun k => k.modMem fun m => m.setUsed tier (m.used tier + units)
/-- Take from a context's use of a tier. -/
def State.subUsed (s : State) (ctx tier units : Nat) : State :=
  s.modCtx ctx fun k => k.modMem fun m => m.setUsed tier (m.used tier - units)

/-- Enter an allocation that a charge found room for. -/
def State.addAlloc (s : State) (ctx tier base units : Nat) : State :=
  let s := { s with allocs := s.allocs ++ [({ ctx := ctx, tier := tier, base := base, units := units, freeing := false } : Alloc)] }
  let s := if tier == 3 then { s with nextHandle := s.nextHandle + 1 } else s
  s.addUsed ctx tier units

/-- Start the zero fill of a released range (09 R230). -/
def State.startFill (s : State) (tier base units : Nat) (waiter : Option (Nat × BitVec 16)) (retire : Option Nat) : State :=
  { s with fills := s.fills ++ [({ tier := tier, base := base, units := units, waiter := waiter, retire := retire } : Fill)] }

/-- A range of T1 or T2 lies in one allocation of a context (09 R224). -/
def State.inAlloc (s : State) (ctx a n : Nat) : Bool :=
  s.allocs.any fun x => x.ctx == ctx && x.tier != 3 && !x.freeing && within a n x.base x.size

/-- A range lies wholly within T1 allocations of a context, which may adjoin. -/
def State.inT1Allocs (s : State) (n a len : Nat) : Bool :=
  inT1 a && decide (1 ≤ len) && decide (a + len ≤ t1Base + t1Size) &&
    (upFrom (a / unit2M) ((a + len - 1) / unit2M - a / unit2M + 1)).all fun u =>
      s.allocs.any fun x => x.ctx == n && x.tier == 1 && !x.freeing && within (u * unit2M) unit2M x.base x.size

/-- Take a state area of a region: directly below the state areas it holds (09 R501). -/
def State.takeArea (s : State) (region bytes : Nat) : Option Nat :=
  let b := t1Base + region * regionSize
  let low := (s.areas.filter fun r => within r.1 r.2 b regionSize).foldl (fun m r => min m r.1) (b + regionSize)
  if low < b + bytes then none
  else
    let a := low - bytes
    if clearOf a bytes (s.usedRanges 1 ++ s.fillRanges 1) then some a else none

/-- Free values for the bytes of a range (log 2). -/
def State.undefBytes (s : State) (a n : Nat) : State :=
  let (k, s) := s.draw
  s.setBytes a ((List.range n).map fun i => Config.freeByte k (a + i))

/-- Undefined bytes over a range (08 R204, 11 R283, log 2). -/
def State.scramble (s : State) (a n : Nat) : State := (s.undefBytes a n).inject a n

/-- The module once its fills have ended: a retiring slot that is being filled holds no state areas (09 R501). -/
def State.filled (s : State) : State :=
  (List.range 16).foldl (fun s m => if (s.ctx m).sched.filling then
    s.modCtx m fun k => k.modMem fun x => { x with save := [], control := none, taskArea := none, scaling := [] } else s) { s with fills := [] }

end Sys2Proof.Machine
end

