-- ==== Sys2Proof/Machine/HostOps.lean ====
section
/-!
DEFINITION. What host commands share: bulk pages and their owners, commands in progress and their completions (13 R345 to
R357).
-/

namespace Sys2Proof.Machine

open Sys2Proof

/-! ## Bulk pages (13 R341, R345 to R348) -/

/-- Bulk page of an address of the window. -/
def pageOf (a : Nat) : Nat := (a - t2Base) / unit2M
/-- First address of a bulk page. -/
def pageBase (p : Nat) : Nat := t2Base + p * unit2M
/-- An address in the bulk window. -/
def inWindow (a : Nat) : Bool := within a 1 t2Base windowSize

/-- Change the host record. -/
def State.modHost (s : State) (f : HostSt → HostSt) : State := { s with host := f s.host }
/-- Owner and sequence byte of a page. -/
def State.page (s : State) (p : Nat) : Page := SMap.get {} s.host.pages p
/-- Set a page's owner; a change of owner increments its sequence byte (13 R345). -/
def State.setOwner (s : State) (p owner : Nat) : State :=
  let g := s.page p
  if g.owner == owner then s else s.modHost fun h => { h with pages := SMap.set {} h.pages p { owner := owner, seq := g.seq + 1#8 } }

/-- A write dropped by R346: the page becomes FAULTED, and is counted when it enters that state. -/
def State.faultPage (s : State) (p : Nat) : State :=
  if (s.page p).owner == 3 then s else (s.setOwner p 3).modHost fun h => { h with faulted := satAdd 15 h.faulted 1 }

/-- Cut a range at page borders: the part in the first page and the rest. -/
def pagePart (a n : Nat) : Nat := min n (unit2M - a % unit2M)

/-- A module-side write of a range: pages of the window that the host owns drop it and become FAULTED, and a FREE page is not written (13 R346). `n` bounds the pages it meets. An unreadable word under a partial write is answered (09 R227). -/
def State.devWrite (s : State) : Nat → Nat → List Byte → Option Nat × State
  | 0, _, _ => (none, s)
  | n + 1, a, bs =>
    if bs.isEmpty then (none, s)
    else
      let k := pagePart a bs.length
      let owner := (s.page (pageOf a)).owner
      let r := if inWindow a && owner != 2 then (none, if owner == 0 then s else s.faultPage (pageOf a)) else s.store a (bs.take k)
      match r with
      | (some w, s) => (some w, s)
      | (none, s) => s.devWrite n (a + k) (bs.drop k)

/-- Write bytes for the module at an address (13 R346). -/
def State.write (s : State) (a : Nat) (bs : List Byte) : Option Nat × State := s.devWrite (bs.length / unit2M + 2) a bs

/-- The pages that a range of the window meets. -/
def pagesOf (a n : Nat) : List Nat := if n == 0 then [] else upFrom (pageOf a) (pageOf (a + n - 1) - pageOf a + 1)

/-- A write of a context's work: one that meets a FREE page is refused as an access outside its allocations (09 R224, 13 R346). -/
def State.writeFor (s : State) (ctx a : Nat) (bs : List Byte) : Option Nat × State :=
  if inWindow a && (pagesOf a bs.length).any fun p => (s.page p).owner == 0 then (none, s.illegal ctx) else s.write a bs

/-! ## Commands in progress (13 R350 to R355) -/

/-- Bytes of a command's slot from offset `o`, as a number (13 R350). -/
def Cmd.p (c : Cmd) (o n : Nat) : Nat := leNat ((c.params.drop (o - 8)).take n)

/-- Commands of a context in progress: started and not yet with a written completion (13 R352). -/
def CtxHost.inProgress (h : CtxHost) : Nat := h.cmds.length + h.comps.length

/-- The command of a context, opcode and tag, by whether its own row has run. -/
def State.cmd? (s : State) (n op : Nat) (tag : BitVec 16) (running : Bool) : Option Cmd :=
  (s.ctx n).host.cmds.find? fun c => c.opcode == op && c.tag == tag && c.running == running

/-- Change a context's host part. -/
def State.modCHost (s : State) (n : Nat) (f : CtxHost → CtxHost) : State := s.modCtx n fun k => k.modHost f

/-- End a running command: its completion joins the queue of completions (13 R354). -/
def State.finishWith (s : State) (n op : Nat) (tag : BitVec 16) (status : Nat) (r0 r1 : BitVec 64) (cacheFail : Bool) (extra : List Byte) : State :=
  match s.cmd? n op tag true with
  | none => s
  | some c => s.modCHost n fun h =>
      { h with cmds := dropFirst (fun c => c.opcode == op && c.tag == tag && c.running) h.cmds,
               comps := h.comps ++ [{ opcode := op, tag := tag, status := status, res0 := r0, res1 := r1, cacheFail := cacheFail,
                                      extra := extra, seq := c.seq, ports := c.ports }] }

/-- End a running command with a status and results. -/
def State.finish (s : State) (n op : Nat) (tag : BitVec 16) (status : Nat) (r0 r1 : Nat) : State :=
  s.finishWith n op tag status (BitVec.ofNat 64 r0) (BitVec.ofNat 64 r1) false []

/-- A command's row: the first command of the context with the opcode and tag whose row has not run. -/
def State.command (s : State) (n op : Nat) (tag : BitVec 16) (body : Cmd → State → State) : State :=
  if !s.live then s
  else
    match s.cmd? n op tag false with
    | none => s
    | some c => body c (s.modCHost n fun h =>
        { h with cmds := updFirst (fun c => c.opcode == op && c.tag == tag && !c.running) (fun c => { c with running := true }) h.cmds })

/-- A command's row that runs only when the command meets a condition. -/
def State.commandIf (s : State) (n op : Nat) (tag : BitVec 16) (go : Cmd → Bool) (body : Cmd → State → State) : State :=
  match s.cmd? n op tag false with
  | some c => if go c then s.command n op tag body else s
  | none => s

/-- A RUN of the context is in progress: started, and its completion entry not yet written (13 R352). -/
def Ctx.runInProgress (k : Ctx) : Bool :=
  !k.runs.isEmpty || k.host.cmds.any (fun c => c.opcode == 0x31) || k.host.comps.any (fun e => e.opcode == 0x31)

/-- The 32 bytes of a completion entry (13 R354). -/
def Comp.bytes (e : Comp) (n : Nat) (phase : Bool) (sqHead : BitVec 32) : List Byte :=
  let b := natLe 2 e.opcode ++ [BitVec.ofNat 8 n, BitVec.ofNat 8 (b2n phase + 2 * b2n e.cacheFail)] ++ natLe 2 e.tag.toNat ++
    natLe 2 e.status ++ natLe 8 e.res0.toNat ++ natLe 8 e.res1.toNat ++ natLe 4 sqHead.toNat
  b ++ natLe 4 (crc32c b).toNat

/-- Room in a completion ring (13 R355). -/
def CtxHost.cqRoom (h : CtxHost) : Bool := decide ((h.cqTail - h.cqHead).toNat < 256)

/-- A completion SEND on the queue pair that NOTIFY names (13 R356). -/
def State.notifySend (s : State) (n : Nat) (bs : List Byte) : State :=
  let h := (s.ctx n).host
  match SMap.get none s.host.qps h.notifyQp.toNat with
  | some q => if h.notifyEn && q.ctx == n then s.emit (.send h.notifyQp.toNat bs) else s
  | none => s

/-- Write a completion entry of a client context (13 R354 to R356). -/
def State.postRing (s : State) (n : Nat) (e : Comp) : State :=
  let h := (s.ctx n).host
  let k := h.cqTail.toNat
  let bs := e.bytes n (k / 256 % 2 == 0) h.sqHead
  let s := s.modHost fun x => { x with rings := Mem.write x.rings (0x80000 + 0x2000 * n + 32 * (k % 256)) bs }
  (s.modCHost n fun h => { h with cqTail := h.cqTail + 1#32 }).notifySend n bs

/-- Keep the last 1,024 sequence numbers, and the completions of the last 256 (13 R359). -/
def trimKept (ks : List Kept) : List Kept :=
  let ks := ks.take 1024
  ks.take 256 ++ (ks.drop 256).map fun k => { k with comp := none }

/-- Keep a management completion, if its sequence is still among the last 256 (13 R359). -/
def State.keepComp (s : State) (e : Comp) (body : List Byte) : State :=
  s.modHost fun h => { h with kept := trimKept (updFirst (fun k => k.seq == e.seq) (fun k => { k with comp := some body, done := true }) h.kept) }

/-- Send a management completion on every port on which a copy of its command has arrived (13 R358, R359). -/
def State.postMgmt (s : State) (e : Comp) : State :=
  let body := e.bytes 16 true 0#32 ++ e.extra
  let ports := match s.host.kept.find? fun k => k.seq == e.seq with | some k => k.ports | none => e.ports
  let send := fun (s : State) p => if ports.getLsbD p then s.mgmtSend p 2 e.seq.toNat body else s
  (send (send s 0) 1).keepComp e body

/-- Write one completion (13 R354, R359). -/
def State.post (s : State) (n : Nat) (e : Comp) : State := if n == 16 then s.postMgmt e else s.postRing n e

/-- Write the waiting completions of a context while its ring has room. `k` bounds their number. -/
def State.postAll (s : State) (n : Nat) : Nat → State
  | 0 => s
  | k + 1 =>
    match (s.ctx n).host.comps with
    | [] => s
    | e :: es =>
      if n == 16 || (s.ctx n).host.cqRoom then ((s.modCHost n fun h => { h with comps := es }).post n e).postAll n k else s

/-- Result 0 of a RUN: the last that it latched (08 R210, 13 R362). -/
def lastResult (latched : Nat) : Nat := if latched == 0 then 0 else latched + 1
/-- Result 0 of the RUN with a tag; 0 where no RUN of it was admitted. -/
def Ctx.runLast (k : Ctx) (tag : BitVec 16) : Nat :=
  match k.runs.find? fun r => r.tag == tag with | some r => lastResult r.latched | none => 0

/-- End every command of a context that is in progress with one status; an ABORTED RUN reports the last it latched (08 R210, 12 R325, 13 R357). -/
def State.endAll (s : State) (n status : Nat) (r0 : BitVec 64) : State :=
  let res := fun (c : Cmd) => if status == 0x221 && c.opcode == 0x31 then BitVec.ofNat 64 ((s.ctx n).runLast c.tag) else r0
  s.modCHost n fun h => { h with cmds := [], comps := h.comps ++ h.cmds.map fun c =>
    { opcode := c.opcode, tag := c.tag, status := status, res0 := res c, res1 := 0#64, cacheFail := false, extra := [], seq := c.seq, ports := c.ports } }

end Sys2Proof.Machine
end

