-- ==== Sys2Proof/Machine/Abort.lean ====
section
/-!
DEFINITION. The abort wave as it arrives, tallies and the fault report, the crash dump, and the health score (11 R298 to R300,
14 R371 to R391).
-/

namespace Sys2Proof.Machine

open Sys2Proof

/-! ## The wave (11 R299) -/

/-- Take a message of a kind out of the inbox and hand it on. -/
def State.withMsg (s : State) (k kind : Nat) (body : Msg → State → State) : State :=
  match s.link.inbox[k]? with
  | none => s
  | some m => if fld m.w0.toNat 7 0 != kind then s else body m { s with link := { s.link with inbox := dropAt k s.link.inbox } }

/-- Subject, originator and fault epoch of an ABORT or TALLY. -/
def Msg.subject (m : Msg) : BitVec 16 := m.w3.extractLsb' 0 16
def Msg.origin (m : Msg) : BitVec 16 := m.w3.extractLsb' 16 16
def Msg.faultEpoch (m : Msg) : BitVec 32 := m.w3.extractLsb' 32 32

/-- ABORT_RECEIVE: a new key is entered, raised as FC_ABORT_REMOTE and forwarded; a lower originator is recorded and forwarded; anything else is a duplicate (11 R299). -/
def execAbortReceive (k : Nat) (s : State) : Host.Outcome State Fault Refusal :=
  .next (s.withMsg k 0x20 fun m s =>
    let o := m.origin
    let arr := s.dirOf m.port
    match s.seenKey m.subject m.faultEpoch with
    | none =>
      let s := s.enterSeen { subject := m.subject, lowest := o, epoch := m.faultEpoch, origin := false, primary := false, dup := 0, tally := 0 }
      let s := s.fatal { cls := 0x105, ctx := fld m.w2.toNat 20 16, subject := m.subject, lowest := o,
                         detail := BitVec.ofNat 64 (fld m.w2.toNat 15 0 + o.toNat * 2 ^ 16) }
      s.sendAborts arr m.w2 m.w3
    | some e =>
      if o.toNat < e.lowest.toNat then (s.modSeen m.subject m.faultEpoch fun e => { e with lowest := o }).sendAborts arr m.w2 m.w3
      else s.modSeen m.subject m.faultEpoch fun e => { e with dup := satAdd 16 e.dup 1 })

/-- TALLY_RECEIVE: the entry of the key counts it (11 R300). -/
def execTallyReceive (k : Nat) (s : State) : Host.Outcome State Fault Refusal :=
  .next (s.withMsg k 0x21 fun m s => s.modSeen m.subject m.faultEpoch fun e => { e with tally := satAdd 16 e.tally 1 })

/-! ## One and two milliseconds after the fault (11 R300, 14 R370, R373) -/

/-- The first record of this module's own fault with a key (11 R300). -/
def State.ownRecord (s : State) (subject : BitVec 16) (epoch : BitVec 32) : Option Nat :=
  s.faultSeqs.find? fun q => let r := s.record q; formsKey r.cls && r.subject == subject && r.epoch == epoch

/-- The record is the first of a key that this module, a member, has raised itself (11 R298, R300). -/
def State.leadsKey (s : State) (q : Nat) : Bool :=
  s.link.member && s.ownRecord (s.record q).subject (s.record q).epoch == some q

/-- LOWEST of a record 1 ms after its fault: what the seen-filter holds for its key, or the primary record's for FC_DUMP_INCOMPLETE (14 R370). -/
def State.lowestNow (s : State) (q : Nat) : BitVec 16 :=
  let r := s.record q
  if !s.link.member then r.lowest
  else if r.cls == 0x10B then (match s.flt.primary with | some p => (s.record p).lowest | none => r.lowest)
  else match s.seenKey r.subject r.epoch with | some e => e.lowest | none => r.lowest

/-- The seen-filter holds this module as the primary of a key (11 R300). -/
def State.isPrimary (s : State) (subject : BitVec 16) (epoch : BitVec 32) : Bool :=
  match s.seenKey subject epoch with | some e => e.primary | none => false

/-- 1 ms after it raised a key, the module becomes its primary, or sends one TALLY to the lowest originator (11 R300). -/
def State.settleKey (s : State) (q : Nat) : State :=
  let r := s.record q
  match s.seenKey r.subject r.epoch with
  | none => s
  | some e =>
    if e.lowest == s.link.coord then s.modSeen r.subject r.epoch fun e => { e with primary := true }
    else s.sendMsg 0 r.ctx e.lowest 0xFFFFFFFF#32 0x21#64 0#64 (abortW2 r.cls r.ctx) (abortW3 r.subject s.link.coord r.epoch) []

/-- TALLY_TIMER: 1 ms after the `k`th fault of this fault's records, its LOWEST and PRIMARY are completed; the first record of a key makes the module that key's primary, or sends one TALLY (11 R300, 14 R370). -/
def execTallyTimer (k : Nat) (s : State) : Host.Outcome State Fault Refusal :=
  .next (
    match s.faultSeqs[k]? with
    | none => s
    | some q =>
      if s.flt.ms1.contains q then s
      else
        let s := { s with flt := { s.flt with ms1 := q :: s.flt.ms1 } }
        let s := if s.leadsKey q then s.settleKey q else s
        let low := s.lowestNow q
        s.modRecord q fun r => { r with lowest := low, primary := formsKey r.cls && s.link.member && s.isPrimary r.subject r.epoch })

/-- Commands in progress of every context end with a status, and their completions are written where the ring has room (13 R357). -/
def State.endCommands (s : State) (status : Nat) (r0 : BitVec 64) : State :=
  (List.range 17).foldl (fun s n => let s := s.endAll n status r0; s.postAll n (s.ctx n).host.comps.length) s

/-- TALLY of every record of a key that this module reports (14 R370). -/
def State.setTally (s : State) (subject : BitVec 16) (epoch : BitVec 32) (tally : Nat) : State :=
  s.faultSeqs.foldl (fun s p =>
    s.modRecord p fun r => if formsKey r.cls && r.primary && r.subject == subject && r.epoch == epoch then { r with tally := tally } else r) s

/-- The fault report of a record: a member sends one for each key of which it is the primary, with the TALLYs counted; any other module one for its primary record (11 R300, 14 R373, log 88). -/
def State.tellKey (s : State) (q : Nat) : State :=
  let r := s.record q
  if s.flt.told.contains q then s
  else if !s.link.member then
    (if s.flt.primary == some q then ({ s with flt := { s.flt with told := q :: s.flt.told } } : State).report 1 0 r.bytes else s)
  else if s.leadsKey q && s.isPrimary r.subject r.epoch then
    let tally := match s.seenKey r.subject r.epoch with | some e => e.tally | none => 0
    let s := ({ s with flt := { s.flt with told := q :: s.flt.told } } : State).setTally r.subject r.epoch tally
    s.report 1 tally (s.record q).bytes
  else s

/-- FAULT_REPORT_TIMER: 2 ms after the `k`th fault of this fault's records. At the first, commands complete with FAULT (13 R357); a key of which the module is the primary is reported (11 R300, 14 R373). -/
def execFaultReportTimer (s : State) (k : Nat := 0) : Host.Outcome State Fault Refusal :=
  .next (
    match s.flt.active, s.faultSeqs[k]? with
    | true, some q =>
      let s := if k == 0 && !s.flt.twoMs then
          let s := { s with flt := { s.flt with twoMs := true } }
          let s := s.endCommands 0x222 (BitVec.ofNat 64 (s.record q).cls)
          if s.dumpDue then s else s.modRecord q fun r => { r with dump := 3 }
        else s
      s.tellKey q
    | _, _ => s)

/-! ## The crash dump (14 R374 to R380) -/

/-- Bytes of a region (14 R374). -/
def regionLen (id : Nat) : Nat :=
  let kib := if id < 0x140 then 80 else if id < 0x144 then 256 else if id < 0x168 then 16 else if id < 0x16C then 1024
    else if id == 0x16C then 256 else if id == 0x16D then 512 else if id == 0x16E then 64 else if id == 0x16F then 1024
    else if id < 0x194 then 64 else 16
  kib * 1024
/-- Regions of a dump, and its length. -/
def dumpRegions : Nat := 405
/-- Offset of a region: after the header and the directory (14 R376). -/
def regionOff (id : Nat) : Nat := 0x5000 + ((List.range id).map regionLen).sum
/-- Length of a dump in bytes. -/
def dumpLen : Nat := regionOff dumpRegions

/-- A region may be read now: the dump is due and not over, and no link-port region starts before the 2 ms (14 R371, R374). -/
def State.regionReady (s : State) : Bool :=
  s.flt.active && s.dumpDue && decide (s.flt.dumpNext < dumpRegions) && (s.flt.twoMs || s.flt.dumpNext < 0x170 || s.flt.dumpNext > 0x193)

/-- A region ends with a status: its bytes and its directory entry, and the next region (14 R375, R377). -/
def State.endRegion (s : State) (status : Nat) (bytes : List Byte) : State :=
  if !s.regionReady then s
  else
    let s := s.openDump
    let id := s.flt.dumpNext
    let bs := bytes.take (regionLen id)
    { s with flt := { s.flt with dumpNext := id + 1, dumpBytes := Mem.write s.flt.dumpBytes (regionOff id) bs,
                                 dir := s.flt.dir ++ [{ id := id, status := status, off := regionOff id, len := regionLen id, read := bs.length }] } }

/-- DUMP_REGION_COMPLETE: the awl has read a region whole; a short reading is filled with zeros (14 R377). -/
def execDumpRegionComplete (bytes : List Byte) (s : State) : Host.Outcome State Fault Refusal :=
  .next (s.endRegion 0 (bytes ++ List.replicate (regionLen s.flt.dumpNext - bytes.length) 0#8))

/-- DUMP_REGION_TIMEOUT: a region read took 50 us, or met a parity error; what was read is kept (14 R375). -/
def execDumpRegionTimeout (parity : Bool) (bytes : List Byte) (s : State) : Host.Outcome State Fault Refusal :=
  .next (s.endRegion (if parity then 2 else 1) bytes)

/-- Unreadable regions of the held dump. -/
def Flt.unreadable (f : Flt) : Nat := (f.dir.filter fun d => d.status == 1 || d.status == 2).length

/-- The secondary record of an incomplete dump (14 R368, R378). -/
def State.dumpIncomplete (s : State) (noWrite supply : Bool) : State :=
  let p := s.record (s.flt.primary.getD 0)
  s.fatal { cls := 0x10B, ctx := 31, subject := p.subject, lowest := p.lowest,
            detail := BitVec.ofNat 64 (s.flt.unreadable + b2n noWrite * 2 ^ 16 + b2n supply * 2 ^ 17) }

/-- The dump is over: 1 complete, 2 incomplete, in the primary record (14 R378). -/
def State.closeDump (s : State) (noWrite supply : Bool) : State :=
  let good := !noWrite && !supply && s.flt.unreadable == 0
  let s := { s with flt := { s.flt with dumping := false, dumpNext := dumpRegions + 1, dumpValid := s.flt.dumpValid && !noWrite,
                                        dumpComplete := !noWrite && !supply, dumpEnd := if noWrite || supply then 0 else s.ticks } }
  let s := s.modRecord (s.flt.primary.getD 0) fun r => { r with dump := if good then 1 else 2 }
  if good then s else s.dumpIncomplete noWrite supply

/-- DUMP_END: the last directory entry is written, or T3 cannot be written at all (14 R377, R378). -/
def execDumpEnd (written : Bool) (s : State) : Host.Outcome State Fault Refusal :=
  .next (
    if !s.flt.active || !s.dumpDue || decide (s.flt.dumpNext > dumpRegions) then s
    else if !written then s.openDump.closeDump true false
    else if s.flt.dumpNext == dumpRegions && s.flt.dumping then s.closeDump false false
    else s)

/-- The 64 header bytes of the held dump (14 R376). -/
def State.dumpHeader (s : State) : List Byte :=
  let f := s.flt
  let b := [0x5A#8, 0x43#8, 0x44#8, 0x31#8] ++ natLe 2 1 ++ natLe 2 dumpRegions ++ [BitVec.ofNat 8 (b2n f.dumpValid + 2 * b2n f.dumpComplete)] ++
    List.replicate 7 0#8 ++ natLe 4 f.dumpSeq ++ natLe 4 f.dumpRelease ++ natLe 8 Config.serial.toNat ++ natLe 8 f.dumpStart ++
    natLe 8 f.dumpEnd ++ natLe 4 dumpLen ++ natLe 2 f.unreadable ++ List.replicate 6 0#8
  b ++ natLe 4 (crc32c b).toNat

/-- The 32 bytes of a directory entry (14 R376). -/
def DumpDir.bytes (d : DumpDir) : List Byte :=
  let b := natLe 2 d.id ++ [BitVec.ofNat 8 d.status] ++ List.replicate 5 0#8 ++ natLe 8 d.off ++ natLe 4 d.len ++ natLe 4 d.read ++ List.replicate 4 0#8
  b ++ natLe 4 (crc32c b).toNat

/-- The entry of a region, status 3 where it was not reached. -/
def Flt.entry (f : Flt) (id : Nat) : DumpDir :=
  (f.dir.find? fun d => d.id == id).getD { id := id, status := 3, off := regionOff id, len := regionLen id, read := 0 }

/-- Bytes of the held dump. -/
def State.dumpRange (s : State) (off n : Nat) : List Byte :=
  let dir := (List.range dumpRegions).flatMap fun i => (s.flt.entry i).bytes
  Mem.read (Mem.write (Mem.write s.flt.dumpBytes 0 s.dumpHeader) 0x1000 dir) off n

/-- Pages of a range are DEVICE pages of a context (14 R380). -/
def State.devicePages (s : State) (n first count : Nat) : Bool :=
  decide (first + count ≤ 131072) && (upFrom first count).all fun p => (s.page p).owner == 2 && s.inAlloc n (pageBase p) unit2M

/-- DUMP_READ: checks its pages and its offset; the copy ends by DUMP_READ_COMPLETE (14 R380). -/
def execDumpRead (tag : Tag) (s : State) : Host.Outcome State Fault Refusal :=
  .next (
    if s.flt.dumpRead.isSome then s
    else s.command 16 0xF0 tag fun c s =>
      let n := c.p 8 1
      if !(decide (n < 16) && s.devicePages n (c.p 16 4) (c.p 20 4) && c.p 24 8 % 4096 == 0) then s.finish 16 0xF0 tag 0x204 0 0
      else if !s.flt.dumpValid then s.finish 16 0xF0 tag 0x243 0 0
      else { s with flt := { s.flt with dumpRead := some (tag, n, c.p 16 4, c.p 20 4, c.p 24 8) } })

/-- One page of a DUMP_READ: it takes its bytes and passes to HOST while it is a DEVICE page of the named context, and is left alone when that
context has given it up or retires (13 R348, R364, 14 R380). -/
def State.dumpPage (ctx first off n : Nat) (s : State) (i : Nat) : State :=
  if (s.ctx ctx).sched.st == 1 && s.devicePages ctx (first + i) 1 then
    ((s.write (pageBase (first + i)) (s.dumpRange (off + i * unit2M) (min unit2M (n - i * unit2M)))).2).setOwner (first + i) 1
  else s

/-- DUMP_READ_COMPLETE: the bytes are in the pages, which pass to HOST (14 R380). -/
def execDumpReadComplete (s : State) (replays : Nat := 0) : Host.Outcome State Fault Refusal :=
  .next (
    match s.flt.dumpRead with
    | none => s
    | some (tag, ctx, first, count, off) =>
      let n := min (count * unit2M) (dumpLen - off)
      let s := { s with flt := { s.flt with dumpRead := none } }
      s.cross replays (pageBase first) 4 16 none fun s =>
        ((List.range count).foldl (State.dumpPage ctx first off n) s).finish 16 0xF0 tag 0 n dumpLen)

/-! ## The health score (14 R381 to R391) -/

/-- HEALTH_SCORE_TICK: 6 minutes of always-on time outside a reset (14 R381). -/
def execHealthScoreTick (s : State) : Host.Outcome State Fault Refusal :=
  .next (if s.ready then { s with hlt := { s.hlt with score := min 1000 (s.hlt.score + 1) } }.judge else s)

/-- EXPULSION_REQUEST_REPEAT: a request is repeated hourly while the score stays below REQ_BELOW (14 R384). -/
def execExpulsionRequestRepeat (s : State) : Host.Outcome State Fault Refusal :=
  .next (if s.hlt.hstate == 1 && s.hlt.asked && decide (s.hlt.score < s.hlt.reqBelow) then s.report 2 0 noRecord else s)

/-- HINT_HOLD_EXPIRY: HINT has read ample for HOLD_MIN minutes; a withheld request goes out (14 R385). -/
def execHintHoldExpiry (s : State) : Host.Outcome State Fault Refusal :=
  .next (
    if s.hlt.hint then s
    else
      let s := { s with hlt := { s.hlt with hintHeld := true } }
      if s.hlt.withheld && s.hlt.hstate == 1 && decide (s.hlt.score < s.hlt.reqBelow) then
        { s with hlt := { s.hlt with requested := true, withheld := false, asked := true } }.report 2 0 noRecord
      else s)

/-- SPARE_RESERVE_HINT (14 R385). -/
def execSpareReserveHint (tag : Tag) (s : State) : Host.Outcome State Fault Refusal :=
  .next (s.command 16 0xA1 tag fun c s =>
    let h := c.p 8 1 == 1
    let s := if s.hlt.hint == h then s else { s with hlt := { s.hlt with hint := h, hintHeld := false } }
    s.finish 16 0xA1 tag 0 0 0)

/-- SEQ of the newest record, 0 before the first. -/
def Hlt.lastSeq (h : Hlt) : Nat := h.nextSeq - 1

/-- Slot `n` in the health record: what the ledger keeps, and the slot's state (14 R391). -/
def State.healthSlot (s : State) (n : Nat) : List Byte :=
  let (seed, applied, committed) := SMap.get (0#64, 0, 0) s.hlt.slots n
  natLe 8 seed.toNat ++ natLe 6 applied ++ natLe 6 committed ++ natLe 1 (s.ctx n).sched.st ++ List.replicate 3 0#8

/-- The 1,024 bytes of HEALTH_READ (14 R391). -/
def State.healthRecord (s : State) : List Byte :=
  let h := s.hlt
  let b := natLe 8 Config.serial.toNat ++ natLe 2 h.score ++
    [BitVec.ofNat 8 s.modState, BitVec.ofNat 8 (b2n h.requested + 2 * b2n h.withheld + 4 * b2n h.hint + 8 * h.hstate)] ++ natLe 4 h.fenceSelf ++
    natLe 8 s.ticks ++ natLe 4 h.lastSeq ++ List.replicate 36 0#8 ++ (List.range 16).flatMap s.healthSlot ++
    ((List.range 8).flatMap fun i => if i < h.nextSeq then (s.record (h.nextSeq - 1 - i)).bytes else noRecord) ++
    ((List.range 5).flatMap fun i => natLe 4 (s.count24 i)) ++ List.replicate 40 0#8
  b ++ natLe 4 (crc32c b).toNat

/-- HEALTH_READ (14 R391). -/
def execHealthRead (tag : Tag) (s : State) : Host.Outcome State Fault Refusal :=
  .next (s.command 16 0xA0 tag fun _ s =>
    s.finishWith 16 0xA0 tag 0 (BitVec.ofNat 64 s.hlt.score) (BitVec.ofNat 64 s.modState) false s.healthRecord)

end Sys2Proof.Machine
end

