-- ==== Sys2Proof/Machine/Fp.lean ====
section
/-!
DEFINITION. Number formats and arithmetic (02): decoding, widening, narrowing, FP32 arithmetic, array accumulation, port
adds, maximum and minimum.

A code is decoded to sign, whole significand and power of two; every operation is exact on those and rounds once.
-/

namespace Sys2Proof.Machine

open Sys2Proof

/-- A decoded value: NaN, an infinity, or `(-1)^neg * m * 2^e` (02 R24). -/
inductive Num where
  | nan
  | inf (neg : Bool)
  | fin (neg : Bool) (m : Nat) (e : Int)
  deriving DecidableEq, Repr

/-- Arithmetic events of an operation: OVF, INV and the number of saturated results (02 R34, R37). -/
structure Ev where
  ovf : Bool := false
  inv : Bool := false
  sat : Nat := 0
  deriving DecidableEq, Repr

/-- Two operations' events together (02 R35, R38). -/
def Ev.add (x y : Ev) : Ev := { ovf := x.ovf || y.ovf, inv := x.inv || y.inv, sat := x.sat + y.sat }

/-! ## Formats, by the format codes of 02 R48: 1 FP32, 2 BF16, 3 FP16, 4 N8a, 5 N8b, 6 N4 -/

/-- Mantissa bits (02 R22). -/
def fmtMant : Nat → Nat
  | 1 => 23 | 2 => 7 | 3 => 10 | 4 => 3 | 5 => 2 | _ => 1

/-- Exponent bits (02 R22). -/
def fmtExp : Nat → Nat
  | 1 => 8 | 2 => 8 | 3 => 5 | 4 => 4 | 5 => 5 | _ => 2

/-- Bias (02 R22). -/
def fmtBias : Nat → Nat
  | 1 => 127 | 2 => 127 | 3 => 15 | 4 => 7 | 5 => 15 | _ => 1

/-- Bits of a code. -/
def fmtBits (f : Nat) : Nat := 1 + fmtExp f + fmtMant f

/-- The magnitude code of the largest finite value (02 R25, R26). -/
def fmtMax : Nat → Nat
  | 1 => 0x7F7FFFFF | 2 => 0x7F7F | 3 => 0x7BFF | 4 => 0x7F | 5 => 0x7F | _ => 7

/-- The canonical NaN code; N4 has none and takes -6 (02 R25, R32). -/
def fmtNaN : Nat → Nat
  | 1 => 0x7FC00000 | 2 => 0x7FC0 | 3 => 0x7E00 | 4 => 0x80 | 5 => 0x80 | _ => 15

/-- A format with infinities and IEEE NaN codes. -/
def fmtIeee (f : Nat) : Bool := decide (f ≤ 3)

/-- A narrow format: N8a, N8b or N4. -/
def fmtNarrow (f : Nat) : Bool := decide (4 ≤ f)

/-- The value of a code (02 R24). -/
def decodeFmt (f c : Nat) : Num :=
  let mb := fmtMant f
  let neg := c / 2 ^ (fmtExp f + mb) % 2 == 1
  let E := c / 2 ^ mb % 2 ^ fmtExp f
  let M := c % 2 ^ mb
  if fmtIeee f && E == 2 ^ fmtExp f - 1 then (if M == 0 then .inf neg else .nan)
  else if (f == 4 || f == 5) && c == 0x80 then .nan
  else if E == 0 then .fin neg M (1 - (fmtBias f : Int) - mb)
  else .fin neg (2 ^ mb + M) ((E : Int) - fmtBias f - mb)

/-- The value of an FP32 code. -/
def f32 (x : F32) : Num := decodeFmt 1 x.toNat

/-- The canonical FP32 NaN (02 R25). -/
def f32NaN : F32 := 0x7FC00000#32

/-- FP32 infinity of a sign. -/
def f32Inf (neg : Bool) : F32 := if neg then 0xFF800000#32 else 0x7F800000#32

/-- FP32 zero of a sign. -/
def f32Zero (neg : Bool) : F32 := if neg then 0x80000000#32 else 0#32

/-- An FP32 code of a sign and a magnitude code. -/
def f32Code (neg : Bool) (c : Nat) : F32 := BitVec.ofNat 32 (c + if neg then 0x80000000 else 0)

/-- `floor(log2 m)` for `m > 0`. -/
def expOf (m : Nat) : Int := (Nat.log2 m : Int)

/-- `m * 2^k` rounded to a whole number: `mode` 0 to nearest with ties to even, 1 to nearest with ties away (02 R29, R39). -/
def roundShift (away : Bool) (m : Nat) (k : Int) : Nat :=
  if 0 ≤ k then m * 2 ^ k.toNat
  else
    let d := 2 ^ (-k).toNat
    let q := m / d
    let r := m % d
    if 2 * r > d then q + 1
    else if 2 * r == d then (if away then q + 1 else q + q % 2)
    else q

/-- The magnitude code that a non-zero magnitude `m * 2^e` rounds to in a format, before any check of its range (02 R29). -/
def roundCode (f : Nat) (away : Bool) (m : Nat) (e : Int) : Nat :=
  let mb := fmtMant f
  let emin : Int := 1 - fmtBias f
  let ev := max (expOf m + e) emin
  let n := roundShift away m (e - (ev - mb))
  (ev - emin).toNat * 2 ^ mb + n

/-- A finite exact value rounded once to FP32, ties to even; OVF when it leaves the range (02 R39). A zero keeps the sign given. -/
def roundF32 (neg : Bool) (m : Nat) (e : Int) : F32 × Ev :=
  if m == 0 then (f32Zero neg, {})
  else
    let c := roundCode 1 false m e
    if c ≥ 0x7F800000 then (f32Inf neg, { ovf := true }) else (f32Code neg c, {})

/-! ## Narrowing (02 R29 to R33) -/

/-- A code of a narrowing target by sign and magnitude code, with the zero rules (02 R33). -/
def signCode (f : Nat) (neg : Bool) (c : Nat) : Nat :=
  if c == 0 && (f == 4 || f == 5) then 0 else c + if neg then 2 ^ (fmtExp f + fmtMant f) else 0

/-- An exact input narrowed to format `f` (02 R29, R32, R33). -/
def narrowNum (f : Nat) : Num → Nat × Ev
  | .nan => (fmtNaN f, { inv := true })
  | .inf neg => (signCode f neg (fmtMax f), { ovf := true, sat := 1 })
  | .fin neg m e =>
    if m == 0 then (signCode f neg 0, {})
    else
      let c := roundCode f true m e
      if c > fmtMax f then (signCode f neg (fmtMax f), { sat := 1 }) else (signCode f neg c, {})

/-- The exact product of two decoded values; `none` when it is a NaN that no operand was (02 R31, R39, R44). -/
def mulNum : Num → Num → Option Num
  | .nan, _ => some .nan
  | _, .nan => some .nan
  | .inf a, .inf b => some (.inf (a != b))
  | .inf a, .fin b m _ => if m == 0 then none else some (.inf (a != b))
  | .fin a m _, .inf b => if m == 0 then none else some (.inf (a != b))
  | .fin a m e, .fin b n g => some (.fin (a != b) (m * n) (e + g))

/-- An FP32 operand multiplied by a scale and narrowed with one rounding (02 R31, R32). -/
def narrowScaled (f : Nat) (x scale : F32) : Nat × Ev :=
  match mulNum (f32 x) (f32 scale) with
  | some v => narrowNum f v
  | none => narrowNum f .nan

/-- A code widened exactly to FP32 (02 R28). -/
def widen (f c : Nat) : F32 :=
  match decodeFmt f c with
  | .nan => f32NaN
  | .inf neg => f32Inf neg
  | .fin neg m e => (roundF32 neg m e).1

/-- An FP32 value narrowed to BF16 (02 R29 to R33). -/
def toBf16 (x : F32) : Nat × Ev := narrowNum 2 (f32 x)

/-! ## FP32 arithmetic of the vector unit (02 R39) -/

/-- A signed whole significand. -/
def sgn (neg : Bool) (m : Nat) : Int := if neg then -(m : Int) else m

/-- The exact sum of two finite values over their smaller exponent. -/
def addFin (a : Bool) (m : Nat) (e : Int) (b : Bool) (n : Nat) (g : Int) : Int × Int :=
  let x := min e g
  (sgn a m * 2 ^ (e - x).toNat + sgn b n * 2 ^ (g - x).toNat, x)

/-- A signed exact value rounded to FP32; an exact zero takes the sign given. -/
def roundInt (zeroNeg : Bool) (i e : Int) : F32 × Ev :=
  if i == 0 then (f32Zero zeroNeg, {}) else roundF32 (i < 0) i.natAbs e

/-- Add two decoded values in FP32 (02 R39, R27, R34). -/
def addNum : Num → Num → F32 × Ev
  | .nan, _ => (f32NaN, {})
  | _, .nan => (f32NaN, {})
  | .inf a, .inf b => if a == b then (f32Inf a, {}) else (f32NaN, { inv := true })
  | .inf a, .fin _ _ _ => (f32Inf a, {})
  | .fin _ _ _, .inf b => (f32Inf b, {})
  | .fin a m e, .fin b n g =>
    let (i, x) := addFin a m e b n g
    roundInt (a && b && m == 0 && n == 0) i x

/-- FP32 addition (02 R39). -/
def fadd (x y : F32) : F32 × Ev := addNum (f32 x) (f32 y)

/-- FP32 value with its sign inverted, bits otherwise kept. -/
def f32Neg (x : F32) : F32 := x ^^^ 0x80000000#32

/-- FP32 subtraction (02 R39). -/
def fsub (x y : F32) : F32 × Ev := fadd x (f32Neg y)

/-- An exact decoded result rounded to FP32. -/
def roundNum : Num → F32 × Ev
  | .nan => (f32NaN, {})
  | .inf neg => (f32Inf neg, {})
  | .fin neg m e => roundF32 neg m e

/-- FP32 multiplication (02 R39). -/
def fmul (x y : F32) : F32 × Ev :=
  match mulNum (f32 x) (f32 y) with
  | some v => roundNum v
  | none => (f32NaN, { inv := true })

/-- FP32 fused multiply-add `x * y + z`, rounded once (02 R39). A NaN addend passes through a product of infinity and zero. -/
def ffma (x y z : F32) : F32 × Ev :=
  match mulNum (f32 x) (f32 y) with
  | some v => addNum v (f32 z)
  | none => if f32 z = .nan then (f32NaN, {}) else (f32NaN, { inv := true })

/-- A quotient of whole numbers with 80 further bits and a sticky bit: `a / b = q * 2^-k` for rounding purposes. -/
def divBits (a b : Nat) : Nat × Int :=
  let k := 80 + Nat.log2 b
  let q := a * 2 ^ k / b
  let r := a * 2 ^ k % b
  (2 * q + (if r == 0 then 0 else 1), -(k : Int) - 1)

/-- FP32 division (07 R171 by 02 R39): a finite non-zero value over zero is an infinity with no flag. -/
def fdiv (x y : F32) : F32 × Ev :=
  match f32 x, f32 y with
  | .nan, _ => (f32NaN, {})
  | _, .nan => (f32NaN, {})
  | .inf _, .inf _ => (f32NaN, { inv := true })
  | .inf a, .fin b _ _ => (f32Inf (a != b), {})
  | .fin a _ _, .inf b => (f32Zero (a != b), {})
  | .fin a m e, .fin b n g =>
    if n == 0 then (if m == 0 then (f32NaN, { inv := true }) else (f32Inf (a != b), {}))
    else
      let (q, k) := divBits m n
      roundF32 (a != b) q (e - g + k)

/-- The whole square root of `n`, found a bit at a time from bit `k` down. -/
def isqrtFrom (n : Nat) : Nat → Nat → Nat
  | 0, r => if (r + 1) * (r + 1) ≤ n then r + 1 else r
  | k + 1, r => isqrtFrom n k (if (r + 2 ^ (k + 1)) * (r + 2 ^ (k + 1)) ≤ n then r + 2 ^ (k + 1) else r)

/-- The whole square root. -/
def isqrt (n : Nat) : Nat := isqrtFrom n (Nat.log2 n / 2 + 1) 0

/-- The square root of `m * 2^e`, with a sticky bit: the root is `q * 2^k` for rounding purposes. -/
def sqrtBits (m : Nat) (e : Int) : Nat × Int :=
  let (m, e) := if e % 2 == 0 then (m, e) else (2 * m, e - 1)
  let m := m * 2 ^ 160
  let r := isqrt m
  (2 * r + (if r * r == m then 0 else 1), e / 2 - 80 - 1)

/-- FP32 square root, correctly rounded (05 R138, 07 R171). -/
def fsqrt (x : F32) : F32 × Ev :=
  match f32 x with
  | .nan => (f32NaN, {})
  | .inf false => (f32Inf false, {})
  | .inf true => (f32NaN, { inv := true })
  | .fin neg m e =>
    if m == 0 then (f32Zero neg, {})
    else if neg then (f32NaN, { inv := true })
    else
      let (q, k) := sqrtBits m e
      roundF32 false q k

/-! ## Maximum and minimum (02 R46) -/

/-- A total order key of non-NaN FP32 codes in which -0 stands below +0. -/
def f32Key (x : F32) : Int := if x.msb then -((x &&& 0x7FFFFFFF#32).toNat : Int) - 1 else (x.toNat : Int)

/-- FP32 maximum (02 R46). -/
def fmax (x y : F32) : F32 :=
  if f32 x = .nan ∨ f32 y = .nan then f32NaN else if f32Key x < f32Key y then y else x

/-- FP32 minimum (02 R46). -/
def fmin (x y : F32) : F32 :=
  if f32 x = .nan ∨ f32 y = .nan then f32NaN else if f32Key y < f32Key x then y else x

/-- The magnitude of an FP32 value, NaN made canonical (05 R134 ABS). -/
def fabs (x : F32) : F32 := if f32 x = .nan then f32NaN else x &&& 0x7FFFFFFF#32

/-- The negative of an FP32 value, NaN made canonical (05 R134 NEG). -/
def fneg (x : F32) : F32 := if f32 x = .nan then f32NaN else f32Neg x

/-- A finite value. -/
def f32Finite (x : F32) : Bool := match f32 x with | .fin _ _ _ => true | _ => false

/-- A zero of either sign. -/
def f32IsZero (x : F32) : Bool := x &&& 0x7FFFFFFF#32 == 0#32

/-! ## Array accumulation (02 R41 to R44) -/

/-- `E(v)` of 02 R42 for a magnitude `m * 2^e`. -/
def accExp (m : Nat) (e : Int) : Int := if m == 0 then -126 else max (expOf m + e) (-126)

/-- `floor(i * 2^k)`. -/
def floorShift (i k : Int) : Int := if 0 ≤ k then i * 2 ^ k.toNat else Int.fdiv i (2 ^ (-k).toNat)

/-- Add two finite values by 02 R42. -/
def accFin (a : Bool) (m : Nat) (ea : Int) (b : Bool) (n : Nat) (eb : Int) : F32 × Ev :=
  let e := max (accExp m ea) (accExp n eb)
  let (i, x) := addFin a m ea b n eb
  let s := floorShift i (x - (e - 23))
  let (s, u) := if s.natAbs ≥ 2 ^ 24 then (Int.fdiv s 2, e - 22) else (s, e - 23)
  roundInt (a && b && m == 0 && n == 0) s u

/-- One accumulation of a product into an accumulator (02 R42, R44). -/
def accNum : Num → Num → F32 × Ev
  | .nan, _ => (f32NaN, {})
  | _, .nan => (f32NaN, {})
  | .inf a, .inf b => if a == b then (f32Inf a, {}) else (f32NaN, { inv := true })
  | .inf a, .fin _ _ _ => (f32Inf a, {})
  | .fin _ _ _, .inf b => (f32Inf b, {})
  | .fin a m e, .fin b n g => accFin a m e b n g

/-- One step of an array cell: the accumulator after adding the product of two codes of format `f` (02 R41 to R44). -/
def accStep (f : Nat) (acc : F32) (x y : Nat) : F32 × Ev :=
  match mulNum (decodeFmt f x) (decodeFmt f y) with
  | some p => accNum (f32 acc) p
  | none => (f32NaN, { inv := true })

/-! ## Port adds (02 R40) -/

/-- BF16 add of a port reduction engine (02 R40). -/
def portAddBf16 (x y : Nat) : Nat × Ev :=
  match decodeFmt 2 x, decodeFmt 2 y with
  | .nan, _ => (fmtNaN 2, {})
  | _, .nan => (fmtNaN 2, {})
  | .inf a, .inf b => if a == b then narrowNum 2 (.inf a) else (fmtNaN 2, { inv := true })
  | .inf a, .fin _ _ _ => narrowNum 2 (.inf a)
  | .fin _ _ _, .inf b => narrowNum 2 (.inf b)
  | .fin a m e, .fin b n g =>
    let (i, k) := addFin a m e b n g
    if i == 0 then narrowNum 2 (.fin (a && b && m == 0 && n == 0) 0 0)
    else narrowNum 2 (.fin (decide (i < 0)) i.natAbs k)

/-- FP32 add of a port reduction engine (02 R40). -/
def portAddF32 (x y : F32) : F32 × Ev := fadd x y

end Sys2Proof.Machine
end

