-- ==== Sys2Proof/Machine/Flags.lean ====
section
/-!
DEFINITION. The arithmetic flags, the saturation counter and the overflow bit of a step (02 R34 to R38, 07 R174, R175).
-/

namespace Sys2Proof.Machine

open Sys2Proof

/-- The context has a step RUN in progress (07 R174). -/
def Ctx.inStep (k : Ctx) : Bool := k.runs.any fun r => r.step

/-- The gradient format: that of the weight-gradient row, BF16 without a program (06 R151). -/
def Ctx.gradFmt (k : Ctx) : Nat :=
  match k.prog with
  | some p => match p.recipe.rows.find? fun r => r.kind == 4 with | some r => r.fmt | none => 2
  | none => 2

/-- An overflow event of the context's step: the overflow bit, or LATE once the contribution is fixed (07 R174, R175). -/
def Ctx.overflow (k : Ctx) : Ctx :=
  if !k.inStep then k
  else if k.step.fixed then { k with step := { k.step with late := true } }
  else { k with step := { k.step with ovfBit := true } }

/-- Charge arithmetic events to a context; `grad` when a saturation is one of 07 R174 (02 R34 to R38). -/
def Ctx.charge (k : Ctx) (e : Ev) (grad : Bool) : Ctx :=
  let a := k.arith
  let k := { k with arith := { a with ovf := a.ovf || e.ovf, inv := a.inv || e.inv, sat := a.sat || decide (0 < e.sat),
                                      satCount := satAdd 48 a.satCount e.sat } }
  if e.ovf || e.inv || (grad && decide (0 < e.sat)) then k.overflow else k

/-- All events of some lanes. -/
def sumEv {α : Type} (f : α → Ev) (xs : List α) : Ev := xs.foldl (fun e x => e.add (f x)) {}

/-- Charge arithmetic events to context `n` (02 R35). -/
def State.arith (s : State) (n : Nat) (e : Ev) (grad : Bool) : State := s.modCtx n fun k => k.charge e grad

end Sys2Proof.Machine
end

