-- ==== Sys2Proof/Machine/Scaling.lean ====
section
/-!
DEFINITION. Scaling records: which row a tensor has, the scale of a channel, the history, what a tracker counts, and what
takes effect at a commit (03).
-/

namespace Sys2Proof.Machine

open Sys2Proof

/-! ## Rows of the recipe (03 R52, R61 to R63) -/

/-- Kind of a tensor: that of the layer table for a copy it names, else the free value (06 R159, log 8). -/
def Prog.kindOf (p : Prog) (tid : BitVec 32) : Nat :=
  match p.layers.find? fun l => l.fwd == tid || (l.trans == tid && l.trans != 0xFFFFFFFF#32) with
  | some l => l.row
  | none => (Config.tensorKind tid).val + 1

/-- The tensor is the transposed copy of a layer. -/
def Prog.isTrans (p : Prog) (tid : BitVec 32) : Bool := p.layers.any fun l => l.trans == tid && l.trans != 0xFFFFFFFF#32 && l.fwd != tid

/-- Recipe row of a tensor (03 R62). A transposed copy takes its format from the activation-gradient row (06 R156). -/
def Ctx.rowOf (k : Ctx) (tid : BitVec 32) : Option RecipeRow :=
  match k.prog with
  | some p =>
    let row := p.recipe.rows.find? fun r => r.kind == p.kindOf tid
    if p.isTrans tid then
      row.map fun r => match p.recipe.rows.find? fun r => r.kind == 3 with | some g => { r with fmt := g.fmt } | none => r
    else row
  | none => none

/-- Per-channel scaling: forward, adapter and serving weights (03 R52). -/
def RecipeRow.perChan (r : RecipeRow) : Bool := r.kind == 1 || r.kind == 5 || r.kind == 6

/-- Compatibility mode (03 R62). -/
def Ctx.compat (k : Ctx) : Bool := match k.prog with | some p => p.recipe.compat | none => false

/-! ## Records (03 R58) -/

/-- The scaling record of a tensor. -/
def Ctx.rec? (k : Ctx) (tid : BitVec 32) : Option ScaleRec := SMap.get none k.recs tid.toNat
/-- The same, empty where there is none. -/
def Ctx.rec! (k : Ctx) (tid : BitVec 32) : ScaleRec := (k.rec? tid).getD {}
/-- Change a tensor's record. -/
def Ctx.modRec (k : Ctx) (tid : BitVec 32) (f : ScaleRec → ScaleRec) : Ctx :=
  { k with recs := SMap.set none k.recs tid.toNat (some (f (k.rec! tid))) }

/-- 2 MiB units that the context's records need (09 R501): the layout is not given, so it is a free value (log 9). -/
def Ctx.recUnits (k : Ctx) : Nat := Config.scalingUnits k.recs.length

/-- Take scaling-area units from the top of region 0 until the records have room; `none` where a unit cannot be had (09 R501). -/
def State.growScaling (s : State) (n : Nat) : Nat → Option State
  | 0 => some s
  | f + 1 =>
    match s.takeArea 0 unit2M with
    | none => none
    | some b => State.growScaling (s.modCtx n fun k => k.modMem fun m => { m with scaling := b :: m.scaling }) n f

/-- Make sure a tensor id has a record: at its first use the record is made, with room for it; `none` where the limit or the room stops it (03 R59, 09 R501). -/
def State.firstUse (s : State) (n : Nat) (tid : BitVec 32) : Option State :=
  match (s.ctx n).rec? tid with
  | some _ => some s
  | none =>
    if (s.ctx n).recs.length ≥ 16384 then none
    else
      let s := s.modCtx n fun k => k.modRec tid id
      let k := s.ctx n
      s.growScaling n (k.recUnits - k.mem.scaling.length)

/-! ## The scale rule (03 R64) -/

/-- An FP32 power of two, exponent -126 to 127. -/
def pow2F32 (x : Int) : F32 := BitVec.ofNat 32 ((x + 127).toNat * 2 ^ 23)

/-- `floor(log2 (m * 2^e / (n * 2^g)))` for positive `m`, `n`. -/
def log2Ratio (m : Nat) (e : Int) (n : Nat) (g : Int) : Int :=
  let k := expOf m - expOf n
  let ok := if 0 ≤ k then decide (n * 2 ^ k.toNat ≤ m) else decide (n ≤ m * 2 ^ (-k).toNat)
  (if ok then k else k - 1) + e - g

/-- The scale of a narrow row from an amax (03 R64); `none` for an amax of 0. -/
def scaleOf (r : RecipeRow) (amax : F32) : Option F32 :=
  match f32 amax, decodeFmt r.fmt (fmtMax r.fmt) with
  | .fin _ m e, .fin _ M E =>
    if m == 0 then none else some (pow2F32 (max (-126) (min 127 (log2Ratio M E m e - (r.margin : Int)))))
  | _, _ => none

/-- The largest amax of a history. -/
def histMax (h : List (Nat × F32)) : F32 := h.foldl (fun a e => if a.toNat < e.2.toNat then e.2 else a) 0#32

/-- Form a channel's scale from its history, keeping the previous one where the history is all zero (03 R64). -/
def formScale (r : RecipeRow) (old : SMap (Option F32)) (h : Nat × List (Nat × F32)) : SMap (Option F32) :=
  SMap.set none old h.1 (some ((scaleOf r (histMax h.2)).getD ((SMap.get none old h.1).getD r.init)))

/-- Form every channel's scale from a history (03 R64, R68). -/
def formScales (r : RecipeRow) (old : SMap (Option F32)) (hist : SMap (List (Nat × F32))) : SMap (Option F32) :=
  hist.foldl (formScale r) old

/-- The key of a RUN's just-in-time scales: its step epoch, or 2^48 plus the serving index of the RUN at whose admission the scales in
force were formed. Non-step RUNs in progress together share them (03 R69, R72, log 105). -/
def Run.key (r : Run) : Nat := if r.step then r.epoch else 2 ^ 48 + r.scaleIx
/-- `t` of the shadow selection (03 R74, R69). -/
def Run.time (r : Run) : Nat := if r.step then r.epoch else r.serveIx

/-- The tensor had no history for RUNs of a kind as the scales in force were formed; a raw load's entry is a history (03 R69, R72, log 106). -/
def ScaleRec.noHistory (x : ScaleRec) (step : Bool) : Bool := if step then !x.stepped else !x.served

/-- The quantiser works just in time on this tensor (03 R72). -/
def jitNow (r : RecipeRow) (x : ScaleRec) (step : Bool) : Bool := fmtNarrow r.fmt && r.jit && x.noHistory step

/-- The fixed just-in-time scale of a channel (03 R72). -/
def ScaleRec.jitOf (x : ScaleRec) (key ch : Nat) : Option F32 := SMap.get none (SMap.get [] x.jit key) ch

/-- The scale a channel holds in a RUN of a kind and key (03 R55, R64, R72). -/
def scaleAt (r : RecipeRow) (x : ScaleRec) (step : Bool) (key ch : Nat) : F32 :=
  if !fmtNarrow r.fmt then 0x3F800000#32
  else if jitNow r x step then (x.jitOf key ch).getD r.init
  else (SMap.get none (if step then x.scales else x.sscales) ch).getD r.init

/-- The scale a channel holds in a RUN. -/
def chanScale (r : RecipeRow) (x : ScaleRec) (run : Run) (ch : Nat) : F32 := scaleAt r x run.step run.key ch

/-- Fix just-in-time scales from a measure pass: each channel not yet fixed whose amax is not 0 (03 R72). -/
def ScaleRec.fixJit (r : RecipeRow) (key : Nat) (x : ScaleRec) (m : SMap F32) : ScaleRec :=
  m.foldl (fun x e =>
    match x.jitOf key e.1, scaleOf r e.2 with
    | none, some v => { x with jit := SMap.upd [] x.jit key fun j => SMap.set none j e.1 (some v) }
    | _, _ => x) x

/-! ## What the tracker counts (03 R57) -/

/-- The larger of two non-negative FP32 magnitudes. -/
def amaxOf (a b : F32) : F32 := if a.toNat < b.toNat then b else a

/-- One element of the quantiser: its channel, the tracker's input `x`, the exact value it narrows, the code and the events. -/
structure Elem where
  ch : Nat
  x : F32
  code : Nat
  ev : Ev
  under : Bool
  nonfin : Bool
  deriving DecidableEq, Repr

/-- Enter an element's magnitude in a table of amax by channel; only finite inputs enter (03 R57). -/
def enterAmax (m : SMap F32) (ch : Nat) (x : F32) : SMap F32 :=
  if f32Finite x then SMap.upd 0#32 m ch (fun a => amaxOf a (x &&& 0x7FFFFFFF#32)) else m

/-- Record an element in a slot (03 R57). `chans` is one past the highest channel recorded. -/
def Slot.record (s : Slot) (e : Elem) : Slot :=
  { s with chans := max s.chans ((if s.perChan then e.ch else 0) + 1), amax := enterAmax s.amax (if s.perChan then e.ch else 0) e.x,
           elements := s.elements + 1, saturated := s.saturated + e.ev.sat,
           underflow := s.underflow + b2n e.under, nonfinite := s.nonfinite + b2n e.nonfin }

/-- Quantise one element: input `x`, optional input-channel factor, scale, target format (02 R31, 03 R53, R57).
DESIGN CHOICE: where a factor is folded in, the underflow count judges the product, so that a factor of 0 makes no underflow;
03 R57 says only 'finite, non-zero inputs'. -/
def quantElem (f ch : Nat) (x : F32) (factor : Option F32) (scale : F32) : Elem :=
  let p : Option Num := match factor with
    | some c => mulNum (f32 x) (f32 c)
    | none => some (f32 x)
  let q := match p with
    | some v => (match mulNum v (f32 scale) with | some w => w | none => .nan)
    | none => .nan
  let (code, ev) := narrowNum f q
  let tr : F32 := match factor with
    | some c =>
      let y := (fmul x c).1
      (match f32 x, f32 c, f32 y with
       | .fin _ _ _, .fin _ _ _, .inf n => f32Code n 0x7F7FFFFF
       | _, _, _ => y)
    | none => x
  let nz := match q with | .fin _ m _ => m != 0 | _ => false
  let mag := code % 2 ^ (fmtExp f + fmtMant f)
  { ch := ch, x := tr, code := code, ev := ev, under := nz && decide (mag < 2 ^ fmtMant f), nonfin := !f32Finite tr }

/-! ## Merging and far-off (03 R58, R66) -/

/-- Add counts. -/
def Totals.add (a b : Totals) : Totals :=
  { elements := a.elements + b.elements, saturated := a.saturated + b.saturated, underflow := a.underflow + b.underflow,
    nonfinite := a.nonfinite + b.nonfinite }

/-- The counts of a slot. -/
def Slot.totals (s : Slot) : Totals :=
  { elements := s.elements, saturated := s.saturated, underflow := s.underflow, nonfinite := s.nonfinite }

/-- Far off by its counts (03 R66); the rule does not apply to a BF16 or FP16 row (03 R55). -/
def Totals.farOff (r : RecipeRow) (t : Totals) : Bool :=
  fmtNarrow r.fmt && (decide (t.saturated * 2 ^ r.texp > t.elements) || decide (t.underflow * 2 ^ r.uexp > t.elements))

/-- Pending totals of a RUN. -/
def ScaleRec.pend (x : ScaleRec) (run : Nat) : Pend := (SMap.get none x.pends run).getD {}
/-- Change the pending totals of a RUN. -/
def ScaleRec.modPend (x : ScaleRec) (run : Nat) (f : Pend → Pend) : ScaleRec :=
  { x with pends := SMap.set none x.pends run (some (f (x.pend run))) }

/-- Merge a closed slot: amax by maximum, counts by sum (03 R58). -/
def Pend.merge (p : Pend) (s : Slot) : Pend :=
  { p with chans := max p.chans s.chans, amax := s.amax.foldl (fun m e => SMap.upd 0#32 m e.1 (amaxOf e.2)) p.amax, tot := p.tot.add s.totals }

/-- The RUN with an id. -/
def Ctx.run? (k : Ctx) (id : Nat) : Option Run := k.runs.find? fun r => r.id == id

/-- Change a RUN of a context. -/
def Ctx.modRun (k : Ctx) (id : Nat) (f : Run → Run) : Ctx := { k with runs := updFirst (fun r => r.id == id) f k.runs }

/-- A history with a new entry in front, of at most `H`. -/
def pushHist (H : Nat) (h : List (Nat × F32)) (t : Nat) (a : F32) : List (Nat × F32) :=
  ((t, a) :: h.filter (fun e => e.1 != t)).take H

/-- A serving history with an entry; the `H` of highest index are kept (03 R69). -/
def pushServe (H : Nat) (h : List (Nat × F32)) (t : Nat) (a : F32) : List (Nat × F32) :=
  let rest := h.filter (fun e => e.1 != t)
  (rest.filter (fun e => decide (e.1 > t)) ++ (t, a) :: rest.filter (fun e => decide (e.1 < t))).take H

/-- Channels of a tensor's pending totals: every one up to the highest recorded, zeros included; channel 0 for a per-tensor record (03 R60, R65). -/
def Pend.channels (r : RecipeRow) (p : Pend) : Nat := if r.perChan then p.chans else 1

/-- The channels a history or a RUN's totals name, channel 0 for a per-tensor record. -/
def histChans (r : RecipeRow) (h : SMap (List (Nat × F32))) (p : Pend) : List Nat :=
  if r.perChan then (h.map (·.1) ++ List.range (p.channels r)).eraseDups else [0]

/-- A tensor's history after a RUN: a new entry, or one entry alone where it was far off (03 R65, R66). -/
def nextHist (r : RecipeRow) (far serve : Bool) (t : Nat) (h : SMap (List (Nat × F32))) (p : Pend) : SMap (List (Nat × F32)) :=
  (histChans r h p).foldl (fun h c =>
    let old := if far then [] else SMap.get [] h c
    let a := SMap.get 0#32 p.amax c
    SMap.set [] h c (if serve then pushServe r.hist old t a else pushHist r.hist old t a)) h

/-- The pending totals of a RUN take effect in one record; of the just-in-time scales those of the RUNs in progress and of the next step
stay recorded (03 R58, R66, R69, R72, R76). A far-off verdict that comes after the control section was formed reseeds on this module
alone (03 R60, log 107). -/
def ScaleRec.commit (r : RecipeRow) (run : Run) (keys : List Nat) (x : ScaleRec) : ScaleRec :=
  match SMap.get none x.pends run.id with
  | none => x
  | some p =>
    let far := p.farOff || p.shadowFar || p.groupFar
    let x := { x with last := p.tot, shadowRun := p.shadow.getD x.shadowRun, pends := SMap.set none x.pends run.id none,
                      jit := x.jit.filter fun e => keys.contains e.1 }
    if run.step then { x with hist := nextHist r far false run.epoch x.hist p }
    else { x with serve := nextHist r far true run.serveIx x.serve p }

/-- Keys of the just-in-time scales that a RUN in progress, or the step to come, may use (03 R69, R72). -/
def Ctx.jitKeys (k : Ctx) : List Nat := (k.step.applied + 1) % 2 ^ 48 :: k.runs.map Run.key

/-- Every record of a context takes its pending totals of a RUN (03 R58). -/
def Ctx.commitRecs (k : Ctx) (run : Run) : Ctx :=
  { k with recs := k.recs.map fun e =>
      (e.1, match e.2, k.rowOf (BitVec.ofNat 32 e.1) with
        | some x, some r => some (x.commit r run k.jitKeys)
        | v, _ => v) }

/-- Pending totals of an aborted RUN are discarded; just-in-time scales stay for a replay of a step (03 R58). -/
def Ctx.dropPends (k : Ctx) (run : Nat) : Ctx :=
  { k with recs := k.recs.map fun e => (e.1, e.2.map fun x => { x with pends := SMap.set none x.pends run none }),
           mergeQ := k.mergeQ.filter fun c => c.run != run }

/-- The firmware forms the scales of steps from the step histories (03 R68, R72). -/
def Ctx.formStep (k : Ctx) : Ctx :=
  { k with recs := k.recs.map fun e =>
      (e.1, match e.2, k.rowOf (BitVec.ofNat 32 e.1) with
        | some x, some r => some { x with stepped := !x.hist.isEmpty, scales := if fmtNarrow r.fmt then formScales r x.scales x.hist else x.scales }
        | v, _ => v) }

/-- The firmware forms the scales of non-step RUNs from the serving histories (03 R69, R72). -/
def Ctx.formServe (k : Ctx) : Ctx :=
  { k with recs := k.recs.map fun e =>
      (e.1, match e.2, k.rowOf (BitVec.ofNat 32 e.1) with
        | some x, some r => some { x with served := !x.serve.isEmpty, sscales := if fmtNarrow r.fmt then formScales r x.sscales x.serve else x.sscales }
        | v, _ => v) }

/-- Multiply the gradient histories by 2 or 1/2 when the loss scale changes (03 R67). -/
def Ctx.scaleHist (k : Ctx) (factor : F32) : Ctx :=
  { k with recs := k.recs.map fun e =>
      (e.1, match e.2, k.rowOf (BitVec.ofNat 32 e.1) with
        | some x, some r =>
          some (if r.kind == 3 || r.kind == 4 then
            { x with hist := x.hist.map fun h => (h.1, h.2.map fun p => (p.1, (fmul p.2 factor).1)) } else x)
        | v, _ => v) }

end Sys2Proof.Machine
end

