-- ==== Sys2Proof/Machine/CoreOps.lean ====
section
/-!
DEFINITION. What every core instruction shares: the issue check, the fault of an instruction, the four issue queues and
their holds, semaphores, and addresses a core may name (04 R98, R99, R499, 05 R115 to R127, R144, R145).
-/

namespace Sys2Proof.Machine

open Sys2Proof

/-! ## The core's task -/


/-- Context number of a core's work, 31 for none. -/
def Core.ctxNum (k : Core) : Nat := k.ctx.getD 31
/-- Task id of a core's task. -/
def Core.taskId (k : Core) : BitVec 32 := match k.task with | some t => BitVec.ofNat 32 t.tid | none => 0#32
/-- RUN id of a core's task. -/
def Core.runId (k : Core) : Nat := match k.task with | some t => t.run | none => 0

/-- The RUN of a core's task. -/
def State.coreRun (s : State) (c : Nat) : Option Run :=
  let k := s.core c
  match k.ctx, k.task with
  | some n, some t => (s.ctx n).run? t.run
  | _, _ => none

/-! ## Faults of an instruction (05 R117) -/

/-- Raise a fault for the instruction at a word offset of core `c`; the core issues nothing more (05 R117). -/
def State.insnFaultAt (s : State) (c pc : Nat) (word : BitVec 64) : State :=
  let k := s.core c
  (s.modCore c fun k => { k with halted := true }).fatal
    { cls := 0x106, ctx := k.ctxNum, subject := s.link.coord, insn := true, coreValid := true, core := c, word := pc,
      task := k.taskId, instr := word }

/-- FC_ILLEGAL of the instruction that core `c` stands at. -/
def State.insnFault (s : State) (c : Nat) : State :=
  s.insnFaultAt c (s.core c).pc ((s.core c).code.getD (s.core c).pc 0#64)

/-- FC_ILLEGAL of core `c`'s task at no instruction: it ran past its code block (05 R121). -/
def State.taskFault (s : State) (c : Nat) : State :=
  let k := s.core c
  (s.modCore c fun k => { k with halted := true }).illegalTask k.ctxNum c k.taskId

/-! ## The issue check (05 R115, R116) -/

/-- An SWAIT or STRY stands in its queue: nothing after it issues before it is satisfied or decided (05 R145). -/
def Core.semQueued (k : Core) : Bool := k.dq.any fun e => match e.work with | .swait _ _ _ => true | .stry _ _ _ => true | _ => false

/-- The core's sequencer may hand out an instruction: the module is live and awake, and the core runs a task and stands at no stop, wait or full queue (04 R499, 05 R117, 14 R371). -/
def State.mayIssue (s : State) (c : Nat) : Bool :=
  let k := s.core c
  s.live && s.pwr.rest == 0 && k.task.isSome && k.ctx.isSome && !k.halted && !k.stopped && !k.ended && !k.clockOff &&
    k.wait.isNone && !k.semQueued && k.seqHeld.isNone && !(match k.layer with | some l => l.pending | none => false)

/-- Core `c` reaches the instruction `word`: it runs `body` when the word is the one at its program counter and its fields are as 05 gives them (`ok`); a word past the end, an undefined opcode or a bad field raises FC_ILLEGAL; a word that does not stand there is no event (log 1). -/
def State.issue (s : State) (c : Nat) (word : BitVec 64) (ok : Bool) (body : State → State) : State :=
  if !s.mayIssue c then s
  else
    let k := s.core c
    match k.code[k.pc]? with
    | none => s.taskFault c
    | some w =>
      if !opcodeDefined (w.extractLsb' 56 8) then s.insnFault c
      else if w ≠ word then s
      else if !ok then s.insnFault c
      else body s

/-- Move past the instruction. -/
def Core.next (k : Core) : Core := { k with pc := k.pc + 1, afterBlk := false }

/-! ## Resources and holds (04 R98) -/

/-- Two resources meet. -/
def Res.meets : Res → Res → Bool
  | .store a n, .store b m => overlaps a n b m
  | .sreg a n, .sreg b m => overlaps a n b m
  | .freg i, .freg j => i == j
  | .slot i, .slot j => i == j
  | .array i, .array j => i == j
  | _, _ => false

/-- One list of resources meets another. -/
def meetAny (xs ys : List Res) : Bool := xs.any fun x => ys.any fun y => x.meets y

/-- An entry must wait for an earlier one that writes what it reads or writes, or reads what it writes. -/
def QEntry.holds (e : QEntry) (reads writes : List Res) : Bool :=
  meetAny e.writes reads || meetAny e.writes writes || meetAny e.reads writes

/-- The array, vector and update entries of a core. -/
def Core.work (k : Core) : List QEntry := k.vq ++ k.mq0 ++ k.mq1

/-- Earlier work holds what place `seq` reads and writes. -/
def Core.heldBy (k : Core) (seq : Nat) (reads writes : List Res) : Bool :=
  k.work.any fun e => decide (e.seq < seq) && e.holds reads writes

/-- An outstanding load, or a semaphore read still in its queue, into one of some A registers holds an instruction (05 R149). -/
def Core.regHeld (k : Core) (rs : List Nat) : Bool :=
  (k.remote.any fun r => r.load && rs.contains r.reg) || k.dq.any fun e => match e.work with | .srd _ d => rs.contains d | _ => false

/-- The instruction waits: A registers `as` for a load, resources for earlier work. A waiting instruction is no event yet. -/
def State.ifFree (s : State) (c : Nat) (as : List Nat) (reads writes : List Res) (body : State → State) : State :=
  let k := s.core c
  if k.regHeld as || k.heldBy k.nextSeq reads writes then s else body s

/-! ## The issue queues (04 R499) -/

/-- Queue `q`: 0 MA0, 1 MA1, 2 vector and update, 3 DMA, semaphores and collectives. -/
def Core.queue (k : Core) (q : Nat) : List QEntry :=
  if q == 0 then k.mq0 else if q == 1 then k.mq1 else if q == 2 then k.vq else k.dq

/-- Replace a queue. -/
def Core.setQueue (k : Core) (q : Nat) (l : List QEntry) : Core :=
  if q == 0 then { k with mq0 := l } else if q == 1 then { k with mq1 := l } else if q == 2 then { k with vq := l } else { k with dq := l }

/-- Hand an instruction to a queue; a full queue stops the sequencer at it (04 R499). `f` is what else the instruction does at issue. DESIGN CHOICE:
the issue checks are made before this, so that an illegal instruction or descriptor faults though its queue is full (log 115). -/
def State.push (s : State) (c q : Nat) (word : BitVec 64) (w : Work) (reads writes : List Res) (f : Core → Core) : State :=
  let k := s.core c
  if (k.queue q).length ≥ 16 then s.setCore c { k with seqHeld := some q }
  else
    let e : QEntry := { seq := k.nextSeq, pc := k.pc, word := word, work := w, reads := reads, writes := writes, phase := 0 }
    s.setCore c (f { (k.setQueue q (k.queue q ++ [e])).next with nextSeq := k.nextSeq + 1 })

/-- Nothing of the core's issued work is outstanding (05 R124). -/
def Core.quiet (k : Core) : Bool :=
  k.vq.isEmpty && k.mq0.isEmpty && k.mq1.isEmpty && k.dq.isEmpty && k.dma.isEmpty && k.remote.isEmpty &&
    k.shadow.isEmpty && !k.latch0 && !k.latch1

/-- Every array, vector and update instruction before place `seq` has completed, its drain included (05 R146). -/
def Core.workBefore (k : Core) (seq : Nat) : Bool :=
  (k.work.all fun e => decide (seq ≤ e.seq)) && !(k.latch0 && decide (k.drain0 < seq)) && !(k.latch1 && decide (k.drain1 < seq))

/-- So has every ALD and AST (05 R145). -/
def Core.doneBefore (k : Core) (seq : Nat) : Bool := k.workBefore seq && (k.remote.all fun r => decide (seq ≤ r.seq))

/-! ## Addresses (04 R88, R99, R101, 05 R127) -/

/-- A core number is an enabled core of its quarter (01 R12). -/
def State.coreExists (s : State) (c : Nat) : Bool :=
  decide (c < 320) && decide (c % 80 < SMap.get 80 s.rst.enabled (c / 80))

/-- A local alias with its zero bits (05 R127). -/
def isAlias (a : Nat) : Bool := fld a 47 44 == 0xE
/-- The device address that a core's address names: the local alias becomes the own core store (05 R127). DESIGN CHOICE: bits [63:48] of
an alias are not looked at; 05 R127 names only bits [47:44], [43:23] and [22:0]. -/
def resolve (c a : Nat) : Option Nat :=
  if isAlias a then (if fld a 43 23 == 0 then some (coreBase c + fld a 22 0) else none) else some a

/-- The last alias (08 R209, 09 R216). -/
def isLastAlias (a : Nat) : Bool := decide (a / 2 ^ 40 = 0xD0)

/-- `[a, a+n)` is backed core store of an enabled core (04 R88, 01 R12). -/
def State.inCoreStore (s : State) (a n : Nat) : Bool :=
  let c := a / 0x800000
  decide (a < 0xA0000000) && s.coreExists c && decide (a % 0x800000 + n ≤ coreSize)

/-- `[a, a+n)` lies in the quarter store of quarter `q` (04 R103). -/
def inQuarterStore (q a n : Nat) : Bool := within a n (0xC0000000 + q * 0x4000000) 0x4000000

/-- A step block may be read by ALD of its own context (09 R224). -/
def Ctx.inStepBlock (k : Ctx) (a n : Nat) : Bool := match k.mem.control with | some b => within a n b 64 | none => false

/-- A retained region of a context that an access meets (07 R181). -/
def Ctx.inRetained (k : Ctx) (a n : Nat) : Bool := k.step.retained.any fun r => r.regions.any fun g => overlaps a n g.1 g.2

/-- The latched last of a RUN: its base and its size in bytes (08 R209). -/
def State.latchedLast (s : State) (r : Run) : Option (Nat × Nat) :=
  let l := if r.latched == 1 then some s.lastA else if r.latched == 2 then some s.lastB else none
  match l with
  | some l => l.base.map fun b => (b, l.size * unit2M)
  | none => none

/-- The storage address of a core's access, or none where the access raises FC_ILLEGAL (04 R99, 09 R224, 08 R209). `write` and `aldRead` say what the access is. -/
def State.reach (s : State) (c a n : Nat) (write aldRead : Bool) : Option Nat :=
  let k := s.core c
  match k.ctx with
  | none => none
  | some ctx =>
    if isLastAlias a then
      match s.coreRun c with
      | none => none
      | some r =>
        match s.latchedLast r with
        | some (b, size) => if !write && fld a 39 0 + n ≤ size then some (b + fld a 39 0) else none
        | none => none
    else
      match resolve c a with
      | none => none
      | some x =>
        if s.inCoreStore x n || inQuarterStore (quarterOf c) x n then some x
        else if s.inAlloc ctx x n then (if write && (s.ctx ctx).inRetained x n then none else some x)
        else if aldRead && (s.ctx ctx).inStepBlock x n then some x
        else none

/-! ## Semaphores (05 R144, R145) -/

/-- Value of a semaphore. -/
def State.sem (s : State) (n i : Nat) : BitVec 32 := SMap.get (0#32) (s.ctx n).sems i
/-- Set a semaphore. -/
def State.setSem (s : State) (n i : Nat) (v : BitVec 32) : State := s.modCtx n fun k => { k with sems := SMap.set (0#32) k.sems i v }

/-- Increment a semaphore; one that would pass the top raises FC_ILLEGAL for the context and leaves the value (05 R144). -/
def State.semInc (s : State) (n i amount : Nat) (who : Option (Nat × BitVec 32)) : State :=
  if (s.sem n i).toNat + amount ≥ 2 ^ 32 then
    match who with
    | some (c, t) => s.illegalTask n c t
    | none => s.illegal n
  else s.setSem n i (s.sem n i + BitVec.ofNat 32 amount)

/-- Note an increment that an open layer's own instruction at place `seq` made (03 R70). -/
def Core.noteInc (k : Core) (seq i amount : Nat) : Core :=
  { k with layer := k.layer.map fun l => if l.seq ≤ seq then { l with incs := SMap.upd 0 l.incs i (· + amount) } else l }
/-- Note an amount taken by an open layer (03 R70). -/
def Core.noteDec (k : Core) (i amount : Nat) : Core :=
  { k with layer := k.layer.map fun l => { l with decs := SMap.upd 0 l.decs i (· + amount) } }

/-- Open the block of a BLK at the program counter (05 R121, R123). -/
def Core.openBlock (k : Core) (cls : Nat) (word : BitVec 64) : Core :=
  { k with block := some { cls := cls, pc := k.pc, word := word }, clocks := 0, pc := k.pc + 1, afterBlk := true, wait := none }

/-- A granted wait: issue resumes, or the block opens (05 R121, R144). -/
def Core.granted (k : Core) (w : SemWait) : Core :=
  if w.blk then k.openBlock w.cls w.word else { k with wait := none }

/-- Stand at a wait; a wait for 0 is satisfied at once (05 R144). -/
def Core.standAt (k : Core) (w : SemWait) : Core := if w.amount == 0#32 then k.granted w else { k with wait := some w }

/-- Core `c` waits on a semaphore of context `n` (05 R145). -/
def State.waitsOn (s : State) (n i c : Nat) : Option SemWait :=
  let k := s.core c
  if k.ctx == some n && !k.stopped && !k.halted then
    match k.wait with
    | some w => if w.sem == i then some w else none
    | none => none
  else none

/-- Grant one non-decrementing wait when the value after the increments meets it (05 R145). -/
def State.grantPlain (n i : Nat) (v : BitVec 32) (s : State) (c : Nat) : State :=
  match s.waitsOn n i c with
  | some w => if !w.dec && decide (w.amount.toNat ≤ v.toNat) then s.modCore c fun k => k.granted w else s
  | none => s

/-- Decide a try: subtract and set F[D], or clear it (05 R144). -/
def State.tryDec (s : State) (n i c d : Nat) (amount : BitVec 32) : State :=
  let v := s.sem n i
  if amount.toNat ≤ v.toNat then
    ((s.setSem n i (v - amount)).modCore c fun k => k.noteDec i amount.toNat).modCore c fun k => k.setF d true
  else s.modCore c fun k => k.setF d false

/-- Take one core's decrementing wait, or its try, if the value still meets it (05 R145). -/
def State.grantDec (n i : Nat) (try_ : Option (Nat × Nat × BitVec 32)) (s : State) (c : Nat) : State :=
  match try_ with
  | some (tc, d, amount) =>
    if tc == c then s.tryDec n i c d amount
    else
      match s.waitsOn n i c with
      | some w =>
        if w.dec && decide (w.amount.toNat ≤ (s.sem n i).toNat) then
          ((s.setSem n i (s.sem n i - w.amount)).modCore c fun k => k.noteDec i w.amount.toNat).modCore c fun k => k.granted w
        else s
      | none => s
  | none =>
    match s.waitsOn n i c with
    | some w =>
      if w.dec && decide (w.amount.toNat ≤ (s.sem n i).toNat) then
        ((s.setSem n i (s.sem n i - w.amount)).modCore c fun k => k.noteDec i w.amount.toNat).modCore c fun k => k.granted w
      else s
    | none => s

/-- One clock at one semaphore after its increments: the plain waits against the value, then the decrementing waits and the try, lowest core first (05 R145). -/
def State.semClock (s : State) (n i : Nat) (try_ : Option (Nat × Nat × BitVec 32)) : State :=
  let v := s.sem n i
  let s := (List.range 320).foldl (State.grantPlain n i v) s
  (List.range 320).foldl (State.grantDec n i try_) s

end Sys2Proof.Machine
end

