-- ==== Sys2Proof/Machine/Dma.lean ====
section
/-!
DEFINITION. The DMA engine of a core: the descriptor and its checks, the transactions, and their completion (04 R99 to R104,
05 R146, 09 R236, R237).
-/

namespace Sys2Proof.Machine

open Sys2Proof

/-! ## The descriptor (05 R146) -/

/-- A descriptor read from its 64 bytes. -/
def parseDma (bs : List Byte) : DmaDesc :=
  { src := BitVec.ofNat 64 (field bs 0 8), dst := BitVec.ofNat 64 (field bs 8 8), rowLen := field bs 16 4, rows := field bs 20 4,
    planes := field bs 24 4, srcRow := field bs 28 4, srcPlane := field bs 32 4, dstRow := field bs 36 4, dstPlane := field bs 40 4,
    sem := field bs 44 2, fence := bit (field bs 46 1) 0, mcast := bit (field bs 46 1) 1, mask := BitVec.ofNat 8 (field bs 47 1) }

/-- The fields that the layout of the descriptor fixes (05 R146, 04 R100, R104). -/
def dmaFieldsOk (bs : List Byte) : Bool :=
  let d := parseDma bs
  decide (d.src.toNat < 2 ^ 48) && decide (d.dst.toNat < 2 ^ 48) && decide (32 ≤ d.rowLen) && decide (1 ≤ d.rows) && decide (1 ≤ d.planes) &&
    decide (d.sem < 256) && decide (field bs 46 1 < 4) && (d.mcast == (d.mask != 0#8)) && field bs 48 16 == 0

/-- Bytes of a whole copy. -/
def DmaDesc.total (d : DmaDesc) : Nat := d.rowLen * d.rows * d.planes

/-- A side of a copy is contiguous. -/
def contiguous (d : DmaDesc) (row plane : Nat) : Bool :=
  (d.rows == 1 || row == d.rowLen) && (d.planes == 1 || plane == d.rowLen * d.rows)

/-- A side in T2 keeps to the bulk unit (04 R101). -/
def t2SideOk (d : DmaDesc) (a row plane : Nat) : Bool :=
  !inT2 a || (a % unit2M == 0 && d.total % unit2M == 0 && contiguous d row plane)

/-- Cores that a multicast mask names: of the cluster that holds core `c` (04 R104). -/
def maskCores (c : Nat) (m : BitVec 8) : List Nat := ((List.range 8).filter fun i => m.getLsbD i).map fun i => c / 8 * 8 + i

/-- The destinations of a copy: one address, or one for each core of the mask (04 R104). -/
def DmaDesc.dests (d : DmaDesc) : List Nat :=
  let a := d.dst.toNat
  if d.mcast then (maskCores (a / 0x800000) d.mask).map fun c => coreBase c + a % 0x800000 else [a]

/-- Every row of a side, at its offset from the side's address, meets a condition. -/
def DmaDesc.allRows (d : DmaDesc) (row plane : Nat) (ok : Nat → Bool) : Bool :=
  (List.range d.planes).all fun p => (List.range d.rows).all fun r => ok (p * plane + r * row)

/-- Every row of a side reaches storage, the address taken as the descriptor gives it: a row of the local alias stays in the core's own store (05 R127). -/
def State.rowsReach (s : State) (c a : Nat) (d : DmaDesc) (row plane : Nat) (write : Bool) : Bool :=
  d.allRows row plane fun o => (s.reach c (a + o) d.rowLen write false).isSome

/-- The same descriptor with its addresses made device addresses (05 R127, 08 R209). -/
def State.resolveDma (s : State) (c : Nat) (d : DmaDesc) : Option DmaDesc :=
  match s.reach c d.src.toNat d.rowLen false false, s.reach c d.dst.toNat d.rowLen (!d.mcast) false with
  | some a, some b => some { d with src := BitVec.ofNat 64 a, dst := BitVec.ofNat 64 b }
  | some a, none =>
    if d.mcast then (resolve c d.dst.toNat).map fun b => { d with src := BitVec.ofNat 64 a, dst := BitVec.ofNat 64 b } else none
  | _, _ => none

/-- A multicast copies from the own quarter store into core stores of one cluster of the quarter: every row lies at the same offset of the store of
each core that the mask names, and so in that store (04 R104, log 113). -/
def State.mcastOk (s : State) (c : Nat) (d : DmaDesc) : Bool :=
  d.allRows d.srcRow d.srcPlane (fun o => inQuarterStore (quarterOf c) (d.src.toNat + o) d.rowLen) && decide (d.dst.toNat < 0xA0000000) &&
    quarterOf (d.dst.toNat / 0x800000) == quarterOf c &&
    d.dests.all fun a => s.coreExists (a / 0x800000) && d.allRows d.dstRow d.dstPlane fun o => decide (a % 0x800000 + o + d.rowLen ≤ coreSize)

/-- The descriptor as the engine takes it, or none where it raises FC_ILLEGAL at issue (05 R146). -/
def State.checkDma (s : State) (c : Nat) (bs : List Byte) : Option DmaDesc :=
  if !dmaFieldsOk bs then none
  else
    let d := parseDma bs
    match s.resolveDma c d with
    | none => none
    | some e =>
      if t2SideOk d e.src.toNat d.srcRow d.srcPlane && t2SideOk d e.dst.toNat d.dstRow d.dstPlane &&
          s.rowsReach c d.src.toNat d d.srcRow d.srcPlane false &&
          (if d.mcast then s.mcastOk c e else s.rowsReach c d.dst.toNat d d.dstRow d.dstPlane true) then some e
      else none

/-! ## Transactions (04 R100, R102) -/

/-- The next transaction of a pending descriptor, and the descriptor after it. -/
def DmaPend.next? (p : DmaPend) : Option (Txn × DmaPend) :=
  if p.cut || decide (p.d.planes ≤ p.plane) then none
  else
    let a := p.d.src.toNat + p.plane * p.d.srcPlane + p.row * p.d.srcRow + p.pos
    let off := p.plane * p.d.dstPlane + p.row * p.d.dstRow + p.pos
    let b := p.d.dst.toNat + off
    let n := min (min (p.d.rowLen - p.pos) (512 - a % 512)) (512 - b % 512)
    let t : Txn := { src := a, dsts := p.d.dests.map (· + off), len := n }
    let p := { p with out := p.out ++ [t] }
    some (t, if p.pos + n < p.d.rowLen then { p with pos := p.pos + n }
      else if p.row + 1 < p.d.rows then { p with pos := 0, row := p.row + 1 }
      else { p with pos := 0, row := 0, plane := p.plane + 1 })

/-- Start one transaction of the first pending descriptor that has one to start; a FENCE descriptor waits until it is the eldest (04 R102). DESIGN
CHOICE: the earlier descriptor's transactions all start first (log 114). -/
def startTxn : Bool → List DmaPend → Option (List DmaPend)
  | _, [] => none
  | eldest, p :: ps =>
    match (if p.d.fence && !eldest then none else p.next?) with
    | some (_, q) => some (q :: ps)
    | none => (startTxn false ps).map (p :: ·)

/-- Start transactions while fewer than 160 are outstanding (04 R100). -/
def startTxns : Nat → List DmaPend → List DmaPend
  | 0, ps => ps
  | n + 1, ps =>
    if (ps.map fun p => p.out.length).sum ≥ 160 then ps
    else match startTxn true ps with
      | some qs => startTxns n qs
      | none => ps

/-- Keep a core's engine at work; after a fatal fault no descriptor starts a transaction (14 R371). -/
def State.dmaRun (s : State) (c : Nat) : State :=
  if s.flt.active then s else s.modCore c fun k => { k with dma := startTxns 160 k.dma }

/-- Cut a descriptor short: it never completes (09 R237). -/
def State.cutDma (s : State) (c i : Nat) : State :=
  s.modCore c fun k => { k with dma := k.dma.mapIdx fun j p => if j == i then { p with cut := true } else p }

/-- Write a transaction's bytes at each destination; an unreadable word under a partial write, or a retained region, stops it (09 R227, 07 R181). -/
def State.txnWrite (s : State) (c i ctx : Nat) (bs : List Byte) : List Nat → State
  | [] => s
  | a :: as =>
    if (s.ctx ctx).inRetained a bs.length then (s.cutDma c i).illegal ctx
    else
      match s.writeFor ctx a bs with
      | (none, s) => s.txnWrite c i ctx bs as
      | (some w, s) => (s.cutDma c i).uncorrFault w 1 ctx (some (c, (s.core c).taskId))

/-- One transaction completes: bytes read at its source are written at its destination (04 R100, 09 R236, R237). -/
def State.txnDone (s : State) (c i : Nat) (t : Txn) (replays : Nat) : State :=
  let ctx := (s.core c).ctxNum
  (if replays ≥ 8 then s.cutDma c i else s).cross replays t.src 0 ctx (some (c, (s.core c).taskId)) fun s =>
    match s.load t.src t.len with
    | (.inr w, s) => (s.cutDma c i).uncorrFault w 0 ctx (some (c, (s.core c).taskId))
    | (.inl bs, s) => s.txnWrite c i ctx bs t.dsts

/-- Take a transaction off its descriptor's list. -/
def State.dropTxn (s : State) (c i j : Nat) : State :=
  s.modCore c fun k => { k with dma := k.dma.mapIdx fun n p => if n == i then { p with out := dropAt j p.out } else p }

/-- DMA_TRANSACTION_COMPLETE: transaction `txn` of pending descriptor `desc`, with the path replays and the upsets it met. -/
def execDmaTransactionComplete (c : CoreId) (desc txn replays : Nat) (upsets : List Upset) (s : State) : Host.Outcome State Fault Refusal :=
  .next (
    match (s.core c.val).dma[desc]? with
    | none => s
    | some p =>
      match p.out[txn]? with
      | none => s
      | some t => (((s.applyUpsets upsets).dropTxn c.val desc txn).txnDone c.val desc t replays).dmaRun c.val)

/-- Every byte of a descriptor has been written. -/
def DmaPend.done (p : DmaPend) : Bool := !p.cut && p.out.isEmpty && decide (p.d.planes ≤ p.plane)

/-- Append a descriptor to a core's engine. -/
def State.addDma (s : State) (c seq : Nat) (d : DmaDesc) : State :=
  (s.modCore c fun k => { k with dma := k.dma ++
    [{ d := d, seq := seq, task := k.taskId.toNat, plane := 0, row := 0, pos := 0, cut := false, out := [] }] }).dmaRun c

end Sys2Proof.Machine
end

