-- ==== Sys2Proof/Machine/Sections.lean ====
section
/-!
DEFINITION. The program and scaling sections of a state image (15 R397): their layout is not given, so each is a
permutation of byte strings, with no body, of one string that carries every field; reading a section inverts writing it.
-/

namespace Sys2Proof.Config

/-- How the tables stand in the task area, and so in the program section (15 R397, 13 R363, log 9). -/
opaque progLayout : Equiv.Perm (List Byte)
/-- How the scaling records stand in the scaling section (15 R397, 03 R58, log 9). -/
opaque scalingLayout : Equiv.Perm (List Byte)

end Sys2Proof.Config

namespace Sys2Proof.Machine

open Sys2Proof

/-! ## Records as numbers -/

/-- The numbers of a task descriptor (04 R106). -/
def TaskDesc.nums (d : TaskDesc) : List Nat × List Nat :=
  ([d.entry, d.len, d.prio, d.pin.toNat, d.home, d.deps, d.tid, d.arg.toNat, d.sem], d.succ)
/-- The task descriptor of some numbers. -/
def taskOfNums (x : List Nat × List Nat) : TaskDesc :=
  let f := fun i => x.1.getD i 0
  { entry := f 0, len := f 1, prio := f 2, pin := f 3 == 1, home := f 4, deps := f 5, tid := f 6, arg := BitVec.ofNat 64 (f 7), succ := x.2,
    sem := f 8 }

/-- The numbers of an update rule (07 R169). -/
def Rule.nums (r : Rule) : List Nat :=
  [r.kind, r.mfmt, r.lrx, r.gfx, r.bc1x, r.bc2x, r.wd.toNat, r.b1.toNat, r.c1.toNat, r.b2.toNat, r.c2.toNat, r.eps.toNat]
/-- The update rule of some numbers. -/
def ruleOfNums (x : List Nat) : Rule :=
  let f := fun i => x.getD i 0
  let w := fun i => BitVec.ofNat 32 (f i)
  { kind := f 0, mfmt := f 1, lrx := f 2, gfx := f 3, bc1x := f 4, bc2x := f 5, wd := w 6, b1 := w 7, c1 := w 8, b2 := w 9, c2 := w 10,
    eps := w 11 }

/-- The numbers of a layer-table entry (06 R159). -/
def Layer.nums (l : Layer) : List Nat := [l.lid.toNat, l.frozen.toNat, l.row, l.master.toNat, l.fwd.toNat, l.trans.toNat]
/-- The layer-table entry of some numbers. -/
def layerOfNums (x : List Nat) : Layer :=
  let f := fun i => x.getD i 0
  let w := fun i => BitVec.ofNat 32 (f i)
  { lid := w 0, frozen := f 1 == 1, row := f 2, master := w 3, fwd := w 4, trans := w 5 }

/-- The numbers of a stage descriptor (06 R163). -/
def Stage.nums (g : Stage) : List Nat :=
  [g.ix, g.base, g.global, g.m, g.f, g.sf, g.bk, g.sb, g.first.toNat, g.last.toNat, g.act, g.quota]
/-- The stage descriptor of some numbers. -/
def stageOfNums (x : List Nat) : Stage :=
  let f := fun i => x.getD i 0
  { ix := f 0, base := f 1, global := f 2, m := f 3, f := f 4, sf := f 5, bk := f 6, sb := f 7, first := BitVec.ofNat 32 (f 8),
    last := BitVec.ofNat 32 (f 9), act := f 10, quota := f 11 }

/-- The numbers of a recipe row (03 R62). -/
def RecipeRow.nums (r : RecipeRow) : List Nat :=
  [r.kind, r.fmt, r.hist, r.margin, r.texp, r.uexp, r.shN, r.shR, r.shRun, r.jit.toNat, r.group.toNat, r.init.toNat]
/-- The recipe row of some numbers. -/
def rowOfNums (x : List Nat) : RecipeRow :=
  let f := fun i => x.getD i 0
  { kind := f 0, fmt := f 1, hist := f 2, margin := f 3, texp := f 4, uexp := f 5, shN := f 6, shR := f 7, shRun := f 8, jit := f 9 == 1,
    group := f 10 == 1, init := BitVec.ofNat 32 (f 11) }

/-- The numbers of a program: its place, its tables and its recipe. -/
abbrev ProgNums := List Nat × List (List Nat × List Nat) × List (List Nat) × List (List Nat) × List (List Nat) × List (List Nat)

/-- See `ProgNums`. -/
def Prog.nums (p : Prog) : ProgNums :=
  ([p.addr, p.len, p.codeOff, p.codeLen, p.recipe.compat.toNat, p.recipe.initLs.toNat, p.recipe.cleanRun], p.tasks.map TaskDesc.nums,
    p.rules.map Rule.nums, p.layers.map Layer.nums, p.stages.map Stage.nums, p.recipe.rows.map RecipeRow.nums)
/-- The program of some numbers. -/
def progOfNums (x : ProgNums) : Prog :=
  let f := fun i => x.1.getD i 0
  { addr := f 0, len := f 1, codeOff := f 2, codeLen := f 3, tasks := x.2.1.map taskOfNums, rules := x.2.2.1.map ruleOfNums,
    layers := x.2.2.2.1.map layerOfNums, stages := x.2.2.2.2.1.map stageOfNums,
    recipe := { compat := f 4 == 1, initLs := BitVec.ofNat 32 (f 5), cleanRun := f 6, rows := x.2.2.2.2.2.map rowOfNums } }

/-- The numbers of some counts (03 R57). -/
def Totals.nums (t : Totals) : List Nat := [t.elements, t.saturated, t.underflow, t.nonfinite]
/-- The counts of some numbers. -/
def totalsOfNums (x : List Nat) : Totals :=
  let f := fun i => x.getD i 0
  { elements := f 0, saturated := f 1, underflow := f 2, nonfinite := f 3 }

/-- Scales by channel, as numbers. -/
abbrev ScaleNums := List (Nat × Option Nat)
/-- See `ScaleNums`. -/
def scaleNums (m : SMap (Option F32)) : ScaleNums := m.map fun e => (e.1, e.2.map BitVec.toNat)
/-- The scales of some numbers. -/
def scalesOfNums (x : ScaleNums) : SMap (Option F32) := x.map fun e => (e.1, e.2.map (BitVec.ofNat 32))

/-- Histories by channel, as numbers. -/
abbrev HistNums := List (Nat × List (Nat × Nat))
/-- See `HistNums`. -/
def histNums (m : SMap (List (Nat × F32))) : HistNums := m.map fun e => (e.1, e.2.map fun x => (x.1, x.2.toNat))
/-- The histories of some numbers. -/
def histOfNums (x : HistNums) : SMap (List (Nat × F32)) := x.map fun e => (e.1, e.2.map fun y => (y.1, BitVec.ofNat 32 y.2))

/-- Pending totals, as numbers. -/
abbrev PendNums := List Nat × List (Nat × Nat) × Option Nat
/-- See `PendNums`. -/
def Pend.nums (p : Pend) : PendNums :=
  ([p.chans, p.farOff.toNat, p.groupFar.toNat, p.shadowFar.toNat] ++ p.tot.nums, p.amax.map fun e => (e.1, e.2.toNat), p.shadow)
/-- The pending totals of some numbers. -/
def pendOfNums (x : PendNums) : Pend :=
  let f := fun i => x.1.getD i 0
  { chans := f 0, farOff := f 1 == 1, groupFar := f 2 == 1, shadowFar := f 3 == 1, tot := totalsOfNums (x.1.drop 4),
    amax := x.2.1.map fun e => (e.1, BitVec.ofNat 32 e.2), shadow := x.2.2 }

/-- A scaling record, as numbers. -/
abbrev RecNums := ScaleNums × ScaleNums × HistNums × HistNums × (Nat × List Nat) × List (Nat × Option PendNums) × List (Nat × ScaleNums) × ScaleNums × List Nat
/-- See `RecNums`. -/
def ScaleRec.nums (r : ScaleRec) : RecNums :=
  (scaleNums r.scales, scaleNums r.sscales, histNums r.hist, histNums r.serve, (r.shadowRun, r.last.nums),
    r.pends.map fun e => (e.1, e.2.map Pend.nums), r.jit.map fun e => (e.1, scaleNums e.2), scaleNums r.carried, [r.stepped.toNat, r.served.toNat])
/-- The scaling record of some numbers. -/
def recOfNums (x : RecNums) : ScaleRec :=
  { scales := scalesOfNums x.1, sscales := scalesOfNums x.2.1, hist := histOfNums x.2.2.1, serve := histOfNums x.2.2.2.1,
    shadowRun := x.2.2.2.2.1.1, last := totalsOfNums x.2.2.2.2.1.2, pends := x.2.2.2.2.2.1.map fun e => (e.1, e.2.map pendOfNums),
    jit := x.2.2.2.2.2.2.1.map fun e => (e.1, scalesOfNums e.2), carried := scalesOfNums x.2.2.2.2.2.2.2.1,
    stepped := x.2.2.2.2.2.2.2.2.getD 0 0 == 1, served := x.2.2.2.2.2.2.2.2.getD 1 0 == 1 }

/-! ## Sections -/

/-- A number as bytes, the least significant first. -/
def bytesOfNum (n : Nat) : List Byte := (Nat.digits 256 n).map (BitVec.ofNat 8)
/-- The number of some bytes. -/
def numOfBytes (bs : List Byte) : Nat := Nat.ofDigits 256 (bs.map BitVec.toNat)

/-- Bytes of an image's program section. -/
def progSection (p : Prog) : List Byte := Config.progLayout (bytesOfNum (Encodable.encode p.nums))
/-- The program of a program section; none where the bytes are no section. -/
def sectionProg (bs : List Byte) : Option Prog :=
  (Encodable.decode (α := ProgNums) (numOfBytes (Config.progLayout.symm bs))).map progOfNums

/-- What the scaling section carries: the records, the serving count, where the scales of loaded copies stand, and the scale registers
by core (15 R397, 03 R51, R80, 06 R156, log 9). -/
structure Scaling where
  recs : SMap (Option ScaleRec) := []
  count : Nat := 0
  copies : SMap (Option Nat) := []
  sregs : SMap (SMap F32) := []
  deriving DecidableEq, Repr

/-- The numbers of a scaling section. -/
abbrev ScalingNums := List (Nat × Option RecNums) × Nat × List (Nat × Option Nat) × List (Nat × List (Nat × Nat))
/-- See `ScalingNums`. -/
def Scaling.nums (x : Scaling) : ScalingNums :=
  (x.recs.map fun e => (e.1, e.2.map ScaleRec.nums), x.count, x.copies, x.sregs.map fun e => (e.1, e.2.map fun r => (r.1, r.2.toNat)))
/-- What some numbers carry. -/
def scalingOfNums (x : ScalingNums) : Scaling :=
  { recs := x.1.map fun e => (e.1, e.2.map recOfNums), count := x.2.1, copies := x.2.2.1,
    sregs := x.2.2.2.map fun e => (e.1, e.2.map fun r => (r.1, BitVec.ofNat 32 r.2)) }
/-- Bytes of an image's scaling section. -/
def scalingSection (x : Scaling) : List Byte := Config.scalingLayout (bytesOfNum (Encodable.encode x.nums))
/-- What a scaling section carries; nothing where the bytes are no section. -/
def sectionScaling (bs : List Byte) : Scaling :=
  match Encodable.decode (α := ScalingNums) (numOfBytes (Config.scalingLayout.symm bs)) with
  | some x => scalingOfNums x
  | none => {}

end Sys2Proof.Machine
end

