-- ==== Sys2Proof/Machine/Images.lean ====
section
/-!
DEFINITION. The registers of a context's block that its state image carries, and the state image (15 R397 to R399).
-/

namespace Sys2Proof.Config

/-- SM4 in XTS mode under the module's snapshot key, with a unit's image index as tweak (15 R402, 18 R466, log 7). -/
opaque snapshotCipher : BitVec 256 → Nat → Equiv.Perm (List Byte)

end Sys2Proof.Config

namespace Sys2Proof.Machine

open Sys2Proof

/-! ## Context registers 0x0200 to 0x02A0 (12 R330) -/

/-- Micro-batches of a local stage in flight (06 R167). DESIGN CHOICE: where several RUNs of the context are in progress their counts are
added, and the sum may pass 256; 06 R167 speaks of one RUN. -/
def Ctx.stageFlight (k : Ctx) (i : Nat) : Nat := (k.runs.map fun r => ((r.stages.filter fun g => g.ix == i).map fun g => g.flight.length).sum).sum
/-- Four 16-bit fields. -/
def four16 (f : Nat → Nat) : Nat := f 0 + f 1 * 2 ^ 16 + f 2 * 2 ^ 32 + f 3 * 2 ^ 48

/-- What a read of a context's block at an offset from 0x0200 to 0x02A0 returns (02 R36, 03 R77, 04 R112, 06 R167, 07 R186 to R190, 08 R215, 09 R244, 11 R302). -/
def State.ctxWord (s : State) (n off : Nat) : Nat :=
  let k := s.ctx n
  match off with
  | 0x200 => b2n k.arith.ovf + 2 * b2n k.arith.inv + 4 * b2n k.arith.sat
  | 0x208 => k.arith.satCount
  | 0x210 => k.arith.checked + k.arith.exceeded * 2 ^ 32
  | 0x218 => k.arith.farOff + k.arith.shadow * 2 ^ 24 + k.arith.rerun * 2 ^ 48
  | 0x220 => k.arith.taken + k.arith.stolen * 2 ^ 32
  | 0x228 => if k.runs.isEmpty then 0 else four16 fun q => (k.pool.filter fun t => t.quarter == q && t.pooled).length
  | 0x230 => four16 k.stageFlight
  | 0x238 => k.step.scale.toNat + k.step.clean * 2 ^ 32
  | 0x240 => k.step.applied + b2n k.step.decided * 2 ^ 48 + b2n k.step.decision * 2 ^ 49 + b2n k.step.late * 2 ^ 50
  | 0x248 => k.step.committed + b2n k.step.wave.isSome * 2 ^ 48
  | 0x250 => k.step.seed.toNat
  | 0x258 => k.step.block
  | 0x260 => k.arith.skipped + k.arith.replayed * 2 ^ 24 + k.arith.clamped * 2 ^ 48
  | 0x268 => k.mem.adapters.toNat
  | 0x270 => k.mem.lim1 + k.usedIn 1 * 2 ^ 32
  | 0x278 => k.mem.lim2 + k.mem.used2 * 2 ^ 32
  | 0x280 => k.mem.lim3 + k.mem.used3 * 2 ^ 32
  | 0x288 => k.step.layout + b2n k.step.reshard.isSome * 2 ^ 16
  | 0x290 => (s.colls.filter fun c => c.ctx == n).length + k.arith.collDone * 2 ^ 8
  | 0x298 => four16 fun i => k.stageFlight (i + 4)
  | 0x2A0 => k.arith.serveCount
  | _ => 0

/-- Offsets of the register record (15 R397). -/
def recordOffs : List Nat := (List.range 19).map fun i => 0x200 + 8 * i

/-! ## Layout of an image (15 R397, R398) -/

/-- Round up to a multiple. -/
def ceilTo (x n : Nat) : Nat := if x % n == 0 then x else (x / n + 1) * n

/-- 2 MiB units of a program's task area (09 R501): the size of a queued task is not given, so it is a free value (log 14). -/
def Prog.areaUnits (p : Prog) : Nat :=
  Config.taskAreaUnits (64 * p.tasks.length + 64 * p.rules.length + 32 * p.layers.length + 64 * p.stages.length + 448) p.tasks.length

/-- Offset of the scaling section, by the program section's length. -/
def scalOff (plen : Nat) : Nat := ceilTo (4096 + plen) 4096
/-- Offset of the region directory. -/
def dirOff (plen slen : Nat) : Nat := ceilTo (scalOff plen + slen) 4096
/-- Offsets of regions laid from an offset, with the offset after the last. -/
def layRegions : Nat → List Region → List (Nat × Region) × Nat
  | o, [] => ([], o)
  | o, r :: rs =>
    let a := ceilTo o unit2M
    let (l, e) := layRegions (a + r.size) rs
    ((a, r) :: l, e)
/-- Offset of the unit checks, after the regions' end. -/
def checksOff (e : Nat) : Nat := ceilTo e 4096
/-- Length of an image whose unit checks begin at an offset: one check for every earlier unit (15 R397). -/
def imageLen (c : Nat) : Nat := ceilTo (c + c / unit2M * 4) unit2M

/-- Program and scaling sections of an image. -/
def Image.progBytes (im : Image) : List Byte := match im.prog with | some p => if im.kind == 1 then progSection p else [] | none => []
def Image.scalBytes (im : Image) : List Byte :=
  if im.scaling then scalingSection { recs := im.recs, count := im.serveCount, copies := im.copies, sregs := im.sregs } else []
/-- Offset of the directory. -/
def Image.dirAt (im : Image) : Nat := dirOff im.progBytes.length im.scalBytes.length
/-- Where the regions lie, and the offset of the unit checks. -/
def Image.laid (im : Image) : List (Nat × Region) × Nat := layRegions (im.dirAt + 16 * im.regions.length) im.regions
def Image.checksAt (im : Image) : Nat := checksOff im.laid.2

/-- The 64 bytes of the header (15 R398). -/
def Image.header (im : Image) : List Byte :=
  let b := [0x5A#8, 0x53#8, 0x53#8, 0x31#8, 1#8, 0#8, BitVec.ofNat 8 im.kind, BitVec.ofNat 8 (b2n im.scaling)] ++ natLe 8 im.label.toNat ++
    natLe 8 im.step ++ natLe 8 im.serial.toNat ++ natLe 8 im.length ++ natLe 4 im.progBytes.length ++ natLe 4 im.scalBytes.length ++
    natLe 4 im.regions.length ++ [BitVec.ofNat 8 im.ctx] ++ List.replicate 7 0#8
  b ++ natLe 4 (crc32c b).toNat

/-- The 152 bytes of the register record (15 R397). -/
def Image.record (im : Image) : List Byte :=
  if im.kind == 2 then
    [BitVec.ofNat 8 (b2n im.decision), 0#8, 0#8, 0#8] ++ natLe 4 im.scale.toNat ++ List.replicate 144 0#8
  else im.regs.flatMap fun r => natLe 8 r.2.toNat

/-- The image before its unit checks. -/
def Image.body (im : Image) : Mem :=
  let m := Mem.write (Mem.write [] 0 im.header) 64 im.record
  let m := Mem.write (Mem.write m 4096 im.progBytes) (scalOff im.progBytes.length) im.scalBytes
  let m := Mem.write m im.dirAt (im.regions.flatMap fun r => natLe 8 r.addr ++ natLe 8 r.size)
  im.laid.1.foldl (fun m e => e.2.bytes.foldl (fun m b => SMap.set (0#8) m (e.1 + b.1) b.2) m) m

/-- CRC-32C of a unit. -/
def unitCrc (m : Mem) (u : Nat) : BitVec 32 := crc32c (Mem.read m (u * unit2M) unit2M)
/-- The unit checks of the units before an offset. -/
def unitChecks (m : Mem) (c : Nat) : List Byte := (List.range (c / unit2M)).flatMap fun u => natLe 4 (unitCrc m u).toNat

/-- The bytes of an image: as they came, or as the module lays them out. -/
def Image.bytes (im : Image) : Mem :=
  match im.raw with
  | some m => m
  | none => Mem.write im.body im.checksAt (unitChecks im.body im.checksAt)

/-- A unit of an image. -/
def Image.unit (im : Image) (u : Nat) : List Byte := Mem.read im.bytes (u * unit2M) unit2M

/-- SM3 digest of the whole image (15 R402). -/
def Image.digest (im : Image) : BitVec 256 := sm3 (Mem.read im.bytes 0 im.length)

/-! ## Reading an image that came from outside (15 R406, R411, R416) -/

/-- The header holds. -/
def imageHeadOk (h : List Byte) : Bool :=
  h.take 4 == [0x5A#8, 0x53#8, 0x53#8, 0x31#8] && field h 4 2 == 1 && (field h 6 1 == 1 || field h 6 1 == 2) && decide (field h 7 1 ≤ 1) &&
  decide (field h 16 8 < 2 ^ 48) && field h 32 8 % unit2M == 0 && field h 32 8 != 0 && decide (1 ≤ field h 48 4) && decide (field h 48 4 ≤ 4096) &&
  field h 53 7 == 0 && field h 60 4 == (crc32c (h.take 60)).toNat

/-- Offset of the end of the directory, by the header. -/
def imageDirEnd (h : List Byte) : Nat := dirOff (field h 40 4) (field h 44 4) + 16 * field h 48 4

/-- The regions that the directory names, without their data. -/
def imageDir (m : Mem) (h : List Byte) : List Region :=
  (List.range (field h 48 4)).map fun i =>
    let b := Mem.read m (dirOff (field h 40 4) (field h 44 4) + 16 * i) 16
    { addr := field b 0 8, size := field b 8 8, bytes := [] }

/-- Bytes of a range as their own table. -/
def Mem.slice (m : Mem) (a n : Nat) : Mem := (m.filter fun e => decide (a ≤ e.1) && decide (e.1 < a + n)).map fun e => (e.1 - a, e.2)

/-- Read an image by its header and directory. -/
def readImage (m : Mem) : Image :=
  let h := Mem.read m 0 64
  let plen := field h 40 4
  let slen := field h 44 4
  let regs := imageDir m h
  let laid := (layRegions (imageDirEnd h) regs).1
  let rec_ := Mem.read m 64 152
  let sc := if bit (field h 7 1) 0 then sectionScaling (Mem.read m (scalOff plen) slen) else {}
  { kind := field h 6 1, scaling := bit (field h 7 1) 0, label := BitVec.ofNat 64 (field h 8 8), step := field h 16 8,
    serial := BitVec.ofNat 64 (field h 24 8), length := field h 32 8, ctx := field h 52 1,
    regs := recordOffs.map fun o => (o, BitVec.ofNat 64 (field rec_ (o - 0x200) 8)), decision := bit (field rec_ 0 1) 0,
    scale := BitVec.ofNat 32 (field rec_ 4 4), prog := if plen == 0 then none else sectionProg (Mem.read m 4096 plen),
    recs := sc.recs, serveCount := sc.count, copies := sc.copies, sregs := sc.sregs,
    regions := laid.map fun e => { e.2 with bytes := Mem.slice m e.1 e.2.size }, raw := some m }

/-- The header, the length and every unit check hold (15 R406, R416). -/
def imageChecks (m : Mem) : Bool :=
  let h := Mem.read m 0 64
  let c := checksOff (layRegions (imageDirEnd h) (imageDir m h)).2
  imageHeadOk h && field h 32 8 == imageLen c && Mem.read m c (4 * (c / unit2M)) == unitChecks m c

/-! ## Taking an image (15 R397, R401, R411) -/

/-- Insert a region by its address. -/
def insertRegion (r : Region) : List Region → List Region
  | [] => [r]
  | x :: xs => if r.addr ≤ x.addr then r :: x :: xs else x :: insertRegion r xs

/-- Regions of a whole-state image: the context's T1 allocations in ascending address. -/
def State.t1Regions (s : State) (n : Nat) : List Region :=
  ((s.allocs.filter fun x => x.ctx == n && x.tier == 1).map fun x => ({ addr := x.base, size := x.size, bytes := [] } : Region)).foldr insertRegion []

/-- The regions that an image may have number 1 to 4,096 (15 R398). -/
def Image.countOk (im : Image) : Bool := decide (1 ≤ im.regions.length) && decide (im.regions.length ≤ 4096)

/-- Set the length by the sections and regions. -/
def Image.sized (im : Image) : Image := { im with length := imageLen im.checksAt }

/-- Scale registers of a context on a core: in the core while its quarter runs the context, else in what the context will find there (03 R51). -/
def State.ctxSregs (s : State) (n c : Nat) : SMap F32 :=
  let q := s.quarter (quarterOf c)
  if q.cur == some n && q.phase != 3 then (s.core c).s else ((SMap.get none (s.ctx n).saved c).getD {}).s

/-- The scale registers of a context, by core (03 R51). -/
def State.sregsOf (s : State) (n : Nat) : SMap (SMap F32) := (List.range 320).foldl (fun m c => SMap.set [] m c (s.ctxSregs n c)) []

/-- The whole-state image of a context, without its regions' data. -/
def State.wholeShape (s : State) (n : Nat) (scaling : Bool) (label : BitVec 64) : Image :=
  let k := s.ctx n
  ({ kind := 1, scaling := scaling, label := label, step := k.step.applied, serial := Config.serial, length := 0, ctx := n,
     regs := recordOffs.map fun o => (o, BitVec.ofNat 64 (s.ctxWord n o)), decision := false, scale := 0#32, prog := k.prog,
     recs := if scaling then k.recs else [], serveCount := if scaling then k.arith.serveCount else 0,
     copies := if scaling then k.copies else [], sregs := if scaling then s.sregsOf n else [], regions := s.t1Regions n } : Image).sized

/-- The newest retention record of a context (15 R411): the one of the greatest step. -/
def CtxStep.newestRetained (t : CtxStep) : Option Retention :=
  t.retained.foldl (fun m r => match m with | some x => if x.epoch < r.epoch then some r else some x | none => some r) none

/-- The image of a retention record, without its regions' data. -/
def State.retainedShape (s : State) (n : Nat) (scaling : Bool) (label : BitVec 64) (r : Retention) : Image :=
  let k := s.ctx n
  ({ kind := 2, scaling := scaling, label := label, step := r.epoch, serial := Config.serial, length := 0, ctx := n, regs := [],
     decision := r.decision, scale := r.scale, prog := none, recs := if scaling then k.recs else [],
     serveCount := if scaling then k.arith.serveCount else 0, copies := [], sregs := [],
     regions := r.regions.map fun x => { addr := x.1, size := x.2, bytes := [] } } : Image).sized

/-- Read the regions' data from T1; an unreadable word is answered (09 R237). -/
def State.readRegions (s : State) : List Region → (List Region ⊕ Nat) × State
  | [] => (.inl [], s)
  | r :: rs =>
    match s.load r.addr r.size with
    | (.inr w, s) => (.inr w, s)
    | (.inl bs, s) =>
      match s.readRegions rs with
      | (.inr w, s) => (.inr w, s)
      | (.inl l, s) => (.inl ({ r with bytes := Mem.write [] 0 bs } :: l), s)

/-! ## Room for an image -/

/-- Free 2 MiB units of T2 outside the bulk window (15 R401). -/
def State.freeT2 (s : State) : Nat :=
  let rs := (s.usedRanges 2 ++ s.fillRanges 2).filter fun r => decide (t2Base + windowSize ≤ r.1)
  (t2Size - windowSize) / unit2M - (rs.map fun r => r.2 / unit2M).sum

/-- Take free units of T2 outside the bulk window, lowest first; `none` when they run out. -/
def State.takeT2 (s : State) : Nat → List (Nat × Nat) → Option (List (Nat × Nat))
  | 0, acc => some acc
  | k + 1, acc =>
    match lowestFree (t2Base + windowSize) (t2Size - windowSize) unit2M
        (s.usedRanges 2 ++ s.fillRanges 2 ++ acc.map fun r => (r.1, r.2 * unit2M)) with
    | some a => s.takeT2 k (acc ++ [(a, 1)])
    | none => none

/-- Staging is filled and freed (15 R402). -/
def State.freeStaging (s : State) (st : List (Nat × Nat)) : State := st.foldl (fun s r => s.startFill 2 r.1 r.2 none none) s

/-- The regions of a restore can be had: each free in T1, apart from the others, and within the quota (15 R406). -/
def State.regionsOk (s : State) (n : Nat) (rs : List Region) : Bool :=
  rs.all (fun r => r.size != 0 && r.size % unit2M == 0 && r.addr % unit2M == 0 && within r.addr r.size t1Base t1Size &&
    clearOf r.addr r.size (s.usedRanges 1 ++ s.fillRanges 1)) &&
  (List.range rs.length).all (fun i => match rs[i]? with
    | some r => clearOf r.addr r.size ((rs.drop (i + 1)).map fun x => (x.addr, x.size))
    | none => true) &&
  decide ((s.ctx n).usedIn 1 + (rs.map fun r => r.size / unit2M).sum ≤ (s.ctx n).mem.lim1)

/-- Take the regions of a restore and the room for its scaling records; `none` where one cannot be had (15 R406, 09 R501). -/
def State.takeRegions (s : State) (n : Nat) (im : Image) : Option State :=
  if !s.regionsOk n im.regions then none
  else
    let s := im.regions.foldl (fun (s : State) r => s.addAlloc n 1 r.addr (r.size / unit2M)) s
    s.growScaling n (Config.scalingUnits im.recs.length - (s.ctx n).mem.scaling.length)

/-! ## Generations (15 R402 to R404) -/

/-- Change a context's snapshot part. -/
def State.modSnapOf (s : State) (n : Nat) (f : CtxSnap → CtxSnap) : State := s.modCtx n fun k => k.modSnap f
/-- A generation by number. -/
def CtxSnap.gen (k : CtxSnap) (g : Nat) : Gen := if g == 1 then k.g1 else k.g0
/-- Replace a generation. -/
def CtxSnap.setGen (k : CtxSnap) (g : Nat) (x : Gen) : CtxSnap := if g == 1 then { k with g1 := x } else { k with g0 := x }
/-- A generation holds nothing. -/
def Gen.empty (g : Gen) : Bool := g.units == 0
/-- The generation that an image is written into: one that holds nothing, else the older (15 R404). -/
def CtxSnap.target (k : CtxSnap) : Nat := if k.g0.empty then 0 else if k.g1.empty then 1 else if k.g0.newest then 1 else 0
/-- The generation that RESTORE's parameter names: 0 the newest valid one, else the other valid one (15 R403). -/
def CtxSnap.named (k : CtxSnap) (p : Nat) : Option Nat :=
  [0, 1].find? fun g => (k.gen g).valid && !(k.gen g).writing && ((k.gen g).newest == (p == 0))

/-- Charge a generation to the T3 quota, the replaced one's charge released in the same step; `none` where the charge fails (15 R404). -/
def State.chargeGen (s : State) (n g units : Nat) : Option State :=
  let k := s.ctx n
  let old := (k.snap.gen g).units
  if k.mem.used3 - old + units > k.mem.lim3 || s.t3Used - old + units > t3Units then none
  else
    some (s.modCtx n fun k => (k.modMem fun m => { m with used3 := m.used3 - old + units }).modSnap fun x => x.setGen g { units := units })

/-- A generation holds nothing, and its charge is released. -/
def State.emptyGen (s : State) (n g : Nat) : State :=
  s.modCtx n fun k => (k.modMem fun m => { m with used3 := m.used3 - (k.snap.gen g).units }).modSnap fun x => x.setGen g {}

/-- A unit of a generation as T3 holds it (15 R402). -/
def Gen.stored (g : Gen) (u : Nat) : List Byte := match g.image with | some im => Config.snapshotCipher Config.snapshotKey u (im.unit u) | none => []

/-- A unit of a generation as the module that took it reads it back (15 R402). -/
def Gen.plain (g : Gen) (u : Nat) : List Byte := (Config.snapshotCipher Config.snapshotKey u).symm (g.stored u)

/-- What a role-0 RESTORE checks of a generation: the kind, every unit check, and the ledger's digest over the units read back (15 R406). -/
def Gen.checks (g : Gen) : Bool :=
  match g.image with
  | some im => im.kind == 1 && imageChecks im.bytes && sm3 ((List.range (im.length / unit2M)).flatMap g.plain) == g.digest
  | none => false

/-- A generation becomes valid and newest (15 R402, R416). -/
def CtxSnap.validate (k : CtxSnap) (g : Nat) (im : Image) : CtxSnap :=
  let x := k.gen g
  let o := k.gen (1 - g)
  (k.setGen (1 - g) { o with newest := false }).setGen g
    { image := some im, valid := true, newest := true, units := x.units, digest := im.digest }

end Sys2Proof.Machine
end

