-- ==== Sys2Proof/Machine/Act.lean ====
section
/-!
DEFINITION. The activation functions of 05 R137, R138 and the derivative factors of 06 R157.

Every result is the exact one rounded once. Algebraic results are formed exactly. A result that is not algebraic is formed
in whole numbers scaled by `2^W` with an error below `2^-900`; the smallest difference that rounding has to tell lies
many hundred bits above that (DEDUCED, log 11).
-/

namespace Sys2Proof.Machine

open Sys2Proof

/-- The functions by FN[3:0] (05 R137). -/
def actDefined (fn : Nat) : Bool := decide (1 ≤ fn) && decide (fn ≤ 0xB)

/-- Functions that 06 R157 marks output-derivable. -/
def actOutDer (fn : Nat) : Bool := actDefined fn && fn != 4 && fn != 5

/-! ## Fixed-point values scaled by `2^W` -/

/-- Working bits. -/
def actW : Nat := 1300
/-- One. -/
def actOne : Int := 2 ^ actW
/-- Product of two scaled values. -/
def sMul (x y : Int) : Int := Int.fdiv (x * y) actOne
/-- Quotient of two scaled values. -/
def sDiv (x y : Int) : Int := if y == 0 then 0 else Int.fdiv (x * actOne) y
/-- A decoded finite value, scaled. -/
def sFin (neg : Bool) (m : Nat) (e : Int) : Int := floorShift (sgn neg m) (e + actW)

/-- `sum of z^(2k+1) / (2k+1)` from term `k`, for `|z| ≤ 1/3`: the series of the inverse hyperbolic tangent. -/
def atanhSum (z2 : Int) : Nat → Nat → Int → Int
  | 0, _, _ => 0
  | n + 1, k, p => Int.fdiv p (2 * k + 1) + atanhSum z2 n (k + 1) (sMul p z2)

/-- `ln y` of a scaled `y` in [1, 2]. -/
def sLn12 (y : Int) : Int :=
  let z := sDiv (y - actOne) (y + actOne)
  2 * atanhSum (sMul z z) 430 0 z

/-- `ln 2`, scaled. -/
def sLn2 : Int := sLn12 (2 * actOne)

/-- The exponential series from term `k`, for an argument in [0, 1). -/
def expSum (r : Int) : Nat → Nat → Int → Int
  | 0, _, _ => 0
  | n + 1, k, t => t + expSum r n (k + 1) (Int.fdiv (sMul t r) (k + 1))

/-- `e^-a` of a scaled `a ≥ 0`. -/
def sExpNeg (a : Int) : Int :=
  let k := Int.fdiv a sLn2
  let r := a - k * sLn2
  if k > 1290 then 0 else Int.fdiv (sDiv actOne (expSum r 260 0 actOne)) (2 ^ k.toNat)

/-- `sum of x^(2n+1) / (1 * 3 * … * (2n+1))` from term `n`. -/
def phiSum (x2 : Int) : Nat → Nat → Int → Int
  | 0, _, _ => 0
  | n + 1, k, t => t + phiSum x2 n (k + 1) (Int.fdiv (sMul t x2) (2 * k + 3))

/-- The whole square root of a scaled value, scaled. -/
def sSqrt (x : Int) : Int := isqrt (x.toNat * 2 ^ actW)

/-- Machin's sum for `pi`: `atan (1/n)` from term `k`. -/
def atanInv (n : Int) : Nat → Nat → Int → Int
  | 0, _, _ => 0
  | f + 1, k, p => Int.fdiv p (2 * k + 1) - atanInv n f (k + 1) (Int.fdiv p (n * n))

/-- `pi`, scaled. -/
def sPi : Int := 16 * atanInv 5 300 0 (Int.fdiv actOne 5) - 4 * atanInv 239 100 0 (Int.fdiv actOne 239)

/-- The standard normal density at a scaled `x`. -/
def sDens (x : Int) : Int := sDiv (sExpNeg (Int.fdiv (sMul x x) 2)) (sSqrt (2 * sPi))

/-- The standard normal distribution function at a scaled `x ≥ 0`, less 1/2. -/
def sPhiHalf (x : Int) : Int := sMul (sDens x) (phiSum (sMul x x) 2200 0 x)

/-- `1 / (1 + e^-x)` of a scaled `x`. -/
def sSigm (x : Int) : Int :=
  let t := sExpNeg (if x < 0 then -x else x)
  if x < 0 then sDiv t (actOne + t) else sDiv actOne (actOne + t)

/-! ## Rounding -/

/-- A scaled approximation of an exact result that is not 0 and has sign `neg`, rounded to FP32; one too small to see rounds to 0 with its sign (05 R138). -/
def roundScaled (neg : Bool) (v e : Int) : F32 × Ev :=
  let m := if (decide (v < 0)) == neg then v.natAbs else 0
  roundF32 neg (if m == 0 then 1 else m) (e - actW)

/-- A factor that a gradient is multiplied by: exact, a quotient or root of exact values, or a scaled approximation of a known sign. -/
inductive Fac where
  | num (v : Num)
  /-- `(-1)^neg * a / b * 2^e` -/
  | quo (neg : Bool) (a b : Nat) (e : Int)
  /-- `(-1)^neg * sqrt (a / b * 2^e)` -/
  | root (neg : Bool) (a b : Nat) (e : Int)
  | approx (neg : Bool) (v : Int)
  /-- the spec states no factor here -/
  | unstated
  deriving DecidableEq, Repr

/-- A factor multiplied by a decoded gradient and rounded once; the free value where the spec states no factor (05 R138, log 12). -/
def mulFac (free : F32) (g : Num) (fac : Fac) : F32 × Ev :=
  match g, fac with
  | .nan, _ => (f32NaN, {})
  | _, .unstated =>
    (free, { inv := decide (f32 free = .nan),
             ovf := match g, f32 free with | .fin _ _ _, .inf _ => true | _, _ => false })
  | g, .num v =>
    match mulNum g v with
    | some p => roundNum p
    | none => (f32NaN, { inv := true })
  | .inf a, .quo b _ _ _ => (f32Inf (a != b), {})
  | .inf a, .root b _ _ _ => (f32Inf (a != b), {})
  | .inf a, .approx b _ => (f32Inf (a != b), {})
  | .fin a m e, .quo b p q k =>
    let (d, j) := divBits (m * p) q
    if m == 0 then (f32Zero (a != b), {}) else roundF32 (a != b) d (e + k + j)
  | .fin a m e, .root b p q k =>
    if m == 0 then (f32Zero (a != b), {})
    else
      let (d, j) := divBits (m * m * p * 2 ^ 200) q
      let (r, i) := sqrtBits d (2 * e + k + j - 200)
      roundF32 (a != b) r i
  | .fin a m e, .approx b v =>
    if m == 0 then (f32Zero (a != b), {})
    else roundScaled (a != b) (sgn a m * (if (decide (v < 0)) == b then v else 0)) e

/-! ## f(x), mode 0 (05 R137, R138) -/

/-- `e^x` of a finite value, scaled. Arguments above 400 stand for 400, beyond the range of every product. -/
def sExp (neg : Bool) (m : Nat) (e : Int) : Int :=
  let a := sFin false m e
  if neg then sExpNeg a else sDiv actOne (sExpNeg (min a (400 * actOne)))

/-- A finite non-zero input is treated as beyond `2^10`, where every function is at its limit to 900 bits. -/
def isFar (m : Nat) (e : Int) : Bool := decide (expOf m + e ≥ 10)

/-- `f(x)` at a finite non-zero `x` (05 R138). -/
def actFin (fn : Nat) (neg : Bool) (m : Nat) (e : Int) : F32 × Ev :=
  let x := sFin neg m e
  let far := isFar m e
  match fn with
  | 1 => if neg then (f32Zero false, {}) else roundF32 false m e
  | 2 => if far then roundScaled false (if neg then 1 else actOne - 1) 0 else roundScaled false (sSigm x) 0
  | 3 =>
    if far then roundScaled neg (if neg then 1 - actOne else actOne - 1) 0
    else
      let t := sExpNeg (2 * sFin false m e)
      let v := sDiv (actOne - t) (actOne + t)
      roundScaled neg (if neg then -v else v) 0
  | 4 =>
    if decide (expOf m + e ≥ 5) then (if neg then roundScaled true (-1) 0 else roundF32 false (m * 2 ^ 200 - 1) (e - 200))
    else
      let h := sPhiHalf (sFin false m e)
      let p := Int.fdiv actOne 2 + (if neg then -h else h)
      roundScaled neg (sgn neg m * p) e
  | 5 =>
    if far then (if neg then roundScaled true (-1) 0 else roundF32 false (m * 2 ^ 200 - 1) (e - 200))
    else roundScaled neg (sgn neg m * sSigm x) e
  | 6 => if far then (if neg then roundScaled false 1 0 else (f32Inf false, { ovf := true })) else roundScaled false (sExp neg m e) 0
  | 7 =>
    if neg then (f32NaN, { inv := true })
    else
      let k := expOf m
      if m == 2 ^ k.toNat && k + e == 0 then (f32Zero false, {})
      else
        let v := (k + e) * sLn2 + sLn12 (sFin false m (-k))
        roundScaled (decide (k + e < 0)) v 0
  | 8 => let (q, k) := divBits 1 m; roundF32 neg q (k - e)
  | 9 =>
    if neg then (f32NaN, { inv := true })
    else
      let (d, j) := divBits (2 ^ 200) m
      let (r, i) := sqrtBits d (j - e - 200)
      roundF32 false r i
  | 10 => if neg then (f32NaN, { inv := true }) else let (q, k) := sqrtBits m e; roundF32 false q k
  | _ =>
    if far then (if neg then roundScaled false 1 0 else roundF32 false (m * 2 ^ 200 + 1) (e - 200))
    else
      let t := sExpNeg (sFin false m e)
      roundScaled false ((if neg then 0 else sFin false m e) + sLn12 (actOne + t)) 0

/-- `f(±0)` and `f(±∞)` by the table of 05 R138. -/
def actSpecial (fn : Nat) (inf neg : Bool) : F32 × Ev :=
  let nanI : F32 × Ev := (f32NaN, { inv := true })
  match fn, inf with
  | 1, false => (f32Zero false, {})
  | 1, true => (if neg then f32Zero false else f32Inf false, {})
  | 2, false => (0x3F000000#32, {})
  | 2, true => (if neg then f32Zero false else 0x3F800000#32, {})
  | 3, false => (f32Zero neg, {})
  | 3, true => (if neg then 0xBF800000#32 else 0x3F800000#32, {})
  | 4, false => (f32Zero neg, {})
  | 4, true => (if neg then f32Zero true else f32Inf false, {})
  | 5, false => (f32Zero neg, {})
  | 5, true => (if neg then f32Zero true else f32Inf false, {})
  | 6, false => (0x3F800000#32, {})
  | 6, true => (if neg then f32Zero false else f32Inf false, {})
  | 7, false => (f32Inf true, {})
  | 7, true => if neg then nanI else (f32Inf false, {})
  | 8, false => (f32Inf neg, {})
  | 8, true => (f32Zero neg, {})
  | 9, false => (f32Inf neg, {})
  | 9, true => if neg then nanI else (f32Zero false, {})
  | 10, false => (f32Zero neg, {})
  | 10, true => if neg then nanI else (f32Inf false, {})
  | _, false => (0x3F317218#32, {})
  | _, true => (if neg then f32Zero false else f32Inf false, {})

/-- Mode 0: `f(x)` rounded once (05 R138). -/
def actF (fn : Nat) (x : F32) : F32 × Ev :=
  match f32 x with
  | .nan => (f32NaN, {})
  | .inf neg => actSpecial fn true neg
  | .fin neg m e => if m == 0 then actSpecial fn false neg else actFin fn neg m e

/-! ## The derivative factor from the output, mode 1 (06 R157) -/

/-- The exact value 1. -/
def numOne : Num := .fin false 1 0
/-- An exact signed value. -/
def numInt (zeroNeg : Bool) (i e : Int) : Num := if i == 0 then .fin zeroNeg 0 0 else .fin (decide (i < 0)) i.natAbs e

/-- `e^-y` as a factor. -/
def facExpNeg (neg : Bool) (m : Nat) (e : Int) : Fac :=
  if m == 0 then .num numOne else .approx false (max 1 (sExp (!neg) m e))

/-- `1 - e^-y` of a finite non-zero `y`. -/
def facOneLess (neg : Bool) (m : Nat) (e : Int) : Fac :=
  let v := actOne - sExp (!neg) m e
  .approx neg (if v == 0 then (if neg then -1 else 1) else v)

/-- `d(y)` (06 R157); at an infinite output it is the limit (05 R138). -/
def actDer1 (fn : Nat) (y : F32) : Fac :=
  match f32 y with
  | .nan => .num .nan
  | .inf neg =>
    match fn with
    | 1 => if neg then .unstated else .num numOne
    | 2 => .num (.inf true)
    | 3 => .num (.inf true)
    | 6 => .num (.inf neg)
    | 7 => .num (if neg then .inf false else .fin false 0 0)
    | 8 => .num (.inf true)
    | 9 => .num (.inf (!neg))
    | 10 => .num (.fin neg 0 0)
    | _ => .num (if neg then .inf true else numOne)
  | .fin neg m e =>
    match fn with
    | 1 => if m == 0 then .num (.fin false 0 0) else if neg then .unstated else .num numOne
    | 2 => let (i, k) := addFin false 1 0 (!neg) m e; .num (if m == 0 then .fin neg 0 0 else numInt false (sgn neg m * i) (e + k))
    | 3 => let (i, k) := addFin false 1 0 true (m * m) (2 * e); .num (numInt false i k)
    | 6 => .num (.fin neg m e)
    | 7 => facExpNeg neg m e
    | 8 => .num (.fin true (m * m) (2 * e))
    | 9 => .num (.fin (!neg) (m * m * m) (3 * e - 1))
    | 10 => if m == 0 then .unstated else .quo neg 1 m (-e - 1)
    | _ => if m == 0 then .num (.fin neg 0 0) else facOneLess neg m e

/-! ## The derivative factor from the input, mode 2 (05 R137, R138) -/

/-- `f'(x)` at an infinite input is its limit (05 R138). DESIGN CHOICE: a limit of 0 has the sign from which the derivative approaches it. -/
def actDerInf (fn : Nat) (neg : Bool) : Fac :=
  match fn with
  | 1 => .num (if neg then .fin false 0 0 else numOne)
  | 2 => .num (.fin false 0 0)
  | 3 => .num (.fin false 0 0)
  | 4 => .num (if neg then .fin true 0 0 else numOne)
  | 5 => .num (if neg then .fin true 0 0 else numOne)
  | 6 => .num (if neg then .fin false 0 0 else .inf false)
  | 7 => if neg then .unstated else .num (.fin false 0 0)
  | 8 => .num (.fin true 0 0)
  | 9 => if neg then .unstated else .num (.fin true 0 0)
  | 10 => if neg then .unstated else .num (.fin false 0 0)
  | _ => .num (if neg then .fin false 0 0 else numOne)

/-- `f'(±0)`, where it has a value (05 R137). RELU takes the value that 06 R157 gives its output 0. -/
def actDerZero (fn : Nat) : Fac :=
  match fn with
  | 1 => .num (.fin false 0 0)
  | 2 => .num (.fin false 1 (-2))
  | 3 => .num numOne
  | 4 => .num (.fin false 1 (-1))
  | 5 => .num (.fin false 1 (-1))
  | 6 => .num numOne
  | 11 => .num (.fin false 1 (-1))
  | _ => .unstated

/-- A scaled factor with a sign known from the function; a vanishing one keeps its sign. -/
def facSigned (neg : Bool) (v : Int) : Fac :=
  if (decide (v < 0)) == neg && v != 0 then .approx neg v else .approx neg (if neg then -1 else 1)

/-- `f'(x)` at a finite non-zero input (05 R137). -/
def actDerFin (fn : Nat) (neg : Bool) (m : Nat) (e : Int) : Fac :=
  let x := sFin neg m e
  let far := isFar m e
  match fn with
  | 1 => .num (if neg then .fin false 0 0 else numOne)
  | 2 => if far then .approx false 1 else let t := sSigm x; facSigned false (sMul t (actOne - t))
  | 3 =>
    if far then .approx false 1
    else
      let t := sExpNeg (2 * sFin false m e)
      facSigned false (sDiv (4 * t) (sMul (actOne + t) (actOne + t)))
  | 4 =>
    if decide (expOf m + e ≥ 5) then (if neg then .approx true (-1) else .approx false (actOne + 1))
    else
      let h := sPhiHalf (sFin false m e)
      let v := Int.fdiv actOne 2 + (if neg then -h else h) + sMul x (sDens x)
      facSigned (if neg && decide (expOf m + e ≥ 1) then true else decide (v < 0)) v
  | 5 =>
    if far then (if neg then .approx true (-1) else .approx false (actOne + 1))
    else
      let t := sSigm x
      let v := sMul t (actOne + sMul x (actOne - t))
      facSigned (if neg && decide (expOf m + e ≥ 1) then true else decide (v < 0)) v
  | 6 => if far && neg then .approx false 1 else .approx false (max 1 (sExp neg m e))
  | 7 => if neg then .unstated else .quo false 1 m (-e)
  | 8 => .quo true 1 (m * m) (-2 * e)
  | 9 => if neg then .unstated else .root true 1 (m * m * m) (-3 * e - 2)
  | 10 => if neg then .unstated else .root false 1 m (-e - 2)
  | _ => if far then .approx false (if neg then 1 else actOne - 1) else facSigned false (sSigm x)

/-- The factor of mode 2. -/
def actDer2 (fn : Nat) (x : F32) : Fac :=
  match f32 x with
  | .nan => .num .nan
  | .inf neg => actDerInf fn neg
  | .fin neg m e => if m == 0 then actDerZero fn else actDerFin fn neg m e

/-- One lane of ACT: the input, the gradient of modes 1 and 2, and the free value for a factor that the spec does not state (05 R137, R138). -/
def actLane (mode fn : Nat) (free x g : F32) : F32 × Ev :=
  if mode == 0 then actF fn x
  else if f32 x = .nan then (f32NaN, {})
  else mulFac free (f32 g) (if mode == 1 then actDer1 fn x else actDer2 fn x)

end Sys2Proof.Machine
end

