-- ==== Sys2Proof/Machine/Descale.lean ====
section
/-!
DEFINITION. Descales: the products a program has, the scales their operands hold, and who writes the descales into the scale
registers (03 R54, R55, R68, R69, R71, R72, 04 R96, 06 R156).
-/

namespace Sys2Proof.Machine

/-- A product whose descales stand in scale registers: the first of its 64 registers, the tensors of its operands, and the
output channel of the first register (03 R54, R55, log 21). -/
structure Product where
  base : Fin 1985
  a : BitVec 32
  b : BitVec 32
  chan : Nat
  deriving DecidableEq, Repr

end Sys2Proof.Machine

namespace Sys2Proof.Config

/-- The products of a program whose descales a core holds: which tensors and registers the program's tile descriptors pair is not
given before they run (03 R55, log 21). -/
opaque products : Machine.Prog → Nat → List Machine.Product

end Sys2Proof.Config

namespace Sys2Proof.Machine

open Sys2Proof

/-! ## The scale that an operand holds -/

/-- For whom descales are formed: steps or non-step RUNs, the key of the RUN's just-in-time scales, and the last it uses. -/
structure ScaleUse where
  step : Bool
  key : Nat
  last : Nat
  deriving DecidableEq, Repr

/-- For a RUN. -/
def Run.scaleUse (r : Run) : ScaleUse := { step := r.step, key := r.key, last := r.latched }

/-- Where the scales of a loaded copy stand: of a copy in the last in use, else of the context's own copies (08 R192, R206). -/
def State.copyScales (s : State) (n last : Nat) (tid : BitVec 32) : Option Nat :=
  let l := if last == 1 then s.lastA else if last == 2 then s.lastB else {}
  match l.base, SMap.get none l.copies tid.toNat with
  | some b, some o => some (b + o)
  | _, _ => SMap.get none (s.ctx n).copies tid.toNat

/-- The scale that a channel of a copy of weights carries since a quantiser of the context made it; a copy in the last in use is another
(06 R156, log 21). -/
def State.carriedScale (s : State) (n last : Nat) (tid : BitVec 32) (ch : Nat) : Option F32 :=
  let l := if last == 1 then s.lastA else if last == 2 then s.lastB else {}
  if (SMap.get none l.copies tid.toNat).isSome then none else SMap.get none ((s.ctx n).rec! tid).carried ch

/-- The scale of a channel of a tensor: a copy's is the one it carries (06 R156), another tensor's the one its record holds for the RUN
(03 R55, R64, R69, R72). -/
def State.heldScale (s : State) (n : Nat) (u : ScaleUse) (tid : BitVec 32) (ch : Nat) : F32 :=
  match s.carriedScale n u.last tid ch, s.copyScales n u.last tid with
  | some v, _ => v
  | none, some a => BitVec.ofNat 32 (leNat (s.bytes (a + 4 * ch) 4))
  | none, none =>
    match (s.ctx n).rowOf tid with
    | some r => scaleAt r ((s.ctx n).rec! tid) u.step u.key (if r.perChan then ch else 0)
    | none => 0x3F800000#32

/-! ## Descales -/

/-- The descale of an operand pair, rounded once (03 R55). -/
def descaleOf (a b : F32) : F32 × Ev :=
  match mulNum (f32 a) (f32 b) with
  | some (.fin neg m e) =>
    if m == 0 then (f32Inf neg, {})
    else
      let (q, k) := divBits 1 m
      roundF32 neg q (k - e)
  | some (.inf neg) => (f32Zero neg, {})
  | _ => (f32NaN, {})

/-- Register and descale of each channel of a product (03 R54, R55). -/
def State.productDescales (s : State) (n : Nat) (u : ScaleUse) (p : Product) : List (Nat × F32 × Ev) :=
  (List.range 64).map fun j => (p.base.val + j, descaleOf (s.heldScale n u p.a 0) (s.heldScale n u p.b (p.chan + j)))

/-- The products of the context's program on a core: those that a tensor enters, or every one. -/
def State.products (s : State) (n : Nat) (only : Option (BitVec 32)) (c : Nat) : List Product :=
  match (s.ctx n).prog with
  | some p => (Config.products p c).filter fun x => match only with | some t => x.a == t || x.b == t | none => true
  | none => []

/-- Register and descale of the products of the context's program on a core. -/
def State.descales (s : State) (n : Nat) (u : ScaleUse) (only : Option (BitVec 32)) (c : Nat) : List (Nat × F32 × Ev) :=
  (s.products n only c).flatMap (s.productDescales n u)

/-- Write descales into scale registers. -/
def Core.putDescales (k : Core) (ds : List (Nat × F32 × Ev)) : Core := ds.foldl (fun k d => k.setS d.1 d.2.1) k

/-- Address of a core's save record (12 R316). -/
def State.recordAddr (s : State) (n c : Nat) : Option Nat :=
  (SMap.get none (s.ctx n).mem.save (quarterOf c)).map fun b => b + c % 80 * 0x624000

/-- The firmware writes one scale register of a save record in T1; an unreadable word beside it stops it (09 R227, R237, 12 R316). -/
def State.storeScale (n a : Nat) (s : State) (d : Nat × F32 × Ev) : State :=
  match s.store (a + 0x600000 + 4 * d.1) (natLe 4 d.2.1.toNat) with
  | (none, s) => s
  | (some w, s) => s.uncorrFault w 4 n none

/-- Write descales into the save record of a core, and into its bytes where the core has one in T1 (04 R96, 12 R316). -/
def State.recordDescales (s : State) (n c : Nat) (k : Core) (ds : List (Nat × F32 × Ev)) : State :=
  let s := s.modCtx n fun x => { x with saved := SMap.set none x.saved c (some (k.putDescales ds)) }
  match (if k.ctx.isSome then s.recordAddr n c else none) with
  | some a => ds.foldl (State.storeScale n a) s
  | none => s

/-- Write the descales of a context on a core: into the core where the quarter runs the context, else into what the context will
find there. The firmware (`held`) leaves a core that is released to a task as it is (04 R96); what it writes to a core under partial reset is dropped
(17 R456). -/
def State.writeDescales (n : Nat) (u : ScaleUse) (only : Option (BitVec 32)) (held : Bool) (s : State) (c : Nat) : State :=
  let ds := s.descales n u only c
  let q := s.quarter (quarterOf c)
  if !s.coreExists c then s
  else if q.cur == some n && q.phase != 3 then
    if s.rst.busy && s.rst.hasCore c && !ds.isEmpty then s.straggle 1
    else if held && (s.core c).task.isSome then s else (s.modCore c fun k => k.putDescales ds).arith n (sumEv (·.2.2) ds) false
  else
    let k := (SMap.get none (s.ctx n).saved c).getD {}
    if held && (match k.task with | some t => ((s.ctx n).run? t.run).isSome | none => false) then s
    else (s.recordDescales n c k ds).arith n (sumEv (·.2.2) ds) false

/-- Words in error under the scales of loaded copies that the descales of a context read (09 R236). -/
def State.badScales (s : State) (n : Nat) (u : ScaleUse) (only : Option (BitVec 32)) : List Nat :=
  ((List.range 320).flatMap (s.products n only)).flatMap fun p =>
    (match s.copyScales n u.last p.a with | some a => s.badIn a 4 | none => []) ++
    (match s.copyScales n u.last p.b with | some a => s.badIn (a + 4 * p.chan) 256 | none => [])

/-- Write the descales of a context on every core; the scales of loaded copies are read from T1 through the word code, and one that
cannot be read stops the write (09 R228, R237). -/
def State.allDescales (s : State) (n : Nat) (u : ScaleUse) (only : Option (BitVec 32)) (held : Bool) : State :=
  match s.meetWords 0 (s.badScales n u only) with
  | (some w, s) => s.uncorrFault w 4 n none
  | (none, s) => (List.range 320).foldl (fun s c => State.writeDescales n u only held s c) s

/-- The firmware writes the descales of a context's RUN before the cores are released into it (03 R68, R69). -/
def State.firmDescales (s : State) (n : Nat) (u : ScaleUse) : State := s.allDescales n u none true

/-- The quantiser writes the descales of the products that a tensor enters, as the tensor's scale changes within a RUN: a just-in-time
scale is fixed, or a loaded copy is produced anew (03 R55, R72, log 21). -/
def State.newScale (s : State) (n : Nat) (r : Run) (tid : BitVec 32) : State := s.allDescales n r.scaleUse (some tid) false

end Sys2Proof.Machine
end

