-- ==== Sys2Proof/Machine/Operands.lean ====
section
/-!
DEFINITION. Operand forms and field checks of the core instructions (05 R115, R116).
-/

namespace Sys2Proof

open Sys2Proof.Machine

/-- IMM sign-extended to 64 bits (05 R115). -/
def SF.simm (w : SF) : BitVec 64 := w.imm.signExtend 64
/-- IMM as a signed number. -/
def SF.iimm (w : SF) : Int := w.imm.toInt
/-- The second operand: A[B], or IMM when I = 1 (05 R115). -/
def SF.opnd (w : SF) (k : Core) : BitVec 64 := if w.i = 1#1 then w.simm else k.ra w.b.toNat
/-- The A registers that the second operand reads. -/
def SF.opndRegs (w : SF) : List Nat := if w.i = 1#1 then [] else [w.b.toNat]
/-- The fields of the second operand that its form leaves unused are 0 (05 R116). -/
def SF.opndOk (w : SF) : Bool := if w.i = 1#1 then w.b == 0#5 else w.imm == 0#32

/-- Which of FN, D, A, B, I and IMM must be 0. -/
def SF.zero (w : SF) (fn d a b i imm : Bool) : Bool :=
  (!fn || w.fn == 0#8) && (!d || w.d == 0#5) && (!a || w.a == 0#5) && (!b || w.b == 0#5) && (!i || w.i == 0#1) && (!imm || w.imm == 0#32)

/-- FN is at most `m`. -/
def SF.fnMax (w : SF) (m : Nat) : Bool := decide (w.fn.toNat ≤ m)
/-- D names an L or F register. -/
def SF.d8 (w : SF) : Bool := decide (w.d.toNat < 8)
/-- D names a T register. -/
def SF.d16 (w : SF) : Bool := decide (w.d.toNat < 16)
/-- IMM holds a semaphore index alone (05 R144). -/
def SF.semOk (w : SF) : Bool := decide (w.imm.toNat < 256)
/-- The semaphore index. -/
def SF.sem (w : SF) : Nat := w.imm.toNat % 256
/-- An offset sum A[A] + IMM: A[A] as an unsigned number, IMM as a signed one. DESIGN CHOICE: 05 R125, R146 and R147 do not say whether
A[A] is signed; a register with bit 63 set gives a sum past the top. -/
def SF.sum (w : SF) (k : Core) : Int := (k.ra w.a.toNat).toNat + w.iimm
/-- The same as an address modulo 2^64 (05 R127). -/
def SF.addr (w : SF) (k : Core) : BitVec 64 := k.ra w.a.toNat + w.simm

/-- Vectors of a layout-V instruction (05 R115). -/
def VF.n (w : VF) : Nat := w.nm1.toNat + 1

end Sys2Proof

namespace Sys2Proof.Machine

open Sys2Proof

/-! ## Tile descriptors (05 R119, R120) -/

/-- OFFSET. -/
def tOffset (t : BitVec 64) : Nat := fld t.toNat 22 0
/-- FMT. -/
def tFmt (t : BitVec 64) : Nat := fld t.toNat 25 23
/-- SBASE. -/
def tSbase (t : BitVec 64) : Nat := fld t.toNat 36 26
/-- ORDER. -/
def tOrder (t : BitVec 64) : Nat := fld t.toNat 38 37
/-- SLOT. -/
def tSlot (t : BitVec 64) : Nat := fld t.toNat 41 39
/-- TRK. -/
def tTrk (t : BitVec 64) : Bool := bit t.toNat 42
/-- STRIDE. -/
def tStride (t : BitVec 64) : Nat := fld t.toNat 54 43

/-- A value TSET accepts (05 R119). -/
def tileOk (t : BitVec 64) : Bool :=
  decide (1 ≤ tFmt t) && decide (tFmt t ≤ 6) && tOrder t != 3 && decide (tOffset t % 32 = 0) && decide (fld t.toNat 63 55 = 0)

/-- A descriptor with a field replaced. -/
def setField (t : BitVec 64) (lo width v : Nat) : BitVec 64 :=
  BitVec.ofNat 64 (t.toNat - fld t.toNat (lo + width - 1) lo * 2 ^ lo + v * 2 ^ lo)

/-- Row size of a format in bytes: 64 elements (05 R120). -/
def rowSize (f : Nat) : Nat := match f with | 1 => 256 | 2 => 128 | 3 => 128 | 6 => 32 | _ => 64

/-- Row step of a tile (05 R120). -/
def rowStep (t : BitVec 64) : Nat := if tStride t = 0 then rowSize (tFmt t) else tStride t * 32

/-- Every row of a tile of `rows` rows lies below 0x60_0000, the column-order copy included (04 R88, 05 R131). -/
def tileFits (t : BitVec 64) (rows : Nat) (out : Bool) : Bool :=
  let last := if out && tOrder t == 2 then 2 * rows - 1 else rows - 1
  decide (tOffset t + last * rowStep t + rowSize (tFmt t) ≤ coreSize)

/-- The core-store range that holds every row of a tile. -/
def tileRange (t : BitVec 64) (rows : Nat) (out : Bool) : Res :=
  let last := if out && tOrder t == 2 then 2 * rows - 1 else rows - 1
  .store (tOffset t) (last * rowStep t + rowSize (tFmt t))

end Sys2Proof.Machine
end

