-- ==== Sys2Proof/Machine/Vector.lean ====
section
/-!
DEFINITION. What the vector unit and the quantiser do with one instruction's runs (05 R128, R133 to R141, 03 R53 to R72).

A run is processed one vector at a time, in ascending order, each vector read before it is written (05 R133).
-/

namespace Sys2Proof.Machine

open Sys2Proof

/-! ## Codes in bytes (02 R23) -/

/-- FP32 codes of bytes. -/
def f32s : List Byte → List F32
  | a :: b :: c :: d :: r => (d ++ c ++ b ++ a) :: f32s r
  | _ => []

/-- Bytes of FP32 codes. -/
def f32Bytes (xs : List F32) : List Byte := xs.flatMap fun x => natLe 4 x.toNat

/-- Codes of a format in bytes, element 0 first. -/
def codeBytes (f : Nat) : List Nat → List Byte
  | [] => []
  | [c] => if f == 6 then [BitVec.ofNat 8 c] else natLe (fmtBits f / 8) c
  | c :: d :: r => if f == 6 then BitVec.ofNat 8 (c + 16 * d) :: codeBytes f r else natLe (fmtBits f / 8) c ++ codeBytes f (d :: r)

/-- 16-bit codes of bytes. -/
def halves : List Byte → List Nat
  | a :: b :: r => (a.toNat + 256 * b.toNat) :: halves r
  | _ => []

/-- Codes of a format read from bytes. -/
def bytesCodes (f : Nat) (bs : List Byte) : List Nat :=
  if f == 6 then bs.flatMap fun b => [b.toNat % 16, b.toNat / 16]
  else if f == 2 || f == 3 then halves bs
  else if f == 1 then (f32s bs).map (·.toNat)
  else bs.map (·.toNat)

/-- Bytes of 256 codes of a format (05 R140, R141). -/
def vecBytes (f : Nat) : Nat := 256 * fmtBits f / 8

/-! ## Core-store runs -/

/-- Bytes of the own core store. -/
def State.coreBytes (s : State) (c off n : Nat) : List Byte := s.bytes (coreBase c + off) n
/-- Write bytes of the own core store. -/
def State.setCoreBytes (s : State) (c off : Nat) (bs : List Byte) : State :=
  (s.setBytes (coreBase c + off) bs).afterStore (coreBase c + off) bs.length
/-- Vector `v` of a run. -/
def State.vec (s : State) (c off v : Nat) : List F32 := f32s (s.coreBytes c (off + 1024 * v) 1024)
/-- Write vector `v` of a run. -/
def State.setVec (s : State) (c off v : Nat) (xs : List F32) : State := s.setCoreBytes c (off + 1024 * v) (f32Bytes xs)

/-- An offset register accepted by a vector instruction: a multiple of 128, every byte below 0x60_0000 (05 R133). -/
def runOk (off : BitVec 64) (bytes : Nat) : Bool := decide (off.toNat % 128 = 0) && decide (off.toNat + bytes ≤ coreSize)

/-- Charge a core's arithmetic events to its context (02 R35). -/
def State.coreArith (s : State) (c : Nat) (e : Ev) (grad : Bool) : State :=
  match (s.core c).ctx with
  | some n => s.arith n e grad
  | none => s

/-- Write lanes and charge their events. -/
def State.putLanes (s : State) (c off v : Nat) (r : List (F32 × Ev)) : State :=
  (s.setVec c off v (r.map (·.1))).coreArith c (sumEv (·.2) r) false

/-- Run a step for each of `n` vectors from `v` up. -/
def eachVec (step : State → Nat → State) (n : Nat) (s : State) : State := (List.range n).foldl step s

/-! ## VOP (05 R134) -/

/-- One lane of VOP by FN. -/
def vopLane (fn : Nat) (a b d x : F32) : F32 × Ev :=
  match fn with
  | 0 => fadd a b
  | 1 => fsub a b
  | 2 => fmul a b
  | 3 => ffma a b d
  | 4 => fadd a x
  | 5 => fmul a x
  | 6 => ffma a x d
  | 7 => ffma a x b
  | 8 => (fmax a b, {})
  | 9 => (fmin a b, {})
  | 10 => (fmax a x, {})
  | 11 => (fabs a, {})
  | 12 => (fneg a, {})
  | 13 => (a, {})
  | _ => (x, {})

/-- VOP reads the run at A. -/
def vopA (fn : Nat) : Bool := fn != 14
/-- VOP reads the run at B. -/
def vopB (fn : Nat) : Bool := [0, 1, 2, 3, 7, 8, 9].contains fn
/-- VOP reads its destination. -/
def vopD (fn : Nat) : Bool := fn == 3 || fn == 6
/-- VOP reads S[X]. -/
def vopX (fn : Nat) : Bool := [4, 5, 6, 7, 10, 14].contains fn

/-- 256 zeros, for a run that is not read. -/
def noVec : List F32 := List.replicate 256 0#32

/-- One vector of VOP. -/
def State.vopStep (c : Nat) (w : VecWork) (s : State) (v : Nat) : State :=
  let fn := w.f.fn.toNat
  let a := if vopA fn then s.vec c w.ra.toNat v else noVec
  let b := if vopB fn then s.vec c w.rb.toNat v else noVec
  let d := if vopD fn then s.vec c w.rd.toNat v else noVec
  let x := (s.core c).rs w.f.x.toNat
  s.putLanes c w.rd.toNat v ((a.zip (b.zip d)).map fun p => vopLane fn p.1 p.2.1 p.2.2 x)

/-! ## VRED (05 R135) -/

/-- The operation of VRED. -/
def vredOp (fn : Nat) (a b : F32) : F32 × Ev :=
  match fn with
  | 0 => fadd a b
  | 1 => (fmax a b, {})
  | 2 => (fmin a b, {})
  | _ => (fmax (fabs a) (fabs b), {})

/-- Combine two lists of lanes, with the events. -/
def vredLanes (fn : Nat) (acc xs : List F32) : List F32 × Ev :=
  let r := (acc.zip xs).map fun p => vredOp fn p.1 p.2
  (r.map (·.1), sumEv (·.2) r)

/-- Fold the lanes in halves: 128, 64, … 1 (05 R135). -/
def vredFold (fn : Nat) : Nat → List F32 → Ev → List F32 × Ev
  | 0, acc, e => (acc, e)
  | n + 1, acc, e =>
    let w := 2 ^ n
    let (r, ev) := vredLanes fn (acc.take w) (acc.drop w)
    vredFold fn n r (e.add ev)

/-- VRED over a run. -/
def State.vred (s : State) (c : Nat) (w : VecWork) : State :=
  let fn := w.f.fn.toNat
  let first := s.vec c w.ra.toNat 0
  let (acc, e) := (List.range (w.f.n - 1)).foldl (fun (p : List F32 × Ev) i =>
    let (r, ev) := vredLanes fn p.1 (s.vec c w.ra.toNat (i + 1))
    (r, p.2.add ev)) (first, {})
  if w.f.misc.toNat % 2 == 1 then (s.setVec c w.rd.toNat 0 acc).coreArith c e false
  else
    let (r, e) := vredFold fn 8 acc e
    let x := r.getD 0 0#32
    let s := if w.f.misc.toNat / 2 % 2 == 1 then s.modCore c fun k => k.setS w.f.x.toNat x
      else s.setCoreBytes c w.rd.toNat (f32Bytes [x])
    s.coreArith c e false

/-! ## VANY (05 R136) -/

/-- The test of VANY by FN. -/
def vanyTest (fn : Nat) (x : F32) : Bool :=
  match fn with
  | 0 => f32 x == .nan
  | 1 => (match f32 x with | .inf _ => true | _ => false)
  | 2 => !f32IsZero x
  | _ => !f32Finite x

/-- VANY over a run. -/
def State.vany (s : State) (c : Nat) (w : VecWork) : State :=
  let r := (List.range w.f.n).any fun v => (s.vec c w.ra.toNat v).any (vanyTest w.f.fn.toNat)
  s.modCore c fun k => k.setF w.f.d.toNat r

/-! ## ACT (05 R137, R138) -/

/-- One vector of ACT. -/
def State.actStep (c : Nat) (w : VecWork) (s : State) (v : Nat) : State :=
  let fn := w.f.fn.toNat % 16
  let mode := w.f.fn.toNat / 16
  let a := s.vec c w.ra.toNat v
  let g := if mode == 0 then noVec else s.vec c w.rb.toNat v
  s.putLanes c w.rd.toNat v ((a.zip g).map fun p => actLane mode fn (Config.actFree fn mode p.1 p.2) p.1 p.2)

/-! ## SLD, SST and WID (05 R128, R141) -/

/-- SLD: core store to scale registers. -/
def State.sld (s : State) (c : Nat) (w : VecWork) : State :=
  let xs := f32s (s.coreBytes c w.ra.toNat (1024 * w.f.n))
  s.modCore c fun k => (xs.zip (upFrom w.f.x.toNat xs.length)).foldl (fun k p => k.setS p.2 p.1) k

/-- SST: scale registers to core store. -/
def State.sst (s : State) (c : Nat) (w : VecWork) : State :=
  let k := s.core c
  s.setCoreBytes c w.rd.toNat (f32Bytes ((upFrom w.f.x.toNat (256 * w.f.n)).map k.rs))

/-- One vector of WID. -/
def State.widStep (c : Nat) (w : VecWork) (s : State) (v : Nat) : State :=
  let f := w.f.fn.toNat % 8
  let xs := (bytesCodes f (s.coreBytes c (w.ra.toNat + vecBytes f * v) (vecBytes f))).map (widen f)
  let x := (s.core c).rs w.f.x.toNat
  s.putLanes c w.rd.toNat v (xs.map fun y => if w.f.fn.toNat / 8 % 2 == 1 then fmul y x else (y, {}))

/-! ## QNT (05 R140) -/

/-- The fields of QNT. -/
def VecWork.fmt (w : VecWork) : Nat := w.f.fn.toNat % 8
def VecWork.ck (w : VecWork) : Bool := bit w.f.fn.toNat 3
def VecWork.trk (w : VecWork) : Bool := bit w.f.misc.toNat 0
def VecWork.slotIx (w : VecWork) : Nat := fld w.f.misc.toNat 11 9
def VecWork.chm (w : VecWork) : Nat := fld w.f.misc.toNat 8 7
def VecWork.rpc (w : VecWork) : Nat := w.f.x.toNat % 256 + 1

/-- Channel of element `e` of vector `v` (05 R140). -/
def VecWork.chan (w : VecWork) (v e : Nat) : Nat :=
  match w.chm with
  | 0 => 0
  | 1 => w.rc.toNat + v / w.rpc
  | _ => w.rc.toNat + e % 64

/-- The row, record and RUN that a slot's quantise uses. -/
def State.slotScaling (s : State) (c i : Nat) : Option (RecipeRow × ScaleRec × Run × Slot) :=
  match (s.core c).ctx, (s.core c).slot i, s.coreRun c with
  | some n, some sl, some r =>
    match (s.ctx n).rowOf sl.tid with
    | some row => some (row, (s.ctx n).rec! sl.tid, r, sl)
    | none => none
  | _, _, _ => none

/-- The open layer of a core runs again in BF16 (03 R70, R71). -/
def Core.inRerun (k : Core) : Bool := match k.layer with | some l => l.rerun | none => false

/-- The inputs of vector `v`: each element's index, value and factor. -/
def State.qntInputs (s : State) (c : Nat) (w : VecWork) (v : Nat) : List (Nat × F32 × Option F32) :=
  let xs := s.vec c w.ra.toNat v
  let fs : List (Option F32) := if w.ck then (s.vec c w.rb.toNat v).map some else List.replicate 256 none
  (List.range 256).zip (xs.zip fs)

/-- The elements of vector `v` in a format, each with the scale of its channel. -/
def State.qntElems (s : State) (c : Nat) (w : VecWork) (f : Nat) (scale : Nat → F32) (v : Nat) : List Elem :=
  (s.qntInputs c w v).map fun p => quantElem f (w.chan v p.1) p.2.1 p.2.2 (scale (w.chan v p.1))

/-- The amax of each channel over a whole instruction: the measure pass of 03 R72. -/
def State.qntMeasure (s : State) (c : Nat) (w : VecWork) : SMap F32 :=
  (List.range w.f.n).foldl (fun m v =>
    (s.qntElems c w w.fmt (fun _ => 0x3F800000#32) v).foldl (fun m e => enterAmax m e.ch e.x) m) []

/-- Remember the BF16 forms of narrow elements written from a place (03 R75, log 13). DESIGN CHOICE: forming a BF16 form counts no
saturation and raises no flag of 02 R32 to R34; 03 R75 does not say. -/
def Core.noteForms (k : Core) (f off : Nat) (scale : Nat → F32) (es : List Elem) : Core :=
  let step := if f == 6 then 1 else 2
  { k with forms := (es.zip (List.range es.length)).foldl (fun m p =>
      SMap.set none m (2 * off + step * p.2)
        (some { code := p.1.code, bf := BitVec.ofNat 16 (toBf16 p.1.x).1, scale := scale p.1.ch })) k.forms }

/-- A saturation of this target sets the overflow bit (07 R174). -/
def State.gradTarget (s : State) (c f : Nat) : Bool :=
  match (s.core c).ctx with | some n => (s.ctx n).gradFmt == f | none => false

/-- Record elements in a slot; a non-finite one of a gradient tensor sets the overflow bit (03 R57, 07 R174). -/
def State.recordSlot (s : State) (c i : Nat) (es : List Elem) : State :=
  match (s.core c).slot i with
  | none => s
  | some sl =>
    let s := s.modCore c fun k => k.setSlot i (some (es.foldl Slot.record sl))
    match (s.core c).ctx with
    | none => s
    | some n =>
      match (s.ctx n).rowOf sl.tid with
      | some row => if (row.kind == 3 || row.kind == 4) && es.any (·.nonfin) then s.modCtx n Ctx.overflow else s
      | none => s

/-- One vector of QNT: codes written, events charged, elements recorded (05 R140). -/
def State.qntStep (c : Nat) (w : VecWork) (f : Nat) (scale : Nat → F32) (record : Bool) (s : State) (v : Nat) : State :=
  let es := s.qntElems c w f scale v
  let off := w.rd.toNat + vecBytes f * v
  let s := s.setCoreBytes c off (codeBytes f (es.map (·.code)))
  let s := s.coreArith c (sumEv (·.ev) es) (s.gradTarget c f)
  let s := if fmtNarrow f then s.modCore c fun k => k.noteForms f off scale es else s
  if record then s.recordSlot c w.slotIx es else s

/-- Mark the lines a re-run QNT writes, with the tensor and the channel base whose scale it would have used (03 R71). -/
def Core.noteProduced (k : Core) (off n : Nat) (tid : BitVec 32) (base : Nat) : Core :=
  { k with layer := k.layer.map fun l =>
      { l with produced := (upFrom (off / 128) ((n + 127) / 128)).foldl (fun m i => SMap.set none m i (some (tid, base))) l.produced } }

/-- Fix the just-in-time scales that a measure pass found; the descales that change with them are written (03 R55, R72). -/
def State.fixScales (s : State) (c i : Nat) (m : SMap F32) : State :=
  match (s.core c).ctx, s.slotScaling c i with
  | some n, some (row, x, run, sl) =>
    let y := x.fixJit row run.key m
    if y.jit == x.jit then s else (s.modCtx n fun k => k.modRec sl.tid fun _ => y).newScale n run sl.tid
  | _, _ => s

/-- Channels of a copy of weights carry the scales they are now quantised with. -/
def ScaleRec.carry (x : ScaleRec) (scale : Nat → F32) (chans : List Nat) : ScaleRec :=
  { x with carried := chans.foldl (fun m ch => SMap.set none m ch (some (scale ch))) x.carried }

/-- A quantiser produces channels of the tensor of a slot: those of a copy of weights carry the scales of this RUN, and the descales of the
products that it enters are written where a scale changes (03 R55, 06 R156). -/
def State.produces (s : State) (c i : Nat) (chans : List Nat) : State :=
  match (s.core c).ctx, s.slotScaling c i with
  | some n, some (row, x, run, sl) =>
    if !row.perChan || chans.all fun ch => SMap.get none x.carried ch == some (chanScale row x run ch) then s
    else (s.modCtx n fun k => k.modRec sl.tid fun x => x.carry (chanScale row x run) chans).newScale n run sl.tid
  | _, _ => s

/-- The channels that the elements of a QNT have. -/
def VecWork.chans (w : VecWork) : List Nat :=
  match w.chm with
  | 0 => [0]
  | 1 => upFrom w.rc.toNat ((w.f.n + w.rpc - 1) / w.rpc)
  | _ => upFrom w.rc.toNat 64

/-- The quantise pass of a QNT (05 R140); a re-run's narrow target is written in BF16 with scale 1 (03 R71). -/
def State.qnt (s : State) (c : Nat) (w : VecWork) : State :=
  let one : Nat → F32 := fun _ => 0x3F800000#32
  if !w.trk then eachVec (State.qntStep c w w.fmt one false) w.f.n s
  else if (s.core c).inRerun && fmtNarrow w.fmt then
    (eachVec (State.qntStep c w 2 one false) w.f.n s).modCore c fun k =>
      k.noteProduced w.rd.toNat (512 * w.f.n) ((k.slot w.slotIx).map (·.tid) |>.getD 0#32) (if w.chm == 0 then 0 else w.rc.toNat)
  else
    let s := if (s.core c).inRerun then s else s.produces c w.slotIx w.chans
    match s.slotScaling c w.slotIx with
    | some (row, x, run, _) => eachVec (State.qntStep c w w.fmt (chanScale row x run) (!(s.core c).inRerun)) w.f.n s
    | none => s

/-- The QNT works just in time (03 R72). -/
def State.qntJit (s : State) (c : Nat) (w : VecWork) : Bool :=
  w.trk && !(s.core c).inRerun &&
    match s.slotScaling c w.slotIx with
    | some (row, x, run, _) => jitNow row x run.step
    | none => false

/-! ## One instruction -/

/-- The core-store ranges that a vector instruction reads. -/
def VecWork.readRuns (w : VecWork) : List (Nat × Nat) :=
  let n := w.f.n
  let a := w.ra.toNat
  match w.op with
  | .vop => (if vopA w.f.fn.toNat then [(a, 1024 * n)] else []) ++ (if vopB w.f.fn.toNat then [(w.rb.toNat, 1024 * n)] else []) ++
      (if vopD w.f.fn.toNat then [(w.rd.toNat, 1024 * n)] else [])
  | .vred => [(a, 1024 * n)]
  | .vany => [(a, 1024 * n)]
  | .act => (a, 1024 * n) :: (if w.f.fn.toNat / 16 == 0 then [] else [(w.rb.toNat, 1024 * n)])
  | .qnt => (a, 1024 * n) :: (if w.ck then [(w.rb.toNat, 1024 * n)] else [])
  | .wid => [(a, vecBytes (w.f.fn.toNat % 8) * n)]
  | .sld => [(a, 1024 * n)]
  | .sst => []

/-- The core-store ranges that a vector instruction writes. `rerun` widens a narrow QNT's codes to BF16 (03 R71). -/
def VecWork.writeRuns (w : VecWork) (rerun : Bool) : List (Nat × Nat) :=
  let n := w.f.n
  let d := w.rd.toNat
  match w.op with
  | .vop => [(d, 1024 * n)]
  | .vred => if w.f.misc.toNat % 2 == 1 then [(d, 1024)] else if w.f.misc.toNat / 2 % 2 == 1 then [] else [(d, 4)]
  | .vany => []
  | .act => [(d, 1024 * n)]
  | .qnt => [(d, vecBytes (if rerun && fmtNarrow w.fmt then 2 else w.fmt) * n)]
  | .wid => [(d, 1024 * n)]
  | .sld => []
  | .sst => [(d, 1024 * n)]

/-- Everything a vector instruction reads (04 R98). -/
def VecWork.reads (w : VecWork) : List Res :=
  w.readRuns.map (fun r => Res.store r.1 r.2) ++
  (match w.op with
   | .vop => if vopX w.f.fn.toNat then [.sreg w.f.x.toNat 1] else []
   | .wid => if w.f.fn.toNat / 8 % 2 == 1 then [.sreg w.f.x.toNat 1] else []
   | .sst => [.sreg w.f.x.toNat (256 * w.f.n)]
   | .qnt => if w.trk then [.slot w.slotIx] else []
   | _ => [])

/-- Everything a vector instruction writes. -/
def VecWork.writes (w : VecWork) (rerun : Bool) : List Res :=
  (w.writeRuns rerun).map (fun r => Res.store r.1 r.2) ++
  (match w.op with
   | .vany => [.freg w.f.d.toNat]
   | .sld => [.sreg w.f.x.toNat (256 * w.f.n)]
   | .vred => if w.f.misc.toNat % 2 == 0 && w.f.misc.toNat / 2 % 2 == 1 then [.sreg w.f.x.toNat 1] else []
   | _ => [])

/-- The words in error among a core's ranges (09 R236). -/
def State.badRuns (s : State) (c : Nat) (rs : List (Nat × Nat)) : List Nat := rs.flatMap fun r => s.badIn (coreBase c + r.1) r.2

/-- The effect of a vector instruction (05 R133 to R141). -/
def State.vecEffect (s : State) (c : Nat) (w : VecWork) : State :=
  match w.op with
  | .vop => eachVec (State.vopStep c w) w.f.n s
  | .vred => s.vred c w
  | .vany => s.vany c w
  | .act => eachVec (State.actStep c w) w.f.n s
  | .qnt => s.qnt c w
  | .wid => eachVec (State.widStep c w) w.f.n s
  | .sld => s.sld c w
  | .sst => s.sst c w

/-- Run a vector instruction; an unreadable core-store word stops it (09 R236, R237). -/
def State.execVec (s : State) (c : Nat) (w : VecWork) : State :=
  match s.meetWords 0 (s.badRuns c w.readRuns) with
  | (some a, s) => s.uncorrFault a 0 (s.core c).ctxNum (some (c, (s.core c).taskId))
  | (none, s) => s.vecEffect c w

end Sys2Proof.Machine
end

