-- ==== Sys2Proof/Machine/Update.lean ====
section
/-!
DEFINITION. The update unit: the rules, the offcut, the generator, the decision of a step and the journal (07 R168 to R176,
R181, R182).
-/

namespace Sys2Proof.Machine

open Sys2Proof

/-! ## The generator (07 R172) -/

/-- `mix64`. -/
def mix64 (z : BitVec 64) : BitVec 64 :=
  let z := (z ^^^ (z >>> 30)) * 0xBF58476D1CE4E5B9#64
  let z := (z ^^^ (z >>> 27)) * 0x94D049BB133111EB#64
  z ^^^ (z >>> 31)

/-- `tkey` of a tensor in a step. -/
def tensorKey (seed : BitVec 64) (epoch : Nat) (tid : BitVec 32) : BitVec 64 :=
  mix64 (mix64 (mix64 (seed + 0x9E3779B97F4A7C15#64) ^^^ BitVec.ofNat 64 epoch) ^^^ tid.setWidth 64)

/-- `u` of an element: 16 bits. -/
def elementBits (tkey e : BitVec 64) : Nat := ((mix64 (tkey ^^^ e)).extractLsb' 48 16).toNat

/-! ## Committing a weight (07 R171) -/

/-- Exponent of `ulp` of a finite BF16 code. -/
def ulpExp (c : Nat) : Int := max ((c / 128 % 256 : Nat) : Int) 1 - 134

/-- A signed 8-bit offcut. -/
def offcut (b : Byte) : Int := b.toInt

/-- The exact `x` of R171 as sign, significand and exponent, or what is not finite. -/
def commitSum (w : Nat) (c : Int) (d : F32) : Num :=
  match decodeFmt 2 w, f32 d with
  | .nan, _ => .nan
  | _, .nan => .nan
  | .inf a, .inf b => if a == b then .inf a else .nan
  | .inf a, .fin _ _ _ => .inf a
  | .fin _ _ _, .inf b => .inf b
  | .fin a m e, .fin b n g =>
    let (i, x) := addFin a m e b n g
    let (j, y) := addFin (decide (i < 0)) i.natAbs x (decide (c < 0)) c.natAbs (ulpExp w - 8)
    .fin (decide (j < 0)) j.natAbs y

/-- `n` of R171 for a finite `x` and the new weight's code. -/
def commitRemainder (neg : Bool) (m : Nat) (e : Int) (w : Nat) (u : Nat) : Int :=
  match decodeFmt 2 w with
  | .fin b n g =>
    let (j, y) := addFin neg m e (!b) n g
    let (k, z) := addFin (decide (j < 0)) j.natAbs (y - ulpExp w + 8) false u (-16)
    floorShift k z
  | _ => 0

/-- The new weight's code, the new offcut, whether it was clamped, and the events (07 R171). -/
def commitWeight (w : Nat) (c : Int) (d : F32) (u : Nat) : Nat × Int × Bool × Ev :=
  let x := commitSum w c d
  let (code, ev) := narrowNum 2 x
  match x with
  | .fin neg m e =>
    let n := commitRemainder neg m e code u
    (code, max (-128) (min 127 n), decide (n < -128) || decide (127 < n), ev)
  | _ => (code, 0, false, ev)

/-! ## The rules (07 R169, R170) -/

/-- What a rule makes of one weight: the update and the new moments, with the events. -/
structure RuleOut where
  d : F32
  m1 : F32
  m2 : F32
  ev : Ev
  deriving DecidableEq, Repr

/-- The scale registers a rule reads, as values. -/
structure RuleIn where
  invLs : F32
  lr : F32
  gf : F32
  bc1 : F32
  bc2 : F32
  deriving DecidableEq, Repr

/-- The chain of a rule for one weight (07 R170). -/
def ruleStep (r : Rule) (i : RuleIn) (g w m1 m2 : F32) : RuleOut :=
  let (g1, e1) := fmul g i.invLs
  let (gs, e2) := fmul g1 i.gf
  let lr := f32Neg i.lr
  let e0 := e1.add e2
  match r.kind with
  | 1 =>
    let (t, a) := ffma r.wd w gs
    let (d, b) := fmul lr t
    { d := d, m1 := m1, m2 := m2, ev := (e0.add a).add b }
  | 2 =>
    let (t, a) := ffma r.wd w gs
    let (m, b) := ffma r.b1 m1 t
    let (d, c) := fmul lr m
    { d := d, m1 := m, m2 := m2, ev := ((e0.add a).add b).add c }
  | _ =>
    let (p, a1) := fmul r.c1 gs
    let (n1, a2) := ffma r.b1 m1 p
    let (sq, a3) := fmul gs gs
    let (q, a4) := fmul r.c2 sq
    let (n2, a5) := ffma r.b2 m2 q
    let (v, a6) := fmul n2 i.bc2
    let (rt, a7) := fsqrt v
    let (den, a8) := fadd rt r.eps
    let (h, a9) := fmul n1 i.bc1
    let (k, a10) := fdiv h den
    let (t, a11) := ffma r.wd w k
    let (d, a12) := fmul lr t
    { d := d, m1 := n1, m2 := n2, ev := [a1, a2, a3, a4, a5, a6, a7, a8, a9, a10, a11, a12].foldl Ev.add e0 }

/-- Bytes of one moment; 0 for a rule with none (07 R168, R169). -/
def Rule.momentBytes (r : Rule) : Nat := if r.kind == 1 then 0 else if r.mfmt == 1 then 4 else 2
/-- Moments a rule keeps. -/
def Rule.moments (r : Rule) : Nat := if r.kind == 1 then 0 else if r.kind == 2 then 1 else 2

/-! ## One UPD (05 R148, 07 R168) -/

/-- An UPD's operands as captured at issue. -/
structure UpdWork where
  rule : Rule
  n : Nat
  gfmt : Nat
  aw : Nat
  ag : Nat
  ao : Nat
  am : Nat
  tid : BitVec 32
  ae : BitVec 64
  deriving DecidableEq, Repr

/-- Bytes of one gradient. -/
def UpdWork.gBytes (u : UpdWork) : Nat := if u.gfmt == 3 then 4 else 2

/-- The runs an UPD writes. -/
def UpdWork.writes (u : UpdWork) : List (Nat × Nat) :=
  [(u.aw, 2 * u.n), (u.ao, u.n)] ++
    (List.range u.rule.moments).map fun i => (u.am + i * u.n * u.rule.momentBytes, u.n * u.rule.momentBytes)
/-- The runs an UPD reads. -/
def UpdWork.reads (u : UpdWork) : List (Nat × Nat) := (u.ag, u.gBytes * u.n) :: u.writes
/-- Two of an UPD's runs overlap (07 R168). -/
def UpdWork.clash (u : UpdWork) : Bool :=
  let rs := u.reads
  (List.range rs.length).any fun i => (List.range i).any fun j =>
    let a := rs.getD i (0, 0)
    let b := rs.getD j (0, 0)
    overlaps a.1 a.2 b.1 b.2

/-- A value read in FP32 or BF16 form. -/
def readVal (bytes : Nat) (bs : List Byte) : F32 := if bytes == 4 then BitVec.ofNat 32 (leNat bs) else widen 2 (leNat bs)
/-- A moment in its stored form, with its narrowing events (07 R170). -/
def storeMoment (bytes : Nat) (x : F32) : List Byte × Ev :=
  if bytes == 4 then (natLe 4 x.toNat, {}) else let (c, e) := toBf16 x; (natLe 2 c, e)

/-- The scale registers and the loss scale that an UPD uses. -/
def Core.ruleIn (k : Core) (r : Rule) (invLs : F32) : RuleIn :=
  { invLs := invLs, lr := k.rs r.lrx, gf := k.rs r.gfx, bc1 := k.rs r.bc1x, bc2 := k.rs r.bc2x }

/-- One weight of an UPD: results in the runs, events and clamps charged. -/
def State.updOne (c : Nat) (u : UpdWork) (i : RuleIn) (tkey : BitVec 64) (s : State) (j : Nat) : State :=
  let mb := u.rule.momentBytes
  let a1 := u.am + j * mb
  let a2 := u.am + (u.n + j) * mb
  let w := leNat (s.coreBytes c (u.aw + 2 * j) 2)
  let g := readVal u.gBytes (s.coreBytes c (u.ag + u.gBytes * j) u.gBytes)
  let o := (s.coreBytes c (u.ao + j) 1).headD 0#8
  let m1 := if u.rule.moments ≥ 1 then readVal mb (s.coreBytes c a1 mb) else 0#32
  let m2 := if u.rule.moments ≥ 2 then readVal mb (s.coreBytes c a2 mb) else 0#32
  let r := ruleStep u.rule i g (widen 2 w) m1 m2
  let (w', c', cl, ev) := commitWeight w (offcut o) r.d (elementBits tkey (u.ae + BitVec.ofNat 64 j))
  let (b1, v1) := storeMoment mb r.m1
  let (b2, v2) := storeMoment mb r.m2
  let s := (s.setCoreBytes c (u.aw + 2 * j) (natLe 2 w')).setCoreBytes c (u.ao + j) [BitVec.ofInt 8 c']
  let (s, e1) := if u.rule.moments ≥ 1 then (s.setCoreBytes c a1 b1, v1) else (s, {})
  let (s, e2) := if u.rule.moments ≥ 2 then (s.setCoreBytes c a2 b2, v2) else (s, {})
  let s := (s.coreArith c r.ev false).coreArith c ((ev.add e1).add e2) (u.gfmt == 2)
  if cl then
    match (s.core c).ctx with
    | some n => s.modCtx n fun k => k.modArith fun a => { a with clamped := satAdd 15 a.clamped 1 }
    | none => s
  else s

/-- An UPD whose runs overlap: written bytes, events and clamps are free values (07 R168). -/
def State.updClash (s : State) (c : Nat) (u : UpdWork) : State :=
  let (id, s) := s.draw
  let s := u.writes.foldl (fun s r => s.setCoreBytes c r.1 ((List.range r.2).map fun i => Config.overlapByte id (r.1 + i))) s
  let b := fun i => (Config.overlapByte id (2 ^ 48 + i)).toNat
  let s := s.coreArith c { ovf := bit (b 0) 0, inv := bit (b 0) 1, sat := b 1 + 256 * b 2 + 65536 * b 3 } (u.gfmt == 2)
  match (s.core c).ctx with
  | some n => s.modCtx n fun k => k.modArith fun a => { a with clamped := satAdd 15 a.clamped (b 4 + 256 * b 5 + 65536 * b 6) }
  | none => s

/-! ## The decision (07 R175, R176, R181) -/

/-- Enter the step's decision and loss scale in its retention record (07 R181). -/
def CtxStep.retain (t : CtxStep) (epoch : Nat) (d : Bool) : CtxStep :=
  match t.retention epoch with
  | some _ => { t with retained := updFirst (fun r => r.epoch == epoch) (fun r => { r with decision := d, scale := t.scale }) t.retained }
  | none => { t with retained := t.retained ++ [{ epoch := epoch, decision := d, scale := t.scale, regions := [] }] }

/-- The decision of a step latches (07 R175); one that has latched stays. -/
def CtxStep.latch (t : CtxStep) (epoch : Nat) (d : Bool) : CtxStep :=
  if t.decided then t else { t.retain epoch d with decided := true, decision := d, fixed := true }

/-- The loss scale that an UPD of a RUN divides out: a replay's is the recorded one (07 R170, R181). -/
def CtxStep.lossScale (t : CtxStep) (r : Run) : F32 :=
  if r.replay then (match t.retention r.epoch with | some x => x.scale | none => t.scale) else t.scale

/-- 1 / L (07 R170). -/
def invOf (l : F32) : F32 := (fdiv 0x3F800000#32 l).1

/-! ## The journal (07 R182) -/

/-- Weights of a journal entry. -/
def JEntry.weights (e : JEntry) : Nat := 64 * (e.ng + 1)
/-- Two element ranges modulo 2^64 meet. -/
def elemMeet (a : BitVec 64) (n : Nat) (b : BitVec 64) (m : Nat) : Bool := decide ((b - a).toNat < n) || decide ((a - b).toNat < m)

/-- What the journal says of an UPD: skip it, refuse it, or apply it (07 R182). -/
inductive JVerdict where
  | skip | bad | apply
  deriving DecidableEq, Repr

/-- Look an UPD up in the journal; `flying` UPDs of the step have begun and will add entries of their own (07 R182). -/
def CtxStep.lookup (t : CtxStep) (epoch : Nat) (tid : BitVec 32) (ae : BitVec 64) (ng flying : Nat) : JVerdict :=
  let es := t.journal.filter fun e => e.epoch == epoch
  if es.any fun e => e.tid == tid && e.elem == ae && e.ng == ng then .skip
  else if es.any fun e => e.tid == tid && elemMeet e.elem e.weights ae (64 * (ng + 1)) then .bad
  else if es.length + flying ≥ 1048576 then .bad
  else .apply

/-! ## Starting and completing an UPD -/

/-- The rule an UPD names, where the context's table defines it (05 R148). -/
def Ctx.rule? (k : Ctx) (i : Nat) : Option Rule :=
  match k.prog with
  | some p => match p.rules[i]? with | some r => if r.kind == 0 then none else some r | none => none
  | none => none

/-- An UPD may name this tensor: a master of the layer table, and no copy of a frozen layer (06 R160). -/
def Ctx.updTensorOk (k : Ctx) (tid : BitVec 32) : Bool :=
  match k.prog with
  | some p => p.layers.any (fun l => !l.frozen && l.master == tid) &&
      !p.layers.any (fun l => l.frozen && (l.fwd == tid || (l.trans == tid && l.trans != 0xFFFFFFFF#32)))
  | none => false

/-- The captured operands of an UPD with its rule. -/
def Ctx.updWork (k : Ctx) (f : UF) (aw ag ao am : Nat) (tid : BitVec 32) (ae : BitVec 64) (r : Rule) : UpdWork :=
  { rule := r, n := 64 * (f.ng.toNat + 1), gfmt := k.gradFmt, aw := aw, ag := ag, ao := ao, am := am, tid := tid, ae := ae }

/-- Mark the head of the vector and update queue with a phase. -/
def Core.headPhase (k : Core) (p : Nat) : Core :=
  match k.vq with
  | e :: es => { k with vq := { e with phase := p } :: es }
  | [] => k

/-- Apply an UPD to its weights (07 R170, R171). -/
def State.updApply (s : State) (c n : Nat) (run : Run) (u : UpdWork) : State :=
  match s.meetWords 0 (s.badRuns c u.reads) with
  | (some a, s) => s.uncorrFault a 0 (s.core c).ctxNum (some (c, (s.core c).taskId))
  | (none, s) =>
    if u.clash then (s.updClash c u).modCore c fun k => k.headPhase 1
    else
      let i := (s.core c).ruleIn u.rule (invOf ((s.ctx n).step.lossScale run))
      let s := (List.range u.n).foldl (State.updOne c u i (tensorKey (s.ctx n).step.seed run.epoch u.tid)) s
      s.modCore c fun k => k.headPhase 1

/-- UPDs of a context's step that have begun writing and have not added their entries yet. -/
def State.updFlying (s : State) (n epoch : Nat) : Nat :=
  ((List.range 320).filter fun c => (s.core c).ctx == some n && (match s.coreRun c with | some r => r.epoch == epoch | none => false) &&
    (s.core c).vq.any fun e => e.phase == 1 && (match e.work with | .upd _ _ _ _ _ _ _ => true | _ => false)).length

/-- An UPD whose step's decision has latched goes on: nothing on a set decision, else by the journal (07 R176, R182). Phase 1 applied, phase 3 without effect. -/
def State.updGo (s : State) (c n : Nat) (run : Run) (e : QEntry) (f : UF) (aw ag ao am : Nat) (tid : BitVec 32) (ae : BitVec 64) : State :=
  let k := s.ctx n
  if k.step.decision then s.modCore c fun k => k.headPhase 3
  else
    match k.step.lookup run.epoch tid ae f.ng.toNat (s.updFlying n run.epoch) with
    | .skip => (s.modCtx n fun k => k.modArith fun a => { a with replayed := satAdd 24 a.replayed 1 }).modCore c fun k => k.headPhase 3
    | .bad => s.insnFaultAt c e.pc e.word
    | .apply =>
      match k.rule? f.rule.toNat with
      | some r => s.updApply c n run (k.updWork f aw ag ao am tid ae r)
      | none => s.insnFaultAt c e.pc e.word

/-- The first UPD of a step to issue latches the local bit on a module in no job group (07 R175). -/
def State.updLatch (s : State) (n : Nat) (run : Run) : State :=
  if s.link.member then s else s.modCtx n fun k => k.modStep fun t => t.latch run.epoch t.ovfBit

/-- UPD_DECISION_RELEASE: the UPD at the head of a core's queue proceeds once the decision has latched and earlier work lets it (07 R175, R176). -/
def execUpdDecisionRelease (c : CoreId) (s : State) (replays : Nat := 0) : Host.Outcome State Fault Refusal :=
  .next (
    let k := s.core c.val
    match s.live && !k.halted, k.ctx, s.coreRun c.val, k.vq with
    | true, some n, some run, e :: _ =>
      match e.work with
      | .upd f aw ag ao am tid ae =>
        if e.phase != 0 || k.heldBy e.seq e.reads e.writes then s
        else
          let s := s.updLatch n run
          if (s.ctx n).step.decided then s.cross replays 0 4 n none fun s => s.updGo c.val n run e f aw ag ao am tid ae else s
      | _ => s
    | _, _, _, _ => s)

/-- The journal entry of an UPD that has written its results (07 R182). -/
def State.journalAdd (s : State) (c : Nat) (f : UF) (tid : BitVec 32) (ae : BitVec 64) : State :=
  match (s.core c).ctx, s.coreRun c with
  | some n, some run => s.modCtx n fun k => k.modStep fun t =>
      { t with journal := t.journal ++ [{ epoch := run.epoch, tid := tid, elem := ae, ng := f.ng.toNat }] }
  | _, _ => s

/-- UPD: checks of 05 R148, 06 R160 and 07 R178, then the vector and update queue. -/
def State.updIssue (s : State) (c : Nat) (w : UF) : State :=
  let k := s.core c
  match k.ctx, s.coreRun c with
  | some n, some run =>
    let x := s.ctx n
    match x.rule? w.rule.toNat with
    | none => s.insnFault c
    | some r =>
      let v := fun (i : BitVec 5) => (k.ra i.toNat).toNat
      let u := x.updWork w (v w.aw) (v w.ag) (v w.ao) (v w.am) ((k.ra w.at_.toNat).setWidth 32) (k.ra w.ae.toNat) r
      let offs := [u.aw, u.ag, u.ao] ++ (if r.moments == 0 then [] else [u.am])
      if !run.step || !x.updTensorOk u.tid || !(offs.all fun o => o % 128 == 0) || !(u.reads.all fun g => decide (g.1 + g.2 ≤ coreSize)) ||
          (x.compat && k.layer.isSome) then s.insnFault c
      else
        let st := fun (g : Nat × Nat) => Res.store g.1 g.2
        s.push c 2 (encodeU w) (.upd w u.aw u.ag u.ao u.am u.tid u.ae)
          (u.reads.map st ++ [.sreg r.lrx 1, .sreg r.gfx 1] ++ (if r.kind == 3 then [.sreg r.bc1x 1, .sreg r.bc2x 1] else []))
          (u.writes.map st) id
  | _, _ => s.insnFault c

/-- UPD (05 R148). -/
def execUpd (c : CoreId) (w : UF) (s : State) : Host.Outcome State Fault Refusal :=
  .next (s.issue c.val (encodeU w) (w.rest == 0#10) fun s =>
    s.ifFree c.val [w.aw.toNat, w.ag.toNat, w.ao.toNat, w.am.toNat, w.at_.toNat, w.ae.toNat] [] [] fun s => s.updIssue c.val w)

end Sys2Proof.Machine
end

