-- ==== Sys2Proof/Machine/Coll.lean ====
section
/-!
DEFINITION. Collectives: descriptor, rings, windows, point-to-point transfers, gathered shards, the step control section and
the commit wave's words (11 R279 to R297, 07 R183).
-/

namespace Sys2Proof.Machine

open Sys2Proof

/-! ## Spans, rails and stages (11 R284, R285) -/

/-- Named dimensions of size 2 or more, X first. -/
def State.named (s : State) (dims : BitVec 4) : List Nat := (List.range 4).filter fun j => dims.getLsbD j && decide (2 ≤ s.dimSize j)
/-- P: members of the span. -/
def State.spanSize (s : State) (dims : BitVec 4) : Nat := (s.named dims).foldl (fun p j => p * s.dimSize j) 1
/-- Own coordinate in a dimension. -/
def State.own (s : State) (j : Nat) : Nat := coordAt s.link.coord j
/-- The module's shard index. -/
def State.shardIndex (s : State) (dims : BitVec 4) : Nat := (s.named dims).foldl (fun i j => i * s.dimSize j + s.own j) 0
/-- Coordinate of the member with a shard index. -/
def State.shardOrigin (s : State) (dims : BitVec 4) (i : Nat) : BitVec 16 :=
  ((s.named dims).reverse.foldl (fun (p : BitVec 16 × Nat) j => (coordSet p.1 j (p.2 % s.dimSize j), p.2 / s.dimSize j)) (s.link.coord, i)).1

/-- A stage: its dimension, and whether it gathers (11 R285). -/
structure CStage where
  dim : Nat
  gather : Bool
  deriving DecidableEq, Repr

/-- The operation is a ring operation. -/
def CollDesc.ring (d : CollDesc) : Bool := decide (1 ≤ d.op) && decide (d.op ≤ 4)
/-- The operation gathers shards with tags. -/
def CollDesc.tagged (d : CollDesc) : Bool := d.op == 3 || d.op == 4

/-- Stages of a ring operation in order (11 R285). -/
def State.stages (s : State) (d : CollDesc) : List CStage :=
  let n := s.named d.dims
  let rs := n.map fun j => ({ dim := j, gather := false } : CStage)
  let ag := n.reverse.map fun j => ({ dim := j, gather := true } : CStage)
  if d.op == 1 then rs ++ ag else if d.op == 2 then rs else if d.tagged then ag else []

/-- Bytes of a rail part. -/
def CollDesc.part (d : CollDesc) : Nat := d.len / 8
/-- Bytes of a piece. -/
def State.pieceLen (s : State) (d : CollDesc) : Nat := d.part / s.spanSize d.dims
/-- The range of a rail part that the stages of dimension `j` cut: offset and length. -/
def State.cutRange (s : State) (d : CollDesc) (j : Nat) : Nat × Nat :=
  ((s.named d.dims).filter (· < j)).foldl (fun r i => let l := r.2 / s.dimSize i; (r.1 + s.own i * l, l)) (0, d.part)
/-- Bytes of a segment of dimension `j`. -/
def State.segLen (s : State) (d : CollDesc) (j : Nat) : Nat := (s.cutRange d j).2 / s.dimSize j
/-- Offset of segment `i` of dimension `j`. -/
def State.segOff (s : State) (d : CollDesc) (j i : Nat) : Nat := (s.cutRange d j).1 + i * s.segLen d j
/-- Segment that holds an offset. -/
def State.segAt (s : State) (d : CollDesc) (j off : Nat) : Nat := (off - (s.cutRange d j).1) / s.segLen d j

/-- Direction in which rail `r` runs in dimension `j` (11 R284). -/
def railDir (r j : Nat) : Nat := 2 * j + r / 4
/-- Next coordinate along a rail. -/
def State.downOf (s : State) (r j c : Nat) : Nat := if r / 4 == 0 then (c + 1) % s.dimSize j else (c + s.dimSize j - 1) % s.dimSize j
/-- Previous coordinate along a rail. -/
def State.upOf (s : State) (r j c : Nat) : Nat := if r / 4 == 0 then (c + s.dimSize j - 1) % s.dimSize j else (c + 1) % s.dimSize j

/-- Data bytes that a rail receives in one stage. -/
def State.stageBytes (s : State) (d : CollDesc) (g : CStage) : Nat := (s.dimSize g.dim - 1) * s.segLen d g.dim
/-- Shard ends that a rail receives in one stage: one for each piece of each segment (11 R291). -/
def State.stageEnds (s : State) (d : CollDesc) (g : CStage) : Nat :=
  if d.tagged then (s.dimSize g.dim - 1) * ((s.named d.dims).filter (fun i => decide (g.dim < i))).foldl (fun p i => p * s.dimSize i) 1 else 0
/-- Data bytes of a rail in a dimension over all stages. -/
def State.dimBytes (s : State) (d : CollDesc) (j : Nat) : Nat :=
  ((s.stages d).filter fun g => g.dim == j).foldl (fun t g => t + s.stageBytes d g) 0

/-- Dimensions of the job group of size 2 or more: the stages of a control section (11 R289). -/
def State.groupDims (s : State) : List Nat := s.named 0xF#4

/-- Dimensions over which a rail of a collective moves data: those it names, and on rail 0 those of its control section (11 R287, R289). -/
def State.windowDims (s : State) (c : Coll) (r : Nat) : List Nat :=
  (List.range 4).filter fun j => (s.named c.d.dims).contains j || (r == 0 && c.ctl.isSome && s.groupDims.contains j)

/-- Bytes that a rail receives in a dimension: data, and on rail 0 the control sections of the other members (11 R287, R289). -/
def State.windowTotal (s : State) (c : Coll) (r j : Nat) : Nat :=
  s.dimBytes c.d j + (match c.ctl with
    | some x => if r == 0 && s.groupDims.contains j then (s.dimSize j - 1) * (8 * x.words.length) else 0
    | none => 0)

/-- Virtual channel of an operation in a context (11 R281, 12 R322). -/
def State.collVc (s : State) (n : Nat) (d : CollDesc) : Nat :=
  if d.op ≤ 2 then 1 else if d.op ≤ 4 then 2 else if d.hipri && (s.ctx n).sched.cls == 3 then 4 else 3

/-! ## Records -/

/-- Collective with a model number. -/
def State.coll? (s : State) (id : Nat) : Option Coll := s.colls.find? fun c => c.id == id
/-- Change a collective. -/
def State.modColl (s : State) (id : Nat) (f : Coll → Coll) : State := { s with colls := updFirst (fun c => c.id == id) f s.colls }
/-- A rail of a collective. -/
def Coll.rail (c : Coll) (r : Nat) : Rail := SMap.get {} c.rails r
/-- Change a rail. -/
def State.modRail (s : State) (id r : Nat) (f : Rail → Rail) : State := s.modColl id fun c => { c with rails := SMap.upd {} c.rails r f }

/-- Collective with an identity and a layout epoch (11 R279, R297). -/
def State.findColl (s : State) (ctx epoch : Nat) (cid : BitVec 32) (layout : Nat) : Option Coll :=
  s.colls.find? fun c => c.ctx == ctx && c.epoch == epoch && c.d.cid == cid && c.layout == layout

/-! ## Messages (11 R288) -/

/-- Words of bytes. -/
def bytesWords : List Byte → List (BitVec 64)
  | a :: b :: c :: d :: e :: f :: g :: h :: r => (h ++ g ++ f ++ e ++ d ++ c ++ b ++ a) :: bytesWords r
  | _ => []
/-- Bytes of words. -/
def wordsBytes (ws : List (BitVec 64)) : List Byte := ws.flatMap fun w => natLe 8 w.toNat

/-- Head word 1. -/
def headW1 (epoch layout : Nat) : BitVec 64 := BitVec.ofNat 64 (epoch % 2 ^ 48 + layout % 2 ^ 16 * 2 ^ 48)
/-- Head word 2. -/
def headW2 (off rail dim n : Nat) : BitVec 64 := BitVec.ofNat 64 (off % 2 ^ 40 + rail * 2 ^ 40 + dim * 2 ^ 43 + n * 2 ^ 45)

/-- Send a ring message of a collective down a rail. -/
def State.sendRing (s : State) (c : Coll) (kind r j off : Nat) (w3 : BitVec 64) (ws : List (BitVec 64)) : State :=
  s.sendMsgIn (railDir r j) (some r) (s.collVc c.ctx c.d) c.ctx c.d.cid (BitVec.ofNat 64 kind) (headW1 c.epoch c.layout)
    (headW2 off r j ws.length) w3 ws

/-- Send a GRANT up a rail (11 R287). -/
def State.sendGrant (s : State) (c : Coll) (r j total : Nat) : State :=
  s.sendMsgIn (opposite (railDir r j)) none 0 c.ctx c.d.cid 0x10#64 (headW1 c.epoch c.layout) (headW2 total r j 0) 0#64 []

/-- The window of R287. -/
def windowBytes : Nat := 262144
/-- Bytes of one message at most (11 R288). -/
def messageBytes : Nat := 3840

/-! ## Sending along a rail (11 R285, R287) -/

/-- A reduction engine reads buffer bytes; an unreadable word stops it with FC_UNCORR_MEM (09 R237). -/
def State.collRead (s : State) (n a len : Nat) : Option (List Byte) × State :=
  match s.load a len with
  | (.inl bs, s) => (some bs, s)
  | (.inr w, s) => (none, s.uncorrFault w 2 n none)

/-- A collective writes a buffer; a retained region or an unreadable word under a partial write stops it (07 R181, 09 R227). -/
def State.collWrite (s : State) (n a : Nat) (bs : List Byte) : State :=
  if (s.ctx n).inRetained a bs.length then s.illegal n
  else match s.writeFor n a bs with
    | (none, s) => s
    | (some w, s) => s.uncorrFault w 1 n none

/-- Values that a rail holds at an offset: those of the source before its first stage is done, else its results. -/
def State.railVals (s : State) (c : Coll) (r off len : Nat) : Option (List Byte) × State :=
  if c.d.op ≤ 2 && (c.rail r).stage == 0 then s.collRead c.ctx (c.d.src + r * c.d.part + off) len
  else (some (Mem.read (c.rail r).vals off len), s)

/-- Replace the item at the head of a rail's queue, and count bytes sent in a dimension. -/
def State.advance (s : State) (id r j n : Nat) (item : List RItem) : State :=
  s.modRail id r fun q => { q with sendQ := item ++ q.sendQ.drop 1, sent := SMap.upd 0 q.sent j (· + n) }

/-- Send what the window lets a rail send. `k` bounds the number of messages. -/
def State.flushRail (id r : Nat) : Nat → State → State
  | 0, s => s
  | k + 1, s =>
    match s.coll? id with
    | none => s
    | some c =>
      let q := c.rail r
      match (s.stages c.d)[q.stage]?, q.sendQ with
      | some g, it :: _ =>
        let j := g.dim
        let room := min messageBytes ((SMap.get 0 q.heard j - SMap.get 0 q.sent j) / 8 * 8)
        match it with
        | .fin off w tag => State.flushRail id r k ((s.sendRing c 1 r j off tag [w]).advance id r j 0 [])
        | .fwd off bs =>
          let n := min room bs.length
          if n == 0 then s
          else State.flushRail id r k ((s.sendRing c 0 r j off 0#64 (bytesWords (bs.take n))).advance id r j n
            (if n == bs.length then [] else [.fwd (off + n) (bs.drop n)]))
        | .own off len =>
          let n := min room len
          if len == 0 then State.flushRail id r k (s.advance id r j 0 [])
          else if n == 0 then s
          else
            match s.railVals c r off n with
            | (none, s) => s
            | (some bs, s) => State.flushRail id r k ((s.sendRing c 0 r j off 0#64 (bytesWords bs)).advance id r j n
                (if n == len then [] else [.own (off + n) (len - n)]))
      | _, _ => s

/-- Messages that a rail can still send in its stage, a bound for the recursion. -/
def Rail.work (q : Rail) : Nat := q.sendQ.foldl (fun t i => t + 1 + match i with | .own _ n => n | .fwd _ b => b.length | .fin _ _ _ => 0) 1

/-- Send what can be sent on a rail. -/
def State.flush (s : State) (id r : Nat) : State :=
  match s.coll? id with
  | some c => State.flushRail id r (c.rail r).work s
  | none => s

/-- Shard indices of the pieces that a segment holds, ascending. -/
def State.segPieces (s : State) (d : CollDesc) (j i : Nat) : List Nat :=
  let n := ((s.named d.dims).filter (fun k => decide (j < k))).foldl (fun p k => p * s.dimSize k) 1
  let first := ((s.named d.dims).filter (fun k => decide (k ≤ j))).foldl (fun p k => p * s.dimSize k + if k == j then i else s.own k) 0
  upFrom (first * n) n

/-- CRC-32C and origin of a piece as its shard end carries them (11 R288). -/
def finWord (crc : BitVec 32) (origin : BitVec 16) : BitVec 64 := BitVec.ofNat 64 (crc.toNat + origin.toNat * 2 ^ 32)

/-- The piece of a shard on a rail that has arrived. -/
def Coll.piece? (c : Coll) (shard r : Nat) : Option Piece := c.pieces.find? fun p => p.shard == shard && p.rail == r

/-- What a rail has to send when a stage starts (11 R285, R291). -/
def State.stageItems (s : State) (c : Coll) (r : Nat) (g : CStage) : List RItem :=
  let j := g.dim
  if !g.gather then [.own (s.segOff c.d j (s.upOf r j (s.own j))) (s.segLen c.d j)]
  else if !c.d.tagged then [.own (s.segOff c.d j (s.own j)) (s.segLen c.d j)]
  else (s.segPieces c.d j (s.own j)).flatMap fun i =>
    let p := (c.piece? i r).getD { shard := i, rail := r, tag := 0#64, crc := 0#32 }
    [.own (i * s.pieceLen c.d) (s.pieceLen c.d), .fin (i * s.pieceLen c.d) (finWord p.crc (s.shardOrigin c.d.dims i)) p.tag]

/-- A flit of a collective that this module sends is held in a direction during a handover, and so is on no egress queue yet (10 R269, 11 R283). -/
def State.heldIn (s : State) (c : Coll) (d : Nat) : Bool :=
  (s.dir d).held.any fun e => e.2 == 36 && e.1.ctx.toNat == c.ctx && e.1.tag == c.d.cid

/-- Start a rail's stage. -/
def State.startStage (s : State) (id r : Nat) : State :=
  match s.coll? id with
  | none => s
  | some c =>
    match (s.stages c.d)[(c.rail r).stage]? with
    | none => s
    | some g => (s.modRail id r fun q => { q with got := 0, ends := 0, sendQ := s.stageItems c r g }).flush id r

/-- A rail's stage has completed locally (11 R285). -/
def State.stageDone (s : State) (c : Coll) (r : Nat) : Bool :=
  let q := c.rail r
  match (s.stages c.d)[q.stage]? with
  | none => false
  | some g => q.got == s.stageBytes c.d g && q.ends == s.stageEnds c.d g && q.sendQ.isEmpty && !s.heldIn c (railDir r g.dim)

/-- A rail's reduced piece is written to the destination when its reduce-scatter ends (11 R281). -/
def State.writeReduced (s : State) (c : Coll) (r : Nat) : State :=
  let p := s.pieceLen c.d
  let off := s.shardIndex c.d.dims * p
  s.collWrite c.ctx (if c.d.op == 1 then c.d.dst + r * c.d.part + off else c.d.dst + r * p) (Mem.read (c.rail r).vals off p)

/-- COLL_STAGE_COMPLETE: a ring stage has completed locally on a rail, and the rail's next stage starts. -/
def execCollStageComplete (id rail : Nat) (s : State) (replays : Nat := 0) : Host.Outcome State Fault Refusal :=
  .next (
    match s.coll? id with
    | none => s
    | some c =>
      if !s.stageDone c rail then s
      else s.cross replays c.d.src 2 c.ctx none fun s =>
        let st := s.stages c.d
        let k := (c.rail rail).stage
        let s := if c.d.op ≤ 2 && k + 1 == (s.named c.d.dims).length then s.writeReduced c rail else s
        let s := s.modRail id rail fun q => { q with stage := k + 1 }
        if k + 1 < st.length then s.startStage id rail else s)

/-! ## Receiving along a rail -/

/-- FP32 lanes added, first operand the arriving one. -/
def addF32s : List Byte → List Byte → List Byte × Ev
  | a :: b :: c :: d :: r, e :: f :: g :: h :: t =>
    let (x, v) := portAddF32 (d ++ c ++ b ++ a) (h ++ g ++ f ++ e)
    let (y, w) := addF32s r t
    (natLe 4 x.toNat ++ y, v.add w)
  | _, _ => ([], {})
/-- BF16 lanes added. -/
def addBf16s : List Byte → List Byte → List Byte × Ev
  | a :: b :: r, c :: d :: t =>
    let (x, v) := portAddBf16 (a.toNat + 256 * b.toNat) (c.toNat + 256 * d.toNat)
    let (y, w) := addBf16s r t
    (natLe 2 x ++ y, v.add w)
  | _, _ => ([], {})
/-- The combine's adder (11 R281). -/
def combineBytes (combine : Nat) (a b : List Byte) : List Byte × Ev := if combine == 1 then addF32s a b else addBf16s a b

/-- Bytes consumed in a dimension of a rail: the window is raised while more is to come (11 R287). -/
def State.raise (s : State) (id r j n : Nat) : State :=
  match s.coll? id with
  | none => s
  | some c =>
    let q := c.rail r
    let taken := SMap.get 0 q.taken j + n
    let want := min (s.windowTotal c r j) (taken + windowBytes)
    let old := SMap.get 0 q.granted j
    let s := s.modRail id r fun q => { q with taken := SMap.set 0 q.taken j taken, granted := SMap.set 0 q.granted j (max old want) }
    if old < want then s.sendGrant c r j want else s

/-- Data consumed in a stage of a rail: counted, and the window raised (11 R287). -/
def State.consume (s : State) (id r j n : Nat) : State := (s.modRail id r fun q => { q with got := q.got + n }).raise id r j n

/-- A collective that the step's RUN issued: a saturation of its BF16 port adds is one of 07 R174. -/
def State.collInStep (s : State) (c : Coll) : Bool := match (s.ctx c.ctx).run? c.run with | some r => c.owner == 0 && r.step | none => false

/-- A reduce-scatter message: add the own values, keep the own segment, pass the others on (11 R285). -/
def State.recvReduce (s : State) (c : Coll) (r j off : Nat) (bs : List Byte) : State :=
  match s.railVals c r off bs.length with
  | (none, s) => s
  | (some own, s) =>
    let (sum, ev) := combineBytes c.d.combine bs own
    let s := s.arith c.ctx ev (c.d.combine == 2 && s.collInStep c)
    let s := if s.segAt c.d j off == s.own j then s.modRail c.id r fun q => { q with vals := Mem.write q.vals off sum }
      else s.modRail c.id r fun q => { q with sendQ := q.sendQ ++ [.fwd off sum] }
    (s.consume c.id r j bs.length).flush c.id r

/-- A gather message: written unchanged, and passed on unless the next member owns it (11 R285). -/
def State.recvGather (s : State) (c : Coll) (r j off : Nat) (bs : List Byte) : State :=
  let s := s.collWrite c.ctx (c.d.dst + r * c.d.part + off) bs
  let s := s.modRail c.id r fun q => { q with vals := Mem.write q.vals off bs }
  let s := if s.segAt c.d j off == s.downOf r j (s.own j) then s
    else s.modRail c.id r fun q => { q with sendQ := q.sendQ ++ [.fwd off bs] }
  (s.consume c.id r j bs.length).flush c.id r

/-- Take a message out of the inbox. -/
def State.takeMsg (s : State) (k : Nat) : State := { s with link := { s.link with inbox := dropAt k s.link.inbox } }

/-- Bytes that a rail may still receive in a dimension within the window it has granted. -/
def Rail.window (q : Rail) (j : Nat) : Nat := SMap.get 0 q.granted j - SMap.get 0 q.taken j

/-- Data flits of `n` words (11 R288). -/
def flitsOf (n : Nat) : Nat := (n + 29) / 30

/-- Data flits that the receiver has not granted are discarded and counted (11 R287). -/
def State.dropFlits (s : State) (n : Nat) : State := { s with link := { s.link with proto := satAdd 15 s.link.proto n } }

/-- The whole data flits of a message that a window of `w` bytes takes in, in words (11 R287). -/
def grantedWords (w n : Nat) : Nat := if 8 * n ≤ w then n else w / 240 * 30

/-- A message that belongs to no granted data leaves the inbox, and its data flits are counted (11 R287). -/
def State.refuseMsg (s : State) (k : Nat) (m : Msg) : State := (s.takeMsg k).dropFlits (flitsOf m.data.length)

/-- Two messages of one flow: one source, one channel, and one strand of ring traffic (10 R264, 11 R301). -/
def Msg.sameFlow (a b : Msg) : Bool := a.src == b.src && a.vc == b.vc && ((a.vc != 1 && a.vc != 2) || a.rail == b.rail)

/-- Bytes that wait in the inbox before message `k`, of the same collective, rail and dimension. -/
def State.waitingBefore (s : State) (k : Nat) (m : Msg) : Nat :=
  (((s.link.inbox.take k).filter fun x => (x.kind == 0 || x.kind == 2) && x.sameFlow m && x.ctx == m.ctx && x.tag == m.tag && x.w1 == m.w1 && x.rail == m.rail &&
    x.dim == m.dim).map fun x => 8 * x.data.length).sum

/-- A ring message that waits keeps what the window that its dimension has granted takes in after what waits before it; its other data flits are discarded and counted (11 R287). -/
def State.trimMsg (s : State) (k : Nat) (c : Coll) (m : Msg) : State :=
  let n := grantedWords ((c.rail m.rail).window m.dim - s.waitingBefore k m) m.data.length
  if n == m.data.length then s
  else if n == 0 then s.refuseMsg k m
  else
    let s := s.dropFlits (flitsOf (m.data.length - n))
    { s with link := { s.link with inbox := s.link.inbox.set k { m with data := m.data.take n } } }

/-- A data message of a ring operation: taken up in its stage, left waiting before its stage starts, and what lies outside the window discarded flit by flit. -/
def State.recvRing (s : State) (k : Nat) (c : Coll) (m : Msg) : State :=
  let q := c.rail m.rail
  let ahead := ((s.stages c.d).drop (q.stage + 1)).any fun g => g.dim == m.dim
  match (s.stages c.d)[q.stage]? with
  | none => s.refuseMsg k m
  | some g =>
    if g.dim == m.dim && decide (q.got + 8 * m.data.length ≤ s.stageBytes c.d g) then
      let n := grantedWords (q.window m.dim) m.data.length
      let s := (s.takeMsg k).dropFlits (flitsOf (m.data.length - n))
      let bs := wordsBytes (m.data.take n)
      if bs.isEmpty then s
      else if g.gather then s.recvGather c m.rail m.dim m.off bs
      else s.recvReduce c m.rail m.dim m.off bs
    else if ahead then s.trimMsg k c m
    else s.refuseMsg k m

/-! ## Point-to-point transfers (11 R281, R296) -/

/-- Send a point-to-point message. -/
def State.sendP2p (s : State) (c : Coll) (kind vc off : Nat) (peer : BitVec 16) (w3 : BitVec 64) (ws : List (BitVec 64)) : State :=
  s.sendMsg vc c.ctx peer c.d.cid (BitVec.ofNat 64 kind) (headW1 c.epoch c.layout) (headW2 off 0 0 ws.length) w3 ws

/-- A transfer that is not finished: bytes are still to move, or its GRANT is (11 R296). -/
def P2p.open_ (p : P2p) : Bool := decide (p.done < p.len) || !p.met
/-- First unfinished transfer of a direction with a peer, in table order (11 R296). -/
def Coll.p2p? (c : Coll) (send : Bool) (peer : BitVec 16) : Option P2p := c.p2p.find? fun p => p.send == send && p.peer == peer && p.open_
/-- Change it. -/
def State.modP2p (s : State) (id : Nat) (send : Bool) (peer : BitVec 16) (f : P2p → P2p) : State :=
  s.modColl id fun c => { c with p2p := updFirst (fun p => p.send == send && p.peer == peer && p.open_) f c.p2p }

/-- Grant the first unfinished receive from a peer its window; a PERMUTE's GRANT carries the entry's length, and the GRANT of an entry of no bytes finishes it (11 R287, R296). `k` bounds the entries. -/
def State.grantPeer (id : Nat) (peer : BitVec 16) : Nat → State → State
  | 0, s => s
  | k + 1, s =>
    match s.coll? id with
    | none => s
    | some c =>
      match c.p2p? false peer with
      | none => s
      | some p =>
        let want := if p.met then min p.len (p.done + windowBytes) else windowBytes
        if p.met && decide (want ≤ p.grant) then s
        else State.grantPeer id peer k ((s.modP2p id false peer fun p => { p with grant := want, met := true }).sendP2p c 0x10 0 want peer
          (if c.d.op == 7 then BitVec.ofNat 64 p.len else 0#64) [])

/-- Grant what a peer may send. -/
def State.grantP2p (s : State) (id : Nat) (peer : BitVec 16) : State :=
  match s.coll? id with
  | some c => State.grantPeer id peer (c.p2p.length + 1) s
  | none => s

/-- Send what a peer's window lets the module send to it. `k` bounds the number of messages. -/
def State.flushP2p (id : Nat) (peer : BitVec 16) : Nat → State → State
  | 0, s => s
  | k + 1, s =>
    match s.coll? id with
    | none => s
    | some c =>
      match c.p2p? true peer with
      | none => s
      | some p =>
        let n := min (min messageBytes (p.len - p.done)) ((p.grant - p.done) / 8 * 8)
        if n == 0 then s
        else
          match s.collRead c.ctx (p.addr + p.done) n with
          | (none, s) => s
          | (some bs, s) => State.flushP2p id peer k
              ((s.sendP2p c 0 (s.collVc c.ctx c.d) p.done peer 0#64 (bytesWords bs)).modP2p id true peer fun p => { p with done := p.done + n })

/-- Data of a point-to-point transfer. -/
def State.recvP2p (s : State) (k : Nat) (c : Coll) (m : Msg) : State :=
  match c.p2p? false m.src with
  | none => s.refuseMsg k m
  | some p =>
    if m.off != p.done || decide (p.len < p.done + 8 * m.data.length) then s.refuseMsg k m
    else
      let n := grantedWords (p.grant - p.done) m.data.length
      let s := (s.takeMsg k).dropFlits (flitsOf (m.data.length - n))
      let bs := wordsBytes (m.data.take n)
      ((s.collWrite c.ctx (p.addr + p.done) bs).modP2p c.id false m.src fun p => { p with done := p.done + bs.length }).grantP2p c.id m.src

/-! ## Streams of images (15 R410) -/

/-- Tag of a stream's messages (15 R410). -/
def streamTag : BitVec 32 := 0xFFFFFFFF#32

/-- Change the snapshot operation of a context. -/
def State.modOp (s : State) (n : Nat) (f : SnapOp → SnapOp) : State := s.modSnapOf n fun k => { k with op := k.op.map f }
/-- End the snapshot operation of a context, without its completion. -/
def State.endOp (s : State) (n : Nat) : State := s.modSnapOf n fun k => { k with op := none }

/-- A message of a stream: data on VC3, a GRANT on VC0; word 1 names no step and no layout epoch (15 R410, log 48). -/
def State.sendStream (s : State) (n kind vc off : Nat) (peer : BitVec 16) (ws : List (BitVec 64)) : State :=
  s.sendMsg vc n peer streamTag (BitVec.ofNat 64 kind) (headW1 0xFFFFFFFFFFFF 0) (headW2 off 0 0 ws.length) 0#64 ws

/-- An operation that streams: a stop to the fabric once it has begun, or a generation. -/
def SnapOp.sends (o : SnapOp) : Bool := (o.kind == 2 && o.begun) || o.kind == 6

/-- Send what the peer's window lets a stream send. `k` bounds the number of messages. -/
def State.flushStream (n : Nat) : Nat → State → State
  | 0, s => s
  | k + 1, s =>
    match (s.ctx n).snap.op with
    | none => s
    | some o =>
      match o.image with
      | none => s
      | some im =>
        let len := min (min messageBytes (im.length - o.sent)) ((o.grant - o.sent) / 8 * 8)
        if !o.sends || len == 0 then s
        else State.flushStream n k (((s.sendStream n 0 3 o.sent o.peer (bytesWords (Mem.read im.bytes o.sent len))).modOp n fun o =>
          { o with sent := o.sent + len }).modSnapOf n fun x => { x with done := (o.sent + len) / unit2M })

/-- Bound of the messages of a stream. -/
def SnapOp.work (o : SnapOp) : Nat := match o.image with | some im => im.length + 1 | none => 0

/-- Send what can be sent of a stream. -/
def State.pumpStream (s : State) (n : Nat) : State :=
  match (s.ctx n).snap.op with | some o => State.flushStream n o.work s | none => s

/-- A GRANT of a stream: it raises the sender's window, or is held until the sender's command has begun (11 R287, 15 R410). -/
def State.streamGrant (s : State) (m : Msg) : State :=
  let hold := if s.link.grants.length ≥ 1024 then s.illegal m.ctx else { s with link := { s.link with grants := s.link.grants ++ [{ msg := m }] } }
  match (s.ctx m.ctx).snap.op with
  | some o => if o.sends && o.peer == m.src then (s.modOp m.ctx fun o => { o with grant := max o.grant m.off }).pumpStream m.ctx else hold
  | none => hold

/-- A stream takes up the GRANTs that were held for it. -/
def State.takeGrants (s : State) (n : Nat) : State :=
  match (s.ctx n).snap.op with
  | none => s
  | some o =>
    let mine := fun (g : PGrant) => g.msg.ctx == n && g.msg.tag == streamTag && g.msg.src == o.peer
    let top := (s.link.grants.filter mine).foldl (fun t g => max t g.msg.off) 0
    (({ s with link := { s.link with grants := s.link.grants.filter fun g => !mine g } } : State).modOp n fun o =>
      { o with grant := max o.grant top }).pumpStream n

/-- The receiver of a stream grants its window, up to the image's length once the header has told it. -/
def State.grantStream (s : State) (n : Nat) : State :=
  match (s.ctx n).snap.op with
  | none => s
  | some o =>
    let len := field (Mem.read o.rx 32 8) 0 8
    let want := if o.got < 64 then o.got + windowBytes else min len (o.got + windowBytes)
    if want ≤ o.grant then s else (s.modOp n fun o => { o with grant := want }).sendStream n 0x10 0 want o.peer []

/-- A RESTORE fails: every region taken is filled and released, and the command ends (15 R406). -/
def State.failRestore (s : State) (n status : Nat) : State :=
  match (s.ctx n).snap.op with
  | none => s
  | some o =>
    let s := if o.placed && !o.retained then
        let xs := s.allocs.filter fun x => x.ctx == n && x.tier == 1
        let s := { s with allocs := s.allocs.filter fun x => !(x.ctx == n && x.tier == 1) }
        xs.foldl (fun (s : State) x => (s.startFill 1 x.base x.units none none).subUsed n 1 x.units) s
      else s
    (s.endOp n).finish n 0x41 o.tag status 0 0

/-- The receiver accepts a retention record: its own applied step is the one before, and every region lies in its T1 allocations (15 R411). -/
def State.acceptsRetained (s : State) (n : Nat) (im : Image) : Bool :=
  im.step == ((s.ctx n).step.applied + 1) % 2 ^ 48 && im.regions.all fun r => s.inT1Allocs n r.addr r.size

/-- Judge the header and the directory of a stream as they arrive, and take the regions (15 R406, R411). -/
def State.placeStream (s : State) (n : Nat) : State :=
  match (s.ctx n).snap.op with
  | none => s
  | some o =>
    let h := Mem.read o.rx 0 64
    if o.placed || o.got < 64 then s
    else if !imageHeadOk h || (field h 6 1 == 2) != o.retained then s.failRestore n 0x242
    else if o.got < imageDirEnd h then s
    else if o.retained then
      (if s.acceptsRetained n (readImage o.rx) then s.modOp n fun o => { o with placed := true } else s.failRestore n 0x23E)
    else
      match s.takeRegions n (readImage o.rx) with
      | some s => s.modOp n fun o => { o with placed := true }
      | none => s.failRestore n 0x23E

/-- Data of a stream: taken in order within the window (11 R287, 15 R410). -/
def State.recvStream (s : State) (k : Nat) (m : Msg) : State :=
  let s := s.takeMsg k
  let bs := wordsBytes m.data
  match (s.ctx m.ctx).snap.op with
  | some o =>
    if o.kind == 5 && o.peer == m.src && m.off == o.got && decide (o.got + bs.length ≤ o.grant) then
      (((s.modOp m.ctx fun o => { o with rx := Mem.write o.rx o.got bs, got := o.got + bs.length }).modSnapOf m.ctx fun x =>
        { x with done := (o.got + bs.length) / unit2M }).placeStream m.ctx).grantStream m.ctx
    else s.dropFlits (flitsOf m.data.length)
  | none => s.dropFlits (flitsOf m.data.length)

/-- No earlier message of its flow waits before message `k` of the inbox, so that its writes follow theirs (11 R301). -/
def State.flowHead (s : State) (k : Nat) (m : Msg) : Bool := !((s.link.inbox.take k).any fun x => x.sameFlow m)

/-- COLL_DATA_RECEIVE: data message `k` of the inbox, the oldest of its flow, is matched by identity and epoch, combined or written (11 R285, R287, R297, R301). One behind it waits within its window. -/
def execCollDataReceive (k : Nat) (s : State) (replays : Nat := 0) : Host.Outcome State Fault Refusal :=
  .next (
    match s.link.inbox[k]? with
    | none => s
    | some m =>
      if m.kind != 0 then s
      else if !s.flowHead k m then
        match s.findColl m.ctx m.epoch m.tag m.layout with
        | some c => if c.d.ring then s.trimMsg k c m else s
        | none => s
      else if m.tag == streamTag then s.cross replays 0 4 m.ctx none fun s => s.recvStream k m
      else
        match s.findColl m.ctx m.epoch m.tag m.layout with
        | none => s.refuseMsg k m
        | some c => s.cross replays (c.results.headD (c.d.src, 0)).1 2 c.ctx none fun s => if c.d.ring then s.recvRing k c m else s.recvP2p k c m)

/-- Change a collective's control section. -/
def State.modCtl (s : State) (id : Nat) (f : CtlSec → CtlSec) : State := s.modColl id fun c => { c with ctl := c.ctl.map f }

/-- Send the messages of a control section that the window of rail 0 lets go, in order (11 R287, R289). `k` bounds them. -/
def State.flushCtlN (id : Nat) : Nat → State → State
  | 0, s => s
  | k + 1, s =>
    match s.coll? id with
    | none => s
    | some c =>
      match c.ctl.map (·.sendQ) with
      | some (it :: rest) =>
        let q := c.rail 0
        let n := 8 * it.words.length
        if SMap.get 0 q.heard it.dim < SMap.get 0 q.sent it.dim + n || SMap.get 0 q.heard it.dim == 0 then s
        else
          let s := s.sendMsgIn (2 * it.dim) (some 0) 1 c.ctx c.d.cid 2#64 (headW1 c.epoch c.layout) (headW2 (8 * it.off) 0 it.dim it.words.length)
            0#64 it.words
          State.flushCtlN id k ((s.modRail id 0 fun q => { q with sent := SMap.upd 0 q.sent it.dim (· + n) }).modCtl id fun x => { x with sendQ := rest })
      | _ => s

/-- Send what can be sent of a collective's control section. -/
def State.flushCtl (s : State) (id : Nat) : State :=
  match s.coll? id with
  | some c => State.flushCtlN id (match c.ctl with | some x => x.sendQ.length | none => 0) s
  | none => s

/-- Apply a GRANT to the collective it matches: a total for a rail and dimension, or a peer's window (11 R287, R296). -/
def State.applyGrant (s : State) (c : Coll) (m : Msg) : State :=
  if c.d.ring then
    let s := (s.modRail c.id m.rail fun q => { q with heard := SMap.upd 0 q.heard m.dim (max m.off) }).flush c.id m.rail
    if m.rail == 0 then s.flushCtl c.id else s
  else
    match c.p2p? true m.src with
    | none => s
    | some p =>
      if c.d.op == 7 && m.w3.toNat != p.len then s.illegal c.ctx
      else State.flushP2p c.id m.src (p.len + 1) (s.modP2p c.id true m.src fun p => { p with grant := max p.grant m.off, met := true })

/-- Where the data that a collective sends to a peer begin: its source, or the transfer's. -/
def Coll.sendAddr (c : Coll) (peer : BitVec 16) : Nat :=
  if c.d.ring then c.d.src else match c.p2p? true peer with | some p => p.addr + p.done | none => c.d.src

/-- FC_EPOCH_MISMATCH of a context: 0 commit wave, 1 step control section, 2 GRANT epoch (14 R368). -/
def State.epochMismatch (s : State) (n what : Nat) : State :=
  s.fatal { cls := 0x107, ctx := n, subject := s.link.coord, detail := BitVec.ofNat 64 what }

/-- GRANT_RECEIVE: a GRANT raises a sender's window, or is held pending or refused by its epoch (11 R297). -/
def execGrantReceive (k : Nat) (s : State) (replays : Nat := 0) : Host.Outcome State Fault Refusal :=
  .next (
    match s.link.inbox[k]? with
    | none => s
    | some m =>
      if m.kind != 0x10 || !s.flowHead k m then s
      else
        let s := s.takeMsg k
        if m.tag == streamTag then s.cross replays 0 4 m.ctx none fun s => s.streamGrant m
        else
        match s.findColl m.ctx m.epoch m.tag m.layout with
        | some c => s.cross replays (c.sendAddr m.src) 2 c.ctx none fun s => s.applyGrant c m
        | none =>
          let cur := (s.ctx m.ctx).step.layout
          if m.layout == cur || m.layout == cur + 1 then
            if s.link.grants.length ≥ 1024 then s.illegal m.ctx
            else { s with link := { s.link with grants := s.link.grants ++ [{ msg := m }] } }
          else s.epochMismatch m.ctx 2)

/-! ## Shards (11 R290 to R293) -/

/-- The direction in which a peer's flits reach this module: the last hop of its route hither is in the last dimension in which the coordinates differ (10 R262). -/
def State.routeFrom (s : State) (peer : BitVec 16) : Option Nat :=
  findSome? (fun j =>
    let n := s.dimSize j
    let f := (coordAt s.link.coord j + n - coordAt peer j % n) % n
    if f == 0 then none else if 2 * f ≤ n then some (2 * j + 1) else some (2 * j)) [3, 2, 1, 0]

/-- A direction that a collective uses, for what it sends or for what it receives, is one whose FC_LINK_LOST stands in this fault (11 R293). -/
def State.collLost (s : State) (c : Coll) : Bool :=
  (List.range 8).any fun d => s.linkLost d &&
    (if c.d.ring then (s.named c.d.dims).contains (d / 2) || (c.ctl.isSome && s.groupDims.contains (d / 2))
     else c.p2p.any fun p => s.route p.peer == some d || s.routeFrom p.peer == some d)

/-- A module named by FC_SHARD_STALE or FC_SHARD_MISSING (14 R368). FC_LINK_LOST of a direction of the collective stands in its place (11 R293). -/
def State.shardFault (s : State) (cls : Nat) (c : Coll) (subject : BitVec 16) (index what : Nat) : State :=
  if s.collLost c then s
  else s.fatal { cls := cls, ctx := c.ctx, subject := subject, detail := BitVec.ofNat 64 (c.d.cid.toNat + index * 2 ^ 32 + what * 2 ^ 48) }

/-- Content CRC of a shard from its eight piece CRCs (11 R291). -/
def contentCrc (ps : List Piece) : BitVec 32 := crc32c (ps.flatMap fun p => natLe 4 p.crc.toNat)

/-- The eight pieces of a shard in ascending rail order, when all have arrived. -/
def Coll.shardPieces (c : Coll) (i : Nat) : Option (List Piece) :=
  let ps := (List.range 8).filterMap fun r => c.piece? i r
  if ps.length == 8 then some ps else none

/-- A whole shard has arrived: enter it in the gather record, or compare it with the record (11 R291, R292). -/
def State.shardWhole (s : State) (id i : Nat) : State :=
  match s.coll? id with
  | none => s
  | some c =>
    match c.shardPieces i with
    | none => s
    | some ps =>
      let tag := ((ps.head?).map (·.tag)).getD 0#64
      let crc := contentCrc ps
      let a := c.d.recAddr + 16 * i
      if c.d.op == 3 then
        if c.d.record then s.collWrite c.ctx a (natLe 8 tag.toNat ++ natLe 4 crc.toNat ++ List.replicate 4 0#8) else s
      else
        match s.collRead c.ctx a 16 with
        | (none, s) => s
        | (some bs, s) =>
          if (ps.any fun p => p.tag.toNat != field bs 0 8) then s.shardFault 0x103 c (s.shardOrigin c.d.dims i) i 0
          else if crc.toNat != field bs 8 4 then s.shardFault 0x103 c (s.shardOrigin c.d.dims i) i 1
          else s

/-- Enter a piece. -/
def State.addPiece (s : State) (id : Nat) (p : Piece) : State :=
  (s.modColl id fun c => { c with pieces := c.pieces ++ [p] }).shardWhole id p.shard

/-- Shard index of a coordinate over named dimensions. -/
def State.shardOf (s : State) (dims : BitVec 4) (o : BitVec 16) : Nat := (s.named dims).foldl (fun i j => i * s.dimSize j + coordAt o j) 0

/-- A shard end: check the piece, enter it, pass it on (11 R291, R293). -/
def State.recvEnd (s : State) (c : Coll) (g : CStage) (m : Msg) : State :=
  let w := (m.data.headD 0#64).toNat
  let origin := BitVec.ofNat 16 (fld w 47 32)
  let i := s.shardOf c.d.dims origin
  let n := s.pieceLen c.d
  if crc32c (Mem.read (c.rail m.rail).vals (i * n) n) != BitVec.ofNat 32 (fld w 31 0) then s.shardFault 0x104 c origin i 2
  else
    let s := s.addPiece c.id { shard := i, rail := m.rail, tag := m.w3, crc := BitVec.ofNat 32 (fld w 31 0) }
    let s := s.modRail c.id m.rail fun q => { q with ends := q.ends + 1 }
    if coordAt origin g.dim == s.downOf m.rail g.dim (s.own g.dim) then s
    else (s.modRail c.id m.rail fun q => { q with sendQ := q.sendQ ++ [.fin m.off (m.data.headD 0#64) m.w3] }).flush c.id m.rail

/-- SHARD_END_RECEIVE: shard-end message `k` of the inbox (11 R291 to R293). -/
def execShardEndReceive (k : Nat) (s : State) (replays : Nat := 0) : Host.Outcome State Fault Refusal :=
  .next (
    match s.link.inbox[k]? with
    | none => s
    | some m =>
      if m.kind != 1 || !s.flowHead k m then s
      else
        match s.findColl m.ctx m.epoch m.tag m.layout with
        | none => s.refuseMsg k m
        | some c =>
          match (s.stages c.d)[(c.rail m.rail).stage]? with
          | some g =>
            if c.d.tagged && g.dim == m.dim then (s.takeMsg k).cross replays c.d.recAddr 2 c.ctx none fun s => s.recvEnd c g m else s
          | none => s.refuseMsg k m)

/-! ## Control sections (11 R289, 07 R183) -/

/-- How a word of a control section is combined (11 R289). -/
inductive COp where
  | or | min | max | lanes
  deriving DecidableEq, Repr

/-- Combine two words. -/
def COp.apply : COp → BitVec 64 → BitVec 64 → BitVec 64
  | .or, a, b => a ||| b
  | .min, a, b => if a.toNat ≤ b.toNat then a else b
  | .max, a, b => if a.toNat ≤ b.toNat then b else a
  | .lanes, a, b =>
    let m := fun (x y : BitVec 32) => if x.toNat ≤ y.toNat then y else x
    m (a.extractLsb' 32 32) (b.extractLsb' 32 32) ++ m (a.extractLsb' 0 32) (b.extractLsb' 0 32)

/-- Combine lists of words by their operations. -/
def combineWords : List COp → List (BitVec 64) → List (BitVec 64) → List (BitVec 64)
  | o :: os, a :: as, b :: bs => o.apply a b :: combineWords os as bs
  | _, as, _ => as

/-- Operations of the words of a step control section, by the channels of its tensors. -/
def ctlOps (chans : List Nat) : List COp := [.or, .min, .max] ++ chans.flatMap fun c => .or :: List.replicate ((c + 1) / 2) .lanes

/-- The messages of a control section on rail 0 of a dimension, 480 words a message; the message with fewer words ends it (log 16). `k` bounds the messages. -/
def sectionMsgs (j : Nat) : Nat → Nat → List (BitVec 64) → List CtlMsg
  | 0, _, _ => []
  | k + 1, off, ws =>
    { dim := j, off := off, words := ws.take 480 } :: (if ws.length < 480 then [] else sectionMsgs j k (off + 480) (ws.drop 480))

/-- Queue messages of a control section, and send what the window lets go. -/
def State.queueCtl (s : State) (id : Nat) (ms : List CtlMsg) : State :=
  (s.modCtl id fun x => { x with sendQ := x.sendQ ++ ms }).flushCtl id

/-- Send the collective's control section into its present stage, if it has one. -/
def State.startCtl (s : State) (id : Nat) : State :=
  match s.coll? id with
  | none => s
  | some c =>
    match c.ctl with
    | none => s
    | some x =>
      match s.groupDims[x.stage]? with
      | none => s
      | some j => s.queueCtl id (sectionMsgs j (x.words.length + 1) 0 x.words)

/-- Combine the granted `n` words of a control message into a section, which ends with a message of fewer than 480 words; sections of unequal length raise FC_EPOCH_MISMATCH (11 R287, R289). -/
def State.recvSection (s : State) (c : Coll) (x : CtlSec) (j : Nat) (m : Msg) (n : Nat) : State :=
  if m.off != 8 * x.pos || m.data.length != min 480 (x.words.length - x.pos) then
    (s.modCtl c.id fun x => { x with mismatch := true }).epochMismatch c.ctx 1
  else
    let S := s.dimSize j
    let got := m.data.take n
    let more := m.data.length == 480 || decide (n < m.data.length)
    let pass := if x.heard + 1 < S - 1 then [({ dim := j, off := x.pos, words := got } : CtlMsg)] else []
    let ws := x.words.take x.pos ++ combineWords ((ctlOps x.chans).drop x.pos) ((x.words.drop x.pos).take n) got ++ x.words.drop (x.pos + n)
    let x := { x with words := ws, pos := x.pos + n }
    let s := (s.modCtl c.id fun _ => if more then x
      else if x.heard + 1 < S - 1 then { x with pos := 0, heard := x.heard + 1 }
      else { x with pos := 0, heard := 0, stage := x.stage + 1 }).raise c.id 0 j (8 * n)
    let s := s.queueCtl c.id pass
    if more || x.heard + 1 < S - 1 then s else s.startCtl c.id

/-- TAG of a commit wave's messages: no collective has this id (11 R280). -/
def waveTag : BitVec 32 := 0xFFFFFFFF#32

/-- Send the wave's words into its present stage; the wave has no descriptor, and no GRANT (07 R183, 11 R289, log 89). -/
def State.sendWave (s : State) (n : Nat) : State :=
  match (s.ctx n).step.wave with
  | none => s
  | some w =>
    match s.groupDims[w.stage]? with
    | none => s
    | some j =>
      let ws := w.mins ++ w.maxs
      s.sendMsgIn (2 * j) (some 0) 1 n waveTag 2#64 (headW1 w.epoch (s.ctx n).step.layout) (headW2 0 0 j ws.length) 0#64 ws

/-- Change the wave. -/
def State.setWave (s : State) (n : Nat) (w : Option Wave) : State := s.modCtx n fun k => k.modStep fun t => { t with wave := w }

/-- Contribute a step to its commit wave: the step, the bits of L, and n (07 R183). -/
def State.startWave (s : State) (n epoch : Nat) : State :=
  let t := (s.ctx n).step
  let ws := [BitVec.ofNat 64 epoch, t.scale.setWidth 64, BitVec.ofNat 64 t.clean]
  (s.setWave n (some { epoch := epoch, mins := ws, maxs := ws, stage := 0, heard := [] })).sendWave n

/-- Pass a wave message on round its dimension, under its origin's coordinate, until the next member is its origin (log 16). -/
def State.passWave (s : State) (m : Msg) (j : Nat) : State :=
  if s.neighbour (2 * j) == m.src then s
  else sendAll (fun s f => s.sendIn (2 * j) none (some 0) f) s (msgFlits 1 m.ctx m.src (s.neighbour (2 * j)) m.tag m.w0 m.w1 m.w2 m.w3 m.data)

/-- Combine a wave message by minimum and maximum (07 R183). A member that contributes again is counted once (07 R184). -/
def State.recvWave (s : State) (n : Nat) (w : Wave) (j : Nat) (m : Msg) : State :=
  let s := s.passWave m j
  let w := { w with mins := combineWords [.min, .min, .min] w.mins (m.data.take 3),
                    maxs := combineWords [.max, .max, .max] w.maxs ((m.data.drop 3).take 3),
                    heard := if w.heard.contains m.src then w.heard else w.heard ++ [m.src] }
  if w.heard.length < s.dimSize j - 1 then s.setWave n (some w)
  else (s.setWave n (some { w with heard := [], stage := w.stage + 1 })).sendWave n

/-- CONTROL_MESSAGE_RECEIVE: control message `k` of the inbox joins the step's control section or the commit wave. One whose stage, or whose wave, has not started waits; one of a section that this module has not granted is discarded (11 R287). A contribution to a stage of a wave that is done on this module is passed on. -/
def execControlMessageReceive (k : Nat) (s : State) : Host.Outcome State Fault Refusal :=
  .next (
    match s.link.inbox[k]? with
    | none => s
    | some m =>
      if m.kind != 2 then s
      else if m.tag == waveTag then
        match (s.ctx m.ctx).step.wave with
        | none => if (s.ctx m.ctx).step.committed == m.epoch then (s.takeMsg k).passWave m m.dim else s
        | some w =>
          if (s.groupDims.take w.stage).contains m.dim && w.epoch == m.epoch then (s.takeMsg k).passWave m m.dim
          else match s.groupDims[w.stage]? with
            | some j => if j == m.dim && w.epoch == m.epoch then (s.takeMsg k).recvWave m.ctx w j m else s
            | none => s
      else
        match s.findColl m.ctx m.epoch m.tag m.layout with
        | none => s.refuseMsg k m
        | some c =>
          match c.ctl with
          | none => s.refuseMsg k m
          | some x =>
            match s.groupDims[x.stage]? with
            | some j =>
              if !s.flowHead k m || j != m.dim then s.trimMsg k c m
              else
                let n := grantedWords ((c.rail 0).window j) m.data.length
                if n == 0 && !m.data.isEmpty then s.refuseMsg k m
                else ((s.takeMsg k).dropFlits (flitsOf (m.data.length - n))).recvSection c x j m n
            | none => s.refuseMsg k m)

/-! ## Watchdogs (11 R294) -/

/-- Offset that a rail awaits next in a stage, after `got` bytes: the segments arrive from the upstream neighbour's own one onward. -/
def State.awaitedOff (s : State) (d : CollDesc) (r : Nat) (g : CStage) (got : Nat) : Nat :=
  let L := s.segLen d g.dim
  let m := got / max 1 L
  let seg := (List.range m).foldl (fun i _ => s.upOf r g.dim i) (s.upOf r g.dim (s.own g.dim))
  s.segOff d g.dim seg + got % max 1 L

/-- What a ring collective awaits from a neighbour: a GRANT, else data on a rail from a stage on (with the shard index of a gather). -/
def State.awaits (s : State) (c : Coll) (peer : BitVec 16) : Option Nat :=
  let st := s.stages c.d
  let data := findSome? (fun r =>
    let q := c.rail r
    findSome? (fun k =>
      match st[k]? with
      | none => none
      | some g =>
        let got := if k == q.stage then q.got else 0
        let ends := if k == q.stage then q.ends else 0
        if s.neighbour (opposite (railDir r g.dim)) == peer && (decide (got < s.stageBytes c.d g) || decide (ends < s.stageEnds c.d g)) then
          some (if c.d.tagged then
            s.awaitedOff c.d r g (if ends * s.pieceLen c.d < got then ends * s.pieceLen c.d else got) / max 1 (s.pieceLen c.d)
            else 0xFFFF)
        else none) (upFrom q.stage (st.length - q.stage))) (List.range 8)
  if (List.range 8).any fun r => (s.windowDims c r).any fun j =>
      s.neighbour (railDir r j) == peer && decide (SMap.get 0 (c.rail r).heard j < s.windowTotal c r j) then some 0xFFFF
  else data

/-- A control section awaits a message from a neighbour. -/
def State.ctlAwaits (s : State) (c : Coll) (peer : BitVec 16) : Bool :=
  match c.ctl with
  | none => false
  | some x => (s.groupDims.drop x.stage).any fun j => s.neighbour (2 * j + 1) == peer

/-- COLL_WATCHDOG_EXPIRY: 20 ms without an arrival from a neighbour from which the collective still expects data or a GRANT (11 R294). -/
def execCollWatchdogExpiry (id : Nat) (peer : BitVec 16) (s : State) : Host.Outcome State Fault Refusal :=
  .next (
    match s.coll? id with
    | none => s
    | some c =>
      if c.d.ring then
        match s.awaits c peer with
        | some i => s.shardFault 0x104 c (if i == 0xFFFF then peer else s.shardOrigin c.d.dims i) i 3
        | none => if s.ctlAwaits c peer then s.shardFault 0x104 c peer 0xFFFF 3 else s
      else if c.p2p.any (fun p => p.peer == peer && p.open_) then s.shardFault 0x104 c peer 0xFFFF 3
      else s)

/-! ## The descriptor (11 R280 to R282) -/

/-- A descriptor read from its 64 bytes. -/
def parseColl (bs : List Byte) : CollDesc :=
  let fl := field bs 3 1
  { op := field bs 0 1, combine := field bs 1 1, dims := BitVec.ofNat 4 (field bs 2 1), retain := bit fl 0, stepctl := bit fl 1, hipri := bit fl 2,
    record := bit fl 3, cid := BitVec.ofNat 32 (field bs 4 4), src := field bs 8 8, dst := field bs 16 8, len := field bs 24 8,
    tag := BitVec.ofNat 64 (field bs 32 8), recAddr := field bs 40 8, sem := field bs 48 2, peer := BitVec.ofNat 16 (field bs 50 2),
    entries := field bs 52 4 }

/-- The descriptor's fields as R280 and R281 give them. -/
def State.collFieldsOk (s : State) (bs : List Byte) : Bool :=
  let d := parseColl bs
  let p := s.spanSize d.dims
  decide (1 ≤ d.op) && decide (d.op ≤ 7) && (if d.op ≤ 2 then d.combine == 1 || d.combine == 2 else d.combine == 0) &&
    decide (field bs 2 1 < 16) && decide (field bs 3 1 < 16) && d.cid != 0xFFFFFFFF#32 && decide (d.src < 2 ^ 48) && decide (d.dst < 2 ^ 48) &&
    (if d.ring then d.dims != 0#4 && d.len % (64 * p) == 0 else d.dims == 0#4 && (if d.op == 7 then d.len == 0 else d.len % 8 == 0)) &&
    (d.tagged || d.tag == 0#64) && ((d.op == 3 && d.record) || d.op == 4 || d.op == 7 || d.recAddr == 0) && decide (d.sem < 256) &&
    (d.op == 5 || d.op == 6 || d.peer == 0#16) && (if d.op == 7 then decide (1 ≤ d.entries) && decide (d.entries ≤ 65536) else d.entries == 0) &&
    field bs 56 8 == 0

/-- A SEND or RECEIVE that names the own coordinate copies locally (11 R282). -/
def State.selfCopy (s : State) (d : CollDesc) : Bool := (d.op == 5 || d.op == 6) && d.peer == s.link.coord

/-- The source range of a descriptor that has one (11 R281, R282). -/
def State.collSrc (s : State) (d : CollDesc) : Option (Nat × Nat) :=
  if d.op ≤ 2 || d.op == 5 || s.selfCopy d then some (d.src, d.len) else if d.tagged then some (d.src, d.len / s.spanSize d.dims) else none
/-- The destination range of a descriptor that has one: its result buffer. -/
def State.collDst (s : State) (d : CollDesc) : Option (Nat × Nat) :=
  if d.op == 2 then some (d.dst, d.len / s.spanSize d.dims)
  else if d.op == 1 || d.tagged || d.op == 6 || s.selfCopy d then some (d.dst, d.len) else none
/-- The record or table range of a descriptor that has one. -/
def State.collRec (s : State) (d : CollDesc) : Option (Nat × Nat) :=
  if d.op == 7 then some (d.recAddr, 32 * d.entries) else if d.op == 4 || (d.op == 3 && d.record) then some (d.recAddr, 16 * s.spanSize d.dims) else none

/-- A buffer address in T1 or T2 lies in an allocation of the context, and so does every byte of the buffer (09 R224, 11 R280, R282). -/
def State.bufferOk (s : State) (n a len : Nat) : Bool := s.inAlloc n a (max 1 len)

/-- A descriptor that COLL accepts in a context's RUN, apart from what depends on other collectives (11 R282, R289, R290). -/
def State.checkColl (s : State) (n : Nat) (step : Bool) (bs : List Byte) : Option CollDesc :=
  let d := parseColl bs
  let inA := fun (r : Option (Nat × Nat)) => r.all fun g => s.bufferOk n g.1 g.2
  if s.collFieldsOk bs && !(d.hipri && d.ring) && !(d.retain && !step) && (s.link.member || (!d.ring && d.op == 7)) &&
      inA (s.collSrc d) && inA (s.collDst d) && inA (s.collRec d) && !((s.collDst d).any fun g => (s.ctx n).inRetained g.1 g.2) &&
      (!d.stepctl || (d.op == 1 && step)) && (!d.tagged || d.tag.toNat % 256 == s.shardIndex d.dims / 256 % 256) then some d
  else none

/-! ## Permutation tables (11 R296) -/

/-- One entry of a table as a transfer, or none where it breaks R296. -/
def permEntry (bs : List Byte) : Option P2p :=
  if (field bs 2 1 == 1 || field bs 2 1 == 2) && field bs 3 5 == 0 && field bs 16 8 % 8 == 0 && field bs 24 4 == 0 &&
      field bs 28 4 == (crc32c (bs.take 28)).toNat then
    some { send := field bs 2 1 == 1, peer := BitVec.ofNat 16 (field bs 0 2), addr := field bs 8 8, len := field bs 16 8 }
  else none

/-- The entries of a table; none where one breaks R296. -/
def permTable : Nat → List Byte → Option (List P2p)
  | 0, _ => some []
  | n + 1, bs =>
    match permEntry bs, permTable n (bs.drop 32) with
    | some e, some es => some (e :: es)
    | _, _ => none

/-- The transfers of a table are ones that the context may make (11 R282, 07 R181). -/
def State.permOk (s : State) (n : Nat) (es : List P2p) : Bool :=
  es.all fun e => s.bufferOk n e.addr e.len && (s.link.member || e.peer == s.link.coord) &&
    (e.send || !(s.ctx n).inRetained e.addr e.len)

/-- Copy locally. -/
def State.copyLocal (s : State) (n src dst len : Nat) : State :=
  match s.collRead n src len with
  | (none, s) => s
  | (some bs, s) => s.collWrite n dst bs

/-- Copies between the module's own entries, matched in table order; `none` where lengths differ (11 R296). -/
def State.selfCopies (s : State) (n : Nat) : List P2p → List P2p → Option State
  | a :: as, b :: bs => if a.len == b.len then (s.copyLocal n a.addr b.addr a.len).selfCopies n as bs else none
  | [], [] => some s
  | _, _ => none

/-! ## The step control section (11 R289, 03 R60) -/

/-- Group-scope tensors that a RUN has closed, ascending: id, row and pending totals. -/
def Ctx.groupTensors (k : Ctx) (run : Nat) : List (BitVec 32 × RecipeRow × Pend) :=
  k.recs.filterMap fun e =>
    match e.2, k.rowOf (BitVec.ofNat 32 e.1) with
    | some x, some r => if r.group then (SMap.get none x.pends run).map fun p => (BitVec.ofNat 32 e.1, r, p) else none
    | _, _ => none

/-- The amax words of a tensor. -/
def amaxWords (p : Pend) (chans : Nat) : List (BitVec 64) :=
  (List.range ((chans + 1) / 2)).map fun w => SMap.get 0#32 p.amax (2 * w + 1) ++ SMap.get 0#32 p.amax (2 * w)

/-- The control section that the firmware forms when a STEPCTL collective issues (11 R289). -/
def Ctx.formSection (k : Ctx) (run : Nat) : CtlSec :=
  let ts := k.groupTensors run
  let ids := ts.map (·.1)
  let chans := ts.map fun t => t.2.2.channels t.2.1
  let w1 := BitVec.ofNat 64 (ts.length + (crc32c (ids.flatMap fun i => natLe 4 i.toNat)).toNat * 2 ^ 32)
  let body := ts.flatMap fun t => BitVec.ofNat 64 (b2n (t.2.2.farOff || t.2.2.shadowFar)) :: amaxWords t.2.2 (t.2.2.channels t.2.1)
  { words := [BitVec.ofNat 64 (b2n k.step.ovfBit), w1, w1] ++ body, tids := ids, chans := chans, stage := 0, heard := 0, pos := 0, mismatch := false, sendQ := [] }

/-- The amax words of a section as a table. -/
def wordsAmax (ws : List (BitVec 64)) : SMap F32 :=
  (ws.zip (List.range ws.length)).foldl (fun m p =>
    SMap.set 0#32 (SMap.set 0#32 m (2 * p.2) (p.1.extractLsb' 0 32)) (2 * p.2 + 1) (p.1.extractLsb' 32 32)) []

/-- Deliver the reduced words to the pending totals; a tensor that only another module has found far off is counted here too (03 R60, R66). -/
def Ctx.takeSection (k : Ctx) (run : Nat) : List (BitVec 32) → List Nat → List (BitVec 64) → Ctx
  | t :: ts, c :: cs, w :: ws =>
    let n := (c + 1) / 2
    let far := w.getLsbD 0
    let first := far && !((k.rec! t).pend run).farOff && !((k.rec! t).pend run).shadowFar
    let k := k.modRec t fun x => x.modPend run fun p => { p with amax := wordsAmax (ws.take n), groupFar := far }
    let k := if first then k.modArith fun a => { a with farOff := satAdd 24 a.farOff 1 } else k
    k.takeSection run ts cs (ws.drop n)
  | _, _, _ => k

end Sys2Proof.Machine
end

