-- ==== Sys2Proof/Machine/Matrix.lean ====
section
/-!
DEFINITION. What a matrix array does with one MMA, its drain, and the shadow check (04 R89 to R93, 05 R129 to R132,
03 R70 to R76).
-/

namespace Sys2Proof.Machine

open Sys2Proof

/-! ## Operands -/

/-- K of an MMA (05 R129). -/
def mmaK (f : MF) : Nat := 64 * (f.kb.toNat + 1)

/-- The format and row step with which an operand tile is read: a produced tile of a re-run is read in BF16 (03 R71). -/
structure TileForm where
  fmt : Nat
  step : Nat
  produced : Option (BitVec 32 × Nat)
  deriving DecidableEq, Repr

/-- The lines of a tile's BF16 form. -/
def bfLines (t : BitVec 64) (rows : Nat) : List Nat :=
  let step := rowStep t * 16 / fmtBits (tFmt t)
  (List.range rows).flatMap fun r =>
    let a := tOffset t + r * step
    upFrom (a / 128) ((a % 128 + 128 + 127) / 128)

/-- How a core reads an operand tile (03 R71). -/
def Core.tileForm (k : Core) (t : BitVec 64) (rows : Nat) : TileForm :=
  let plain : TileForm := { fmt := tFmt t, step := rowStep t, produced := none }
  match k.layer with
  | some l =>
    if l.rerun && fmtNarrow (tFmt t) && (bfLines t rows).all (fun i => (SMap.get none l.produced i).isSome) then
      { fmt := 2, step := rowStep t * 16 / fmtBits (tFmt t), produced := SMap.get none l.produced (tOffset t / 128) }
    else plain
  | none => plain

/-- Row `r` of an operand tile: 64 codes. -/
def State.tileRow (s : State) (c : Nat) (t : BitVec 64) (f : TileForm) (r : Nat) : List Nat :=
  (bytesCodes f.fmt (s.coreBytes c (tOffset t + r * f.step) (rowSize f.fmt))).take 64

/-- The core-store range of an operand tile as it is read. -/
def TileForm.range (f : TileForm) (t : BitVec 64) (rows : Nat) : Nat × Nat := (tOffset t, (rows - 1) * f.step + rowSize f.fmt)

/-! ## Accumulation (02 R41 to R44) -/

/-- Add the product of two values to an accumulator (02 R42, R44). -/
def accMul (acc : F32) (x y : Num) : F32 × Ev :=
  match mulNum x y with
  | some p => accNum (f32 acc) p
  | none => (f32NaN, { inv := true })

/-- One cell: its products in ascending k (02 R43). -/
def accCell (acc : F32) (ps : List (Num × Num)) : F32 × Ev :=
  ps.foldl (fun (a : F32 × Ev) p => let r := accMul a.1 p.1 p.2; (r.1, a.2.add r.2)) (acc, {})

/-- Column `i` of a list of rows. -/
def column (rows : List (List Num)) (i : Nat) : List Num := rows.map fun r => r.getD i .nan

/-- All cells, row-major: cell (m, n) takes L[k][m] and R[k][n] (05 R130). -/
def accTile (init : List F32) (l r : List (List Num)) : List (F32 × Ev) :=
  (List.range 4096).map fun i => accCell (init.getD i 0#32) ((column l (i / 64)).zip (column r (i % 64)))

/-- The starting accumulators of an MMA (05 R129, R130). -/
def State.mmaInit (s : State) (c : Nat) (f : MF) (ti : BitVec 64) : List F32 :=
  let k := s.core c
  match f.init.toNat with
  | 1 => (List.range 64).flatMap fun m => (f32s (s.coreBytes c (tOffset ti + m * rowStep ti) 256))
  | 2 => ((if f.arr = 1#1 then k.acc1 else k.acc0).getD (List.replicate 4096 0#32))
  | _ => List.replicate 4096 0#32

/-- The accumulators after the last k step, with their events. -/
def State.mmaCells (s : State) (c : Nat) (f : MF) (tl tr ti : BitVec 64) : List (F32 × Ev) :=
  let k := s.core c
  let n := mmaK f
  let fl := k.tileForm tl n
  let fr := k.tileForm tr n
  let rows := fun t (g : TileForm) => (List.range n).map fun i => (s.tileRow c t g i).map (decodeFmt g.fmt)
  accTile (s.mmaInit c f ti) (rows tl fl) (rows tr fr)

/-! ## Drain (04 R91, R92) -/

/-- The scale of a produced operand for output channel `j` (03 R71). -/
def State.producedScale (s : State) (c : Nat) (p : Option (BitVec 32 × Nat)) (j : Nat) : F32 :=
  match p, (s.core c).ctx, s.coreRun c with
  | some (tid, base), some n, some run =>
    match (s.ctx n).rowOf tid with
    | some row => chanScale row ((s.ctx n).rec! tid) run (if row.perChan then base + j else 0)
    | none => 0x3F800000#32
  | _, _, _ => 0x3F800000#32

/-- The descale of output column `j`; a re-run multiplies it by the scales of its produced operands (03 R54, R71). -/
def State.descale (s : State) (c : Nat) (f : MF) (tl tr tout : BitVec 64) (j : Nat) : F32 :=
  let k := s.core c
  let n := mmaK f
  let d := k.rs (tSbase tout + j)
  let one := fun (p : Option (BitVec 32 × Nat)) x => if p.isSome then (fmul x (s.producedScale c p j)).1 else x
  one (k.tileForm tr n).produced (one (k.tileForm tl n).produced d)

/-- The descaled values, row-major, with their events (04 R92 step 1). -/
def drainValues (acc : List F32) (d : Nat → F32) : List (F32 × Ev) :=
  (List.range 4096).map fun i => fmul (acc.getD i 0#32) (d (i % 64))

/-- Channel of output column `j` (04 R92). -/
def drainChan (f : MF) (perChan : Bool) (j : Nat) : Nat := if perChan then 64 * f.cblk.toNat + j else 0

/-- The elements that a drain into a narrow format quantises (04 R92 step 4). -/
def drainElems (f : MF) (fmt : Nat) (perChan : Bool) (scale : Nat → F32) (ys : List F32) : List Elem :=
  (ys.zip (List.range ys.length)).map fun p => quantElem fmt (drainChan f perChan (p.2 % 64)) p.1 none (scale (drainChan f perChan (p.2 % 64)))

/-- Lines of a tile in row or in column order. -/
def tileLines (col : Bool) (codes : List Nat) : List (List Nat) :=
  (List.range 64).map fun r => (List.range 64).map fun i => codes.getD (if col then i * 64 + r else r * 64 + i) 0

/-- Write 64 rows of codes at an offset. -/
def State.putTile (s : State) (c off : Nat) (t : BitVec 64) (lines : List (List Nat)) : State :=
  (lines.zip (List.range 64)).foldl (fun s p => s.setCoreBytes c (off + p.2 * rowStep t) (codeBytes (tFmt t) p.1)) s

/-- Write a tile in the orientation its descriptor names (04 R92, 05 R120). -/
def State.writeTile (s : State) (c : Nat) (t : BitVec 64) (codes : List Nat) : State :=
  match tOrder t with
  | 0 => s.putTile c (tOffset t) t (tileLines false codes)
  | 1 => s.putTile c (tOffset t) t (tileLines true codes)
  | _ => (s.putTile c (tOffset t) t (tileLines false codes)).putTile c (tOffset t + 64 * rowStep t) t (tileLines true codes)

/-- The BF16 forms of a tile drained in a narrow format, where they lie (03 R75, log 13). -/
def Core.noteTile (k : Core) (t : BitVec 64) (scale : Nat → F32) (es : List Elem) : Core :=
  let rows := fun (k : Core) (col : Bool) (off : Nat) =>
    (List.range 64).foldl (fun k r =>
      k.noteForms (tFmt t) (off + r * rowStep t) scale
        ((List.range 64).map fun i => es.getD (if col then i * 64 + r else r * 64 + i)
          { ch := 0, x := 0#32, code := 0, ev := {}, under := false, nonfin := false })) k
  match tOrder t with
  | 0 => rows k false (tOffset t)
  | 1 => rows k true (tOffset t)
  | _ => rows (rows k false (tOffset t)) true (tOffset t + 64 * rowStep t)

/-- Drain accumulators to the output tile (04 R92). -/
def State.drain (s : State) (c : Nat) (f : MF) (tl tr tout : BitVec 64) (acc : List F32) : State :=
  let fmt := tFmt tout
  let ys := drainValues acc (s.descale c f tl tr tout)
  let s := s.coreArith c (sumEv (·.2) ys) false
  let vs := ys.map (·.1)
  if fmt == 1 then s.writeTile c tout (vs.map (·.toNat))
  else if !fmtNarrow fmt then
    let r := vs.map fun y => narrowNum fmt (f32 y)
    (s.writeTile c tout (r.map (·.1))).coreArith c (sumEv (·.2) r) (s.gradTarget c fmt)
  else
    match s.slotScaling c (tSlot tout) with
    | none => s
    | some (row, x, run, _) =>
      let rerun := (s.core c).inRerun
      let m := (drainElems f fmt row.perChan (fun _ => 0x3F800000#32) vs).foldl (fun m e => enterAmax m e.ch e.x) []
      let s := if jitNow row x run.step && !rerun then s.fixScales c (tSlot tout) m else s
      let s := if rerun then s else s.produces c (tSlot tout) (upFrom (drainChan f row.perChan 0) (if row.perChan then 64 else 1))
      match s.slotScaling c (tSlot tout) with
      | none => s
      | some (row, x, run, _) =>
        let scale := chanScale row x run
        let es := drainElems f fmt row.perChan scale vs
        let s := (s.writeTile c tout (es.map (·.code))).coreArith c (sumEv (·.ev) es) (s.gradTarget c fmt)
        let s := s.modCore c fun k => k.noteTile tout scale es
        if rerun then s else s.recordSlot c (tSlot tout) es

/-! ## The shadow check (03 R74 to R76, 05 R132) -/

/-- The BF16 form of the element at a place, while the place still holds the code the quantiser wrote (log 13). -/
def Core.form? (k : Core) (place code : Nat) : Option Form :=
  match SMap.get none k.forms place with
  | some g => if g.code == code then some g else none
  | none => none

/-- An operand for the shadow: its elements in BF16 form with the scale of each column, or its widened codes (03 R75). -/
def State.shadowSide (s : State) (c : Nat) (t : BitVec 64) (rows : Nat) : ShadowSide :=
  let k := s.core c
  let fm : TileForm := { fmt := tFmt t, step := rowStep t, produced := none }
  let w := if tFmt t == 6 then 1 else 2
  let cells := (List.range rows).flatMap fun r =>
    ((s.tileRow c t fm r).zip (List.range 64)).map fun p => (p.1, k.form? (2 * (tOffset t + r * rowStep t) + w * p.2) p.1)
  if cells.all (fun p => p.2.isSome) then
    { v := cells.map fun p => widen 2 ((p.2.map (·.bf)).getD 0#16).toNat,
      scale := some ((cells.take 64).map fun p => (p.2.map (·.scale)).getD 0x3F800000#32) }
  else { v := cells.map fun p => widen (tFmt t) p.1, scale := none }

/-- The recipe of the core's context samples some product (03 R74). -/
def State.shadowOn (s : State) (c : Nat) : Bool :=
  match (s.core c).ctx with
  | some n => (match (s.ctx n).prog with | some p => p.recipe.rows.any fun r => r.shN != 0 | none => false)
  | none => false

/-- What an MMA feeds into its accumulators. -/
def State.newFeed (s : State) (c : Nat) (f : MF) (tl tr ti : BitVec 64) : Feed :=
  { k := mmaK f, l := s.shadowSide c tl (mmaK f), r := s.shadowSide c tr (mmaK f), init := if f.init = 1#2 then s.mmaInit c f ti else [] }

/-- Everything that has fed an array's accumulators. -/
def Core.feed (k : Core) (arr : Nat) : List Feed := if arr == 1 then k.feed1 else k.feed0
/-- Replace it. -/
def Core.setFeed (k : Core) (arr : Nat) (l : List Feed) : Core := if arr == 1 then { k with feed1 := l } else { k with feed0 := l }

/-- What feeds the accumulators once an MMA has run: with INIT 2 its operands come after those of the accumulator it found (05 R129). -/
def State.feeds (s : State) (c : Nat) (f : MF) (tl tr ti : BitVec 64) : List Feed :=
  if !s.shadowOn c then []
  else (if f.init = 2#2 then (s.core c).feed f.arr.toNat else []) ++ [s.newFeed c f tl tr ti]

/-- Inner depth of a tile: the sum over the MMAs that feed it. -/
def feedK (l : List Feed) : Nat := (l.map (·.k)).sum

/-- A draining MMA completes a tile that the shadow check counts: its operands and its tensor's row are narrow, its output passes an open slot, and its layer does not run again (03 R55, R74, R71). -/
def State.shadowRow (s : State) (c : Nat) (tl tout : BitVec 64) : Option (RecipeRow × Run × Slot) :=
  if tTrk tout && fmtNarrow (tFmt tl) && !(s.core c).inRerun then
    match s.slotScaling c (tSlot tout) with
    | some (row, _, run, sl) => if fmtNarrow row.fmt then some (row, run, sl) else none
    | none => none
  else none

/-- Tile `i` is selected (03 R74). DESIGN CHOICE: the tiles of a product are numbered by the program order of one core, from 0 at each
TOPEN of the slot that its output passes; 03 R74 does not say how they are numbered where several cores or several slots share the tensor. -/
def shadowHit (row : RecipeRow) (run : Run) (i : Nat) : Bool := row.shN != 0 && (i + run.time) % row.shN == 0

/-- The shadow buffer cannot hold a selected tile of inner depth `n` (05 R132, 04 R88). -/
def shadowBad (row : RecipeRow) (run : Run) (sl : Slot) (i n : Nat) : Bool :=
  shadowHit row run i && (decide (sl.shSize < 256 * n) || decide (sl.shOff + 256 * n > coreSize))

/-- The R operand of an MMA in real units, with the events: what its own scale and that of a widened L operand divide out. Where both
have BF16 forms nothing is left to divide; else the product's descale does it, times the scale of the operand that has a form (03 R75). -/
def Feed.realR (g : Feed) (d : Nat → F32) : List (F32 × Ev) :=
  match g.l.scale, g.r.scale with
  | some _, some _ => g.r.v.map fun x => (x, {})
  | a, b =>
    (g.r.v.zip (List.range g.r.v.length)).map fun p =>
      let j := p.2 % 64
      let x := match b with | some t => fmul (d j) (t.getD j 0x3F800000#32) | none => (d j, {})
      let y := match a with | some t => fmul x.1 (t.getD 0 0x3F800000#32) | none => (x.1, {})
      let z := fmul p.1 y.1
      (z.1, z.2.add (x.2.add y.2))

/-- Count the tile, and keep a selected one for its recomputation; the buffer's bytes become free values (03 R75, log 13). -/
def State.shadowTake (s : State) (c : Nat) (f : MF) (tl tr tout : BitVec 64) (tile : Nat) (acc : List F32) (row : RecipeRow) (run : Run) (sl : Slot) : State :=
  let s' := s.modCore c fun k => k.setSlot (tSlot tout) (some { sl with tiles := sl.tiles + 1 })
  if !shadowHit row run tile then s'
  else
    let fs := (s.core c).feed f.arr.toNat
    let n := feedK fs
    let d := s.descale c f tl tr tout
    let rs := fs.flatMap fun g => g.realR d
    let ini := drainValues ((fs.head?.map (·.init)).getD []) d
    let (id, s') := s'.draw
    let s' := s'.setCoreBytes c sl.shOff ((List.range (256 * n)).map fun i => Config.freeByte id i)
    let s' := s'.coreArith c ((sumEv (·.2) rs).add (sumEv (·.2) ini)) false
    s'.modCore c fun k => { k with shadow := k.shadow ++
      [{ ctx := (s.core c).ctxNum, run := run.id, tid := sl.tid, k := n, init := ini.map (·.1),
         l := fs.flatMap (·.l.v), r := rs.map (·.1), yn := (drainValues acc d).map (·.1) }] }

/-- The sum over k of a tile's cell, each sum rounded by R39, and the events; it starts from the FP32 tile that the accumulators were
loaded with (03 R75). -/
def shadowCell (t : ShadowTile) (m j : Nat) : F32 × Ev :=
  (List.range t.k).foldl (fun (a : F32 × Ev) k =>
    let r := ffma (t.l.getD (64 * k + m) 0#32) (t.r.getD (64 * k + j) 0#32) a.1
    (r.1, a.2.add r.2)) (t.init.getD (64 * m + j) 0#32, {})

/-- The largest difference and the largest magnitude of a recomputed tile, with the events (03 R75). -/
def shadowMax (t : ShadowTile) : F32 × F32 × Ev :=
  let yb := (List.range 4096).map fun i => shadowCell t (i / 64) (i % 64)
  let ds := (t.yn.zip yb).map fun p => fsub p.1 p.2.1
  ((ds.map fun d => fabs d.1).foldl fmax 0#32, (yb.map fun y => fabs y.1).foldl fmax 0#32, (sumEv (·.2) yb).add (sumEv (·.2) ds))

/-- The comparison of a shadowed tile: it exceeds (03 R75). -/
def shadowOver (shR : Nat) (dmax bmax : F32) : Bool :=
  if f32 dmax = .nan ∨ f32 bmax = .nan then true
  else if f32IsZero bmax then !f32IsZero dmax
  else
    match f32 dmax, f32 bmax with
    | .inf _, .inf _ => false
    | .inf _, _ => true
    | _, .inf _ => false
    | .fin _ m e, .fin _ n g => decide ((addFin false m (e + shR) true n g).1 > 0)
    | _, _ => false

/-- The verdict on a shadowed tile (03 R75). -/
def shadowExceeds (row : RecipeRow) (t : ShadowTile) : Bool := shadowOver row.shR (shadowMax t).1 (shadowMax t).2.1

/-! ## Completion of an instruction (04 R91, R93) -/

/-- Pop the head of an array's queue. -/
def Core.popArray (k : Core) (arr : Nat) : Core := if arr == 1 then { k with mq1 := k.mq1.drop 1 } else { k with mq0 := k.mq0.drop 1 }
/-- An array's drain latch takes the tile of the MMA at a place in program order. -/
def Core.takeLatch (k : Core) (arr seq : Nat) : Core :=
  if arr == 1 then { k with latch1 := true, drain1 := seq } else { k with latch0 := true, drain0 := seq }
/-- Set an array's drain latch. -/
def Core.setLatch (k : Core) (arr : Nat) (b : Bool) : Core := if arr == 1 then { k with latch1 := b } else { k with latch0 := b }
/-- An array's drain latch is being written. -/
def Core.latch (k : Core) (arr : Nat) : Bool := if arr == 1 then k.latch1 else k.latch0
/-- Hold accumulators in an array. -/
def Core.setAcc (k : Core) (arr : Nat) (a : Option (List F32)) : Core := if arr == 1 then { k with acc1 := a } else { k with acc0 := a }
/-- A completed instruction whose copy to the latch is held (04 R93). -/
def Core.held (k : Core) (arr : Nat) : Option (List F32 × MF × BitVec 64) := if arr == 1 then k.wait1 else k.wait0
/-- Replace it. -/
def Core.setHeld (k : Core) (arr : Nat) (h : Option (List F32 × MF × BitVec 64)) : Core :=
  if arr == 1 then { k with wait1 := h } else { k with wait0 := h }

/-- Copy accumulators to the latch and drain them; the instruction leaves its queue (04 R91). -/
def State.copyDrain (s : State) (c arr seq : Nat) (f : MF) (tl tr tout : BitVec 64) (tile : Nat) (acc : List F32) : State :=
  let s := match s.shadowRow c tl tout with
    | some (row, run, sl) => s.shadowTake c f tl tr tout tile acc row run sl
    | none => s
  (s.drain c f tl tr tout acc).modCore c fun k => ((k.popArray arr).takeLatch arr seq).setFeed arr []

/-- An MMA completes a tile that the check selects and the shadow buffer cannot hold (05 R132). -/
def State.shadowFault (s : State) (c : Nat) (f : MF) (tl tr tout ti : BitVec 64) (tile : Nat) : Bool :=
  f.keep != 1#1 &&
    match s.shadowRow c tl tout with
    | some (row, run, sl) => shadowBad row run sl tile (feedK (s.feeds c f tl tr ti))
    | none => false

/-- The core-store ranges that an MMA reads. -/
def State.mmaRuns (s : State) (c : Nat) (f : MF) (tl tr ti : BitVec 64) : List (Nat × Nat) :=
  let k := s.core c
  let n := mmaK f
  [(k.tileForm tl n).range tl n, (k.tileForm tr n).range tr n] ++
    (if f.init = 1#2 then [(tOffset ti, 63 * rowStep ti + 256)] else [])

/-- The last k step of an MMA: accumulate, then hold in place, hold for the latch, or drain (04 R91, R93). A tile that the shadow buffer
cannot hold raises FC_ILLEGAL before any of it (05 R117, R132). -/
def State.mmaLast (s : State) (c arr : Nat) (e : QEntry) (f : MF) (tl tr tout ti : BitVec 64) (tile : Nat) : State :=
  match s.meetWords 0 (s.badRuns c (s.mmaRuns c f tl tr ti)) with
  | (some a, s) => s.uncorrFault a 0 (s.core c).ctxNum (some (c, (s.core c).taskId))
  | (none, s) =>
  if s.shadowFault c f tl tr tout ti tile then s.insnFaultAt c e.pc e.word
  else
    let cells := s.mmaCells c f tl tr ti
    let acc := cells.map (·.1)
    let fs := s.feeds c f tl tr ti
    let s := s.modCore c fun k => k.setFeed arr fs
    let s := s.coreArith c (sumEv (·.2) cells) false
    if f.keep = 1#1 then s.modCore c fun k => (k.popArray arr).setAcc arr (some acc)
    else
      let s := s.modCore c fun k => k.setAcc arr none
      if (s.core c).latch arr then
        s.modCore c fun k => (k.setHeld arr (some (acc, f, tout))).setQueue arr
          (((k.setHeld arr none).queue arr).map fun q => if q.seq == e.seq then { q with phase := 1 } else q)
      else s.copyDrain c arr e.seq f tl tr tout tile acc

end Sys2Proof.Machine
end

