-- ==== Sys2Proof/Machine/Tracker.lean ====
section
/-!
DEFINITION. Tracker slots and their merge, the layer re-run of compatibility mode, the shadow verdict and the forming of
scales (03 R57, R58, R66 to R76, 05 R142, R143).
-/

namespace Sys2Proof.Machine

open Sys2Proof

/-! ## Slots (05 R142) -/

/-- A new slot on a tensor. -/
def State.newSlot (s : State) (n : Nat) (tid : BitVec 32) (off size : Nat) (rerun : Bool) : Slot :=
  let per := match (s.ctx n).rowOf tid with | some r => r.perChan | none => false
  { tid := tid, perChan := per, shOff := off, shSize := size, chans := 0, amax := [], elements := 0, saturated := 0, underflow := 0, nonfinite := 0,
    tiles := 0, rerun := rerun }

/-- TOPEN takes effect in its queue. -/
def State.slotOpen (s : State) (c i : Nat) (tid : BitVec 32) (off size : Nat) : State :=
  let k := s.core c
  match k.ctx with
  | none => s
  | some n => s.setCore c (k.setSlot i (some (s.newSlot n tid off size k.inRerun)))

/-- TCLOSE takes effect in its queue: the slot's totals go to the merge, unless a re-run closed it (03 R58, R71). -/
def State.slotClose (s : State) (c i seq : Nat) : State :=
  let k := s.core c
  match k.ctx, k.slot i with
  | some n, some sl =>
    let s := s.setCore c (k.setSlot i none)
    if sl.rerun then s
    else s.modCtx n fun x => { x with mergeQ := x.mergeQ ++ [{ slot := sl, core := c, run := k.runId, seq := seq }] }
  | _, _ => s

/-! ## The merge (03 R58, R66) -/

/-- Merge a closed slot into the pending totals of its RUN, and count a tensor that is found far off (03 R58, R66). -/
def Ctx.mergeSlot (k : Ctx) (c : Closed) : Ctx :=
  let k := k.modRec c.slot.tid fun x => x.modPend c.run fun p => p.merge c.slot
  match k.rowOf c.slot.tid with
  | none => k
  | some r =>
    let p := (k.rec! c.slot.tid).pend c.run
    if p.tot.farOff r && !p.farOff && !p.groupFar then
      (k.modRec c.slot.tid fun x => x.modPend c.run fun p => { p with farOff := true }).modArith fun a => { a with farOff := satAdd 24 a.farOff 1 }
    else k

/-- The tensor is far off in the RUN as far as its pending totals say. -/
def Ctx.isFar (k : Ctx) (tid : BitVec 32) (run : Nat) : Bool :=
  let p := (k.rec! tid).pend run
  p.farOff || p.shadowFar || p.groupFar

/-- Merge every closed slot of a context. -/
def Ctx.mergeAll (k : Ctx) : Ctx := { k.mergeQ.foldl Ctx.mergeSlot k with mergeQ := [] }

/-! ## The re-run (03 R70, R71) -/

/-- Return the semaphores that an open layer changed (03 R70 step 2). -/
def State.undoSems (s : State) (n : Nat) (l : LayerRun) : State :=
  let s := l.incs.foldl (fun s e => s.setSem n e.1 (s.sem n e.1 - BitVec.ofNat 32 e.2)) s
  l.decs.foldl (fun s e => s.setSem n e.1 (s.sem n e.1 + BitVec.ofNat 32 e.2)) s

/-- Slots as the re-run finds them: those open at the marker, as slots that merge nothing. -/
def State.rerunSlots (s : State) (n : Nat) (l : LayerRun) (k : Core) : Core :=
  (List.range 8).foldl (fun k i =>
    match SMap.get none l.slotsPO i with
    | none => (k.setSlot i none).setSlotPO i none
    | some tid =>
      let old := match k.slot i with | some x => if x.tid == tid then some x else none | none => none
      let new := match old with
        | some x => { s.newSlot n tid x.shOff x.shSize true with tiles := x.tiles }
        | none => s.newSlot n tid 0 0 true
      (k.setSlot i (some new)).setSlotPO i (some tid)) k

/-- Start the re-run of a core's layer at the BLK before its open marker (03 R70). The totals of slots still open are merged as they stand, so that what the first pass recorded is kept. -/
def State.startRerun (s : State) (c n : Nat) (l : LayerRun) : State :=
  let k := s.core c
  let opened := (List.range 8).filterMap fun i => match k.slot i with
    | some x => some ({ slot := x, core := c, run := k.runId, seq := l.seq } : Closed)
    | none => none
  let s := (s.undoSems n l).modCtx n fun x =>
    ((opened.foldl Ctx.mergeSlot x).modArith fun a => { a with rerun := satAdd 15 a.rerun 1 }).modRun k.runId fun r => { r with rerun := l.id :: r.rerun }
  let q := s.rerunSlots n l (s.core c)
  let again : LayerRun :=
    { l with rerun := true, done := true, incs := [], decs := [], produced := [], pending := false, seq := q.nextSeq }
  s.setCore c { q with pc := l.blkPc, block := none, afterBlk := false, layer := some again }

/-- A core whose layer waits for the merge of the slot it closed goes on, or starts its re-run, which a step holds at most once for a layer (03 R70, R71). -/
def State.layerVerdict (s : State) (c n : Nat) (tid : BitVec 32) : State :=
  let k := s.core c
  match k.layer with
  | some l =>
    if !l.pending then s
    else if (s.ctx n).isFar tid k.runId && !l.done then s.startRerun c n l
    else s.setCore c { k with layer := some { l with pending := false } }
  | none => s

/-- TRACKER_MERGE: the oldest closed slot of a context is merged. A core of compatibility mode that waits for it, at a TCLOSE of its open layer, must have completed its issued work (03 R58, R70). -/
def execTrackerMerge (n : CtxN) (s : State) : Host.Outcome State Fault Refusal :=
  .next (
    match (s.ctx n.val).mergeQ with
    | [] => s
    | c :: rest =>
      let k := s.core c.core
      let waits := match k.layer with | some l => l.pending && k.ctx == some n.val && k.runId == c.run && decide (l.seq ≤ c.seq) | none => false
      if waits && !k.quiet then s
      else
        let s := s.modCtx n.val fun x => ({ x with mergeQ := rest } : Ctx).mergeSlot c
        if waits then s.layerVerdict c.core n.val c.slot.tid else s)

/-! ## The shadow verdict (03 R76) -/

/-- A shadowed tile's verdict enters the counts and the tensor's shadow-run counter (03 R76). -/
def Ctx.shadowVerdict (k : Ctx) (r : RecipeRow) (t : ShadowTile) (exceed : Bool) : Ctx :=
  let k := k.modArith fun a => { a with checked := satAdd 32 a.checked 1, exceeded := satAdd 31 a.exceeded (b2n exceed) }
  let x := k.rec! t.tid
  let n := if exceed then satAdd 8 (((x.pend t.run).shadow).getD x.shadowRun) 1 else 0
  if n ≥ r.shRun then
    (k.modRec t.tid fun x => x.modPend t.run fun p => { p with shadow := some 0, shadowFar := true }).modArith fun a =>
      { a with shadow := satAdd 24 a.shadow 1 }
  else k.modRec t.tid fun x => x.modPend t.run fun p => { p with shadow := some n }

/-! ## Scales of the next step (03 R68) -/

/-- A RUN of a step that was attempted before is a replay: an attempt was aborted, or its retention record has been taken over (07 R181, R185). -/
def CtxStep.isReplay (t : CtxStep) (e : Nat) : Bool := t.aborted == some e || (t.retention e).isSome

/-- The firmware forms the next step's scales (03 R68): histories are those of committed RUNs and of loads. A replay has the scales that
were formed for the first attempt (03 R65). -/
def Ctx.formScalesNow (k : Ctx) (replay : Bool) : Ctx :=
  let t := k.step.applied + 1
  if replay && k.formed == some t then k else { k.formStep with formed := some t }

/-- For whom the next step's descales are formed, before its RUN gives a last. -/
def Ctx.nextUse (k : Ctx) : ScaleUse := { step := true, key := (k.step.applied + 1) % 2 ^ 48, last := 0 }

/-- STEP_SCALES_FORMED: the firmware forms the next step's scales and writes their descales; it does so while no step of the context runs (03 R68). -/
def execStepScalesFormed (n : CtxN) (s : State) (replays : Nat := 0) : Host.Outcome State Fault Refusal :=
  .next (
    let k := s.ctx n.val
    if k.inStep || k.prog.isNone then s
    else s.cross replays k.mem.scalingBase 4 n.val none fun s =>
      (s.modCtx n.val fun k => k.formScalesNow (k.step.isReplay ((k.step.applied + 1) % 2 ^ 48))).firmDescales n.val k.nextUse)

end Sys2Proof.Machine
end

