-- ==== Sys2Proof/Machine/Queue.lean ====
section
/-!
DEFINITION. The issue queues at work: what starts from the head of each queue, how a collective starts and ends, and what
each completion event of a core does (04 R98 to R102, R499, 11 R279 to R283).
-/

namespace Sys2Proof.Machine

open Sys2Proof

/-! ## Starting a collective (11 R279, R283, R287, R321) -/

/-- Outstanding collectives of a context. -/
def State.collsOf (s : State) (n : Nat) : Nat := (s.colls.filter fun c => c.ctx == n).length
/-- Contexts that exist: slots that are not FREE, and the administrative one. -/
def State.exists_ (s : State) (n : Nat) : Bool := n == 16 || (s.ctx n).sched.st != 0

/-- A collective slot is free for a context (11 R279, 12 R321). -/
def State.collRoom (s : State) (n : Nat) : Bool :=
  let mine := s.collsOf n
  let reserve := (List.range 17).foldl (fun t m => if s.exists_ m then t + (16 - s.collsOf m) else t) 0
  decide (mine < 64) && decide (s.colls.length < 256) && (decide (mine < 16) || decide (s.colls.length + reserve < 256))

/-- GRANTs held pending for a collective count as arrivals at its issue (11 R297). -/
def State.applyPending (s : State) (c : Coll) : State :=
  let mine := s.link.grants.filter fun g => g.msg.ctx == c.ctx && g.msg.epoch == c.epoch && g.msg.tag == c.d.cid && g.msg.layout == c.layout
  let s := { s with link := { s.link with grants := s.link.grants.filter fun g =>
    !(g.msg.ctx == c.ctx && g.msg.epoch == c.epoch && g.msg.tag == c.d.cid && g.msg.layout == c.layout) } }
  mine.foldl (fun s g => match s.coll? c.id with | some c => s.applyGrant c g.msg | none => s) s

/-- The first GRANT of each rail and dimension (11 R287, log 89). -/
def State.firstGrants (s : State) (c : Coll) : State :=
  (List.range 8).foldl (fun s r => (s.windowDims c r).foldl (fun s j =>
    (s.modRail c.id r fun q => { q with granted := SMap.set 0 q.granted j windowBytes }).sendGrant c r j windowBytes) s) s

/-- One piece of the module's own shard enters a gather, on a rail: the destination and the record. -/
def State.ownPiece (s : State) (c : Coll) (r : Nat) (bs : List Byte) : State :=
  let p := s.pieceLen c.d
  let i := s.shardIndex c.d.dims
  let s := s.modRail c.id r fun q => { q with vals := Mem.write q.vals (i * p) bs }
  (s.collWrite c.ctx (c.d.dst + r * c.d.part + i * p) bs).addPiece c.id { shard := i, rail := r, tag := c.d.tag, crc := crc32c bs }

/-- The module's own shard enters a gather, piece by piece (11 R291); false where a word of it cannot be read (09 R237). -/
def State.ownShard (c : Coll) : List Nat → State → Bool × State
  | [], s => (true, s)
  | r :: rs, s =>
    match s.collRead c.ctx (c.d.src + r * s.pieceLen c.d) (s.pieceLen c.d) with
    | (none, s) => (false, s)
    | (some bs, s) => State.ownShard c rs (s.ownPiece c r bs)

/-- Start the rails of a ring collective whose own shard has been read; a span of one module copies its buffer (11 R285). -/
def State.startRails (s : State) (c : Coll) : State :=
  if (s.stages c.d).isEmpty then (if c.d.op ≤ 2 then s.copyLocal c.ctx c.d.src c.d.dst c.d.len else s).applyPending c
  else (List.range 8).foldl (fun s r => s.startStage c.id r) (s.applyPending c)

/-- Start the rails of a ring collective. Nothing is sent from a buffer with an unreadable word (09 R237). -/
def State.startRing (s : State) (c : Coll) : State :=
  match State.ownShard c (if c.d.tagged then List.range 8 else []) s with
  | (true, s) => s.startRails c
  | (false, s) => s

/-- Start a point-to-point collective: the first GRANT to each peer, and what pending GRANTs let out. -/
def State.startPeers (s : State) (c : Coll) : State :=
  ((c.p2p.map (·.peer)).eraseDups.foldl (fun s p => s.grantP2p c.id p) s).applyPending c

/-- Enter a collective as outstanding. -/
def State.enterColl (s : State) (c : Coll) : State := { s with colls := s.colls ++ [c], nextColl := s.nextColl + 1 }

/-- The result buffer of a descriptor with one, as a list. -/
def State.resultOf (s : State) (d : CollDesc) : List (Nat × Nat) := (s.collDst d).toList.filter fun g => g.2 != 0

/-- The transfers of a point-to-point descriptor and the ranges it receives into, or none where its table breaks R296; the copies to itself are made at once. -/
def State.peerTable (s : State) (n : Nat) (d : CollDesc) : Option (List P2p × List (Nat × Nat)) × State :=
  if d.op == 7 then
    match s.collRead n d.recAddr (32 * d.entries) with
    | (none, s) => (some ([], []), s)
    | (some bs, s) =>
      match permTable d.entries bs with
      | none => (none, s)
      | some es =>
        if !s.permOk n es then (none, s)
        else
          match s.selfCopies n (es.filter fun e => e.send && e.peer == s.link.coord) (es.filter fun e => !e.send && e.peer == s.link.coord) with
          | none => (none, s)
          | some t => (some (es.filter fun e => e.peer != s.link.coord, (es.filter fun e => !e.send && e.len != 0).map fun e => (e.addr, e.len)), t)
  else if s.selfCopy d then (some ([], s.resultOf d), s.copyLocal n d.src d.dst d.len)
  else (some ([{ send := d.op == 5, peer := d.peer, addr := if d.op == 5 then d.src else d.dst, len := d.len, met := d.len == 0 }], s.resultOf d), s)

/-- A collective as it is entered. -/
def State.newColl (s : State) (n epoch layout run owner : Nat) (d : CollDesc) (ctl : Option CtlSec) (ps : List P2p) (res : List (Nat × Nat)) : Coll :=
  { id := s.nextColl, ctx := n, epoch := epoch, layout := layout, d := d, owner := owner, run := run, rails := [], p2p := ps, pieces := [], ctl := ctl, results := res }

/-- Start a collective whose descriptor has passed its checks; `none` where it raises FC_ILLEGAL at its start (11 R279, R289, R296). -/
def State.startColl (s : State) (n epoch layout run owner : Nat) (d : CollDesc) : Option State :=
  if (s.findColl n epoch d.cid layout).isSome then none
  else if d.ring then
    let s := if d.stepctl then s.modCtx n Ctx.mergeAll else s
    let sec := (s.ctx n).formSection run
    if d.stepctl && ((s.ctx n).step.stepctl || decide (sec.words.length > 1048576)) then none
    else
      let c := s.newColl n epoch layout run owner d (if d.stepctl then some sec else none) [] (s.resultOf d)
      let s := if d.stepctl then s.modCtx n fun k => k.modStep fun t => { t with stepctl := true, fixed := true } else s
      some (((s.enterColl c).firstGrants c).startRing c |>.startCtl c.id)
  else
    match s.peerTable n d with
    | (none, _) => none
    | (some (ps, res), s) =>
      let c := s.newColl n epoch layout run owner d none ps res
      some ((s.enterColl c).startPeers c)

/-! ## The pump (04 R98, R499) -/

/-- Drop the head of the DMA queue. -/
def State.popDq (s : State) (c : Nat) : State := s.modCore c fun k => { k with dq := k.dq.drop 1 }

/-- SRD: the register takes the semaphore's value (05 R144). -/
def State.readSem (s : State) (c n i d : Nat) : State := s.modCore c fun k => k.setA d ((s.sem n i).setWidth 64)

/-- Start the head of the DMA, semaphore and collective queue, if it may start (04 R100, 05 R144 to R147, 11 R279). -/
def State.startDq (s : State) (c : Nat) : Option State :=
  let k := s.core c
  match k.dq with
  | [] => none
  | e :: _ =>
    match e.work with
    | .sinc i a =>
      if !k.doneBefore e.seq then none
      else match k.ctx with
        | none => none
        | some n => some ((((s.popDq c).semInc n i a.toNat (some (c, k.taskId)))).modCore c fun k => k.noteInc e.seq i a.toNat)
    | .dma d ordc =>
      if s.flt.active || (ordc && !k.workBefore e.seq) || decide (k.dma.length ≥ 32) then none
      else some ((s.popDq c).addDma c e.seq d)
    | .swait i a dec => some ((s.popDq c).modCore c fun k => k.standAt { sem := i, amount := a, dec := dec, blk := false, cls := 0, word := 0#64 })
    | .stry i a d =>
      match k.ctx with
      | none => none
      | some n => some ((s.popDq c).semClock n i (some (c, d, a)))
    | .srd i d =>
      match k.ctx with
      | none => none
      | some n => some (((s.popDq c).semClock n i none).readSem c n i d)
    | .coll d =>
      match k.ctx with
      | none => none
      | some n =>
        if s.flt.active || !k.doneBefore e.seq || !s.collRoom n then none
        else match s.coreRun c with
          | none => none
          | some r =>
            match s.startColl n r.epoch (s.ctx n).step.layout r.id 0 d with
            | some s => some (s.popDq c)
            | none => some ((s.popDq c).insnFaultAt c e.pc e.word)
    | _ => none

/-- A just-in-time QNT measures its elements first (03 R72). -/
def State.startVec (s : State) (c : Nat) (w : VecWork) : State :=
  if w.op == .qnt && s.qntJit c w then (s.fixScales c w.slotIx (s.qntMeasure c w)).modCore c fun k => k.headPhase 2
  else (s.execVec c w).modCore c fun k => k.headPhase 1

/-- Start the head of the vector and update queue, if it may start. TOPEN and TCLOSE leave the queue at once; an UPD waits for UPD_DECISION_RELEASE. -/
def State.startVq (s : State) (c : Nat) : Option State :=
  let k := s.core c
  match k.vq with
  | [] => none
  | e :: es =>
    if e.phase != 0 || k.heldBy e.seq e.reads e.writes then none
    else
      match e.work with
      | .vec w => some (s.startVec c w)
      | .topen i tid off size => some ((s.modCore c fun k => { k with vq := es }).slotOpen c i tid off size)
      | .tclose i => some ((s.modCore c fun k => { k with vq := es }).slotClose c i e.seq)
      | _ => none

/-- Run queue starts while any may start. `k` bounds them. -/
def State.pumpN (c : Nat) : Nat → State → State
  | 0, s => s
  | k + 1, s =>
    match s.startVq c with
    | some s => State.pumpN c k s
    | none =>
      match s.startDq c with
      | some s => State.pumpN c k s
      | none => s

/-- Let the queues of a core start what they can. -/
def State.pump (s : State) (c : Nat) : State := State.pumpN c 34 s

/-- The same for every core. -/
def State.pumpAll (s : State) : State := (List.range 320).foldl State.pump s

/-! ## Events of the queues and arrays -/

/-- ISSUE_QUEUE_ROOM: the queue that stops the sequencer has room again (04 R499). -/
def execIssueQueueRoom (c : CoreId) (q : Fin 4) (s : State) : Host.Outcome State Fault Refusal :=
  .next (
    let k := s.core c.val
    if k.seqHeld == some q.val && decide ((k.queue q.val).length < 16) then s.setCore c.val { k with seqHeld := none } else s)

/-- ARRAY_LAST_K_STEP: the array's oldest instruction completes its last k step (04 R91). -/
def execArrayLastKStep (c : CoreId) (arr : Fin 2) (s : State) : Host.Outcome State Fault Refusal :=
  .next (
    let k := s.core c.val
    match k.queue arr.val with
    | [] => s
    | e :: _ =>
      if e.phase != 0 || k.heldBy e.seq e.reads e.writes then s
      else match e.work with
        | .mma f tl tr tout ti i => (s.mmaLast c.val arr.val e f tl tr tout ti i).pump c.val
        | _ => s)

/-- ARRAY_DRAIN_COMPLETE: the drain has written its last row; an accumulator held for the latch is copied to it (04 R93). -/
def execArrayDrainComplete (c : CoreId) (arr : Fin 2) (s : State) : Host.Outcome State Fault Refusal :=
  .next (
    let k := s.core c.val
    if !k.latch arr.val then s
    else
      let s := s.modCore c.val fun k => (k.setLatch arr.val false).setHeld arr.val none
      match k.held arr.val, k.queue arr.val with
      | some (acc, _, _), e :: _ =>
        match e.work with
        | .mma f tl tr tout _ i => (s.copyDrain c.val arr.val e.seq f tl tr tout i acc).pump c.val
        | _ => s.pump c.val
      | _, _ => s.pump c.val)

/-- SHADOW_RECOMPUTE: the vector unit recomputes the oldest shadowed tile and compares it; its events are charged to the context (02 R34, R35, 03 R75, R76). -/
def execShadowRecompute (c : CoreId) (s : State) : Host.Outcome State Fault Refusal :=
  .next (
    match (s.core c.val).shadow with
    | [] => s
    | t :: ts =>
      let s := s.modCore c.val fun k => { k with shadow := ts }
      match (s.ctx t.ctx).rowOf t.tid with
      | some r => (s.arith t.ctx (shadowMax t).2.2 false).modCtx t.ctx fun k => k.shadowVerdict r t (shadowExceeds r t)
      | none => s)

/-- JIT_QUANTISE_PASS: the quantise pass of a just-in-time QNT whose channels are fixed (03 R72). -/
def execJitQuantisePass (c : CoreId) (s : State) : Host.Outcome State Fault Refusal :=
  .next (
    match (s.core c.val).vq with
    | e :: _ =>
      match e.work with
      | .vec w => if e.phase == 2 then (s.execVec c.val w).modCore c.val fun k => k.headPhase 1 else s
      | _ => s
    | [] => s)

/-- VECTOR_UPDATE_INSTRUCTION_COMPLETE: the vector or update instruction at the head of its queue has completed; an UPD that wrote adds its journal entry (04 R98, 07 R182). -/
def execVectorUpdateInstructionComplete (c : CoreId) (s : State) (replays : Nat := 0) : Host.Outcome State Fault Refusal :=
  .next (
    match (s.core c.val).vq with
    | [] => s
    | e :: es =>
      if e.phase != 1 && e.phase != 3 then s
      else
        let s := match e.work with
          | .upd f _ _ _ _ tid ae =>
            if e.phase == 1 then s.cross replays 0 4 (s.core c.val).ctxNum none fun s => s.journalAdd c.val f tid ae else s
          | _ => s
        (s.modCore c.val fun k => { k with vq := es }).pump c.val)

/-- A completed remote load or store (05 R149): what it does to its register or to storage. -/
def State.remoteDone (s : State) (c : Nat) (r : Remote) : State :=
  let k := s.core c
  if r.load then
    match s.load r.addr 8 with
    | (.inl bs, s) => s.modCore c fun k => k.setA r.reg (BitVec.ofNat 64 (leNat bs))
    | (.inr w, s) => s.uncorrFault w 0 k.ctxNum (some (c, k.taskId))
  else if (s.ctx k.ctxNum).inRetained r.addr 8 then s.illegal k.ctxNum
  else
    match s.writeFor k.ctxNum r.addr (natLe 8 r.value.toNat) with
    | (none, s) => s
    | (some w, s) => s.uncorrFault w 1 k.ctxNum (some (c, k.taskId))

/-- An earlier access to the same eight bytes that a later one must follow: one of the two is a store (04 R98, 05 R127). -/
def Remote.before (q r : Remote) : Bool := decide (q.seq < r.seq) && q.addr == r.addr && !(q.load && r.load)

/-- REMOTE_ALD_AST_COMPLETE: outstanding access `k` of a core completes, after the earlier work and the earlier accesses that it must follow (04 R98, 05 R127, R149). -/
def execRemoteAldAstComplete (c : CoreId) (k : Nat) (s : State) (replays : Nat := 0) : Host.Outcome State Fault Refusal :=
  .next (
    match (s.core c.val).remote[k]? with
    | none => s
    | some r =>
      if (s.core c.val).work.any (fun e => decide (e.seq < r.seq)) || (s.core c.val).remote.any (fun q => q.before r) then s
      else
        let s := s.modCore c.val fun x => { x with remote := dropAt k x.remote }
        (s.cross replays r.addr 0 (s.core c.val).ctxNum (some (c.val, (s.core c.val).taskId)) fun s => s.remoteDone c.val r).pump c.val)

/-- DMA_DESCRIPTOR_COMPLETE: every byte of a descriptor is written; its semaphore increments, and the queue may go on (04 R100, R102). -/
def execDmaDescriptorComplete (c : CoreId) (desc : Nat) (s : State) : Host.Outcome State Fault Refusal :=
  .next (
    let k := s.core c.val
    match k.dma[desc]?, k.ctx with
    | some p, some n =>
      if !p.done then s
      else
        let s := s.modCore c.val fun k => ({ k with dma := dropAt desc k.dma } : Core).noteInc p.seq p.d.sem 1
        ((s.semInc n p.d.sem 1 none).dmaRun c.val).pump c.val
    | _, _ => s)

/-- SEMAPHORE_WAIT_GRANT: the waits of a semaphore that its value meets are granted in order (05 R145). -/
def execSemaphoreWaitGrant (n : CtxN) (sem : BitVec 8) (s : State) : Host.Outcome State Fault Refusal :=
  .next (if s.live then s.semClock n.val sem.toNat none else s)

end Sys2Proof.Machine
end

