-- ==== Sys2Proof/Machine/CollEnd.lean ====
section
/-!
DEFINITION. Local completion of a collective, and the reshard that runs one (11 R283, R289, R295, 07 R175, R181).
-/

namespace Sys2Proof.Machine

open Sys2Proof

/-! ## Local completion (11 R283) -/

/-- A control section has been combined over every dimension of the group. -/
def State.ctlDone (s : State) (c : Coll) : Bool :=
  match c.ctl with | some x => decide (s.groupDims.length ≤ x.stage) && !x.mismatch | none => true

/-- Everything a collective must receive and send is done (11 R283). -/
def State.collDone (s : State) (c : Coll) : Bool :=
  !((List.range 8).any fun d => s.heldIn c d) &&
  if c.d.ring then ((List.range 8).all fun r => decide ((s.stages c.d).length ≤ (c.rail r).stage)) && s.ctlDone c
  else c.p2p.all fun p => !p.open_

/-- A finished control section: the decision latches on a member, and the reduced words reach the scaling records (07 R175, 03 R60). -/
def State.endSection (s : State) (c : Coll) (x : CtlSec) : State :=
  let d := (x.words.headD 0#64).getLsbD 0
  let s := if s.link.member then s.modCtx c.ctx fun k => k.modStep fun t => t.latch c.epoch d else s
  s.modCtx c.ctx fun k => k.takeSection c.run x.tids x.chans (x.words.drop 3)

/-- Words 1 and 2 of a finished section differ (11 R289). -/
def CtlSec.differs (x : CtlSec) : Bool := x.words.getD 1 0#64 != x.words.getD 2 0#64

/-- Regions of a step's retention record. -/
def CtxStep.regions (t : CtxStep) (epoch : Nat) : Nat := match t.retention epoch with | some r => r.regions.length | none => 0

/-- Enter a retained region; the record exists from its first region on (07 R181). DESIGN CHOICE: with a decision of 0 until the decision latches,
and so after the local commit of a step whose decision never latched (log 117). -/
def CtxStep.addRegion (t : CtxStep) (epoch : Nat) (g : Nat × Nat) : CtxStep :=
  match t.retention epoch with
  | some _ => { t with retained := updFirst (fun r => r.epoch == epoch) (fun r => { r with regions := r.regions ++ [g] }) t.retained }
  | none => { t with retained := t.retained ++ [{ epoch := epoch, decision := false, scale := t.scale, regions := [g] }] }

/-- One result range of a RETAIN collective becomes a retained region; the 257th raises FC_ILLEGAL (07 R181). -/
def State.retainOne (n epoch : Nat) (s : State) (g : Nat × Nat) : State :=
  if (s.ctx n).step.regions epoch ≥ 256 then s.illegal n
  else s.modCtx n fun k => k.modStep fun t => t.addRegion epoch g

/-- A RETAIN collective's result buffer becomes retained: the destination, or every receive buffer of a PERMUTE (07 R181). -/
def State.retainDst (s : State) (c : Coll) : State := if c.d.retain then c.results.foldl (State.retainOne c.ctx c.epoch) s else s

/-! ## Reshard (11 R295) -/

/-- The descriptor of the PERMUTE that a RESHARD issues. -/
def reshardDesc (addr entries : Nat) : CollDesc :=
  { op := 7, combine := 0, dims := 0#4, retain := false, stepctl := false, hipri := false, record := false, cid := 0#32, src := 0, dst := 0,
    len := 0, tag := 0#64, recAddr := addr, sem := 0, peer := 0#16, entries := entries }

/-- The step epoch that names no step. -/
def noStep : Nat := 0xFFFFFFFFFFFF

/-- A RESHARD whose context has no collective left of the old epoch issues its PERMUTE under the next one. -/
def State.reshardGo (s : State) (n : Nat) : State :=
  match (s.ctx n).step.reshard with
  | some (tag, false) =>
    if (s.colls.any fun c => c.ctx == n) || !s.live then s
    else
      match s.cmd? n 0x80 tag true with
      | none => s
      | some c =>
        match s.startColl n noStep (((s.ctx n).step.layout + 1) % 65536) 0 1 (reshardDesc (c.p 16 8) (c.p 24 4)) with
        | some t => t.modCtx n fun k => k.modStep fun t => { t with reshard := some (tag, true) }
        | none => s.illegal n
  | _ => s

/-- The reshard's PERMUTE is complete: the layout epoch advances and the command ends. -/
def State.reshardEnd (s : State) (n : Nat) : State :=
  match (s.ctx n).step.reshard with
  | some (tag, _) =>
    let e := ((s.ctx n).step.layout + 1) % 65536
    (s.modCtx n fun k => k.modStep fun t => { t with layout := e, reshard := none }).finish n 0x80 tag 0 e 0
  | none => s

/-- RESHARD (11 R295): accepted while the context has no RUN in progress. -/
def execReshard (n : CtxN) (tag : Tag) (s : State) : Host.Outcome State Fault Refusal :=
  .next (s.command n.val 0x80 tag fun c s =>
    let x := s.ctx n.val
    if x.runInProgress || x.step.reshard.isSome then s.finish n.val 0x80 tag 0x23E 0 0
    else if !s.inAlloc n.val (c.p 16 8) (32 * c.p 24 4) then s.finish n.val 0x80 tag 0x204 0 0
    else (s.modCtx n.val fun k => k.modStep fun t => { t with reshard := some (tag, false) }).reshardGo n.val)

/-! ## The event -/

/-- A complete collective leaves the module's list: its semaphore and its count increment (11 R283, R303). -/
def State.collLeave (s : State) (c : Coll) : State :=
  let s := { s with colls := s.colls.filter fun x => x.id != c.id }
  let s := s.modCtx c.ctx fun k => k.modArith fun a => { a with collDone := satAdd 32 a.collDone 1 }
  let s := if c.owner == 1 then s.reshardEnd c.ctx else s.semInc c.ctx c.d.sem 1 none
  (s.reshardGo c.ctx).pumpAll

/-- A collective cut short by a fault ends: its destination holds undefined bytes, and nothing else follows (11 R283, R295, log 90). -/
def State.cutColl (s : State) (c : Coll) : State :=
  c.results.foldl (fun s r => s.scramble r.1 r.2) { s with colls := s.colls.filter fun x => x.id != c.id }

/-- COLL_LOCAL_COMPLETE: a collective has completed on the module, or ends cut short while a fault is latched (11 R283). -/
def execCollLocalComplete (id : Nat) (s : State) : Host.Outcome State Fault Refusal :=
  .next (
    match s.coll? id with
    | none => s
    | some c =>
      if s.flt.active then s.cutColl c
      else if !s.collDone c then s
      else
        match c.ctl with
        | some x =>
          if x.differs then (s.modCtl id fun x => { x with mismatch := true }).epochMismatch c.ctx 1
          else ((s.endSection c x).retainDst c).collLeave c
        | none => (s.retainDst c).collLeave c)

end Sys2Proof.Machine
end

