-- ==== Sys2Proof/Machine/Program.lean ====
section
/-!
DEFINITION. PROGRAM_LOAD: the program image, its tables and their checks (13 R363, 03 R61 to R63, 04 R106, 06 R159, R163,
07 R169, 09 R501).
-/

namespace Sys2Proof.Machine

open Sys2Proof

/-! ## Fields -/

/-- Bytes `[a, a+n)` are all 0. -/
def zeroAt (bs : List Byte) (a n : Nat) : Bool := ((bs.drop a).take n).all (· == 0#8)
/-- The CRC-32C at byte `n` covers the bytes before it. -/
def checkAt (bs : List Byte) (n : Nat) : Bool := field bs n 4 == (crc32c (bs.take n)).toNat
/-- A part of some bytes. -/
def part (bs : List Byte) (a n : Nat) : List Byte := (bs.drop a).take n
/-- No two elements are equal. -/
def distinct {α : Type} [DecidableEq α] : List α → Bool
  | [] => true
  | x :: xs => !xs.contains x && distinct xs

/-! ## Header and sections (13 R363) -/

/-- Offsets and counts of an image header. -/
structure Header where
  codeOff : Nat
  codeLen : Nat
  taskOff : Nat
  taskN : Nat
  recOff : Nat
  ruleOff : Nat
  layerOff : Nat
  layerN : Nat
  stageN : Nat
  stageOff : Nat
  deriving DecidableEq, Repr

/-- The header of an image. -/
def parseHeader (bs : List Byte) : Header :=
  { codeOff := field bs 8 4, codeLen := field bs 12 4, taskOff := field bs 16 4, taskN := field bs 20 4, recOff := field bs 24 4,
    ruleOff := field bs 28 4, layerOff := field bs 32 4, layerN := field bs 36 2, stageN := field bs 38 1, stageOff := field bs 40 4 }

/-- The sections of an image that hold bytes, the header first. -/
def Header.sections (h : Header) : List (Nat × Nat) :=
  ([(0, 64), (h.codeOff, h.codeLen), (h.taskOff, 64 * h.taskN), (h.recOff, 448)] ++ (if h.ruleOff == 0 then [] else [(h.ruleOff, 1024)]) ++
    [(h.layerOff, 32 * h.layerN), (h.stageOff, 64 * h.stageN)]).filter fun r => r.2 != 0

/-- No two ranges share a byte. -/
def disjoint : List (Nat × Nat) → Bool
  | [] => true
  | r :: rs => clearOf r.1 r.2 rs && disjoint rs

/-- The header's fields and the bounds of the sections (13 R363 check 1). -/
def headerOk (bs : List Byte) : Bool :=
  let h := parseHeader bs
  bs.length ≥ 64 && field bs 0 4 == 0x3149505A && field bs 4 2 == 1 && field bs 6 2 == 0 && h.codeOff % 8 == 0 && decide (1 ≤ h.taskN) &&
    decide (h.taskN ≤ 1048576) && decide (h.stageN ≤ 8) && field bs 39 1 == 0 && (h.stageN != 0 || h.stageOff == 0) && zeroAt bs 44 16 &&
    checkAt (bs.take 64) 60 && [h.taskOff, h.recOff, h.ruleOff, h.layerOff, h.stageOff].all (· % 64 == 0) &&
    h.sections.all (fun r => decide (r.1 + r.2 ≤ bs.length)) && disjoint h.sections

/-- The entries of a table. -/
def entries (bs : List Byte) (off size n : Nat) : List (List Byte) := (List.range n).map fun i => part bs (off + i * size) size

/-! ## Task descriptors (04 R106) -/

/-- A task descriptor. -/
def parseTask (b : List Byte) : TaskDesc :=
  { entry := field b 0 4, len := field b 4 2, prio := field b 6 1, pin := bit (field b 7 1) 0, home := field b 8 1, deps := field b 10 2,
    tid := field b 12 4, arg := BitVec.ofNat 64 (field b 16 8), succ := [field b 24 4, field b 28 4, field b 32 4, field b 36 4],
    sem := field b 40 2 }

/-- A descriptor keeps to its table. -/
def taskOk (b : List Byte) : Bool :=
  let d := parseTask b
  d.entry % 8 == 0 && decide (1 ≤ d.len) && decide (d.len ≤ 8192) && decide (d.prio ≤ 15) && decide (field b 7 1 < 2) &&
    (decide (d.home ≤ 3) || d.home == 0xFF) && field b 9 1 == 0 && d.tid != 0xFFFFFFFF && decide (d.arg.toNat < 2 ^ 48) &&
    (decide (d.sem ≤ 255) || d.sem == 0xFFFF) && zeroAt b 42 18 && checkAt b 60

/-- A code block lies within the code section. -/
def Header.codeOk (h : Header) (d : TaskDesc) : Bool := within d.entry (8 * d.len) h.codeOff h.codeLen

/-! ## Update rules (07 R169) -/

/-- An update rule. -/
def parseRule (b : List Byte) : Rule :=
  let w := fun o => BitVec.ofNat 32 (field b o 4)
  { kind := field b 0 1, mfmt := field b 1 1, lrx := field b 4 2, gfx := field b 6 2, bc1x := field b 8 2, bc2x := field b 10 2,
    wd := w 12, b1 := w 16, c1 := w 20, b2 := w 24, c2 := w 28, eps := w 32 }

/-- A rule keeps to its table. -/
def ruleOk (b : List Byte) : Bool :=
  let r := parseRule b
  checkAt b 60 &&
    (if r.kind == 0 then zeroAt b 0 60
     else
       decide (r.kind ≤ 3) && (if r.kind == 1 then r.mfmt == 0 else r.mfmt == 1 || r.mfmt == 2) && field b 2 2 == 0 && decide (r.lrx < 2048) &&
         decide (r.gfx < 2048) && (if r.kind == 3 then decide (r.bc1x < 2048) && decide (r.bc2x < 2048) else r.bc1x == 0 && r.bc2x == 0) &&
         [r.wd, r.b1, r.c1, r.b2, r.c2, r.eps].all f32Finite && (r.kind != 1 || r.b1 == 0#32) &&
         (r.kind == 3 || [r.c1, r.b2, r.c2, r.eps].all (· == 0#32)) && zeroAt b 36 24)

/-! ## Layers (06 R159) -/

/-- A layer-table entry. -/
def parseLayer (b : List Byte) : Layer :=
  let w := fun o => BitVec.ofNat 32 (field b o 4)
  { lid := w 0, frozen := field b 4 1 == 1, row := field b 5 1, master := w 8, fwd := w 12, trans := w 16 }

/-- An entry keeps to its table; `n4` says that a kind's recipe row names N4. -/
def layerOk (n4 : Nat → Bool) (b : List Byte) : Bool :=
  let l := parseLayer b
  decide (field b 4 1 ≤ 1) && (l.row == 1 || l.row == 5) && field b 6 2 == 0 && (!l.frozen || l.master == 0xFFFFFFFF#32) && zeroAt b 20 8 &&
    checkAt b 28 && (l.frozen || (!n4 l.row && l.trans != 0xFFFFFFFF#32))

/-! ## Stages (06 R163) -/

/-- A stage descriptor. -/
def parseStage (b : List Byte) : Stage :=
  { ix := field b 0 1, base := field b 1 1, global := field b 4 2, m := field b 6 2, f := field b 8 4, sf := field b 12 4, bk := field b 16 4,
    sb := field b 20 4, first := BitVec.ofNat 32 (field b 24 4), last := BitVec.ofNat 32 (field b 28 4), act := field b 32 8, quota := field b 40 8 }

/-- A descriptor keeps to its table. -/
def stageOk (layers : List Layer) (b : List Byte) : Bool :=
  let g := parseStage b
  decide (g.ix ≤ 7) && decide (g.base ≤ 15) && field b 2 2 == 0 && decide (1 ≤ g.m) && decide (g.m ≤ 256) && decide (1 ≤ g.sf) &&
    decide (g.sf ≤ 65535) && decide (1 ≤ g.sb) && decide (g.sb ≤ 65535) && layers.any (fun l => l.lid == g.first) &&
    layers.any (fun l => l.lid == g.last) && decide (1 ≤ g.act) && decide (g.act ≤ g.quota) && decide (g.quota ≤ 2 ^ 40) && zeroAt b 48 12 &&
    checkAt b 60

/-- Ranges of task ids that the stages name. -/
def stageRanges (gs : List Stage) : List (Nat × Nat) := gs.flatMap fun g => [(g.f, g.m * g.sf), (g.bk, g.m * g.sb)]

/-- The ranges keep apart and name tasks that the program holds. -/
def stagesOk (tasks : List TaskDesc) (gs : List Stage) : Bool :=
  distinct (gs.map (·.ix)) && disjoint (stageRanges gs) &&
    (stageRanges gs).all fun r => (List.range r.2).all fun i => tasks.any fun d => d.tid == r.1 + i

/-! ## The recipe (03 R61 to R63) -/

/-- An FP32 power of two with an exponent from `a` to `b`. -/
def pow2Ok (x : F32) (a b : Int) : Bool :=
  let e := (x.toNat / 2 ^ 23 : Int) - 127
  decide (x.toNat < 2 ^ 31) && x.toNat % 2 ^ 23 == 0 && decide (a ≤ e) && decide (e ≤ b)

/-- Formats that a row accepts (03 R63). -/
def rowFmtOk (kind fmt : Nat) : Bool :=
  match kind with
  | 1 => decide (2 ≤ fmt) && decide (fmt ≤ 6)
  | 2 => decide (2 ≤ fmt) && decide (fmt ≤ 5)
  | 3 => [2, 3, 5].contains fmt
  | 4 => [2, 3].contains fmt
  | 5 => [2, 3, 4].contains fmt
  | _ => decide (2 ≤ fmt) && decide (fmt ≤ 6)

/-- A recipe row. -/
def parseRow (b : List Byte) : RecipeRow :=
  { kind := field b 0 1, fmt := field b 1 1, hist := field b 2 1, margin := field b 3 1, texp := field b 4 1, uexp := field b 5 1,
    shN := field b 6 2, shR := field b 8 1, shRun := field b 9 1, jit := bit (field b 10 1) 0, group := bit (field b 10 1) 1,
    init := BitVec.ofNat 32 (field b 12 4) }

/-- A row keeps to its table. -/
def rowOk (kind : Nat) (b : List Byte) : Bool :=
  let r := parseRow b
  r.kind == kind && rowFmtOk kind r.fmt && decide (1 ≤ r.hist) && decide (r.hist ≤ 64) && decide (r.margin ≤ 15) && decide (1 ≤ r.texp) &&
    decide (r.texp ≤ 24) && decide (1 ≤ r.uexp) && decide (r.uexp ≤ 24) && decide (1 ≤ r.shR) && decide (r.shR ≤ 24) && decide (1 ≤ r.shRun) &&
    decide (field b 10 1 < 4) && field b 11 1 == 0 && pow2Ok r.init (-126) 127 && zeroAt b 16 44 && checkAt b 60

/-- The recipe of 448 bytes. -/
def parseRecipe (b : List Byte) : Recipe :=
  { compat := field b 8 1 == 1, initLs := BitVec.ofNat 32 (field b 12 4), cleanRun := field b 16 4,
    rows := (entries b 64 64 6).map parseRow }

/-- The recipe keeps to its tables. -/
def recipeOk (b : List Byte) : Bool :=
  let r := parseRecipe b
  field b 0 4 == 0x3152535A && field b 4 2 == 1 && field b 6 2 == 6 && decide (field b 8 1 ≤ 1) && zeroAt b 9 3 && pow2Ok r.initLs 0 30 &&
    decide (1 ≤ r.cleanRun) && decide (r.cleanRun ≤ 1000000) && zeroAt b 20 40 && checkAt (b.take 64) 60 &&
    (List.range 6).all fun i => rowOk (i + 1) (part b (64 + 64 * i) 64)

/-! ## PROGRAM_LOAD -/

/-- The first failing check of an image: its status, 0 where all pass (13 R363). -/
def imageStatus (bs : List Byte) : Nat :=
  let h := parseHeader bs
  let ts := entries bs h.taskOff 64 h.taskN
  let tasks := ts.map parseTask
  let ls := entries bs h.layerOff 32 h.layerN
  let layers := ls.map parseLayer
  let gs := entries bs h.stageOff 64 h.stageN
  let n4 := fun k => field bs (h.recOff + 64 * k + 1) 1 == 6
  if !(headerOk bs && tasks.all h.codeOk) then 0x220
  else if !(ts.all taskOk && distinct (tasks.map (·.tid))) then 0x220
  else if !(h.ruleOff == 0 || (entries bs h.ruleOff 64 16).all ruleOk) then 0x220
  else if !(decide (h.layerN ≤ 4096) && ls.all (layerOk n4) && distinct (layers.map (·.lid))) then 0x220
  else if !(gs.all (stageOk layers) && stagesOk tasks (gs.map parseStage)) then 0x220
  else if !recipeOk (part bs h.recOff 448) then 0x230
  else 0

/-- The program that an image holds. -/
def parseProg (addr : Nat) (bs : List Byte) : Prog :=
  let h := parseHeader bs
  { addr := addr, len := bs.length, codeOff := h.codeOff, codeLen := h.codeLen, tasks := (entries bs h.taskOff 64 h.taskN).map parseTask,
    rules := if h.ruleOff == 0 then [] else (entries bs h.ruleOff 64 16).map parseRule,
    layers := (entries bs h.layerOff 32 h.layerN).map parseLayer, stages := (entries bs h.stageOff 64 h.stageN).map parseStage,
    recipe := parseRecipe (part bs h.recOff 448) }

/-- A range lies wholly within T1 and T2 allocations of a context, which may adjoin (13 R362). -/
def State.inAllocs (s : State) (n a len : Nat) : Bool :=
  decide (1 ≤ len) && decide (t1Base ≤ a) && decide (a + len ≤ t2Base + t2Size) &&
    (upFrom (a / unit2M) ((a + len - 1) / unit2M - a / unit2M + 1)).all fun u =>
      s.allocs.any fun x => x.ctx == n && x.tier != 3 && !x.freeing && within (u * unit2M) unit2M x.base x.size

/-- Install a program: its task area replaces the old one, and the loss scale starts anew (07 R177, 09 R501). -/
def State.install (s : State) (n : Nat) (p : Prog) (base : Nat) : State :=
  let old := (s.ctx n).mem.taskArea
  let s := s.modCtx n fun k =>
    ({ k with prog := some p } : Ctx).modMem (fun m => { m with taskArea := some (base, p.areaUnits) }) |>.modStep fun t =>
      { t with scale := p.recipe.initLs, clean := 0 }
  match old with
  | some (b, u) => s.startFill 1 b u none none
  | none => s

/-- A PROGRAM_LOAD whose task area stands free but for ranges being filled waits for their fills (09 R222, R230). -/
def State.programWaits (s : State) (n : Nat) (c : Cmd) : Bool :=
  let bs := s.bytes (c.p 16 8) (c.p 24 8)
  let len := (parseProg (c.p 16 8) bs).areaUnits * unit2M
  s.inT1Allocs n (c.p 16 8) (c.p 24 8) && !(s.ctx n).runInProgress && imageStatus bs == 0 && (s.takeArea 0 len).isNone &&
    (s.filled.takeArea 0 len).isSome

/-- PROGRAM_LOAD (13 R363). One whose charge waits for a fill waits with it (09 R230). -/
def execProgramLoad (n : CtxN) (tag : Tag) (s : State) (replays : Nat := 0) : Host.Outcome State Fault Refusal :=
  .next (s.commandIf n.val 0x30 tag (fun c => !s.programWaits n.val c) fun c s =>
    let a := c.p 16 8
    let len := c.p 24 8
    let stop := fun (s : State) st => s.finish n.val 0x30 tag st 0 0
    if (s.ctx n.val).runInProgress then stop s 0x23E
    else if !s.inT1Allocs n.val a len then stop s 0x204
    else s.cross replays a 4 n.val none fun s =>
      match s.load a len with
      | (.inr w, s) => s.uncorrFault w 4 n.val none
      | (.inl bs, s) =>
        if imageStatus bs != 0 then stop s (imageStatus bs)
        else
          let p := parseProg a bs
          match s.takeArea 0 (p.areaUnits * unit2M) with
          | none => stop s 0x211
          | some b => stop (s.install n.val p b) 0)

end Sys2Proof.Machine
end

