-- ==== Sys2Proof/Machine/SnapOps.lean ====
section
/-!
DEFINITION. The stop of a snapshot, from the moment that no commit wave is outstanding (15 R401, R404, R410).
-/

namespace Sys2Proof.Machine

open Sys2Proof

/-- A SNAPSHOT ends with a status, and leaves nothing. -/
def State.failSnapshot (s : State) (n status : Nat) : State :=
  match (s.ctx n).snap.op with
  | some o => (s.endOp n).finish n 0x40 o.tag status 0 0
  | none => s

/-- The shape of the image that a snapshot takes, by its command; `none` where no retention record is held, or where the
regions are none or more than the header can count (15 R398, log 60). -/
def State.snapShape (s : State) (n : Nat) (retained : Bool) (c : Cmd) : Option Image :=
  let scaling := bit (c.p 8 1) 0
  let label := BitVec.ofNat 64 (c.p 16 8)
  (if retained then (s.ctx n).step.newestRetained.map fun r => s.retainedShape n scaling label r
   else some (s.wholeShape n scaling label)).filter Image.countOk

/-- The stop of an image to T2 staging: charge the generation, then copy (15 R401 steps 3 and 4). -/
def State.stopToT2 (s : State) (n : Nat) (im : Image) : State :=
  let g := (s.ctx n).snap.target
  let units := im.length / unit2M
  match s.takeT2 units [] with
  | none => s.failSnapshot n 0x23E
  | some st =>
    match s.chargeGen n g units with
    | none => s.failSnapshot n 0x210
    | some s =>
      match s.readRegions im.regions with
      | (.inr w, s) => s.uncorrFault w 4 n none
      | (.inl rs, s) =>
        (s.modOp n fun o => { o with gen := g, image := some { im with regions := rs }, start := s.now, begun := true, staging := st }).modSnapOf n
          fun k => { k with done := units }

/-- The stop of an image to the fabric: the held GRANTs of the peer are taken up (15 R401 step 4, R410). -/
def State.stopToFabric (s : State) (n : Nat) (im : Image) : State :=
  match s.readRegions im.regions with
  | (.inr w, s) => s.uncorrFault w 4 n none
  | (.inl rs, s) =>
    ((s.modOp n fun o => { o with image := some { im with regions := rs }, start := s.now, begun := true }).modSnapOf n fun k =>
      { k with done := 0 }).takeGrants n

/-- The stop of a context's snapshot begins once no commit wave is outstanding (15 R401). -/
def State.beginStop (s : State) (n : Nat) : State :=
  match (s.ctx n).snap.op with
  | none => s
  | some o =>
    if o.begun || !(o.kind == 1 || o.kind == 2) || (s.ctx n).step.wave.isSome then s
    else
      match s.cmd? n 0x40 o.tag true with
      | none => s
      | some c =>
        match s.snapShape n o.retained c with
        | none => s.failSnapshot n 0x23E
        | some im => if o.kind == 1 then s.stopToT2 n im else s.stopToFabric n im

end Sys2Proof.Machine
end

