-- ==== Sys2Proof/Machine/SchedOps.lean ====
section
/-!
DEFINITION. Which context a quarter runs: readiness, scheduling points, slices, and the stop that begins a switch (12 R311 to
R318).
-/

namespace Sys2Proof.Machine

open Sys2Proof

/-- Cores of a quarter. -/
def coresOf (q : Nat) : List Nat := upFrom (80 * q) 80

/-- The context has a runnable task that quarter `q` may take (12 R311). -/
def Ctx.poolReady (k : Ctx) (q : Nat) : Bool := k.pool.any fun t => t.pooled && (t.quarter == q || !t.pin)

/-- A save record of the context holds a pre-empted task of a core of quarter `q` (12 R311, R316). -/
def Ctx.heldReady (k : Ctx) (q : Nat) : Bool :=
  k.saved.any fun e => quarterOf e.1 == q && (match e.2 with | some c => c.task.isSome | none => false)

/-- A core holds a task of the context at the boundary where it stopped for a pre-emption, its record not yet written (12 R311, R315). -/
def Core.holdsOf (k : Core) (n : Nat) : Bool := k.ctx == some n && k.task.isSome && k.stopped

/-- A core of quarter `q` holds a pre-empted task of a context (12 R311). -/
def State.holdsTask (s : State) (n q : Nat) : Bool := (s.ctx n).heldReady q || (coresOf q).any fun c => (s.core c).holdsOf n

/-- A context is ready on a quarter (12 R311). A suspended context is ready on none (13 R364), and none is ready on a quarter
under partial reset (17 R456). -/
def State.readyOn (s : State) (n q : Nat) : Bool :=
  let k := s.ctx n
  !(s.rst.busy && s.rst.scope == 3 && s.rst.index == q) &&
  k.sched.st == 1 && !k.sched.suspended && (k.runs.any fun r => r.released) && (k.poolReady q || s.holdsTask n q)

/-- The highest class among the ready contexts of a quarter. -/
def State.topClass (s : State) (q : Nat) : Nat :=
  (List.range 16).foldl (fun m n => if s.readyOn n q then max m (s.ctx n).sched.cls else m) 0

/-- The ready context that a scheduling point chooses: of the highest class, the first in slot order after the one that last held the quarter in that class (12 R312). -/
def State.pick (s : State) (q : Nat) : Option Nat :=
  let top := s.topClass q
  let last := match SMap.get none (s.quarter q).lastOf top with | some n => n | none => 15
  ((List.range 16).map fun i => (last + 1 + i) % 16).find? fun n => s.readyOn n q && (s.ctx n).sched.cls == top

/-- Length of a context's next slice on a quarter, and the debt left after it, in microseconds (12 R318). -/
def CtxSched.nextSlice (h : CtxSched) (q : Nat) : Nat × Nat :=
  let full := h.slice * 1000
  let debt := SMap.get 0 h.debt q
  let len := max (full - debt) 100
  (len, debt - (full - len))

/-- A context begins a slice on a quarter (12 R312, R318). -/
def State.beginSlice (s : State) (q n : Nat) : State :=
  let (len, debt) := (s.ctx n).sched.nextSlice q
  let s := s.modCtx n fun k => k.modSched fun h => { h with debt := SMap.set 0 h.debt q debt }
  s.modQuarter q fun k => { k with slice := len, yielded := false, lastOf := SMap.set none k.lastOf (s.ctx n).sched.cls (some n) }

/-- Count a slice end at which the context is still ready and the quarter passes on (12 R323). -/
def State.countPreempt (s : State) (q n : Nat) : State :=
  (s.modCtx n fun k => k.modSched fun h => { h with preempt := satAdd 64 h.preempt 1 }).modQuarter q fun k => { k with counted := true }

/-- The incoming context's restore on a quarter starts: its RUNNING bit sets and its slice begins (12 R312, R315, R323). -/
def State.beginRestore (s : State) (q n : Nat) : State :=
  (s.modQuarter q fun k => { k with cur := some n, phase := 3, next := none }).beginSlice q n

/-- A core stands at a block boundary: without a task, stopped, past END, or waiting at a BLK (05 R121, R123, 12 R315). -/
def Core.atBoundary (k : Core) : Bool :=
  k.task.isNone || k.stopped || k.ended || (match k.wait with | some w => w.blk | none => false)

/-- A core that stands at a boundary with a task stops there; a BLK at which it waits runs again on resumption (05 R124, 12 R315). -/
def Core.stopHere (k : Core) : Core := if k.task.isSome && k.atBoundary then { k with stopped := true, wait := none } else k

/-- The cores of a quarter that stand at a boundary stop there (12 R315). -/
def State.stopBoundary (s : State) (q : Nat) : State := (coresOf q).foldl (fun s c => s.modCore c Core.stopHere) s

/-- A slice ends and the quarter is to pass to another context, or to none: cores at a block boundary stop, and the others stop at their next one (12 R315). -/
def State.endSlice (s : State) (q old : Nat) (new : Option Nat) : State :=
  let s := (s.modQuarter q fun k => { k with phase := 1, next := new, ended := s.now, counted := false }).stopBoundary q
  if new.isSome && s.readyOn old q then s.countPreempt q old else s

/-- A scheduling point. While the quarter is being switched, the choice of the next context is made anew. Else a free quarter takes a ready context, a higher class ends the slice, during its restore too, and a context that yielded gives way or begins anew (12 R312 to R314). -/
def State.reschedule (s : State) (q : Nat) : State :=
  let k := s.quarter q
  if !s.live then s
  else if k.phase == 1 || k.phase == 2 then
    (match s.pick q with | some n => s.modQuarter q fun k => { k with next := some n } | none => s)
  else
    match k.cur, s.pick q with
    | none, none => s
    | none, some n => s.beginRestore q n
    | some o, none => if (s.ctx o).sched.suspended then s.endSlice q o none else s
    | some o, some n =>
      if (s.ctx o).sched.suspended then s.endSlice q o (some n)
      else if n == o then (if k.yielded then s.beginSlice q o else s)
      else if k.yielded then
        (s.modQuarter q fun k => { k with phase := 2, next := some n, ended := s.now, counted := false })
      else if (s.ctx n).sched.cls > (s.ctx o).sched.cls then s.endSlice q o (some n)
      else s

/-- Scheduling points on every quarter. -/
def State.rescheduleAll (s : State) : State := (List.range 4).foldl (fun s q => s.reschedule q) s

end Sys2Proof.Machine
end

