-- ==== Sys2Proof/Machine/Tasks.lean ====
section
/-!
DEFINITION. Task pools, taking and completing tasks, stage admission, and the bound of a block (04 R106 to R114,
05 R121 to R123, 06 R163 to R166, 12 R311).
-/

namespace Sys2Proof.Machine

open Sys2Proof

/-! ## Stages (06 R163 to R166) -/

/-- Forward and backward ranges of a stage: does it hold a task id, and of which micro-batch. -/
def Stage.fwd? (g : Stage) (tid : Nat) : Option Nat := if g.f ≤ tid ∧ tid < g.f + g.m * g.sf then some ((tid - g.f) / g.sf) else none
def Stage.bwd? (g : Stage) (tid : Nat) : Option Nat := if g.bk ≤ tid ∧ tid < g.bk + g.m * g.sb then some ((tid - g.bk) / g.sb) else none

/-- Place of a task in the stages of a program: stage, micro-batch, and whether it is a forward task. -/
def Prog.stageOf (p : Prog) (tid : Nat) : Option (Stage × Nat × Bool) :=
  p.stages.findSome? fun g =>
    match g.fwd? tid with
    | some b => some (g, b, true)
    | none => (g.bwd? tid).map fun b => (g, b, false)

/-- Task of a RUN. -/
def Run.task? (r : Run) (tid : Nat) : Option TaskProg := r.tasks.find? fun t => t.tid == tid
/-- Change a task of a RUN. -/
def Run.modTask (r : Run) (tid : Nat) (f : TaskProg → TaskProg) : Run := { r with tasks := updFirst (fun t => t.tid == tid) f r.tasks }

/-- A stage's micro-batch has a task that has not completed. -/
def Run.batchOpen (r : Run) (g : Stage) (b : Nat) : Bool :=
  r.tasks.any fun t => t.st != 2 && (g.fwd? t.tid == some b || g.bwd? t.tid == some b)

/-- `b_min`: the lowest micro-batch of the RUN with a task that has not completed (06 R166). -/
def Run.bmin (r : Run) (p : Prog) : Nat :=
  (r.tasks.foldl (fun (m : Option Nat) t =>
    if t.st == 2 then m
    else match p.stageOf t.tid with
      | some (_, b, _) => (match m with | some x => some (min x b) | none => some b)
      | none => m) none).getD 0

/-- Priority of a runnable task: its descriptor's, or that of 06 R166 inside a stage range. -/
def Ctx.prioOf (k : Ctx) (t : PoolTask) : Nat :=
  match k.prog, k.run? t.run with
  | some p, some r =>
    match p.stageOf t.tid with
    | some (g, b, fwd) => (max 0 (min 15 ((g.base : Int) - 3 * ((b : Int) - r.bmin p) - (if fwd then 1 else 0)))).toNat
    | none => t.prio
  | _, _ => t.prio

/-! ## Pools (04 R107, R108) -/

/-- Enabled cores of a quarter (01 R12). -/
def State.enabledOf (s : State) (q : Nat) : Nat := SMap.get 80 s.rst.enabled q
/-- Runnable tasks in a quarter's pool of a context. -/
def Ctx.poolLen (k : Ctx) (q : Nat) : Nat := (k.pool.filter fun t => t.quarter == q && t.pooled).length

/-- The quarter whose pool holds the fewest runnable tasks, the lowest on a tie. -/
def Ctx.fewest (k : Ctx) : Nat := [1, 2, 3].foldl (fun m q => if k.poolLen q < k.poolLen m then q else m) 0

/-- Home quarter and PIN of a task as it becomes runnable (04 R107). -/
def State.homeOf (s : State) (k : Ctx) (d : TaskDesc) : Nat × Bool :=
  let q := if d.home == 0xFF then k.fewest else d.home
  if d.pin && s.enabledOf q == 0 then (((List.range 4).find? fun q => s.enabledOf q != 0).getD q, false) else (q, d.pin)

/-- The pools of a partition under partial reset (17 R456). -/
def State.poolsReset (s : State) (q : Nat) : Bool := s.rst.busy && s.rst.scope == 3 && s.rst.index == q

/-- One task becomes runnable: into its pool, or the queue of the task area when the pool is full. One that arrives at the pools of a partition
under partial reset is dropped (17 R456 step 2). -/
def State.poolAdd (s : State) (n : Nat) (run : Nat) (d : TaskDesc) : State :=
  if s.poolsReset (s.homeOf (s.ctx n) d).1 then
    (s.modCtx n fun k => k.modRun run fun r => r.modTask d.tid fun t => { t with st := 1 }).straggle 1
  else s.modCtx n fun k =>
    let (q, pin) := s.homeOf k d
    let t : PoolTask := { run := run, tid := d.tid, quarter := q, prio := d.prio, pin := pin, order := k.order, pooled := decide (k.poolLen q < 4096) }
    ({ k with pool := k.pool ++ [t] } : Ctx).modRun run fun r => r.modTask d.tid fun t => { t with st := 1 }

/-- Insert a RUN's task into a list in ascending task id, the earlier RUN first. -/
def insertTask (d : Nat × TaskDesc) : List (Nat × TaskDesc) → List (Nat × TaskDesc)
  | [] => [d]
  | e :: es => if d.2.tid < e.2.tid ∨ d.2.tid = e.2.tid ∧ d.1 ≤ e.1 then d :: e :: es else e :: insertTask d es

/-- Tasks, each a RUN and an id, become runnable in one clock, in ascending task id (04 R107, R108); the context may then be ready on more quarters (12 R312). -/
def State.makeRunnable (s : State) (n : Nat) (ids : List (Nat × Nat)) : State :=
  match (s.ctx n).prog with
  | none => s
  | some p =>
    let ds := (ids.filterMap fun i => (p.tasks.find? fun d => d.tid == i.2).map fun d => (i.1, d)).foldr insertTask []
    ((ds.foldl (fun s d => s.poolAdd n d.1 d.2) s).modCtx n fun k => { k with order := k.order + 1 }).rescheduleAll

/-- A task whose count is 0 waits for nothing else: a forward task of a stage waits for its micro-batch's admission (06 R164). -/
def Run.free (r : Run) (p : Prog) (tid : Nat) : Bool :=
  match p.stageOf tid with
  | some (g, b, true) => (r.stages.any fun x => x.ix == g.ix && decide (b < x.next))
  | _ => true

/-- Tasks of a RUN that are to become runnable. -/
def Run.due (r : Run) (p : Prog) : List (Nat × Nat) := (r.tasks.filter fun t => t.st == 0 && t.count == 0 && r.free p t.tid).map fun t => (r.id, t.tid)

/-- Admit micro-batches of a stage while its quota allows (06 R164). `n` bounds them. -/
def admitStage (g : Stage) : Nat → StageProg → StageProg
  | 0, x => x
  | n + 1, x =>
    if x.next < g.m ∧ (x.flight.length + 1) * g.act ≤ g.quota then admitStage g n { x with next := x.next + 1, flight := x.flight ++ [x.next] }
    else x

/-- Admit micro-batches of every stage of a RUN. -/
def Run.admitAll (r : Run) (p : Prog) : Run :=
  { r with stages := r.stages.map fun x => match p.stages.find? fun g => g.ix == x.ix with | some g => admitStage g g.m x | none => x }

/-- A micro-batch leaves flight when its last backward task completes (06 R164). -/
def Run.leave (r : Run) (p : Prog) : Run :=
  { r with stages := r.stages.map fun x =>
      match p.stages.find? fun g => g.ix == x.ix with
      | some g => { x with flight := x.flight.filter fun b => r.tasks.any fun t => t.st != 2 && g.bwd? t.tid == some b }
      | none => x }

/-- Admit what some RUNs may admit, and let their due tasks become runnable in one clock. -/
def State.advanceRuns (s : State) (n : Nat) (ids : List Nat) : State :=
  match (s.ctx n).prog with
  | some p =>
    let rs := (ids.filterMap (s.ctx n).run?).map fun r => (r.leave p).admitAll p
    (s.modCtx n fun k => rs.foldl (fun k r => k.modRun r.id fun _ => r) k).makeRunnable n (rs.flatMap fun r => r.due p)
  | none => s

/-- The same for one RUN. -/
def State.advanceRun (s : State) (n run : Nat) : State := s.advanceRuns n [run]

/-- Queued tasks of the task area enter their pools as entries free, in order (04 R107). -/
def Ctx.refill (k : Ctx) : Ctx :=
  { k with pool := (k.pool.foldl (fun (a : List PoolTask × SMap Nat) t =>
      if t.pooled then (a.1 ++ [t], a.2)
      else
        let used := (SMap.get 0 a.2 t.quarter) + k.poolLen t.quarter
        if used < 4096 then (a.1 ++ [{ t with pooled := true }], SMap.upd 0 a.2 t.quarter (· + 1)) else (a.1 ++ [t], a.2)) ([], [])).1 }

/-- The first of two runnable tasks in the order of 04 R108. -/
def Ctx.before (k : Ctx) (a b : PoolTask) : Bool :=
  let p := k.prioOf a
  let q := k.prioOf b
  p > q || (p == q && (a.order < b.order || (a.order == b.order && (a.tid < b.tid || (a.tid == b.tid && a.run < b.run)))))

/-- The best of some runnable tasks. -/
def Ctx.bestOf (k : Ctx) : List PoolTask → Option PoolTask
  | [] => none
  | t :: ts => match k.bestOf ts with | some u => if k.before u t then some u else some t | none => some t

/-- What a core of quarter `q` takes next, and whether it steals (04 R108). -/
def Ctx.nextTask (k : Ctx) (q : Nat) : Option (PoolTask × Bool) :=
  match k.bestOf (k.pool.filter fun t => t.quarter == q && t.pooled) with
  | some t => some (t, false)
  | none =>
    let offers := [1, 2, 3].filterMap fun i => k.bestOf (k.pool.filter fun t => t.quarter == (q + i) % 4 && t.pooled && !t.pin)
    match offers with
    | [] => none
    | o :: os => some (os.foldl (fun m t => if k.prioOf t > k.prioOf m then t else m) o, true)

/-! ## Taking a task (04 R108 to R111) -/

/-- The core is enabled, awake, and belongs to a quarter that a context runs. -/
def State.idleIn (s : State) (c : Nat) : Option Nat :=
  let k := s.core c
  let q := s.quarter (quarterOf c)
  if s.live && s.pwr.rest == 0 && s.coreExists c && k.task.isNone && !k.halted && !k.stopped && q.phase == 0 && !(s.rst.busy && s.rst.hasCore c) then q.cur
  else none

/-- A core's state at the start of a task (04 R110). -/
def Core.startTask (k : Core) (n : Nat) (t : TaskRun) (arg : BitVec 64) (code : List (BitVec 64)) : Core :=
  { k with ctx := some n, task := some t, code := code, pc := 0,
           a := SMap.set (0#64) (SMap.set (0#64) [] 0 arg) 1 (BitVec.ofNat 64 t.tid), l := [], f := [],
           keep0 := false, keep1 := false, owe0 := false, owe1 := false, acc0 := none, acc1 := none,
           block := none, clocks := 0, ended := false, afterBlk := false, layer := none, wait := none, clockOff := false }

/-- The words of a code block read from T1 (04 R98); an unreadable word stops the load (09 R237). -/
def State.readCode (s : State) (a n : Nat) : (List (BitVec 64) ⊕ Nat) × State :=
  match s.load a (8 * n) with
  | (.inl bs, s) => (.inl (bytesWords bs), s)
  | (.inr w, s) => (.inr w, s)

/-- A core starts a task: code block, registers, and the check of its first word (04 R98, R110, 05 R121). -/
def State.startTask (s : State) (c n : Nat) (r : Run) (d : TaskDesc) (base : Nat) : State :=
  match s.readCode (base + d.entry) d.len with
  | (.inr w, s) => s.uncorrFault w 0 n (some (c, BitVec.ofNat 32 d.tid))
  | (.inl code, s) =>
    let arg := BitVec.ofNat 64 ((d.arg.toNat + r.argOff.toNat) % 2 ^ 48)
    let s := s.modCore c fun k => k.startTask n { run := r.id, tid := d.tid } arg code
    if (code.headD 0#64).extractLsb' 56 8 == 0x01#8 then s else s.insnFault c

/-- Take a task out of the context's pool and count it. -/
def Ctx.takeOut (k : Ctx) (t : PoolTask) (steal : Bool) : Ctx :=
  ({ k with pool := k.pool.filter fun u => u != t } : Ctx).refill.modArith fun a =>
    if steal then { a with stolen := satAdd 31 a.stolen 1 } else { a with taken := satAdd 32 a.taken 1 }

/-- TASK_TAKE: an idle core takes a task of its quarter's context, or steals one; with none to take its clock stops (04 R108, R111). -/
def execTaskTake (c : CoreId) (s : State) (replays : Nat := 0) : Host.Outcome State Fault Refusal :=
  .next (
    match s.idleIn c.val with
    | none => s
    | some n =>
      let k := s.ctx n
      if (s.core c.val).clockOff then s
      else
        match k.nextTask (quarterOf c.val) with
        | none => s.modCore c.val fun k => { k with clockOff := true }
        | some (t, steal) =>
          match k.prog, k.run? t.run with
          | some p, some r =>
            match p.tasks.find? fun d => d.tid == t.tid with
            | some d => (s.modCtx n fun k => k.takeOut t steal).cross replays (p.addr + d.entry) 0 n (some (c.val, BitVec.ofNat 32 d.tid))
                fun s => s.startTask c.val n r d p.addr
            | none => s
          | _, _ => s)

/-- CORE_CLOCK_RESTART: a task is runnable in a pool that a stopped core may take from (04 R111). -/
def execCoreClockRestart (c : CoreId) (s : State) : Host.Outcome State Fault Refusal :=
  .next (
    match s.idleIn c.val with
    | none => s
    | some n =>
      if (s.core c.val).clockOff && ((s.ctx n).nextTask (quarterOf c.val)).isSome then s.modCore c.val fun k => { k with clockOff := false } else s)

/-! ## Completing a task (04 R102, R110) -/

/-- Decrement the count of one successor (04 R110). -/
def State.dropDep (s : State) (n run c : Nat) (who : BitVec 32) (tid : Nat) : State :=
  match (s.ctx n).run? run with
  | none => s
  | some r =>
    match r.task? tid with
    | some t => if t.count == 0 then s.illegalTask n c who
        else s.modCtx n fun k => k.modRun run fun r => r.modTask tid fun t => { t with count := t.count - 1 }
    | none => s.illegalTask n c who

/-- Nothing that the task issued is outstanding; a shadow recomputation may outlive it (04 R102, 05 R132). -/
def Core.taskQuiet (k : Core) : Bool :=
  k.vq.isEmpty && k.mq0.isEmpty && k.mq1.isEmpty && k.dq.isEmpty && k.dma.isEmpty && k.remote.isEmpty && !k.latch0 && !k.latch1

/-- A task ends: semaphore, successors, and the core is idle. -/
def State.endTask (s : State) (c n : Nat) (t : TaskRun) (d : TaskDesc) : State :=
  let who := BitVec.ofNat 32 t.tid
  let s := s.modCore c fun k => { k with task := none, ended := false, code := [], block := none }
  let s := s.modCtx n fun k => k.modRun t.run fun r => { r.modTask t.tid (fun x => { x with st := 2 }) with ran := r.ran + 1 }
  let s := if d.sem == 0xFFFF then s else s.semInc n d.sem 1 (some (c, who))
  let s := d.succ.foldl (fun s i => if i == 0xFFFFFFFF then s else s.dropDep n t.run c who i) s
  s.advanceRun n t.run

/-- TASK_COMPLETE: a core that has executed END and whose task's work is done completes the task (04 R102, R110). The core takes its next task by TASK_TAKE. -/
def execTaskComplete (c : CoreId) (s : State) : Host.Outcome State Fault Refusal :=
  .next (
    let k := s.core c.val
    match k.ctx, k.task with
    | some n, some t =>
      if !k.ended || !k.taskQuiet || k.halted then s
      else
        match (s.ctx n).prog with
        | some p => (match p.tasks.find? fun d => d.tid == t.tid with | some d => s.endTask c.val n t d | none => s)
        | none => s
    | _, _ => s)

/-! ## The bound of a block (05 R122, R123) -/

/-- Array clocks of a cost class (05 R122). -/
def classBound (cls : Nat) : Nat :=
  match cls with
  | 0 => 16384 | 1 => 65536 | 2 => 262144 | 3 => 524288 | 4 => 1048576 | 5 => 2097152 | _ => 2621440

/-- BLOCK_BOUND_EXPIRY: an open block's clocks reach its class bound, and the core raises FC_HANG (05 R123). -/
def execBlockBoundExpiry (c : CoreId) (s : State) : Host.Outcome State Fault Refusal :=
  .next (
    let k := s.core c.val
    match k.block with
    | none => s
    | some b =>
      if k.task.isNone || k.halted then s
      else
        (s.modCore c.val fun k => { k with halted := true, clocks := classBound b.cls }).fatal
          { cls := 0x100, ctx := k.ctxNum, subject := s.link.coord, insn := true, coreValid := true, core := c.val, word := b.pc,
            task := k.taskId, instr := b.word, detail := BitVec.ofNat 64 (classBound b.cls + b.cls * 2 ^ 32) })

end Sys2Proof.Machine
end

