-- ==== Sys2Proof/Machine/Runs.lean ====
section
/-!
DEFINITION. RUNs: admission, the release of their tasks, their end, the local commit and the commit wave (03 R68, R69,
06 R165, 07 R177 to R184, 08 R208, 13 R364).
-/

namespace Sys2Proof.Machine

open Sys2Proof

/-! ## Lasts that RUNs use (08 R207, R208) -/

/-- Last A (1) or Last B (2). -/
def State.last (s : State) (i : Nat) : Last := if i == 2 then s.lastB else s.lastA
/-- Replace a last. -/
def State.setLast (s : State) (i : Nat) (l : Last) : State := if i == 2 then { s with lastB := l } else { s with lastA := l }

/-- The last that a RUN's last field gives: 0 none, 1 Last A, 2 Last B; `none` where it cannot be given (08 R208). -/
def State.giveLast (s : State) (field : Nat) : Option Nat :=
  let served := fun i => let st := (s.last i).st; st == 3 || st == 4
  if field == 0 then some 0
  else if field == 1 then
    let i := if s.lastPtr.active then 2 else 1
    if s.lastPtr.valid && (s.last i).st == 3 then some i else none
  else if served (field - 1) then some (field - 1) else none

/-- A RUN takes its last. -/
def State.takeLast (s : State) (i : Nat) : State :=
  if i == 0 then s else s.setLast i { s.last i with inflight := (s.last i).inflight + 1 }

/-- A RUN gives its last back; a DRAINING last whose count falls to 0 is READY (08 R207, R208). -/
def State.dropLast (s : State) (i : Nat) : State :=
  if i == 0 then s
  else
    let l := s.last i
    let l := { l with inflight := l.inflight - 1 }
    s.setLast i (if l.st == 4 && l.inflight == 0 then { l with st := 2 } else l)

/-! ## The step block and the ledger (07 R178, R184) -/

/-- The 64 bytes of a step block. -/
def stepBlockBytes (epoch : Nat) (t : CtxStep) (prev replay : Bool) : List Byte :=
  let b := natLe 8 epoch ++ natLe 4 t.scale.toNat ++ natLe 4 (invOf t.scale).toNat ++ natLe 4 t.clean ++
    [BitVec.ofNat 8 (b2n prev + 2 * b2n replay)] ++ List.replicate 39 0#8
  b ++ natLe 4 (crc32c b).toNat

/-- Write the step block for a step. -/
def State.putStepBlock (s : State) (n epoch : Nat) (prev replay : Bool) : State :=
  match (s.ctx n).mem.control with
  | some a => (s.store a (stepBlockBytes epoch (s.ctx n).step prev replay)).2
  | none => s

/-- Read whether the step block names a step whose predecessor's decision was set; an unreadable word is answered (07 R178, 09 R237). DESIGN CHOICE:
after a RESTORE, too, it is what the block left in T1 says, and clear where that block is another step's (log 116). -/
def State.prevSet (s : State) (n epoch : Nat) : (Bool ⊕ Nat) × State :=
  match (s.ctx n).mem.control with
  | some a =>
    match s.load a 64 with
    | (.inl b, s) => (.inl (field b 0 8 == epoch && bit (field b 20 1) 0), s)
    | (.inr w, s) => (.inr w, s)
  | none => (.inl false, s)

/-- The ledger takes a slot's job seed, applied and committed epochs (07 R184). -/
def State.ledgerSlot (s : State) (n : Nat) : State :=
  let t := (s.ctx n).step
  { s with hlt := { s.hlt with slots := SMap.set (0#64, 0, 0) s.hlt.slots n (t.seed, t.applied, t.committed) } }

/-! ## Release of a RUN's tasks -/

/-- Change a context's step part. -/
def State.modStepOf (s : State) (n : Nat) (f : CtxStep → CtxStep) : State := s.modCtx n fun k => k.modStep f

/-- What stands before a RUN's first tasks: the step's scales, descales and step block (03 R68, 07 R178). -/
def State.prepRun (n : Nat) (s : State) (id : Nat) : State :=
  match (s.ctx n).run? id with
  | none => s
  | some r =>
    let go := fun (s : State) => s.modCtx n fun k => k.modRun id fun r => { r with released := true }
    if !r.step then go s
    else
      match s.prevSet n r.epoch with
      | (.inr w, s) => s.uncorrFault w 4 n none
      | (.inl prev, s) => go (((s.modCtx n fun k => k.formScalesNow r.replay).firmDescales n r.scaleUse).putStepBlock n r.epoch prev r.replay)

/-- RUNs release their first tasks, in one clock (04 R107, R108). -/
def State.releaseRuns (s : State) (n : Nat) (ids : List Nat) : State := (ids.foldl (State.prepRun n) s).advanceRuns n ids
/-- A RUN releases its first tasks. -/
def State.releaseRun (s : State) (n id : Nat) : State := s.releaseRuns n [id]

/-- Release every RUN that a commit wave held (07 R179, R184). -/
def State.releaseHeld (s : State) (n : Nat) : State :=
  match (s.ctx n).runs.filter fun r => !r.released with
  | [] => s
  | rs => s.releaseRuns n (rs.map (·.id))

/-! ## The commit wave (07 R183, R184) -/

/-- Step `e` is committed on the module. A snapshot that waited for the wave begins its stop (15 R401). -/
def State.committed (s : State) (n e : Nat) : State :=
  let prev := (e + 2 ^ 48 - 1) % 2 ^ 48
  let s := s.modStepOf n fun t =>
    { t with committed := e, wave := none, retained := t.retained.filter fun r => r.epoch != prev, journal := t.journal.filter fun j => j.epoch != prev }
  ((s.ledgerSlot n).releaseHeld n).beginStop n

/-- Contribute the applied step to its commit wave: begin it, or contribute again to the one that still runs (07 R183, R184). A module in no job group commits at once. -/
def State.contribute (s : State) (n : Nat) : State :=
  let e := (s.ctx n).step.applied
  if !s.link.member then s.committed n e
  else match (s.ctx n).step.wave with
    | some w => if w.epoch == e then s.sendWave n else s.startWave n e
    | none => s.startWave n e

/-- COMMIT_WAVE_COMPLETE: the combined words have returned over every dimension of the group (07 R183). -/
def execCommitWaveComplete (n : CtxN) (s : State) (replays : Nat := 0) : Host.Outcome State Fault Refusal :=
  .next (
    match (s.ctx n.val).step.wave with
    | none => s
    | some w =>
      if w.stage < s.groupDims.length then s
      else if w.mins != w.maxs then (s.setWave n.val none).epochMismatch n.val 0
      else s.cross replays (s.ctx n.val).step.block 4 n.val none fun s => s.committed n.val w.epoch)

/-! ## RUN (13 R364) -/

/-- Pages of a release range are DEVICE pages of the context. -/
def State.rangeDevice (s : State) (n first count : Nat) : Bool :=
  decide (first + count ≤ 131072) &&
    (upFrom first count).all fun p => (s.page p).owner == 2 && s.inAlloc n (pageBase p) unit2M

/-- T1 units that a RUN reserves: the stages' quotas, and the journal at the first training RUN (06 R165, 07 R182). DESIGN CHOICE: the sum
of the stages' Q is rounded up to 2 MiB once, not each Q; 06 R165 does not say how a Q that is no multiple of 2 MiB counts. -/
def runUnits (p : Prog) : Nat :=
  let n := (p.stages.map (·.quota)).sum
  if n % unit2M == 0 then n / unit2M else n / unit2M + 1
def journalUnits (t : CtxStep) (step : Bool) : Nat := if step && !t.journalRes then 16 else 0

/-- What a step holds as its RUN starts: a replay's decision is the recorded one (07 R181). -/
def CtxStep.begin (t : CtxStep) (e : Nat) : CtxStep :=
  let t := { t with ovfBit := false, fixed := false, stepctl := false, decided := false, decision := false, aborted := none }
  match t.retention e with
  | some r => { t with decided := true, decision := r.decision, fixed := true }
  | none => t

/-- The RUN of a command. -/
def State.newRun (s : State) (n : Nat) (tag : BitVec 16) (c : Cmd) (p : Prog) (last units : Nat) : Run :=
  let k := s.ctx n
  let e := c.p 16 8
  { id := k.nextRun, tag := tag, epoch := e, step := e != noStep, argOff := BitVec.ofNat 64 (c.p 24 8), latched := last,
    relFirst := c.p 32 4, relCount := c.p 36 4, released := false, replay := e != noStep && k.step.isReplay e,
    serveIx := k.arith.serveCount, scaleIx := ((k.runs.find? fun r => !r.step).map (·.scaleIx)).getD k.arith.serveCount,
    tasks := p.tasks.map fun d => { tid := d.tid, count := d.deps, st := 0 },
    stages := p.stages.map fun g => { ix := g.ix, next := 0, flight := [] }, reserved := units, ran := 0, seq := k.nextRun, rerun := [] }

/-- A non-step RUN takes the next serving index (03 R69). -/
def Ctx.admitServe (k : Ctx) : Ctx := k.modArith fun a => { a with serveCount := (a.serveCount + 1) % 2 ^ 48 }

/-- A non-step RUN forms the serving scales, and their descales, when no other is in progress (03 R69). -/
def State.serveScales (s : State) (n : Nat) (r : Run) : State :=
  if (s.ctx n).runs.any (fun r => !r.step) then s else (s.modCtx n Ctx.formServe).firmDescales n r.scaleUse

/-- Admit a RUN: last, reservations, records; its tasks are released unless a commit wave is outstanding (07 R179, R184). -/
def State.admitRun (s : State) (n : Nat) (tag : BitVec 16) (c : Cmd) (p : Prog) (last : Nat) : State :=
  let units := runUnits p
  let t := (s.ctx n).step
  let r := s.newRun n tag c p last units
  let s := (s.takeLast last).addUsed n 1 (units + journalUnits t r.step)
  let s := if r.step then s else s.serveScales n r
  let s := s.modCtx n fun k =>
    let k := if r.step then k.modStep fun t => { t.begin r.epoch with journalRes := true } else k.admitServe
    { k with runs := k.runs ++ [r], nextRun := k.nextRun + 1 }
  let t := (s.ctx n).step
  if t.wave.isSome || t.committed != t.applied then s.contribute n else s.releaseRun n r.id

/-- A SNAPSHOT of the live state holds the context's RUNs (15 R401), and so does a RESTORE that installs an image (log 50). -/
def CtxSnap.stopping (k : CtxSnap) : Bool := match k.op with | some o => [1, 2, 4, 5].contains o.kind | none => false

/-- The charge of a RUN in T1 for its stages and its journal: both within the quota, each with a free range of its size, and room for both
(06 R165, 07 R182, 09 R222, log 110). -/
def State.chargeRun (s : State) (n units journal : Nat) : Charge :=
  let room := fun u more => if u == 0 then .ok 0 else s.findRoom 1 4 u more
  if units + journal == 0 then .ok 0
  else if (s.ctx n).usedIn 1 + (units + journal) > (s.ctx n).mem.limit 1 then .overQuota
  else match room units journal, room journal units with
    | .exhausted, _ => .exhausted
    | _, .exhausted => .exhausted
    | .wait, _ => .wait
    | _, .wait => .wait
    | c, _ => c

/-- Status of the first check that a RUN fails, in the order of 13 R364, or 0. -/
def State.runStatus (s : State) (n : Nat) (c : Cmd) : Nat :=
  let k := s.ctx n
  let e := c.p 16 8
  if !s.rangeDevice n (c.p 32 4) (c.p 36 4) then 0x204
  else if k.prog.isNone then 0x223
  else if e != noStep && e == k.step.applied then 0x231
  else if e != noStep && e != (k.step.applied + 1) % 2 ^ 48 then 0x232
  else if (s.giveLast (c.p 8 1)).isNone then 0x238
  else 0

/-- The charge of a RUN's command: its stages, and the journal at the first training RUN. -/
def State.runCharge (s : State) (n : Nat) (c : Cmd) (p : Prog) : Charge :=
  s.chargeRun n (runUnits p) (journalUnits (s.ctx n).step (c.p 16 8 != noStep))

/-- A RUN that passes its checks waits where its charge does: for the fill of a range that is on its way back to the free pool (09 R230). -/
def State.runWaits (s : State) (n : Nat) (c : Cmd) : Bool :=
  match (s.ctx n).prog with
  | some p => s.runStatus n c == 0 && s.runCharge n c p == .wait
  | none => false

/-- RUN (13 R364, 07 R179, 08 R208, 06 R165, 09 R222). While a reshard or a stop of the context is in progress, or its charge waits for a fill, it is held (11 R295, 15 R401, 09 R230). -/
def execRun (n : CtxN) (tag : Tag) (s : State) : Host.Outcome State Fault Refusal :=
  .next (
    if (s.ctx n.val).step.reshard.isSome || (s.ctx n.val).snap.stopping then s
    else
      s.commandIf n.val 0x31 tag (fun c => !s.runWaits n.val c) fun c s =>
        let stop := fun (s : State) st => s.finish n.val 0x31 tag st 0 0
        if s.runStatus n.val c != 0 then stop s (s.runStatus n.val c)
        else
          match (s.ctx n.val).prog, s.giveLast (c.p 8 1) with
          | some p, some l =>
            match s.runCharge n.val c p with
            | .overQuota => stop s 0x210
            | .exhausted => stop s 0x211
            | _ => s.admitRun n.val tag c p l
          | _, _ => s)

/-! ## The end of a RUN -/

/-- The release range's pages that are still the context's and DEVICE pass to HOST (13 R348, R364). -/
def State.releasePages (s : State) (n : Nat) (r : Run) : State :=
  (upFrom r.relFirst r.relCount).foldl (fun s p => if (s.page p).owner == 2 && s.inAlloc n (pageBase p) unit2M then s.setOwner p 1 else s) s

/-- A RUN leaves the context: last, pages, reservation. -/
def State.leaveRun (s : State) (n : Nat) (r : Run) : State :=
  (((s.modCtx n fun k => { k with runs := k.runs.filter fun x => x.id != r.id, pool := k.pool.filter fun t => t.run != r.id }).dropLast
    r.latched).releasePages n r).subUsed n 1 r.reserved

/-- An aborted RUN: no commit; a step whose decision had not latched keeps no retention record (03 R58, 07 R181). -/
def State.abortRun (s : State) (n : Nat) (r : Run) : State :=
  let s := s.modCtx n fun k => k.dropPends r.id
  let s := if r.step then s.modStepOf n fun t =>
      { t with aborted := some r.epoch, retained := if t.decided then t.retained else t.retained.filter fun x => x.epoch != r.epoch,
               decided := false, decision := false, fixed := false, stepctl := false, ovfBit := false }
    else s
  s.leaveRun n r

/-- The loss scale and the clean count after a step (07 R177). -/
def CtxStep.nextLoss (t : CtxStep) (cleanRun : Nat) : F32 × Nat :=
  if !t.decided then (t.scale, t.clean)
  else if t.decision then (if t.scale == 0x3F800000#32 then t.scale else t.scale - 0x00800000#32, 0)
  else if t.clean + 1 < cleanRun then (t.scale, t.clean + 1)
  else (if t.scale == 0x4E800000#32 then t.scale else t.scale + 0x00800000#32, 0)

/-- The loss-scale part of a local commit: L, n, the skipped count, the rescaled gradient histories (07 R177, 03 R67). -/
def Ctx.commitLoss (k : Ctx) : Ctx :=
  let run := match k.prog with | some p => p.recipe.cleanRun | none => 1
  let (l, c) := k.step.nextLoss run
  let old := k.step.scale
  let k := k.modArith fun a => { a with skipped := satAdd 24 a.skipped (b2n (k.step.decided && k.step.decision)) }
  let k := if l == old then k else k.scaleHist (if old.toNat < l.toNat then 0x40000000#32 else 0x3F000000#32)
  k.modStep fun t => { t with scale := l, clean := c }

/-- The local commit of a step (07 R180). -/
def State.localCommit (s : State) (n : Nat) (r : Run) : State :=
  let set := (s.ctx n).step.decided && (s.ctx n).step.decision
  let s := s.modCtx n fun k => ((k.mergeAll.commitRecs r).modStep fun t => { t with applied := r.epoch }).commitLoss
  let s := (s.modStepOf n fun t => { t with decided := false, decision := false, fixed := false, stepctl := false, ovfBit := false }).ledgerSlot n
  ((s.contribute n).putStepBlock n ((r.epoch + 1) % 2 ^ 48) set false).govPeriod

/-- Nothing of a RUN is outstanding: tasks, collectives, shadow recomputations (11 R283, 12 R317). -/
def State.runDone (s : State) (n : Nat) (r : Run) : Bool :=
  r.released && r.tasks.all (fun t => t.st == 2) && !(s.colls.any fun c => c.ctx == n && c.owner == 0 && c.run == r.id) &&
    !(s.cores.any fun e => e.2.shadow.any fun t => t.ctx == n && t.run == r.id)

/-- RUN_END: a RUN whose tasks and collectives are done ends; a step commits locally (07 R180, 03 R69, 13 R364). -/
def execRunEnd (n : CtxN) (tag : Tag) (s : State) (replays : Nat := 0) : Host.Outcome State Fault Refusal :=
  .next (
    match (s.ctx n.val).runs.find? fun r => r.tag == tag with
    | none => s
    | some r =>
      if !s.live || !s.runDone n.val r then s
      else s.cross replays (s.ctx n.val).step.block 4 n.val none fun s =>
        let s := if r.step then s.localCommit n.val r else s.modCtx n.val fun k => k.mergeAll.commitRecs r
        (s.leaveRun n.val r).finish n.val 0x31 tag 0 (lastResult r.latched) r.ran)

end Sys2Proof.Machine
end

