-- ==== Sys2Proof/Machine/Sched.lean ====
section
/-!
DEFINITION. The switch of a quarter, and PREEMPT (12 R312 to R318, 13 R364).
-/

namespace Sys2Proof.Machine

open Sys2Proof

/-! ## Suspension (13 R364) -/

/-- No quarter runs a context. -/
def State.onNoQuarter (s : State) (n : Nat) : Bool := (List.range 4).all fun q => (s.quarter q).cur != some n

/-- Suspends of contexts that no quarter runs complete (13 R364). -/
def State.endSuspends (s : State) : State :=
  ((s.ctx 16).host.cmds.filter fun c => c.opcode == 0x32 && c.running).foldl
    (fun s c => if s.onNoQuarter (c.p 8 1) then s.finish 16 0x32 c.tag 0 0 0 else s) s

/-- PREEMPT with action 0 (13 R364). -/
def execPreemptSuspend (tag : Tag) (s : State) : Host.Outcome State Fault Refusal :=
  .next (s.commandIf 16 0x32 tag (fun c => c.p 9 1 == 0) fun c s =>
    let n := c.p 8 1
    if (s.ctx n).sched.st != 1 then s.finish 16 0x32 tag 0x23D 0 0
    else ((s.modCtx n fun k => k.modSched fun h => { h with suspended := true }).rescheduleAll).endSuspends)

/-- PREEMPT with action 1 (13 R364). -/
def execPreemptResume (tag : Tag) (s : State) : Host.Outcome State Fault Refusal :=
  .next (s.commandIf 16 0x32 tag (fun c => c.p 9 1 == 1) fun c s =>
    let n := c.p 8 1
    if (s.ctx n).sched.st != 1 then s.finish 16 0x32 tag 0x23D 0 0
    else ((s.modCtx n fun k => k.modSched fun h => { h with suspended := false }).finish 16 0x32 tag 0 0 0).rescheduleAll)

/-! ## Ends of slices (12 R312, R314, R318) -/

/-- SLICE_EXPIRY: a quarter's slice ends; its context begins another at once when no other is to have the quarter (12 R312). -/
def execSliceExpiry (q : QuarterId) (s : State) : Host.Outcome State Fault Refusal :=
  .next (
    let k := s.quarter q.val
    match k.cur with
    | none => s
    | some o =>
      if k.phase != 0 || !s.live then s
      else
        match s.pick q.val with
        | none => s.beginSlice q.val o
        | some n => if n == o then s.beginSlice q.val o else s.endSlice q.val o (some n))

/-- Every core of a quarter is without a task. -/
def State.coresFree (s : State) (q : Nat) : Bool := (coresOf q).all fun c => (s.core c).task.isNone

/-- YIELD_IDLE_TIMER: the running context is not ready and its cores have been without a task for 20 us; it yields, and keeps the quarter while no other context is ready (12 R314). -/
def execYieldIdleTimer (q : QuarterId) (s : State) : Host.Outcome State Fault Refusal :=
  .next (
    let k := s.quarter q.val
    match k.cur with
    | none => s
    | some o =>
      if k.phase != 0 || !s.live || s.readyOn o q.val || !s.coresFree q.val then s
      else (s.modQuarter q.val fun k => { k with yielded := true }).reschedule q.val)

/-- Charge an overrun to a context and a quarter (12 R318). -/
def CtxSched.charge (h : CtxSched) (q n : Nat) : CtxSched :=
  { h with overrun := satAdd 64 h.overrun n, debt := SMap.set 0 h.debt q (min (SMap.get 0 h.debt q + n) 65535) }

/-- PREEMPT_BOUNDARY_REACHED: the last core has reached a boundary; the overrun is charged, and the drain and the save follow (12 R315, R318). -/
def execPreemptBoundaryReached (q : QuarterId) (s : State) : Host.Outcome State Fault Refusal :=
  .next (
    let k := s.quarter q.val
    match k.cur with
    | none => s
    | some o =>
      if k.phase != 1 || !s.live || !((coresOf q.val).all fun c => (s.core c).atBoundary) then s
      else
        let s := s.stopBoundary q.val
        let s := s.modCtx o fun x => x.modSched fun h => h.charge q.val (s.now - k.ended)
        let s := if k.next.isSome && k.next != some o && !k.counted && s.readyOn o q.val then s.countPreempt q.val o else s
        (s.modQuarter q.val fun k => { k with phase := 2 }).reschedule q.val)

/-! ## Save and restore (12 R315, R316) -/

/-- Copy a range of bytes through the word code; an unreadable word ends the copy (09 R228, R237). A block under partial reset is read as zeros,
and a copy into it is dropped (17 R456). -/
def State.copyRange (s : State) (src dst n : Nat) : Option Nat × State :=
  if s.inReset dst n then (none, s.straggle 1)
  else if s.inReset src n then (none, (s.straggle 1).fill dst n)
  else match s.meetWords 0 (s.badIn src n) with
  | (some w, s) => (some w, s)
  | (none, s) =>
    let part := s.mem.filter fun e => decide (src ≤ e.1) && decide (e.1 < src + n)
    let s := s.zero dst n
    (none, ({ s with mem := part.foldl (fun m e => SMap.set (0#8) m (e.1 - src + dst) e.2) s.mem } : State).afterStore dst n)

/-- What a save record keeps of a core's registers (12 R316). -/
def Core.record (k : Core) : Core := { k with stopped := false, wait := none, code := [], clockOff := false, halted := false }

/-- Bytes of S0 to S2047 in a save record (12 R316). -/
def Core.scaleBytes (k : Core) : List Byte := (List.range 2048).flatMap fun i => natLe 4 (SMap.get 0x3F800000#32 k.s i).toNat

/-- Bytes of an accumulator in a save record (12 R316). -/
def accBytes (l : List F32) : List Byte := l.flatMap fun x => natLe 4 x.toNat

/-- Words of 32 bits of a save record. -/
def recordWords (bs : List Byte) (n : Nat) : List F32 := (List.range n).map fun i => BitVec.ofNat 32 (field bs (4 * i) 4)

/-- The registers of a save record at address `a` are written: S0 to S2047, the accumulators held by KEEP, and the block of the other registers, whose layout the spec does not give; what holds no accumulator is undefined (12 R316, log 61). -/
def State.saveRegs (s : State) (k : Core) (a : Nat) : State :=
  let s := s.undefBytes (a + 0x600000) 0xB000
  let s := s.setBytes (a + 0x600000) k.scaleBytes
  let s := match k.acc0 with | some l => s.setBytes (a + 0x602000) (accBytes l) | none => s
  let s := match k.acc1 with | some l => s.setBytes (a + 0x606000) (accBytes l) | none => s
  s.afterStore (a + 0x600000) 0xB000

/-- What a save finds in a core's registers: those of a block under partial reset are as after a reset (17 R456). -/
def State.savedCore (s : State) (c : Nat) : Core := if s.rst.busy && s.rst.hasCore c then {} else s.core c

/-- Write a core's save record: the store, S0 to S2047 and the held accumulators into T1, the other registers beside them (12 R315, R316). A core that the context's restore has not reached yet keeps the record it has. -/
def State.saveCore (n : Nat) (s : State) (c : Nat) : State :=
  if !s.coreExists c || (s.core c).ctx != some n then s
  else
    let k := s.savedCore c
    let s := s.modCtx n fun x => { x with saved := SMap.set none x.saved c (some k.record) }
    let s := match s.recordAddr n c with
      | none => s
      | some a =>
        match s.copyRange (coreBase c) a coreSize with
        | (some w, s) => s.uncorrFault w 4 n none
        | (none, s) => s.saveRegs k a
    (s.setCore c {}).zero (coreBase c) coreSize

/-- Base of a context's save area in a quarter region; 0 for none (12 R316). -/
def State.saveBase (s : State) (n q : Nat) : Nat := (SMap.get none (s.ctx n).mem.save q).getD 0

/-- The cores of a quarter hold a context's state: its restore there has ended. -/
def State.restoredOn (s : State) (n q : Nat) : Bool := (coresOf q).any fun c => (s.core c).ctx == some n

/-- SAVE_COMPLETE: every core has drained and written its record; the outgoing context's RUNNING bit clears, and the incoming one's restore starts (12 R315, R323). A choice that no longer stands is made anew. A context whose restore was cut short has not run, and leaves the quarter store to be filled (09 R225). -/
def execSaveComplete (q : QuarterId) (s : State) (replays : Nat := 0) : Host.Outcome State Fault Refusal :=
  .next (
    let k := s.quarter q.val
    match k.cur with
    | none => s
    | some o =>
      if k.phase != 2 || !s.live || !((coresOf q.val).all fun c => (s.core c).quiet) then s
      else s.cross replays (s.saveBase o q.val) 4 o none fun s =>
        let ran := s.restoredOn o q.val
        let s := (coresOf q.val).foldl (fun s c => State.saveCore o s c) s
        let s := s.modQuarter q.val fun k => { k with cur := none, phase := 0, next := none, lastRan := if ran then some o else none }
        let keep := match k.next with
          | some n => if (s.ctx n).sched.st == 1 && !(s.ctx n).sched.suspended then some n else none
          | none => none
        (match keep with
         | some n => s.beginRestore q.val n
         | none => s.reschedule q.val).endSuspends)

/-- Load a held task's code block again from the program image (05 R124, 12 R316). -/
def State.reloadCode (s : State) (n c : Nat) : State :=
  match (s.core c).task, (s.ctx n).prog with
  | some t, some p =>
    match p.tasks.find? fun d => d.tid == t.tid with
    | some d =>
      match s.readCode (p.addr + d.entry) d.len with
      | (.inl ws, s) => s.modCore c fun k => { k with code := ws }
      | (.inr w, s) => s.uncorrFault w 0 n (some (c, BitVec.ofNat 32 t.tid))
    | none => s
  | _, _ => s

/-- A restored core: a task whose RUN has ended is not resumed. -/
def Ctx.resumed (x : Ctx) (n : Nat) (k : Core) : Core :=
  let alive := match k.task with | some t => (x.run? t.run).isSome | none => true
  if alive then { k with ctx := some n } else { k with ctx := some n, task := none, block := none, layer := none, ended := false }

/-- The registers of a save record at address `a` are read back: S0 to S2047 and the held accumulators from its bytes, the others as the record beside them keeps them (12 R315, R316). -/
def State.loadRegs (s : State) (n c a : Nat) : State :=
  match s.load (a + 0x600000) 0xB000 with
  | (.inr w, s) => s.uncorrFault w 4 n none
  | (.inl bs, s) =>
    s.modCore c fun k =>
      { k with s := ((recordWords bs 2048).zip (List.range 2048)).foldl (fun m e => SMap.set 0x3F800000#32 m e.2 e.1) [],
               acc0 := k.acc0.map fun _ => recordWords (bs.drop 0x2000) 4096, acc1 := k.acc1.map fun _ => recordWords (bs.drop 0x6000) 4096 }

/-- Restore a core's record; a core with none starts from the values after a reset, with what the firmware has written into its
scale registers (04 R96, 12 R315). What is brought to a core under partial reset is dropped (17 R456). -/
def State.restoreCore (n : Nat) (s : State) (c : Nat) : State :=
  if !s.coreExists c then s
  else if s.rst.busy && s.rst.hasCore c then (s.modCtx n fun x => { x with saved := SMap.set none x.saved c none }).straggle 1
  else
    match SMap.get none (s.ctx n).saved c with
    | none => (s.setCore c { ctx := some n }).zero (coreBase c) coreSize
    | some k =>
      let s := s.setCore c ((s.ctx n).resumed n k)
      let s := s.modCtx n fun x => { x with saved := SMap.set none x.saved c none }
      let s := match (if k.ctx.isSome then s.recordAddr n c else none) with
        | none => if k.ctx.isSome then s else s.zero (coreBase c) coreSize
        | some a =>
          match s.copyRange a (coreBase c) coreSize with
          | (some w, s) => s.uncorrFault w 4 n none
          | (none, s) => s.loadRegs n c a
      s.reloadCode n c

/-- RESTORE_QUARTER_COMPLETE: the quarter store has been filled with zeros where another context ran before, and the cores resume (09 R225, 12 R315). -/
def execRestoreQuarterComplete (q : QuarterId) (s : State) (replays : Nat := 0) : Host.Outcome State Fault Refusal :=
  .next (
    let k := s.quarter q.val
    match k.cur with
    | none => s
    | some n =>
      if k.phase != 3 || !s.live then s
      else s.cross replays (s.saveBase n q.val) 4 n none fun s =>
        let s := if k.lastRan == some n then s else s.fill (0xC0000000 + q.val * 0x4000000) 0x4000000
        let s := (coresOf q.val).foldl (fun s c => State.restoreCore n s c) s
        (s.modQuarter q.val fun k => { k with phase := 0, lastRan := some n }).reschedule q.val)

end Sys2Proof.Machine
end

