-- ==== Sys2Proof/Machine/Loads.lean ====
section
/-!
DEFINITION. Loads: packages, raw loads, the package cache and the two lasts (03 R81, R82, 08).
-/

namespace Sys2Proof.Machine

open Sys2Proof

/-! ## Layout arithmetic (08 R192) -/

/-- Bytes of a number of elements of a format. -/
def fmtBytes (fmt n : Nat) : Nat := (n * fmtBits fmt + 7) / 8
/-- Bytes of a copy with its scales (08 R192). -/
def copyBytes (fmt k c : Nat) : Nat := fmtBytes fmt (k * c) + 4 * c
/-- Round up to a multiple. -/
def roundUp (n m : Nat) : Nat := if n % m == 0 then n else (n / m + 1) * m
/-- Place of element (k, c) in a copy of `K` rows: panels of 64 channels, k-major (08 R192). -/
def panelIx (K k c : Nat) : Nat := (c / 64 * K + k) * 64 + c % 64
/-- The (k, c) at each place of a copy, in order. -/
def panelOrder (K C : Nat) : List (Nat × Nat) :=
  (List.range (C / 64)).flatMap fun j => (List.range K).flatMap fun k => (List.range 64).map fun i => (k, 64 * j + i)

/-- A dimension that 08 R195 and R199 allow. -/
def dimOk (n : Nat) : Bool := n % 64 == 0 && decide (64 ≤ n) && decide (n ≤ 65536)

/-- Formats that a kind of weights accepts (03 R63). A load names no layer, so that forward weights are accepted in N4 (log 108). -/
def fmtForKind (kind fmt : Nat) : Bool :=
  if kind == 5 then fmt == 2 || fmt == 3 || fmt == 4
  else decide (2 ≤ fmt) && decide (fmt ≤ 6)

/-! ## Packages (08 R193 to R196) -/

/-- Manifest length of a package header. -/
def headCount (h : List Byte) : Nat := field h 6 2
def headId (h : List Byte) : BitVec 64 := BitVec.ofNat 64 (field h 8 8)
def headPayload (h : List Byte) : Nat := field h 16 8
def headManifest (h : List Byte) : Nat := field h 24 4
def headChunks (h : List Byte) : Nat := field h 28 4

/-- A header that meets 08 R194. -/
def headOk (h : List Byte) : Bool :=
  h.take 4 == [0x5A#8, 0x53#8, 0x50#8, 0x31#8] && field h 4 2 == 1 && decide (1 ≤ headCount h) &&
  decide (1 ≤ headChunks h) && decide (headChunks h ≤ 491520) && headPayload h == headChunks h * unit2M &&
  headManifest h == 64 * headCount h + 32 * headChunks h && field h 32 28 == 0 && field h 60 4 == (crc32c (h.take 60)).toNat

/-- A queue pair that a host load may name: connected, and bound to the issuing context; the administrative context may name any (13 R362). -/
def State.qpOk (s : State) (n qp : Nat) : Bool :=
  match SMap.get none s.host.qps qp with | some q => n == 16 || q.ctx == n | none => false

/-- The source a load's command names may be read (13 R362): a queue pair for the host, the issuer's T2 allocations. -/
def State.sourceOk (s : State) (n : Nat) (c : Cmd) (len : Nat) : Bool :=
  if c.p 9 1 == 0 then s.qpOk n (c.p 36 4)
  else if c.p 9 1 == 2 then inT2 (c.p 24 8) && s.inAllocs n (c.p 24 8) len
  else true

/-- Bytes before the payload's padding: header, manifest and signature (08 R193). -/
def headBytes (h : List Byte) : Nat := 64 + headManifest h + 96
/-- Offset of the payload (08 R193). -/
def payloadOff (h : List Byte) : Nat := roundUp (headBytes h) unit2M

/-- An entry of the tensor table (08 R195). -/
def parseEntry (b : List Byte) : PkgEntry :=
  { tid := BitVec.ofNat 32 (field b 0 4), kind := field b 4 1, fmt := field b 5 1, orient := field b 6 1, set := field b 7 1,
    k := field b 8 4, c := field b 12 4, off := field b 16 8, len := field b 24 8, scaleOff := field b 32 8, rank := field b 40 2,
    bytes := b.take 64 }

/-- The entries of a package. -/
def parseEntries (h : List Byte) : List PkgEntry := (List.range (headCount h)).map fun i => parseEntry ((h.drop (64 + 64 * i)).take 64)

/-- The chunk digests of a package. -/
def parseDigests (h : List Byte) : List (BitVec 256) :=
  (List.range (headChunks h)).map fun i => digestOf ((h.drop (64 + 64 * headCount h + 32 * i)).take 32)

/-- An entry that meets 08 R195 and R211, in a payload of some bytes. An entry of kind 0x05 may not go into a last. -/
def PkgEntry.ok (e : PkgEntry) (payload : Nat) (toLast : Bool) : Bool :=
  (e.kind == 1 || e.kind == 5 || e.kind == 6) && fmtForKind e.kind e.fmt && decide (e.orient ≤ 1) &&
  (if e.kind == 5 then decide (e.set < 64) && decide (1 ≤ e.rank) && decide (e.rank ≤ 256) && !toLast else e.set == 0xFF && e.rank == 0) &&
  dimOk e.k && dimOk e.c && e.off % 4096 == 0 && e.len == fmtBytes e.fmt (e.k * e.c) && e.scaleOff == e.off + e.len &&
  decide (e.scaleOff + 4 * e.c ≤ payload) && field e.bytes 42 18 == 0 && field e.bytes 60 4 == (crc32c (e.bytes.take 60)).toNat

/-- The tensor table of a package holds (08 R195, R211). -/
def entriesOk (es : List PkgEntry) (payload : Nat) (toLast : Bool) : Bool :=
  es.all (fun e => e.ok payload toLast) && decide (es.map (·.tid)).Nodup && disjoint (es.map fun e => (e.off, e.len + 4 * e.c))

/-- The enrolled package keys: those of the slots whose PKG bit says that they hold one (18 R466, R482). -/
def State.pkgKeysList (s : State) : List (BitVec 512) :=
  (List.range 8).filterMap fun i => if s.shk.pkgBits.getLsbD i then SMap.get none s.shk.pkgKeys i else none
/-- The 64 bytes of a public key, first byte most significant (18 R466). -/
def keyBytes (k : BitVec 512) : List Byte := (natLe 64 k.toNat).reverse

/-- The signature of a package verifies under the enrolled key it names (08 R196, R197). -/
def State.sigOk (s : State) (h : List Byte) : Bool :=
  let n := 64 + headManifest h
  let sig := (h.drop n).take 96
  match s.pkgKeysList.find? fun k => sm3 (keyBytes k) == digestOf (sig.take 32) with
  | some k => Config.sm2Verify k (sm3 (h.take n)) (BitVec.ofNat 512 (leNat (sig.drop 32).reverse))
  | none => false

/-! ## Raw loads (08 R199, R206) -/

/-- A layout descriptor (08 R199). -/
def parseLayout (b : List Byte) : Layout :=
  { tid := BitVec.ofNat 32 (field b 0 4), srcFmt := field b 4 1, kind := field b 5 1, fmt := field b 6 1, outs := field b 7 1,
    i := field b 8 4, o := field b 12 4, stride := field b 16 8, fwd := field b 24 8, trans := field b 32 8, master := field b 40 8,
    rank := field b 48 2, set := field b 50 1, srcOff := field b 52 8 }

/-- Output `j` of a descriptor is asked for: 0 forward, 1 transposed, 2 master. -/
def Layout.has (d : Layout) (j : Nat) : Bool := bit d.outs j
/-- Size of a source element. -/
def Layout.elem (d : Layout) : Nat := if d.srcFmt == 1 then 4 else 2
/-- First address of an output. -/
def Layout.dest (d : Layout) (j : Nat) : Nat := if j == 0 then d.fwd else if j == 1 then d.trans else d.master
/-- Inner depth and channels of an output (08 R192). -/
def Layout.dims (d : Layout) (j : Nat) : Nat × Nat := if j == 1 then (d.o, d.i) else (d.i, d.o)
/-- Bytes of an output: a copy with its scales, or the master with its offcuts (08 R192). -/
def Layout.outBytes (d : Layout) (j : Nat) : Nat := if j == 2 then 3 * (d.i * d.o) else copyBytes d.fmt (d.dims j).1 (d.dims j).2
/-- The outputs of a descriptor. -/
def Layout.outputs (d : Layout) : List Nat := [0, 1, 2].filter d.has
/-- Ranges of a descriptor's outputs. -/
def Layout.ranges (d : Layout) : List (Nat × Nat) := d.outputs.map fun j => (d.dest j, d.outBytes j)
/-- End of a tensor within the load's source. -/
def Layout.srcEnd (d : Layout) : Nat := d.srcOff + (d.i - 1) * d.stride + d.o * d.elem

/-- A descriptor that meets 08 R199, R206 and R211. A master destination of an output that is not asked for must be 0 as well (log 109). -/
def Layout.ok (d : Layout) (b : List Byte) (toLast : Bool) : Bool :=
  (d.srcFmt == 1 || d.srcFmt == 2) && (d.kind == 1 || d.kind == 5 || d.kind == 6) && fmtForKind d.kind d.fmt &&
  decide (1 ≤ d.outs) && decide (d.outs ≤ 7) && dimOk d.i && dimOk d.o &&
  (d.has 0 || d.fwd == 0) && (d.has 1 || d.trans == 0) && (d.has 2 || d.master == 0) && !(toLast && d.has 2) &&
  (if d.kind == 5 then decide (1 ≤ d.rank) && decide (d.rank ≤ 256) && decide (d.set < 64) && !toLast else d.rank == 0 && d.set == 0xFF) &&
  field b 51 1 == 0 && decide (d.srcOff < 2 ^ 48) && field b 60 4 == (crc32c (b.take 60)).toNat &&
  (!toLast || (d.fwd % 4096 == 0 && d.trans % 4096 == 0))

/-- No destination of a descriptor meets one of another (08 R199). -/
def layoutsApart : List Layout → Bool
  | [] => true
  | d :: ds => (ds.all fun e => d.ranges.all fun r => clearOf r.1 r.2 e.ranges) && layoutsApart ds

/-- Extent of a raw load into a last (08 R206). -/
def extentOf (ds : List Layout) : Nat :=
  roundUp (ds.foldl (fun m d => (d.outputs.filter (· < 2)).foldl (fun m j => max m (d.dest j + d.outBytes j)) m) 0) 4096
/-- Directory entries of a raw load into a last (08 R206). -/
def directoryOf (ds : List Layout) : List Byte :=
  ds.flatMap fun d => (d.outputs.filter (· < 2)).flatMap fun j =>
    let (k, c) := d.dims j
    let len := fmtBytes d.fmt (k * c)
    let b := natLe 4 d.tid.toNat ++ [BitVec.ofNat 8 d.kind, BitVec.ofNat 8 d.fmt, BitVec.ofNat 8 j, 0xFF#8] ++ natLe 4 k ++ natLe 4 c ++
      natLe 8 (d.dest j) ++ natLe 8 len ++ natLe 8 (d.dest j + len) ++ List.replicate 20 0#8
    b ++ natLe 4 (crc32c b).toNat

/-! ## A load's places -/

/-- SIZE of the last that a load fills, in bytes (08 R206). -/
def Load.lastBytes (l : Load) : Nat :=
  roundUp (if l.raw then extentOf l.layouts + (directoryOf l.layouts).length else l.payload + 64 * l.entries.length) unit2M

/-- Change a load. -/
def State.modLoad (s : State) (k : Nat) (f : Load → Load) : State := { s with loads := s.loads.modify k f }

/-- Release the space of a last (08 R205). -/
def State.releaseLast (s : State) (i : Nat) : State :=
  let l := s.last i
  match l.base with
  | none => s
  | some b => ((s.setLast i { l with base := none, units := 0, size := 0, copies := [] }).subUsed 16 1 l.units).startFill 1 b l.units none none

/-- Release the staging area of a raw load (03 R81). -/
def State.releaseStage (s : State) (l : Load) : State :=
  match l.stage with
  | none => s
  | some (b, u) => (s.subUsed l.ctx 2 u).startFill 2 b u none none

/-- Opcode of a load's command. -/
def Load.opcode (l : Load) : Nat := if l.raw then 0x21 else 0x20

/-- Ranges of a load's context destination. -/
def Load.ctxRanges (l : Load) : List (Nat × Nat) :=
  if l.raw then l.layouts.flatMap fun d => (d.outputs.filter fun j => j == 2 || l.dest == 0).map fun j => (d.dest j, d.outBytes j)
  else if l.dest == 0 then [(l.destBase, l.payload)] else []

/-- A load that has not completed leaves: its staging area is released, its last is EMPTY and its space released, and a context destination holds undefined bytes. One that copies to the cache has completed, and leaves its last as it is (08 R203, R204, R207). -/
def State.abandonLoad (s : State) (l : Load) : State :=
  let s := s.releaseStage l
  if l.copying then s
  else
    let s := l.ctxRanges.foldl (fun s r => s.scramble r.1 r.2) s
    if l.dest == 0 then s else (s.releaseLast l.dest).setLast l.dest { (s.releaseLast l.dest).last l.dest with st := 0 }

/-- Write bytes of a load; an unreadable word under a partial write stops it (09 R227, R237). -/
def State.land (s : State) (l : Load) (a : Nat) (bs : List Byte) (next : State → State) : State :=
  match s.store a bs with
  | (some w, s) => s.uncorrFault w 1 l.ctx none
  | (none, s) => next s

/-! ## Reading host memory (08 R202, 13 R337, R362) -/

/-- Bytes of a raw load's source. -/
def rawBytes (ds : List Layout) : Nat := ds.foldl (fun m d => max m d.srcEnd) 0

/-- RDMA READs that a load from the host needs, 2 MiB each (log 86). -/
def Load.reads (l : Load) : Nat := if l.raw then (rawBytes l.layouts + unit2M - 1) / unit2M else l.digests.length
/-- READs answered so far; those of a raw load are answered as its arrival completes. -/
def Load.answered (l : Load) : Nat := if l.raw then (if l.arrived == 0 then 0 else l.asked) else l.next
/-- READs outstanding on a queue pair. -/
def State.readsOut (s : State) (qp : Nat) : Nat := ((s.loads.filter fun l => l.source == 0 && l.qp == qp).map fun l => l.asked - l.answered).sum
/-- The queue pair of a load from the host is still connected, and bound as its command needs it. -/
def State.hostOpen (s : State) (l : Load) : Bool :=
  match SMap.get none s.host.qps l.qp with | some q => l.ctx == 16 || q.ctx == l.ctx | none => false

/-- Send the next READ request of load `k`, in its turn (08 R202). -/
def State.askHost (s : State) (k : Nat) : State :=
  match s.loads[k]? with
  | none => s
  | some l =>
    let i := l.asked
    let len := if l.raw then min unit2M (rawBytes l.layouts - i * unit2M) else unit2M
    ({ s with loads := s.loads.modify k fun l => { l with asked := i + 1 } } : State).emit
      (.rdmaRead l.qp (l.remote + (if l.raw then 0 else payloadOff l.head) + i * unit2M) l.rkey len)

/-- Send the READ requests of load `k` that may go: 16 are outstanding on a queue pair at most (13 R337). -/
def State.askLoad (s : State) (k : Nat) : State :=
  (List.range 16).foldl (fun s _ =>
    match s.loads[k]? with
    | some l => if l.source == 0 && decide (l.asked < l.reads) && s.hostOpen l && decide (s.readsOut l.qp < 16) then s.askHost k else s
    | none => s) s

/-- Send the READ requests of every load that may go. -/
def State.askLoads (s : State) : State := (List.range s.loads.length).foldl State.askLoad s

/-- Load `k` fails with a status; READ requests of other loads that its own held back may go (08 R204, R207, 13 R337). -/
def State.failLoad (s : State) (k status : Nat) : State :=
  match s.loads[k]? with
  | none => s
  | some l => ((({ s with loads := dropAt k s.loads } : State).abandonLoad l).finish l.ctx l.opcode l.tag status 0 0).askLoads

/-- Give the last of load `k` its space, charged to the administrative context; `none` while the space waits for a fill (08 R205, R197 point 4, 09 R230). -/
def State.giveSpace (s : State) (k : Nat) : Option State :=
  match s.loads[k]? with
  | none => none
  | some l =>
    if l.dest == 0 || (s.last l.dest).base.isSome then some s
    else
      let u := l.lastBytes / unit2M
      match s.charge 16 1 4 u with
      | .ok b => some (((s.setLast l.dest { s.last l.dest with base := some b, units := u }).addUsed 16 1 u).modLoad k fun l => { l with destBase := b })
      | .wait => none
      | _ => some (s.failLoad k 0x210)

/-- Enter a load whose checks have passed, and give its last the space that is free at once. -/
def State.enterLoad (s : State) (l : Load) : State :=
  let k := s.loads.length
  let s := { s with loads := s.loads ++ [l] }
  ((s.giveSpace k).getD s).askLoads

/-! ## LOAD_PACKAGE (08 R197, R198, R203 to R205) -/

/-- Loads into a last and switches are accepted from the administrative context and the last holder (08 R205). -/
def State.mayLast (s : State) (n : Nat) : Bool := n == 16 || (s.lastPtr.holderEn && s.lastPtr.holder == n)

/-- A last takes a load: its old contents and space are gone (08 R205, R207). -/
def State.beginLast (s : State) (i : Nat) : State :=
  if i == 0 then s else let s := s.releaseLast i; s.setLast i { s.last i with st := 1 }

/-- An accepted load that fails by its checks: a last is left EMPTY, and the ranges of a context destination, where they lie in the context's T1, hold undefined bytes (08 R204, R207). -/
def State.refuseLoad (s : State) (n op : Nat) (tag : BitVec 16) (dest : Nat) (ranges : List (Nat × Nat)) (status : Nat) : State :=
  let s := if dest == 0 then (ranges.filter fun r => s.inT1Allocs n r.1 r.2).foldl (fun s r => s.scramble r.1 r.2) s
    else s.setLast dest { s.last dest with st := 0 }
  s.finish n op tag status 0 0

/-- Cache entry of a package id (08 R203). -/
def State.cached (s : State) (id : BitVec 64) : Option CacheEntry := s.cache.find? fun e => e.pkgId == id && e.valid

/-- The READ requests for the header of a host source, and, where the header holds, for what follows it (08 R197, R202). -/
def State.askHead (s : State) (c : Cmd) (head : List Byte) : State :=
  let ask := fun (s : State) (off len : Nat) => s.emit (.rdmaRead (c.p 36 4) (c.p 24 8 + off) (BitVec.ofNat 32 (c.p 32 4)) len)
  let s := ask s 0 64
  if headOk head then ask s 64 (headBytes head - 64) else s

/-- Header, manifest and signature of a package's source: from the host as they come, from T2 or the cache as they stand; an unreadable word of T2 is answered (09 R237). -/
def State.headOf (s : State) (c : Cmd) (head : List Byte) : (List Byte ⊕ Nat) × State :=
  if c.p 9 1 == 0 then (.inl head, s.askHead c head)
  else if c.p 9 1 == 1 then (.inl (((s.cached (BitVec.ofNat 64 (c.p 16 8))).map (·.head)).getD []), s)
  else
    let a := c.p 24 8
    match s.load a 64 with
    | (.inr w, s) => (.inr w, s)
    | (.inl h, s) => if !headOk h then (.inl h, s) else s.load a (min (headBytes h) (c.p 48 8))

/-- Adapter sets of a list that the context does not show, when it holds all 64 (08 R211). -/
def CtxMem.setLimitHit (m : CtxMem) (sets : List Nat) : Bool := m.adapters == BitVec.allOnes 64 && sets.any fun i => decide (i < 64) && !m.adapters.getLsbD i

/-- The checks of a package before any byte moves, in the order of 08 R197. -/
def State.packageStatus (s : State) (n : Nat) (c : Cmd) (h : List Byte) : Nat :=
  let toLast := c.p 10 1 != 0
  if c.p 9 1 == 0 && h.length < 64 then 0x213
  else if !headOk h || (c.p 9 1 != 1 && decide (c.p 48 8 < payloadOff h + headPayload h)) then 0x234
  else if h.length < headBytes h then (if c.p 9 1 == 0 then 0x213 else 0x234)
  else if !s.sigOk h then 0x235
  else if !entriesOk (parseEntries h) (headPayload h) toLast then 0x234
  else if (s.ctx n).mem.setLimitHit ((parseEntries h).map (·.set)) then 0x23A
  else if !toLast && !s.inT1Allocs n (c.p 40 8) (headPayload h) then 0x210
  else 0

/-- The load of a package whose checks passed. -/
def packageLoad (n : Nat) (tag : BitVec 16) (c : Cmd) (h : List Byte) : Load :=
  { ctx := n, tag := tag, action := c.p 8 1, source := c.p 9 1, dest := c.p 10 1, destBase := if c.p 10 1 == 0 then c.p 40 8 else 0,
    srcAddr := c.p 24 8, pkgId := headId h, raw := false, payload := headPayload h, digests := parseDigests h, next := 0,
    entries := parseEntries h, layouts := [], passes := [], arrived := 0, stage := none, amaxes := [], copying := false, failed := none,
    head := h.take (headBytes h), qp := c.p 36 4, remote := c.p 24 8, rkey := BitVec.ofNat 32 (c.p 32 4) }

/-- The checks of a package load before its header is read, in the order of 08 R197 and R205; 0 where they pass. -/
def State.packageEarly (s : State) (n : Nat) (c : Cmd) : Nat :=
  let d := c.p 10 1
  let st := (s.last d).st
  if !s.sourceOk n c (c.p 48 8) then 0x204
  else if d != 0 && !s.mayLast n then 0x239
  else if d != 0 && (st == 1 || st == 3 || st == 4) then 0x237
  else if c.p 9 1 == 1 && (s.cached (BitVec.ofNat 64 (c.p 16 8))).isNone then 0x23F
  else 0

/-- The READ request for a package's header waits for its turn: 16 are outstanding on the queue pair (13 R337). -/
def State.headWaits (s : State) (n : Nat) (c : Cmd) : Bool :=
  c.p 9 1 == 0 && s.packageEarly n c == 0 && decide (16 ≤ s.readsOut (c.p 36 4))

/-- LOAD_PACKAGE with action 0x00 or 0x01; `head` is what RDMA reads bring of a host source (08 R197, R203 to R207). -/
def execLoadPackage (n : CtxId) (tag : Tag) (head : List Byte) (s : State) : Host.Outcome State Fault Refusal :=
  .next (s.commandIf n.val 0x20 tag (fun c => decide (c.p 8 1 ≤ 1) && !s.headWaits n.val c) fun c s =>
    let d := c.p 10 1
    if s.packageEarly n.val c != 0 then s.finish n.val 0x20 tag (s.packageEarly n.val c) 0 0
    else
      match (s.beginLast d).headOf c head with
      | (.inr w, s) => s.uncorrFault w 4 n.val none
      | (.inl h, s) =>
        let st := s.packageStatus n.val c h
        if st != 0 then s.refuseLoad n.val 0x20 tag d (if headOk h then [(c.p 40 8, headPayload h)] else []) st
        else s.enterLoad (packageLoad n.val tag c h))

/-- PACKAGE_CACHE_DROP: LOAD_PACKAGE with action 0x02 (08 R203). -/
def execPackageCacheDrop (n : CtxId) (tag : Tag) (s : State) : Host.Outcome State Fault Refusal :=
  .next (s.commandIf n.val 0x20 tag (fun c => c.p 8 1 == 2) fun c s =>
    match s.cached (BitVec.ofNat 64 (c.p 16 8)) with
    | none => s.finish n.val 0x20 tag 0x23F 0 0
    | some e => (({ s with cache := s.cache.filter fun x => x != e } : State).subUsed e.ctx 3 e.units).finish n.val 0x20 tag 0 0 0)

/-- Bytes of a load's next chunk: from the host as they come over its queue pair, else from the cache or T2; `none` where the read fails. -/
def State.chunkBytes (s : State) (l : Load) (data : List Byte) : Option (List Byte) × State :=
  if l.source == 0 then (if s.hostOpen l && data.length == unit2M then some data else none, s)
  else if l.source == 1 then ((s.cached l.pkgId).map fun e => Mem.read e.bytes (l.next * unit2M) unit2M, s)
  else
    match s.load (l.srcAddr + payloadOff l.head + l.next * unit2M) unit2M with
    | (.inl b, s) => (some b, s)
    | (.inr w, s) => (none, s.uncorrFault w 4 l.ctx none)

/-- A READ of a host source is outstanding, or its queue pair has gone and the load fails (08 R202). -/
def State.hostDue (s : State) (l : Load) : Bool := l.source != 0 || decide (l.answered < l.asked) || !s.hostOpen l

/-- PACKAGE_CHUNK_LAND: the next chunk's digest is compared with the list, and the chunk is written (08 R197 point 5, R198, R202). -/
def execPackageChunkLand (k : Nat) (data : List Byte) (s : State) (replays : Nat := 0) : Host.Outcome State Fault Refusal :=
  .next (
    match s.loads[k]? with
    | none => s
    | some l =>
      if l.raw || l.copying || !s.live || decide (l.digests.length ≤ l.next) || !s.hostDue l then s
      else
        match s.giveSpace k with
        | none => s
        | some s =>
          match s.loads[k]? with
          | none => s
          | some l' =>
            if l'.tag != l.tag || l'.ctx != l.ctx || l'.raw then s
            else
              s.cross replays (l'.destBase + l'.next * unit2M) 4 l'.ctx none fun s =>
                match s.chunkBytes l' data with
                | (none, s) => if s.live then s.failLoad k 0x213 else s
                | (some b, s) =>
                  if sm3 b != l'.digests.getD l'.next 0#256 then s.failLoad k 0x236
                  else s.land l' (l'.destBase + l'.next * unit2M) b fun s => (s.modLoad k fun l => { l with next := l.next + 1 }).askLoads)

/-! ## The end of a load (08 R198, R203, R207, R212) -/

/-- Tensor id of a copy that a raw load writes: the descriptor's for the forward copy; for the transposed copy that of the layer whose
forward copy the descriptor names, else the descriptor's where no forward copy is written (06 R156, R159, log 57). -/
def Ctx.copyId (k : Ctx) (d : Layout) (j : Nat) : Option (BitVec 32) :=
  let own := if d.has 0 then none else some d.tid
  if j != 1 then some d.tid
  else match k.prog with
    | some p => match p.layers.find? fun l => l.fwd == d.tid && l.trans != 0xFFFFFFFF#32 with | some l => some l.trans | none => own
    | none => own

/-- The copies that a load has brought: each one's tensor id and where its scales stand, as an offset or an address (08 R192, R195). -/
def Ctx.loadCopies (k : Ctx) (l : Load) : List (BitVec 32 × Nat) :=
  if l.raw then l.layouts.flatMap fun d => (d.outputs.filter (· < 2)).filterMap fun j =>
    (k.copyId d j).map fun t => (t, d.dest j + fmtBytes d.fmt ((d.dims j).1 * (d.dims j).2))
  else l.entries.map fun e => (e.tid, l.destBase + e.scaleOff - (if l.dest == 0 then 0 else l.destBase))

/-- Enter loaded copies in a table. -/
def putCopies (m : SMap (Option Nat)) (cs : List (BitVec 32 × Nat)) : SMap (Option Nat) :=
  cs.foldl (fun m e => SMap.set none m e.1.toNat (some e.2)) m

/-- Sets of adapter entries come into use (08 R212). -/
def State.useSets (s : State) (n : Nat) (sets : List Nat) : State :=
  if n == 16 then s
  else s.modCtx n fun k => k.modMem fun m =>
    { m with adapters := sets.foldl (fun a i => if i < 64 then a ||| BitVec.ofNat 64 (2 ^ i) else a) m.adapters }

/-- The directory of a load's last. -/
def Load.directory (l : Load) : List Byte := if l.raw then directoryOf l.layouts else l.entries.flatMap (·.bytes)
/-- Offset of the directory in the last. -/
def Load.directoryOff (l : Load) : Nat := if l.raw then extentOf l.layouts else l.payload

/-- A verified last is READY (08 R206, R207). -/
def State.readyLast (s : State) (l : Load) : State :=
  if l.dest == 0 then s
  else s.land l (l.destBase + l.directoryOff) l.directory fun s =>
    let a := s.last l.dest
    s.setLast l.dest { a with st := 2, gen := a.gen + 1#8, size := a.units, copies := putCopies [] ((s.ctx l.ctx).loadCopies l) }

/-- A tensor's record holds no scale of a copy that a quantiser made before (06 R156). -/
def Ctx.dropCarried (k : Ctx) (tid : BitVec 32) : Ctx :=
  match k.rec? tid with
  | some _ => k.modRec tid fun x => { x with carried := [] }
  | none => k

/-- A context's own copies carry the scales that came with them (06 R156). -/
def State.noteCopies (s : State) (l : Load) : State :=
  if l.dest != 0 then s
  else s.modCtx l.ctx fun k =>
    let cs := k.loadCopies l
    { cs.foldl (fun k e => k.dropCarried e.1) k with copies := putCopies k.copies cs }

/-- GEN of a load's last, for result 1. -/
def State.loadGen (s : State) (l : Load) : Nat := if l.dest == 0 then 0 else (s.last l.dest).gen.toNat

/-- All bytes of a load have landed and all its passes have run. -/
def Load.done (l : Load) : Bool :=
  !l.copying && (if l.raw then decide (0 < l.arrived) && l.passes.isEmpty else l.next == l.digests.length)

/-- LOAD_COMPLETE: the weights may be used; a load with action 0x01 stays for its cache copy (08 R203, R207, 13 R362). -/
def execLoadComplete (k : Nat) (s : State) : Host.Outcome State Fault Refusal :=
  .next (
    match s.loads[k]? with
    | none => s
    | some l =>
      if !l.done || !s.live then s
      else
        let s := s.readyLast l
        if !s.live then s
        else
          let s := (s.noteCopies l).releaseStage l
          let s := s.useSets l.ctx (if l.raw then l.layouts.map (·.set) else l.entries.map (·.set))
          if !l.raw && l.action == 1 then s.modLoad k fun l => { l with copying := true }
          else ({ s with loads := dropAt k s.loads } : State).finish l.ctx l.opcode l.tag 0 (if l.raw then l.arrived else l.payload) (s.loadGen l))

/-- The destination still holds the verified package. -/
def State.unchanged (s : State) (l : Load) : Bool :=
  (List.range l.digests.length).all fun i => sm3 (s.bytes (l.destBase + i * unit2M) unit2M) == l.digests.getD i 0#256

/-- Read the destination for the cache copy through the word code; an unreadable word is answered (09 R228, R237). -/
def State.readCopy (s : State) (l : Load) : Option Nat × State := s.meetWords 0 (s.badIn l.destBase l.payload)

/-- Drop the cache entries of a package id (08 R203). -/
def State.dropCached (s : State) (id : BitVec 64) : State :=
  (s.cache.filter fun e => e.pkgId == id && e.valid).foldl (fun s e => s.subUsed e.ctx 3 e.units)
    { s with cache := s.cache.filter fun e => !(e.pkgId == id && e.valid) }

/-- Enter a package in the cache. -/
def State.enterCache (s : State) (l : Load) (units : Nat) : State :=
  let part := (s.mem.filter fun e => decide (l.destBase ≤ e.1) && decide (e.1 < l.destBase + l.payload)).map fun e => (e.1 - l.destBase, e.2)
  let e : CacheEntry := { pkgId := l.pkgId, ctx := l.ctx, units := units, valid := true, head := l.head, bytes := part }
  ({ s with cache := s.cache ++ [e] } : State).addUsed l.ctx 3 units

/-- CACHE_COPY_COMPLETE: the background copy to a free entry has finished, or cannot finish; the new entry takes the place of an older one of its id as it becomes valid (08 R203, log 86). -/
def execCacheCopyComplete (k : Nat) (ok : Bool) (s : State) (replays : Nat := 0) : Host.Outcome State Fault Refusal :=
  .next (
    match s.loads[k]? with
    | none => s
    | some l =>
      if !l.copying || !s.live then s
      else
        let units := (payloadOff l.head + l.payload) / unit2M
        let s := { s with loads := dropAt k s.loads }
        s.cross replays l.destBase 4 l.ctx none fun s =>
          match s.readCopy l with
          | (some w, s) => s.uncorrFault w 4 l.ctx none
          | (none, s) =>
            let room := match s.charge l.ctx 3 0 units with | .ok _ => true | _ => false
            let good := ok && decide (s.cache.length < 16) && room && s.unchanged l
            let s := if good then (s.dropCached l.pkgId).enterCache l units else s
            s.finishWith l.ctx 0x20 l.tag 0 (BitVec.ofNat 64 l.payload) (BitVec.ofNat 64 (s.loadGen l)) (!good) [])

/-! ## LOAD_RAW (03 R81, 08 R199 to R201, R206) -/

/-- Descriptors and their 64 bytes. -/
def parseLayouts (b : List Byte) (n : Nat) : List (Layout × List Byte) :=
  (List.range n).map fun i => let x := (b.drop (64 * i)).take 64; (parseLayout x, x)

/-- The checks of a raw load before any byte moves (08 R199, R204, R206, R211). -/
def State.rawStatus (s : State) (n : Nat) (c : Cmd) (ds : List (Layout × List Byte)) : Nat :=
  let toLast := c.p 10 1 != 0
  if !(ds.all fun d => d.1.ok d.2 toLast) || !layoutsApart (ds.map (·.1)) then 0x23B
  else if (s.ctx n).mem.setLimitHit (ds.map (·.1.set)) then 0x23A
  else if !toLast && !(ds.all fun d => d.1.ranges.all fun r => s.inT1Allocs n r.1 r.2) then 0x210
  else if c.p 9 1 == 2 && !s.inAllocs n (c.p 24 8) (rawBytes (ds.map (·.1))) then 0x204
  else 0

/-- The staging area of a raw load from the host: taken in T2 outside the window, charged to the issuer (03 R81, 09 R221). -/
def State.rawStage (s : State) (n : Nat) (bytes : Nat) : Charge := s.charge n 2 0 (roundUp bytes unit2M / unit2M)

/-- The staging area of a command's load waits for a fill (09 R230). -/
def State.rawWaits (s : State) (n : Nat) (c : Cmd) : Bool :=
  s.rawStage n (rawBytes ((parseLayouts (s.bytes (c.p 16 8) (64 * c.p 12 2)) (c.p 12 2)).map (·.1))) == .wait

/-- The load of checked descriptors. -/
def rawLoad (n : Nat) (tag : BitVec 16) (c : Cmd) (ds : List Layout) (stage : Option (Nat × Nat)) : Load :=
  { ctx := n, tag := tag, action := 0, source := c.p 9 1, dest := c.p 10 1, destBase := 0,
    srcAddr := match stage with | some (b, _) => b | none => c.p 24 8, pkgId := 0#64, raw := true, payload := 0, digests := [], next := 0,
    entries := [], layouts := ds, passes := (List.range ds.length).flatMap fun i => ((ds[i]?.map Layout.outputs).getD []).map fun j => (i, j),
    arrived := 0, stage := stage, amaxes := [], copying := false, failed := none, head := [], qp := c.p 36 4, remote := c.p 24 8,
    rkey := BitVec.ofNat 32 (c.p 32 4) }

/-- LOAD_RAW: read and check the descriptors, take the staging area, begin (08 R199, R205, R206). -/
def execLoadRaw (n : CtxId) (tag : Tag) (s : State) : Host.Outcome State Fault Refusal :=
  .next (s.commandIf n.val 0x21 tag (fun c => !(c.p 9 1 == 0 && s.rawWaits n.val c)) fun c s =>
    let d := c.p 10 1
    let stop := fun (s : State) st => s.finish n.val 0x21 tag st 0 0
    if !s.inAllocs n.val (c.p 16 8) (64 * c.p 12 2) || !s.sourceOk n.val c 1 then stop s 0x204
    else if d != 0 && !s.mayLast n.val then stop s 0x239
    else if d != 0 && (let st := (s.last d).st; st == 1 || st == 3 || st == 4) then stop s 0x237
    else
      match s.load (c.p 16 8) (64 * c.p 12 2) with
      | (.inr w, s) => s.uncorrFault w 4 n.val none
      | (.inl b, s) =>
        let s := s.beginLast d
        let ds := parseLayouts b (c.p 12 2)
        let st := s.rawStatus n.val c ds
        let rs := (ds.map (·.1)).flatMap Layout.ranges
        if st != 0 then s.refuseLoad n.val 0x21 tag d (if st == 0x23B then [] else rs) st
        else if c.p 9 1 == 2 then s.enterLoad (rawLoad n.val tag c (ds.map (·.1)) none)
        else
          let u := roundUp (rawBytes (ds.map (·.1))) unit2M / unit2M
          match s.rawStage n.val (rawBytes (ds.map (·.1))) with
          | .ok a => (s.addUsed n.val 2 u).enterLoad (rawLoad n.val tag c (ds.map (·.1)) (some (a, u)))
          | .overQuota => s.refuseLoad n.val 0x21 tag d rs 0x210
          | _ => s.refuseLoad n.val 0x21 tag d rs 0x211)

/-- Element (i, o) of a tensor in the bytes of the load's source, as FP32 (08 R199). -/
def Layout.value (d : Layout) (src : Nat → Byte) (i o : Nat) : F32 :=
  let a := d.srcOff + i * d.stride + o * d.elem
  let v := leNat ((List.range d.elem).map fun j => src (a + j))
  if d.srcFmt == 1 then BitVec.ofNat 32 v else BitVec.ofNat 32 (v * 2 ^ 16)

/-- Per-channel amax of a tensor: output channels (0), input channels (1) (03 R81). -/
def Layout.amax (d : Layout) (src : Nat → Byte) (side : Nat) : SMap F32 :=
  (List.range d.i).foldl (fun m i => (List.range d.o).foldl (fun m o => enterAmax m (if side == 0 then o else i) (d.value src i o)) m) []

/-- Row that a raw load's tensor follows: its kind's row in the issuer's recipe, in the copy's format; without a program, no margin (03 R81, log 42). -/
def Ctx.loadRow (k : Ctx) (d : Layout) : RecipeRow :=
  let base : RecipeRow := { kind := d.kind, fmt := d.fmt, hist := 1, margin := 0, texp := 0, uexp := 0, shN := 0, shR := 0, shRun := 0, jit := true,
                            group := false, init := 0x3F800000#32 }
  match k.prog with
  | some p => match p.recipe.rows.find? fun r => r.kind == d.kind with | some r => { r with fmt := d.fmt } | none => base
  | none => base

/-- Scale of a channel of a raw load's copy (03 R64, R81): 1.0 for a format that is not narrow. -/
def loadScale (r : RecipeRow) (amax : SMap F32) (ch : Nat) : F32 :=
  if !fmtNarrow r.fmt then 0x3F800000#32 else if !r.jit then r.init else (scaleOf r (SMap.get 0#32 amax ch)).getD r.init

/-- The measured amax becomes the only history entry of a copy's record, which has `chans` channels (03 R81 point 4). -/
def Ctx.loadHist (k : Ctx) (tid : BitVec 32) (chans : Nat) (m : SMap F32) : Ctx :=
  match k.rowOf tid with
  | none => k
  | some r =>
    let one := fun c => [(k.step.applied, SMap.get 0#32 m c)]
    let h := if r.perChan then (List.range chans).foldl (fun h c => SMap.set [] h c (one c)) ([] : SMap (List (Nat × F32)))
      else SMap.set [] [] 0 [(k.step.applied, histMax (m.map fun e => (0, e.2)))]
    k.modRec tid fun x => { x with hist := h }

/-- Enter the history of one orientation of a raw load's tensor in the issuer's records (03 R58, R81). -/
def State.enterHist (n : Nat) (s : State) (e : BitVec 32 × Nat × SMap F32) : State :=
  match s.firstUse n e.1 with
  | none => s.illegal n
  | some s => s.modCtx n fun k => k.loadHist e.1 e.2.1 e.2.2

/-- The orientations of a descriptor whose amax becomes history: those of its copies, the forward one for a master alone; each with
its record's id, its channels and its measured amax (03 R56, R81). -/
def Ctx.histsOf (k : Ctx) (d : Layout) (amaxes : Nat → SMap F32) : List (BitVec 32 × Nat × SMap F32) :=
  (if d.has 0 || d.has 1 then [0, 1].filter d.has else [0]).filterMap fun j =>
    (k.copyId d j).map fun t => (t, (d.dims j).2, amaxes j)

/-- Enter the histories of a raw load's tensors in the issuer's records (03 R58, R81); without a program no row says how, and none is
entered (log 42). -/
def State.loadHists (s : State) (l : Load) : State :=
  if l.ctx == 16 || (s.ctx l.ctx).prog.isNone then s
  else
    (List.range l.layouts.length).foldl (fun s i =>
      match l.layouts[i]? with
      | none => s
      | some d => ((s.ctx l.ctx).histsOf d fun j => SMap.get [] l.amaxes (2 * i + j)).foldl (State.enterHist l.ctx) s) s

/-- The READ requests of a raw load that followed its first ones, as those were answered (13 R337, log 86). -/
def State.askRest (s : State) (k : Nat) : State :=
  match s.loads[k]? with
  | some l => (List.range (l.reads - l.asked)).foldl (fun s _ => s.askHost k) s
  | none => s

/-- RAW_ARRIVAL_COMPLETE: the source stands in T2, and its tensors are measured (03 R81, 08 R201). A host read that brought too few bytes has failed. -/
def execRawArrivalComplete (k : Nat) (data : List Byte) (s : State) (replays : Nat := 0) : Host.Outcome State Fault Refusal :=
  .next (
    match s.loads[k]? with
    | none => s
    | some l =>
      let n := rawBytes l.layouts
      if !l.raw || decide (0 < l.arrived) || !s.live || !s.hostDue l then s
      else
        match s.giveSpace k with
        | none => s
        | some s' =>
          if s'.loads.length < s.loads.length then s'
          else if l.source == 0 && (data.length < n || !s'.hostOpen l) then s'.failLoad k 0x213
          else
            s'.cross replays l.srcAddr 4 l.ctx none fun s =>
            let s := if l.source == 0 then s.askRest k else s
            s.land l l.srcAddr (if l.source == 0 then data.take n else []) fun s =>
            match s.meetWords 0 (s.badIn l.srcAddr n) with
            | (some w, s) => s.uncorrFault w 6 l.ctx none
            | (none, s) =>
              let src := fun a => Mem.byte s.mem (l.srcAddr + a)
              let am := (List.range l.layouts.length).flatMap fun i =>
                match l.layouts[i]? with | some d => [(2 * i, d.amax src 0), (2 * i + 1, d.amax src 1)] | none => []
              let s := s.modLoad k fun l => { l with arrived := n, amaxes := am.filter fun e => !e.2.isEmpty }
              match s.loads[k]? with | some l => (s.loadHists l).askLoads | none => s)

/-- Pack codes of a format into bytes, two codes a byte for the 4-bit format. -/
def packCodes (fmt : Nat) : List Nat → List Byte
  | [] => []
  | a :: rest =>
    if fmt == 6 then match rest with | b :: r => BitVec.ofNat 8 (a + 16 * b) :: packCodes fmt r | [] => [BitVec.ofNat 8 a]
    else natLe (fmtBits fmt / 8) a ++ packCodes fmt rest

/-- The offcut of a source value under its BF16 code: `floor((x - w) / ulp(w) * 256 + 1/2)`, kept to a signed byte (08 R200). -/
def offcutOf (x : F32) : Int :=
  let w := (toBf16 x).1
  match f32 x, decodeFmt 2 w with
  | .fin a m e, .fin b n g =>
    let (i, lo) := addFin a m e (!b) n g
    max (-128) (min 127 (Int.fdiv (floorShift i (lo - ulpExp w + 9) + 1) 2))
  | _, _ => 0

/-- One output of a raw load: its bytes and the events (08 R192, R200). -/
def Layout.output (d : Layout) (src : Nat → Byte) (r : RecipeRow) (am : SMap F32) (j : Nat) : List Byte × Ev :=
  if j == 2 then
    let vs := (panelOrder d.i d.o).map fun e => d.value src e.1 e.2
    (vs.flatMap (fun x => natLe 2 (toBf16 x).1) ++ vs.map (fun x => BitVec.ofInt 8 (offcutOf x)),
     vs.foldl (fun ev x => ev.add (toBf16 x).2) {})
  else
    let (K, C) := d.dims j
    let es := (panelOrder K C).map fun e =>
      quantElem d.fmt e.2 (if j == 1 then d.value src e.2 e.1 else d.value src e.1 e.2) none (loadScale r am e.2)
    (packCodes d.fmt (es.map (·.code)) ++ (List.range C).flatMap (fun c => natLe 4 (loadScale r am c).toNat),
     es.foldl (fun ev e => ev.add e.ev) {})

/-- QUANTISER_PASS_COMPLETE: one pass writes one output of a raw load; its saturations into the gradient format count for a step of the issuer (03 R81, 07 R174, 08 R200, R201). -/
def execQuantiserPassComplete (k : Nat) (s : State) (replays : Nat := 0) : Host.Outcome State Fault Refusal :=
  .next (
    match s.loads[k]? with
    | none => s
    | some l =>
      if !l.raw || l.arrived == 0 || !s.live then s
      else
        match l.passes with
        | [] => s
        | (i, j) :: rest =>
          match l.layouts[i]? with
          | none => s
          | some d =>
            s.cross replays l.srcAddr 6 l.ctx none fun s =>
            match s.meetWords 0 (s.badIn l.srcAddr l.arrived) with
            | (some w, s) => s.uncorrFault w 6 l.ctx none
            | (none, s) =>
              let src := fun a => Mem.byte s.mem (l.srcAddr + a)
              let (bs, ev) := d.output src ((s.ctx l.ctx).loadRow d) (SMap.get [] l.amaxes (2 * i + j % 2)) j
              let a := (if l.dest == 0 then 0 else l.destBase) + d.dest j
              let grad := (if j == 2 then 2 else d.fmt) == (s.ctx l.ctx).gradFmt
              s.land l a bs fun s => (s.arith l.ctx ev grad).modLoad k fun l => { l with passes := rest })

/-! ## LAST_SWITCH (08 R207, R210) -/

/-- LAST_SWITCH: judged at once, and carried out at the switch point (08 R205, R207, R210). -/
def execLastSwitch (n : CtxId) (tag : Tag) (s : State) : Host.Outcome State Fault Refusal :=
  .next (s.command n.val 0x22 tag fun c s =>
    let stop := fun (s : State) st => s.finish n.val 0x22 tag st 0 0
    let i := c.p 8 1 + 1
    let st := (s.last i).st
    if !s.mayLast n.val then stop s 0x239
    else if st == 0 || st == 1 then stop s 0x238
    else if st == 3 then s.finish n.val 0x22 tag 0 (b2n s.lastPtr.active) 0
    else { s with lastPtr := { s.lastPtr with pendingSw := s.lastPtr.pendingSw ++ [(n.val, tag, i)] } })

/-- The old last gives way: DRAINING, or READY when no RUN holds it (08 R207). -/
def Last.giveWay (l : Last) : Last := if l.st == 3 then { l with st := if l.inflight == 0 then 2 else 4 } else l

/-- The pointer moves to a last (08 R207, R214). -/
def State.switchTo (s : State) (i : Nat) : State :=
  let o := 3 - i
  let s := (s.setLast o (s.last o).giveWay).setLast i { s.last i with st := 3 }
  { s with lastPtr := { s.lastPtr with active := i == 2, valid := true, switches := satAdd 32 s.lastPtr.switches 1 } }

/-- SWITCH_POINT: the oldest accepted switch takes effect, and its command completes (08 R210). Its last is judged again as it stands. -/
def execSwitchPoint (s : State) : Host.Outcome State Fault Refusal :=
  .next (
    match s.lastPtr.pendingSw with
    | [] => s
    | (n, tag, i) :: rest =>
      if !s.live then s
      else
        let s := { s with lastPtr := { s.lastPtr with pendingSw := rest } }
        let st := (s.last i).st
        if st == 0 || st == 1 then s.finish n 0x22 tag 0x238 0 0
        else
          let s := if st == 3 then s else s.switchTo i
          s.finish n 0x22 tag 0 (i - 1) 0)

end Sys2Proof.Machine
end

