-- ==== Sys2Proof/Machine/Memory.lean ====
section
/-!
DEFINITION. Allocation commands, fills, scrub and remap commits (09 R220 to R235, 13 R362).
-/

namespace Sys2Proof.Machine

open Sys2Proof

/-! ## MEM_ALLOC (09 R220, R222) -/

/-- Pages of an allocation in the bulk window take an owner (13 R348). -/
def State.ownPages (s : State) (base units owner : Nat) : State :=
  (upFrom (pageOf base) units).foldl (fun s p => s.setOwner p owner) s

/-- Enter an allocation and end its command. -/
def State.allocate (s : State) (n : Nat) (tag : BitVec 16) (tier base units owner : Nat) : State :=
  let s := s.addAlloc n tier base units
  let s := if tier == 2 && inWindow base then s.ownPages base units owner else s
  s.finish n 0x10 tag 0 base 0

/-- MEM_ALLOC. One that finds free space only in ranges being filled waits (09 R230). -/
def execMemAlloc (n : CtxId) (tag : Tag) (s : State) : Host.Outcome State Fault Refusal :=
  .next (
    let room := fun (s : State) (c : Cmd) => s.charge n.val (c.p 8 1) (c.p 9 1) (c.p 16 8 / unit2M)
    s.commandIf n.val 0x10 tag (fun c => room s c != .wait) fun c s =>
      match room s c with
      | .ok base => s.allocate n.val tag (c.p 8 1) base (c.p 16 8 / unit2M) (c.p 10 1)
      | .overQuota => s.finish n.val 0x10 tag 0x210 0 0
      | _ => s.finish n.val 0x10 tag 0x211 0 0)

/-! ## MEM_FREE (09 R220, 13 R362) -/

/-- Bytes of a load's source (08 R193, R199). -/
def Load.sourceLen (l : Load) : Nat := if l.raw then rawBytes l.layouts else payloadOff l.head + l.payload

/-- A load names a range: its destination, or its source in T2. -/
def State.loadNames (s : State) (a n : Nat) : Bool :=
  s.loads.any fun l =>
    (l.ctxRanges.any fun r => overlaps r.1 r.2 a n) || (l.source == 2 && overlaps l.srcAddr l.sourceLen a n) ||
    (match l.stage with | some (b, u) => overlaps b (u * unit2M) a n | none => false)

/-- The ranges of T1 and T2 that a load or DUMP_READ in progress names in its parameters: an array of descriptors, a source in T2, a
context destination, pages (13 R362). -/
def Cmd.names (c : Cmd) : List (Nat × Nat) :=
  if c.opcode == 0x20 && decide (c.p 8 1 ≤ 1) then
    (if c.p 9 1 == 2 then [(c.p 24 8, max 1 (c.p 48 8))] else []) ++ (if c.p 10 1 == 0 then [(c.p 40 8, 1)] else [])
  else if c.opcode == 0x21 then (c.p 16 8, 64 * c.p 12 2) :: (if c.p 9 1 == 2 then [(c.p 24 8, 1)] else [])
  else if c.opcode == 0xF0 then [(pageBase (c.p 16 4), c.p 20 4 * unit2M)]
  else []

/-- A load or DUMP_READ in progress names a range (13 R362). -/
def State.commandNames (s : State) (a n : Nat) : Bool :=
  (List.range 17).any fun k => (s.ctx k).host.cmds.any fun c => c.names.any fun r => overlaps r.1 r.2 a n

/-- A snapshot, a restore, an export, an import or a DUMP_READ names a range of a context. -/
def State.moveNames (s : State) (ctx a n : Nat) : Bool :=
  let k := (s.ctx ctx).snap
  (match k.op with
   | some o =>
     if o.kind == 7 || o.kind == 8 then overlaps (pageBase k.firstPage) (k.pages * unit2M) a n else o.kind != 6 && inT1 a
   | none => false) ||
  (match s.flt.dumpRead with
   | some (_, c, first, pages, _) => c == ctx && overlaps (pageBase first) (pages * unit2M) a n
   | none => false)

/-- The installed program image lies in a range (13 R362). -/
def Ctx.imageIn (k : Ctx) (a n : Nat) : Bool := match k.prog with | some p => overlaps p.addr p.len a n | none => false

/-- Begin to free an allocation: T3 at once, T1 and T2 after their fill (09 R230). -/
def State.beginFree (s : State) (n : Nat) (tag : BitVec 16) (x : Alloc) : State :=
  if x.tier == 3 then
    ({ s with allocs := s.allocs.filter fun y => y != x }.subUsed n 3 x.units).finish n 0x11 tag 0 0 0
  else
    { s with allocs := s.allocs.map fun y => if y == x then { y with freeing := true } else y }.startFill x.tier x.base x.units
      (some (n, tag)) none

/-- MEM_FREE (09 R220, 07 R181, 13 R362). -/
def execMemFree (n : CtxId) (tag : Tag) (s : State) : Host.Outcome State Fault Refusal :=
  .next (s.command n.val 0x11 tag fun c s =>
    let stop := fun (s : State) st => s.finish n.val 0x11 tag st 0 0
    match s.allocs.find? fun x => x.ctx == n.val && x.base == c.p 16 8 && !x.freeing with
    | none => stop s 0x212
    | some x =>
      if x.tier != 3 && (s.ctx n.val).inRetained x.base x.size then stop s 0x233
      else if x.tier != 3 && ((s.ctx n.val).imageIn x.base x.size || s.loadNames x.base x.size || s.commandNames x.base x.size || s.moveNames n.val x.base x.size) then
        stop s 0x23E
      else s.beginFree n.val tag x)

/-- A filled range's allocation is released, its pages FREE and its charge gone (09 R230, 13 R348). -/
def State.endFree (s : State) (f : Fill) (n : Nat) (tag : BitVec 16) : State :=
  let gone := fun (x : Alloc) => x.ctx == n && x.tier == f.tier && x.base == f.base && x.freeing
  let s := ({ s with allocs := s.allocs.filter fun x => !gone x } : State).subUsed n f.tier f.units
  let s := s.modCtx n fun k => { k with copies := k.copies.filter fun e => match e.2 with | some a => !within a 1 f.base (f.units * unit2M) | none => true }
  let s := if f.tier == 2 && inWindow f.base then s.ownPages f.base f.units 0 else s
  s.finish n 0x11 tag 0 0 0

/-- MEM_FILL_COMPLETE: the range reads zeros with fresh check bits and returns to the free pool (09 R230). -/
def execMemFillComplete (k : Nat) (s : State) : Host.Outcome State Fault Refusal :=
  .next (
    match s.fills[k]? with
    | none => s
    | some f =>
      if !s.ready then s
      else
        let s := { s with fills := dropAt k s.fills }.fill f.base (f.units * unit2M)
        match f.waiter with
        | some (n, tag) => s.endFree f n tag
        | none => s)

/-! ## QUOTA_SET (09 R223) -/

/-- Set a limit. -/
def CtxMem.setLimit (m : CtxMem) (tier v : Nat) : CtxMem :=
  if tier == 1 then { m with lim1 := v } else if tier == 2 then { m with lim2 := v } else { m with lim3 := v }

/-- QUOTA_SET. -/
def execQuotaSet (tag : Tag) (s : State) : Host.Outcome State Fault Refusal :=
  .next (s.command 16 0x12 tag fun c s =>
    let n := c.p 8 1
    if n < 16 && (s.ctx n).sched.st != 1 then s.finish 16 0x12 tag 0x23D 0 0
    else (s.modCtx n fun k => k.modMem fun m => m.setLimit (c.p 9 1) (c.p 16 8)).finish 16 0x12 tag 0 0 0)

/-! ## Scrub and remap commits (09 R231 to R234) -/

/-- REMAP_LEDGER_COMMIT: the oldest entry of a controller that the ledger does not hold is committed (09 R234). -/
def execRemapLedgerCommit (ctl : PortId) (s : State) : Host.Outcome State Fault Refusal :=
  .next (s.modEcc fun e =>
    { e with remaps := SMap.upd [] e.remaps ctl.val fun t => updFirst (fun r => !r.committed) (fun r => { r with committed := true }) t })

/-- The scrub moves to the next word; past the tier's last word a pass is complete (09 R231, R240). -/
def Ecc.nextScrub (e : Ecc) (t2 : Bool) : Ecc :=
  if t2 then
    (if e.pos2 + 1 ≥ t2Size / 8 then { e with pos2 := 0, passes2 := satAdd 24 e.passes2 1 } else { e with pos2 := e.pos2 + 1 })
  else if e.pos1 + 1 ≥ t1Size / 8 then { e with pos1 := 0, passes1 := satAdd 24 e.passes1 1 } else { e with pos1 := e.pos1 + 1 }

/-- An uncorrectable word in a free page: the page is filled (09 R233). -/
def State.scrubBad (s : State) (tier w : Nat) : State :=
  let page := w / unit2M * unit2M
  if clearOf page unit2M (s.usedRanges tier ++ s.fillRanges tier) then s.fill page unit2M else s

/-- SCRUB_ACCESS: patrol scrub reads the word at its position (09 R231 to R233). It pauses in A3 and A4. -/
def execScrubAccess (t2 : Bool) (upsets : List Upset) (s : State) : Host.Outcome State Fault Refusal :=
  .next (
    if !s.ready || decide (s.pwr.rest ≥ 3) then s
    else
      let s := s.applyUpsets upsets
      let w := if t2 then t2Base + 8 * s.ecc.pos2 else t1Base + 8 * s.ecc.pos1
      let s := match s.meetWord w 1 with
        | (true, s) => s
        | (false, s) => s.scrubBad (if t2 then 2 else 1) w
      s.modEcc fun e => e.nextScrub t2)

end Sys2Proof.Machine
end

