-- ==== Sys2Proof/Machine/Ctxs.lean ====
section
/-!
DEFINITION. Creating and tearing down contexts (12 R306 to R308, R325 to R329).
-/

namespace Sys2Proof.Machine

open Sys2Proof

/-! ## CTX_CREATE (12 R308, 09 R501) -/

/-- Bytes of a part of a save area (09 R501). -/
def savePart : Nat := 492 * 0x100000

/-- Take a save-area part in each region and a control block; `none` where one cannot be had (09 R501, 12 R308). -/
def State.takeAreas (s : State) (n : Nat) : Option State :=
  let part := fun (o : Option State) q =>
    match o with
    | none => none
    | some s => (s.takeArea q savePart).map fun a => s.modCtx n fun k => k.modMem fun m => { m with save := SMap.set none m.save q (some a) }
  match [0, 1, 2, 3].foldl part (some s) with
  | none => none
  | some s => (s.takeArea 0 unit2M).map fun a => s.modCtx n fun k => (k.modMem fun m => { m with control := some a }).modStep fun t => { t with block := a }

/-- The state areas stand free but for ranges being filled (09 R230). -/
def State.areasWait (s : State) (n : Nat) : Bool := (s.takeAreas n).isNone && (s.filled.takeAreas n).isSome

/-- A new context's records: registers at their CTX_CREATE values, with the slot's snapshot generations and their charge (12 R307, 15 R403, 07 R180, R183). -/
def newCtx (old : Ctx) (cls slice : Nat) (key : BitVec 32) : Ctx :=
  { sched := { st := 1, cls := cls, slice := if slice == 0 then 5 else slice, key := key },
    step := { applied := noStep, committed := noStep },
    mem := { used3 := old.snap.g0.units + old.snap.g1.units },
    snap := { g0 := old.snap.g0, g1 := old.snap.g1 } }

/-- Bytes of a context's rings read zeros (13 R343). -/
def State.clearRings (s : State) (n : Nat) : State :=
  s.modHost fun h => { h with rings := SMap.wipe (SMap.wipe h.rings (0x8000 * n) 0x8000) (0x80000 + 0x2000 * n) 0x2000 }

/-- An ACTIVE context has a key. -/
def State.keyUsed (s : State) (key : BitVec 32) : Bool := (List.range 16).any fun n => (s.ctx n).sched.st == 1 && (s.ctx n).sched.key == key

/-- CTX_CREATE: the lowest FREE slot, its areas, its class, slice and key (12 R308, 13 R362). -/
def execCtxCreate (tag : Tag) (s : State) : Host.Outcome State Fault Refusal :=
  .next (
    match (List.range 16).find? fun n => (s.ctx n).sched.st == 0 with
    | none => s.command 16 2 tag fun c s =>
        s.finish 16 2 tag (if s.keyUsed (BitVec.ofNat 32 (c.p 12 4)) then 0x204 else 0x23C) 0 0
    | some n =>
      s.commandIf 16 2 tag (fun c => s.keyUsed (BitVec.ofNat 32 (c.p 12 4)) || !s.areasWait n) fun c s =>
        let key := BitVec.ofNat 32 (c.p 12 4)
        if s.keyUsed key then s.finish 16 2 tag 0x204 0 0
        else
          match (s.modCtx n fun k => newCtx k (c.p 8 1) (c.p 9 1) key).takeAreas n with
          | none => s.finish 16 2 tag 0x211 0 0
          | some s => ((s.clearRings n).ledgerSlot n).finish 16 2 tag 0 n (s.ctx n).step.block)

/-! ## CTX_DESTROY (12 R325) -/

/-- Issued work of a core: queue entries, latches, DMA transactions, remote accesses, shadow tiles. -/
def Core.issued (k : Core) : Nat :=
  k.vq.length + k.mq0.length + k.mq1.length + k.dq.length + b2n k.latch0 + b2n k.latch1 + k.remote.length + k.shadow.length +
    (k.dma.map fun d => d.out.length).sum

/-- Count arrivals absorbed (12 R326, R335). -/
def State.absorb (s : State) (n count : Nat) : State := s.modCtx n fun k => k.modSched fun h => { h with absorbed := satAdd 31 h.absorbed count }

/-- A context's cores stop at once; what they had issued completes and is applied to nothing (12 R325, R326, log 43). -/
def State.stopCores (s : State) (n : Nat) : State :=
  (List.range 320).foldl (fun s c => if (s.core c).ctx == some n then (s.absorb n (s.core c).issued).setCore c {} else s) s

/-- The quarters that a context runs pass on, without overrun and without a save (12 R325). -/
def State.leaveQuarters (s : State) (n : Nat) : State :=
  (List.range 4).foldl (fun s q =>
    s.modQuarter q fun k =>
      let k := if k.next == some n then { k with next := none } else k
      let k := if k.lastRan == some n then { k with lastRan := none } else k
      if k.cur == some n then { k with cur := none, phase := 0, next := none, yielded := false, lastRan := none } else k) s

/-- Drop the loads of a context; READ requests that they held back may go (08 R207, 13 R337). -/
def State.dropLoads (s : State) (n : Nat) : State :=
  let s := (s.loads.filter fun l => l.ctx == n).foldl State.abandonLoad s
  ({ s with loads := s.loads.filter fun l => l.ctx != n } : State).askLoads

/-- Drop what the fabric holds of a context on this module: its collectives, grants, delivered messages and messages in reassembly (12 R325, R326). -/
def State.dropFabric (s : State) (n : Nat) : State :=
  let l := s.link
  let mine := (l.inbox.filter fun m => m.ctx == n).length + (l.reasm.filter fun r => r.msg.ctx == n).length + (l.grants.filter fun g => g.msg.ctx == n).length
  ({ s with colls := s.colls.filter fun c => c.ctx != n,
            link := { l with inbox := l.inbox.filter fun m => m.ctx != n, reasm := l.reasm.filter fun r => r.msg.ctx != n,
                             grants := l.grants.filter fun g => g.msg.ctx != n } } : State).absorb n mine

/-- Its commands end ABORTED and are written where the ring has room; the rest is discarded, and so is a switch it waited for (12 R325, 13 R361). -/
def State.abortCommands (s : State) (n : Nat) : State :=
  let s := s.endAll n 0x221 0#64
  let s := s.postAll n (s.ctx n).host.comps.length
  let s := { s with lastPtr := { s.lastPtr with pendingSw := s.lastPtr.pendingSw.filter fun e => e.1 != n } }
  s.modCHost n fun h => { h with comps := [], taken := [] }

/-- Abort every RUN of a context (12 R325). -/
def State.abortRuns (s : State) (n : Nat) : State := (s.ctx n).runs.foldl (fun s r => s.abortRun n r) s

/-- Place a drain mark at the tail of every egress queue of VC1 to VC5 of every ACTIVE port, in place of an older one of the slot (12 R325). -/
def State.placeMarks (s : State) (n : Nat) : State :=
  let ps := (List.range 36).filter fun p => s.active p
  let clear := fun (k : Port) => { k with marks := k.marks.filter (fun m => m.1 != n),
                                          egress := k.egress.map fun e => (e.1, e.2.filter fun i => i != .mark n) }
  let s := ps.foldl (fun s p => [1, 2, 3, 4, 5].foldl (fun s vc => s.enqueue p vc (.mark n)) (s.modPort p clear)) s
  s.modCtx n fun k => k.modSched fun h => { h with marks := ps.flatMap (fun p => [1, 2, 3, 4, 5].map fun vc => (p, vc)), markTimeout := false }

/-- Drop a context's commands, its transfers and its generations. -/
def Ctx.retired (k : Ctx) (tag : BitVec 16) : Ctx :=
  { k with sched := { k.sched with st := 2, suspended := false, destroy := some tag }, pool := [], saved := [], mergeQ := [], runs := [],
           step := { k.step with reshard := none, wave := none }, snap := { k.snap with op := none, drain := none, g0 := {}, g1 := {} } }

/-- The staging of a context's snapshots is filled and freed; the drain stops (15 R402, R405). -/
def State.dropStaging (s : State) (n : Nat) : State :=
  let k := (s.ctx n).snap
  s.freeStaging ((match k.op with | some o => o.staging | none => []) ++ (match k.drain with | some o => o.staging | none => []))

/-- CTX_DESTROY (12 R325). -/
def execCtxDestroy (tag : Tag) (s : State) : Host.Outcome State Fault Refusal :=
  .next (s.command 16 3 tag fun c s =>
    let n := c.p 8 1
    if (s.ctx n).sched.st != 1 then s.finish 16 3 tag 0x23D 0 0
    else
      let s := ((s.stopCores n).abortCommands n).abortRuns n
      let s := (((s.dropStaging n).dropLoads n).dropFabric n).modCtx n fun k => k.retired tag
      ((((s.placeMarks n).leaveQuarters n).endSuspends).rescheduleAll).pumpAll)

/-! ## Retirement (12 R327) -/

/-- Flits of a context in a port's queues and buffers. -/
def Port.flitsOf (k : Port) (n : Nat) : Nat :=
  ((k.egress.map fun e => (e.2.filter fun i => match i with | .flit f _ _ => f.ctx.toNat == n | .mark _ => false).length).sum) +
    (k.rbuf.filter fun f => f.ctx.toNat == n).length

/-- CTX_RETIRE.QUIET: items of a context inside the module (12 R327, R335). -/
def State.quiet (s : State) (n : Nat) : Nat :=
  ((List.range 36).map fun p => (s.port p).flitsOf n).sum +
  ((List.range 8).map fun d => ((s.dir d).held.filter fun e => e.1.ctx.toNat == n).length).sum +
  (s.link.inbox.filter fun m => m.ctx == n).length + (s.link.reasm.filter fun r => r.msg.ctx == n).length +
  (s.link.grants.filter fun g => g.msg.ctx == n).length + (s.colls.filter fun c => c.ctx == n).length +
  ((List.range 320).map fun c => if (s.core c).ctx == some n then (s.core c).issued else 0).sum

/-- The id may be reused (12 R327). -/
def State.reusable (s : State) (n : Nat) : Bool :=
  s.quiet n == 0 && ((s.ctx n).sched.marks.isEmpty || (s.ctx n).sched.markTimeout)

/-- A fill that a MEM_FREE of the context waited for now belongs to its teardown. -/
def Fill.adopt (f : Fill) (n : Nat) : Fill :=
  match f.waiter with
  | some (m, _) => if m == n then { f with waiter := none, retire := some n } else f
  | none => f

/-- The fill of every allocation and state area of a retiring context begins; the areas are released when the slot becomes FREE (12 R325 step 5, 09 R501). -/
def State.fillCtx (s : State) (n : Nat) : State :=
  let xs := s.allocs.filter fun x => x.ctx == n && x.tier != 3 && !x.freeing
  let areas := (s.ctx n).mem.areas
  let s := { s with allocs := s.allocs.map (fun (x : Alloc) => if x.ctx == n then { x with freeing := true } else x),
                    fills := s.fills.map (fun (f : Fill) => f.adopt n) }
  let s := xs.foldl (fun s x => s.startFill x.tier x.base x.units none (some n)) s
  let s := areas.foldl (fun s r => s.startFill 1 r.1 (r.2 / unit2M) none (some n)) s
  s.modCtx n fun k => k.modSched fun h => { h with filling := true }

/-- The allocations of a context are gone, and its pages FREE (12 R325, 13 R348). -/
def State.dropAllocs (s : State) (n : Nat) : State :=
  let s := (s.allocs.filter fun x => x.ctx == n && x.tier == 2 && inWindow x.base).foldl (fun s x => s.ownPages x.base x.units 0) s
  { s with allocs := s.allocs.filter fun x => x.ctx != n }

/-- A retiring slot whose reuse condition holds begins its fill, once (12 R325). -/
def State.retireStep (s : State) (n : Nat) : State :=
  if (s.ctx n).sched.st == 2 && !(s.ctx n).sched.filling && s.reusable n then s.fillCtx n else s

/-- DRAIN_MARK_PASS: every flit ahead of a mark has been sent and acknowledged (12 R327). -/
def execDrainMarkPass (n : CtxN) (p : PortId) (vc : Fin 8) (s : State) : Host.Outcome State Fault Refusal :=
  .next (
    let k := s.port p.val
    let sent := k.marks.find? fun m => m.1 == n.val && m.2.1 == vc.val
    let ahead := match sent with
      | some (_, _, some q) => k.rbuf.any fun f => f.seq == q
      | some (_, _, none) => false
      | none => (SMap.get [] k.egress vc.val).head? != some (.mark n.val) || k.rbuf.any fun f => f.vc.toNat == vc.val
    if !((s.ctx n.val).sched.marks.contains (p.val, vc.val)) || ahead then s
    else
      let s := s.modPort p.val fun k =>
        { k with marks := k.marks.filter fun m => !(m.1 == n.val && m.2.1 == vc.val),
                 egress := SMap.upd [] k.egress vc.val fun l => l.filter fun i => i != .mark n.val }
      (s.modCtx n.val fun k => k.modSched fun h => { h with marks := h.marks.filter fun m => m != (p.val, vc.val) }).retireStep n.val)

/-- RETIRE_TIMEOUT: 1 ms since the marks were placed (12 R327). -/
def execRetireTimeout (n : CtxN) (s : State) : Host.Outcome State Fault Refusal :=
  .next (
    if (s.ctx n.val).sched.st != 2 then s
    else (s.modCtx n.val fun k => k.modSched fun h => { h with markTimeout := true }).retireStep n.val)

/-- Disconnect every queue pair of a context (13 R338). -/
def State.dropQps (s : State) (n : Nat) : State :=
  s.modHost fun h => { h with qps := h.qps.filter fun e => match e.2 with | some q => q.ctx != n | none => false }

/-- A FREE slot keeps its accounting and its arithmetic status (12 R323, log 44). -/
def Ctx.freed (k : Ctx) : Ctx :=
  { sched := { cls := k.sched.cls, wait := k.sched.wait, preempt := k.sched.preempt, used := k.sched.used, overrun := k.sched.overrun,
               energy := k.sched.energy, absorbed := k.sched.absorbed },
    arith := k.arith }

/-- The slot is FREE and CTX_DESTROY completes (12 R325, 13 R338). -/
def State.freeSlot (s : State) (n : Nat) : State :=
  let tag := (s.ctx n).sched.destroy
  let cache := s.cache.map fun e => if e.ctx == n then { e with ctx := 17 } else e
  let s := (({ s with cache := cache } : State).dropQps n).dropAllocs n
  let s := (s.modCtx n Ctx.freed).pumpAll
  match tag with | some t => s.finish 16 3 t 0 0 0 | none => s

/-- RETIRE_COMPLETE: the reuse condition holds and every fill of the context has ended (12 R307, R325). -/
def execRetireComplete (n : CtxN) (s : State) : Host.Outcome State Fault Refusal :=
  .next (
    if (s.ctx n.val).sched.st != 2 then s
    else
      let s := s.retireStep n.val
      if !(s.ctx n.val).sched.filling || (s.fills.any fun f => f.retire == some n.val) then s else s.freeSlot n.val)

end Sys2Proof.Machine
end

