-- ==== Sys2Proof/Machine/Commands.lean ====
section
/-!
DEFINITION. Submission and completion rings, doorbells, the start of commands and the management ports (13 R341 to R362).
-/

namespace Sys2Proof.Machine

open Sys2Proof

/-! ## Doorbells (13 R343, R347, R351, R355, R356) -/

/-- A host write is discarded (13 R344). -/
def State.hostDiscard (s : State) : State := s.modHost fun h => { h with discarded := satAdd 16 h.discarded 1 }
/-- A doorbell value is refused (13 R351, R355). -/
def State.hostStale (s : State) : State := s.modHost fun h => { h with stale := satAdd 16 h.stale 1 }

/-- Take the slots that the tail covers, in count order (13 R351). `k` bounds them. -/
def State.takeSlots (s : State) (n : Nat) : Nat → State
  | 0 => s
  | k + 1 =>
    let h := (s.ctx n).host
    if h.sqHead == h.sqTail then s
    else
      let t : Taken := { bytes := Mem.read s.host.rings (0x8000 * n + 128 * (h.sqHead.toNat % 256)) 128, seq := 0#64, ports := 0#2 }
      (s.modCHost n fun h => { h with sqHead := h.sqHead + 1#32, taken := h.taken ++ [t] }).takeSlots n k

/-- Slots are taken while the module is ready and awake (13 R351). -/
def State.takeIfAwake (s : State) (n : Nat) : State := if s.ready && s.pwr.rest == 0 then s.takeSlots n 256 else s

/-- A doorbell of a context: ignored and absorbed while it retires, no effect while the slot is FREE (12 R326). -/
def State.doorbell (s : State) (n : Nat) (body : State → State) : State :=
  if (s.ctx n).sched.st == 2 then s.absorb n 1 else if (s.ctx n).sched.st == 1 then body s else s

/-- A write of SQ_TAIL (13 R344, R351). -/
def State.writeSqTail (s : State) (n : Nat) (v : BitVec 64) : State :=
  s.doorbell n fun s =>
    let h := (s.ctx n).host
    let t := v.setWidth 32
    if v.toNat ≥ 2 ^ 32 then s.hostDiscard
    else if (t - h.sqTail).toNat ≤ 256 - (h.sqTail - h.sqHead).toNat then ((if t == h.sqTail then s else s.abandonEntry).modCHost n fun h => { h with sqTail := t }).takeIfAwake n
    else s.hostStale

/-- A write of CQ_HEAD (13 R344, R355). -/
def State.writeCqHead (s : State) (n : Nat) (v : BitVec 64) : State :=
  s.doorbell n fun s =>
    let h := (s.ctx n).host
    let t := v.setWidth 32
    if v.toNat ≥ 2 ^ 32 then s.hostDiscard
    else if (t - h.cqHead).toNat ≤ (h.cqTail - h.cqHead).toNat then s.modCHost n fun h => { h with cqHead := t }
    else s.hostStale

/-- The changes of owner that a flag write may make (13 R348). -/
def flagChange (old new : Nat) : Bool := (old == 1 && new == 2) || (old == 3 && (new == 1 || new == 2))

/-- A bulk page in an allocation of a context. -/
def State.ownsPage (s : State) (n p : Nat) : Bool := decide (p < 131072) && s.inAlloc n (pageBase p) unit2M

/-- A write of FLAGW (13 R347). -/
def State.writeFlag (s : State) (n : Nat) (v : BitVec 64) : State :=
  s.doorbell n fun s =>
    let x := v.toNat
    let p := fld x 16 0
    let owner := fld x 25 24
    if fld x 23 17 == 0 && fld x 31 26 == 0 && fld x 63 40 == 0 && s.ownsPage n p && (s.page p).seq.toNat == fld x 39 32 &&
        flagChange (s.page p).owner owner then
      s.setOwner p owner
    else s.modHost fun h => { h with flagRefused := satAdd 16 h.flagRefused 1 }

/-- A write of NOTIFY (13 R343, R344, R356). -/
def State.writeNotify (s : State) (n : Nat) (v : BitVec 64) : State :=
  s.doorbell n fun s =>
    if v.toNat ≥ 2 ^ 25 then s.hostDiscard
    else s.modCHost n fun h => { h with notifyQp := v.setWidth 24, notifyEn := v.getLsbD 24 }

/-- SQ_TAIL. -/
def execSqTail (n : CtxN) (v : BitVec 64) (s : State) : Host.Outcome State Fault Refusal := .next (s.writeSqTail n.val v)
/-- CQ_HEAD. -/
def execCqHead (n : CtxN) (v : BitVec 64) (s : State) : Host.Outcome State Fault Refusal := .next (s.writeCqHead n.val v)
/-- FLAG_WRITE. -/
def execFlagWrite (n : CtxN) (v : BitVec 64) (s : State) : Host.Outcome State Fault Refusal := .next (s.writeFlag n.val v)
/-- NOTIFY. -/
def execNotify (n : CtxN) (v : BitVec 64) (s : State) : Host.Outcome State Fault Refusal := .next (s.writeNotify n.val v)

/-! ## The command table (13 R362) -/

/-- Who may issue an opcode: 0 admin, 1 a client context, 2 either; `none` for an opcode not in the tables. -/
def issuerOf (op : Nat) : Option Nat :=
  if [0x01, 0x10, 0x11, 0x20, 0x21, 0x22, 0x70].contains op then some 2
  else if [0x02, 0x03, 0x12, 0x32, 0x50, 0x51, 0x60, 0x61, 0x90, 0x91, 0x92, 0xA0, 0xA1, 0xF0].contains op then some 0
  else if [0x30, 0x31, 0x40, 0x41, 0x80].contains op then some 1
  else none

/-- The parameters of an opcode: slot byte and size of each. -/
def paramsOf (op : Nat) (action : Nat) : List (Nat × Nat) :=
  match op with
  | 0x02 => [(8, 1), (9, 1), (12, 4)]
  | 0x03 => [(8, 1)]
  | 0x10 => [(8, 1), (9, 1), (10, 1), (16, 8)]
  | 0x11 => [(16, 8)]
  | 0x12 => [(8, 1), (9, 1), (16, 8)]
  | 0x20 => if action == 2 then [(8, 1), (16, 8)] else [(8, 1), (9, 1), (10, 1), (16, 8), (24, 8), (32, 4), (36, 4), (40, 8), (48, 8)]
  | 0x21 => [(9, 1), (10, 1), (12, 2), (16, 8), (24, 8), (32, 4), (36, 4), (40, 8)]
  | 0x22 => [(8, 1)]
  | 0x30 => [(16, 8), (24, 8)]
  | 0x31 => [(8, 1), (16, 8), (24, 8), (32, 4), (36, 4)]
  | 0x32 => [(8, 1), (9, 1)]
  | 0x40 => [(8, 1), (16, 8)]
  | 0x41 => [(8, 1)]
  | 0x50 => [(8, 4)]
  | 0x51 => [(8, 2), (12, 4)]
  | 0x60 => [(8, 1), (16, 8), (24, 8)]
  | 0x61 => [(16, 8)]
  | 0x70 => [(8, 32), (40, 2), (48, 8)]
  | 0x80 => [(16, 8), (24, 4)]
  | 0x90 => [(8, 2), (10, 2), (12, 2), (16, 4), (20, 1)]
  | 0x92 => [(8, 8), (16, 2), (20, 4)]
  | 0xA1 => [(8, 1)]
  | 0xF0 => [(8, 1), (16, 4), (20, 4), (24, 8)]
  | _ => []

/-- Peak power of the module in W (16 R420). -/
def powerLimit : Nat := match Config.ordering with | .a => 2400 | .b => 2000 | .c => 1600

/-- The values that the tables allow a command's parameters, as far as they depend on nothing else. -/
def paramsOk (op : Nat) (p : Nat → Nat → Nat) : Bool :=
  match op with
  | 0x02 => decide (p 8 1 ≤ 3) && decide (p 9 1 ≤ 100) && p 12 4 != 0
  | 0x03 => decide (p 8 1 ≤ 15)
  | 0x10 =>
    decide (1 ≤ p 8 1) && decide (p 8 1 ≤ 3) && p 16 8 % unit2M == 0 && p 16 8 != 0 &&
    (if p 8 1 == 1 then decide (p 9 1 ≤ 3) && p 10 1 == 0
     else if p 8 1 == 2 then (if p 9 1 == 1 then p 10 1 == 1 || p 10 1 == 2 else p 9 1 == 0 && p 10 1 == 0)
     else p 9 1 == 0 && p 10 1 == 0)
  | 0x12 => decide (p 8 1 ≤ 16) && decide (1 ≤ p 9 1) && decide (p 9 1 ≤ 3) && decide (p 16 8 < 2 ^ 32)
  | 0x20 => decide (p 8 1 ≤ 2) && decide (p 9 1 ≤ 2) && decide (p 10 1 ≤ 2)
  | 0x21 =>
    (p 9 1 == 0 || (p 9 1 == 2 && p 24 8 % unit2M == 0)) && decide (p 10 1 ≤ 2) && decide (1 ≤ p 12 2) && decide (p 12 2 ≤ 4096)
  | 0x22 => decide (p 8 1 ≤ 1)
  | 0x31 => decide (p 8 1 ≤ 3) && decide (p 16 8 < 2 ^ 48)
  | 0x32 => decide (p 8 1 ≤ 15) && decide (p 9 1 ≤ 1)
  | 0x40 => decide (p 8 1 ≤ 1)
  | 0x41 => decide (p 8 1 ≤ 1)
  | 0x51 => decide (1 ≤ p 8 2) && decide (p 8 2 ≤ 400) && decide (p 12 4 ≤ powerLimit)
  | 0x60 => decide (p 8 1 ≤ 1)
  | 0x61 => decide (p 16 8 < 2 ^ 32)
  | 0x90 => decide (p 20 1 ≤ 3)
  | 0xA1 => decide (p 8 1 ≤ 1)
  | 0xF0 => decide (p 8 1 ≤ 15)
  | _ => true

/-- The first check of a slot that fails, as a status; 0 when all pass (13 R353). -/
def slotStatus (b : List Byte) (n : Nat) : Nat :=
  let p := fun o k => field b o k
  let len := p 6 2
  let op := p 0 2
  if p 124 4 != (crc32c (b.take 124)).toNat || decide (len > 112) || decide (p 3 1 > 1) || p 120 4 != 0 ||
      ((b.drop (8 + len)).take (112 - len)).any (fun x => x != 0#8) then 0x202
  else
    match issuerOf op with
    | none => 0x201
    | some who =>
      if p 2 1 != n then 0x203
      else if (who == 0 && n != 16) || (who == 1 && n == 16) then 0x239
      else
        let named := paramsOf op (p 8 1)
        let stray := (upFrom 8 112).any fun i => b.getD i 0#8 != 0#8 && !(named.any fun f => decide (f.1 ≤ i) && decide (i < f.1 + f.2))
        if stray || !paramsOk op p then 0x204 else 0

/-! ## The start of a command (13 R352, R353) -/

/-- A training RUN of the context has not ended (13 R352). -/
def Ctx.training (k : Ctx) : Bool :=
  (k.runs.any fun r => r.step) || k.host.cmds.any fun c => c.opcode == 0x31 && c.p 16 8 != noStep

/-- A slot may start: room among 64, FENCE with nothing earlier in progress, and one training RUN at a time (13 R352). -/
def Ctx.mayStart (k : Ctx) (t : Taken) : Bool :=
  decide (k.host.inProgress < 64) && !(bit (field t.bytes 3 1) 0 && k.host.inProgress != 0) &&
  !(field t.bytes 0 2 == 0x31 && field t.bytes 16 8 != noStep && k.training)

/-- Start a slot: the checks in order, then the command waits for its own row, or its completion tells what failed (13 R353). -/
def State.startSlot (s : State) (n : Nat) (t : Taken) : State :=
  let st := slotStatus t.bytes n
  let op := field t.bytes 0 2
  let tag := BitVec.ofNat 16 (field t.bytes 4 2)
  if st == 0 then
    s.modCHost n fun h => { h with cmds := h.cmds ++ [{ opcode := op, tag := tag, params := (t.bytes.drop 8).take 112,
                                                        fence := bit (field t.bytes 3 1) 0, running := false, seq := t.seq, ports := t.ports }] }
  else
    s.modCHost n fun h => { h with comps := h.comps ++ [{ opcode := op, tag := tag, status := st, res0 := 0#64, res1 := 0#64,
                                                          cacheFail := false, extra := [], seq := t.seq, ports := t.ports }] }

/-- A management command served in any rest state (16 R437): QUERY, HEALTH_READ, WAKE_BUDGET, POWER_SHAPE, SPARE_RESERVE_HINT. -/
def servedAtRest (op : Nat) : Bool := [0x01, 0xA0, 0x50, 0x51, 0xA1].contains op

/-- The module is in A0, or serves a management command in its rest state (16 R437). -/
def State.serves (s : State) (n : Nat) (t : Taken) : Bool := s.pwr.rest == 0 || (n == 16 && servedAtRest (field t.bytes 0 2))

/-- COMMAND_START: the oldest slot taken starts (13 R352, R353). After a fatal fault none starts (14 R371), and in a rest state only those of R437. -/
def execCommandStart (n : CtxId) (s : State) : Host.Outcome State Fault Refusal :=
  .next (
    let k := s.ctx n.val
    match k.host.taken with
    | [] => s
    | t :: ts =>
      if s.live && s.serves n.val t && (n.val == 16 || k.sched.st == 1) && k.mayStart t then
        (s.modCHost n.val fun h => { h with taken := ts }).startSlot n.val t
      else s)

/-- COMPLETION_POST: the oldest waiting completion is written once the ring has room (13 R354, R355). -/
def execCompletionPost (n : CtxId) (s : State) : Host.Outcome State Fault Refusal :=
  .next (if n.val == 16 || (s.ctx n.val).sched.st == 1 then s.postAll n.val 1 else s)

/-! ## QUERY (13 R362) -/

/-- Enabled cores of the module. -/
def State.enabledCores (s : State) : Nat := ((List.range 4).map fun q => s.enabledOf q).sum
/-- Result byte of an ordering code (13 R362). -/
def orderingCode : Nat := match Config.ordering with | .a => 0x0A | .b => 0x0B | .c => 0x0C

/-- QUERY. -/
def execQuery (n : CtxId) (tag : Tag) (s : State) : Host.Outcome State Fault Refusal :=
  .next (s.command n.val 1 tag fun _ s =>
    s.finish n.val 1 tag 0 Config.serial.toNat
      (orderingCode + s.enabledCores * 2 ^ 8 + b2n s.rst.short * 2 ^ 17 + s.pwr.rest * 2 ^ 18 + s.shk.release.toNat * 2 ^ 32))

/-! ## Management datagrams (13 R358 to R360, R500) -/

/-- Count a rejected datagram (13 R367). -/
def State.mgmtReject (s : State) (port : Nat) : State := s.modHost fun h => { h with rejected := SMap.upd 0 h.rejected port fun c => satAdd 16 c 1 }
/-- Count a duplicate (13 R367). -/
def State.mgmtDup (s : State) (port : Nat) : State := s.modHost fun h => { h with duplicates := SMap.upd 0 h.duplicates port fun c => satAdd 16 c 1 }

/-- A datagram with a header, a kind and a MAC that hold (13 R358). -/
def State.mgmtOk (s : State) (kind : Nat) (b : List Byte) : Bool :=
  decide (32 ≤ b.length) && b.take 4 == [0x5A#8, 0x49#8, 0x4D#8, 0x31#8] && field b 4 1 == kind && field b 5 3 == 0 &&
  (b.drop 16).take 16 == (digestBytes (hmacSm3 (natLe 16 s.shk.mgmtKey.toNat) (b.take 16 ++ b.drop 32))).take 16

/-- The report address of a port follows the most recent valid command (13 R360). -/
def State.reportTo (s : State) (port : Nat) (ip : BitVec 128) (udp : BitVec 16) : State :=
  { s with hlt := { s.hlt with reportAddr := SMap.set none s.hlt.reportAddr port (some { ip := ip, udp := udp }) } }

/-- A completion outside the kept ones, on one port: a status with the command's opcode and tag (13 R359, R500). -/
def State.mgmtAnswer (s : State) (port status : Nat) (seq : Nat) (slot : List Byte) : State :=
  let e : Comp := { opcode := field slot 0 2, tag := BitVec.ofNat 16 (field slot 4 2), status := status, res0 := 0#64, res1 := 0#64,
                    cacheFail := false, extra := [], seq := 0#64, ports := 0#2 }
  s.mgmtSend port 2 seq (e.bytes 16 true 0#32)

/-- The lowest sequence number kept. -/
def lowestKept (ks : List Kept) : Option Nat :=
  ks.foldl (fun m k => match m with | some x => some (min x k.seq.toNat) | none => some k.seq.toNat) none

/-- A command's copy has arrived on a port. -/
def portBit (port : Nat) : BitVec 2 := BitVec.ofNat 2 (2 ^ port)

/-- Handle a valid command datagram by its sequence number (13 R359). `slot` gives the opcode and the tag to echo. -/
def State.mgmtCommand (s : State) (port : Nat) (b slot : List Byte) (enter : State → BitVec 64 → State) : State :=
  let seq := BitVec.ofNat 64 (field b 8 8)
  match s.host.kept.find? fun k => k.seq == seq with
  | some k =>
    match k.comp with
    | some body => s.mgmtSend port 2 seq.toNat body
    | none =>
      if k.done then (s.mgmtDup port).mgmtAnswer port 0x247 seq.toNat slot
      else
        (s.mgmtDup port).modHost fun h =>
          { h with kept := updFirst (fun k => k.seq == seq) (fun k => { k with ports := k.ports ||| portBit port }) h.kept }
  | none =>
    if (match lowestKept s.host.kept with | some m => decide (seq.toNat ≤ m) | none => false) then s.mgmtReject port
    else
      let e : Kept := { seq := seq, ports := portBit port, opcode := field slot 0 2, tag := BitVec.ofNat 16 (field slot 4 2), comp := none, done := false }
      enter (s.modHost fun h => { h with kept := trimKept (e :: h.kept) }) seq

/-- MANAGEMENT_COMMAND_DATAGRAM: checked, deduplicated, and taken for execution, or answered BUSY before ready (13 R358 to R360, R500). -/
def execManagementCommandDatagram (port : Fin 2) (ip : BitVec 128) (udp : BitVec 16) (bytes : List Byte) (s : State) :
    Host.Outcome State Fault Refusal :=
  .next (
    if s.pwr.sup == 3 then s
    else if !s.mgmtOk 1 bytes || bytes.length != 160 then s.mgmtReject port.val
    else
      let s := s.reportTo port.val ip udp
      if !s.ready then s.mgmtAnswer port.val 0x23E (field bytes 8 8) (bytes.drop 32)
      else s.mgmtCommand port.val bytes (bytes.drop 32) fun s seq =>
        (if servedAtRest (field bytes 32 2) then s else s.abandonEntry).modCHost 16 fun h => { h with taken := h.taken ++ [{ bytes := bytes.drop 32, seq := seq, ports := portBit port.val }] })

/-- The 32 bytes of a heartbeat (13 R360). -/
def State.heartbeat (s : State) : List Byte :=
  natLe 8 Config.serial.toNat ++ [BitVec.ofNat 8 s.modState, BitVec.ofNat 8 s.pwr.rest] ++ natLe 2 s.hlt.score ++ natLe 4 s.shk.release.toNat ++
    natLe 2 ((List.range 16).foldl (fun m n => if (s.ctx n).sched.st == 1 then m + 2 ^ n else m) 0) ++ List.replicate 14 0#8

/-- HEARTBEAT_TIMER: one heartbeat, numbered by the count with it (13 R360, log 46). Without input nothing is sent (16 R432). -/
def execHeartbeatTimer (port : Fin 2) (s : State) : Host.Outcome State Fault Refusal :=
  .next (
    if s.pwr.sup == 3 then s
    else
      let c := (SMap.get (0#24) s.host.heartbeats port.val) + 1#24
      (s.modHost fun h => { h with heartbeats := SMap.set (0#24) h.heartbeats port.val c }).mgmtSend port.val 3 c.toNat s.heartbeat)

/-- ETHERNET_LINK_UP_DOWN; a module that is off takes no part (13 R365, R367, 16 R421). -/
def execEthernetLinkUpDown (mgmt : Bool) (n : Fin 4) (up : Bool) (s : State) : Host.Outcome State Fault Refusal :=
  .next (if s.pwr.sup == 3 || (!mgmt && s.pwr.rest == 4) then s else s.modHost fun h =>
    if !mgmt then { h with hostUp := SMap.set false h.hostUp n.val up }
    else if n.val < 2 then { h with mgmtUp := SMap.set false h.mgmtUp n.val up }
    else h)

end Sys2Proof.Machine
end

