-- ==== Sys2Proof/Machine/Issue.lean ====
section
/-!
DEFINITION. The instructions that an issue queue carries out, and semaphores, blocks and layer markers: their checks at
issue and what they hand over (05 R121, R128 to R148).
-/

namespace Sys2Proof.Machine

open Sys2Proof

/-! ## Layout V (05 R116, R128, R133 to R141) -/

/-- A field is 0 unless it is used. -/
def unused (used : Bool) {n : Nat} (f : BitVec n) : Bool := used || f == 0

/-- Fields of VOP. -/
def vopFields (w : VF) : Bool :=
  let fn := w.fn.toNat
  decide (fn ≤ 14) && w.misc == 0#12 && unused (vopA fn) w.a && unused (vopB fn) w.b && unused (vopX fn) w.x

/-- LANES and TOS of VRED. -/
def vredLanesBit (w : VF) : Bool := bit w.misc.toNat 0
def vredTos (w : VF) : Bool := bit w.misc.toNat 1

/-- Fields of VRED. -/
def vredFields (w : VF) : Bool :=
  decide (w.fn.toNat ≤ 3) && w.b == 0#5 && decide (w.misc.toNat < 3) && unused (vredTos w) w.x && unused (!vredTos w) w.d

/-- Fields of VANY. -/
def vanyFields (w : VF) : Bool :=
  decide (w.fn.toNat ≤ 3) && w.b == 0#5 && w.x == 0#11 && w.misc == 0#12 && decide (w.d.toNat < 8)

/-- Fields of ACT (05 R137). -/
def actFields (w : VF) : Bool :=
  let fn := w.fn.toNat % 16
  let mode := w.fn.toNat / 16
  actDefined fn && decide (mode ≤ 2) && (mode != 1 || actOutDer fn) && w.x == 0#11 && w.misc == 0#12 && unused (mode != 0) w.b

/-- Fields of QNT (05 R140). -/
def qntFields (w : VF) : Bool :=
  let f := w.fn.toNat % 8
  let m := w.misc.toNat
  let chm := fld m 8 7
  decide (2 ≤ f) && decide (f ≤ 6) && decide (w.fn.toNat < 16) && unused (bit w.fn.toNat 3) w.b && !bit m 1 &&
    (if bit m 0 then
      chm != 3 && (chm != 0 || fld m 6 2 == 0) && (if chm == 1 then decide (w.x.toNat < 256) else w.x == 0#11)
    else decide (f ≤ 3) && decide (m < 2) && w.x == 0#11)

/-- Fields of WID (05 R141). -/
def widFields (w : VF) : Bool :=
  let f := w.fn.toNat % 8
  decide (2 ≤ f) && decide (f ≤ 6) && decide (w.fn.toNat < 16) && w.b == 0#5 && w.misc == 0#12 && unused (bit w.fn.toNat 3) w.x

/-- Fields of SLD and SST (05 R128). -/
def sldFields (w : VF) : Bool :=
  w.fn == 0#8 && w.d == 0#5 && w.b == 0#5 && w.misc == 0#12 && decide (w.x.toNat + 256 * w.n ≤ 2048)
def sstFields (w : VF) : Bool :=
  w.fn == 0#8 && w.a == 0#5 && w.b == 0#5 && w.misc == 0#12 && decide (w.x.toNat + 256 * w.n ≤ 2048)

/-- The A registers that a layout-V instruction reads. -/
def vecRegs (op : VecOp) (w : VF) : List Nat :=
  let fn := w.fn.toNat
  let a := w.a.toNat
  let b := w.b.toNat
  let d := w.d.toNat
  match op with
  | .vop => d :: ((if vopA fn then [a] else []) ++ (if vopB fn then [b] else []))
  | .vred => a :: (if vredTos w then [] else [d])
  | .vany => [a]
  | .act => [a, d] ++ (if fn / 16 == 0 then [] else [b])
  | .qnt => [a, d] ++ (if bit fn 3 then [b] else []) ++ (if fld w.misc.toNat 8 7 == 0 then [] else [fld w.misc.toNat 6 2])
  | .wid => [a, d]
  | .sld => [a]
  | .sst => [d]

/-- The captured operands of a layout-V instruction. -/
def Core.vecWork (k : Core) (op : VecOp) (w : VF) : VecWork :=
  { op := op, f := w, ra := k.ra w.a.toNat, rb := k.ra w.b.toNat, rd := k.ra w.d.toNat,
    rc := if op == .qnt then k.ra (fld w.misc.toNat 6 2) else 0#64 }

/-- A run's offset and end are ones that a vector instruction accepts (05 R133). -/
def rangeOk (r : Nat × Nat) : Bool := decide (r.1 % 128 = 0) && decide (r.1 + r.2 ≤ coreSize)

/-- The tensor of a slot has per-channel scaling (03 R52). -/
def Ctx.perChan (k : Ctx) (tid : BitVec 32) : Bool := match k.rowOf tid with | some r => r.perChan | none => false

/-- A QNT that records passes an open slot whose tensor its channel mode matches, and names channels below 65,536 (05 R140). -/
def State.qntOk (s : State) (c : Nat) (w : VecWork) : Bool :=
  let k := s.core c
  !w.trk ||
    match k.ctx, k.slotPO w.slotIx with
    | some n, some tid =>
      (w.chm != 0) == (s.ctx n).perChan tid &&
        (if w.chm == 1 then decide (w.rc.toNat + (w.f.n - 1) / w.rpc < 65536)
         else if w.chm == 2 then decide (w.rc.toNat + 63 < 65536) else true)
    | _, _ => false

/-- A layout-V instruction at its issue: operand checks, then the vector and update queue. -/
def State.vecIssue (s : State) (c : Nat) (op : VecOp) (opc : BitVec 8) (w : VF) (ok : Bool) : State :=
  s.issue c (encodeV opc w) ok fun s =>
    s.ifFree c (vecRegs op w) [] [] fun s =>
      let k := s.core c
      let v := k.vecWork op w
      if !((v.readRuns ++ v.writeRuns false).all rangeOk) || (op == .qnt && !s.qntOk c v) then s.insnFault c
      else (s.push c 2 (encodeV opc w) (.vec v) v.reads (v.writes k.inRerun) id).pump c

/-- SLD (05 R128). -/
def execSld (c : CoreId) (w : VF) (s : State) : Host.Outcome State Fault Refusal :=
  .next (s.vecIssue c.val .sld 0x14#8 w (sldFields w))

/-- SST (05 R128). -/
def execSst (c : CoreId) (w : VF) (s : State) : Host.Outcome State Fault Refusal :=
  .next (s.vecIssue c.val .sst 0x15#8 w (sstFields w))

/-- VOP (05 R134). -/
def execVop (c : CoreId) (w : VF) (s : State) : Host.Outcome State Fault Refusal :=
  .next (s.vecIssue c.val .vop 0x60#8 w (vopFields w))

/-- ACT (05 R137, R138). -/
def execAct (c : CoreId) (w : VF) (s : State) : Host.Outcome State Fault Refusal :=
  .next (s.vecIssue c.val .act 0x61#8 w (actFields w))

/-- VRED (05 R135). -/
def execVred (c : CoreId) (w : VF) (s : State) : Host.Outcome State Fault Refusal :=
  .next (s.vecIssue c.val .vred 0x62#8 w (vredFields w))

/-- VANY (05 R136). -/
def execVany (c : CoreId) (w : VF) (s : State) : Host.Outcome State Fault Refusal :=
  .next (s.vecIssue c.val .vany 0x63#8 w (vanyFields w))

/-- QNT (05 R140). -/
def execQnt (c : CoreId) (w : VF) (s : State) : Host.Outcome State Fault Refusal :=
  .next (s.vecIssue c.val .qnt 0x64#8 w (qntFields w))

/-- WID (05 R141). -/
def execWid (c : CoreId) (w : VF) (s : State) : Host.Outcome State Fault Refusal :=
  .next (s.vecIssue c.val .wid 0x65#8 w (widFields w))

/-! ## MMA (05 R129 to R131) -/

/-- The last MMA of the task on an array kept its accumulator. -/
def Core.kept (k : Core) (arr : Nat) : Bool := if arr == 1 then k.keep1 else k.keep0

/-- What an MMA leaves for the checks of R131. -/
def Core.noteKeep (k : Core) (f : MF) : Core :=
  let keep := f.keep == 1#1
  let owe := fun (o : Bool) => if keep then true else if f.init = 2#2 then false else o
  if f.arr = 1#1 then { k with keep1 := keep, owe1 := owe k.owe1 } else { k with keep0 := keep, owe0 := owe k.owe0 }

/-- The output tile of a draining MMA is one that R131 accepts, and CBLK is 0 unless R129 gives it a role. -/
def State.mmaOutOk (s : State) (c : Nat) (f : MF) (tout : BitVec 64) : Bool :=
  let k := s.core c
  let base := decide (1 ≤ tFmt tout) && decide (tSbase tout ≤ 1984) && tileFits tout 64 true
  if fmtNarrow (tFmt tout) then
    match k.ctx, k.slotPO (tSlot tout) with
    | some n, some tid => base && tTrk tout && ((s.ctx n).perChan tid || f.cblk == 0#10)
    | _, _ => false
  else base && f.cblk == 0#10

/-- The tiles of an MMA are ones that R131 accepts. -/
def State.mmaOk (s : State) (c : Nat) (f : MF) (tl tr tout ti : BitVec 64) : Bool :=
  let k := s.core c
  let n := mmaK f
  tFmt tl == tFmt tr && decide (2 ≤ tFmt tl) && tileFits tl n false && tileFits tr n false && f.init != 3#2 &&
    (f.init != 1#2 || (tFmt ti == 1 && tileFits ti 64 false)) && (f.init != 2#2 || k.kept f.arr.toNat) &&
    (if f.keep = 1#1 then f.cblk == 0#10 else s.mmaOutOk c f tout)

/-- The range that holds an operand tile; a re-run may read it in BF16 (03 R71). -/
def Core.tileRes (k : Core) (t : BitVec 64) (rows : Nat) : Res :=
  if k.inRerun && fmtNarrow (tFmt t) then .store (tOffset t) ((rows - 1) * (rowStep t * 16 / fmtBits (tFmt t)) + 128)
  else tileRange t rows false

/-- What an MMA reads and writes (04 R98). -/
def Core.mmaReads (k : Core) (f : MF) (tl tr tout ti : BitVec 64) : List Res :=
  [k.tileRes tl (mmaK f), k.tileRes tr (mmaK f)] ++ (if f.init = 1#2 then [tileRange ti 64 false] else []) ++
    (if f.keep = 1#1 then [] else .sreg (tSbase tout) 64 :: (if tTrk tout then [.slot (tSlot tout)] else []))
def mmaWrites (f : MF) (tout : BitVec 64) : List Res := if f.keep = 1#1 then [] else [tileRange tout 64 true]

/-- A draining MMA completes a tile of the narrow product whose output passes an open slot: its number in program order is one more than
the last (03 R74). A re-run's tiles are not counted (03 R71). -/
def Core.noteTileNo (k : Core) (f : MF) (tl tout : BitVec 64) : Core :=
  if f.keep = 1#1 || !tTrk tout || !fmtNarrow (tFmt tl) || k.inRerun then k
  else { k with tilesPO := SMap.upd 0 k.tilesPO (tSlot tout) (· + 1) }

/-- MMA (05 R129 to R131). -/
def execMma (c : CoreId) (w : MF) (s : State) : Host.Outcome State Fault Refusal :=
  .next (s.issue c.val (encodeM w) (w.rest == 0#16) fun s =>
    let k := s.core c.val
    let tl := k.rt w.tl.toNat
    let tr := k.rt w.tr.toNat
    let tout := k.rt w.tout.toNat
    let ti := k.rt w.ti.toNat
    if !s.mmaOk c.val w tl tr tout ti then s.insnFault c.val
    else (s.push c.val w.arr.toNat (encodeM w) (.mma w tl tr tout ti (SMap.get 0 k.tilesPO (tSlot tout)))
      (k.mmaReads w tl tr tout ti) (mmaWrites w tout) fun k => (k.noteKeep w).noteTileNo w tl tout).pump c.val)

/-! ## Tracker slots (05 R142) -/

/-- TOPEN (05 R142, 03 R59). -/
def execTopen (c : CoreId) (w : SF) (s : State) : Host.Outcome State Fault Refusal :=
  .next (s.issue c.val (encodeS 0x68#8 w) (w.zero true false false false true false && w.d8) fun s =>
    s.ifFree c.val [w.a.toNat, w.b.toNat] [] [] fun s =>
      let k := s.core c.val
      let i := w.d.toNat
      let tid := (k.ra w.a.toNat).setWidth 32
      match k.ctx with
      | none => s
      | some n =>
        if (k.slotPO i).isSome then s.insnFault c.val
        else
          match s.firstUse n tid with
          | none => s.insnFault c.val
          | some t => (t.push c.val 2 (encodeS 0x68#8 w) (.topen i tid (k.ra w.b.toNat).toNat w.imm.toNat) [] [.slot i]
              fun k => { k.setSlotPO i (some tid) with tilesPO := SMap.set 0 k.tilesPO i 0 }).pump c.val)

/-- A slot of a group-scope tensor closes after the step's STEPCTL collective has issued, in a re-run too (11 R289). -/
def State.closeLate (s : State) (c n : Nat) (tid : BitVec 32) : Bool :=
  match s.coreRun c, (s.ctx n).rowOf tid with
  | some r, some row => r.step && row.group && (s.ctx n).step.stepctl
  | _, _ => false

/-- In compatibility mode a task waits at the TCLOSE of a marked layer for the merge's verdict (03 R70). -/
def State.waitMerge (s : State) (n : Nat) (k : Core) : Core :=
  if (s.ctx n).compat then { k with layer := k.layer.map fun l => { l with pending := !l.rerun } } else k

/-- TCLOSE (05 R142). -/
def execTclose (c : CoreId) (w : SF) (s : State) : Host.Outcome State Fault Refusal :=
  .next (s.issue c.val (encodeS 0x69#8 w) (w.zero true false true true true true && w.d8) fun s =>
    let k := s.core c.val
    let i := w.d.toNat
    match k.ctx, k.slotPO i with
    | some n, some tid =>
      if s.closeLate c.val n tid then s.insnFault c.val
      else (s.push c.val 2 (encodeS 0x69#8 w) (.tclose i) [] [.slot i]
        fun k => s.waitMerge n (k.setSlotPO i none)).pump c.val
    | _, _ => s.insnFault c.val)

/-! ## Layer markers (05 R143, 03 R70) -/

/-- What the BLK before an open marker took from its semaphore. -/
def Core.blkDec (k : Core) : SMap Nat :=
  match k.block with
  | some b =>
    let fn := (b.word.extractLsb' 48 8).toNat
    let amount := ((k.ra (b.word.extractLsb' 38 5).toNat).setWidth 32).toNat
    if bit fn 3 && bit fn 4 then SMap.set 0 [] (b.word.extractLsb' 0 8).toNat amount else []
  | none => []

/-- The record of a layer that opens at the program counter; `done`: the RUN has run it again before (03 R71). -/
def Core.newLayer (k : Core) (id : BitVec 32) (done : Bool) : LayerRun :=
  { id := id, seq := k.nextSeq, blkPc := k.pc - 1, slotsPO := k.slotsPO, rerun := false, done := done, incs := [], decs := k.blkDec,
    produced := [], pending := false }

/-- A layer closes; slots that a re-run left open record again (03 R71). -/
def Core.closeLayer (k : Core) : Core :=
  { k with layer := none, slots := k.slots.map fun e => (e.1, e.2.map fun x => { x with rerun := false }) }

/-- LAYER (05 R143). DESIGN CHOICE: an open marker follows a BLK immediately when the instruction executed last before it is a BLK: a branch
to the marker from elsewhere raises FC_ILLEGAL. 05 R143 does not say whether the order of execution or of the code is meant. -/
def execLayer (c : CoreId) (w : SF) (s : State) : Host.Outcome State Fault Refusal :=
  .next (s.issue c.val (encodeS 0x03#8 w) (w.fnMax 1 && w.zero false true true true true false) fun s =>
    let k := s.core c.val
    if w.fn = 0#8 then
      match k.layer with
      | none =>
        if k.afterBlk then
          s.setCore c.val { k.next with layer := some (k.newLayer w.imm (match s.coreRun c.val with | some r => r.rerun.contains w.imm | none => false)) }
        else s.insnFault c.val
      | some l =>
        if k.afterBlk && l.rerun && l.id == w.imm && k.pc == l.blkPc + 1 then s.setCore c.val k.next else s.insnFault c.val
    else
      match k.layer with
      | some l => if l.id == w.imm then s.setCore c.val k.next.closeLayer else s.insnFault c.val
      | none => s.insnFault c.val)

/-! ## Semaphores (05 R144, R145) -/

/-- SINC (05 R144). -/
def execSinc (c : CoreId) (w : SF) (s : State) : Host.Outcome State Fault Refusal :=
  .next (s.issue c.val (encodeS 0x31#8 w) (w.zero true true false true true false && w.semOk) fun s =>
    s.ifFree c.val [w.a.toNat] [] [] fun s =>
      (s.push c.val 3 (encodeS 0x31#8 w) (.sinc w.sem (((s.core c.val).ra w.a.toNat).setWidth 32)) [] [] id).pump c.val)

/-- SWAIT (05 R144): it takes its turn in its queue, and the wait is granted by SEMAPHORE_WAIT_GRANT. -/
def execSwait (c : CoreId) (w : SF) (s : State) : Host.Outcome State Fault Refusal :=
  .next (s.issue c.val (encodeS 0x32#8 w) (w.fnMax 1 && w.zero false true false true true false && w.semOk) fun s =>
    s.ifFree c.val [w.a.toNat] [] [] fun s =>
      (s.push c.val 3 (encodeS 0x32#8 w) (.swait w.sem (((s.core c.val).ra w.a.toNat).setWidth 32) (w.fn == 1#8)) [] [] id).pump c.val)

/-- STRY (05 R144, R145): it takes its turn in its queue, and is decided among the clock's grants. -/
def execStry (c : CoreId) (w : SF) (s : State) : Host.Outcome State Fault Refusal :=
  .next (s.issue c.val (encodeS 0x33#8 w) (w.zero true false false true true false && w.semOk && w.d8) fun s =>
    s.ifFree c.val [w.a.toNat] [] [.freg w.d.toNat] fun s =>
      (s.push c.val 3 (encodeS 0x33#8 w) (.stry w.sem (((s.core c.val).ra w.a.toNat).setWidth 32) w.d.toNat) [] [] id).pump c.val)

/-- SRD (05 R144, 12 R336): it takes its turn in its queue. -/
def execSrd (c : CoreId) (w : SF) (s : State) : Host.Outcome State Fault Refusal :=
  .next (s.issue c.val (encodeS 0x34#8 w) (w.zero true false true true true false && w.semOk) fun s =>
    s.ifFree c.val [w.d.toNat] [] [] fun s =>
      (s.push c.val 3 (encodeS 0x34#8 w) (.srd w.sem w.d.toNat) [] [] id).pump c.val)

/-! ## DMA and COLL (05 R146, R147) -/

/-- The 64 bytes of a descriptor at A[A] + IMM, handed to `body`; FC_ILLEGAL at an offset that is no multiple of 64 or not backed, FC_UNCORR_MEM at an unreadable word. -/
def State.withDesc (s : State) (c : Nat) (w : SF) (body : List Byte → State → State) : State :=
  let a := w.sum (s.core c)
  if a < 0 || a % 64 != 0 || a + 64 > coreSize then s.insnFault c
  else
    s.ifFree c [] [.store a.toNat 64] [] fun s =>
      match s.load (coreBase c + a.toNat) 64 with
      | (.inl bs, s) => body bs s
      | (.inr x, s) => s.uncorrFault x 0 (s.core c).ctxNum (some (c, (s.core c).taskId))

/-- DMA (05 R146). -/
def execDma (c : CoreId) (w : SF) (s : State) : Host.Outcome State Fault Refusal :=
  .next (s.issue c.val (encodeS 0x30#8 w) (w.fnMax 1 && w.zero false true false true true false) fun s =>
    s.ifFree c.val [w.a.toNat] [] [] fun s =>
      s.withDesc c.val w fun bs s =>
        match s.checkDma c.val bs with
        | none => s.insnFault c.val
        | some d => (s.push c.val 3 (encodeS 0x30#8 w) (.dma d (w.fn == 1#8)) [] [] id).pump c.val)

/-- COLL (05 R147). -/
def execColl (c : CoreId) (w : SF) (s : State) : Host.Outcome State Fault Refusal :=
  .next (s.issue c.val (encodeS 0x38#8 w) (w.zero true true false true true false) fun s =>
    s.ifFree c.val [w.a.toNat] [] [] fun s =>
      match (s.core c.val).ctx, s.coreRun c.val with
      | some n, some r =>
        if (s.ctx n).compat && (s.core c.val).layer.isSome then s.insnFault c.val
        else
          s.withDesc c.val w fun bs s =>
            match s.checkColl n r.step bs with
            | none => s.insnFault c.val
            | some d => (s.push c.val 3 (encodeS 0x38#8 w) (.coll d) [] [] id).pump c.val
      | _, _ => s)

/-! ## Blocks and END (05 R121, R123) -/

/-- Fields of BLK. -/
def blkFields (w : SF) : Bool :=
  let wt := bit w.fn.toNat 3
  decide (w.fn.toNat % 8 ≤ 6) && decide (w.fn.toNat < 32) && w.zero false true false true true false && w.semOk &&
    (wt || (!bit w.fn.toNat 4 && w.a == 0#5 && w.imm == 0#32))

/-- A core reaches a BLK: the open block ends, and the next opens at once or when its wait is granted. -/
def Core.reachBlk (k : Core) (w : SF) : Core :=
  let k := { k with block := none, clocks := 0 }
  if bit w.fn.toNat 3 then
    k.standAt { sem := w.sem, amount := (k.ra w.a.toNat).setWidth 32, dec := bit w.fn.toNat 4, blk := true, cls := w.fn.toNat % 8, word := encodeS 0x01#8 w }
  else k.openBlock (w.fn.toNat % 8) (encodeS 0x01#8 w)

/-- BLK (05 R121). A core of a quarter that is stopping stops at the boundary instead (12 R315). -/
def execBlk (c : CoreId) (w : SF) (s : State) : Host.Outcome State Fault Refusal :=
  .next (s.issue c.val (encodeS 0x01#8 w) (blkFields w) fun s =>
    if (s.quarter (quarterOf c.val)).phase == 1 then s.modCore c.val fun k => { k with block := none, clocks := 0, stopped := true }
    else s.ifFree c.val (if bit w.fn.toNat 3 then [w.a.toNat] else []) [] [] fun s => s.modCore c.val fun k => k.reachBlk w)

/-- A task may end: no slot or layer open, no kept accumulator (05 R131, R142, R143). -/
def Core.mayEnd (k : Core) : Bool := (List.range 8).all (fun i => (k.slotPO i).isNone) && k.layer.isNone && !k.owe0 && !k.owe1

/-- END (05 R121): the task completes by TASK_COMPLETE. DESIGN CHOICE: where an accumulator is still kept, END is the instruction that the
fault record names; 05 R131 does not say which word it is. -/
def execEndTask (c : CoreId) (w : SF) (s : State) : Host.Outcome State Fault Refusal :=
  .next (s.issue c.val (encodeS 0x02#8 w) (w.zero true true true true true true) fun s =>
    if (s.core c.val).mayEnd then s.modCore c.val fun k => { k.next with ended := true, block := none, clocks := 0 }
    else s.insnFault c.val)

end Sys2Proof.Machine
end

