-- ==== Sys2Proof/Machine/Ports.lean ====
section
/-!
DEFINITION. Flits on a port: receiving, acknowledging, replaying and sending them, the loss of a port and the handover of
its traffic (10 R251 to R271).
-/

namespace Sys2Proof.Machine

open Sys2Proof

/-! ## The wire form (10 R251, R252) -/

/-- Exclusive OR of a word's bits. -/
def parity64 (w : Nat) : Nat := ((List.range 64).filter fun i => bit w i).length % 2

/-- Payload word `i` of 264 bytes. -/
def rawWord (raw : List Byte) (i : Nat) : Nat := leNat ((raw.drop (16 + 8 * i)).take 8)

/-- The CRC and the parity of every payload word hold (10 R251, R254). -/
def rawOk (raw : List Byte) : Bool :=
  raw.length == 264 && leNat ((raw.drop 260).take 4) == (crc32 (raw.take 260)).toNat &&
  (List.range 30).all fun i => parity64 (rawWord raw i) == b2n (bit (leNat ((raw.drop 256).take 4)) i)

/-- The flit of 264 bytes (10 R252). An NW above 29 counts every word (log 40). -/
def parseFlit (raw : List Byte) : Flit :=
  let h := leNat (raw.take 16)
  { typ := BitVec.ofNat 4 h, vc := BitVec.ofNat 3 (h / 2 ^ 4), som := bit h 7, seq := BitVec.ofNat 12 (h / 2 ^ 8),
    ack := BitVec.ofNat 12 (h / 2 ^ 20), crvc := BitVec.ofNat 3 (h / 2 ^ 32), crcum := BitVec.ofNat 12 (h / 2 ^ 35),
    eom := bit h 47, dst := BitVec.ofNat 16 (h / 2 ^ 48), src := BitVec.ofNat 16 (h / 2 ^ 64), ctx := BitVec.ofNat 5 (h / 2 ^ 80),
    nw := BitVec.ofNat 5 (h / 2 ^ 85), hops := BitVec.ofNat 6 (h / 2 ^ 90), tag := BitVec.ofNat 32 (h / 2 ^ 96),
    words := (List.range (min 30 (fld h 89 85 + 1))).map fun i => BitVec.ofNat 64 (rawWord raw i) }

/-- The header of a flit as a 128-bit number (10 R252). -/
def flitHeader (f : Flit) : Nat :=
  f.typ.toNat + f.vc.toNat * 2 ^ 4 + b2n f.som * 2 ^ 7 + f.seq.toNat * 2 ^ 8 + f.ack.toNat * 2 ^ 20 + f.crvc.toNat * 2 ^ 32 +
  f.crcum.toNat * 2 ^ 35 + b2n f.eom * 2 ^ 47 + f.dst.toNat * 2 ^ 48 + f.src.toNat * 2 ^ 64 + f.ctx.toNat * 2 ^ 80 +
  f.nw.toNat * 2 ^ 85 + f.hops.toNat * 2 ^ 90 + f.tag.toNat * 2 ^ 96

/-- The trailer of 30 payload words: the parity of each (10 R251). -/
def trailerOf (ws : List Nat) : Nat := (List.range 30).foldl (fun t i => t + parity64 (ws.getD i 0) * 2 ^ i) 0

/-- Bytes 0 to 259 of a flit on the wire: header, 30 payload words of which those beyond the last in use are 0, and the trailer (10 R251). -/
def flitBody (f : Flit) : List Byte :=
  let ws := (List.range 30).map fun i => (f.words.getD i 0#64).toNat
  natLe 16 (flitHeader f) ++ ws.flatMap (natLe 8) ++ natLe 4 (trailerOf ws)

/-- The 264 bytes of a flit on the wire: the body and its CRC-32 (10 R251). -/
def flitWire (f : Flit) : List Byte := flitBody f ++ natLe 4 (crc32 (flitBody f)).toNat

/-- TYPE and VC break R254 point 3. -/
def flitProtoError (f : Flit) : Bool :=
  decide (f.typ.toNat ≥ 4) || (f.typ == 1#4 && decide (f.vc.toNat ≥ 6)) || (f.typ == 3#4 && f.vc != 0#3) ||
  (decide (17 ≤ f.ctx.toNat) && decide (f.ctx.toNat ≤ 30))

/-! ## Acknowledgement, credits and replay (10 R254 to R259) -/

/-- The flits after the acknowledged one; all of them where the buffer does not hold it. -/
def afterAck (ack : BitVec 12) (fs : List Flit) : List Flit :=
  match fs.findIdx? fun f => f.seq == ack with
  | some i => fs.drop (i + 1)
  | none => fs

/-- Take an ACK: every flit up to it leaves the replay buffer (10 R255). -/
def Port.takeAck (k : Port) (ack : BitVec 12) : Port :=
  let rb := afterAck ack k.rbuf
  let held := fun (q : BitVec 12) => rb.any fun f => f.seq == q
  { k with rbuf := rb, resend := k.resend.filter fun f => held f.seq, began := k.began.filter fun e => held (BitVec.ofNat 12 e.1) }

/-- Take a credit count (10 R259). -/
def Port.takeCredit (k : Port) (vc : Nat) (cum : BitVec 12) : Port :=
  if vc ≥ 6 then k
  else
    let d := (cum - SMap.get (0#12) k.heard vc).toNat
    { k with credits := SMap.upd 0 k.credits vc (· + d), heard := SMap.set (0#12) k.heard vc cum }

/-- A refused or out-of-order flit asks for one NAK after an accepted flit (10 R255). -/
def Port.askNak (k : Port) : Port := if k.nakSent then k else { k with nakSent := true, nakDue := k.nakDue + 1 }

/-- Begin a resend of the whole replay buffer (10 R255, R256). -/
def Port.beginResend (k : Port) : Port :=
  match k.rbuf with
  | [] => k
  | f :: _ => { k with resend := k.rbuf, replays := satAdd 16 k.replays 1, began := SMap.upd 0 k.began f.seq.toNat (· + 1) }

/-- Replays begun at the oldest unacknowledged SEQ. -/
def Port.begunAtHead (k : Port) : Nat := match k.rbuf with | [] => 0 | f :: _ => SMap.get 0 k.began f.seq.toNat

/-! ## Losing a direction, losing a port (10 R269, R270) -/

/-- A port's drain marks pass (12 R327). -/
def State.marksPass (s : State) (p : Nat) : State :=
  let s := s.modPort p fun k => { k with marks := [] }
  (List.range 16).foldl (fun s n =>
    if (s.ctx n).sched.marks.any fun m => m.1 == p then
      s.modCtx n fun k => k.modSched fun h => { h with marks := h.marks.filter fun m => m.1 != p }
    else s) s

/-- Empty a port's queues and replay buffer. -/
def Port.emptied (k : Port) : Port :=
  { k with rbuf := [], resend := [], began := [], ctlq := [], egress := [], handover := false, lostDir := none, nakDue := 0 }

/-- The flits of a port's egress queues are discarded: each leaves the input buffer it stood in (10 R259). -/
def State.dropQueued (s : State) (p : Nat) : State :=
  (((s.port p).egress.flatMap fun e => e.2).foldl (fun s i =>
    match i with | .flit f _ h => s.leaveBuf h f.vc.toNat | .mark _ => s) s)

/-- A port empties its queues and its replay buffer (10 R250, R270). -/
def State.emptyPort (s : State) (p : Nat) : State := (s.dropQueued p).modPort p Port.emptied

/-- A port leaves its direction: its bit is cleared, and it takes the state that HOLD or ENABLE wants, or stays DOWN (10 R249, R266, R271). -/
def State.endPort (s : State) (p : Nat) : State :=
  let s := match (s.port p).lostDir with
    | some d => s.modDir d fun e => { e with ports := e.ports &&& ~~~(BitVec.ofNat 36 (2 ^ p)) }
    | none => s
  ((s.emptyPort p).modPort p fun k => { k with st := k.after.getD k.st, after := none }).marksPass p

/-- Ports of a direction being handed over. -/
def State.lostPorts (s : State) (d : Nat) : List Nat := (List.range 36).filter fun p => (s.port p).lostDir == some d

/-- The notice of a reset came from a direction within the last 2 s (10 R270). -/
def State.noticed (s : State) (d : Nat) : Bool :=
  match (s.dir d).resetting with | some t => decide (s.now ≤ t + 2000000) | none => false

/-- Lose a direction (10 R270): DOWN is set, the lost ports' flits and the held flows are discarded, FC_LINK_LOST is raised. -/
def State.loseDir (s : State) (d : Nat) : State :=
  let held := (s.dir d).held
  let s := s.modDir d fun e => { e with down := true, held := [] }
  let s := held.foldl (fun s e => s.dropUnreach.leaveBuf e.2 e.1.vc.toNat) s
  let s := (s.lostPorts d).foldl (fun s p => s.endPort p) s
  if s.noticed d then s
  else
    let n := s.neighbour d
    s.fatal { cls := 0x102, ctx := 31, subject := n, detail := BitVec.ofNat 64 (d + n.toNat * 2 ^ 16) }

/-- An entry into DOWN is counted (10 R278), and lowers the health score (14 R382, R391). -/
def State.countLost (s : State) (p : Nat) : State :=
  ((s.modPort p fun k => { k with lost := satAdd 8 k.lost 1 }).note24 4).penalise 9 10 (some 40)

/-- A port goes DOWN: hand its traffic over to the ACTIVE ports of its direction, or lose the direction (10 R269, R270). `after` is the state that HOLD or ENABLE takes it to once that has ended (10 R249, R271). -/
def State.dropPort (s : State) (p : Nat) (after : Option Nat) : State :=
  let s := s.countLost p
  match s.dirOf p with
  | none => (s.emptyPort p).modPort p fun k => { k with st := after.getD 8, after := none, degLane := none }
  | some d =>
    let seq := (s.port p).rxSeq - 1#12
    let s := s.modPort p fun k => { k with st := 8, lostDir := some d, after := after, resend := [], nakDue := 0, degLane := none }
    match s.effective d with
    | [] => s.loseDir d
    | q :: _ =>
      (s.modPort p fun k => { k with handover := true }).sendLinkctl q [1#64, BitVec.ofNat 64 p, BitVec.ofNat 64 seq.toNat]

/-- A port becomes DOWN by a fault of its link (10 R249, R269). -/
def State.losePort (s : State) (p : Nat) : State := s.dropPort p none

/-- Begin a resend on a port, or lose it at the eighth that begins at one SEQ (10 R256). -/
def State.replay (s : State) (p : Nat) : State :=
  let s := s.modPort p Port.beginResend
  if (s.port p).begunAtHead ≥ 8 then s.losePort p else s

/-! ## Re-queueing (10 R269 point 3) -/

/-- A re-queued flit enters a ring when this is its first hop in the direction's dimension (10 R260). -/
def State.entersAgain (s : State) (d : Nat) (f : Flit) : Bool :=
  coordAt f.src (d / 2) == coordAt s.link.coord (d / 2)

/-- The rail rule of R263 for a flit whose own rail port is gone: the lowest port of the mask. -/
def State.railOf (s : State) (f : Flit) : Option Nat :=
  if f.src == s.link.coord && (f.vc == 1#3 || f.vc == 2#3) then some 99 else none

/-- The arrival port that a holder names (36 none). -/
def arrOf (h : Nat) : Option Nat := if h < 36 then some h else none

/-- Put one flit of a lost port at the head of its new queue; `h` is the port whose input slot it still holds. -/
def State.requeueOne (s : State) (d : Nat) (f : Flit) (h : Nat) : State :=
  if f.typ == 3#4 then
    match s.effective d with
    | [] => s
    | q :: _ => s.modPort q fun k => { k with ctlq := f :: k.ctlq }
  else
    match s.egressPort d (arrOf h) (if h < 36 then none else s.railOf f) f with
    | none => s.dropUnreach.leaveBuf h f.vc.toNat
    | some q =>
      if s.active q then s.enqueueHead q f.vc.toNat [.flit f (s.entersAgain d f) h]
      else s.modDir d fun e => { e with held := (f, h) :: e.held }

/-- The unsent flits of a port, channel by channel, LINKCTL first, each with the port whose input slot it holds. -/
def Port.unsent (k : Port) : List (Flit × Nat) :=
  (k.ctlq.map fun f => (f, 36)) ++ (List.range 6).flatMap fun vc =>
    (SMap.get [] k.egress vc).filterMap fun i => match i with | .flit f _ h => some (f, h) | .mark _ => none

/-- Give the held flits of a direction an egress port (10 R269 point 4). -/
def State.releaseFlows (s : State) (d : Nat) : State :=
  let fs := (s.dir d).held
  let s := s.modDir d fun e => { e with held := [] }
  fs.foldl (fun s e => s.sendIn d (arrOf e.2) (if e.2 < 36 then none else s.railOf e.1) e.1) s

/-- The peer's HANDOVER for a lost port: drop what the peer accepted, re-queue the rest, clear the port's bit, release the held flows (10 R269). -/
def State.handOver (s : State) (d p : Nat) (seq : BitVec 12) : State :=
  let k := s.port p
  let fs := ((afterAck seq k.rbuf).map fun f => (f, 36)) ++ k.unsent
  let s := (s.modPort p fun k => { k with egress := [] }).endPort p
  (fs.reverse.foldl (fun s e => s.requeueOne d e.1 e.2) s).releaseFlows d

/-! ## Arrival (10 R254, R255, R260) -/

/-- The message in reassembly is of the flit's source, channel, context and tag. -/
def Reasm.fits (r : Reasm) (f : Flit) : Bool := r.vc == f.vc.toNat && r.src == f.src && r.msg.ctx == f.ctx.toNat && r.msg.tag == f.tag

/-- Ring traffic, whose flows are also limited to one strand (10 R264). -/
def ringFlit (f : Flit) : Bool := f.vc == 1#3 || f.vc == 2#3

/-- Direction of a port for reassembly; 8 for a port of none. -/
def State.inDir (s : State) (p : Nat) : Nat := (s.dirOf p).getD 8

/-- The message that a later flit of it continues: that of the flit's flow, whose messages follow one another on every port that carries them
(10 R264, R269). A flow of ring traffic is one strand's: the strand given, else that of the message the port carried last, else that of a lost
port of the direction (log 111). -/
def State.openMsg (s : State) (p : Nat) (strand : Option (Fin 4)) (f : Flit) : Option Reasm :=
  let l := s.link.reasm.filter fun r => r.fits f
  let d := s.inDir p
  if !ringFlit f then l.head?
  else match strand with
    | some k => l.find? fun r => r.dir == d && r.msg.rail % 4 == k.val
    | none => (l.find? fun r => r.port == p).or (l.find? fun r => r.dir == d && !s.active r.port)

/-- Two messages in reassembly of one flow: a new one takes the other's place (10 R264, 11 R288). -/
def Reasm.sameFlow (a b : Reasm) : Bool :=
  a.vc == b.vc && a.src == b.src && ((a.vc != 1 && a.vc != 2) || (a.dir == b.dir && a.msg.rail % 4 == b.msg.rail % 4))

/-- Deliver a DATA flit: reassemble its message, or absorb it (11 R288, 12 R326). The message that a port carried last stands first. -/
def State.deliverFlit (s : State) (p : Nat) (strand : Option (Fin 4)) (f : Flit) : State :=
  let n := f.ctx.toNat
  if n < 16 && (s.ctx n).sched.st == 2 then
    s.modCtx n fun k => k.modSched fun h => { h with absorbed := satAdd 31 h.absorbed 1 }
  else
    let l := s.link
    let r? := if f.som then
        some ({ port := p, dir := s.inDir p, vc := f.vc.toNat, src := f.src,
                msg := mkMsg p f.vc.toNat n f.src f.dst f.tag (f.words.getD 0 0#64) (f.words.getD 1 0#64) (f.words.getD 2 0#64)
                  (f.words.getD 3 0#64) [] } : Reasm)
      else (s.openMsg p strand f).map fun r => { r with port := p, msg := { r.msg with data := r.msg.data ++ f.words } }
    match r? with
    | none => s
    | some r =>
      let rest := l.reasm.filter fun x => !x.sameFlow r
      if f.eom then { s with link := { l with reasm := rest, inbox := l.inbox ++ [r.msg] } }
      else { s with link := { l with reasm := r :: rest } }

/-- Forward or deliver an accepted DATA flit (10 R260, R262, R265). -/
def State.acceptData (s : State) (p : Nat) (strand : Option (Fin 4)) (f : Flit) : State :=
  if s.link.member && s.coordOk f.dst && (s.route f.dst).isNone then (s.deliverFlit p strand f).leaveBuf p f.vc.toNat
  else s.sendFlit (some p) f

/-- A sequenced flit: accept the expected one, discard any other (10 R255). An accepted flit stands in its channel's input buffer until it is forwarded, delivered or discarded; a LINKCTL flit is consumed at once (10 R253, R259). -/
def State.acceptSeq (s : State) (p : Nat) (strand : Option (Fin 4)) (f : Flit) : State :=
  if f.seq != (s.port p).rxSeq then s.modPort p Port.askNak
  else
    let s := s.modPort p fun k => { k.takeSlot f.vc.toNat with rxSeq := k.rxSeq + 1#12, nakSent := false }
    if f.typ == 3#4 then
      ({ s with link := { s.link with ctlIn := s.link.ctlIn ++ [(p, f.words.getD 0 0#64, f.words.getD 1 0#64, f.words.getD 2 0#64)] } } : State).leaveBuf
        p f.vc.toNat
    else s.acceptData p strand f

/-- A refused flit is counted, and asks for a NAK (10 R254, R255, 14 R382). -/
def State.refuseFlit (s : State) (p : Nat) : State :=
  let s := s.modPort p fun k => { k.askNak with refused := satAdd 16 k.refused 1 }
  let n := s.hlt.rem65536 + 1
  if n ≥ 65536 then { s with hlt := { s.hlt with rem65536 := 0 } }.penalise 7 1 (some 4)
  else { s with hlt := { s.hlt with rem65536 := n } }

/-- The ACK and credit fields of a flit that passed the CRC and parity checks (10 R254 point 4). -/
def Port.takeFields (k : Port) (f : Flit) : Port := (k.takeAck f.ack).takeCredit f.crvc.toNat f.crcum

/-- A flit that passed the CRC and parity checks, on an ACTIVE port (10 R254 points 3 and 4). A NAK begins a resend of what it leaves unacknowledged (10 R255). -/
def State.takeFlit (s : State) (p : Nat) (strand : Option (Fin 4)) (f : Flit) : State :=
  let s := s.modPort p fun k => k.takeFields f
  if flitProtoError f then s.dropProto
  else if f.typ == 0#4 then s
  else if f.typ == 2#4 then s.replay p
  else s.acceptSeq p strand f

/-- A flit that passed the CRC and parity checks, on a HELD port: only IDLE flits are accepted, which carry nothing but their ACK and credit fields (10 R248, R254). -/
def State.takeHeld (s : State) (p : Nat) (f : Flit) : State :=
  let s := s.modPort p fun k => k.takeFields f
  if flitProtoError f then s.dropProto else s

/-- Uncorrectable codewords met by a port's receiver are counted (10 R278). -/
def State.countUncorr (s : State) (p n : Nat) : State := s.modPort p fun k => { k with fecUncorr := satAdd 15 k.fecUncorr n }

/-- FLIT_RECEIVE: check the flit, take its ACK and credits, accept it in sequence and forward or deliver it (10 R254, R255). A HELD port accepts only IDLE flits (10 R248), and a port in any other state but ACTIVE accepts none. `uncorr` is the number of uncorrectable codewords that the receiver has met since the flit before (10 R278). -/
def execFlitReceive (p : PortId) (raw : List Byte) (s : State) (uncorr : Nat := 0) (strand : Option (Fin 4) := none) : Host.Outcome State Fault Refusal :=
  .next (
    let st := (s.port p.val).st
    if st != 6 && st != 5 then s
    else
      let s := s.countUncorr p.val uncorr
      if !rawOk raw then s.refuseFlit p.val
      else if st == 6 then s.takeFlit p.val strand (parseFlit raw)
      else s.takeHeld p.val (parseFlit raw))

/-- NAK_RECEIVE: a flit of TYPE NAK that passed the CRC and parity checks (10 R253 to R256). A port that is not ACTIVE ignores it (10 R271). -/
def execNakReceive (p : PortId) (f : Flit) (s : State) : Host.Outcome State Fault Refusal :=
  .next (if s.active p.val && f.typ == 2#4 then s.takeFlit p.val none f else s)

/-- ACK_TIMEOUT: a resend from the oldest flit (10 R255). -/
def execAckTimeout (p : PortId) (s : State) : Host.Outcome State Fault Refusal :=
  .next (if s.active p.val && !(s.port p.val).rbuf.isEmpty then s.replay p.val else s)

/-! ## LINKCTL (10 R253, R269, R270) -/

/-- The lost port that a HANDOVER is for: this end's port that the named one of the peer connects to, on the direction the HANDOVER came through (10 R253, R269). -/
def State.handoverPort (s : State) (arr : Nat) (peerPort : BitVec 64) : Option (Nat × Nat) :=
  match s.dirOf arr with
  | none => none
  | some d =>
    ((List.range 36).find? fun p =>
      (s.port p).handover && (s.port p).lostDir == some d && (s.port p).peerPort == peerPort.toNat).map fun p => (d, p)

/-- HANDOVER: the `k`th LINKCTL flit in waiting names a lost port (10 R269). It waits while this end has not lost the port itself (log 41). -/
def execHandover (k : Nat) (s : State) : Host.Outcome State Fault Refusal :=
  .next (
    match s.link.ctlIn[k]? with
    | none => s
    | some (arr, w0, w1, w2) =>
      if fld w0.toNat 7 0 != 1 then s
      else
        match s.handoverPort arr w1 with
        | none => s
        | some (d, p) =>
          { s with link := { s.link with ctlIn := dropAt k s.link.ctlIn } }.handOver d p (w2.setWidth 12))

/-- HANDOVER_TIMEOUT: the peer's HANDOVER for a lost port is still missing, and the direction is lost (10 R270). -/
def execHandoverTimeout (p : PortId) (s : State) : Host.Outcome State Fault Refusal :=
  .next (
    match (s.port p.val).handover, (s.port p.val).lostDir with
    | true, some d => s.loseDir d
    | _, _ => s)

/-- RESETTING: the notice is recorded for its direction (10 R250, R270). -/
def execResetting (k : Nat) (s : State) : Host.Outcome State Fault Refusal :=
  .next (
    match s.link.ctlIn[k]? with
    | none => s
    | some (arr, w0, _, _) =>
      if fld w0.toNat 7 0 != 2 then s
      else
        let s := { s with link := { s.link with ctlIn := dropAt k s.link.ctlIn } }
        match s.dirOf arr with
        | none => s
        | some d => s.modDir d fun e => { e with resetting := some s.now })

/-! ## The flit slot (10 R255, R259 to R261) -/

/-- A flit goes out with the current ACK and the next channel's freed count (10 R255, R259). -/
def State.sendOut (s : State) (p : Nat) (f : Flit) : State :=
  let k := s.port p
  let g := { f with ack := k.rxSeq - 1#12, crvc := BitVec.ofNat 3 k.crRot, crcum := SMap.get (0#12) k.freed k.crRot }
  (s.modPort p fun k => { k with crRot := (k.crRot + 1) % 6 }).emit (.flit p (flitWire g))

/-- An IDLE or NAK flit (10 R253). -/
def State.plainFlit (s : State) (typ : BitVec 4) : Flit := { mkFlit 0 31 s.link.coord 0#16 0#32 false false [0#64] with typ := typ }

/-- Send a sequenced flit for the first time: it takes the next SEQ, a credit and a place in the replay buffer (10 R255, R259). -/
def State.sendNew (s : State) (p : Nat) (f : Flit) : State :=
  let g := { f with seq := (s.port p).txSeq }
  (s.modPort p fun k => { k with txSeq := k.txSeq + 1#12, rbuf := k.rbuf ++ [g],
                                 credits := SMap.upd 0 k.credits f.vc.toNat (· - 1) }).sendOut p g

/-- A RESETTING notice goes out on every ACTIVE port before the reset, ahead of what the port's queues hold (10 R250, R253, log 66). -/
def State.sendResetting (s : State) : State :=
  (List.range 36).foldl (fun s p =>
    if s.active p then s.sendNew p { mkFlit 0 31 s.link.coord 0#16 0#32 true true [2#64] with typ := 3#4 } else s) s

/-- Weights of R261 by channel. -/
def wrrWeight (vc : Nat) : Nat := if vc == 4 then 8 else if vc == 1 || vc == 2 then 4 else if vc == 3 then 2 else 1

/-- The flit at the head of a channel's queue, when its credits let it go (10 R259, R260). -/
def Port.readyFlit (k : Port) (vc : Nat) : Option Flit :=
  match SMap.get [] k.egress vc with
  | .flit f enters _ :: _ => if SMap.get 0 k.credits vc ≥ (if enters then 2 else 1) then some f else none
  | _ => none

/-- Drain marks at the head of a queue leave it: every flit ahead of them has been sent (12 R327). `n` bounds them. -/
def Port.popMarks (vc : Nat) : Nat → Port → Port
  | 0, k => k
  | n + 1, k =>
    match SMap.get [] k.egress vc with
    | .mark c :: rest =>
      let last := (k.rbuf.filter fun f => f.vc.toNat == vc).getLast?
      Port.popMarks vc n { k with egress := SMap.set [] k.egress vc rest, marks := k.marks ++ [(c, vc, last.map fun f => f.seq)] }
    | _ => k

/-- Take the head flit of a channel's queue. -/
def Port.popFlit (k : Port) (vc : Nat) : Port := { k with egress := SMap.upd [] k.egress vc fun l => l.drop 1 }

/-- The port in whose input buffer the head flit of a channel's queue stands; 36 none (10 R259). -/
def Port.headHolder (k : Port) (vc : Nat) : Nat :=
  match SMap.get [] k.egress vc with | .flit _ _ h :: _ => h | _ => 36

/-- The head flit of a channel's queue is sent for the first time, and so leaves its input buffer (10 R255, R259). -/
def State.sendHead (s : State) (p vc : Nat) (f : Flit) : State :=
  let h := (s.port p).headHolder vc
  ((s.modPort p fun k => k.popFlit vc).leaveBuf h vc).sendNew p f

/-- The channel of the weighted round robin: the first in order with a flit and a share left; when none has a share left, every share starts anew (10 R261). -/
def Port.wrrPick (k : Port) : Option (Nat × SMap Nat) :=
  let ready := [4, 1, 2, 3, 5].filter fun vc => (k.readyFlit vc).isSome
  if ready.isEmpty then none
  else
    let full := [4, 1, 2, 3, 5].foldl (fun m vc => SMap.set 0 m vc (wrrWeight vc)) ([] : SMap Nat)
    let m := if ready.any fun vc => SMap.get 0 k.wrr vc > 0 then k.wrr else full
    (ready.find? fun vc => SMap.get 0 m vc > 0).map fun vc => (vc, SMap.upd 0 m vc (· - 1))

/-- Send the flit that a port's slot carries (10 R255, R261). -/
def State.slotSend (s : State) (p : Nat) : State :=
  let s := s.modPort p fun k => (List.range 6).foldl (fun k vc => k.popMarks vc 16) k
  let k := s.port p
  if k.nakDue > 0 then (s.modPort p fun k => { k with nakDue := k.nakDue - 1 }).sendOut p (s.plainFlit 2#4)
  else
    match k.resend with
    | f :: fs => (s.modPort p fun k => { k with resend := fs }).sendOut p f
    | [] =>
      if k.rbuf.length ≥ 2048 then s.sendOut p (s.plainFlit 0#4)
      else
        let ctl := if SMap.get 0 k.credits 0 ≥ 1 then k.ctlq.head? else none
        match ctl, k.readyFlit 0, k.wrrPick with
        | some f, _, _ => (s.modPort p fun k => { k with ctlq := k.ctlq.drop 1 }).sendNew p f
        | none, some f, _ => s.sendHead p 0 f
        | none, none, some (vc, w) =>
          match k.readyFlit vc with
          | some f => (s.modPort p fun k => { k with wrr := w }).sendHead p vc f
          | none => s
        | none, none, none => s.sendOut p (s.plainFlit 0#4)

/-- FLIT_SLOT: an ACTIVE port sends its next flit; a HELD port sends IDLE (10 R248, R261). -/
def execFlitSlot (p : PortId) (s : State) : Host.Outcome State Fault Refusal :=
  .next (
    if s.active p.val then s.slotSend p.val
    else if (s.port p.val).st == 5 then s.sendOut p.val (s.plainFlit 0#4)
    else s)

end Sys2Proof.Machine
end

