-- ==== Sys2Proof/Machine/Rdma.lean ====
section
/-!
DEFINITION. RoCEv2 on the host ports: connections, WRITE and READ by target and owner, congestion (13 R337 to R346, 12 R326).
-/

namespace Sys2Proof.Machine

open Sys2Proof

/-! ## Connections and congestion (13 R338, R340) -/

/-- QP_CONNECT_REQUEST: bound to the ACTIVE context of the key, or rejected, as one with another path MTU is (13 R337, R338). -/
def execQpConnectRequest (qp : Fin 1024) (port : Fin 4) (key : BitVec 32) (s : State) (mtu : Nat := 4096) : Host.Outcome State Fault Refusal :=
  .next (
    if s.pwr.sup == 3 then s
    else if (SMap.get none s.host.qps qp.val).isSome || !(mtu == 1024 || mtu == 2048 || mtu == 4096) then s.emit (.connect qp.val false)
    else
      match (List.range 16).find? fun n => (s.ctx n).sched.st == 1 && (s.ctx n).sched.key == key with
      | none => s.emit (.connect qp.val false)
      | some n =>
        let q : Qp := { ctx := n, port := port.val, rate := 400000, rises := 0, lastActed := none, lastSent := none, mtu := mtu }
        (s.modHost fun h => { h with qps := SMap.set none h.qps qp.val (some q) }).emit (.connect qp.val true))

/-- Change a queue pair. -/
def State.modQp (s : State) (qp : Nat) (f : Qp → Qp) : State :=
  s.modHost fun h => { h with qps := SMap.upd none h.qps qp fun o => o.map f }

/-- At least `d` microseconds have passed since a moment, if there was one. -/
def State.since (s : State) (t : Option Nat) (d : Nat) : Bool := match t with | some t => decide (t + d ≤ s.now) | none => true

/-- CONGESTION_EXPERIENCED_PACKET: one notification, at most one in 50 us (13 R340). -/
def execCongestionExperiencedPacket (qp : Fin 1024) (s : State) : Host.Outcome State Fault Refusal :=
  .next (
    match SMap.get none s.host.qps qp.val with
    | none => s
    | some q => if s.since q.lastSent 50 then (s.modQp qp.val fun q => { q with lastSent := some s.now }).emit (.cnp qp.val) else s)

/-- The rate after a notification: 7/8 of it exactly, and 1 Gb/s at least (13 R340). -/
def Qp.fall (q : Qp) : Qp := if q.rate * 7 ≤ 1000 * (q.parts * 8) then { q with rate := 1000, parts := 1 } else { q with rate := q.rate * 7, parts := q.parts * 8 }
/-- The rate after a rise, up to the line rate (13 R340). -/
def Qp.rise (q : Qp) : Qp :=
  let r := q.rate + (if q.rises ≥ 20 then 20000 else 2000) * q.parts
  if r ≥ 400000 * q.parts then { q with rate := 400000, parts := 1 } else { q with rate := r }

/-- CONGESTION_NOTIFICATION_PACKET: the rate falls to 7/8, at most once in 50 us (13 R340). -/
def execCongestionNotificationPacket (qp : Fin 1024) (s : State) : Host.Outcome State Fault Refusal :=
  .next (
    match SMap.get none s.host.qps qp.val with
    | none => s
    | some q =>
      if s.since q.lastActed 50 then
        s.modQp qp.val fun q => { q.fall with rises := 0, lastActed := some s.now }
      else s)

/-- RATE_RISE_TIMER: 100 us without a notification acted on; after 20 rises in a row each is 20 Gb/s (13 R340). -/
def execRateRiseTimer (qp : Fin 1024) (s : State) : Host.Outcome State Fault Refusal :=
  .next (
    match SMap.get none s.host.qps qp.val with
    | none => s
    | some q =>
      if s.since q.lastActed 100 then
        s.modQp qp.val fun q => { q.rise with rises := q.rises + 1 }
      else s)

/-! ## Targets (13 R341 to R344) -/

/-- Base of the mailbox region and of the flag array in the RDMA view. -/
def mailbox : Nat := 0x0F2000000000
def flagArray : Nat := 0x0F2000100000

/-- What a range of the RDMA view is to a context: a row of the table of 13 R344. -/
inductive Target where
  | sq (off : Nat)
  | cq (off : Nat)
  | bell (off : Nat)
  | arrays
  | bulk
  | refused
  deriving DecidableEq, Repr

/-- Every page of a range of the bulk window belongs to the context's own allocations. -/
def State.ownBulk (s : State) (n a len : Nat) : Bool :=
  decide (1 ≤ len) && within a len t2Base windowSize && (pagesOf a len).all fun p => s.ownsPage n p

/-- A retiring context's pages are those of its allocations still (12 R326). -/
def State.retiringBulk (s : State) (n a len : Nat) : Bool :=
  decide (1 ≤ len) && within a len t2Base windowSize &&
    (pagesOf a len).all fun p => s.allocs.any fun x => x.ctx == n && x.tier == 2 && within (pageBase p) unit2M x.base x.size

/-- The row of the table that holds a range; a range in no one row is refused whole (13 R344). -/
def State.target (s : State) (n a len : Nat) : Target :=
  if within a len (mailbox + 0x8000 * n) 0x8000 then .sq (a - mailbox)
  else if within a len (mailbox + 0x80000 + 0x2000 * n) 0x2000 then .cq (a - mailbox)
  else if within a len (mailbox + 0xA0000 + 0x40 * n) 0x40 then .bell (a - mailbox - 0xA0000 - 0x40 * n)
  else if within a len (mailbox + 0xE0000) 0x20000 || within a len flagArray 0x20000 || within a len (mailbox + 0xE0000) 0x40000 then .arrays
  else if s.ownBulk n a len then .bulk
  else .refused

/-- A remote-access-error NAK ends the queue pair (13 R339). -/
def State.nakEnd (s : State) (qp : Nat) (access : Bool) : State :=
  (s.modHost fun h => { h with qps := SMap.set none h.qps qp none }).emit (.rdmaNak qp access)

/-! ## WRITE (13 R344, R346) -/

/-- A host write of the bulk window, page by page: the host's own pages take it, other pages fault (13 R346). `k` bounds the pages. -/
def State.bulkWrite (s : State) (n : Nat) : Nat → Nat → List Byte → State
  | 0, _, _ => s
  | k + 1, a, bs =>
    if bs.isEmpty then s
    else
      let m := pagePart a bs.length
      let s := if (s.page (pageOf a)).owner == 1 then
          (match s.store a (bs.take m) with
           | (some w, s) => s.uncorrFault w 1 n none
           | (none, s) => s)
        else s.faultPage (pageOf a)
      s.bulkWrite n k (a + m) (bs.drop m)

/-- A write into the doorbell block: eight aligned bytes of a writable field (13 R343, R344). -/
def State.bellWrite (s : State) (n off : Nat) (data : List Byte) : State :=
  let v := BitVec.ofNat 64 (leNat data)
  if data.length != 8 || off % 8 != 0 then s.hostDiscard
  else if off == 0 then s.writeSqTail n v
  else if off == 8 then s.writeCqHead n v
  else if off == 16 then s.writeFlag n v
  else if off == 40 then s.writeNotify n v
  else s.hostDiscard

/-- Carry out a WRITE whose R_Key holds (13 R344, 12 R326). -/
def State.hostWrite (s : State) (qp n a : Nat) (data : List Byte) : State :=
  let ack := fun (s : State) => s.emit (.rdmaAck qp)
  if (s.ctx n).sched.st == 2 && s.retiringBulk n a data.length then ack (s.absorb n 1)
  else
    match s.target n a data.length with
    | .sq off => if (s.ctx n).sched.st == 2 then ack (s.absorb n 1) else ack (s.modHost fun h => { h with rings := Mem.write h.rings off data })
    | .bell off => if (s.ctx n).sched.st == 2 then ack (s.absorb n 1) else ack (s.bellWrite n off data)
    | .arrays => ack s.hostDiscard
    | .bulk => ack (s.bulkWrite n (data.length / unit2M + 2) a data)
    | .cq _ => s.nakEnd qp true
    | .refused => s.nakEnd qp true

/-- RDMA_WRITE (13 R339, R344). -/
def execRdmaWrite (qp : Fin 1024) (rkey : BitVec 32) (addr : BitVec 64) (data : List Byte) (s : State) (replays : Nat := 0) : Host.Outcome State Fault Refusal :=
  .next (
    match SMap.get none s.host.qps qp.val with
    | none => s
    | some q =>
      if rkey != (s.ctx q.ctx).sched.key then s.nakEnd qp.val true
      else if data.isEmpty then s.emit (.rdmaAck qp.val)
      else (if replays ≥ 8 then s.nakEnd qp.val false else s).cross replays addr.toNat 3 q.ctx none fun s => s.hostWrite qp.val q.ctx addr.toNat data)

/-! ## READ (13 R344) -/

/-- The 64 bytes of a doorbell block (13 R343). -/
def CtxHost.block (h : CtxHost) : List Byte :=
  natLe 8 h.sqTail.toNat ++ natLe 8 h.cqHead.toNat ++ natLe 8 0 ++ natLe 8 h.sqHead.toNat ++ natLe 8 h.cqTail.toNat ++
    natLe 8 (h.notifyQp.toNat + b2n h.notifyEn * 2 ^ 24) ++ List.replicate 16 0#8

/-- One byte of the sequence and flag arrays (13 R341, R342). -/
def State.arrayByte (s : State) (a : Nat) : Byte :=
  if a < flagArray then (s.page (a - mailbox - 0xE0000)).seq else BitVec.ofNat 8 (s.page (a - flagArray)).owner

/-- Every page of a range of the bulk window may be read: it is not FREE (13 R344). -/
def State.bulkReadable (s : State) (a len : Nat) : Bool := (pagesOf a len).all fun p => (s.page p).owner != 0

/-- Carry out a READ whose R_Key holds (13 R344, 09 R237, 12 R326). -/
def State.hostRead (s : State) (qp n a len : Nat) : State :=
  if (s.ctx n).sched.st == 2 && s.retiringBulk n a len then (s.absorb n 1).nakEnd qp true
  else
    match s.target n a len with
    | .sq off => s.emit (.rdmaData qp (Mem.read s.host.rings off len))
    | .cq off => s.emit (.rdmaData qp (Mem.read s.host.rings off len))
    | .bell off => s.emit (.rdmaData qp (((s.ctx n).host.block.drop off).take len))
    | .arrays => s.emit (.rdmaData qp ((upFrom a len).map s.arrayByte))
    | .bulk =>
      if !s.bulkReadable a len then s.nakEnd qp true
      else
        match s.load a len with
        | (.inl bs, s) => s.emit (.rdmaData qp bs)
        | (.inr w, s) => (s.nakEnd qp false).uncorrFault w 3 n none
    | .refused => s.nakEnd qp true

/-- RDMA_READ (13 R339, R344). -/
def execRdmaRead (qp : Fin 1024) (rkey : BitVec 32) (addr : BitVec 64) (len : Nat) (upsets : List Upset) (s : State) (replays : Nat := 0) :
    Host.Outcome State Fault Refusal :=
  .next (
    match SMap.get none s.host.qps qp.val with
    | none => s
    | some q =>
      if rkey != (s.ctx q.ctx).sched.key then s.nakEnd qp.val true
      else if len == 0 then s.emit (.rdmaData qp.val [])
      else (if replays ≥ 8 then s.nakEnd qp.val false else s).cross replays addr.toNat 3 q.ctx none fun s =>
        (s.applyUpsets upsets).hostRead qp.val q.ctx addr.toNat len)

end Sys2Proof.Machine
end

