-- ==== Sys2Proof/Machine/Train.lean ====
section
/-!
DEFINITION. Training of a port, its EXCHANGE and verdict, lane faults and degrades, the registers that command a port, and
fencing (10 R247 to R250, R266 to R268, R273, R275, 14 R388, R389, 15 R413, 18 R478).
-/

namespace Sys2Proof.Machine

open Sys2Proof

/-! ## Training (10 R249) -/

/-- Change a port that stands in a state. -/
def State.inState (s : State) (p st : Nat) (f : Port → Port) : State := if (s.port p).st == st then s.modPort p f else s

/-- Lanes set in a mask. -/
def laneCount (m : BitVec 8) : Nat := ((List.range 8).filter fun i => m.getLsbD i).length

/-- LANE_SIGNAL_DETECT: a signal on at least seven lanes (10 R249). -/
def execLaneSignalDetect (p : PortId) (lanes : BitVec 8) (s : State) : Host.Outcome State Fault Refusal :=
  .next (if laneCount lanes ≥ 7 then s.inState p.val 1 fun k => { k with st := 2 } else s)

/-- LANES_CONVERGE: eight lanes or exactly seven (10 R249). The lanes' settings are kept in the always-on domain (10 R250). -/
def execLanesConverge (p : PortId) (lanes : BitVec 8) (s : State) : Host.Outcome State Fault Refusal :=
  .next (
    if laneCount lanes ≥ 7 && (s.port p.val).st == 2 then
      let s := s.modPort p.val fun k => { k with st := 3, lanes := lanes }
      { s with pwr := { s.pwr with lanesKept := SMap.set false s.pwr.lanesKept p.val true } }
    else s)

/-- EQUALISE_TIMEOUT: fewer than seven lanes after 150 ms (10 R249). -/
def execEqualiseTimeout (p : PortId) (s : State) : Host.Outcome State Fault Refusal :=
  .next (s.inState p.val 2 fun k => { k with st := 9 })

/-- What this module announces on a port in EXCHANGE (10 R248, 14 R387). -/
def State.announcement (s : State) (p : Nat) : XInfo :=
  { serial := Config.serial, group := s.link.group, coord := s.link.coord, member := s.link.member, port := p, version := s.shk.version,
    fence := BitVec.ofNat 32 s.hlt.fenceSelf }

/-- A port enters EXCHANGE and announces the module to its peer (10 R248, R249). -/
def State.enterExchange (s : State) (p : Nat) : State :=
  (s.modPort p fun k => { k with st := 4, verdict := false }).emit (.exchange p (s.announcement p))

/-- FEC_LOCK: the round trip is measured in nanoseconds; above 20 us the port fails (10 R249, R276). -/
def execFecLock (p : PortId) (rtt : Nat) (s : State) : Host.Outcome State Fault Refusal :=
  .next (
    if (s.port p.val).st != 3 then s
    else
      let s := s.modPort p.val fun k => { k with rtt := min rtt 0xFFFF }
      if rtt > 20000 then s.modPort p.val fun k => { k with st := 9 } else s.enterExchange p.val)

/-- ALIGN_TIMEOUT: no lock after 5 ms (10 R249). -/
def execAlignTimeout (p : PortId) (s : State) : Host.Outcome State Fault Refusal :=
  .next (s.inState p.val 3 fun k => { k with st := 9 })

/-! ## EXCHANGE (10 R248) -/

/-- The port that R247 pairs with a torus port; a welt port has none. -/
def partnerOf (p : Nat) : Option Nat := if p ≥ 32 then none else if p % 8 < 4 then some (p + 4) else some (p - 4)

/-- The one direction whose mask holds a port, and whose dimension has at least two modules (10 R248). -/
def State.exchangeDir (s : State) (p : Nat) : Option Nat :=
  match (List.range 8).filter fun d => inMask (s.dir d).ports p with
  | [d] => if s.dimSize (d / 2) ≥ 2 then some d else none
  | _ => none

/-- The checks of R248 on what the peer sent last, but for the firmware's verdict. -/
def State.exchangeOk (s : State) (p : Nat) : Bool :=
  let k := s.port p
  s.link.member && k.peerMember && k.peerGroup == s.link.group &&
  match s.exchangeDir p with
  | none => false
  | some d => k.peer == s.neighbour d && ((s.dir d).detour || partnerOf p == some k.peerPort)

/-- Entry `i` of the fence table (14 R388, R396). -/
def Hlt.fence (h : Hlt) (i : Nat) : Option Fence := SMap.get none h.fences i

/-- The entry of the fence table that stands for a serial (14 R388). -/
def Hlt.fenceOf (h : Hlt) (serial : BitVec 64) : Option Nat :=
  (List.range 16).find? fun i => match h.fence i with | some f => f.serial == serial | none => false

/-- A fence entry names a serial (14 R389, 15 R413). -/
def State.fenceNames (s : State) (serial : BitVec 64) : Bool := (s.hlt.fenceOf serial).isSome

/-- A fence entry bars a peer: its serial and an announced epoch at or below the entry's (14 R389). -/
def State.fenced (s : State) (serial : BitVec 64) (epoch : BitVec 32) : Bool :=
  (List.range 16).any fun i =>
    match s.hlt.fence i with | some f => f.serial == serial && decide (epoch.toNat ≤ f.epoch.toNat) | none => false

/-- A higher announced epoch removes the entry of a serial (14 R389). -/
def State.liftFence (s : State) (serial : BitVec 64) (epoch : BitVec 32) : State :=
  { s with hlt := (List.range 16).foldl (fun h i =>
      match h.fence i with
      | some f => if f.serial == serial && decide (f.epoch.toNat < epoch.toNat) then { h with fences := SMap.set none h.fences i none } else h
      | none => h) s.hlt }

/-- The firmware's verdict on the peer of a port: a fence entry or its version epoch bars it (14 R389, 18 R478). -/
def State.verdictBars (s : State) (p : Nat) : Bool :=
  let k := s.port p
  s.fenced k.serial k.peerFence || k.peerVersion != s.shk.version

/-- The verdict's effect at each EXCHANGE, whatever the other checks say: a higher epoch removes the peer's fence entry, and HOLD is set on a peer that is barred (14 R389, 18 R478). -/
def State.giveVerdict (s : State) (p : Nat) : State :=
  let k := s.port p
  let s := s.liftFence k.serial k.peerFence
  if s.verdictBars p then s.modPort p fun k => { k with hold := true } else s

/-- A direction whose ports no longer include an ACTIVE one after a re-run of EXCHANGE is lost (10 R250, R270). -/
def State.afterRerun (s : State) (p : Nat) : State :=
  match s.dirOf p with
  | none => s
  | some d =>
    if (s.effective d).isEmpty && ((List.range 36).all fun q => !(inMask (s.dir d).ports q && (s.port q).st == 4 && (s.port q).rerun)) &&
        !(s.dir d).down then s.loseDir d
    else s

/-- A port that fails its EXCHANGE is HELD (10 R248, R249). -/
def State.toHeld (s : State) (p : Nat) : State :=
  let r := (s.port p).rerun
  let s := s.modPort p fun k => { k with st := 5, verdict := false, rerun := false }
  if r then s.afterRerun p else s

/-- Run the checks on what the peer sent (10 R248). -/
def State.judgeExchange (s : State) (p : Nat) : State :=
  let s := s.giveVerdict p
  if !s.exchangeOk p || (s.port p).hold then s.toHeld p else s.modPort p fun k => { k with verdict := true }

/-- A port enters ACTIVE: SEQ, ACK and credit counters start anew, each channel at its buffer size, and its input buffers are empty (10 R249, R258, R259). -/
def Port.activated (k : Port) : Port :=
  { k.emptied with st := 6, verdict := false, rerun := false, txSeq := 0#12, rxSeq := 0#12, nakSent := false,
                   credits := (List.range 6).map fun vc => (vc, vcBuffer vc), occ := [], freed := [], heard := [], crRot := 0,
                   wrr := [], after := none, marks := [], degLane := none }

/-- An item of an egress queue that stands in no input buffer of a port any more. -/
def EItem.unlink (p : Nat) (i : EItem) : EItem :=
  match i with | .flit f e h => .flit f e (if h == p then 36 else h) | .mark c => .mark c

/-- Flits that arrived on a port before its counters start anew hold no slot of its new input buffers (10 R249, R259). -/
def State.unlink (s : State) (p : Nat) : State :=
  let s := (List.range 36).foldl (fun (s : State) q =>
    s.modPort q fun k => { k with egress := k.egress.map fun e => (e.1, e.2.map (EItem.unlink p)) }) s
  (List.range 8).foldl (fun (s : State) d =>
    s.modDir d fun e => { e with held := e.held.map fun x => (x.1, if x.2 == p then 36 else x.2) }) s

/-- A port becomes ACTIVE (10 R249). -/
def State.activate (s : State) (p : Nat) : State := (s.unlink p).modPort p Port.activated

/-- Ports in ACTIVE. -/
def State.activeCount (s : State) : Nat := ((List.range 36).filter fun p => s.active p).length

/-- Every direction of the module's coordinate has an ACTIVE port (15 R413). -/
def State.allDirs (s : State) : Bool :=
  (List.range 8).all fun d => decide (s.dimSize (d / 2) < 2) || !(s.effective d).isEmpty

/-- A JOIN_GROUP with ADOPT completes once every direction has an ACTIVE port (15 R413). -/
def State.joinCheck (s : State) : State :=
  match s.joining with
  | some tag => if s.allDirs then { s with joining := none }.finish 16 0x90 tag 0 s.activeCount 0 else s
  | none => s

/-- A direction's mask already names another port that reaches the same peer, by a rewrite of R267. -/
def State.reaches (s : State) (d p : Nat) : Bool :=
  (s.dir d).detour && (List.range 36).any fun q => q != p && inMask (s.dir d).ports q && (s.port q).serial == (s.port p).serial

/-- The direction that a HELD port would serve by R413: its peer announces this module's group and the coordinate of the direction's neighbour, no fence entry names the peer, and the direction has no ACTIVE port, or its mask already names the ports that reach this same peer (10 R267 point 1). A neighbour of the coordinate uses its welt ports, the spare any port. -/
def State.adoptDir (s : State) (p : Nat) : Option Nat :=
  let k := s.port p
  if s.link.member && (decide (p ≥ 32) || s.link.adopt) && k.st == 5 && k.peerGroup == s.link.group &&
      !s.fenceNames k.serial then
    (List.range 8).find? fun d =>
      decide (s.dimSize (d / 2) ≥ 2) && k.peer == s.neighbour d && ((s.effective d).isEmpty || s.reaches d p)
  else none

/-- Ports of a mask. -/
def maskOf (ps : List Nat) : BitVec 36 := ps.foldl (fun m q => m ||| BitVec.ofNat 36 (2 ^ q)) (0#36)

/-- Rewrite the direction entry toward an adopted coordinate: PORTS with every port that reaches the peer, DETOUR set, DOWN clear; the HELD ports newly named re-run EXCHANGE (10 R267, 15 R413). -/
def State.adoptVia (s : State) (p : Nat) : State :=
  match s.adoptDir p with
  | none => s
  | some d =>
    let serial := (s.port p).serial
    let ps := (List.range 36).filter fun q => (s.port q).serial == serial && s.adoptDir q == some d
    let old := (List.range 36).filter fun q => (s.dir d).detour && inMask (s.dir d).ports q && (s.port q).serial == serial
    let mask := maskOf (old ++ ps)
    let s := (List.range 8).foldl (fun s e => if e == d then s else s.modDir e fun x => { x with ports := x.ports &&& ~~~mask }) s
    let s := s.modDir d fun e => { e with ports := mask, detour := true, down := false }
    ps.foldl (fun s q => if (s.port q).hold then s else s.enterExchange q) s

/-- Record what the peer sent (10 R248, R276, R277, 14 R396). -/
def Port.heardPeer (k : Port) (x : XInfo) : Port :=
  { k with serial := x.serial, peer := x.coord, peerPort := x.port % 64, peerGroup := x.group, peerMember := x.member,
           peerVersion := x.version, peerFence := x.fence }

/-- Record what the peer sent on a port, and the highest fence epoch that its serial has announced (10 R248, 14 R388). -/
def State.hearPeer (s : State) (p : Nat) (x : XInfo) : State :=
  { s.modPort p fun k => k.heardPeer x with
    hlt := { s.hlt with announced := SMap.upd 0 s.hlt.announced x.serial.toNat (max x.fence.toNat) } }

/-- The round trip that EXCHANGE measures, in nanoseconds (10 R248, R276). -/
def State.setRtt (s : State) (p rtt : Nat) : State := s.modPort p fun k => { k with rtt := min rtt 0xFFFF }

/-- An ACTIVE or DEGRADE port empties its queues, drops the lane that a degrade removes, and re-runs EXCHANGE; one being handed over ends that first (10 R250). -/
def State.rerunExchange (s : State) (p : Nat) : State :=
  let st := (s.port p).st
  if st == 6 || st == 7 then
    let s := (s.emptyPort p).modPort p fun k =>
      { k with rerun := true, degLane := none,
               lanes := match k.degLane with | some l => k.lanes &&& ~~~(BitVec.ofNat 8 (2 ^ l)) | none => k.lanes }
    (s.enterExchange p).marksPass p
  else if st == 4 || st == 5 then s.enterExchange p
  else if (s.port p).lostDir.isSome then
    let s := s.endPort p
    if (s.port p).st == 5 then s.enterExchange p else s
  else s

/-- EXCHANGE: the peer's data arrive. In EXCHANGE the checks run; a HELD port may be named by R413; an ACTIVE port whose peer re-runs EXCHANGE empties its queues and runs the checks again (10 R248, R250, 15 R413). The firmware's verdict sets HOLD at each one (14 R389, 18 R478). -/
def execExchange (p : PortId) (x : XInfo) (s : State) (rtt : Nat := 0) : Host.Outcome State Fault Refusal :=
  .next (
    let st := (s.port p.val).st
    if st == 4 then (((s.hearPeer p.val x).setRtt p.val rtt).judgeExchange p.val).adoptVia p.val
    else if st == 5 then ((s.hearPeer p.val x).giveVerdict p.val).adoptVia p.val
    else if st == 6 then (((s.hearPeer p.val x).rerunExchange p.val).setRtt p.val rtt).judgeExchange p.val
    else s)

/-- EXCHANGE_VERDICT_EXPIRY: 1 ms without HOLD, and the port becomes ACTIVE (10 R248, R249). -/
def execExchangeVerdictExpiry (p : PortId) (s : State) : Host.Outcome State Fault Refusal :=
  .next (
    let k := s.port p.val
    if k.st == 4 && k.verdict then
      if k.hold || !s.exchangeOk p.val then s.toHeld p.val else (s.activate p.val).joinCheck
    else s)

/-! ## Lane faults and loss (10 R268, R269) -/

/-- A lane fault moves a port to seven lanes (10 R268, R278, 14 R382). -/
def State.degrade (s : State) (p lane : Nat) : State :=
  let s := s.modPort p fun k => { k with st := 7, degLane := some lane, degrades := satAdd 8 k.degrades 1 }
  ((s.note24 3).penalise 8 5 (some 20)).emit (.marker p lane)

/-- A lane found faulty on a port: by its own receivers, or by its peer's marker (10 R249, R268). -/
def State.laneFault (s : State) (p lane : Nat) : State :=
  let k := s.port p
  if !k.lanes.getLsbD lane then s
  else if k.st == 6 then (if laneCount k.lanes == 8 then s.degrade p lane else s.losePort p)
  else if k.st == 7 then (if k.degLane == some lane then s else s.losePort p)
  else s

/-- LANE_FAULT (10 R268). -/
def execLaneFault (p : PortId) (lane : Fin 8) (s : State) : Host.Outcome State Fault Refusal :=
  .next (s.laneFault p.val lane.val)

/-- DEGRADE_MARKER_RECEIVE: the peer names a lane; the port stops sending and returns the marker (10 R268). -/
def execDegradeMarkerReceive (p : PortId) (lane : Fin 8) (s : State) : Host.Outcome State Fault Refusal :=
  .next (s.laneFault p.val lane.val)

/-- DEGRADE_COMPLETE: seven lanes carry DATA again; a NAK with the last in-order SEQ goes first (10 R268). A port on which HOLD was set meanwhile is then treated as lost and goes to HELD (10 R249, R275). -/
def execDegradeComplete (p : PortId) (s : State) : Host.Outcome State Fault Refusal :=
  .next (
    if (s.port p.val).st != 7 then s
    else
      let s := s.modPort p.val fun k =>
        { k with st := 6, degLane := none, nakSent := true, nakDue := 1,
                 lanes := match k.degLane with | some l => k.lanes &&& ~~~(BitVec.ofNat 8 (2 ^ l)) | none => k.lanes }
      if (s.port p.val).hold then s.dropPort p.val (some 5) else s)

/-- DEGRADE_TIMEOUT (10 R249). -/
def execDegradeTimeout (p : PortId) (s : State) : Host.Outcome State Fault Refusal :=
  .next (if (s.port p.val).st == 7 then s.losePort p.val else s)

/-- CODEWORD_LOSS_TIMEOUT (10 R249). `uncorr` is the number of uncorrectable codewords met meanwhile (10 R278). -/
def execCodewordLossTimeout (p : PortId) (s : State) (uncorr : Nat := 0) : Host.Outcome State Fault Refusal :=
  .next (if s.active p.val then (s.countUncorr p.val uncorr).losePort p.val else s)

/-- DOWN_RETRAIN_TIMER: 1 ms after its handover ended (10 R249). -/
def execDownRetrainTimer (p : PortId) (s : State) : Host.Outcome State Fault Refusal :=
  .next (if (s.port p.val).lostDir.isNone then s.inState p.val 8 fun k => { k with st := 1 } else s)

/-- FAILED_RETRY_TIMER: 10 s (10 R249). -/
def execFailedRetryTimer (p : PortId) (s : State) : Host.Outcome State Fault Refusal :=
  .next (s.inState p.val 9 fun k => { k with st := 1 })

/-! ## Registers that command a port (10 R266, R273, R275) -/

/-- Write LNK_CTL_n.ENABLE (10 R249, R275). -/
def State.writeEnable (s : State) (p : Nat) (on : Bool) : State :=
  let k := s.port p
  let s := s.modPort p fun k => { k with enable := on }
  if on then
    (if k.after == some 0 then s.modPort p fun k => { k with after := none }
     else if k.st == 0 && s.pwr.rest < 3 then s.modPort p fun k => { k with st := 1 } else s)
  else if k.st == 6 then s.dropPort p (some 0)
  else if k.lostDir.isSome then s.modPort p fun k => { k with after := some 0 }
  else (s.emptyPort p).modPort p fun k => { k with st := 0, verdict := false, rerun := false, degLane := none }

/-- Write LNK_CTL_n.HOLD (10 R249, R271, R275). -/
def State.writeHold (s : State) (p : Nat) (on : Bool) : State :=
  let k := s.port p
  let s := s.modPort p fun k => { k with hold := on }
  if on then
    (if k.st == 6 then s.dropPort p (some 5) else if k.st == 4 && k.verdict then s.toHeld p else s)
  else if k.st == 5 && k.hold then s.enterExchange p
  else s

/-- Write LNK_CTL_n.RETRAIN (10 R275). -/
def State.writeRetrain (s : State) (p : Nat) (go : Bool) : State :=
  if go then s.inState p 9 fun k => { k with st := 1 } else s

/-- Write a direction entry: PORTS unless a port stands in another entry's mask, DETOUR, DOWN cleared by 1; its HELD ports without HOLD re-run EXCHANGE (10 R249, R266, R273). -/
def State.writeDir (s : State) (d : Nat) (v : BitVec 64) : State :=
  let mask := v.setWidth 36
  let clash := (List.range 8).any fun e => e != d && (s.dir e).ports &&& mask != 0#36
  let s := s.modDir d fun e =>
    { e with ports := if clash then e.ports else mask, detour := v.getLsbD 36, down := e.down && !v.getLsbD 37 }
  (List.range 36).foldl (fun s p =>
    if inMask (s.dir d).ports p && (s.port p).st == 5 && !(s.port p).hold then s.enterExchange p else s) s

/-- The administrative context is the writer (10 R273, R275). -/
def Origin.isAdmin (o : Origin) : Bool := match o with | .admin => true | _ => false

/-- A register write of the administrative context reaches a module that is not in OFF (16 R421). -/
def State.admin (s : State) (o : Origin) : Bool := Origin.isAdmin o && s.pwr.sup != 3

/-- ENABLE: a write of LNK_CTL_n.ENABLE (10 R249, R275). -/
def execEnable (o : Origin) (p : PortId) (v : BitVec 64) (s : State) : Host.Outcome State Fault Refusal :=
  .next (if s.admin o then s.writeEnable p.val (v.getLsbD 0) else s)

/-- HOLD: a write of LNK_CTL_n.HOLD (10 R249, R275). -/
def execHold (o : Origin) (p : PortId) (v : BitVec 64) (s : State) : Host.Outcome State Fault Refusal :=
  .next (if s.admin o then s.writeHold p.val (v.getLsbD 1) else s)

/-- RETRAIN: a write of LNK_CTL_n.RETRAIN (10 R249, R275). -/
def execRetrain (o : Origin) (p : PortId) (v : BitVec 64) (s : State) : Host.Outcome State Fault Refusal :=
  .next (if s.admin o then s.writeRetrain p.val (v.getLsbD 2) else s)

/-- A write of LNK_DIR_d (10 R266, R273). -/
def execLnkDirWrite (o : Origin) (d : DirId) (v : BitVec 64) (s : State) : Host.Outcome State Fault Refusal :=
  .next (if s.admin o then s.writeDir d.val v else s)

/-! ## Fencing (14 R388) -/

/-- The highest epoch that a serial has announced on any port, or 0 (14 R388). -/
def State.announced (s : State) (serial : BitVec 64) : Nat := SMap.get 0 s.hlt.announced serial.toNat

/-- The entry of the fence table that was made first (14 R388). -/
def Hlt.oldestFence (h : Hlt) : Nat :=
  (List.range 16).foldl (fun b i =>
    match h.fence i, h.fence b with | some f, some g => if f.order < g.order then i else b | _, _ => b) 0

/-- The entry that a new fence takes: the lowest free one, or the oldest of a full table (14 R388). -/
def Hlt.fenceRoom (h : Hlt) : Nat := ((List.range 16).find? fun i => (h.fence i).isNone).getD h.oldestFence

/-- Enter a fence: a standing entry of the serial keeps the higher epoch; else a free entry takes it, or it replaces the oldest one in place (14 R388). -/
def Hlt.enterFence (h : Hlt) (serial : BitVec 64) (epoch : BitVec 32) (coord : BitVec 16) : Hlt :=
  match h.fenceOf serial with
  | some i =>
    { h with fences := SMap.upd none h.fences i fun f => f.map fun f =>
        { f with epoch := if f.epoch.toNat < epoch.toNat then epoch else f.epoch, coord := coord } }
  | none =>
    { h with fences := SMap.set none h.fences h.fenceRoom (some { serial := serial, epoch := epoch, coord := coord, order := h.fenceNext }),
             fenceNext := h.fenceNext + 1 }

/-- Hold the ports that reach a fenced peer (14 R388). -/
def State.holdPeer (s : State) (serial : BitVec 64) (epoch : Nat) : State :=
  (List.range 36).foldl (fun s p =>
    if (s.port p).serial == serial && decide ((s.port p).peerFence.toNat ≤ epoch) then s.writeHold p true else s) s

/-- FENCE_PEER (14 R388). One that names this module's own serial raises FC_FENCED and stays in progress, so that it ends by 13 R357. -/
def execFencePeer (tag : Tag) (s : State) : Host.Outcome State Fault Refusal :=
  .next (s.command 16 0x92 tag fun c s =>
    let serial := BitVec.ofNat 64 (c.p 8 8)
    let e := c.p 20 4
    if serial == 0#64 then s.finish 16 0x92 tag 0x204 0 0
    else if serial == Config.serial then
      let s := s.fatal { cls := 0x108, ctx := 31, subject := s.link.coord, detail := BitVec.ofNat 64 e }
      { s with flt := { s.flt with fenced := true } }
    else
      let e' := if e == 0xFFFFFFFF then s.announced serial else e
      let s := { s with hlt := s.hlt.enterFence serial (BitVec.ofNat 32 e') (BitVec.ofNat 16 (c.p 16 2)) }
      (s.holdPeer serial e').finish 16 0x92 tag 0 0 0)

end Sys2Proof.Machine
end

