-- ==== Sys2Proof/Machine/Snapshots.lean ====
section
/-!
DEFINITION. Snapshots, restores, image streams, exports and imports, and joining and leaving a group (15).
-/

namespace Sys2Proof.Machine

open Sys2Proof

/-! ## SNAPSHOT (15 R400 to R405) -/

/-- A generation of the context is being written. -/
def CtxSnap.writing (k : CtxSnap) : Bool := k.g0.writing || k.g1.writing

/-- A SNAPSHOT fails with BUSY (15 R400, R401): a role that takes none, a RUN or another transfer in progress, a generation being written, too little T2, or no retention record to carry. -/
def State.snapBusy (s : State) (n : Nat) (c : Cmd) : Bool :=
  let k := s.ctx n
  let ret := k.snap.retained
  !(k.snap.role ≤ 1) || (ret && k.snap.role == 0) || k.runInProgress || k.snap.op.isSome || (k.snap.role == 0 && k.snap.writing) ||
  match s.snapShape n ret c with
  | none => true
  | some im => decide (s.freeT2 < im.length / unit2M)

/-- The firmware completes an outstanding commit wave first: the module contributes to it, again to one that still runs (07 R184, 15 R401 step 2). -/
def State.finishWave (s : State) (n : Nat) : State :=
  let t := (s.ctx n).step
  if t.committed != t.applied then s.contribute n else s.beginStop n

/-- A SNAPSHOT that passes step 1 holds the context's RUNs, and its stop follows the wave (15 R401). -/
def State.startSnapshot (s : State) (n : Nat) (tag : BitVec 16) (kind : Nat) : State :=
  (s.modSnapOf n fun k => { k with op := some { kind := kind, tag := tag, retained := k.retained, peer := k.peer }, done := 0 }).finishWave n

/-- SNAPSHOT with any role but 1 (15 R401). -/
def execSnapshot (n : CtxN) (tag : Tag) (s : State) : Host.Outcome State Fault Refusal :=
  .next (s.commandIf n.val 0x40 tag (fun _ => (s.ctx n.val).snap.role != 1) fun c s =>
    if s.snapBusy n.val c then s.finish n.val 0x40 tag 0x23E 0 0 else s.startSnapshot n.val tag 1)

/-- SNAPSHOT with role 1 (15 R401, R410, R411). -/
def execSnapshotSend (n : CtxN) (tag : Tag) (s : State) : Host.Outcome State Fault Refusal :=
  .next (s.commandIf n.val 0x40 tag (fun _ => (s.ctx n.val).snap.role == 1) fun c s =>
    if s.snapBusy n.val c then s.finish n.val 0x40 tag 0x23E 0 0 else s.startSnapshot n.val tag 2)

/-- Where the first region of an image lies. -/
def firstRegion (im : Image) : Nat := ((im.regions.head?).map (·.addr)).getD 0

/-- SNAPSHOT_STOP_END: the command completes with the image's length and the stop time; a stop to T2 is followed by its drain (15 R401, R402). -/
def execSnapshotStopEnd (n : CtxN) (s : State) (replays : Nat := 0) : Host.Outcome State Fault Refusal :=
  .next (
    match (s.ctx n.val).snap.op with
    | none => s
    | some o =>
      match o.image with
      | none => s
      | some im =>
        if !s.live || !o.begun then s
        else s.cross replays (firstRegion im) 4 n.val none fun s =>
        if o.kind == 1 then
          ((s.modSnapOf n.val fun k =>
            ({ k with op := none, drain := some { o with kind := 3 } } : CtxSnap).setGen o.gen { k.gen o.gen with writing := true }).finish
            n.val 0x40 o.tag 0 im.length (s.now - o.start))
        else if o.kind == 2 && o.sent == im.length then (s.endOp n.val).finish n.val 0x40 o.tag 0 im.length (s.now - o.start)
        else s)

/-- SNAPSHOT_DRAIN_COMPLETE: the image is in T3 and its digest committed; the staging is filled and freed (15 R402). -/
def execSnapshotDrainComplete (n : CtxN) (s : State) (replays : Nat := 0) : Host.Outcome State Fault Refusal :=
  .next (
    match (s.ctx n.val).snap.drain with
    | none => s
    | some o =>
      match o.image with
      | none => s
      | some im => if !s.live then s else s.cross replays ((o.staging.headD (0, 0)).1) 4 n.val none fun s =>
        (s.modSnapOf n.val fun k => ({ k with drain := none } : CtxSnap).validate o.gen im).freeStaging o.staging)

/-! ## RESTORE (15 R400, R406 to R411) -/

/-- A RESTORE is excluded by a RUN or another transfer in progress, or by RETAINED outside role 2 (15 R400, R406). -/
def State.restoreBusy (s : State) (n : Nat) : Bool :=
  let k := s.ctx n
  k.runInProgress || k.snap.op.isSome || (k.snap.retained && k.snap.role != 2)

/-- The context holds a T1 allocation. -/
def State.holdsT1 (s : State) (n : Nat) : Bool := s.allocs.any fun x => x.ctx == n && x.tier == 1

/-- Start an operation of RESTORE. -/
def State.startOp (s : State) (n : Nat) (o : SnapOp) : State := s.modSnapOf n fun k => { k with op := some o, done := 0 }

/-- RESTORE with role 0, or with a role that R400 does not name (15 R406). -/
def execRestore (n : CtxN) (tag : Tag) (s : State) : Host.Outcome State Fault Refusal :=
  .next (s.commandIf n.val 0x41 tag (fun _ => (s.ctx n.val).snap.role == 0 || decide ((s.ctx n.val).snap.role > 4)) fun c s =>
    let stop := fun (s : State) st => s.finish n.val 0x41 tag st 0 0
    let k := (s.ctx n.val).snap
    if k.role != 0 || s.restoreBusy n.val || s.holdsT1 n.val then stop s 0x23E
    else
      match k.named (c.p 8 1) with
      | none => stop s 0x242
      | some g =>
        match (k.gen g).image with
        | none => stop s 0x242
        | some im =>
          match s.takeRegions n.val im with
          | none => stop s 0x23E
          | some s => s.startOp n.val { kind := 4, tag := tag, gen := g, image := some im, placed := true })

/-- RESTORE with role 1: stream a generation (15 R400, R410). -/
def execRestoreSend (n : CtxN) (tag : Tag) (s : State) : Host.Outcome State Fault Refusal :=
  .next (s.commandIf n.val 0x41 tag (fun _ => (s.ctx n.val).snap.role == 1) fun c s =>
    let stop := fun (s : State) st => s.finish n.val 0x41 tag st 0 0
    let k := (s.ctx n.val).snap
    if s.restoreBusy n.val then stop s 0x23E
    else
      match k.named (c.p 8 1) with
      | none => stop s 0x242
      | some g =>
        match (k.gen g).image with
        | none => stop s 0x242
        | some im => (s.startOp n.val { kind := 6, tag := tag, gen := g, image := some im, peer := k.peer }).takeGrants n.val)

/-- RESTORE with role 2: receive a whole-state image or a retention record (15 R406, R410, R411). -/
def execRestoreReceive (n : CtxN) (tag : Tag) (s : State) : Host.Outcome State Fault Refusal :=
  .next (s.commandIf n.val 0x41 tag (fun _ => (s.ctx n.val).snap.role == 2) fun _ s =>
    let k := (s.ctx n.val).snap
    if s.restoreBusy n.val || (!k.retained && s.holdsT1 n.val) then s.finish n.val 0x41 tag 0x23E 0 0
    else (s.startOp n.val { kind := 5, tag := tag, peer := k.peer, retained := k.retained }).grantStream n.val)

/-- A word of the register record. -/
def Image.reg (im : Image) (off : Nat) : Nat := ((im.regs.find? fun r => r.1 == off).map fun r => r.2.toNat).getD 0

/-- The registers of a restored context (15 R407). -/
def Ctx.restoredRegs (k : Ctx) (im : Image) : Ctx :=
  let w := im.reg
  let k := k.modArith fun a =>
    { a with ovf := bit (w 0x200) 0, inv := bit (w 0x200) 1, sat := bit (w 0x200) 2, satCount := fld (w 0x208) 47 0,
             checked := fld (w 0x210) 31 0, exceeded := fld (w 0x210) 62 32,
             farOff := fld (w 0x218) 23 0, shadow := fld (w 0x218) 47 24, rerun := fld (w 0x218) 62 48,
             taken := fld (w 0x220) 31 0, stolen := fld (w 0x220) 62 32,
             skipped := fld (w 0x260) 23 0, replayed := fld (w 0x260) 47 24, clamped := fld (w 0x260) 62 48,
             collDone := fld (w 0x290) 39 8, serveCount := im.serveCount }
  let k := k.modStep fun t =>
    { t with scale := BitVec.ofNat 32 (fld (w 0x238) 31 0), clean := fld (w 0x238) 51 32, applied := im.step, committed := im.step,
             decided := false, decision := false, late := bit (w 0x240) 50, ovfBit := false, fixed := false, stepctl := false,
             wave := none, seed := BitVec.ofNat 64 (w 0x250), aborted := none, journal := [], retained := [],
             layout := fld (w 0x288) 15 0, reshard := none }
  k.modMem fun m => { m with adapters := BitVec.ofNat 64 (w 0x268) }

/-- The rest of a restored context: program, scaling records, where the scales of its loaded copies stand, semaphores (15 R407, 06 R156). -/
def Ctx.restored (k : Ctx) (im : Image) : Ctx :=
  let k := k.restoredRegs im
  { k with prog := im.prog, recs := im.recs, copies := im.copies, formed := none, mergeQ := [], sems := [] }

/-- The scale registers of a restored context stand on a core as the image has them (03 R51, log 9). -/
def State.putSregs (n : Nat) (im : Image) (s : State) (c : Nat) : State :=
  let r := SMap.get [] im.sregs c
  let q := s.quarter (quarterOf c)
  if q.cur == some n && q.phase != 3 then s.modCore c fun k => { k with s := r }
  else s.modCtx n fun x => { x with saved := SMap.set none x.saved c (some { (SMap.get none x.saved c).getD {} with s := r }) }

/-- The scale registers of a restored context: none come without SCALING (03 R51, log 9). -/
def State.restoreSregs (s : State) (n : Nat) (im : Image) : State := if im.scaling then (List.range 320).foldl (State.putSregs n im) s else s

/-- The quarter stores that hold the context's data read zeros (15 R407). -/
def State.clearQuarters (s : State) (n : Nat) : State :=
  (List.range 4).foldl (fun s q =>
    if (s.quarter q).cur == some n || (s.quarter q).lastRan == some n then s.fill (0xC0000000 + q * 0x4000000) 0x4000000 else s) s

/-- The task area of a restored program, as PROGRAM_LOAD takes it (13 R363); `none` where it cannot be had. -/
def State.restoreArea (s : State) (n : Nat) (im : Image) : Option State :=
  let free := fun (s : State) => match (s.ctx n).mem.taskArea with | some (b, u) => s.startFill 1 b u none none | none => s
  match im.prog with
  | none => some ((free s).modCtx n fun k => k.modMem fun m => { m with taskArea := none })
  | some p =>
    (s.takeArea 0 (p.areaUnits * unit2M)).map fun b =>
      (free s).modCtx n fun k => k.modMem fun m => { m with taskArea := some (b, p.areaUnits) }

/-- Write the regions' data; an uncorrectable word that a region covers in part stops the write (09 R227). -/
def State.writeRegions (s : State) : List Region → Option Nat × State
  | [] => (none, s)
  | r :: rs =>
    match s.store r.addr (Mem.read r.bytes 0 r.size) with
    | (some w, s) => (some w, s)
    | (none, s) => s.writeRegions rs

/-- The command of an installed image completes with its label and step. -/
def State.restoreDone (s : State) (n : Nat) (im : Image) : State :=
  match (s.ctx n).snap.op with
  | some o => (s.endOp n).finish n 0x41 o.tag 0 im.label.toNat im.step
  | none => s

/-- A whole-state image has passed its checks: the context takes its state, and the command completes (15 R406, R407). -/
def State.installWhole (s : State) (n : Nat) (im : Image) : State :=
  match s.restoreArea n im with
  | none => s.failRestore n 0x23E
  | some s =>
    match s.writeRegions im.regions with
    | (some w, s) => s.uncorrFault w 1 n none
    | (none, s) =>
      let s := (s.modCtx n fun k => k.restored im).clearQuarters n
      (((s.restoreSregs n im).ledgerSlot n).modSnapOf n fun k => { k with done := im.length / unit2M }).restoreDone n im

/-- A retention record has passed its checks: its regions are written, it is held, and the command completes (15 R411). DESIGN CHOICE: CTX_STEP_EPOCH's DECIDED and
OVERFLOW stay 0 until the replay's RUN starts; 07 R187 does not say what they show of a record that a RESTORE has brought. -/
def State.installRetained (s : State) (n : Nat) (im : Image) : State :=
  match s.writeRegions im.regions with
  | (some w, s) => s.uncorrFault w 1 n none
  | (none, s) =>
    (s.modStepOf n fun t =>
      { t with retained := t.retained.filter (fun r => r.epoch != im.step) ++
          [{ epoch := im.step, decision := im.decision, scale := im.scale, regions := im.regions.map fun r => (r.addr, r.size) }] }).restoreDone n im

/-- RESTORE_INSTALL_COMPLETE: the last byte is written and the checks are made (15 R406, R407, R411). -/
def execRestoreInstallComplete (n : CtxN) (s : State) (replays : Nat := 0) : Host.Outcome State Fault Refusal :=
  .next (
    match (s.ctx n.val).snap.op with
    | none => s
    | some o =>
      if !s.live then s
      else if o.kind == 4 then
        (match o.image with
         | some im => s.cross replays (firstRegion im) 4 n.val none fun s =>
           if ((s.ctx n.val).snap.gen o.gen).checks then s.installWhole n.val im else s.failRestore n.val 0x242
         | none => s)
      else if o.kind == 5 && o.placed && o.got == field (Mem.read o.rx 32 8) 0 8 then
        (if !imageChecks o.rx then s.failRestore n.val 0x242
         else
           let im := readImage o.rx
           s.cross replays (firstRegion im) 4 n.val none fun s =>
           if o.retained then (if s.acceptsRetained n.val im then s.installRetained n.val im else s.failRestore n.val 0x23E)
           else s.installWhole n.val im)
      else s)

/-- STREAM_TIMEOUT: the sender fails with BUSY, the receiver with NO_SNAPSHOT; the 10 s run from the command's start, so that a sender may still
wait for its commit wave (15 R410). -/
def execStreamTimeout (n : CtxN) (s : State) : Host.Outcome State Fault Refusal :=
  .next (
    match (s.ctx n.val).snap.op with
    | none => s
    | some o =>
      let left := match o.image with | some im => decide (o.sent < im.length) | none => true
      if !s.live then s
      else if o.kind == 2 && left then s.failSnapshot n.val 0x23E
      else if o.kind == 6 && left then (s.endOp n.val).finish n.val 0x41 o.tag 0x23E 0 0
      else if o.kind == 5 then s.failRestore n.val 0x242
      else s)

/-- STREAM_SEND_COMPLETE: a role-1 RESTORE has sent its generation (15 R410). -/
def execStreamSendComplete (n : CtxN) (s : State) (replays : Nat := 0) : Host.Outcome State Fault Refusal :=
  .next (
    match (s.ctx n.val).snap.op with
    | none => s
    | some o =>
      match o.image with
      | none => s
      | some im => if s.live && o.kind == 6 && o.sent == im.length then s.cross replays 0 4 n.val none fun s => s.restoreDone n.val im else s)

/-! ## Exports and imports (15 R416) -/

/-- Every page of the range is a DEVICE page of the context. -/
def State.pagesDevice (s : State) (n first pages : Nat) : Bool := s.rangeDevice n first pages

/-- EXPORT: RESTORE with role 3 (15 R416). -/
def execExportImg (n : CtxN) (tag : Tag) (s : State) : Host.Outcome State Fault Refusal :=
  .next (s.commandIf n.val 0x41 tag (fun _ => (s.ctx n.val).snap.role == 3) fun c s =>
    let stop := fun (s : State) st => s.finish n.val 0x41 tag st 0 0
    let k := (s.ctx n.val).snap
    if s.restoreBusy n.val || !s.pagesDevice n.val k.firstPage k.pages then stop s 0x23E
    else
      match k.named (c.p 8 1) with
      | none => stop s 0x242
      | some g => s.startOp n.val { kind := 7, tag := tag, gen := g, image := (k.gen g).image, first := k.firstPage, pages := k.pages, off := k.offset })

/-- The generation that an import is writing. -/
def CtxSnap.importing (k : CtxSnap) : Option Nat := [0, 1].find? fun g => (k.gen g).writing && (match k.drain with | some o => o.gen != g | none => true)

/-- The first IMPORT of an image: its header gives the length, and the generation is charged (15 R404, R416). Another write of a generation in progress excludes it (log 49). -/
def State.firstImport (s : State) (n : Nat) (o : SnapOp) : State :=
  let fail := fun (s : State) st => s.finish n 0x41 o.tag st 0 0
  let k := (s.ctx n).snap
  if k.writing then fail s 0x23E
  else if o.off != 0 then fail s 0x242
  else
    match s.load (pageBase o.first) 64 with
    | (.inr w, s) => s.uncorrFault w 4 n none
    | (.inl h, s) =>
      if o.pages == 0 || !imageHeadOk h then fail s 0x242
      else
        let g := k.target
        match s.chargeGen n g (field h 32 8 / unit2M) with
        | none => fail s 0x210
        | some s => (s.modSnapOf n fun k => k.setGen g { k.gen g with writing := true }).startOp n { o with gen := g }

/-- IMPORT: RESTORE with role 4 (15 R416). One that breaks the sequence empties the generation. -/
def execImportImg (n : CtxN) (tag : Tag) (s : State) : Host.Outcome State Fault Refusal :=
  .next (s.commandIf n.val 0x41 tag (fun _ => (s.ctx n.val).snap.role == 4) fun _ s =>
    let k := (s.ctx n.val).snap
    if s.restoreBusy n.val || !s.pagesDevice n.val k.firstPage k.pages then s.finish n.val 0x41 tag 0x23E 0 0
    else
      let o : SnapOp := { kind := 8, tag := tag, first := k.firstPage, pages := k.pages, off := k.offset }
      match k.importing with
      | none => s.firstImport n.val o
      | some g =>
        if k.offset == (k.gen g).next then s.startOp n.val { o with gen := g }
        else (s.emptyGen n.val g).finish n.val 0x41 tag 0x242 0 0)

/-- An EXPORT writes its units; units beyond the image are not written (15 R416). -/
def State.moveOut (s : State) (n : Nat) (o : SnapOp) (im : Image) : State :=
  let count := min o.pages (im.length / unit2M - o.off)
  let m := im.bytes
  let s := (List.range count).foldl (fun (s : State) i =>
    (s.write (pageBase (o.first + i)) (Mem.read m ((o.off + i) * unit2M) unit2M)).2) s
  (s.modSnapOf n fun k => { k with done := count }).restoreDone n im

/-- An IMPORT has copied its units: the next one is awaited, or the whole image is checked (15 R416). -/
def State.importUnits (s : State) (n : Nat) (o : SnapOp) (bs : List Byte) : State :=
  let x := (s.ctx n).snap.gen o.gen
  let raw := Mem.write x.raw (x.next * unit2M) bs
  let next := x.next + bs.length / unit2M
  let h := Mem.read raw 0 64
  let done := fun (s : State) st l e => ((s.endOp n).modSnapOf n fun k => { k with done := bs.length / unit2M }).finish n 0x41 o.tag st l e
  if next < x.units then
    done (s.modSnapOf n fun k => k.setGen o.gen { x with raw := raw, next := next }) 0 (field h 8 8) (field h 16 8)
  else if imageChecks raw then
    done (s.modSnapOf n fun k => k.validate o.gen (readImage raw)) 0 (field h 8 8) (field h 16 8)
  else done (s.emptyGen n o.gen) 0x242 0 0

/-- EXPORT_IMPORT_COMPLETE (15 R416). -/
def execExportImportComplete (n : CtxN) (s : State) (replays : Nat := 0) : Host.Outcome State Fault Refusal :=
  .next (
    match (s.ctx n.val).snap.op with
    | none => s
    | some o =>
      if !s.live || !(o.kind == 7 || o.kind == 8) then s
      else s.cross replays (pageBase o.first) 4 n.val none fun s =>
      if o.kind == 7 then (match o.image with | some im => s.moveOut n.val o im | none => s)
      else
        let x := (s.ctx n.val).snap.gen o.gen
        match s.load (pageBase o.first) (min o.pages (x.units - x.next) * unit2M) with
        | (.inr w, s) => s.uncorrFault w 4 n.val none
        | (.inl bs, s) => s.importUnits n.val o bs)

/-! ## JOIN_GROUP and LEAVE_GROUP (13 R362, 15 R413, 18 R478) -/

/-- Every port re-runs EXCHANGE. -/
def State.rerunAll (s : State) : State := (List.range 36).foldl (fun s p => s.rerunExchange p) s

/-- JOIN_GROUP: refused to a member, to an EXPELLED module, and below the required version epoch (13 R361, R362, 14 R384, 18 R478). -/
def execJoinGroup (tag : Tag) (s : State) : Host.Outcome State Fault Refusal :=
  .next (s.command 16 0x90 tag fun c s =>
    let stop := fun (s : State) st => s.finish 16 0x90 tag st 0 0
    if s.link.member || s.hlt.hstate == 2 || decide (s.shk.version.toNat < s.shk.required.toNat) then stop s 0x240
    else if s.rst.short && !bit (c.p 20 1) 0 then stop s 0x241
    else
      let adopt := bit (c.p 20 1) 1
      let s := { s with link := { s.link with coord := BitVec.ofNat 16 (c.p 8 2), sizeM1 := BitVec.ofNat 16 (c.p 10 2), group := BitVec.ofNat 16 (c.p 12 2),
                                              member := true, adopt := adopt, faultEpoch := BitVec.ofNat 32 (c.p 16 4) } }
      let s := s.rerunAll
      if adopt then ({ s with joining := some tag } : State).joinCheck else s.finish 16 0x90 tag 0 s.activeCount 0)

/-- JOIN_GROUP_TIMEOUT: 100 ms after a JOIN_GROUP with ADOPT (15 R413). -/
def execJoinGroupTimeout (s : State) : Host.Outcome State Fault Refusal :=
  .next (
    match s.joining with
    | some tag => ({ s with joining := none } : State).finish 16 0x90 tag 0 s.activeCount 0
    | none => s)

/-- LEAVE_GROUP (13 R362). -/
def execLeaveGroup (tag : Tag) (s : State) : Host.Outcome State Fault Refusal :=
  .next (s.command 16 0x91 tag fun _ s =>
    if !s.colls.isEmpty then s.finish 16 0x91 tag 0x23E 0 0
    else ({ s with link := { s.link with member := false, adopt := false } } : State).finish 16 0x91 tag 0 0 0)

end Sys2Proof.Machine
end

