-- ==== Sys2Proof/Machine/ResetOps.lean ====
section
/-!
DEFINITION. What every reset shares: what survives each kind, the start of the firmware and its measurement, and the cold,
warm and fault resets themselves (17 R444 to R451, 18 R469, R472).
-/

namespace Sys2Proof.Machine

open Sys2Proof

/-! ## Measurement (18 R469) -/

/-- A measurement register. -/
def Shk.measOf (k : Shk) (i : Nat) : BitVec 256 := SMap.get (0#256) k.meas i
/-- Extend a measurement register with a digest. -/
def Shk.extend (k : Shk) (i : Nat) (d : BitVec 256) : Shk :=
  { k with meas := SMap.set (0#256) k.meas i (sm3 (digestBytes (k.measOf i) ++ digestBytes d)) }

/-- Code of the ordering code, as QUERY gives it. -/
def orderByte : Byte := BitVec.ofNat 8 orderingCode

/-- The two words of a bad-core map of a quarter (17 R464). -/
def mapWords (f : Nat → Bool) (q : Nat) : List Byte :=
  let w := fun (a n : Nat) => (List.range n).foldl (fun m i => if f (84 * q + a + i) then m + 2 ^ i else m) 0
  natLe 8 (w 0 64) ++ natLe 8 (w 64 20)

/-- Identifier of a package-key slot as it stands in SHK_PKGKEY; zeros for an empty one (18 R482). -/
def Shk.pkgId (k : Shk) (i : Nat) : List Byte := digestBytes (SMap.get (0#256) k.pkgIds i)

/-- Digest of the eight package-key identifiers. -/
def Shk.keysDigest (k : Shk) : BitVec 256 := sm3 ((List.range 8).flatMap fun i => k.pkgId i)

/-- Measure what boots: `slot` 0 ACTIVE, 1 FALLBACK. -/
def Shk.measure (k : Shk) (im : FwImage) (slot : Nat) : Shk :=
  let k := { k with meas := [] }
  let k := k.extend 0 im.digest
  let k := k.extend 1 (sm3 (natLe 4 im.release.toNat ++ natLe 4 im.version.toNat ++ [BitVec.ofNat 8 im.level, BitVec.ofNat 8 k.rollback,
    BitVec.ofNat 8 slot] ++ List.replicate 5 0#8))
  let k := k.extend 2 (sm3 (natLe 8 Config.serial.toNat ++ [orderByte] ++ [0, 1, 2, 3].flatMap (mapWords Config.fuseBad)))
  k.extend 3 k.keysDigest

/-! ## The firmware that starts (18 R471, R472) -/

/-- Bit of this module's ordering code in an image's codes (18 R471). -/
def codeBit : Nat := match Config.ordering with | .a => 0 | .b => 1 | .c => 2
/-- An image that may start: verified, at or above the rollback counter, for this ordering code. -/
def Shk.starts (k : Shk) (im : FwImage) : Bool := im.verified && decide (k.rollback ≤ im.level) && im.codes.getLsbD codeBit

/-- Start an image. -/
def Shk.run (k : Shk) (im : FwImage) (slot : Nat) : Shk :=
  { k.measure im slot with release := im.release, version := im.version, level := im.level, fellBack := slot == 1 }

/-- Bring-up starts ACTIVE, else FALLBACK; `none` when neither may start (18 R472). -/
def Shk.boot (k : Shk) : Option Shk :=
  match k.slotA.filter k.starts with
  | some im => some (k.run im 0)
  | none => (k.slotF.filter k.starts).map fun im => k.run im 1

/-- Bring-up halts, naming a unit (17 R451). -/
def State.halt (s : State) (unit : Nat) : State := { s with rst := { s.rst with phase := 15, unit := unit } }

/-- The firmware is loaded and measured, and bring-up goes on to a phase; it halts when no image may start (17 R448 to R451). -/
def State.bootTo (s : State) (phase : Nat) : State :=
  match s.shk.boot with
  | some k => { s with shk := k, rst := { s.rst with phase := phase } }
  | none => s.halt 0x1FF

/-! ## What survives (17 R446) -/

/-- A generation after a reset: one that was being written holds nothing (15 R405). -/
def Gen.afterReset (g : Gen) : Gen := if g.valid then g else {}
/-- A slot after a reset: FREE, with its generations (15 R403, 17 R446). -/
def Ctx.afterReset (k : Ctx) : Ctx := { snap := { g0 := k.snap.g0.afterReset, g1 := k.snap.g1.afterReset } }
/-- The slots after a reset. -/
def State.slotsAfter (s : State) : SMap Ctx :=
  (List.range 16).foldl (fun m n => SMap.set {} m n (s.ctx n).afterReset) []

/-- Remap entries of the ledger (09 R234, R235). -/
def Ecc.ledgerRemaps (e : Ecc) : SMap (List Remap) :=
  e.remaps.foldl (fun m r => SMap.set [] m r.1 (r.2.filter fun x => x.committed)) []

/-- Package-cache entries whose copy is whole, charged to no context (08 R203, 09 R244). -/
def State.cacheAfter (s : State) : List CacheEntry := (s.cache.filter fun e => e.valid).map fun e => { e with ctx := 17 }

/-- The dump held in T3 (14 R374). -/
def Flt.held (f : Flt) : Flt :=
  { dir := f.dir, dumpBytes := f.dumpBytes, dumpValid := f.dumpValid, dumpComplete := f.dumpComplete, dumpSeq := f.dumpSeq,
    dumpRelease := f.dumpRelease, dumpStart := f.dumpStart, dumpEnd := f.dumpEnd }

/-- Staging cut short leaves STAGED empty; a warm or fault reset keeps a verified image (18 R479). -/
def Shk.kept (k : Shk) : Shk :=
  { k with staging := none, slotS := if k.staging.isSome then none else k.slotS, held := 0, bad := 0, repaired := 0, bitmaps := 0, meas := [] }

/-- The reset counters and the always-on time are committed to the ledger (17 R457). -/
def State.commitCounters (s : State) : State :=
  let r := s.rst
  { s with rst := { r with ledger := [r.cold, r.warm, r.fault, r.escalated, r.core, r.cluster, r.partition, r.retries] },
           pwr := { s.pwr with aonLedger := s.pwr.aon } }

/-! ## The cold reset (17 R445, R446) -/

/-- Everything but the always-on domain, the ledger, the fuses and flash goes to its Cold value; T1 and T2 lose their contents. -/
def State.switchOff (s : State) : State :=
  { pending := s.pending, now := s.now, free := s.free, out := s.out, ecc := { remaps := s.ecc.ledgerRemaps }, ctxs := s.slotsAfter,
    cache := s.cacheAfter, host := { mgmtUp := s.host.mgmtUp }, flt := s.flt.held,
    hlt := { s.hlt with requested := false, withheld := false, asked := false, hint := false, hintHeld := false, dumpOnRemote := false },
    pwr := { vin := s.pwr.vin, iin := s.pwr.iin, cause := s.pwr.cause, cell := s.pwr.cell, fed := s.pwr.fed, onCell := s.pwr.onCell, lost := s.pwr.lost,
             flat := s.pwr.flat, aon := s.pwr.aon, aonLedger := s.pwr.aonLedger, lanesKept := s.pwr.lanesKept },
    rst := { s.rst with scope := 0, index := 0, busy := false, drained := false, result := 0, stragglers := 0, phase := 0, unit := 0x1FF,
                        fullTest := true, short := false, kind := 0, started := false, enabled := [], good := [], newBad := [], serves := [] },
    shk := { s.shk.kept with slotS := none, release := 0, version := 0, level := 0, fellBack := false, seed := false, path := false,
                             laceRelease := 0 } }

/-- A cold reset that is requested while the input is valid: commands end ABORTED, RESETTING goes out on every ACTIVE port, and the cold boot begins (17 R445). `cause` is RST_CAUSE.LAST. -/
def State.coldReset (s : State) (cause : Nat) : State :=
  let s := (if s.ready then s.endCommands 0x221 0#64 else s).sendResetting.switchOff
  { s with pwr := { s.pwr with onCell := false }, rst := { s.rst with last := cause } }

/-! ## The warm reset (17 R446, R449) -/

/-- A last after a warm reset: LOADING has been abandoned, DRAINING becomes READY, and no RUN holds it (08 R207). -/
def Last.afterWarm (l : Last) : Last := { l with st := if l.st == 4 then 2 else if l.st == 1 then 0 else l.st, inflight := 0 }

/-- Release what a warm reset does not keep of T1 and T2: the clients' allocations and every state area, filled once the module is ready; ranges that were being freed are released (09 R230, R244). -/
def State.warmMemory (s : State) : State :=
  let gone := s.allocs.filter fun x => x.ctx != 16 && x.tier != 3 && !x.freeing
  let areas := s.areas
  let freed := s.allocs.filter fun x => x.ctx == 16 && x.freeing
  let s := (List.range 17).foldl (fun (s : State) n => (s.dropLoads n).dropStaging n) s
  let s := freed.foldl (fun (s : State) x => s.subUsed 16 x.tier x.units) s
  let pages := (s.allocs.filter fun x => x.ctx == 16 && x.tier == 2 && !x.freeing && inWindow x.base)
  let s := s.modHost fun h => { h with pages := h.pages.filter fun e => pages.any fun x => within (pageBase e.1) unit2M x.base x.size }
  let s := { s with allocs := s.allocs.filter (fun x => x.ctx == 16 && !x.freeing),
                    fills := s.fills.map fun (f : Fill) => { f with waiter := none, retire := none } }
  let s := gone.foldl (fun (s : State) x => s.startFill x.tier x.base x.units none none) s
  areas.foldl (fun (s : State) r => s.startFill 1 r.1 (r.2 / unit2M) none none) s

/-- The administrative context keeps its quotas (09 R244). -/
def Ctx.adminKept (k : Ctx) : Ctx :=
  { mem := { lim1 := k.mem.lim1, used1 := k.mem.used1, lim2 := k.mem.lim2, used2 := k.mem.used2, lim3 := k.mem.lim3, used3 := k.mem.used3 } }

/-- Registers of the host attachment after a warm reset: rings empty, queue pairs disconnected, kept sequences lost (13 R357, R359, R365). -/
def HostSt.afterWarm (h : HostSt) : HostSt := { h with qps := [], rings := [], kept := [] }

/-- The warm reset's own effect (17 R446, R449). -/
def State.warmed (s : State) (cause : Nat) : State :=
  let s := s.warmMemory
  let s := { s with
    mem := SMap.wipe s.mem 0 t1Base,
    ecc := { s.ecc with bad := SMap.wipe s.ecc.bad 0 t1Base, injAddr := 0, injFlips := 0, injArmed := false },
    cores := [], quarters := [], ctxs := SMap.set {} s.slotsAfter 16 (s.ctx 16).adminKept,
    lastA := s.lastA.afterWarm, lastB := s.lastB.afterWarm, lastPtr := { s.lastPtr with pendingSw := [] },
    loads := [], cache := s.cache.map (fun (e : CacheEntry) => if e.ctx == 16 then e else { e with ctx := 17 }), colls := [],
    host := s.host.afterWarm, flt := s.flt.held, joining := none,
    dirs := s.dirs.map (fun (e : Nat × Option Direc) => (e.1, e.2.map fun (d : Direc) => { d with held := [], resetting := none })),
    link := { s.link with inbox := [], reasm := [], ctlIn := [], grants := [] },
    pwr := { s.pwr with sup := 0, hist := 0, aim := none, thermal := false, thermalCap := none, clk := 600, vpt := 600, ballast := false, rest := 0,
                        entering := none, waking := none, thenReset := 0, onCell := false },
    rst := { s.rst with last := cause, warm := satAdd 32 s.rst.warm 1, scope := 0, index := 0, busy := false, drained := false, result := 0,
                        stragglers := 0, unit := 0x1FF, kind := 1, started := true },
    shk := s.shk.kept }
  (s.rerunAll.commitCounters).bootTo 1

/-- A warm reset: commands end ABORTED and RESETTING goes out before it (17 R445). -/
def State.warmReset (s : State) (cause : Nat) : State := ((s.endCommands 0x221 0#64).sendResetting).warmed cause

/-! ## The fault reset (14 R371, 17 R446, R450, R451) -/

/-- Ports after a fault reset: at DETECT, with ENABLE kept (10 R250, R275). -/
def State.portsAfterFault (s : State) : SMap Port :=
  (List.range 36).foldl (fun m p => SMap.set {} m p { enable := (s.port p).enable, st := if (s.port p).enable then 1 else 0 }) []

/-- RST_CAUSE.LAST of a fault reset: 7 during a bring-up, 6 after an unclean partial reset, else 5 (17 R458). -/
def State.faultCause (s : State) : Nat := if !s.ready then 7 else if s.rst.result == 2 then 6 else 5

/-- The fault reset's own effect (17 R446, R450). A fault during a bring-up starts it again as a fault reset; the fourth restart in a row halts it, and a halted module stays halted (17 R451). -/
def State.faulted (s : State) : State :=
  let restart := !s.ready
  let kind := if restart && (s.rst.kind == 0 || s.rst.kind == 3) then 3 else 2
  let stop := restart && (decide (s.rst.retries ≥ 3) || s.rst.phase == 15)
  let unit := if s.rst.phase == 15 then s.rst.unit else 0x1FF
  let o := s.switchOff
  let s : State := { o with
    ecc := { o.ecc with recent := s.ecc.recent },
    ports := s.portsAfterFault, link := { seen := s.link.seen },
    hlt := { s.hlt with fenceSelf := (s.hlt.fenceSelf + 1) % 2 ^ 32 },
    pwr := { s.pwr with sup := 0, hist := 0, aim := none, thermal := false, thermalCap := none, clk := 600, vpt := 600, ballast := false, rest := 0,
                        entering := none, waking := none, thenReset := 0, stageOpen := false, onCell := false, staged := none },
    rst := { o.rst with last := s.faultCause, fault := (s.rst.fault + 1) % 2 ^ 32, fullTest := false, kind := kind, started := true,
                        retries := if restart then min 3 (s.rst.retries + 1) else s.rst.retries },
    shk := { s.shk.kept with seed := false, path := false, laceRelease := 0 } }
  let s := s.commitCounters
  if stop then s.halt unit else s.bootTo 2

/-- The fault reset begins with a RESETTING notice (14 R371). -/
def State.faultReset (s : State) : State := s.sendResetting.faulted

end Sys2Proof.Machine
end

