-- ==== Sys2Proof/Machine/Supply.lean ====
section
/-!
DEFINITION. The supply monitor and its states, the governor, temperatures, and the rest states (16, 19 R488, R493, R497).
-/

namespace Sys2Proof.Machine

open Sys2Proof

/-- Change the supply record. -/
def State.modPwr (s : State) (f : Pwr → Pwr) : State := { s with pwr := f s.pwr }

/-! ## Clock and energy (12 R323, R324, 16 R422 to R430) -/

/-- Fused maximum of the array clock in MHz (01 R13). -/
def clkMax : Nat := match Config.ordering with | .a => 1900 | .b => 1700 | .c => 1450
/-- The floor clock in MHz (16 R420). -/
def clkFloor : Nat := 600

/-- The lowest of the cap, the fused maximum and the thermal limit (16 R429). -/
def Pwr.ceiling (p : Pwr) : Nat := min clkMax (min (if p.clkReq == 0 then clkMax else p.clkReq) (p.thermalCap.getD clkMax))

/-- The input current ceiling in 10 mA: the power limit at 40 V (16 R420). -/
def currentCeiling : Nat := powerLimit * 100 / 40

/-- The bound of the input power at the floor clock in W (16 R420). -/
def floorPower : Nat := 1000

/-- A sample at the floor clock keeps to its bound (16 R420); voltage in 10 mV, current in 10 mA. -/
def Pwr.floorOk (p : Pwr) (vin iin : Nat) : Bool := p.clk != clkFloor || decide (vin * iin ≤ floorPower * 10000)

/-- The samples of the last 10 ms. -/
def Pwr.last10ms (p : Pwr) (now : Nat) : List (Nat × Nat × Nat) := p.window.filter fun e => decide (now < e.1 + 10000)

/-- The time of the newest sample. -/
def Pwr.sampleTime (p : Pwr) : Nat := (p.window.head?.map (·.1)).getD 0

/-- Energy drawn in the last 10 ms, in units of 0.1 mW for 1 us (16 R422, R423). -/
def Pwr.drawn (p : Pwr) : Nat := ((p.last10ms p.sampleTime).map fun e => e.2.1 * e.2.2).sum

/-- A limit of R423 is broken: the average power of the last 10 ms is over the power limit, or the sample over the current ceiling. -/
def Pwr.overLimit (p : Pwr) : Bool := decide (powerLimit * 10000 * 10000 < p.drawn) || decide (currentCeiling < p.iin)

/-- The input current in mA, averaged over the ten samples that a list of them begins with: a sample is in units of 10 mA (16 R424). -/
def avg10 (w : List (Nat × Nat × Nat)) : Nat := ((w.take 10).map fun e => e.2.2).sum

/-- `far` holds of the current average and of one of a full window of ten samples that starts 100 us or more earlier; `far` takes both
averages and the time between them (16 R424). -/
def rampAgainst (far : Nat → Nat → Nat → Bool) (now cur : Nat) : List (Nat × Nat × Nat) → Bool
  | [] => false
  | e :: w => (decide (e.1 + 100 ≤ now) && decide (9 ≤ w.length) && far cur (avg10 (e :: w)) (now - e.1)) || rampAgainst far now cur w

/-- The newest average of ten samples against every earlier one. -/
def Pwr.rampPair (p : Pwr) (far : Nat → Nat → Nat → Bool) : Bool :=
  decide (10 ≤ p.window.length) && rampAgainst far p.sampleTime (avg10 p.window) p.window

/-- Twice the rate in mA/us at which current may rise: RAMP, and half of it until 16 periods of history are held (16 R424, R426). -/
def Pwr.riseRate2 (p : Pwr) : Nat := if p.hist < 16 then p.ramp else 2 * p.ramp

/-- The current has risen as far as the ramp limit allows, so the clock is not raised (16 R424, R426, log 51). -/
def Pwr.risen (p : Pwr) : Bool := p.rampPair fun cur old dt => decide (2 * old + p.riseRate2 * dt + 2000 ≤ 2 * cur)

/-- The current has fallen as far as the ramp limit allows, so ballast slows the fall (16 R424, R425, log 51). -/
def Pwr.fallen (p : Pwr) : Bool := p.rampPair fun cur old dt => decide (cur + p.ramp * dt + 1000 ≤ old)

/-- The learned curve runs ballast for the rise it predicts: from the moment from which the ramp limit reaches the level in time, and for 1 ms
after the predicted moment, while the draw is not above the level (16 R426). -/
def Pwr.early (p : Pwr) (now : Nat) : Bool :=
  match p.aim with
  | some (t, level) => p.hist == 16 && decide (p.iin ≤ level) && decide (now < t + 1000) && decide (p.ramp * (t - now) ≤ (level - p.iin) * 10)
  | none => false

/-- The governor runs ballast: with a RUN in progress below the power floor, or where the learned curve starts it early; and against a fall
that is too fast (16 R425, R426, log 51). -/
def Pwr.ballasted (p : Pwr) (run : Bool) (now : Nat) : Pwr :=
  { p with ballast := (run && (decide (p.vin * p.iin < p.floor * 10000) || p.early now)) || p.fallen }

/-- The clock that the cap, the fused maximum and the thermal limit allow, and the floor clock while a rest state is being entered: the power is
brought down first (16 R429, R435). -/
def Pwr.top (p : Pwr) : Nat := if p.entering.isSome then clkFloor else p.ceiling

/-- One point down: the clock first; the voltage follows a sample later (16 R428). -/
def Pwr.lower (p : Pwr) : Pwr := { p with clk := if clkFloor + 50 ≤ p.clk then p.clk - 50 else p.clk, vpt := max p.clk (p.vpt - 50) }

/-- One point up: the voltage first; the clock reaches a point whose voltage the cores have (16 R428). -/
def Pwr.lift (p : Pwr) : Pwr :=
  let c := min p.vpt (p.clk + 50)
  { p with clk := c, vpt := max p.vpt (min p.top (c + 50)) }

/-- At most one point of the clock-voltage curve in a microsecond. Over a limit of R423 the clock falls, and never below the floor; above what
R429 allows it falls as the ramp limit allows; below, it rises as the ramp limit allows (16 R423, R424, R428, R429, log 51). -/
def Pwr.govern (p : Pwr) : Pwr :=
  if p.overLimit then p.lower
  else if p.top < p.clk && !p.fallen then p.lower
  else if p.clk < p.top && !p.risen then p.lift
  else { p with vpt := max p.clk (p.vpt - 50) }

/-- Nominal core voltage in mV of a point of the curve (16 R428). -/
def curveMv (clk : Nat) : Nat :=
  match clk with
  | 600 => 600
  | 950 => 650
  | 1200 => 690
  | 1450 => 720
  | 1700 => 760
  | 1900 => 800
  | c => Config.curvePoint c

/-- Core voltage in mV: the curve and the fused trim (16 R428). -/
def Pwr.coreMv (p : Pwr) : Nat := curveMv p.vpt + Config.trim.val - 40

/-- The top of an energy count, in 1/40,000 uJ (log 52). -/
def energyMax : Nat := (2 ^ 64 - 1) * 40000

/-- A microsecond of a quarter's running context: USED and a quarter of the energy (12 R323, R324). -/
def State.chargeQuarter (s : State) (share q : Nat) : State :=
  match (s.quarter q).cur with
  | some n => s.modCtx n fun k => k.modSched fun h =>
      { h with used := satAdd 64 h.used 1, energy := min (h.energy + share) energyMax }
  | none => s

/-- Quarters on which a context is ready and not running. -/
def State.readyElsewhere (s : State) (n : Nat) : Nat := ((List.range 4).filter fun q => s.readyOn n q && (s.quarter q).cur != some n).length

/-- A microsecond of a context's waiting: WAIT (12 R323). -/
def State.chargeWait (s : State) (n : Nat) : State :=
  let w := s.readyElsewhere n
  if w == 0 then s else s.modCtx n fun k => k.modSched fun h => { h with wait := satAdd 64 h.wait w }

/-- A microsecond of every context's accounts (12 R323, R324). -/
def State.account (s : State) (share : Nat) : State :=
  (List.range 4).foldl (fun s q => s.chargeQuarter share q) ((List.range 16).foldl State.chargeWait s)

/-! ## The supply states (16 R431, R432) -/

/-- The lowest of the samples of the last 10 ms. -/
def Pwr.lowest (p : Pwr) (now : Nat) : Nat := (p.last10ms now).foldl (fun m e => min m e.2.1) p.vin

/-- Entry into STOPPING, with FC_SUPPLY; at an overvoltage the input stage opens (14 R368, 16 R431). -/
def State.stopping (s : State) (cause : Nat) : State :=
  let s := s.modPwr fun p => { p with sup := 2, cause := cause, clk := clkFloor, ballast := false, stageOpen := p.stageOpen || cause == 3 }
  s.fatal { cls := 0x109, ctx := 31, subject := s.link.coord, detail := BitVec.ofNat 64 (s.pwr.lowest s.now) }

/-- The input lies within 40.0 to 60.0 V. -/
def Pwr.inRange (p : Pwr) : Bool := decide (4000 ≤ p.vin) && decide (p.vin ≤ 6000)

/-- The supply state after a sample (16 R431, R432). -/
def State.judgeSupply (s : State) : State :=
  let p := s.pwr
  if p.sup ≤ 1 && decide (p.vin < 3000) then s.stopping 2
  else if p.sup ≤ 1 && decide (6300 < p.vin) then s.stopping 3
  else if p.sup == 0 && decide (p.vin < 3800) then s.modPwr fun p => { p with sup := 1, clk := clkFloor, ballast := false, sags := satAdd 16 p.sags 1 }
  else if p.sup == 2 && s.flt.waitInput && p.inRange then s.faultReset
  else s

/-- What a sample enters: voltage, current, lowest, window and energy (16 R422, R440, R443). The window holds what any two averages whose
difference the ramp limit can bind need: 120 ms at 0.5 A/ms are 60 A (16 R420, R424, R426). -/
def Pwr.sampled (p : Pwr) (now vin iin : Nat) : Pwr :=
  { p with vin := vin, iin := iin, vmin := min p.vmin vin, energy := min (p.energy + 4 * vin * iin) energyMax,
           window := (now, vin, iin) :: p.window.filter fun e => decide (now < e.1 + 120000) }

/-- 4 h of input in us (16 R433). -/
def cellFull : Nat := 14400000000

/-- A microsecond of the backup cell: the input feeds it, and it is full after 4 h; without input its charge falls (16 R433, log 73). -/
def Pwr.fedCell (p : Pwr) (charge : Nat) : Pwr :=
  if p.sup != 3 && p.inRange && !p.stageOpen then
    { p with fed := p.fed + 1, cell := if p.fed + 1 < cellFull then max p.cell charge else 100 }
  else { p with fed := 0, cell := min p.cell charge }

/-- The always-on domain's microsecond: its time and its cell (16 R433). -/
def Pwr.aonTick (p : Pwr) (charge : Nat) : Pwr := if p.flat then p else { p.fedCell charge with aon := p.aon + 1 }

/-- The governor moves in A0 while the supply state is NORMAL; at any other time the voltage follows the clock down (16 R424, R428, R431). -/
def Pwr.governed (p : Pwr) (run : Bool) (now : Nat) : Pwr :=
  if p.sup == 0 && p.rest == 0 then p.govern.ballasted run now else { p with vpt := max p.clk (p.vpt - 50) }

/-- Some context has a RUN in progress (13 R352, 16 R425). -/
def State.anyRun (s : State) : Bool := (List.range 17).any fun n => (s.ctx n).runInProgress

/-- SUPPLY_SAMPLE: one microsecond passes; with the input on, its sample is entered and charged, the governor moves, and the supply state is
judged; an open input stage draws nothing (12 R323, R324, 16 R422 to R433). -/
def execSupplySample (vin iin : BitVec 16) (s : State) : Host.Outcome State Fault Refusal :=
  .next (
    let run := s.anyRun
    let (n, s) := s.draw
    let s := { s with now := s.now + 1 }
    if s.pwr.sup == 3 then s.modPwr fun p => p.aonTick (Config.cellCharge n).val
    else
      let i := if s.pwr.stageOpen then 0 else iin.toNat
      let s := (s.modPwr fun p => (p.sampled s.now vin.toNat i).aonTick (Config.cellCharge n).val).account (vin.toNat * i)
      (s.modPwr fun p => p.governed run s.now).judgeSupply)

/-- SAG_RECOVERY: 1 ms at 40 V or above (16 R431). -/
def execSagRecovery (s : State) : Host.Outcome State Fault Refusal :=
  .next (if s.pwr.sup == 1 && decide (4000 ≤ s.pwr.vin) then s.modPwr fun p => { p with sup := 0, rides := satAdd 16 p.rides 1 } else s)

/-- SAG_TIMEOUT: 10 ms in SAG (16 R431). -/
def execSagTimeout (s : State) : Host.Outcome State Fault Refusal := .next (if s.pwr.sup == 1 then s.stopping 1 else s)

/-- HOLDUP_END: a dump still running is cut short, and everything but the always-on domain is switched off (14 R378, 16 R431, R432). -/
def execHoldupEnd (s : State) : Host.Outcome State Fault Refusal :=
  .next (
    if s.pwr.sup != 2 then s
    else
      let s := if s.flt.dumping then s.closeDump false true else s
      let s := s.switchOff
      (s.modPwr fun p => { p with sup := 3, onCell := true }).modHost fun h => { h with hostUp := [], mgmtUp := [] })

/-- INPUT_VALID: 100 ms of valid input in OFF; the cold boot is the next event (16 R421, R433). -/
def execInputValid (s : State) : Host.Outcome State Fault Refusal :=
  .next (
    if s.pwr.sup != 3 then s
    else
      let s := s.modPwr fun p => { p with sup := 0, lost := p.lost || p.flat, flat := false }
      { s with rst := { s.rst with last := 0, phase := 0, started := false } })

/-- BACKUP_CELL_FLAT: the always-on domain stops; what it loses comes back from the ledger's last commit (16 R433, 17 R457). -/
def execBackupCellFlat (s : State) : Host.Outcome State Fault Refusal :=
  .next (
    if s.pwr.sup != 3 || s.pwr.flat then s
    else
      let g := fun i => s.rst.ledger.getD i 0
      { s with pwr := { s.pwr with flat := true, cell := 0, lanesKept := [], aon := s.pwr.aonLedger },
               rst := { s.rst with cold := g 0, warm := g 1, fault := g 2, escalated := g 3, core := g 4, cluster := g 5,
                                   partition := g 6, retries := g 7 } })

/-! ## Governor periods, temperatures (16 R426, R430, 19 R493, R497) -/

/-- GOVERNOR_PERIOD: 100 ms in which some RUN is in progress and no local commit falls (16 R426). -/
def execGovernorPeriod (s : State) : Host.Outcome State Fault Refusal := .next (if s.live && s.anyRun then s.govPeriod else s)

/-- The clock that the throttle lowers by one point: the clock of the moment, and in a rest state what it would rise to (16 R430, R439). -/
def Pwr.throttled (p : Pwr) : Nat := max clkFloor (min (if p.rest == 0 then p.clk else p.ceiling) (p.thermalCap.getD clkMax) - 50)

/-- THERMAL_THROTTLE_STEP: 100 us with a die at 100 C or more lower the clock by one point; in a rest state the limit is applied on wake (16 R430,
R439). -/
def execThermalThrottleStep (s : State) : Host.Outcome State Fault Refusal :=
  .next (
    if s.pwr.sup == 3 || decide (s.pwr.dieMax < 1000) then s
    else s.modPwr fun p =>
      { p with thermal := true, throttles := if p.thermal then p.throttles else satAdd 15 p.throttles 1, thermalCap := some p.throttled,
               clk := if p.rest == 0 then min p.clk p.throttled else p.clk })

/-- The highest of five readings and the lowest sensor that has it (19 R493, R497). -/
def hottest (ds : List (BitVec 12)) : Nat × Nat :=
  (List.range ds.length).foldl (fun m i => let d := (ds.getD i 0#12).toNat; if d > m.1 then (d, i) else m) ((ds.getD 0 0#12).toNat, 0)

/-- FC_THERMAL names a sensor and its reading (14 R368). -/
def State.thermalFault (s : State) (sensor reading : Nat) : State :=
  s.fatal { cls := 0x10A, ctx := 31, subject := s.link.coord, detail := BitVec.ofNat 64 (sensor + reading * 2 ^ 8) }

/-- COOLANT_READING: the five dies and the coolant are read; below 95 C the throttle ends; at 110 C FC_THERMAL is raised (14 R368, 16 R430, 19 R497). -/
def execCoolantReading (inlet outlet : BitVec 12) (dies : List (BitVec 12)) (s : State) : Host.Outcome State Fault Refusal :=
  .next (
    if s.pwr.sup == 3 then s
    else
      let (d, i) := hottest dies
      let again := decide (1100 ≤ s.pwr.dieMax) && s.flt.active
      let s := s.modPwr fun p => { p with inlet := inlet.toNat, outlet := outlet.toNat, dieMax := d, dieSensor := i }
      let s := if d < 950 then s.modPwr fun p => { p with thermal := false, thermalCap := none } else s
      if decide (1100 ≤ d) && !again then s.thermalFault i d else s)

/-- COOLANT_LIMIT_EXPIRY: an inlet at 50 C or more, or an outlet at 70 C or more, for 5 s in A0 to A2 (19 R493). -/
def execCoolantLimitExpiry (outlet : Bool) (s : State) : Host.Outcome State Fault Refusal :=
  .next (
    let (sensor, reading, limit) := if outlet then (0x11, s.pwr.outlet, 700) else (0x10, s.pwr.inlet, 500)
    if s.pwr.sup == 3 || decide (s.pwr.rest > 2) || decide (reading < limit) then s else s.thermalFault sensor reading)

/-! ## POWER_SHAPE and the registers of the governor (16 R424 to R429, R440, R441, R443) -/

/-- POWER_SHAPE: ramp limit and power floor; the history is cleared (16 R426, R427). -/
def execPowerShape (tag : Tag) (s : State) : Host.Outcome State Fault Refusal :=
  .next (s.command 16 0x51 tag fun c s =>
    (s.modPwr fun p => { p with ramp := c.p 8 2, floor := c.p 12 4, hist := 0, aim := none }).finish 16 0x51 tag 0 0 0)

/-- The values that CLK_REQ may take (16 R441). -/
def clkReqOk (v : Nat) : Bool := v == 0 || (decide (clkFloor ≤ v) && decide (v ≤ clkMax) && v % 50 == 0)

/-- A write of PWR_GOV (00 R10, 16 R441). -/
def State.writeGov (s : State) (v : BitVec 64) : State :=
  let q := fld v.toNat 42 32
  if clkReqOk q then s.modPwr fun p => { p with clkReq := q } else s

/-- A write of PWR_SUPPLY (16 R440). -/
def State.writeSupply (s : State) (v : BitVec 64) : State := if v.getLsbD 63 then s.modPwr fun p => { p with vmin := 0xFFFF } else s

/-- A write of PWR_EVENTS (16 R443). -/
def State.writeEvents (s : State) (v : BitVec 64) : State :=
  if v.getLsbD 63 then s.modPwr fun p => { p with sags := 0, rides := 0, wakes := 0, throttles := 0 } else s

/-- CLK_REQ (16 R429, R441). -/
def execClkReq (o : Origin) (v : BitVec 64) (s : State) : Host.Outcome State Fault Refusal :=
  .next (if s.admin o then s.writeGov v else s)

/-- CLR_VMIN (16 R440). -/
def execClrVmin (o : Origin) (v : BitVec 64) (s : State) : Host.Outcome State Fault Refusal :=
  .next (if s.admin o then s.writeSupply v else s)

/-- PWR_EVENTS_CLR (16 R443). -/
def execPwrEventsClr (o : Origin) (v : BitVec 64) (s : State) : Host.Outcome State Fault Refusal :=
  .next (if s.admin o then s.writeEvents v else s)

/-! ## Rest states (16 R434 to R439) -/

/-- Nothing is running (16 R435). -/
def State.idle (s : State) : Bool :=
  ((List.range 17).all fun n =>
    let k := s.ctx n
    k.runs.isEmpty && k.host.inProgress == 0 && k.host.taken.isEmpty && k.step.wave.isNone && k.snap.op.isNone && k.snap.drain.isNone) &&
  s.colls.isEmpty && s.loads.isEmpty && !s.flt.active && !s.flt.dumping && s.flt.dumpRead.isNone && s.fills.isEmpty && s.shk.staging.isNone

/-- 2 MiB units of the lasts that are not EMPTY (16 R438). -/
def State.lastUnits (s : State) : Nat := (([s.lastA, s.lastB].filter fun l => l.st != 0).map (·.units)).sum

/-- Wake latency of a rest state within a budget in microseconds; A4 adds the restaging at 1.4 TB/s (16 R434, R436, R438). -/
def State.latencyOk (s : State) (k budget : Nat) : Bool :=
  match k with
  | 1 => decide (5 ≤ budget)
  | 2 => decide (1500 ≤ budget)
  | 3 => decide (120000 ≤ budget)
  | _ => decide (1800000 ≤ budget) &&
      (!s.pwr.keepLasts || decide (10 * (s.lastUnits * unit2M) ≤ (budget - 1800000) * 14000000))

/-- What R435 asks of a rest state. -/
def State.restAllowed (s : State) (k : Nat) : Bool :=
  (decide (k < 3) || !s.link.member) &&
  (decide (k < 4) ||
    (((List.range 16).all fun n => (s.ctx n).sched.st == 0) && !(s.allocs.any fun x => x.ctx == 16 && x.tier == 1) &&
      (!s.pwr.keepLasts || (s.takeT2 s.lastUnits []).isSome)))

/-- The rest state that the module would choose (16 R436); PWR_REST.TARGET. -/
def State.restTarget (s : State) : Nat :=
  ([4, 3, 2, 1].find? fun k => s.latencyOk k s.pwr.budget && s.restAllowed k).getD 0

/-- An entry under way goes no deeper than `t`, and ends where that is A0 (16 R436, log 72). -/
def Pwr.limited (t : Nat) (p : Pwr) : Pwr := { p with entering := p.entering.bind fun k => if t == 0 then none else some (min k t) }

/-- WAKE_BUDGET: the budget, and the state it chooses; a deeper rest, or an entry into one, is left for that state (16 R436, log 72). -/
def execWakeBudget (tag : Tag) (s : State) : Host.Outcome State Fault Refusal :=
  .next (s.command 16 0x50 tag fun c s =>
    let s := s.modPwr fun p => { p with budget := c.p 8 4 }
    let t := s.restTarget
    let s := s.modPwr (Pwr.limited t)
    let s := if s.pwr.rest > t then s.modPwr fun p => { p with waking := some (min t (p.waking.getD t)) } else s
    s.finish 16 0x50 tag 0 t 0)

/-- IDLE_TIMER_EXPIRY: IDLE_MS of unbroken idleness start the entry (16 R435). -/
def execIdleTimerExpiry (s : State) : Host.Outcome State Fault Refusal :=
  .next (
    if s.live && s.pwr.rest == 0 && s.pwr.entering.isNone && s.idle && s.restTarget != 0 then
      s.modPwr fun p => { p with entering := some s.restTarget }
    else s)

/-- A trigger of R437 stands. -/
def State.wakeDue (s : State) : Bool :=
  ((List.range 16).any fun n => (s.ctx n).sched.st == 1 && ((s.ctx n).host.sqHead != (s.ctx n).host.sqTail || !(s.ctx n).host.taken.isEmpty)) ||
  ((s.ctx 16).host.taken.any fun t => !servedAtRest (field t.bytes 0 2)) || s.flt.active || s.pwr.thenReset != 0

/-- Bytes of T1 that a last holds. -/
def State.lastBytes (s : State) (l : Last) : Mem :=
  match l.base with
  | some b => s.mem.filter fun e => decide (b ≤ e.1) && decide (e.1 < b + l.units * unit2M)
  | none => []

/-- Uncorrectable words of the lasts, which their copy would read (09 R237). -/
def State.lastWords (s : State) : Option Nat × State :=
  s.meetWords 0 ([s.lastA, s.lastB].flatMap fun l => match l.base with | some b => s.badIn b (l.units * unit2M) | none => [])

/-- A last leaves T1 as EMPTY. -/
def State.emptyLast (s : State) (i : Nat) : State :=
  if (s.last i).st == 0 then s
  else
    let l := s.last i
    (s.setLast i { l with st := 0, size := 0, base := none, units := 0 }).subUsed 16 1 l.units

/-- Core stores, quarter stores and core registers are lost (16 R434). -/
def State.loseCores (s : State) : State :=
  let s := ({ s with cores := [], ecc := { s.ecc with bad := SMap.wipe s.ecc.bad 0 t1Base } } : State).scramble 0 0xA0000000
  s.scramble 0xC0000000 0x10000000

/-- Every link port is off (16 R434). -/
def State.portsOff (s : State) : State :=
  (List.range 36).foldl (fun (s : State) p => s.modPort p fun k =>
    { enable := k.enable, hold := k.hold, refused := k.refused, replays := k.replays, degrades := k.degrades, lost := k.lost,
      fecUncorr := k.fecUncorr }) s

/-- T1 loses its contents (16 R434, 09 R230). -/
def State.loseT1 (s : State) : State :=
  { s with mem := SMap.wipe s.mem t1Base t1Size, ecc := { s.ecc with bad := SMap.wipe s.ecc.bad t1Base t1Size } }

/-- The entry into A4: the lasts are staged or lost, T1 loses its contents, host ports and their queue pairs go (16 R434, R438). -/
def State.enterA4 (s : State) : State :=
  let s := if s.pwr.keepLasts then
      s.modPwr fun p => { p with staged := some { a := s.lastA, b := s.lastB, active := s.lastPtr.active, valid := s.lastPtr.valid,
                                                  bytes := s.lastBytes s.lastA ++ s.lastBytes s.lastB } }
    else { (s.emptyLast 1).emptyLast 2 with lastPtr := { s.lastPtr with valid := false } }
  s.loseT1.modHost fun h => { h with hostUp := [], qps := [] }

/-- The power is down at the ramp limit: the clock is the floor clock, and no ballast runs (16 R425, R435). -/
def Pwr.down (p : Pwr) : Bool := p.clk == clkFloor && !p.ballast

/-- REST_STATE_ENTER: the power is down, and the module enters the state it chose (16 R434, R435, R438). -/
def execRestStateEnter (s : State) : Host.Outcome State Fault Refusal :=
  .next (
    match s.pwr.entering with
    | none => s
    | some k =>
      if !s.live || !s.idle || s.wakeDue || !s.restAllowed k || !s.pwr.down then s
      else
        let r := if k == 4 && s.pwr.keepLasts then s.lastWords else (none, s)
        match r with
        | (some w, s) => (s.modPwr fun p => { p with entering := none }).uncorrFault w 5 16 none
        | (none, s) =>
          let s := if k ≥ 3 then s.loseCores.portsOff else s
          let s := if k == 4 then s.enterA4 else s
          s.modPwr fun p => { p with rest := k, entering := none, clk := clkFloor, ballast := false })

/-- WAKE: a trigger wakes the module to A0, or abandons an entry (16 R437). -/
def execWake (s : State) : Host.Outcome State Fault Refusal :=
  .next (
    if !s.ready || !s.wakeDue then s
    else if s.pwr.entering.isSome then s.abandonEntry
    else if s.pwr.rest == 0 || s.pwr.waking == some 0 then s
    else s.modPwr fun p => { p with waking := some 0, wakes := satAdd 16 p.wakes 1 })

/-- T1 is filled, its scrub starts anew, and the staged lasts come back, word by word (09 R227, R230, R232, R241, 16 R438). -/
def State.leaveA4 (s : State) : State :=
  let s := s.fill t1Base t1Size
  let s := { s with ecc := { s.ecc with pos1 := 0 }, host := { s.host with hostUp := [(0, true), (1, true), (2, true), (3, true)] } }
  match s.pwr.staged with
  | none => s
  | some g =>
    let s := { s with lastA := g.a, lastB := g.b, lastPtr := { s.lastPtr with active := g.active, valid := g.valid },
                      mem := g.bytes.foldl (fun m e => SMap.set 0#8 m e.1 e.2) s.mem, pwr := { s.pwr with staged := none } }
    [g.a, g.b].foldl (fun s l => match l.base with | some b => s.afterStore b (l.units * unit2M) | none => s) s

/-- Enabled link ports train again (10 R249, 16 R434). -/
def State.portsOn (s : State) : State :=
  (List.range 36).foldl (fun (s : State) p => s.modPort p fun k => if k.enable && k.st == 0 then { k with st := 1 } else k) s

/-- Back in A0: the submission slots that wait are taken, or the reset that asked for the wake begins. In STOPPING the supply states decide, and a
fatal fault comes before a warm request (13 R351, 16 R437, 17 R447). -/
def State.awake (s : State) : State :=
  let r := if s.pwr.sup == 2 || (s.flt.active && s.pwr.thenReset == 1) then 0 else s.pwr.thenReset
  let s := s.modPwr fun p => { p with thenReset := 0 }
  if r == 1 then s.warmReset 3
  else if r == 2 then s.coldReset 2
  else if r == 3 then s.coldReset 1
  else (List.range 16).foldl (fun (s : State) n => if (s.ctx n).sched.st == 1 then s.takeIfAwake n else s) s

/-- WAKE_COMPLETE: the module is in A0, or in the state that a new budget allows (16 R436 to R438). -/
def execWakeComplete (s : State) : Host.Outcome State Fault Refusal :=
  .next (
    match s.pwr.waking with
    | none => s
    | some t =>
      let s := if s.pwr.rest == 4 && decide (t < 4) then s.leaveA4 else s
      let s := if decide (s.pwr.rest ≥ 3) && decide (t < 3) then s.portsOn else s
      let s := s.modPwr fun p => { p with rest := min t p.rest, waking := none }
      if t == 0 then s.awake else s)

end Sys2Proof.Machine
end

