-- ==== Sys2Proof/Machine/Reset.lean ====
section
/-!
DEFINITION. The sources of reset, the timelines of bring-up, the start-up test and the numbering of cores, and the partial
reset (17, 19 R488).
-/

namespace Sys2Proof.Machine

open Sys2Proof

/-- Change the reset record. -/
def State.modRst (s : State) (f : Rst → Rst) : State := { s with rst := f s.rst }

/-- ALERT_N is held low (19 R488). -/
def State.alertLow (s : State) : Bool := s.pwr.sup != 3 && (s.modState == 0 || s.modState == 6)

/-! ## Cold and warm resets (17 R444 to R449, R459) -/

/-- COLD_BOOT: the Shank starts from its own ROM, counts, tests itself, and starts the firmware; training begins (17 R448, R451). -/
def execColdBoot (selfTestOk : Bool) (s : State) : Host.Outcome State Fault Refusal :=
  .next (
    if s.pwr.sup == 3 || s.rst.phase != 0 || s.rst.started then s
    else
      let s := (s.modRst fun r => { r with cold := satAdd 32 r.cold 1, started := true, kind := 0 }).commitCounters
      if selfTestOk then (let s := s.bootTo 2; if s.rst.phase == 2 then s.portsOn else s) else (s.halt 0x1FF).expel 5)

/-- A cold request that no rest state delays (17 R447). -/
def State.requestCold (s : State) (cause then_ : Nat) : State :=
  if s.ready && s.pwr.rest != 0 then s.modPwr fun p => { p with thenReset := max p.thenReset then_ } else s.coldReset cause

/-- MRST_N_RELEASE: the reset line is released after 10 ms or more, while the input is valid (17 R445, 19 R488). -/
def execMrstNRelease (s : State) : Host.Outcome State Fault Refusal :=
  .next (if decide (s.pwr.sup ≤ 1) || (s.pwr.sup == 2 && s.pwr.inRange) then s.requestCold 1 3 else s)

/-- A write of RST_CTL carries its key (17 R459). -/
def ctlKey (v : BitVec 64) : Bool := fld v.toNat 15 8 == 0xC3

/-- A warm request: discarded during any reset or bring-up; a rest state is left first (17 R447). -/
def State.requestWarm (s : State) : State :=
  if !s.live then s
  else if s.pwr.rest != 0 then s.modPwr fun p => { p with thenReset := max p.thenReset 1 }
  else s.abandonEntry.warmReset 3

/-- A write of RST_CTL by its two request bits; cold comes before warm, and in STOPPING the supply states apply (17 R447, R459, log 74). -/
def State.writeCtl (s : State) (v : BitVec 64) (cold warm : Bool) : State :=
  if !ctlKey v || decide (s.pwr.sup ≥ 2) then s
  else if cold && v.getLsbD 1 then s.requestCold 2 2
  else if warm && v.getLsbD 0 then s.requestWarm
  else s

/-- COLD (17 R445, R459). -/
def execCold (o : Origin) (v : BitVec 64) (s : State) : Host.Outcome State Fault Refusal :=
  .next (if s.admin o then s.writeCtl v true false else s)

/-- WARM; a write that sets COLD as well is a cold request (17 R447, R449, R459). -/
def execWarm (o : Origin) (v : BitVec 64) (s : State) : Host.Outcome State Fault Refusal :=
  .next (if s.admin o then s.writeCtl v true true else s)

/-! ## The fault reset (14 R371, 16 R431, R432) -/

/-- A cold reset is asked for that the wake from a rest state delays; it comes before a fault reset (17 R447, 19 R488). -/
def Pwr.coldFirst (p : Pwr) : Bool := p.rest != 0 && decide (p.thenReset ≥ 2) && decide (p.sup ≤ 1)

/-- FAULT_RESET: 2 ms after the fault and once the dump is over the fault reset begins; in STOPPING it waits for the input, and a cold reset that
follows a wake comes first (14 R371, 16 R432, 17 R447). -/
def execFaultReset (s : State) : Host.Outcome State Fault Refusal :=
  .next (
    if !(s.flt.active && s.flt.twoMs && (!s.dumpDue || s.flt.dumpNext == dumpRegions + 1)) then s
    else if s.pwr.sup == 3 || s.pwr.coldFirst then s
    else if s.pwr.sup == 2 && !s.pwr.inRange then { s with flt := { s.flt with waitInput := true } }
    else s.faultReset)

/-! ## Training, fill and test (17 R448 to R453) -/

/-- TRAINING_COMPLETE: memory and ports are trained, the remap tables are loaded and the fill begins; a failed unit halts (17 R448, R451). -/
def execTrainingComplete (failedUnit : Option (BitVec 9)) (s : State) : Host.Outcome State Fault Refusal :=
  .next (
    if s.rst.phase != 2 then s
    else match failedUnit with
      | some u => s.halt u.toNat
      | none => s.modRst fun r => { r with phase := 3 })

/-- BRINGUP_FILL_COMPLETE: T1 and T2 read zeros, both scrubs start anew, and the test begins (09 R229, R232, 17 R448). -/
def execBringupFillComplete (s : State) : Host.Outcome State Fault Refusal :=
  .next (
    if s.rst.phase != 3 then s
    else (((s.fill t1Base t1Size).fill t2Base t2Size).modEcc fun e => { e with pos1 := 0, pos2 := 0 }).modRst fun r => { r with phase := 4 })

/-- A physical core is bad by fuse or by ledger (17 R452). -/
def State.markedBad (s : State) (i : Nat) : Bool := Config.fuseBad i || SMap.get false s.rst.ledgerBad i

/-- A core that fails the test and is not marked yet is newly failed: the ledger marks it, and it is charged (14 R382, 17 R452). -/
def State.failCore (s : State) (q p : Nat) : State :=
  if s.markedBad (84 * q + p) then s
  else
    (s.modRst fun r => { r with ledgerBad := SMap.set false r.ledgerBad (84 * q + p) true,
                                newBad := SMap.upd 0 r.newBad q fun n => n + 1 }).penalise 12 100 none

/-- Good physical cores of a quarter, ascending (17 R453). -/
def State.goodCores (s : State) (q : Nat) : List Nat := (List.range 84).filter fun p => !s.markedBad (84 * q + p)

/-- The numbering of a quarter: the first 80 good cores in ascending physical number (17 R453). -/
def State.numberQuarter (s : State) (q : Nat) : State :=
  let good := s.goodCores q
  let used := good.take 80
  let s := s.modRst fun r =>
    { r with good := SMap.set 84 r.good q good.length, enabled := SMap.set 80 r.enabled q used.length, short := r.short || decide (used.length < 80),
             serves := (used.zip (List.range 80)).foldl (fun m e => SMap.put m (80 * q + e.2) e.1) r.serves }
  if good.length < 72 then s.expel 1 else s

/-- STARTUP_TEST_COMPLETE: failed cores are marked, every quarter is numbered, and a failed unit halts bring-up (17 R451 to R453). -/
def execStartupTestComplete (failed : List (Fin 4 × Fin 84)) (failedUnit : Option (BitVec 9)) (s : State) : Host.Outcome State Fault Refusal :=
  .next (
    if s.rst.phase != 4 then s
    else
      let s := s.modRst fun r => { r with newBad := [], serves := [], short := false, fullTest := r.kind == 0 }
      let s := failed.foldl (fun (s : State) f => s.failCore f.1.val f.2.val) s
      let s := (List.range 4).foldl State.numberQuarter s
      match failedUnit with
      | some u => (s.halt u.toNat).penalise 12 100 none
      | none => s.modRst fun r => { r with phase := 5 })

/-- The rollback counter rises to the level of an image that has become ready, and FALLBACK below it is emptied (18 R473). -/
def Shk.rollForward (k : Shk) : Shk :=
  if k.level > k.rollback then
    { k with rollback := k.level, slotF := k.slotF.filter fun im => decide (k.level ≤ im.level) }
  else k

/-- MODULE_READY: host ports are up, and the module accepts commands (01 R21, 17 R448 to R451, 18 R473). -/
def execModuleReady (s : State) : Host.Outcome State Fault Refusal :=
  .next (
    if s.flt.active || s.pwr.sup == 3 || !(s.rst.phase == 5 || (s.rst.phase == 1 && s.rst.kind == 1)) then s
    else
      let s := if s.rst.kind == 1 then s else s.modHost fun h => { h with hostUp := [(0, true), (1, true), (2, true), (3, true)] }
      ({ s with shk := s.shk.rollForward, pwr := { s.pwr with onCell := false } } : State).modRst fun r => { r with phase := 6, retries := 0 })

/-! ## Partial reset (17 R455, R456, R460) -/

/-- Cores of the block. -/
def Rst.blockCores (r : Rst) : List Nat := (List.range 320).filter r.hasCore

/-- Items of a core that exist when its partial reset starts (17 R456 step 1). -/
def State.coreStragglers (s : State) (c : Nat) : Nat :=
  let k := s.core c
  k.dma.length + k.remote.length + b2n k.task.isSome + (k.slots.filter fun e => e.2.isSome).length +
    ((List.range 16).filter fun n => match SMap.get none (s.ctx n).saved c with | some x => x.task.isSome | none => false).length

/-- Tasks in the pools of a quarter. -/
def State.pooledOn (s : State) (q : Nat) : Nat := ((List.range 16).map fun n => (s.ctx n).poolLen q).sum

/-- A write of RST_PARTIAL's scope and index names a block (17 R460). -/
def blockOk (scope index : Nat) : Bool :=
  (scope == 1 && decide (index ≤ 319)) || (scope == 2 && decide (index ≤ 39)) || (scope == 3 && decide (index ≤ 3))

/-- A write of RST_PARTIAL; the counters are committed as at every reset (00 R10, 17 R447, R456, R457, R460). -/
def State.writePartial (s : State) (v : BitVec 64) : State :=
  let scope := fld v.toNat 1 0
  let index := fld v.toNat 10 2
  if s.rst.busy then s
  else if v.getLsbD 11 then
    if !s.live || !blockOk scope index then s
    else
      let s := s.commitCounters.modRst fun r => { r with scope := scope, index := index, busy := true, drained := false, result := 0, stragglers := 0 }
      s.straggle ((s.rst.blockCores.map s.coreStragglers).sum + (if scope == 3 then s.pooledOn index else 0))
  else s.modRst fun r => { r with scope := if scope == 0 then r.scope else scope, index := if decide (index ≤ 319) then index else r.index }

/-- GO: a write of RST_PARTIAL with GO (17 R456, R457, R460). -/
def execGo (o : Origin) (v : BitVec 64) (s : State) : Host.Outcome State Fault Refusal :=
  .next (if s.admin o && v.getLsbD 11 then s.writePartial v else s)

/-- The block's cores and stores, and a partition's pools and scheduling, are reset (17 R455, R456 step 3). -/
def State.resetBlock (s : State) : State :=
  let s := s.rst.blockCores.foldl (fun s c => s.setCore c {}) s
  let s := s.rst.block.foldl (fun s r => s.fill r.1 r.2) s
  if s.rst.scope == 3 then
    let q := s.rst.index
    (List.range 16).foldl (fun s n => s.modCtx n fun k => { k with pool := k.pool.filter fun t => !(t.pooled && t.quarter == q) }) (s.setQuarter q {})
  else s

/-- PARTIAL_DRAIN_EXPIRY: the 50 us of outbound work end, and the block is reset (17 R456). -/
def execPartialDrainExpiry (s : State) : Host.Outcome State Fault Refusal :=
  .next (
    if !s.live || !s.rst.busy || s.rst.drained then s
    else s.resetBlock.modRst fun r => { r with drained := true })

/-- Count a clean partial reset (17 R456, R462). -/
def Rst.countClean (r : Rst) : Rst :=
  if r.scope == 1 then { r with core := satAdd 32 r.core 1 }
  else if r.scope == 2 then { r with cluster := satAdd 16 r.cluster 1 }
  else { r with partition := satAdd 16 r.partition 1 }

/-- PARTIAL_RESET_END: clean, or unclean with FC_ILLEGAL (17 R456). -/
def execPartialResetEnd (s : State) : Host.Outcome State Fault Refusal :=
  .next (
    if !s.live || !s.rst.busy || !s.rst.drained then s
    else if s.rst.stragglers == 0 then (s.modRst fun r => { r.countClean with busy := false, result := 1 }).rescheduleAll
    else (s.modRst fun r => { r with busy := false, result := 2, escalated := satAdd 32 r.escalated 1 }).illegal 16)

end Sys2Proof.Machine
end

