-- ==== Sys2Proof/Machine/Shank.lean ====
section
/-!
DEFINITION. Firmware staging and activation, attestation, enrolment, and the lacing broadcast (18).
-/

namespace Sys2Proof.Machine

open Sys2Proof

/-- Change the Shank record. -/
def State.modShk (s : State) (f : Shk → Shk) : State := { s with shk := f s.shk }

/-! ## Firmware images (18 R471) -/

/-- Chunk count of an image. -/
def fwChunks (b : List Byte) : Nat := field b 20 4
/-- Pieces of the head region: header, manifest and signature block, up to the next 4 KiB (18 R471, R475). -/
def headPieces (c : Nat) : Nat := (160 + 32 * c + 4095) / 4096

/-- A list of zeros. -/
def allZero (b : List Byte) : Bool := b.all fun x => x == 0#8

/-- The header meets its table (18 R471). -/
def fwHeaderOk (b : List Byte) : Bool :=
  let c := fwChunks b
  let len := field b 24 8
  decide (64 ≤ b.length) && b.take 4 == [0x5A#8, 0x46#8, 0x57#8, 0x31#8] && field b 4 2 == 1 && field b 6 2 == 0 && field b 12 4 != 0 &&
  decide (field b 16 1 ≤ 64) && decide (field b 17 1 < 8) && field b 18 2 == 0 && decide (1 ≤ c) && decide (c ≤ 16384) &&
  decide (4096 * (c - 1) < len) && decide (len ≤ 4096 * c) && field b 32 4 == 32 * c && allZero ((b.drop 36).take 24) &&
  field b 60 4 == (crc32c (b.take 60)).toNat

/-- The length and the zero padding of a whole image (18 R471). -/
def fwLayoutOk (b : List Byte) : Bool :=
  let c := fwChunks b
  let h := headPieces c
  b.length == 4096 * (h + c) && allZero ((b.drop (160 + 32 * c)).take (4096 * h - (160 + 32 * c))) && allZero (b.drop (4096 * h + field b 24 8))

/-- A signature block names one of the two fused firmware keys (08 R196, 18 R466). -/
def fwSignerOk (block : List Byte) : Bool := block.take 32 == digestBytes Config.fwKey0 || block.take 32 == digestBytes Config.fwKey1

/-- The signature block is made with a firmware key and verifies over the header and the manifest (18 R466, R471). -/
def fwSignatureOk (b : List Byte) : Bool :=
  let n := 64 + 32 * fwChunks b
  let block := (b.drop n).take 96
  fwSignerOk block && Config.fwSigOk (sm3 (b.take n)) block

/-- A chunk matches its digest in the manifest. -/
def chunkOk (head chunk : List Byte) (i : Nat) : Bool := digestBytes (sm3 chunk) == (head.drop (64 + 32 * i)).take 32

/-- Every chunk of an image matches its digest. -/
def fwChunksOk (b : List Byte) : Bool :=
  let c := fwChunks b
  (List.range c).all fun i => chunkOk b ((b.drop (4096 * (headPieces c + i))).take 4096) i

/-- The status that the checks of an image end in, in the order of the table; 0 when it is verified (18 R474). -/
def Shk.fwStatus (k : Shk) (b : List Byte) : Nat :=
  if !fwHeaderOk b || !fwLayoutOk b then 0x244
  else if !fwSignatureOk b then 0x235
  else if field b 16 1 < k.rollback then 0x245
  else if !fwChunksOk b || !bit (field b 17 1) codeBit then 0x244
  else 0

/-- The image that a slot holds after verification. -/
def fwImageOf (b : List Byte) : FwImage :=
  { release := BitVec.ofNat 32 (field b 8 4), version := BitVec.ofNat 32 (field b 12 4), level := field b 16 1, codes := BitVec.ofNat 8 (field b 17 1),
    chunks := fwChunks b, verified := true, digest := sm3 (b.take (160 + 32 * fwChunks b)), bytes := Mem.write [] 0 b, length := b.length }

/-! ## FW_STAGE and FW_ACTIVATE (18 R474, R477, R479) -/

/-- End the staging in progress with a status. -/
def State.endStaging (s : State) (status : Nat) (r0 : Nat) : State :=
  match s.shk.staging with
  | none => s
  | some g => (s.modShk fun k => { k with staging := none }).finish 16 0x60 g.tag status r0 0

/-- A whole image stands in staging: it goes to flash, or the command fails and STAGED stays empty (18 R474, R476). -/
def State.stageImage (s : State) (b : List Byte) : State :=
  let st := s.shk.fwStatus b
  if st != 0 then s.endStaging st 0
  else s.modShk fun k => { k with staging := k.staging.map fun g => { g with img := some (fwImageOf b) } }

/-- The pages of an image: HOST or DEVICE pages of the bulk window; an image of no bytes has none, and fails its checks (18 R474). -/
def State.fwPages (s : State) (a n : Nat) : Bool :=
  within a n t2Base windowSize && (pagesOf a n).all fun p => (s.page p).owner == 1 || (s.page p).owner == 2

/-- FW_STAGE: the image is read from its pages and checked, or the lacing broadcast is awaited (18 R474, R476). -/
def execFwStage (tag : Tag) (s : State) (replays : Nat := 0) : Host.Outcome State Fault Refusal :=
  .next (s.command 16 0x60 tag fun c s =>
    if s.shk.staging.isSome then s.finish 16 0x60 tag 0x23E 0 0
    else
      let g : Staging := { tag := tag, source := c.p 8 1, img := none, lace := if c.p 8 1 == 1 then some {} else none }
      let s := s.modShk fun k => { k with slotS := none, staging := some g }
      if c.p 8 1 == 1 then s.modShk fun k => { k with held := 0 }
      else if !s.fwPages (c.p 16 8) (c.p 24 8) then s.endStaging 0x204 0
      else s.cross replays (c.p 16 8) 5 16 none fun s =>
        match s.load (c.p 16 8) (c.p 24 8) with
        | (.inr w, s) => s.uncorrFault w 5 16 none
        | (.inl b, s) => s.stageImage b)

/-! ## Routes of the broadcast (10 R262, 18 R475) -/

/-- The module before `c` on the route from the seed: one step back in the last dimension that the route takes. -/
def State.parentOf (s : State) (seed c : BitVec 16) : Option (BitVec 16) :=
  findSome? (fun j =>
    let n := s.dimSize j
    let f := (coordAt c j + n - coordAt seed j % n) % n
    if f == 0 then none
    else some (coordSet c j (if 2 * f ≤ n then (coordAt c j + n - 1) % n else (coordAt c j + 1) % n))) [3, 2, 1, 0]

/-- The directions of the neighbours whose route from the seed passes through this module, one for each neighbour (18 R475). -/
def State.childDirs (s : State) (seed : BitVec 16) : List Nat :=
  if !s.link.member then []
  else (List.range 8).filter fun d => let nb := s.neighbour d; s.route nb == some d && s.parentOf seed nb == some s.link.coord

/-- Word 1 of a lacing message. -/
def laceW1 (release version : BitVec 32) : BitVec 64 := BitVec.ofNat 64 (release.toNat + version.toNat * 2 ^ 32)
/-- Word 2 of a lacing message. -/
def laceW2 (index : Nat) (seed : BitVec 16) : BitVec 64 := BitVec.ofNat 64 (index % 2 ^ 16 + seed.toNat * 2 ^ 16)

/-- Send a lacing message to the children of this module (18 R475). -/
def State.laceDown (s : State) (kind index : Nat) (release version : BitVec 32) (seed : BitVec 16) (data : List (BitVec 64)) : State :=
  (s.childDirs seed).foldl (fun s d =>
    s.sendMsgIn d none 5 16 release (BitVec.ofNat 64 kind) (laceW1 release version) (laceW2 index seed) 0#64 data) s

/-- Pieces of an image. -/
def FwImage.pieces (im : FwImage) : Nat := headPieces im.chunks + im.chunks
/-- The words of a piece of an image. -/
def FwImage.piece (im : FwImage) (i : Nat) : List (BitVec 64) := bytesWords (Mem.read im.bytes (4096 * i) 4096)

/-- The seed sends every piece in order, and an end message, to each of its neighbours (18 R475). -/
def State.seedLace (s : State) (im : FwImage) : State :=
  let seed := s.link.coord
  let s := (List.range im.pieces).foldl (fun s i => s.laceDown 0x30 i im.release im.version seed (im.piece i)) s
  s.laceDown 0x31 im.pieces im.release im.version seed []

/-- FW_STAGE_WRITE_COMPLETE: STAGED holds the image, FW_STAGE completes with its release, and a seed sends the broadcast (18 R474 to R476). -/
def execFwStageWriteComplete (s : State) (replays : Nat := 0) : Host.Outcome State Fault Refusal :=
  .next (
    match s.shk.staging with
    | none => s
    | some g =>
      match g.img with
      | none => s
      | some im =>
        if s.flt.active then s
        else s.cross replays 0 5 16 none fun s =>
          let s := (s.modShk fun k => { k with slotS := some im }).endStaging 0 im.release.toNat
          if g.source == 0 && s.shk.seed && !s.shk.path && s.link.member then s.seedLace im else s)

/-- FW_ACTIVATE: REQUIRED rises, and a verified image of the epoch becomes ACTIVE, with a warm reset (18 R477, R479). -/
def execFwActivate (tag : Tag) (s : State) : Host.Outcome State Fault Refusal :=
  .next (s.command 16 0x61 tag fun c s =>
    let e := BitVec.ofNat 32 (c.p 16 8)
    let s := s.modShk fun k => { k with required := if k.required.toNat < e.toNat then e else k.required }
    match s.shk.slotS with
    | some im =>
      if s.shk.staging.isNone && im.version == e && im.verified then
        ((s.modShk fun k => { k with slotA := some im, slotF := k.slotA, slotS := none }).finish 16 0x61 tag 0 0 0).warmReset 4
      else s.finish 16 0x61 tag 0x246 0 0
    | none => s.finish 16 0x61 tag 0x246 0 0)

/-! ## ATTEST (18 R470) -/

/-- The bytes of a signature or a public key, most significant first. -/
def sigBytes (v : BitVec 512) : List Byte := keyBytes v

/-- A quote (18 R470). -/
def State.quote (s : State) (nonce : List Byte) (mask : Nat) : List Byte :=
  let b := [0x5A#8, 0x41#8, 0x51#8, 0x31#8] ++ natLe 2 1 ++ natLe 2 mask ++ natLe 8 Config.serial.toNat ++ nonce ++ natLe 4 s.shk.release.toNat ++
    natLe 4 s.shk.version.toNat ++ [BitVec.ofNat 8 s.shk.rollback, orderByte, BitVec.ofNat 8 s.modState] ++ List.replicate 5 0#8 ++
    natLe 8 s.ticks ++ ((List.range 16).filter (bit mask)).flatMap fun i => digestBytes (s.shk.measOf i)
  let pub := keyBytes Config.attestPub
  b ++ pub ++ sigBytes (Config.identitySign (sm3 pub)) ++ sigBytes (Config.attestSign (sm3 b))

/-- ATTEST: the quote goes to its destination, or back as result data (18 R470). -/
def execAttest (n : CtxId) (tag : Tag) (s : State) : Host.Outcome State Fault Refusal :=
  .next (s.command n.val 0x70 tag fun c s =>
    let q := s.quote (c.params.take 32) (c.p 40 2)
    let a := c.p 48 8
    if n.val == 16 && a == 0 then s.finishWith 16 0x70 tag 0 (BitVec.ofNat 64 q.length) 0#64 false q
    else if !s.inAllocs n.val a q.length then s.finish n.val 0x70 tag 0x204 0 0
    else
      match s.write a q with
      | (some w, s) => s.uncorrFault w 1 n.val none
      | (none, s) => s.finish n.val 0x70 tag 0 q.length 0)

/-! ## Enrolment (18 R467, R468) -/

/-- An enrolment body meets its table (18 R467). -/
def enrolOk (b : List Byte) : Bool :=
  let op := field b 0 1
  decide (1 ≤ op) && decide (op ≤ 3) && decide (field b 1 1 ≤ (if op == 1 then 0 else 7)) && field b 2 6 == 0 && field b 120 4 == 0 &&
  (op != 2 || allZero ((b.drop 72).take 48)) && (op != 3 || allZero ((b.drop 8).take 112)) &&
  field b 124 4 == (crc32c (b.take 124)).toNat

/-- Put a package key into a slot, or empty the slot: its PKG bit and its identifier follow (18 R466, R482). -/
def Shk.setPkgKey (k : Shk) (i : Nat) (key : Option (BitVec 512)) : Shk :=
  { k with pkgKeys := SMap.set none k.pkgKeys i key,
           pkgBits := if key.isSome then k.pkgBits ||| (1#8 <<< i) else k.pkgBits &&& ~~~(1#8 <<< i),
           pkgIds := SMap.set 0#256 k.pkgIds i (match key with | some x => sm3 (keyBytes x) | none => 0#256) }

/-- What an enrolment does to the key store; `none` where its body breaks the table or does not decrypt (18 R467, R468). The package keys are measured anew (18 R469). -/
def Shk.enrol (k : Shk) (b : List Byte) : Option Shk :=
  if !enrolOk b then none
  else if field b 0 1 == 1 then
    (Config.sm2Decrypt (0x04#8 :: (b.drop 8).take 112)).map fun key => { k with mgmtKey := key, mgmtGen := (k.mgmtGen + 1) % 2 ^ 32 }
  else
    let key := if field b 0 1 == 2 then some (BitVec.ofNat 512 (leNat ((b.drop 8).take 64).reverse)) else none
    let k := k.setPkgKey (field b 1 1) key
    some (k.extend 3 k.keysDigest)

/-- Take an enrolment and answer it; the answer carries the MAC of the key that stood when it arrived (18 R467, R468). -/
def State.enrol (s : State) (port : Nat) (seq : BitVec 64) (b : List Byte) : State :=
  let (status, shk) := match s.shk.enrol b with | some k => (0, k) | none => (0x204, s.shk)
  let s := s.post 16 { opcode := 0, tag := 0#16, status := status, res0 := 0#64, res1 := 0#64, cacheFail := false, extra := [], seq := seq,
                       ports := portBit port }
  { s with shk := shk }

/-- An enrolment datagram: checked and deduplicated as a command is, with opcode 0 and tag 0 in its answers (13 R359, R500, 18 R467). `ops` are the operations of the row. -/
def State.enrolDatagram (s : State) (port : Nat) (bytes : List Byte) (ops : Nat → Bool) : State :=
  let slot := List.replicate 8 0#8
  if s.pwr.sup == 3 then s
  else if !s.mgmtOk 5 bytes || bytes.length != 160 then s.mgmtReject port
  else if !ops (field bytes 32 1) then s
  else if !s.ready then s.mgmtAnswer port 0x23E (field bytes 8 8) slot
  else s.mgmtCommand port bytes slot fun s seq => s.enrol port seq (bytes.drop 32)

/-- ENROL_MANAGEMENT_KEY, and an enrolment whose operation the table does not name (18 R467). -/
def execEnrolManagementKey (port : Fin 2) (_ip : BitVec 128) (_udp : BitVec 16) (bytes : List Byte) (s : State) : Host.Outcome State Fault Refusal :=
  .next (s.enrolDatagram port.val bytes fun op => op != 2 && op != 3)

/-- ENROL_PACKAGE_KEY (18 R467). -/
def execEnrolPackageKey (port : Fin 2) (_ip : BitVec 128) (_udp : BitVec 16) (bytes : List Byte) (s : State) : Host.Outcome State Fault Refusal :=
  .next (s.enrolDatagram port.val bytes fun op => op == 2)

/-- REVOKE_PACKAGE_KEY (18 R467). -/
def execRevokePackageKey (port : Fin 2) (_ip : BitVec 128) (_udp : BitVec 16) (bytes : List Byte) (s : State) : Host.Outcome State Fault Refusal :=
  .next (s.enrolDatagram port.val bytes fun op => op == 3)

/-! ## Receiving the broadcast (18 R475, R476) -/

/-- The broadcast being received by a source-1 FW_STAGE whose image is not yet whole. -/
def State.lacing (s : State) : Option Lace :=
  match s.shk.staging with
  | some g => if g.img.isNone then g.lace else none
  | none => none

/-- Replace it; HELD counts the pieces held (18 R484). -/
def State.setLace (s : State) (l : Lace) : State :=
  s.modShk fun k => { k with held := l.held.length, staging := k.staging.map fun g => { g with lace := some l } }

/-- A piece held. -/
def Lace.piece (l : Lace) (i : Nat) : Option (List Byte) := SMap.get none l.held i
/-- Chunk count, once piece 0 is held. -/
def Lace.chunks (l : Lace) : Option Nat := (l.piece 0).map fwChunks
/-- Pieces of the image: by the header, else by the end message, else the most an image has (18 R475, log 62). -/
def Lace.total (l : Lace) : Nat :=
  match l.chunks with
  | some c => headPieces c + c
  | none => match l.count with | some n => n | none => 16513
/-- Pieces that are missing. -/
def Lace.missing (l : Lace) : List Nat := (List.range l.total).filter fun i => (l.piece i).isNone
/-- The bytes of the first `n` pieces. -/
def Lace.join (l : Lace) (n : Nat) : List Byte := (List.range n).flatMap fun i => (l.piece i).getD []

/-- Send a repair piece to a requester (18 R476). -/
def State.repairTo (s : State) (l : Lace) (dst : BitVec 16) (i : Nat) (data : List Byte) : State :=
  let s := s.sendMsg 5 16 dst (l.release.getD 0#32) 0x33#64 (laceW1 (l.release.getD 0#32) l.version) (laceW2 i (l.seed.getD 0#16)) 0#64 (bytesWords data)
  s.modShk fun k => { k with repaired := satAdd 16 k.repaired 1 }

/-- A piece is good: it is passed on to the children, unless that is done or is not to be, and to those who asked for it (18 R475, R476). -/
def State.passPiece (s : State) (l : Lace) (i : Nat) (data : List Byte) : State × Lace :=
  let s := match l.seed with
    | some seed => if l.done.contains i then s else s.laceDown 0x30 i (l.release.getD 0#32) l.version seed (bytesWords data)
    | none => s
  let s := (l.wants.filter fun w => w.2 == i).foldl (fun s w => s.repairTo l w.1 i data) s
  (s, { l with done := if l.done.contains i then l.done else i :: l.done, wants := l.wants.filter fun w => w.2 != i })

/-- A piece is discarded and counted (18 R475). -/
def State.badPiece (s : State) (l : Lace) (i : Nat) : State × Lace :=
  (s.modShk fun k => { k with bad := satAdd 16 k.bad 1 }, { l with held := SMap.set none l.held i none, done := i :: l.done })

/-- Pass on the head pieces that are held, once their number is known; a head piece goes on unchecked (18 R475). -/
def State.passHead (s : State) (l : Lace) : State × Lace :=
  match l.chunks with
  | none => (s, l)
  | some c => (List.range (headPieces c)).foldl (fun (r : State × Lace) i =>
      match r.2.piece i with
      | some d => if r.2.done.contains i && !(r.2.wants.any fun w => w.2 == i) then r else r.1.passPiece r.2 i d
      | none => r) (s, l)

/-- Judge the head region once it is whole; one that fails is discarded (18 R475, R476, log 62). -/
def State.judgeHead (s : State) (l : Lace) : State × Lace :=
  match l.chunks with
  | none => (s, l)
  | some c =>
    let h := headPieces c
    if l.headOk || !((List.range h).all fun i => (l.piece i).isSome) then (s, l)
    else
      let b := l.join h
      if fwHeaderOk b && fwSignatureOk b then (s, { l with headOk := true })
      else (List.range h).foldl (fun (r : State × Lace) i => r.1.badPiece r.2 i) (s, l)

/-- Check the body pieces that are held and not yet judged (18 R475, R476). -/
def State.judgeBody (s : State) (l : Lace) (fresh : List Nat) : State × Lace :=
  match l.chunks with
  | none => (s, l)
  | some c =>
    let h := headPieces c
    let head := l.join h
    if !l.headOk then (s, l)
    else fresh.foldl (fun (r : State × Lace) i =>
      match r.2.piece i with
      | some d =>
        if i < h then r
        else if decide (i < h + c) && chunkOk head d (i - h) then r.1.passPiece r.2 i d
        else r.1.badPiece r.2 i
      | none => r) (s, l)

/-- The image is staged once every piece is held and checked (18 R476). -/
def State.laceWhole (s : State) : State :=
  match s.lacing with
  | some l => if l.headOk && l.missing.isEmpty then s.stageImage (l.join l.total) else s
  | none => s

/-- Enter a piece; `pass` false for a repair piece, which goes only to those who asked for it (18 R475, R476). -/
def State.enterPiece (s : State) (l : Lace) (i : Nat) (data : List Byte) (pass : Bool) : State :=
  if (l.piece i).isSome then s
  else
    let was := l.headOk
    let l := { l with held := SMap.set none l.held i (some data), done := if pass then l.done.filter (· != i) else i :: l.done }
    let r := s.passHead l
    let r := r.1.judgeHead r.2
    let r := r.1.judgeBody r.2 (if was then [i] else r.2.held.map (·.1))
    (r.1.setLace r.2).laceWhole

/-- The release that source 1 accepts (18 R476). -/
def State.accepts (s : State) (l : Lace) (release : BitVec 32) : Bool :=
  match l.release with
  | some r => r == release
  | none => s.shk.laceRelease == 0#32 || s.shk.laceRelease == release

/-- Release, version epoch, index and seed of a lacing message. -/
def Msg.laceRelease (m : Msg) : BitVec 32 := m.w1.extractLsb' 0 32
def Msg.laceVersion (m : Msg) : BitVec 32 := m.w1.extractLsb' 32 32
def Msg.laceIndex (m : Msg) : Nat := fld m.w2.toNat 15 0
def Msg.laceSeed (m : Msg) : BitVec 16 := m.w2.extractLsb' 16 16

/-- Take up a lacing message of the release being received (18 R476). -/
def State.withLace (s : State) (m : Msg) (body : Lace → State → State) : State :=
  match s.lacing with
  | some l =>
    if !s.accepts l m.laceRelease || s.shk.path || s.flt.active then s
    else body { l with release := some m.laceRelease, version := m.laceVersion, seed := some m.laceSeed } s
  | none => s

/-- LACE_PIECE (18 R475, R476). -/
def execLacePiece (k : Nat) (s : State) : Host.Outcome State Fault Refusal :=
  .next (s.withMsg k 0x30 fun m s => s.withLace m fun l s => s.enterPiece l m.laceIndex (wordsBytes m.data) true)

/-- A bitmap of missing pieces, piece 0 in bit 0 of word 0 (18 R475). -/
def bitmapWords (total : Nat) (missing : List Nat) : List (BitVec 64) :=
  (List.range ((total + 63) / 64)).map fun w =>
    BitVec.ofNat 64 ((missing.filter fun i => i / 64 == w).foldl (fun m i => m + 2 ^ (i % 64)) 0)

/-- Send the bitmap of missing pieces to the parent; a module that has met no message of the broadcast does not know the seed that its parent
follows from, and lacks every piece (18 R475, R476, log 62). -/
def State.askParent (s : State) (l : Lace) : State :=
  let (n, s) := s.draw
  let seed := l.seed.getD (Config.laceSeed n)
  let release := l.release.getD s.shk.laceRelease
  match s.parentOf seed s.link.coord with
  | none => s
  | some p =>
    let s := s.sendMsg 5 16 p release 0x32#64 (laceW1 release l.version) (laceW2 0 seed) 0#64 (bitmapWords l.total l.missing)
    s.modShk fun k => { k with bitmaps := satAdd 16 k.bitmaps 1 }

/-- The whole image of a release that this module holds in staging or in STAGED (18 R479). -/
def State.heldImage (s : State) (release : BitVec 32) : Option FwImage :=
  match s.shk.staging.bind fun g => g.img with
  | some im => if im.release == release then some im else none
  | none => s.shk.slotS.filter fun im => im.release == release

/-- Pass an end message on to the children (18 R475). -/
def State.passEnd (s : State) (m : Msg) : State := s.laceDown 0x31 m.laceIndex m.laceRelease m.laceVersion m.laceSeed []

/-- LACE_END: passed on, also when the image is whole already; a bitmap goes to the parent where pieces are missing (18 R475, R476). -/
def execLaceEnd (k : Nat) (s : State) : Host.Outcome State Fault Refusal :=
  .next (s.withMsg k 0x31 fun m s =>
    if s.lacing.isNone then (if (s.heldImage m.laceRelease).isSome && !s.shk.path && !s.flt.active then s.passEnd m else s)
    else s.withLace m fun l s =>
      let l := { l with count := some m.laceIndex }
      let s := (s.setLace l).passEnd m
      if l.missing.isEmpty then s else s.askParent l)

/-- The pieces that a bitmap asks for. -/
def Msg.wanted (m : Msg) : List Nat := (List.range (64 * m.data.length)).filter fun i => (m.data.getD (i / 64) 0#64).getLsbD (i % 64)

/-- A module that is receiving the release answers with the pieces it has checked, notes the others, and asks its own parent (18 R476). -/
def State.answerLacing (s : State) (l : Lace) (m : Msg) : State :=
  let good := fun i => (l.piece i).isSome && (l.headOk || (match l.chunks with | some c => decide (i < headPieces c) | none => i == 0))
  let have_ := m.wanted.filter good
  let lack := m.wanted.filter fun i => !good i && decide (i < l.total)
  let s := have_.foldl (fun s i => s.repairTo l m.src i ((l.piece i).getD [])) s
  let l := { l with wants := l.wants ++ (lack.map fun i => (m.src, i)).filter fun w => !l.wants.contains w }
  let s := s.setLace l
  if lack.isEmpty then s else s.askParent l

/-- A module that is not receiving it answers from the image it holds, or passes the request up the route (18 R479). -/
def State.answerStaged (s : State) (m : Msg) : State :=
  match s.heldImage m.laceRelease with
  | some im =>
    let l : Lace := { release := some im.release, version := im.version, seed := some m.laceSeed }
    (m.wanted.filter fun i => decide (i < im.pieces)).foldl (fun s i => s.repairTo l m.src i (Mem.read im.bytes (4096 * i) 4096)) s
  | none =>
    match s.parentOf m.laceSeed s.link.coord with
    | some p => sendAll (fun s f => s.sendFlit none f) s (msgFlits 5 16 m.src p m.tag m.w0 m.w1 m.w2 m.w3 m.data)
    | none => s

/-- LACE_BITMAP: a repair request (18 R476, R479). -/
def execLaceBitmap (k : Nat) (s : State) : Host.Outcome State Fault Refusal :=
  .next (s.withMsg k 0x32 fun m s =>
    match s.lacing with
    | some l => if l.release == some m.laceRelease then s.answerLacing l m else s.answerStaged m
    | none => s.answerStaged m)

/-- LACE_REPAIR_PIECE (18 R476). -/
def execLaceRepairPiece (k : Nat) (s : State) : Host.Outcome State Fault Refusal :=
  .next (s.withMsg k 0x33 fun m s => s.withLace m fun l s => s.enterPiece l m.laceIndex (wordsBytes m.data) false)

/-- A kind 0x06 datagram has its layout: no MAC, one piece (13 R358, 18 R475). -/
def pieceDatagramOk (b : List Byte) : Bool :=
  b.length == 4144 && b.take 4 == [0x5A#8, 0x49#8, 0x4D#8, 0x31#8] && field b 4 1 == 6 && field b 5 3 == 0 && allZero ((b.drop 16).take 16) &&
  field b 44 4 == 0

/-- LACE_PIECE_DATAGRAM: with PATH 1 the orchestrator sends each piece to the management ports (18 R475, R476). -/
def execLacePieceDatagram (port : Fin 2) (bytes : List Byte) (s : State) : Host.Outcome State Fault Refusal :=
  .next (
    if s.pwr.sup == 3 then s
    else if !pieceDatagramOk bytes then s.mgmtReject port.val
    else
      match s.lacing with
      | some l =>
        let r := BitVec.ofNat 32 (field bytes 32 4)
        if s.shk.path && s.accepts l r && decide (field bytes 40 4 < 16513) && !s.flt.active then
          s.enterPiece { l with release := some r, version := BitVec.ofNat 32 (field bytes 36 4) } (field bytes 40 4) (bytes.drop 48) true
        else s
      | none => s)

/-- LACE_BITMAP_TIMER: 100 ms without a piece while pieces are missing (18 R476). -/
def execLaceBitmapTimer (s : State) : Host.Outcome State Fault Refusal :=
  .next (
    match s.lacing with
    | none => s
    | some l =>
      if l.missing.isEmpty || s.flt.active then s
      else if !s.shk.path then s.askParent l
      else
        let body := natLe 4 (l.release.getD s.shk.laceRelease).toNat ++ natLe 4 l.version.toNat ++ List.replicate 8 0#8 ++
          wordsBytes (bitmapWords l.total l.missing)
        ((s.mgmtSend 0 7 0 body).mgmtSend 1 7 0 body).modShk fun k => { k with bitmaps := satAdd 16 k.bitmaps 1 })

end Sys2Proof.Machine
end

