-- ==== Sys2Proof/Machine/Registers.lean ====
section
/-!
DEFINITION. Register writes by access code, source and size, and what a read of every register returns (00 R5 to R10, 12 R330,
R331, and the register tables of every chapter).
-/

namespace Sys2Proof.Machine

open Sys2Proof

/-! ## Writes of whole registers -/

/-- MEM_LAST_PTR: HOLDER and HOLDER_EN (08 R214). -/
def State.writeLastPtr (s : State) (v : BitVec 64) : State :=
  { s with lastPtr := { s.lastPtr with holder := fld v.toNat 7 4, holderEn := v.getLsbD 8 } }

/-- MEM_ECC_T1 and MEM_ECC_T2: CLR (09 R238). -/
def State.writeEccCount (s : State) (t2 : Bool) (v : BitVec 64) : State :=
  if !v.getLsbD 63 then s
  else s.modEcc fun e => if t2 then { e with single2 := 0, double2 := 0, uncorr2 := 0 } else { e with single1 := 0, double1 := 0, uncorr1 := 0 }

/-- MEM_INJECT: an ADDR that names no word of T1 or T2 is discarded, and the other fields take effect (00 R10, 09 R241). -/
def State.writeInject (s : State) (v : BitVec 64) : State :=
  let a := fld v.toNat 47 3
  s.modEcc fun e => { e with injAddr := if inT1 (8 * a) || inT2 (8 * a) then a else e.injAddr, injFlips := fld v.toNat 49 48,
                             injArmed := e.injArmed || v.getLsbD 50 }

/-- LNK_DROP: CLR (10 R274). -/
def State.writeDrop (s : State) (v : BitVec 64) : State :=
  if v.getLsbD 63 then { s with link := { s.link with unreach := 0, hoplim := 0, proto := 0 } } else s

/-- LNK_ERR_n: CLR (10 R278). -/
def State.writeLnkErr (s : State) (p : Nat) (v : BitVec 64) : State :=
  if v.getLsbD 63 then s.modPort p fun k => { k with refused := 0, replays := 0, degrades := 0, lost := 0, fecUncorr := 0 } else s

/-- LNK_CTL_n: ENABLE, HOLD and RETRAIN (10 R275). -/
def State.writeLnkCtl (s : State) (p : Nat) (v : BitVec 64) : State :=
  ((s.writeEnable p (v.getLsbD 0)).writeHold p (v.getLsbD 1)).writeRetrain p (v.getLsbD 2)

/-- MBX_ERR: CLR (13 R366). -/
def State.writeMbxErr (s : State) (v : BitVec 64) : State :=
  if v.getLsbD 63 then s.modHost fun h => { h with discarded := 0, stale := 0, flagRefused := 0, faulted := 0 } else s

/-- MBX_MGMT_n: CLR (13 R367). -/
def State.writeMbxMgmt (s : State) (port : Nat) (v : BitVec 64) : State :=
  if v.getLsbD 7 then s.modHost fun h => { h with rejected := SMap.set 0 h.rejected port 0, duplicates := SMap.set 0 h.duplicates port 0 } else s

/-- HLT_POLICY: the four fields together, when they are consistent; the health state is judged by them (14 R384, R393). A longer HOLD_MIN has still to run (14 R385). -/
def State.writePolicy (s : State) (v : BitVec 64) : State :=
  let prob := fld v.toNat 9 0
  let exit := fld v.toNat 19 10
  let req := fld v.toNat 29 20
  let hold := fld v.toNat 40 30
  if decide (req < prob) && decide (prob < exit) && decide (1 ≤ hold) && decide (hold ≤ 1440) then
    ({ s with hlt := { s.hlt with probBelow := prob, probExit := exit, reqBelow := req, holdMin := hold,
                                  hintHeld := s.hlt.hintHeld && decide (hold ≤ s.hlt.holdMin) } } : State).judge
  else s

/-- READMIT returns an EXPELLED module to READY with score 500, and reports the change (14 R384, R394). -/
def State.readmit (s : State) : State :=
  if s.hlt.hstate == 2 then ({ s with hlt := { s.hlt with hstate := 0, score := 500, expelCause := 0, asked := false } }.report 3 0 noRecord).judge else s

/-- HLT_CTL (14 R394). -/
def State.writeHltCtl (s : State) (v : BitVec 64) : State :=
  let s : State := { s with hlt := { s.hlt with dumpOnRemote := v.getLsbD 1 } }
  if v.getLsbD 0 then s.readmit else s

/-- MEM_RESOLE_n; a value that its table does not define leaves its field (00 R10, 15 R417). -/
def State.writeResole (s : State) (n : Nat) (v : BitVec 64) : State :=
  let role := fld v.toNat 18 16
  let pages := fld v.toNat 53 37
  s.modCtx n fun k => k.modSnap fun g =>
    { g with peer := v.setWidth 16, role := if role ≤ 4 then role else g.role, retained := v.getLsbD 19, firstPage := fld v.toNat 36 20,
             pages := if pages == 0 then g.pages else pages }

/-- MEM_RESOLE_OFF_n: OFFSET (15 R418). -/
def State.writeResoleOff (s : State) (n : Nat) (v : BitVec 64) : State :=
  s.modCtx n fun k => k.modSnap fun g => { g with offset := fld v.toNat 31 0 }

/-- PWR_REST: KEEP_LASTS, and IDLE_MS from 1 to 1,000 (00 R10, 16 R442). -/
def State.writeRest (s : State) (v : BitVec 64) : State :=
  let ms := fld v.toNat 17 8
  s.modPwr fun p => { p with keepLasts := v.getLsbD 6, idleMs := if decide (1 ≤ ms) && decide (ms ≤ 1000) then ms else p.idleMs }

/-- PWR_AON: LOST is cleared by 1 (16 R443). -/
def State.writeAon (s : State) (v : BitVec 64) : State := s.modPwr fun p => { p with lost := p.lost && !v.getLsbD 8 }

/-- SHK_LACE (18 R484). -/
def State.writeLace (s : State) (v : BitVec 64) : State :=
  s.modShk fun k => { k with seed := v.getLsbD 0, path := v.getLsbD 1, laceRelease := v.extractLsb' 32 32 }

/-! ## Writes of a context's block (12 R330, R331) -/

/-- The context itself or the administrative context writes (12 R331). -/
def State.ctxWriter (s : State) (o : Origin) (n : Nat) : Bool :=
  s.pwr.sup != 3 && match o with | .admin => true | .ctx m => m.val == n | .shank => false

/-- CTX_SCHED: CLASS, and SLICE from 1 to 100; the SLICE of a FREE slot is 0 and stays so (00 R10, 12 R332, log 64). -/
def State.writeSched (s : State) (n : Nat) (v : BitVec 64) : State :=
  let ms := fld v.toNat 14 8
  s.modCtx n fun k => k.modSched fun h =>
    { h with cls := fld v.toNat 1 0, slice := if h.st != 0 && decide (1 ≤ ms) && decide (ms ≤ 100) then ms else h.slice }

/-- CTX_ACCT_CTL: CLR (12 R334). -/
def State.writeAcctCtl (s : State) (n : Nat) (v : BitVec 64) : State :=
  if v.getLsbD 0 then s.modCtx n fun k => k.modSched fun h => { h with wait := 0, preempt := 0, used := 0, overrun := 0, energy := 0 } else s

/-- CTX_ARITH_FLAGS: three flags cleared by 1, and CLR_COUNT (02 R36). -/
def State.writeFlags (s : State) (n : Nat) (v : BitVec 64) : State :=
  s.modCtx n fun k => k.modArith fun a =>
    { a with ovf := a.ovf && !v.getLsbD 0, inv := a.inv && !v.getLsbD 1, sat := a.sat && !v.getLsbD 2,
             satCount := if v.getLsbD 63 then 0 else a.satCount }

/-- CTX_SHADOW_COUNT: CLR (03 R77). -/
def State.writeShadow (s : State) (n : Nat) (v : BitVec 64) : State :=
  if v.getLsbD 63 then s.modCtx n fun k => k.modArith fun a => { a with checked := 0, exceeded := 0 } else s
/-- CTX_RESCALE_COUNT: CLR (03 R78). -/
def State.writeRescale (s : State) (n : Nat) (v : BitVec 64) : State :=
  if v.getLsbD 63 then s.modCtx n fun k => k.modArith fun a => { a with farOff := 0, shadow := 0, rerun := 0 } else s
/-- CTX_TASK_COUNT: CLR (04 R112). -/
def State.writeTasks (s : State) (n : Nat) (v : BitVec 64) : State :=
  if v.getLsbD 63 then s.modCtx n fun k => k.modArith fun a => { a with taken := 0, stolen := 0 } else s
/-- CTX_UPDATE_COUNT: CLR (07 R190). -/
def State.writeUpdates (s : State) (n : Nat) (v : BitVec 64) : State :=
  if v.getLsbD 63 then s.modCtx n fun k => k.modArith fun a => { a with skipped := 0, replayed := 0, clamped := 0 } else s
/-- CTX_COLL_COUNT: CLR (11 R303). -/
def State.writeColls (s : State) (n : Nat) (v : BitVec 64) : State :=
  if v.getLsbD 63 then s.modCtx n fun k => k.modArith fun a => { a with collDone := 0 } else s
/-- CTX_STEP_EPOCH: LATE is cleared by 1 (07 R187). -/
def State.writeEpoch (s : State) (n : Nat) (v : BitVec 64) : State :=
  s.modStepOf n fun t => { t with late := t.late && !v.getLsbD 50 }
/-- CTX_JOB_SEED: discarded while a RUN of the context is in progress; the ledger keeps it (07 R173, R184, R189). -/
def State.writeSeed (s : State) (n : Nat) (v : BitVec 64) : State :=
  if !(s.ctx n).runInProgress then (s.modStepOf n fun t => { t with seed := v }).ledgerSlot n else s
/-- CTX_ADAPTER_SETS: bits cleared by 1 (08 R215). -/
def State.writeAdapters (s : State) (n : Nat) (v : BitVec 64) : State :=
  s.modCtx n fun k => k.modMem fun m => { m with adapters := m.adapters &&& ~~~v }

/-- A write of a context's block by offset; CLASS, SLICE and CTX_ACCT_CTL accept the administrative context alone (12 R331). -/
def State.writeCtx (s : State) (o : Origin) (n off : Nat) (v : BitVec 64) : State :=
  if !s.ctxWriter o n then s
  else
    match off with
    | 0x000 => if Origin.isAdmin o then s.writeSched n v else s
    | 0x038 => if Origin.isAdmin o then s.writeAcctCtl n v else s
    | 0x200 => s.writeFlags n v
    | 0x210 => s.writeShadow n v
    | 0x218 => s.writeRescale n v
    | 0x220 => s.writeTasks n v
    | 0x240 => s.writeEpoch n v
    | 0x250 => s.writeSeed n v
    | 0x260 => s.writeUpdates n v
    | 0x268 => s.writeAdapters n v
    | 0x290 => s.writeColls n v
    | _ => s

/-! ## The rows of single registers -/

/-- ARM (09 R241). -/
def execArm (o : Origin) (v : BitVec 64) (s : State) : Host.Outcome State Fault Refusal :=
  .next (if s.admin o then s.writeInject v else s)

/-- READMIT (14 R384, R394). -/
def execReadmit (o : Origin) (v : BitVec 64) (s : State) : Host.Outcome State Fault Refusal :=
  .next (if s.admin o && v.getLsbD 0 then s.readmit else s)

/-- HLT_POLICY_WRITE (14 R393). -/
def execHltPolicyWrite (o : Origin) (v : BitVec 64) (s : State) : Host.Outcome State Fault Refusal :=
  .next (if s.admin o then s.writePolicy v else s)

/-- CTX_JOB_SEED_WRITE (07 R173). -/
def execCtxJobSeedWrite (o : Origin) (n : CtxN) (v : BitVec 64) (s : State) : Host.Outcome State Fault Refusal :=
  .next (if s.ctxWriter o n.val then s.writeSeed n.val v else s)

/-- CLR_COUNT (02 R36, R38). -/
def execClrCount (o : Origin) (n : CtxN) (v : BitVec 64) (s : State) : Host.Outcome State Fault Refusal :=
  .next (if s.ctxWriter o n.val && v.getLsbD 63 then s.modCtx n.val fun k => k.modArith fun a => { a with satCount := 0 } else s)

/-- CTX_SHADOW_COUNT_CLR (03 R77). -/
def execCtxShadowCountClr (o : Origin) (n : CtxN) (v : BitVec 64) (s : State) : Host.Outcome State Fault Refusal :=
  .next (if s.ctxWriter o n.val then s.writeShadow n.val v else s)

/-- CTX_RESCALE_COUNT_CLR (03 R78). -/
def execCtxRescaleCountClr (o : Origin) (n : CtxN) (v : BitVec 64) (s : State) : Host.Outcome State Fault Refusal :=
  .next (if s.ctxWriter o n.val then s.writeRescale n.val v else s)

/-- CTX_TASK_COUNT_CLR (04 R112, R114). -/
def execCtxTaskCountClr (o : Origin) (n : CtxN) (v : BitVec 64) (s : State) : Host.Outcome State Fault Refusal :=
  .next (if s.ctxWriter o n.val then s.writeTasks n.val v else s)

/-- CTX_UPDATE_COUNT_CLR (07 R190). -/
def execCtxUpdateCountClr (o : Origin) (n : CtxN) (v : BitVec 64) (s : State) : Host.Outcome State Fault Refusal :=
  .next (if s.ctxWriter o n.val then s.writeUpdates n.val v else s)

/-- CTX_COLL_COUNT_CLR (11 R303). -/
def execCtxCollCountClr (o : Origin) (n : CtxN) (v : BitVec 64) (s : State) : Host.Outcome State Fault Refusal :=
  .next (if s.ctxWriter o n.val then s.writeColls n.val v else s)

/-- CTX_ACCT_CTL_CLR: the administrative context alone (12 R331, R334). -/
def execCtxAcctCtlClr (o : Origin) (n : CtxN) (v : BitVec 64) (s : State) : Host.Outcome State Fault Refusal :=
  .next (if s.admin o then s.writeAcctCtl n.val v else s)

/-- MEM_ECC_CLR (09 R238). -/
def execMemEccClr (_o : Origin) (t2 : Bool) (v : BitVec 64) (s : State) : Host.Outcome State Fault Refusal :=
  .next (if s.pwr.sup == 3 then s else s.writeEccCount t2 v)

/-- LNK_DROP_CLR (10 R274). -/
def execLnkDropClr (_o : Origin) (v : BitVec 64) (s : State) : Host.Outcome State Fault Refusal :=
  .next (if s.pwr.sup == 3 then s else s.writeDrop v)

/-- LNK_ERR_CLR (10 R278). -/
def execLnkErrClr (_o : Origin) (p : PortId) (v : BitVec 64) (s : State) : Host.Outcome State Fault Refusal :=
  .next (if s.pwr.sup == 3 then s else s.writeLnkErr p.val v)

/-- MBX_ERR_CLR (13 R366). -/
def execMbxErrClr (o : Origin) (v : BitVec 64) (s : State) : Host.Outcome State Fault Refusal :=
  .next (if s.admin o then s.writeMbxErr v else s)

/-- MBX_MGMT_CLR (13 R367). -/
def execMbxMgmtClr (o : Origin) (port : Fin 2) (v : BitVec 64) (s : State) : Host.Outcome State Fault Refusal :=
  .next (if s.admin o then s.writeMbxMgmt port.val v else s)

/-! ## Writes of the Shank space (00 R8, 18 R465) -/

/-- A word with 64 of its bits replaced. -/
def setWord (d : BitVec 256) (w : Nat) (v : BitVec 64) : BitVec 256 :=
  BitVec.ofNat 256 (d.toNat - fld d.toNat (64 * w + 63) (64 * w) * 2 ^ (64 * w) + v.toNat * 2 ^ (64 * w))

/-- A record with word `w` replaced; a CLASS, CONTEXT or CORE that the tables do not define leaves its field (00 R10, 14 R368, R370). -/
def FRec.setWordAt (r : FRec) (w : Nat) (v : BitVec 64) : FRec :=
  let x := v.toNat
  let cls := fld x 47 32
  let ctx := fld x 55 51
  let core := fld x 8 0
  match w with
  | 0 => { r with seq := fld x 31 0, cls := if decide (0x100 ≤ cls) && decide (cls ≤ 0x10B) then cls else r.cls, valid := v.getLsbD 48,
                  secondary := v.getLsbD 49, primary := v.getLsbD 50, ctx := if decide (ctx ≤ 16) || ctx == 31 then ctx else r.ctx,
                  insn := v.getLsbD 56, coreValid := v.getLsbD 57 }
  | 1 => { r with time := x }
  | 2 => { r with subject := v.extractLsb' 0 16, lowest := v.extractLsb' 16 16, epoch := v.extractLsb' 32 32 }
  | 3 => { r with step := fld x 47 0 }
  | 4 => { r with core := if core < 320 then core else r.core, word := fld x 24 12, task := v.extractLsb' 32 32 }
  | 5 => { r with instr := v }
  | 6 => { r with detail := v }
  | _ => { r with resets := fld x 15 0, tally := fld x 31 16, dump := fld x 33 32 }

/-- An unused entry of a remap table (09 R243). -/
def noRemap : Remap := { valid := false, cause := 0, line := 0, committed := true }

/-- The Shank writes entry `i` of a remap table: every field is set, in use or not (00 R8, 09 R243). -/
def State.writeRemap (s : State) (c i : Nat) (v : BitVec 64) : State :=
  let t := s.remaps c
  let t := t ++ List.replicate (i + 1 - t.length) noRemap
  let e : Remap := { valid := v.getLsbD 0, cause := b2n (v.getLsbD 1), line := fld v.toNat 47 6, committed := true }
  s.modEcc fun x => { x with remaps := SMap.set [] x.remaps c (t.set i e) }

/-- SHK_KEYS: PKG and the count of management keys (18 R482, log 65). -/
def Shk.writeKeys (k : Shk) (v : BitVec 64) : Shk := { k with mgmtGen := fld v.toNat 39 8, pkgBits := v.setWidth 8 }

/-- A write of the Shank to its register space: G fields alone (00 R8). The bad-core map's marks are written under 17 R452 alone, at the end of a
start-up test, so that a write of the map does nothing (17 R464, log 112). -/
def State.writeShank (s : State) (a : Nat) (v : BitVec 64) : State :=
  if a == 0x0F1000000010 then s.modShk fun k => { k with required := v.setWidth 32 }
  else if a == 0x0F1000000028 then s.modShk fun k => k.writeKeys v
  else if within a 8 0x0F1000010000 512 then
    let i := (a - 0x0F1000010000) / 32
    s.modShk fun k => { k with meas := SMap.set (0#256) k.meas i (setWord (k.measOf i) ((a - 0x0F1000010000) % 32 / 8) v) }
  else if within a 8 0x0F1000020000 256 then
    let i := (a - 0x0F1000020000) / 32
    s.modShk fun k => { k with pkgIds := SMap.set (0#256) k.pkgIds i (setWord (SMap.get (0#256) k.pkgIds i) ((a - 0x0F1000020000) % 32 / 8) v) }
  else if within a 8 0x0F1000040000 0x1800 then s.writeRemap ((a - 0x0F1000040000) / 512) ((a - 0x0F1000040000) % 512 / 8) v
  else if within a 8 0x0F1000041800 (24 * 128) then s.writeRemap (12 + (a - 0x0F1000041800) / 128) ((a - 0x0F1000041800) % 128 / 8) v
  else if within a 8 0x0F1000050000 (256 * 64) then
    let i := (a - 0x0F1000050000) / 64
    { s with hlt := { s.hlt with recs := SMap.upd {} s.hlt.recs i fun r => r.setWordAt ((a - 0x0F1000050000) % 64 / 8) v } }
  else s

/-! ## REGISTER_WRITE -/

/-- Base of the context blocks (12 R330). -/
def ctxBase : Nat := 0x0F0000100000

/-- The administrative context's register writes outside the context blocks, by address. -/
def State.writeAdmin (s : State) (a : Nat) (v : BitVec 64) : State :=
  if a == 0x0F0000010010 then s.writeLastPtr v
  else if a == 0x0F0000020028 then s.writeInject v
  else if within a 8 0x0F0000030040 64 then s.writeDir ((a - 0x0F0000030040) / 8) v
  else if within a 8 0x0F0000031000 (8 * 36) then s.writeLnkCtl ((a - 0x0F0000031000) / 8) v
  else if a == 0x0F0000040020 then s.writeMbxErr v
  else if within a 8 0x0F0000040040 16 then s.writeMbxMgmt ((a - 0x0F0000040040) / 8) v
  else if a == 0x0F0000050008 then s.writePolicy v
  else if a == 0x0F0000050010 then s.writeHltCtl v
  else if a == 0x0F0000070000 then s.writeSupply v
  else if a == 0x0F0000070008 then s.writeGov v
  else if a == 0x0F0000070010 then s.writeRest v
  else if a == 0x0F0000070020 then s.writeEvents v
  else if a == 0x0F0000070028 then s.writeAon v
  else if a == 0x0F0000080008 then s.writeCtl v true true
  else if a == 0x0F0000080010 then s.writePartial v
  else if a == 0x0F0000090000 then s.writeLace v
  else s

/-- Register writes that no rule keeps to a writer (log 63). -/
def State.writeAny (s : State) (a : Nat) (v : BitVec 64) : State :=
  if a == 0x0F0000020000 then s.writeEccCount false v
  else if a == 0x0F0000020008 then s.writeEccCount true v
  else if a == 0x0F0000030080 then s.writeDrop v
  else if within a 8 0x0F0000031400 (8 * 36) then s.writeLnkErr ((a - 0x0F0000031400) / 8) v
  else s

/-- MEM_RESOLE_n and MEM_RESOLE_OFF_n, written by context n or the administrative context alone (15 R417, R418). -/
def State.writeStream (s : State) (o : Origin) (a : Nat) (v : BitVec 64) : State :=
  let n := (a - 0x0F0000060000) / 32
  if !within a 8 0x0F0000060000 (32 * 16) || !s.ctxWriter o n then s
  else
    match (a - 0x0F0000060000) % 32 with
    | 0 => s.writeResole n v
    | 8 => s.writeResoleOff n v
    | _ => s

/-- A write of a whole register, by its address and its writer (00 R5, R8). -/
def State.writeReg (s : State) (o : Origin) (a : Nat) (v : BitVec 64) : State :=
  if s.pwr.sup == 3 then s
  else if within a 8 ctxBase (16 * 0x1000) then s.writeCtx o ((a - ctxBase) / 0x1000) ((a - ctxBase) % 0x1000) v
  else
    let s := (s.writeAny a v).writeStream o a v
    match o with
    | .admin => s.writeAdmin a v
    | .ctx _ => s
    | .shank => s.writeShank a v

/-- REGISTER_WRITE: a write of 8 bytes at an 8-byte-aligned address; any other is discarded (00 R5, R8). -/
def execRegisterWrite (o : Origin) (addr : BitVec 48) (size : Nat) (v : BitVec 64) (s : State) : Host.Outcome State Fault Refusal :=
  .next (if size == 8 && addr.toNat % 8 == 0 then s.writeReg o addr.toNat v else s)

/-! ## What a read returns -/

/-- A context's block (12 R332 to R336); the administrative context's block carries STATE and its quotas alone (12 R330). -/
def State.readCtx (s : State) (n off : Nat) : Nat :=
  let h := (s.ctx n).sched
  if n == 16 then
    (if off == 0 then 1 * 2 ^ 16 else if off == 0x270 || off == 0x278 || off == 0x280 then s.ctxWord 16 off else 0)
  else if within off 8 0x800 2048 then (SMap.get (0#32) (s.ctx n).sems ((off - 0x800) / 8)).toNat
  else
    match off with
    | 0x00 => h.cls + h.slice * 2 ^ 8 + h.st * 2 ^ 16 +
        (List.range 4).foldl (fun t q => t + b2n ((s.quarter q).cur == some n) * 2 ^ (20 + q) + b2n (s.readyOn n q) * 2 ^ (24 + q)) 0
    | 0x08 => four16 fun q => min 0xFFFF (SMap.get 0 h.debt q)
    | 0x10 => h.wait
    | 0x18 => h.preempt
    | 0x20 => h.used
    | 0x28 => h.overrun
    | 0x30 => h.energy / 40000
    | 0x40 => s.quiet n + h.absorbed * 2 ^ 32 + b2n (h.st == 2 && h.marks.isEmpty) * 2 ^ 63
    | _ => s.ctxWord n off

/-- MEM_ registers (08 R213, R214, 09 R238 to R242, 15 R417 to R419). -/
def State.readMem (s : State) (a : Nat) : Nat :=
  let e := s.ecc
  let last := fun (l : Last) => l.st + l.inflight * 2 ^ 8 + l.gen.toNat * 2 ^ 24 + l.size * 2 ^ 32
  let gen := fun (g : Gen) => match g.image with
    | some im => (if g.valid then im.step else 0) + b2n g.valid * 2 ^ 48 + b2n g.newest * 2 ^ 49 + b2n g.writing * 2 ^ 50 + b2n im.scaling * 2 ^ 51 +
        (im.length + 2 ^ 30 - 1) / 2 ^ 30 * 2 ^ 52
    | none => b2n g.writing * 2 ^ 50
  if a == 0x0F0000010000 then last s.lastA
  else if a == 0x0F0000010008 then last s.lastB
  else if a == 0x0F0000010010 then
    b2n s.lastPtr.active + b2n s.lastPtr.valid * 2 + s.lastPtr.holder * 2 ^ 4 + b2n s.lastPtr.holderEn * 2 ^ 8 + s.lastPtr.switches * 2 ^ 16
  else if a == 0x0F0000020000 then e.single1 + e.double1 * 2 ^ 32 + e.uncorr1 * 2 ^ 48
  else if a == 0x0F0000020008 then e.single2 + e.double2 * 2 ^ 32 + e.uncorr2 * 2 ^ 48
  else if a == 0x0F0000020010 then e.lastAddr * 8 + e.lastKind * 2 ^ 48 + e.lastFound * 2 ^ 50
  else if a == 0x0F0000020018 then e.passes1 + e.passes2 * 2 ^ 24
  else if a == 0x0F0000020020 then e.nocReplays + e.storePar * 2 ^ 32
  else if a == 0x0F0000020028 then e.injAddr * 8 + e.injFlips * 2 ^ 48 + b2n e.injArmed * 2 ^ 51
  else if within a 8 0x0F0000020100 (8 * 36) then
    let c := (a - 0x0F0000020100) / 8
    usedRemaps (s.remaps c) + b2n (s.remapFull c) * 2 ^ 7
  else if within a 8 0x0F0000060000 (32 * 16) then
    let k := (s.ctx ((a - 0x0F0000060000) / 32)).snap
    match (a - 0x0F0000060000) % 32 with
    | 0 => k.peer.toNat + k.role * 2 ^ 16 + b2n k.retained * 2 ^ 19 + k.firstPage * 2 ^ 20 + k.pages * 2 ^ 37
    | 8 => k.offset + k.done * 2 ^ 32
    | 16 => gen k.g0
    | _ => gen k.g1
  else 0

/-- LNK_ registers (10 R272 to R278, 11 R304, R305, 14 R396). -/
def State.readLink (s : State) (a : Nat) : Nat :=
  let l := s.link
  let seen := fun e => (l.seen.find? fun (x : Nat × Seen) => x.1 == e).map (·.2)
  if a == 0x0F0000030000 then l.coord.toNat + l.sizeM1.toNat * 2 ^ 16 + l.group.toNat * 2 ^ 32 + b2n l.member * 2 ^ 48
  else if within a 8 0x0F0000030040 64 then
    let d := s.dir ((a - 0x0F0000030040) / 8)
    d.ports.toNat + b2n d.detour * 2 ^ 36 + b2n d.down * 2 ^ 37
  else if a == 0x0F0000030080 then l.unreach + l.hoplim * 2 ^ 32 + l.proto * 2 ^ 48
  else if a == 0x0F0000030088 then l.faultEpoch.toNat
  else if within a 8 0x0F0000031000 (8 * 36) then
    let k := s.port ((a - 0x0F0000031000) / 8)
    b2n k.enable + b2n k.hold * 2
  else if within a 8 0x0F0000031200 (8 * 36) then
    let k := s.port ((a - 0x0F0000031200) / 8)
    k.st + k.lanes.toNat * 2 ^ 4 + k.peer.toNat * 2 ^ 12 + k.peerPort * 2 ^ 28 + k.rtt * 2 ^ 34
  else if within a 8 0x0F0000031400 (8 * 36) then
    let k := s.port ((a - 0x0F0000031400) / 8)
    k.refused + k.replays * 2 ^ 16 + k.degrades * 2 ^ 32 + k.lost * 2 ^ 40 + k.fecUncorr * 2 ^ 48
  else if within a 8 0x0F0000031600 (8 * 36) then (s.port ((a - 0x0F0000031600) / 8)).serial.toNat
  else if within a 8 0x0F0000031800 1024 then
    match seen ((a - 0x0F0000031800) / 16) with
    | some e =>
      if (a - 0x0F0000031800) % 16 == 0 then e.subject.toNat + e.lowest.toNat * 2 ^ 16 + e.epoch.toNat * 2 ^ 32
      else 1 + b2n e.origin * 2 + b2n e.primary * 4 + e.dup * 2 ^ 8 + e.tally * 2 ^ 24
    | none => 0
  else 0

/-- MBX_ registers (13 R365 to R367). -/
def State.readMbx (s : State) (a : Nat) : Nat :=
  let h := s.host
  if within a 8 0x0F0000040000 32 then
    let n := (a - 0x0F0000040000) / 8
    b2n (SMap.get false h.hostUp n) + (h.qps.filter fun e => match e.2 with | some q => q.port == n | none => false).length * 2
  else if a == 0x0F0000040020 then h.discarded + h.stale * 2 ^ 16 + h.flagRefused * 2 ^ 32 + h.faulted * 2 ^ 48
  else if within a 8 0x0F0000040040 16 then
    let n := (a - 0x0F0000040040) / 8
    b2n (SMap.get false h.mgmtUp n) + SMap.get 0 h.rejected n * 2 ^ 8 + SMap.get 0 h.duplicates n * 2 ^ 24 + (SMap.get (0#24) h.heartbeats n).toNat * 2 ^ 40
  else 0

/-- HLT_ registers (14 R392 to R396). -/
def State.readHlt (s : State) (a : Nat) : Nat :=
  let h := s.hlt
  if a == 0x0F0000050000 then
    h.score + h.hstate * 2 ^ 10 + b2n h.requested * 2 ^ 13 + b2n h.withheld * 2 ^ 14 + b2n h.hint * 2 ^ 15 + h.expelCause * 2 ^ 16
  else if a == 0x0F0000050008 then h.probBelow + h.probExit * 2 ^ 10 + h.reqBelow * 2 ^ 20 + h.holdMin * 2 ^ 30
  else if a == 0x0F0000050010 then b2n h.dumpOnRemote * 2
  else if a == 0x0F0000050018 then h.lastSeq % 2 ^ 32 + h.dropped * 2 ^ 32
  else if a == 0x0F0000050020 then
    (if s.flt.dumpValid then 1 + b2n s.flt.dumpComplete * 2 + s.flt.unreadable * 4 + dumpLen / 4096 * 2 ^ 16 + s.flt.dumpSeq % 2 ^ 32 * 2 ^ 32 else 0)
  else if a == 0x0F0000050028 then h.fenceSelf
  else if within a 8 0x0F0000050100 256 then
    match h.fence ((a - 0x0F0000050100) / 16) with
    | some f => if (a - 0x0F0000050100) % 16 == 0 then f.serial.toNat else f.epoch.toNat + f.coord.toNat * 2 ^ 32 + 2 ^ 48
    | none => 0
  else if within a 8 0x0F0000050200 (8 * 36) then (s.port ((a - 0x0F0000050200) / 8)).peerFence.toNat
  else 0

/-- PWR_ registers (16 R440 to R443, 19 R497). -/
def State.readPwr (s : State) (a : Nat) : Nat :=
  let p := s.pwr
  match a - 0x0F0000070000 with
  | 0x00 => p.vin + p.vmin * 2 ^ 16 + p.iin * 2 ^ 32 + p.sup % 4 * 2 ^ 48 + p.cause * 2 ^ 50
  | 0x08 => p.ramp + p.floor * 2 ^ 9 + p.clk * 2 ^ 21 + p.clkReq * 2 ^ 32 + p.hist * 2 ^ 43 + b2n (p.hist == 16) * 2 ^ 48 + b2n p.thermal * 2 ^ 49
  | 0x10 => p.rest + s.restTarget * 2 ^ 3 + b2n p.keepLasts * 2 ^ 6 + p.idleMs * 2 ^ 8 + p.budget * 2 ^ 18
  | 0x18 => p.energy / 40000
  | 0x20 => p.sags + p.rides * 2 ^ 16 + p.wakes * 2 ^ 32 + p.throttles * 2 ^ 48
  | 0x28 => p.cell + b2n p.onCell * 2 ^ 7 + b2n p.lost * 2 ^ 8
  | 0x30 => p.inlet + p.outlet * 2 ^ 12 + p.dieMax * 2 ^ 24 + p.dieSensor * 2 ^ 36
  | _ => 0

/-- RST_ registers (17 R458 to R463). -/
def State.readRst (s : State) (a : Nat) : Nat :=
  let r := s.rst
  let marked := fun (f : Nat → Bool) q => ((List.range 84).filter fun p => f (84 * q + p)).length
  match a - 0x0F0000080000 with
  | 0x00 => r.last + r.retries * 2 ^ 3
  | 0x10 => r.scope + r.index * 2 ^ 2 + b2n r.busy * 2 ^ 12 + r.result * 2 ^ 13 + r.stragglers * 2 ^ 16
  | 0x18 => r.phase + r.unit * 2 ^ 16 + b2n r.fullTest * 2 ^ 25 + b2n r.short * 2 ^ 26
  | 0x20 => r.cold + r.warm * 2 ^ 32
  | 0x28 => r.fault + r.escalated * 2 ^ 32
  | 0x30 => r.core + r.cluster * 2 ^ 32 + r.partition * 2 ^ 48
  | off =>
    if within off 8 0x40 32 then
      let q := (off - 0x40) / 8
      SMap.get 80 r.enabled q + SMap.get 84 r.good q * 2 ^ 7 + marked Config.fuseBad q * 2 ^ 14 + marked (SMap.get false r.ledgerBad) q * 2 ^ 21 +
        SMap.get 0 r.newBad q * 2 ^ 28
    else 0

/-- Registers of the Shank space (09 R243, 14 R370, 17 R464, 18 R480 to R483). -/
def State.readShank (s : State) (a : Nat) : Nat :=
  let k := s.shk
  let map := fun (f : Nat → Bool) (b : Nat) =>
    let hi := (a - b) % 16 == 8
    (List.range (if hi then 20 else 64)).foldl (fun m i => if f (84 * ((a - b) / 16) + (if hi then 64 else 0) + i) then m + 2 ^ i else m) 0
  let remap := fun c i => match (s.remaps c)[i]? with | some (r : Remap) => b2n r.valid + r.cause * 2 + r.line * 2 ^ 6 | none => 0
  if a == 0x0F1000000000 then Config.serial.toNat
  else if a == 0x0F1000000008 then k.release.toNat + k.version.toNat * 2 ^ 32
  else if a == 0x0F1000000010 then
    k.required.toNat + k.rollback * 2 ^ 32 + (if k.staging.isSome then 1 else if k.slotS.isSome then 2 else 0) * 2 ^ 39 + b2n k.slotF.isSome * 2 ^ 41 +
      b2n k.fellBack * 2 ^ 42
  else if a == 0x0F1000000018 then (match k.slotS with | some im => im.release.toNat + im.version.toNat * 2 ^ 32 | none => 0)
  else if a == 0x0F1000000028 then
    k.pkgBits.toNat + k.mgmtGen * 2 ^ 8
  else if within a 8 0x0F1000010000 512 then fld (k.measOf ((a - 0x0F1000010000) / 32)).toNat ((a - 0x0F1000010000) % 32 * 8 + 63) ((a - 0x0F1000010000) % 32 * 8)
  else if within a 8 0x0F1000020000 256 then
    fld (SMap.get (0#256) k.pkgIds ((a - 0x0F1000020000) / 32)).toNat ((a - 0x0F1000020000) % 32 * 8 + 63) ((a - 0x0F1000020000) % 32 * 8)
  else if within a 8 0x0F1000040000 0x1800 then remap ((a - 0x0F1000040000) / 512) ((a - 0x0F1000040000) % 512 / 8)
  else if within a 8 0x0F1000041800 (24 * 128) then remap (12 + (a - 0x0F1000041800) / 128) ((a - 0x0F1000041800) % 128 / 8)
  else if within a 8 0x0F1000050000 (256 * 64) then
    ((SMap.get {} s.hlt.recs ((a - 0x0F1000050000) / 64)).words.getD ((a - 0x0F1000050000) % 64 / 8) 0#64).toNat
  else if within a 8 0x0F1000080000 64 then map (SMap.get false s.rst.ledgerBad) 0x0F1000080000
  else if within a 8 0x0F1000080040 64 then map Config.fuseBad 0x0F1000080040
  else 0

/-- What a read of the register spaces returns: 0 where its size is not 8 bytes, where its address is not aligned to 8, and where no table names the address (00 R5, R8). -/
def State.readReg (s : State) (a : Nat) (size : Nat := 8) : BitVec 64 :=
  BitVec.ofNat 64 (
    if size != 8 || a % 8 != 0 then 0
    else if a ≥ 0x0F1000000000 then s.readShank a
    else if within a 8 ctxBase (17 * 0x1000) then s.readCtx ((a - ctxBase) / 0x1000) ((a - ctxBase) % 0x1000)
    else if a < 0x0F0000030000 then s.readMem a
    else if a < 0x0F0000040000 then s.readLink a
    else if a < 0x0F0000050000 then s.readMbx a
    else if a < 0x0F0000060000 then s.readHlt a
    else if a < 0x0F0000070000 then s.readMem a
    else if a < 0x0F0000080000 then s.readPwr a
    else if a < 0x0F0000090000 then s.readRst a
    else if a == 0x0F0000090000 then b2n s.shk.seed + b2n s.shk.path * 2 + s.shk.laceRelease.toNat * 2 ^ 32
    else if a == 0x0F0000090008 then s.shk.held + s.shk.bad * 2 ^ 16 + s.shk.repaired * 2 ^ 32 + s.shk.bitmaps * 2 ^ 48
    else 0)

end Sys2Proof.Machine
end

