-- ==== Sys2Proof/Machine/Scalar.lean ====
section
/-!
DEFINITION. Scalar, branch, loop, load and store instructions (05 R125 to R127).
-/

namespace Sys2Proof.Machine

open Sys2Proof

/-- NOP (05 R125). -/
def execNop (c : CoreId) (w : SF) (s : State) : Host.Outcome State Fault Refusal :=
  .next (s.issue c.val (encodeS 0x00#8 w) (w.zero true true true true true true) fun s => s.modCore c.val Core.next)

/-- The result of ALU by FN (05 R125). -/
def aluResult (fn : Nat) (a b : BitVec 64) : BitVec 64 :=
  match fn with
  | 0 => a + b
  | 1 => a - b
  | 2 => a * b
  | 3 => a &&& b
  | 4 => a ||| b
  | 5 => a ^^^ b
  | 6 => a <<< (b.toNat % 64)
  | 7 => a >>> (b.toNat % 64)
  | 8 => a.sshiftRight (b.toNat % 64)
  | 9 => if a.slt b then a else b
  | 10 => if a.slt b then b else a
  | _ => b

/-- ALU (05 R125). -/
def execAlu (c : CoreId) (w : SF) (s : State) : Host.Outcome State Fault Refusal :=
  .next (s.issue c.val (encodeS 0x08#8 w) (w.fnMax 11 && w.opndOk && (w.fn != 11#8 || w.a == 0#5)) fun s =>
    s.ifFree c.val ([w.d.toNat, w.a.toNat] ++ w.opndRegs) [] [] fun s =>
      s.modCore c.val fun k => (k.setA w.d.toNat (aluResult w.fn.toNat (k.ra w.a.toNat) (w.opnd k))).next)

/-- ALIH (05 R125). -/
def execAlih (c : CoreId) (w : SF) (s : State) : Host.Outcome State Fault Refusal :=
  .next (s.issue c.val (encodeS 0x09#8 w) (w.zero true false true true true false) fun s =>
    s.ifFree c.val [w.d.toNat] [] [] fun s =>
      s.modCore c.val fun k => (k.setA w.d.toNat (w.imm ++ (k.ra w.d.toNat).setWidth 32)).next)

/-- The comparison of ACMP by FN (05 R125). -/
def acmpResult (fn : Nat) (a b : BitVec 64) : Bool :=
  match fn with
  | 0 => a == b
  | 1 => a != b
  | 2 => a.slt b
  | 3 => !a.slt b
  | 4 => a.ult b
  | _ => !a.ult b

/-- ACMP (05 R125). -/
def execAcmp (c : CoreId) (w : SF) (s : State) : Host.Outcome State Fault Refusal :=
  .next (s.issue c.val (encodeS 0x0A#8 w) (w.fnMax 5 && w.opndOk && w.d8) fun s =>
    s.ifFree c.val (w.a.toNat :: w.opndRegs) [] [.freg w.d.toNat] fun s =>
      s.modCore c.val fun k => (k.setF w.d.toNat (acmpResult w.fn.toNat (k.ra w.a.toNat) (w.opnd k))).next)

/-- LSET (05 R125). -/
def execLset (c : CoreId) (w : SF) (s : State) : Host.Outcome State Fault Refusal :=
  .next (s.issue c.val (encodeS 0x0D#8 w) (w.zero true false true false false false && w.opndOk && w.d8) fun s =>
    s.ifFree c.val w.opndRegs [] [] fun s =>
      s.modCore c.val fun k => (k.setL w.d.toNat ((w.opnd k).setWidth 32)).next)

/-- LGET (05 R125). -/
def execLget (c : CoreId) (w : SF) (s : State) : Host.Outcome State Fault Refusal :=
  .next (s.issue c.val (encodeS 0x0E#8 w) (w.zero true false false true true true && decide (w.a.toNat < 8)) fun s =>
    s.ifFree c.val [w.d.toNat] [] [] fun s =>
      s.modCore c.val fun k => (k.setA w.d.toNat ((k.rl w.a.toNat).setWidth 64)).next)

/-- FSET (05 R125). -/
def execFset (c : CoreId) (w : SF) (s : State) : Host.Outcome State Fault Refusal :=
  .next (s.issue c.val (encodeS 0x0F#8 w) (w.zero true false true true true false && decide (w.imm.toNat < 2) && w.d8) fun s =>
    s.ifFree c.val [] [] [.freg w.d.toNat] fun s =>
      s.modCore c.val fun k => (k.setF w.d.toNat (w.imm == 1#32)).next)

/-- TSET (05 R119, R125). -/
def execTset (c : CoreId) (w : SF) (s : State) : Host.Outcome State Fault Refusal :=
  .next (s.issue c.val (encodeS 0x10#8 w) (w.zero true false false true true true && w.d16) fun s =>
    s.ifFree c.val [w.a.toNat] [] [] fun s =>
      if tileOk ((s.core c.val).ra w.a.toNat) then
        s.modCore c.val fun k => (k.setT w.d.toNat (k.ra w.a.toNat)).next
      else s.insnFault c.val)

/-- TGET (05 R125). DESIGN CHOICE: TGET reads a descriptor that still holds 0, and TOFF and TSB do not change one: 05 R119 says that a
descriptor in use must not be 0, and does not say which instructions use it. -/
def execTget (c : CoreId) (w : SF) (s : State) : Host.Outcome State Fault Refusal :=
  .next (s.issue c.val (encodeS 0x11#8 w) (w.zero true false false true true true && decide (w.a.toNat < 16)) fun s =>
    s.ifFree c.val [w.d.toNat] [] [] fun s =>
      s.modCore c.val fun k => (k.setA w.d.toNat (k.rt w.a.toNat)).next)

/-- TOFF (05 R125): a descriptor that still holds 0 is used by it and raises FC_ILLEGAL (05 R119). -/
def execToff (c : CoreId) (w : SF) (s : State) : Host.Outcome State Fault Refusal :=
  .next (s.issue c.val (encodeS 0x12#8 w) (w.zero true false false true true false && w.d16) fun s =>
    s.ifFree c.val [w.a.toNat] [] [] fun s =>
      let k := s.core c.val
      let v := w.sum k
      if 0 ≤ v && v < 0x800000 && v % 32 == 0 && tFmt (k.rt w.d.toNat) != 0 then
        s.modCore c.val fun k => (k.setT w.d.toNat (setField (k.rt w.d.toNat) 0 23 v.toNat)).next
      else s.insnFault c.val)

/-- TSB (05 R125). -/
def execTsb (c : CoreId) (w : SF) (s : State) : Host.Outcome State Fault Refusal :=
  .next (s.issue c.val (encodeS 0x13#8 w) (w.zero true false false true true false && w.d16) fun s =>
    s.ifFree c.val [w.a.toNat] [] [] fun s =>
      let k := s.core c.val
      let v := w.sum k
      if 0 ≤ v && v < 2048 && tFmt (k.rt w.d.toNat) != 0 then
        s.modCore c.val fun k => (k.setT w.d.toNat (setField (k.rt w.d.toNat) 26 11 v.toNat)).next
      else s.insnFault c.val)

/-- Take or pass a branch; a target outside the code block raises FC_ILLEGAL either way (05 R126). `f` is what else the instruction does. -/
def State.branch (s : State) (c : Nat) (off : Int) (taken : Bool) (f : Core → Core) : State :=
  let k := s.core c
  let t := (k.pc : Int) + off
  if 0 ≤ t && t < k.code.length then
    s.modCore c fun k => { f k with pc := if taken then t.toNat else k.pc + 1, afterBlk := false }
  else s.insnFault c

/-- BR (05 R126). -/
def execBr (c : CoreId) (w : SF) (s : State) : Host.Outcome State Fault Refusal :=
  .next (s.issue c.val (encodeS 0x04#8 w) (w.zero true true true true true false) fun s => s.branch c.val w.iimm true id)

/-- The condition of BRA by FN (05 R126). -/
def braTaken (fn : Nat) (a : BitVec 64) : Bool :=
  match fn with
  | 0 => a == 0#64
  | 1 => a != 0#64
  | 2 => a.msb
  | _ => !a.msb

/-- BRA (05 R126). -/
def execBra (c : CoreId) (w : SF) (s : State) : Host.Outcome State Fault Refusal :=
  .next (s.issue c.val (encodeS 0x05#8 w) (w.fnMax 3 && w.zero false true false true true false) fun s =>
    s.ifFree c.val [w.a.toNat] [] [] fun s =>
      s.branch c.val w.iimm (braTaken w.fn.toNat ((s.core c.val).ra w.a.toNat)) id)

/-- BRF (05 R126). -/
def execBrf (c : CoreId) (w : SF) (s : State) : Host.Outcome State Fault Refusal :=
  .next (s.issue c.val (encodeS 0x06#8 w) (w.fnMax 1 && w.zero false false true true true false && w.d8) fun s =>
    s.ifFree c.val [] [.freg w.d.toNat] [] fun s =>
      s.branch c.val w.iimm ((s.core c.val).rf w.d.toNat == (w.fn == 1#8)) id)

/-- LOOP (05 R126). -/
def execLoop (c : CoreId) (w : SF) (s : State) : Host.Outcome State Fault Refusal :=
  .next (s.issue c.val (encodeS 0x07#8 w) (w.zero true false true true true false && w.d8) fun s =>
    let l := (s.core c.val).rl w.d.toNat
    s.branch c.val w.iimm (l != 0#32 && l != 1#32) fun k => if l = 0#32 then k else k.setL w.d.toNat (l - 1#32))

/-- The access of ALD or AST stands in the own core store (05 R127, R149). -/
def State.localAddr (s : State) (c x : Nat) : Bool := within x 8 (coreBase c) coreSize && s.coreExists c

/-- The 8-byte word of a local load, or the fault of an unreadable one (09 R236, R237). -/
def State.aldLocal (s : State) (c x d : Nat) : State :=
  match s.load x 8 with
  | (.inl bs, s) => s.modCore c fun k => (k.setA d (BitVec.ofNat 64 (leNat bs))).next
  | (.inr w, s) => s.uncorrFault w 0 (s.core c).ctxNum (some (c, (s.core c).taskId))

/-- ALD (05 R127, R149): own core store at once, elsewhere by REMOTE_ALD_AST_COMPLETE. -/
def execAld (c : CoreId) (w : SF) (s : State) : Host.Outcome State Fault Refusal :=
  .next (s.issue c.val (encodeS 0x0B#8 w) (w.zero true false false true true false) fun s =>
    s.ifFree c.val [w.a.toNat, w.d.toNat] [] [] fun s =>
      let a := (w.addr (s.core c.val)).toNat
      if a % 8 != 0 then s.insnFault c.val
      else
        match s.reach c.val a 8 false true with
        | none => s.insnFault c.val
        | some x =>
          if s.localAddr c.val x then
            s.ifFree c.val [] [.store (x - coreBase c.val) 8] [] fun s => s.aldLocal c.val x w.d.toNat
          else
            s.modCore c.val fun k =>
              { k.next with remote := k.remote ++ [{ load := true, reg := w.d.toNat, addr := x, value := 0#64, seq := k.nextSeq }],
                            nextSeq := k.nextSeq + 1 })

/-- AST (05 R127, R149). -/
def execAst (c : CoreId) (w : SF) (s : State) : Host.Outcome State Fault Refusal :=
  .next (s.issue c.val (encodeS 0x0C#8 w) (w.zero true true false false true false) fun s =>
    s.ifFree c.val [w.a.toNat, w.b.toNat] [] [] fun s =>
      let a := (w.addr (s.core c.val)).toNat
      if a % 8 != 0 then s.insnFault c.val
      else
        match s.reach c.val a 8 true false with
        | none => s.insnFault c.val
        | some x =>
          if s.localAddr c.val x then
            s.ifFree c.val [] [] [.store (x - coreBase c.val) 8] fun s =>
              ((s.setBytes x (natLe 8 ((s.core c.val).ra w.b.toNat).toNat)).afterStore x 8).modCore c.val Core.next
          else
            s.modCore c.val fun k =>
              { k.next with remote := k.remote ++ [{ load := false, reg := 0, addr := x, value := k.ra w.b.toNat, seq := k.nextSeq }],
                            nextSeq := k.nextSeq + 1 })

end Sys2Proof.Machine
end

