-- ==== Sys2Proof/Machine/Dispatch.lean ====
section
/-! DEFINITION. One arm for each command: a direct call of its meaning (13 R352 and the row of the table). -/

namespace Sys2Proof.Machine

open Sys2Proof

def exec (i : Instr) (s : State) : Host.Outcome State Fault Refusal :=
  match i with
  | .nop c w => Sys2Proof.Machine.execNop c w s
  | .alu c w => Sys2Proof.Machine.execAlu c w s
  | .alih c w => Sys2Proof.Machine.execAlih c w s
  | .acmp c w => Sys2Proof.Machine.execAcmp c w s
  | .lset c w => Sys2Proof.Machine.execLset c w s
  | .lget c w => Sys2Proof.Machine.execLget c w s
  | .fset c w => Sys2Proof.Machine.execFset c w s
  | .tset c w => Sys2Proof.Machine.execTset c w s
  | .tget c w => Sys2Proof.Machine.execTget c w s
  | .toff c w => Sys2Proof.Machine.execToff c w s
  | .tsb c w => Sys2Proof.Machine.execTsb c w s
  | .br c w => Sys2Proof.Machine.execBr c w s
  | .bra c w => Sys2Proof.Machine.execBra c w s
  | .brf c w => Sys2Proof.Machine.execBrf c w s
  | .loop c w => Sys2Proof.Machine.execLoop c w s
  | .ald c w => Sys2Proof.Machine.execAld c w s
  | .ast c w => Sys2Proof.Machine.execAst c w s
  | .sld c w => Sys2Proof.Machine.execSld c w s
  | .sst c w => Sys2Proof.Machine.execSst c w s
  | .mma c w => Sys2Proof.Machine.execMma c w s
  | .vop c w => Sys2Proof.Machine.execVop c w s
  | .vred c w => Sys2Proof.Machine.execVred c w s
  | .vany c w => Sys2Proof.Machine.execVany c w s
  | .act c w => Sys2Proof.Machine.execAct c w s
  | .qnt c w => Sys2Proof.Machine.execQnt c w s
  | .wid c w => Sys2Proof.Machine.execWid c w s
  | .topen c w => Sys2Proof.Machine.execTopen c w s
  | .tclose c w => Sys2Proof.Machine.execTclose c w s
  | .layer c w => Sys2Proof.Machine.execLayer c w s
  | .sinc c w => Sys2Proof.Machine.execSinc c w s
  | .swait c w => Sys2Proof.Machine.execSwait c w s
  | .stry c w => Sys2Proof.Machine.execStry c w s
  | .srd c w => Sys2Proof.Machine.execSrd c w s
  | .dma c w => Sys2Proof.Machine.execDma c w s
  | .coll c w => Sys2Proof.Machine.execColl c w s
  | .upd c w => Sys2Proof.Machine.execUpd c w s
  | .blk c w => Sys2Proof.Machine.execBlk c w s
  | .endTask c w => Sys2Proof.Machine.execEndTask c w s
  | .semaphoreWaitGrant n sem => Sys2Proof.Machine.execSemaphoreWaitGrant n sem s
  | .issueQueueRoom c q => Sys2Proof.Machine.execIssueQueueRoom c q s
  | .arrayLastKStep c arr => Sys2Proof.Machine.execArrayLastKStep c arr s
  | .arrayDrainComplete c arr => Sys2Proof.Machine.execArrayDrainComplete c arr s
  | .shadowRecompute c => Sys2Proof.Machine.execShadowRecompute c s
  | .jitQuantisePass c => Sys2Proof.Machine.execJitQuantisePass c s
  | .trackerMerge n => Sys2Proof.Machine.execTrackerMerge n s
  | .stepScalesFormed n replays => Sys2Proof.Machine.execStepScalesFormed n s replays
  | .dmaTransactionComplete c desc txn replays upsets => Sys2Proof.Machine.execDmaTransactionComplete c desc txn replays upsets s
  | .dmaDescriptorComplete c desc => Sys2Proof.Machine.execDmaDescriptorComplete c desc s
  | .remapLedgerCommit ctl => Sys2Proof.Machine.execRemapLedgerCommit ctl s
  | .scrubAccess t2 upsets => Sys2Proof.Machine.execScrubAccess t2 upsets s
  | .memFillComplete k => Sys2Proof.Machine.execMemFillComplete k s
  | .taskComplete c => Sys2Proof.Machine.execTaskComplete c s
  | .taskTake c replays => Sys2Proof.Machine.execTaskTake c s replays
  | .coreClockRestart c => Sys2Proof.Machine.execCoreClockRestart c s
  | .blockBoundExpiry c => Sys2Proof.Machine.execBlockBoundExpiry c s
  | .updDecisionRelease c replays => Sys2Proof.Machine.execUpdDecisionRelease c s replays
  | .runEnd n tag replays => Sys2Proof.Machine.execRunEnd n tag s replays
  | .commitWaveComplete n replays => Sys2Proof.Machine.execCommitWaveComplete n s replays
  | .grantReceive k replays => Sys2Proof.Machine.execGrantReceive k s replays
  | .collDataReceive k replays => Sys2Proof.Machine.execCollDataReceive k s replays
  | .shardEndReceive k replays => Sys2Proof.Machine.execShardEndReceive k s replays
  | .controlMessageReceive k => Sys2Proof.Machine.execControlMessageReceive k s
  | .collStageComplete id rail replays => Sys2Proof.Machine.execCollStageComplete id rail s replays
  | .collLocalComplete id => Sys2Proof.Machine.execCollLocalComplete id s
  | .collWatchdogExpiry id peer => Sys2Proof.Machine.execCollWatchdogExpiry id peer s
  | .abortReceive k => Sys2Proof.Machine.execAbortReceive k s
  | .tallyReceive k => Sys2Proof.Machine.execTallyReceive k s
  | .tallyTimer k => Sys2Proof.Machine.execTallyTimer k s
  | .faultReportTimer k => Sys2Proof.Machine.execFaultReportTimer s k
  | .faultReset => Sys2Proof.Machine.execFaultReset s
  | .dumpRegionComplete bytes => Sys2Proof.Machine.execDumpRegionComplete bytes s
  | .dumpRegionTimeout parity bytes => Sys2Proof.Machine.execDumpRegionTimeout parity bytes s
  | .dumpEnd written => Sys2Proof.Machine.execDumpEnd written s
  | .flitReceive p raw uncorr strand => Sys2Proof.Machine.execFlitReceive p raw s uncorr strand
  | .nakReceive p f => Sys2Proof.Machine.execNakReceive p f s
  | .ackTimeout p => Sys2Proof.Machine.execAckTimeout p s
  | .handover k => Sys2Proof.Machine.execHandover k s
  | .handoverTimeout p => Sys2Proof.Machine.execHandoverTimeout p s
  | .resetting k => Sys2Proof.Machine.execResetting k s
  | .laneSignalDetect p lanes => Sys2Proof.Machine.execLaneSignalDetect p lanes s
  | .lanesConverge p lanes => Sys2Proof.Machine.execLanesConverge p lanes s
  | .equaliseTimeout p => Sys2Proof.Machine.execEqualiseTimeout p s
  | .fecLock p rtt => Sys2Proof.Machine.execFecLock p rtt s
  | .alignTimeout p => Sys2Proof.Machine.execAlignTimeout p s
  | .exchange p x rtt => Sys2Proof.Machine.execExchange p x s rtt
  | .exchangeVerdictExpiry p => Sys2Proof.Machine.execExchangeVerdictExpiry p s
  | .laneFault p lane => Sys2Proof.Machine.execLaneFault p lane s
  | .degradeComplete p => Sys2Proof.Machine.execDegradeComplete p s
  | .degradeTimeout p => Sys2Proof.Machine.execDegradeTimeout p s
  | .codewordLossTimeout p uncorr => Sys2Proof.Machine.execCodewordLossTimeout p s uncorr
  | .downRetrainTimer p => Sys2Proof.Machine.execDownRetrainTimer p s
  | .failedRetryTimer p => Sys2Proof.Machine.execFailedRetryTimer p s
  | .sliceExpiry q => Sys2Proof.Machine.execSliceExpiry q s
  | .yieldIdleTimer q => Sys2Proof.Machine.execYieldIdleTimer q s
  | .preemptBoundaryReached q => Sys2Proof.Machine.execPreemptBoundaryReached q s
  | .saveComplete q replays => Sys2Proof.Machine.execSaveComplete q s replays
  | .restoreQuarterComplete q replays => Sys2Proof.Machine.execRestoreQuarterComplete q s replays
  | .drainMarkPass n p vc => Sys2Proof.Machine.execDrainMarkPass n p vc s
  | .retireTimeout n => Sys2Proof.Machine.execRetireTimeout n s
  | .retireComplete n => Sys2Proof.Machine.execRetireComplete n s
  | .qpConnectRequest qp port key mtu => Sys2Proof.Machine.execQpConnectRequest qp port key s mtu
  | .rdmaWrite qp rkey addr data replays => Sys2Proof.Machine.execRdmaWrite qp rkey addr data s replays
  | .rdmaRead qp rkey addr len upsets replays => Sys2Proof.Machine.execRdmaRead qp rkey addr len upsets s replays
  | .sqTail n v => Sys2Proof.Machine.execSqTail n v s
  | .cqHead n v => Sys2Proof.Machine.execCqHead n v s
  | .flagWrite n v => Sys2Proof.Machine.execFlagWrite n v s
  | .notify n v => Sys2Proof.Machine.execNotify n v s
  | .congestionExperiencedPacket qp => Sys2Proof.Machine.execCongestionExperiencedPacket qp s
  | .congestionNotificationPacket qp => Sys2Proof.Machine.execCongestionNotificationPacket qp s
  | .rateRiseTimer qp => Sys2Proof.Machine.execRateRiseTimer qp s
  | .commandStart n => Sys2Proof.Machine.execCommandStart n s
  | .completionPost n => Sys2Proof.Machine.execCompletionPost n s
  | .managementCommandDatagram port ip udp bytes => Sys2Proof.Machine.execManagementCommandDatagram port ip udp bytes s
  | .heartbeatTimer port => Sys2Proof.Machine.execHeartbeatTimer port s
  | .query n tag => Sys2Proof.Machine.execQuery n tag s
  | .ctxCreate tag => Sys2Proof.Machine.execCtxCreate tag s
  | .ctxDestroy tag => Sys2Proof.Machine.execCtxDestroy tag s
  | .memAlloc n tag => Sys2Proof.Machine.execMemAlloc n tag s
  | .memFree n tag => Sys2Proof.Machine.execMemFree n tag s
  | .quotaSet tag => Sys2Proof.Machine.execQuotaSet tag s
  | .loadPackage n tag head => Sys2Proof.Machine.execLoadPackage n tag head s
  | .packageCacheDrop n tag => Sys2Proof.Machine.execPackageCacheDrop n tag s
  | .packageChunkLand k data replays => Sys2Proof.Machine.execPackageChunkLand k data s replays
  | .loadComplete k => Sys2Proof.Machine.execLoadComplete k s
  | .cacheCopyComplete k ok replays => Sys2Proof.Machine.execCacheCopyComplete k ok s replays
  | .loadRaw n tag => Sys2Proof.Machine.execLoadRaw n tag s
  | .rawArrivalComplete k data replays => Sys2Proof.Machine.execRawArrivalComplete k data s replays
  | .quantiserPassComplete k replays => Sys2Proof.Machine.execQuantiserPassComplete k s replays
  | .lastSwitch n tag => Sys2Proof.Machine.execLastSwitch n tag s
  | .switchPoint => Sys2Proof.Machine.execSwitchPoint s
  | .programLoad n tag replays => Sys2Proof.Machine.execProgramLoad n tag s replays
  | .run n tag => Sys2Proof.Machine.execRun n tag s
  | .preemptSuspend tag => Sys2Proof.Machine.execPreemptSuspend tag s
  | .preemptResume tag => Sys2Proof.Machine.execPreemptResume tag s
  | .snapshot n tag => Sys2Proof.Machine.execSnapshot n tag s
  | .snapshotSend n tag => Sys2Proof.Machine.execSnapshotSend n tag s
  | .snapshotStopEnd n replays => Sys2Proof.Machine.execSnapshotStopEnd n s replays
  | .snapshotDrainComplete n replays => Sys2Proof.Machine.execSnapshotDrainComplete n s replays
  | .restore n tag => Sys2Proof.Machine.execRestore n tag s
  | .restoreSend n tag => Sys2Proof.Machine.execRestoreSend n tag s
  | .restoreReceive n tag => Sys2Proof.Machine.execRestoreReceive n tag s
  | .restoreInstallComplete n replays => Sys2Proof.Machine.execRestoreInstallComplete n s replays
  | .streamTimeout n => Sys2Proof.Machine.execStreamTimeout n s
  | .exportImg n tag => Sys2Proof.Machine.execExportImg n tag s
  | .importImg n tag => Sys2Proof.Machine.execImportImg n tag s
  | .wakeBudget tag => Sys2Proof.Machine.execWakeBudget tag s
  | .powerShape tag => Sys2Proof.Machine.execPowerShape tag s
  | .fwStage tag replays => Sys2Proof.Machine.execFwStage tag s replays
  | .fwActivate tag => Sys2Proof.Machine.execFwActivate tag s
  | .attest n tag => Sys2Proof.Machine.execAttest n tag s
  | .reshard n tag => Sys2Proof.Machine.execReshard n tag s
  | .joinGroup tag => Sys2Proof.Machine.execJoinGroup tag s
  | .leaveGroup tag => Sys2Proof.Machine.execLeaveGroup tag s
  | .fencePeer tag => Sys2Proof.Machine.execFencePeer tag s
  | .healthRead tag => Sys2Proof.Machine.execHealthRead tag s
  | .spareReserveHint tag => Sys2Proof.Machine.execSpareReserveHint tag s
  | .dumpRead tag => Sys2Proof.Machine.execDumpRead tag s
  | .enrolManagementKey port ip udp bytes => Sys2Proof.Machine.execEnrolManagementKey port ip udp bytes s
  | .enrolPackageKey port ip udp bytes => Sys2Proof.Machine.execEnrolPackageKey port ip udp bytes s
  | .revokePackageKey port ip udp bytes => Sys2Proof.Machine.execRevokePackageKey port ip udp bytes s
  | .lacePiece k => Sys2Proof.Machine.execLacePiece k s
  | .laceEnd k => Sys2Proof.Machine.execLaceEnd k s
  | .laceBitmap k => Sys2Proof.Machine.execLaceBitmap k s
  | .laceRepairPiece k => Sys2Proof.Machine.execLaceRepairPiece k s
  | .lacePieceDatagram port bytes => Sys2Proof.Machine.execLacePieceDatagram port bytes s
  | .laceBitmapTimer => Sys2Proof.Machine.execLaceBitmapTimer s
  | .supplySample vin iin => Sys2Proof.Machine.execSupplySample vin iin s
  | .sagRecovery => Sys2Proof.Machine.execSagRecovery s
  | .sagTimeout => Sys2Proof.Machine.execSagTimeout s
  | .holdupEnd => Sys2Proof.Machine.execHoldupEnd s
  | .inputValid => Sys2Proof.Machine.execInputValid s
  | .governorPeriod => Sys2Proof.Machine.execGovernorPeriod s
  | .thermalThrottleStep => Sys2Proof.Machine.execThermalThrottleStep s
  | .coolantReading inlet outlet dies => Sys2Proof.Machine.execCoolantReading inlet outlet dies s
  | .coolantLimitExpiry outlet => Sys2Proof.Machine.execCoolantLimitExpiry outlet s
  | .healthScoreTick => Sys2Proof.Machine.execHealthScoreTick s
  | .expulsionRequestRepeat => Sys2Proof.Machine.execExpulsionRequestRepeat s
  | .hintHoldExpiry => Sys2Proof.Machine.execHintHoldExpiry s
  | .idleTimerExpiry => Sys2Proof.Machine.execIdleTimerExpiry s
  | .restStateEnter => Sys2Proof.Machine.execRestStateEnter s
  | .wake => Sys2Proof.Machine.execWake s
  | .wakeComplete => Sys2Proof.Machine.execWakeComplete s
  | .coldBoot selfTestOk => Sys2Proof.Machine.execColdBoot selfTestOk s
  | .mrstNRelease => Sys2Proof.Machine.execMrstNRelease s
  | .cold o v => Sys2Proof.Machine.execCold o v s
  | .warm o v => Sys2Proof.Machine.execWarm o v s
  | .trainingComplete failedUnit => Sys2Proof.Machine.execTrainingComplete failedUnit s
  | .bringupFillComplete => Sys2Proof.Machine.execBringupFillComplete s
  | .startupTestComplete failed failedUnit => Sys2Proof.Machine.execStartupTestComplete failed failedUnit s
  | .moduleReady => Sys2Proof.Machine.execModuleReady s
  | .go o v => Sys2Proof.Machine.execGo o v s
  | .partialDrainExpiry => Sys2Proof.Machine.execPartialDrainExpiry s
  | .partialResetEnd => Sys2Proof.Machine.execPartialResetEnd s
  | .enable o p v => Sys2Proof.Machine.execEnable o p v s
  | .hold o p v => Sys2Proof.Machine.execHold o p v s
  | .retrain o p v => Sys2Proof.Machine.execRetrain o p v s
  | .lnkDirWrite o d v => Sys2Proof.Machine.execLnkDirWrite o d v s
  | .arm o v => Sys2Proof.Machine.execArm o v s
  | .readmit o v => Sys2Proof.Machine.execReadmit o v s
  | .hltPolicyWrite o v => Sys2Proof.Machine.execHltPolicyWrite o v s
  | .clkReq o v => Sys2Proof.Machine.execClkReq o v s
  | .ctxJobSeedWrite o n v => Sys2Proof.Machine.execCtxJobSeedWrite o n v s
  | .clrCount o n v => Sys2Proof.Machine.execClrCount o n v s
  | .ctxShadowCountClr o n v => Sys2Proof.Machine.execCtxShadowCountClr o n v s
  | .ctxRescaleCountClr o n v => Sys2Proof.Machine.execCtxRescaleCountClr o n v s
  | .ctxTaskCountClr o n v => Sys2Proof.Machine.execCtxTaskCountClr o n v s
  | .ctxUpdateCountClr o n v => Sys2Proof.Machine.execCtxUpdateCountClr o n v s
  | .ctxCollCountClr o n v => Sys2Proof.Machine.execCtxCollCountClr o n v s
  | .ctxAcctCtlClr o n v => Sys2Proof.Machine.execCtxAcctCtlClr o n v s
  | .memEccClr o t2 v => Sys2Proof.Machine.execMemEccClr o t2 v s
  | .lnkDropClr o v => Sys2Proof.Machine.execLnkDropClr o v s
  | .lnkErrClr o p v => Sys2Proof.Machine.execLnkErrClr o p v s
  | .mbxErrClr o v => Sys2Proof.Machine.execMbxErrClr o v s
  | .mbxMgmtClr o port v => Sys2Proof.Machine.execMbxMgmtClr o port v s
  | .clrVmin o v => Sys2Proof.Machine.execClrVmin o v s
  | .pwrEventsClr o v => Sys2Proof.Machine.execPwrEventsClr o v s
  | .registerWrite o addr size v => Sys2Proof.Machine.execRegisterWrite o addr size v s
  | .flitSlot p => Sys2Proof.Machine.execFlitSlot p s
  | .degradeMarkerReceive p lane => Sys2Proof.Machine.execDegradeMarkerReceive p lane s
  | .ethernetLinkUpDown mgmt n up => Sys2Proof.Machine.execEthernetLinkUpDown mgmt n up s
  | .backupCellFlat => Sys2Proof.Machine.execBackupCellFlat s
  | .joinGroupTimeout => Sys2Proof.Machine.execJoinGroupTimeout s
  | .vectorUpdateInstructionComplete c replays => Sys2Proof.Machine.execVectorUpdateInstructionComplete c s replays
  | .remoteAldAstComplete c k replays => Sys2Proof.Machine.execRemoteAldAstComplete c k s replays
  | .exportImportComplete n replays => Sys2Proof.Machine.execExportImportComplete n s replays
  | .fwStageWriteComplete replays => Sys2Proof.Machine.execFwStageWriteComplete s replays
  | .dumpReadComplete replays => Sys2Proof.Machine.execDumpReadComplete s replays
  | .streamSendComplete n replays => Sys2Proof.Machine.execStreamSendComplete n s replays

end Sys2Proof.Machine
end

