-- ==== Sys2Proof/Safety.lean ====
section
/-!
DEFINITION. What counts as a safe run: no command stops the module, and what the spec says of the whole supply and clock part
holds in every state of the run (16 R428, R431, R434, R441, R442).
-/

namespace Sys2Proof.Machine

open Sys2Proof

/-- The array clock is a point of the clock-voltage curve: from the floor clock to the fused maximum, every 50 MHz (16 R428). -/
def clkPoint (clk : Nat) : Prop := clkFloor ≤ clk ∧ clk ≤ clkMax ∧ clk % 50 = 0

/-- What holds of the supply record in every state: the clock, the point whose voltage the cores have and every limit on the clock are points of
the curve, the voltage is never below what the clock needs, the clock of a rest state is the floor clock, the supply state and the rest state are
among those that the spec names, and the fields that a register shows keep their ranges (16 R424, R426, R428, R429, R431, R434, R435, R441,
R442). -/
structure Pwr.Ok (p : Pwr) : Prop where
  clk : clkPoint p.clk
  vpt : clkPoint p.vpt
  lead : p.clk ≤ p.vpt
  still : p.rest ≠ 0 → p.clk = clkFloor
  cap : ∀ c, p.thermalCap = some c → clkPoint c
  req : p.clkReq = 0 ∨ clkPoint p.clkReq
  sup : p.sup ≤ 3
  rest : p.rest ≤ 4
  entering : ∀ k, p.entering = some k → 1 ≤ k ∧ k ≤ 4
  waking : ∀ k, p.waking = some k → k ≤ 4
  hist : p.hist ≤ 16
  idle : 1 ≤ p.idleMs ∧ p.idleMs ≤ 1000

/-- What holds of the health record in every state: the score and the state are those of 14 R381 and R386. -/
structure Hlt.Ok (h : Hlt) : Prop where
  score : h.score ≤ 1000
  hstate : h.hstate ≤ 2

/-- What holds of the bring-up record in every state: bring-up stands in one of its phases (17 R448 to R451, R461), with a reset
kind and a count of restarts that the spec knows (17 R451, R458), and the ledger keeps such a count (17 R457). -/
structure Rst.Ok (r : Rst) : Prop where
  phase : r.phase ≤ 6 ∨ r.phase = 15
  kind : r.kind ≤ 3
  retries : r.retries ≤ 3
  kept : r.ledger.getD 7 0 ≤ 3

/-- What holds of the module in every state: memory has its canonical form, and the supply, health and bring-up records are as
they must be. -/
structure State.Ok (s : State) : Prop where
  mem : Memory.wf s.mem = true
  pwr : s.pwr.Ok
  hlt : s.hlt.Ok
  rst : s.rst.Ok

/-- A safe step: it answers a next state in which all of this holds. -/
def SafeStep (s : State) : Prop := ∃ t, step s = .next t ∧ t.Ok

/-! ## The terms that statements use -/

/-- Core `c` stands at the instruction `word`, and its sequencer may hand it out (04 R499, 05 R117). -/
structure AtInsn (s : State) (c : Nat) (word : BitVec 64) : Prop where
  may : s.mayIssue c = true
  here : (s.core c).code[(s.core c).pc]? = some word

/-- No load still outstanding writes one of the A registers `regs`, and no earlier work of the core holds what the
instruction reads and writes (04 R98, 05 R149). -/
structure Free (s : State) (c : Nat) (regs : List Nat) (reads writes : List Res) : Prop where
  regs : (s.core c).regHeld regs = false
  work : (s.core c).heldBy (s.core c).nextSeq reads writes = false

/-- Every unused field of a word with a second operand is 0: IMM where I = 0, B where I = 1 (05 R115, R116). -/
def OpndForm (w : SF) : Prop := (w.i = 1#1 → w.b = 0#5) ∧ (w.i ≠ 1#1 → w.imm = 0#32)

/-- The second operand: A[B], or IMM sign-extended to 64 bits where I = 1 (05 R115). -/
def opndOf (w : SF) (k : Core) : BitVec 64 := if w.i = 1#1 then w.imm.signExtend 64 else k.ra w.b.toNat

/-- The A registers that the second operand reads. -/
def opndReads (w : SF) : List Nat := if w.i = 1#1 then [] else [w.b.toNat]

/-- The command runs to its end and answers this next state. -/
def Answers (i : Instr) (s t : State) : Prop := exec i s = .next t

/-- No stored word is in error, no injection is armed and no partial reset runs, so that every access meets good words
(09 R226, R241, 17 R456). -/
structure CleanStore (s : State) : Prop where
  bad : s.ecc.bad = []
  arm : s.ecc.injArmed = false
  rst : s.rst.busy = false

/-- The issue queues of a core are empty and none of its work is outstanding (04 R98, R499). -/
structure IdleCore (k : Core) : Prop where
  vq : k.vq = []
  mq0 : k.mq0 = []
  mq1 : k.mq1 = []
  dq : k.dq = []
  remote : k.remote = []
  dma : k.dma = []
  latch0 : k.latch0 = false
  latch1 : k.latch1 = false

/-- No core waits on semaphore `i` of context `n` (05 R144). -/
def NoWaiter (s : State) (n i : Nat) : Prop := ∀ x, s.waitsOn n i x = none

/-- A core that has just handed an instruction to its empty queue 2: the entry, and the place after it. -/
def Core.handed (k : Core) (word : BitVec 64) (w : Work) (reads writes : List Res) (phase : Nat) : Core :=
  { k with vq := [{ seq := k.nextSeq, pc := k.pc, word := word, work := w, reads := reads, writes := writes, phase := phase }],
           pc := k.pc + 1, afterBlk := false, nextSeq := k.nextSeq + 1 }

/-- The exact value of a decoded number; 0 for what is no finite number (02 R24). -/
def Num.val : Num → Rat
  | .fin neg m e => (if neg then -1 else 1) * m * (2 : Rat) ^ e
  | _ => 0

/-- A finite number (02 R24). -/
def Num.Finite (x : Num) : Prop := ∃ neg m e, x = .fin neg m e

/-- The FP32 result of an exact value: rounded once to nearest, ties to even, subnormals kept; beyond the range an infinity with OVF. An exact
zero has the sign given, and a result that rounds to zero the sign of the value (02 R39). -/
structure NearestEven (v : ℝ) (zeroNeg : Prop) (r : F32 × Ev) : Prop where
  finite : |v| < 2 ^ 128 - 2 ^ 103 → (f32 r.1).Finite ∧ r.2 = {}
  sign : |v| < 2 ^ 128 - 2 ^ 103 → (r.1.msb = true ↔ v < 0 ∨ (v = 0 ∧ zeroNeg))
  nearest : |v| < 2 ^ 128 - 2 ^ 103 → ∀ y, (f32 y).Finite → |((f32 r.1).val : ℝ) - v| ≤ |((f32 y).val : ℝ) - v|
  even : |v| < 2 ^ 128 - 2 ^ 103 → ∀ y, (f32 y).Finite → |((f32 r.1).val : ℝ) - v| = |((f32 y).val : ℝ) - v| →
    (f32 y).val = (f32 r.1).val ∨ r.1.toNat % 2 = 0
  beyond : 2 ^ 128 - 2 ^ 103 ≤ |v| → r.2 = { ovf := true } ∧ (v < 0 → r.1 = f32Inf true) ∧ (0 < v → r.1 = f32Inf false)

/-- Lane `i` after `d` halvings of 256 lanes: at width `2 ^ (7 - d)` a lane takes the lane that stands so far above it (05 R135). -/
def halved (op : F32 → F32 → F32) (lane : Nat → F32) : Nat → Nat → F32
  | 0, i => lane i
  | d + 1, i => op (halved op lane d i) (halved op lane d (i + 2 ^ (7 - d)))

/-- `E(v)` of 02 R42: the exponent of a magnitude, limited below at -126. -/
def accExponent (v : Rat) : Int := if v = 0 then -126 else max (Int.log 2 |v|) (-126)

/-- The accumulators of a chain of products, from the first (02 R43). -/
def accChain (a : F32) : List Num → List F32
  | [] => [a]
  | p :: ps => a :: accChain (accNum (f32 a) p).1 ps

/-- The row of a command finds it: the module is live, and `c` is the context's first command with this opcode and tag whose
row has not run (13 R352). -/
structure Begins (s : State) (n op : Nat) (tag : BitVec 16) (c : Cmd) : Prop where
  live : s.live = true
  cmd : s.cmd? n op tag false = some c

/-- The newest completion of a context is of this command, with this status and these results (13 R354). -/
def Done (t : State) (n op : Nat) (tag : BitVec 16) (status r0 r1 : Nat) : Prop :=
  ∃ e, (t.ctx n).host.comps.getLast? = some e ∧ e.opcode = op ∧ e.tag = tag ∧ e.status = status ∧ e.res0 = BitVec.ofNat 64 r0 ∧
    e.res1 = BitVec.ofNat 64 r1

/-- The command runs to its end with this status and these results, and leaves the bytes of memory as they were. -/
def EndsWith (i : Instr) (s : State) (n op : Nat) (tag : BitVec 16) (status r0 r1 : Nat) : Prop :=
  ∃ t, Answers i s t ∧ Done t n op tag status r0 r1 ∧ t.mem = s.mem

/-- Only context `n` changes, to `k`. -/
structure CtxOnly (s t : State) (n : Nat) (k : Ctx) : Prop where
  here : t.ctx n = k
  others : ∀ m, m ≠ n → t.ctx m = s.ctx m
  rest : t = { s with ctxs := t.ctxs }

/-- The command runs to its end, and only context `n` changes, to `k`. -/
def AnswersCtx (i : Instr) (s : State) (n : Nat) (k : Ctx) : Prop := ∃ t, Answers i s t ∧ CtxOnly s t n k

/-- Only port `p` changes, to `k`, but for what goes out. -/
structure PortOnly (s t : State) (p : Nat) (k : Port) : Prop where
  here : t.port p = k
  others : ∀ q, q ≠ p → t.port q = s.port q
  rest : t = { s with ports := t.ports, out := t.out }

/-- The command runs to its end, nothing goes out, and only port `p` changes, to `k`. -/
def AnswersPort (i : Instr) (s : State) (p : Nat) (k : Port) : Prop := ∃ t, Answers i s t ∧ PortOnly s t p k ∧ t.out = s.out

end Sys2Proof.Machine
end

