-- ==== Sys2Proof/Certificates/Slice0/Obligations.lean ====
section
/-! DEFINITION. The statements for the provers, each with the rules of the spec that it formalises. -/

open Sys2Proof Sys2Proof.Machine

/-- The step runs the front command on the state whose queue is the rest; an empty queue idles. The queue is the model's
choice (log 1). -/
def Obligations.StepRunsFrontCommand : Prop :=
  (∀ (i : Instr) (rest : List Instr) (s : State), step { s with pending := i :: rest } = exec i { s with pending := rest }) ∧
  (∀ s : State, s.pending = [] → step s = .next s)

/-- The scalar register instructions (05 R125), each with its whole next state. `aluResult` and `acmpResult` are fixed by the
statement AluAndCompareValues. -/
def Obligations.ScalarRegisterResults : Prop :=
  ∀ (c : CoreId) (w : SF) (s : State), let k := s.core c.val
    (w = ⟨0, 0, 0, 0, 0, 0⟩ → AtInsn s c.val (encodeS 0x00#8 w) →
      Answers (.nop c w) s (s.setCore c.val { k with pc := k.pc + 1, afterBlk := false })) ∧
    (w.fn.toNat ≤ 11 → OpndForm w → (w.fn = 11 → w.a = 0) → AtInsn s c.val (encodeS 0x08#8 w) →
      Free s c.val ([w.d.toNat, w.a.toNat] ++ opndReads w) [] [] →
      Answers (.alu c w) s (s.setCore c.val { k with
        a := SMap.set 0 k.a w.d.toNat (aluResult w.fn.toNat (k.ra w.a.toNat) (opndOf w k)), pc := k.pc + 1, afterBlk := false })) ∧
    (w = ⟨0, w.d, 0, 0, 0, w.imm⟩ → AtInsn s c.val (encodeS 0x09#8 w) → Free s c.val [w.d.toNat] [] [] →
      Answers (.alih c w) s (s.setCore c.val { k with
        a := SMap.set 0 k.a w.d.toNat (w.imm ++ (k.ra w.d.toNat).setWidth 32), pc := k.pc + 1, afterBlk := false })) ∧
    (w.fn.toNat ≤ 5 → OpndForm w → w.d.toNat < 8 → AtInsn s c.val (encodeS 0x0A#8 w) →
      Free s c.val (w.a.toNat :: opndReads w) [] [.freg w.d.toNat] →
      Answers (.acmp c w) s (s.setCore c.val { k with
        f := SMap.set false k.f w.d.toNat (acmpResult w.fn.toNat (k.ra w.a.toNat) (opndOf w k)), pc := k.pc + 1, afterBlk := false })) ∧
    (w.fn = 0 → w.a = 0 → OpndForm w → w.d.toNat < 8 → AtInsn s c.val (encodeS 0x0D#8 w) → Free s c.val (opndReads w) [] [] →
      Answers (.lset c w) s (s.setCore c.val { k with
        l := SMap.set 0 k.l w.d.toNat ((opndOf w k).setWidth 32), pc := k.pc + 1, afterBlk := false })) ∧
    (w = ⟨0, w.d, w.a, 0, 0, 0⟩ → w.a.toNat < 8 → AtInsn s c.val (encodeS 0x0E#8 w) → Free s c.val [w.d.toNat] [] [] →
      Answers (.lget c w) s (s.setCore c.val { k with
        a := SMap.set 0 k.a w.d.toNat ((k.rl w.a.toNat).setWidth 64), pc := k.pc + 1, afterBlk := false })) ∧
    (∀ b : Bool, w = ⟨0, w.d, 0, 0, 0, if b then 1 else 0⟩ → w.d.toNat < 8 → AtInsn s c.val (encodeS 0x0F#8 w) →
      Free s c.val [] [] [.freg w.d.toNat] →
      Answers (.fset c w) s (s.setCore c.val { k with f := SMap.set false k.f w.d.toNat b, pc := k.pc + 1, afterBlk := false })) ∧
    (w = ⟨0, w.d, w.a, 0, 0, 0⟩ → w.d.toNat < 16 → tileOk (k.ra w.a.toNat) = true → AtInsn s c.val (encodeS 0x10#8 w) →
      Free s c.val [w.a.toNat] [] [] →
      Answers (.tset c w) s (s.setCore c.val { k with
        t := SMap.set 0 k.t w.d.toNat (k.ra w.a.toNat), pc := k.pc + 1, afterBlk := false })) ∧
    (w = ⟨0, w.d, w.a, 0, 0, 0⟩ → w.a.toNat < 16 → AtInsn s c.val (encodeS 0x11#8 w) → Free s c.val [w.d.toNat] [] [] →
      Answers (.tget c w) s (s.setCore c.val { k with
        a := SMap.set 0 k.a w.d.toNat (k.rt w.a.toNat), pc := k.pc + 1, afterBlk := false })) ∧
    (∀ v : Nat, w = ⟨0, w.d, w.a, 0, 0, w.imm⟩ → w.d.toNat < 16 → ((k.ra w.a.toNat).toNat : Int) + w.imm.toInt = v →
      v < 2 ^ 23 → v % 32 = 0 → tFmt (k.rt w.d.toNat) ≠ 0 → AtInsn s c.val (encodeS 0x12#8 w) → Free s c.val [w.a.toNat] [] [] →
      Answers (.toff c w) s (s.setCore c.val { k with
        t := SMap.set 0 k.t w.d.toNat (setField (k.rt w.d.toNat) 0 23 v), pc := k.pc + 1, afterBlk := false })) ∧
    (∀ v : Nat, w = ⟨0, w.d, w.a, 0, 0, w.imm⟩ → w.d.toNat < 16 → ((k.ra w.a.toNat).toNat : Int) + w.imm.toInt = v →
      v < 2048 → tFmt (k.rt w.d.toNat) ≠ 0 → AtInsn s c.val (encodeS 0x13#8 w) → Free s c.val [w.a.toNat] [] [] →
      Answers (.tsb c w) s (s.setCore c.val { k with
        t := SMap.set 0 k.t w.d.toNat (setField (k.rt w.d.toNat) 26 11 v), pc := k.pc + 1, afterBlk := false }))

/-- ALU by FN (05 R125), in integers: signed values through `toInt`, unsigned through `toNat`. The comparisons of ACMP (05 R125) and the conditions of BRA (05 R126), in integers. -/
def Obligations.AluAndCompareValues : Prop :=
  (∀ a b : BitVec 64,
     (aluResult 0 a b).toNat = (a.toNat + b.toNat) % 2 ^ 64 ∧
     (aluResult 1 a b).toNat = (a.toNat + (2 ^ 64 - b.toNat)) % 2 ^ 64 ∧
     (aluResult 2 a b).toNat = a.toNat * b.toNat % 2 ^ 64 ∧
     (∀ i, i < 64 → (aluResult 3 a b).getLsbD i = (a.getLsbD i && b.getLsbD i)) ∧
     (∀ i, i < 64 → (aluResult 4 a b).getLsbD i = (a.getLsbD i || b.getLsbD i)) ∧
     (∀ i, i < 64 → (aluResult 5 a b).getLsbD i = (a.getLsbD i ^^ b.getLsbD i)) ∧
     (aluResult 6 a b).toNat = a.toNat * 2 ^ (b.toNat % 64) % 2 ^ 64 ∧
     (aluResult 7 a b).toNat = a.toNat / 2 ^ (b.toNat % 64) ∧
     (aluResult 8 a b).toInt = a.toInt / (2 ^ (b.toNat % 64) : Int) ∧
     (aluResult 9 a b).toInt = min a.toInt b.toInt ∧
     (aluResult 10 a b).toInt = max a.toInt b.toInt ∧
     aluResult 11 a b = b) ∧
  (∀ a b : BitVec 64,
     (acmpResult 0 a b = true ↔ a.toNat = b.toNat) ∧ (acmpResult 1 a b = true ↔ a.toNat ≠ b.toNat) ∧
     (acmpResult 2 a b = true ↔ a.toInt < b.toInt) ∧ (acmpResult 3 a b = true ↔ b.toInt ≤ a.toInt) ∧
     (acmpResult 4 a b = true ↔ a.toNat < b.toNat) ∧ (acmpResult 5 a b = true ↔ b.toNat ≤ a.toNat) ∧
     (braTaken 0 a = true ↔ a.toInt = 0) ∧ (braTaken 1 a = true ↔ a.toInt ≠ 0) ∧
     (braTaken 2 a = true ↔ a.toInt < 0) ∧ (braTaken 3 a = true ↔ 0 ≤ a.toInt))

/-- Branches (05 R126): the target is the branch's own word plus the signed IMM. -/
def Obligations.BranchesGoWhereR126Says : Prop :=
  ∀ (c : CoreId) (w : SF) (s : State), let k := s.core c.val
    (∀ t : Nat, (k.pc : Int) + w.imm.toInt = t → t < k.code.length →
      (w = ⟨0, 0, 0, 0, 0, w.imm⟩ → AtInsn s c.val (encodeS 0x04#8 w) →
        Answers (.br c w) s (s.setCore c.val { k with pc := t, afterBlk := false })) ∧
      (w = ⟨w.fn, 0, w.a, 0, 0, w.imm⟩ → w.fn.toNat ≤ 3 → AtInsn s c.val (encodeS 0x05#8 w) → Free s c.val [w.a.toNat] [] [] →
        Answers (.bra c w) s (s.setCore c.val { k with
          pc := if braTaken w.fn.toNat (k.ra w.a.toNat) = true then t else k.pc + 1, afterBlk := false })) ∧
      (w = ⟨w.fn, w.d, 0, 0, 0, w.imm⟩ → w.fn.toNat ≤ 1 → w.d.toNat < 8 → AtInsn s c.val (encodeS 0x06#8 w) →
        Free s c.val [] [.freg w.d.toNat] [] →
        Answers (.brf c w) s (s.setCore c.val { k with
          pc := if k.rf w.d.toNat = decide (w.fn = 1) then t else k.pc + 1, afterBlk := false })) ∧
      (w = ⟨0, w.d, 0, 0, 0, w.imm⟩ → w.d.toNat < 8 → AtInsn s c.val (encodeS 0x07#8 w) →
        (k.rl w.d.toNat = 0 → Answers (.loop c w) s (s.setCore c.val { k with pc := k.pc + 1, afterBlk := false })) ∧
        (k.rl w.d.toNat ≠ 0 → Answers (.loop c w) s (s.setCore c.val { k with
          l := SMap.set 0 k.l w.d.toNat (k.rl w.d.toNat - 1),
          pc := if k.rl w.d.toNat - 1 ≠ 0 then t else k.pc + 1, afterBlk := false })))) ∧
    ((k.pc : Int) + w.imm.toInt < 0 ∨ (k.code.length : Int) ≤ (k.pc : Int) + w.imm.toInt →
      (w = ⟨0, 0, 0, 0, 0, w.imm⟩ → AtInsn s c.val (encodeS 0x04#8 w) → Answers (.br c w) s (s.insnFault c.val)) ∧
      (w = ⟨w.fn, 0, w.a, 0, 0, w.imm⟩ → w.fn.toNat ≤ 3 → AtInsn s c.val (encodeS 0x05#8 w) → Free s c.val [w.a.toNat] [] [] →
        Answers (.bra c w) s (s.insnFault c.val)) ∧
      (w = ⟨w.fn, w.d, 0, 0, 0, w.imm⟩ → w.fn.toNat ≤ 1 → w.d.toNat < 8 → AtInsn s c.val (encodeS 0x06#8 w) →
        Free s c.val [] [.freg w.d.toNat] [] → Answers (.brf c w) s (s.insnFault c.val)) ∧
      (w = ⟨0, w.d, 0, 0, 0, w.imm⟩ → w.d.toNat < 8 → AtInsn s c.val (encodeS 0x07#8 w) → Answers (.loop c w) s (s.insnFault c.val)))

/-- The fields that TOFF and TSB replace (05 R119, R125). ALD and AST (05 R127, R149). The address is A[A] + IMM modulo 2^64. -/
def Obligations.TileFieldsAndRegisterAccesses : Prop :=
  (∀ (t : BitVec 64) (v : Nat),
     (v < 2 ^ 23 → tOffset (setField t 0 23 v) = v ∧ ∀ i, 23 ≤ i → (setField t 0 23 v).getLsbD i = t.getLsbD i) ∧
     (v < 2048 → tSbase (setField t 26 11 v) = v ∧ ∀ i, (i < 26 ∨ 37 ≤ i) → (setField t 26 11 v).getLsbD i = t.getLsbD i)) ∧
  (∀ (c : CoreId) (w : SF) (s : State), let k := s.core c.val
     let addr := (k.ra w.a.toNat + w.imm.signExtend 64).toNat
     (w = ⟨0, w.d, w.a, 0, 0, w.imm⟩ → AtInsn s c.val (encodeS 0x0B#8 w) → Free s c.val [w.a.toNat, w.d.toNat] [] [] →
       (∀ off, off % 8 = 0 → off + 8 ≤ 0x600000 → (addr = c.val * 0x800000 + off ∨ addr = 0xE00000000000 + off) →
         s.coreExists c.val = true → CleanStore s → Free s c.val [] [.store off 8] [] →
         Answers (.ald c w) s (s.setCore c.val { k with
           a := SMap.set 0 k.a w.d.toNat (BitVec.ofNat 64 (leNat (Mem.read s.mem (c.val * 0x800000 + off) 8))),
           pc := k.pc + 1, afterBlk := false })) ∧
       (∀ x, addr % 8 = 0 → s.reach c.val addr 8 false true = some x → s.localAddr c.val x = false →
         Answers (.ald c w) s (s.setCore c.val { k with
           remote := k.remote ++ [{ load := true, reg := w.d.toNat, addr := x, value := 0, seq := k.nextSeq }],
           nextSeq := k.nextSeq + 1, pc := k.pc + 1, afterBlk := false })) ∧
       (addr % 8 ≠ 0 → Answers (.ald c w) s (s.insnFault c.val))) ∧
     (w = ⟨0, 0, w.a, w.b, 0, w.imm⟩ → AtInsn s c.val (encodeS 0x0C#8 w) → Free s c.val [w.a.toNat, w.b.toNat] [] [] →
       (∀ off, off % 8 = 0 → off + 8 ≤ 0x600000 → (addr = c.val * 0x800000 + off ∨ addr = 0xE00000000000 + off) →
         s.coreExists c.val = true → CleanStore s → Free s c.val [] [] [.store off 8] →
         ∃ t, Answers (.ast c w) s t ∧ t = { s.setCore c.val { k with pc := k.pc + 1, afterBlk := false } with mem := t.mem } ∧
           Mem.read t.mem (c.val * 0x800000 + off) 8 = natLe 8 (k.ra w.b.toNat).toNat ∧
           ∀ x, (x < c.val * 0x800000 + off ∨ c.val * 0x800000 + off + 8 ≤ x) → Mem.byte t.mem x = Mem.byte s.mem x) ∧
       (∀ x, addr % 8 = 0 → s.reach c.val addr 8 true false = some x → s.localAddr c.val x = false →
         Answers (.ast c w) s (s.setCore c.val { k with
           remote := k.remote ++ [{ load := false, reg := 0, addr := x, value := k.ra w.b.toNat, seq := k.nextSeq }],
           nextSeq := k.nextSeq + 1, pc := k.pc + 1, afterBlk := false })) ∧
       (addr % 8 ≠ 0 → Answers (.ast c w) s (s.insnFault c.val))))

/-- Instructions that raise FC_ILLEGAL (05 R116, R117), when no fatal fault is latched. -/
def Obligations.IllegalInstructionsOnlyFault : Prop :=
  (∀ (s : State) (c : Nat), s.flt.active = false → let t := s.insnFault c
    let k := s.core c
    t.core c = { k with halted := true } ∧ (∀ x, x ≠ c → t.core x = s.core x) ∧ t.mem = s.mem ∧ t.ctxs = s.ctxs ∧
    t.flt.active = true ∧ t.hlt.nextSeq = s.hlt.nextSeq + 1 ∧
    (let r := t.record s.hlt.nextSeq
     r.cls = 0x106 ∧ r.valid = true ∧ r.secondary = false ∧ r.insn = true ∧ r.coreValid = true ∧ r.ctx = k.ctx.getD 31 ∧
     r.core = c ∧ r.word = k.pc ∧ r.task = k.taskId ∧ r.instr = k.code.getD k.pc 0)) ∧
  (∀ (i : Instr) (c : CoreId) (s : State), s.mayIssue c.val = true →
    (∀ w, (s.core c.val).code[(s.core c.val).pc]? = some w → opcodeDefined (w.extractLsb' 56 8) = false →
      (∃ f : SF, i = .nop c f ∨ i = .alu c f ∨ i = .br c f ∨ i = .endTask c f) → Answers i s (s.insnFault c.val))) ∧
  (∀ (c : CoreId) (w : SF) (s : State),
    (w ≠ ⟨0, 0, 0, 0, 0, 0⟩ → AtInsn s c.val (encodeS 0x00#8 w) → Answers (.nop c w) s (s.insnFault c.val)) ∧
    (11 < w.fn.toNat → AtInsn s c.val (encodeS 0x08#8 w) → Answers (.alu c w) s (s.insnFault c.val)) ∧
    (w.i = 1 → w.b ≠ 0 → AtInsn s c.val (encodeS 0x08#8 w) → Answers (.alu c w) s (s.insnFault c.val)) ∧
    (8 ≤ w.d.toNat → AtInsn s c.val (encodeS 0x0A#8 w) → Answers (.acmp c w) s (s.insnFault c.val)) ∧
    (8 ≤ w.d.toNat → AtInsn s c.val (encodeS 0x0D#8 w) → Answers (.lset c w) s (s.insnFault c.val)) ∧
    (8 ≤ w.a.toNat → AtInsn s c.val (encodeS 0x0E#8 w) → Answers (.lget c w) s (s.insnFault c.val)) ∧
    (1 < w.imm.toNat → AtInsn s c.val (encodeS 0x0F#8 w) → Answers (.fset c w) s (s.insnFault c.val)) ∧
    (16 ≤ w.d.toNat → AtInsn s c.val (encodeS 0x10#8 w) → Answers (.tset c w) s (s.insnFault c.val)) ∧
    (w = ⟨0, w.d, w.a, 0, 0, 0⟩ → w.d.toNat < 16 → AtInsn s c.val (encodeS 0x10#8 w) → Free s c.val [w.a.toNat] [] [] →
      (let v := (s.core c.val).ra w.a.toNat
       tFmt v = 0 ∨ tFmt v = 7 ∨ tOrder v = 3 ∨ tOffset v % 32 ≠ 0 ∨ 2 ^ 55 ≤ v.toNat) →
      Answers (.tset c w) s (s.insnFault c.val)) ∧
    (256 ≤ w.imm.toNat → AtInsn s c.val (encodeS 0x31#8 w) → Answers (.sinc c w) s (s.insnFault c.val)) ∧
    (w.fn.toNat % 8 = 7 → AtInsn s c.val (encodeS 0x01#8 w) → Answers (.blk c w) s (s.insnFault c.val)))

/-- The semaphore instructions and the grant of a wait (05 R144, R145). BLK, LAYER and END (05 R121, R143). -/
def Obligations.SemaphoresBlocksLayersAndEnd : Prop :=
  (∀ (c : CoreId) (n : CtxN) (w : SF) (s : State), let k := s.core c.val
     let amount := (k.ra w.a.toNat).setWidth 32
     let sem := w.imm.toNat
     k.ctx = some n.val → w.imm.toNat < 256 →
     (w = ⟨0, 0, w.a, 0, 0, w.imm⟩ → AtInsn s c.val (encodeS 0x31#8 w) → IdleCore k → k.layer = none →
       ((s.sem n.val sem).toNat + amount.toNat < 2 ^ 32 → Answers (.sinc c w) s
         ((s.setCore c.val { k with pc := k.pc + 1, afterBlk := false, nextSeq := k.nextSeq + 1 }).setSem n.val sem
           (s.sem n.val sem + amount))) ∧
       (2 ^ 32 ≤ (s.sem n.val sem).toNat + amount.toNat → ∃ t, Answers (.sinc c w) s t ∧ t.sem n.val sem = s.sem n.val sem ∧
         t.flt.active = true)) ∧
     (w = ⟨w.fn, 0, w.a, 0, 0, w.imm⟩ → w.fn.toNat ≤ 1 → AtInsn s c.val (encodeS 0x32#8 w) → IdleCore k →
       (amount ≠ 0 → Answers (.swait c w) s (s.setCore c.val { k with
         pc := k.pc + 1, afterBlk := false, nextSeq := k.nextSeq + 1, wait := some { sem := sem, amount := amount, dec := decide (w.fn = 1), blk := false, cls := 0, word := 0 } })) ∧
       (amount = 0 → Answers (.swait c w) s (s.setCore c.val { k with pc := k.pc + 1, afterBlk := false, nextSeq := k.nextSeq + 1, wait := none }))) ∧
     (w = ⟨0, w.d, w.a, 0, 0, w.imm⟩ → w.d.toNat < 8 → AtInsn s c.val (encodeS 0x33#8 w) → IdleCore k →
       NoWaiter s n.val sem → k.layer = none →
       (amount.toNat ≤ (s.sem n.val sem).toNat → Answers (.stry c w) s
         ((s.setSem n.val sem (s.sem n.val sem - amount)).setCore c.val { k with
           f := SMap.set false k.f w.d.toNat true, pc := k.pc + 1, afterBlk := false, nextSeq := k.nextSeq + 1 })) ∧
       ((s.sem n.val sem).toNat < amount.toNat → Answers (.stry c w) s
         (s.setCore c.val { k with f := SMap.set false k.f w.d.toNat false, pc := k.pc + 1, afterBlk := false, nextSeq := k.nextSeq + 1 }))) ∧
     (w = ⟨0, w.d, 0, 0, 0, w.imm⟩ → AtInsn s c.val (encodeS 0x34#8 w) → IdleCore k → NoWaiter s n.val sem →
       Answers (.srd c w) s (s.setCore c.val { k with
         a := SMap.set 0 k.a w.d.toNat ((s.sem n.val sem).setWidth 64), pc := k.pc + 1, afterBlk := false, nextSeq := k.nextSeq + 1 })) ∧
     (w = ⟨w.fn, 0, w.a, 0, 0, w.imm⟩ → w.fn.toNat ≤ 1 → AtInsn s c.val (encodeS 0x32#8 w) → Free s c.val [w.a.toNat] [] [] →
       k.dq.length = 16 → Answers (.swait c w) s ((s.setCore c.val { k with seqHeld := some 3 }).pump c.val)) ∧
     (∀ (v : BitVec 8) (u : SemWait), s.live = true → s.waitsOn n.val v.toNat c.val = some u → k.layer = none →
       (∀ x, x ≠ c.val → s.waitsOn n.val v.toNat x = none) →
       let on : Core := if u.blk then { k with
           block := some { cls := u.cls, pc := k.pc, word := u.word }, clocks := 0, pc := k.pc + 1, afterBlk := true, wait := none }
         else { k with wait := none }
       (u.amount.toNat ≤ (s.sem n.val v.toNat).toNat → u.dec = false →
         Answers (.semaphoreWaitGrant n v) s (s.setCore c.val on)) ∧
       (u.amount.toNat ≤ (s.sem n.val v.toNat).toNat → u.dec = true →
         Answers (.semaphoreWaitGrant n v) s ((s.setSem n.val v.toNat (s.sem n.val v.toNat - u.amount)).setCore c.val on)) ∧
       ((s.sem n.val v.toNat).toNat < u.amount.toNat → Answers (.semaphoreWaitGrant n v) s s))) ∧
  (∀ (c : CoreId) (w : SF) (s : State), let k := s.core c.val
     (w.fn.toNat % 8 ≤ 6 → AtInsn s c.val (encodeS 0x01#8 w) → (s.quarter (c.val / 80)).phase ≠ 1 →
       (w = ⟨w.fn, 0, 0, 0, 0, 0⟩ → w.fn.toNat < 8 →
         Answers (.blk c w) s (s.setCore c.val { k with
           block := some { cls := w.fn.toNat % 8, pc := k.pc, word := encodeS 0x01#8 w }, clocks := 0, pc := k.pc + 1, afterBlk := true,
           wait := none })) ∧
       (w = ⟨w.fn, 0, w.a, 0, 0, w.imm⟩ → 8 ≤ w.fn.toNat % 16 → w.fn.toNat < 32 → w.imm.toNat < 256 → Free s c.val [w.a.toNat] [] [] →
         (k.ra w.a.toNat).setWidth 32 ≠ 0 →
         Answers (.blk c w) s (s.setCore c.val { k with
           block := none, clocks := 0, wait := some { sem := w.imm.toNat, amount := (k.ra w.a.toNat).setWidth 32, dec := decide (16 ≤ w.fn.toNat), blk := true, cls := w.fn.toNat % 8, word := encodeS 0x01#8 w } }))) ∧
     (w = ⟨w.fn, 0, 0, 0, 0, 0⟩ → w.fn.toNat ≤ 6 → AtInsn s c.val (encodeS 0x01#8 w) → (s.quarter (c.val / 80)).phase = 1 →
       Answers (.blk c w) s (s.setCore c.val { k with block := none, clocks := 0, stopped := true })) ∧
     (w = ⟨0, 0, 0, 0, 0, w.imm⟩ → AtInsn s c.val (encodeS 0x03#8 w) → k.layer = none → k.afterBlk = true →
       ∃ l : LayerRun, l.id = w.imm ∧ l.rerun = false ∧ l.blkPc = k.pc - 1 ∧
         Answers (.layer c w) s (s.setCore c.val { k with layer := some l, pc := k.pc + 1, afterBlk := false })) ∧
     (w = ⟨1, 0, 0, 0, 0, w.imm⟩ → AtInsn s c.val (encodeS 0x03#8 w) → (∃ l, k.layer = some l ∧ l.id = w.imm) →
       ∃ t, Answers (.layer c w) s t ∧ (t.core c.val).layer = none ∧ (t.core c.val).pc = k.pc + 1 ∧ (t.core c.val).a = k.a ∧
         t = { s with cores := t.cores } ∧ ∀ x, x ≠ c.val → t.core x = s.core x) ∧
     (w = ⟨0, 0, 0, 0, 0, 0⟩ → AtInsn s c.val (encodeS 0x02#8 w) → (∀ i, i < 8 → k.slotPO i = none) → k.layer = none → k.owe0 = false →
       k.owe1 = false →
       Answers (.endTask c w) s (s.setCore c.val { k with ended := true, block := none, clocks := 0, pc := k.pc + 1, afterBlk := false })))

/-- TOPEN, TCLOSE, TRACKER_MERGE and STEP_SCALES_FORMED with its descales, and the logarithm of the scale rule (05 R142, 03 R55, R58, R64, R65, R68; log 21). -/
def Obligations.TrackerSlotsOpenCloseAndMerge : Prop :=
  ∀ (c : CoreId) (n : CtxN) (w : SF) (s : State), let k := s.core c.val
    (k.ctx = some n.val → IdleCore k → w.d.toNat < 8 →
      (w = ⟨0, w.d, w.a, w.b, 0, w.imm⟩ → AtInsn s c.val (encodeS 0x68#8 w) → k.slotPO w.d.toNat = none → k.layer = none →
        (s.ctx n.val).rec? ((k.ra w.a.toNat).setWidth 32) ≠ none →
        ∃ (t : State) (sl : Slot), Answers (.topen c w) s t ∧ (t.core c.val).slot w.d.toNat = some sl ∧
          (t.core c.val).slotPO w.d.toNat = some ((k.ra w.a.toNat).setWidth 32) ∧ (t.core c.val).pc = k.pc + 1 ∧
          sl.tid = (k.ra w.a.toNat).setWidth 32 ∧ sl.amax = [] ∧ sl.elements = 0 ∧ sl.saturated = 0 ∧ sl.underflow = 0 ∧
          sl.nonfinite = 0 ∧ sl.chans = 0 ∧ sl.tiles = 0 ∧ sl.shOff = (k.ra w.b.toNat).toNat ∧ sl.shSize = w.imm.toNat ∧ t.mem = s.mem ∧ t.ctxs = s.ctxs) ∧
      (∀ sl : Slot, w = ⟨0, w.d, 0, 0, 0, 0⟩ → AtInsn s c.val (encodeS 0x69#8 w) → k.slotPO w.d.toNat = some sl.tid →
        k.slot w.d.toNat = some sl → sl.rerun = false → k.layer = none → s.closeLate c.val n.val sl.tid = false →
        ∃ t, Answers (.tclose c w) s t ∧ (t.core c.val).slot w.d.toNat = none ∧ (t.core c.val).slotPO w.d.toNat = none ∧
          (t.core c.val).pc = k.pc + 1 ∧
          t.ctx n.val = { s.ctx n.val with mergeQ := (s.ctx n.val).mergeQ ++ [{ slot := sl, core := c.val, run := k.runId, seq := k.nextSeq }] } ∧
          t.mem = s.mem)) ∧
    (∀ (cl : Closed) (rest : List Closed), (s.ctx n.val).mergeQ = cl :: rest → (s.core cl.core).layer = none →
      ∃ t, Answers (.trackerMerge n) s t ∧ (t.ctx n.val).mergeQ = rest ∧ t.cores = s.cores ∧ t.mem = s.mem ∧
        (let p := ((s.ctx n.val).rec! cl.slot.tid).pend cl.run
         let q := ((t.ctx n.val).rec! cl.slot.tid).pend cl.run
         q.tot.elements = p.tot.elements + cl.slot.elements ∧ q.tot.saturated = p.tot.saturated + cl.slot.saturated ∧
         q.tot.underflow = p.tot.underflow + cl.slot.underflow ∧ q.tot.nonfinite = p.tot.nonfinite + cl.slot.nonfinite)) ∧
    ((s.ctx n.val).inStep = false → (s.ctx n.val).prog ≠ none → CleanStore s →
      ∃ t, Answers (.stepScalesFormed n) s t ∧ (t.ctx n.val).formed = some ((s.ctx n.val).step.applied + 1) ∧
        (t.ctx n.val).recs = (if (s.ctx n.val).step.isReplay (((s.ctx n.val).step.applied + 1) % 2 ^ 48) ∧
            (s.ctx n.val).formed = some ((s.ctx n.val).step.applied + 1) then (s.ctx n.val).recs else (s.ctx n.val).formStep.recs) ∧
        t = { s with ctxs := t.ctxs, cores := t.cores, mem := t.mem } ∧
        ((∀ x, ((SMap.get none (s.ctx n.val).saved x).getD {}).ctx = none) → t.mem = s.mem ∧
          (∀ x, x < 320 → s.coreExists x = true → (s.core x).task = none →
            (s.quarter (x / 80)).cur = some n.val → (s.quarter (x / 80)).phase ≠ 3 →
            t.core x = (s.core x).putDescales (t.descales n.val (s.ctx n.val).nextUse none x)))) ∧
    (∀ (p : Product) (u : ScaleUse) (j : Nat), j < 64 →
      (k.putDescales (s.productDescales n.val u p)).rs (p.base.val + j) =
        (descaleOf (s.heldScale n.val u p.a 0) (s.heldScale n.val u p.b (p.chan + j))).1) ∧
    (∀ x y : Int, -126 ≤ x → x ≤ 127 → -126 ≤ y → y ≤ 127 → -127 ≤ x + y → x + y ≤ 126 →
      descaleOf (pow2F32 x) (pow2F32 y) = (pow2F32 (-(x + y)), {})) ∧
    (∀ (m q : Nat) (e g : Int), 0 < m → 0 < q → let x := log2Ratio m e q g
      (2 : Rat) ^ x * (q * (2 : Rat) ^ g) ≤ m * (2 : Rat) ^ e ∧ m * (2 : Rat) ^ e < (2 : Rat) ^ (x + 1) * (q * (2 : Rat) ^ g))

/-- Narrowing (02 R29), over exact rationals. The exact input is `(-1)^neg * m * 2^e`. -/
def Obligations.NarrowingRoundsToNearestTiesAway : Prop :=
  ∀ (f : Nat), 2 ≤ f → f ≤ 6 → ∀ (neg : Bool) (m : Nat) (e : Int), 0 < m →
    let x : Rat := m * (2 : Rat) ^ e
    let ex : Int := max (Int.log 2 x) (1 - (fmtBias f : Int))
    let q : Rat := (2 : Rat) ^ (ex - (fmtMant f : Int))
    let y : Rat := (⌊x / q + 1 / 2⌋ : Int) * q
    let maxf : Rat := (decodeFmt f (fmtMax f)).val
    let r := narrowNum f (.fin neg m e)
    (decodeFmt f r.1).Finite ∧ (decodeFmt f r.1).val = (if neg then -1 else 1) * min y maxf ∧
      r.2 = { ovf := false, inv := false, sat := if maxf < y then 1 else 0 }

/-- The inputs of a narrowing that are not finite and non-zero (02 R32, R33); the codes are those of R25. Widening (02 R28) and its way back, for every finite code of every format.
Special operands of array products and sums (02 R44), for the formats of operands, and of BF16 port adds (02 R40). -/
def Obligations.SpecialInputsAndWidening : Prop :=
  ((∀ (neg : Bool) (e : Int) (sgn : Nat), sgn = (if neg then 1 else 0) →
     narrowNum 2 (.fin neg 0 e) = (0x8000 * sgn, {}) ∧ narrowNum 3 (.fin neg 0 e) = (0x8000 * sgn, {}) ∧
     narrowNum 6 (.fin neg 0 e) = (0x8 * sgn, {}) ∧ narrowNum 4 (.fin neg 0 e) = (0, {}) ∧ narrowNum 5 (.fin neg 0 e) = (0, {}) ∧
     narrowNum 2 (.inf neg) = (0x7F7F + 0x8000 * sgn, { ovf := true, sat := 1 }) ∧
     narrowNum 3 (.inf neg) = (0x7BFF + 0x8000 * sgn, { ovf := true, sat := 1 }) ∧
     narrowNum 4 (.inf neg) = (0x7F + 0x80 * sgn, { ovf := true, sat := 1 }) ∧
     narrowNum 5 (.inf neg) = (0x7F + 0x80 * sgn, { ovf := true, sat := 1 }) ∧
     narrowNum 6 (.inf neg) = (0x7 + 0x8 * sgn, { ovf := true, sat := 1 })) ∧
   narrowNum 2 .nan = (0x7FC0, { inv := true }) ∧ narrowNum 3 .nan = (0x7E00, { inv := true }) ∧
   narrowNum 4 .nan = (0x80, { inv := true }) ∧ narrowNum 5 .nan = (0x80, { inv := true }) ∧ narrowNum 6 .nan = (0xF, { inv := true }) ∧
   (∀ (f m : Nat) (neg : Bool) (e : Int), 2 ≤ f → f ≤ 6 → (decodeFmt f (narrowNum f (.fin neg m e)).1).val = 0 →
     (narrowNum f (.fin neg m e)).1 = if f = 4 ∨ f = 5 then 0 else if neg then 2 ^ (fmtBits f - 1) else 0)) ∧
  (∀ (f c : Nat), 2 ≤ f → f ≤ 6 → c < 2 ^ fmtBits f → (decodeFmt f c).Finite →
     (f32 (widen f c)).Finite ∧ (f32 (widen f c)).val = (decodeFmt f c).val ∧ narrowNum f (f32 (widen f c)) = (c, {})) ∧
  ((∀ (f x y : Nat) (acc : F32), 2 ≤ f → f ≤ 6 →
    let dx := decodeFmt f x
    let dy := decodeFmt f y
    (dx = .nan ∨ dy = .nan → accStep f acc x y = (0x7FC00000#32, {})) ∧
    (∀ (sx sy : Bool) (e : Int), (dx = .inf sx ∧ dy = .fin sy 0 e) ∨ (dx = .fin sy 0 e ∧ dy = .inf sx) →
      accStep f acc x y = (0x7FC00000#32, { inv := true })) ∧
    (∀ (sx sy : Bool) (m : Nat) (e : Int), dx = .inf sx → dy = .fin sy m e → m ≠ 0 → (f32 acc).Finite →
      f32 (accStep f acc x y).1 = .inf (sx != sy) ∧ (accStep f acc x y).2 = {}) ∧
    (∀ (sx sy : Bool), dx = .inf sx → dy = .inf sy → ∀ sa, f32 acc = .inf sa →
      (sa = (sx != sy) → accStep f acc x y = (acc, {})) ∧
      (sa ≠ (sx != sy) → accStep f acc x y = (0x7FC00000#32, { inv := true }))) ∧
    (∀ p : Machine.Num, (f32 acc) = .nan → accNum (f32 acc) p = (0x7FC00000#32, {}))) ∧
  (∀ x y : Nat,
    (decodeFmt 2 x = .nan ∨ decodeFmt 2 y = .nan → portAddBf16 x y = (0x7FC0, {})) ∧
    (∀ sx sy : Bool, decodeFmt 2 x = .inf sx → decodeFmt 2 y = .inf sy →
      (sx = sy → portAddBf16 x y = (0x7F7F + (if sx then 0x8000 else 0), { ovf := true, sat := 1 })) ∧
      (sx ≠ sy → portAddBf16 x y = (0x7FC0, { inv := true }))) ∧
    (∀ sx : Bool, decodeFmt 2 x = .inf sx → (decodeFmt 2 y).Finite →
      portAddBf16 x y = (0x7F7F + (if sx then 0x8000 else 0), { ovf := true, sat := 1 })) ∧
    (∀ sy : Bool, (decodeFmt 2 x).Finite → decodeFmt 2 y = .inf sy →
      portAddBf16 x y = (0x7F7F + (if sy then 0x8000 else 0), { ovf := true, sat := 1 }))))

/-- The accumulation of 02 R42, over exact rationals, for every FP32 accumulator and every exact finite product. -/
def Obligations.AccumulationFloorsToItsGrid : Prop :=
  ∀ (acc : F32) (na nb : Bool) (m n : Nat) (ea eb : Int), f32 acc = .fin na m ea →
    let a := (f32 acc).val
    let p := (Machine.Num.fin nb n eb).val
    let e := max (accExponent a) (accExponent p)
    let u : Rat := (2 : Rat) ^ (e - 23)
    let s1 : Rat := (⌊(a + p) / u⌋ : Int) * u
    let s : Rat := if (2 : Rat) ^ (e + 1) ≤ |s1| then (⌊s1 / (2 * u)⌋ : Int) * (2 * u) else s1
    let r := accNum (f32 acc) (.fin nb n eb)
    (|s| < (2 : Rat) ^ (128 : Int) → (f32 r.1).Finite ∧ (f32 r.1).val = s ∧ r.2 = {} ∧
      (s = 0 → r.1 = if (na = true ∧ m = 0 ∧ nb = true ∧ n = 0) then 0x80000000#32 else 0#32)) ∧
    ((2 : Rat) ^ (128 : Int) ≤ |s| → f32 r.1 = .inf (decide (s < 0)) ∧ r.2 = { ovf := true })

/-- The bias of a chain (02 R45). `E_M` of the rule is the least such E. -/
def Obligations.ChainNeverExceedsExactSum : Prop :=
  ∀ (a : F32) (ps : List Machine.Num), ps ≠ [] → (∀ p ∈ ps, p.Finite) → (∀ x ∈ accChain a ps, (f32 x).Finite) →
    let exact : Rat := (f32 a).val + (ps.map Machine.Num.val).sum
    let result : Rat := (f32 ((accChain a ps).getLastD 0#32)).val
    result ≤ exact ∧
    ∀ E : Int, -126 ≤ E → (∀ p ∈ ps, |p.val| < (2 : Rat) ^ (E + 1)) → (∀ x ∈ accChain a ps, |(f32 x).val| < (2 : Rat) ^ (E + 1)) →
      exact - result < ps.length * (2 : Rat) ^ (E - 23)

/-- FP32 arithmetic (02 R39), over the reals. -/
def Obligations.VectorArithmeticRoundsOnce : Prop :=
  ∀ x y z : F32, let a := f32 x; let b := f32 y; let c := f32 z
    let nan := fun (e : Ev) => (0x7FC00000#32, e)
    (a.Finite → b.Finite →
      NearestEven ((a.val : ℝ) + b.val) (x = 0x80000000#32 ∧ y = 0x80000000#32) (fadd x y) ∧
      NearestEven ((a.val : ℝ) - b.val) (x = 0x80000000#32 ∧ y = 0#32) (fsub x y) ∧
      NearestEven ((a.val : ℝ) * b.val) (x.msb ≠ y.msb) (fmul x y) ∧
      (c.Finite → NearestEven ((a.val : ℝ) * b.val + c.val)
        (x.msb ≠ y.msb ∧ (a.val = 0 ∨ b.val = 0) ∧ z = 0x80000000#32) (ffma x y z)) ∧
      (∀ u, c = .inf u → ffma x y z = (f32Inf u, {}))) ∧
    (a = .nan ∨ b = .nan → fadd x y = nan {} ∧ fsub x y = nan {} ∧ fmul x y = nan {} ∧ ffma x y z = nan {}) ∧
    (c = .nan → ffma x y z = nan {}) ∧
    (∀ s t, a = .inf s → b = .inf t →
      fadd x y = (if s = t then (f32Inf s, {}) else nan { inv := true }) ∧
      fsub x y = (if s = t then nan { inv := true } else (f32Inf s, {})) ∧
      fmul x y = (f32Inf (s != t), {})) ∧
    (∀ s, a = .inf s → b.Finite →
      fadd x y = (f32Inf s, {}) ∧ fadd y x = (f32Inf s, {}) ∧ fsub x y = (f32Inf s, {}) ∧ fsub y x = (f32Inf !s, {}) ∧
      (b.val = 0 → fmul x y = nan { inv := true } ∧ fmul y x = nan { inv := true } ∧
        (c ≠ .nan → ffma x y z = nan { inv := true } ∧ ffma y x z = nan { inv := true })) ∧
      (b.val ≠ 0 → fmul x y = (f32Inf (s != y.msb), {}) ∧ fmul y x = (f32Inf (s != y.msb), {}))) ∧
    (∀ p, mulNum a b = some (.inf p) → (c.Finite ∨ c = .inf p → ffma x y z = (f32Inf p, {})) ∧
      (c = .inf !p → ffma x y z = nan { inv := true }))

/-- ACT (05 R137, R138) and its factors (06 R157). The codes at points are those of the functions themselves, worked out by hand. -/
def Obligations.ActivationValues : Prop :=
  (∀ (fn : Nat) (x g free : F32), 1 ≤ fn → fn ≤ 11 →
     (f32 x = .nan → ∀ m, m ≤ 2 → actLane m fn free x g = (0x7FC00000#32, {})) ∧
     (f32 g = .nan → actLane 1 fn free x g = (0x7FC00000#32, {}) ∧ actLane 2 fn free x g = (0x7FC00000#32, {})) ∧
     actLane 0 fn free x g = actF fn x) ∧
  (let nan := (0x7FC00000#32, ({ inv := true } : Ev))
   let q := fun (x : F32) => (x, ({} : Ev))
   (upFrom 1 11).map (actF · 0xFF800000#32) = [q 0#32, q 0#32, q 0xBF800000#32, q 0x80000000#32, q 0x80000000#32, q 0#32, nan,
     q 0x80000000#32, nan, nan, q 0#32] ∧
   (upFrom 1 11).map (actF · 0x7F800000#32) = [q 0x7F800000#32, q 0x3F800000#32, q 0x3F800000#32, q 0x7F800000#32, q 0x7F800000#32,
     q 0x7F800000#32, q 0x7F800000#32, q 0#32, q 0#32, q 0x7F800000#32, q 0x7F800000#32] ∧
   (upFrom 1 11).map (actF · 0#32) = [q 0#32, q 0x3F000000#32, q 0#32, q 0#32, q 0#32, q 0x3F800000#32, q 0xFF800000#32,
     q 0x7F800000#32, q 0x7F800000#32, q 0#32, q 0x3F317218#32] ∧
   (upFrom 1 11).map (actF · 0x80000000#32) = [q 0#32, q 0x3F000000#32, q 0x80000000#32, q 0x80000000#32, q 0x80000000#32,
     q 0x3F800000#32, q 0xFF800000#32, q 0xFF800000#32, q 0xFF800000#32, q 0x80000000#32, q 0x3F317218#32]) ∧
  (∀ (x g free : F32), (f32 x).Finite →
     let v : ℝ := (f32 x).val
     let r : ℝ := (f32 g).val
     let near := fun (u : ℝ) (y : F32 × Ev) => (u ≠ 0 → NearestEven u False y) ∧ (u = 0 → f32IsZero y.1 = true ∧ y.2 = {})
     (v < 0 → actF 7 x = (0x7FC00000#32, { inv := true }) ∧ actF 9 x = (0x7FC00000#32, { inv := true }) ∧
       actF 10 x = (0x7FC00000#32, { inv := true }) ∧ actF 1 x = (0#32, {})) ∧
     (0 < v → actF 1 x = (x, {}) ∧ NearestEven (Real.sqrt v) False (actF 10 x)) ∧
     (v ≠ 0 → NearestEven v⁻¹ False (actF 8 x)) ∧
     ((f32 g).Finite →
       (0 ≤ v → near (if x.toNat % 2 ^ 31 = 0 then 0 else r) (actLane 1 1 free x g)) ∧
       near (r * (v * (1 - v))) (actLane 1 2 free x g) ∧ near (r * (1 - v * v)) (actLane 1 3 free x g) ∧
       near (r * v) (actLane 1 6 free x g) ∧ near (-(r * (v * v))) (actLane 1 8 free x g) ∧
       near (-(r * (v * v * v / 2))) (actLane 1 9 free x g) ∧
       (v ≠ 0 → near (r / (2 * v)) (actLane 1 10 free x g)) ∧
       near (if x.msb = true ∨ x = 0#32 then 0 else r) (actLane 2 1 free x g) ∧
       (0 < v → near (r / v) (actLane 2 7 free x g)) ∧
       (v ≠ 0 → near (-(r / (v * v))) (actLane 2 8 free x g)))) ∧
  (∀ p ∈ [(2, 0x3F800000#32, 0x3F3B26A8#32), (2, 0xC0000000#32, 0x3DF420A9#32), (3, 0x3F800000#32, 0x3F42F7D6#32),
     (3, 0xC0000000#32, 0xBF76CA83#32), (4, 0x3F800000#32, 0x3F57625F#32), (4, 0xC0000000#32, 0xBD3A5E7C#32),
     (5, 0x3F800000#32, 0x3F3B26A8#32), (5, 0xC0000000#32, 0xBE7420A9#32), (6, 0x3F800000#32, 0x402DF854#32),
     (6, 0xC0000000#32, 0x3E0A9555#32), (7, 0x3F000000#32, 0xBF317218#32), (7, 0x40400000#32, 0x3F8C9F54#32),
     (9, 0x40400000#32, 0x3F13CD3A#32), (9, 0x3F000000#32, 0x3FB504F3#32), (11, 0x3F800000#32, 0x3FA818F5#32),
     (11, 0xC0000000#32, 0x3E01F96B#32)], actF p.1 p.2.1 = (p.2.2, {})) ∧
  (∀ (free : F32), ∀ p ∈ [(2, 2, 0x3E4954A3#32), (2, 3, 0x3ED706E0#32), (2, 4, 0x3F8AAA15#32), (2, 5, 0x3F6D7BD1#32),
     (2, 6, 0x402DF854#32), (2, 9, 0xBF000000#32), (2, 10, 0x3F000000#32), (2, 11, 0x3F3B26A8#32), (1, 7, 0x3EBC5AB2#32),
     (1, 11, 0x3F21D2A7#32)], actLane p.1 p.2.1 free 0x3F800000#32 0x3F800000#32 = (p.2.2, {}))


/-- The layout-V instructions from an idle core, and a full queue (04 R98, R499). What `vecEffect` does to the store and the
registers is stated by VectorLanesAndReductions and ScaleCopiesAndQuantiser. That the effect is applied as the instruction starts, and not
later, is the model's choice (log 29). -/
def Obligations.VectorInstructionsRun : Prop :=
  ∀ (c : CoreId) (w : VF) (s : State), let k := s.core c.val
    let runs := fun (i : Instr) (op : VecOp) (opc : BitVec 8) (good : Prop) =>
      good → AtInsn s c.val (encodeV opc w) → Free s c.val (vecRegs op w) [] [] →
      (let v := k.vecWork op w
       (∀ r ∈ v.readRuns ++ v.writeRuns false, r.1 % 128 = 0 ∧ r.1 + r.2 ≤ 0x600000) →
       (IdleCore k → CleanStore s →
         let t := s.setCore c.val (k.handed (encodeV opc w) (.vec v) v.reads (v.writes k.inRerun) 0)
         Answers i s ((t.vecEffect c.val v).modCore c.val fun k => k.headPhase 1)) ∧
       (k.vq.length = 16 → (∃ e, k.vq.head? = some e ∧ e.phase ≠ 0) → k.dq = [] →
         Answers i s (s.setCore c.val { k with seqHeld := some 2 })))
    runs (.vop c w) .vop 0x60#8 (vopFields w = true) ∧ runs (.act c w) .act 0x61#8 (actFields w = true) ∧
    runs (.vred c w) .vred 0x62#8 (vredFields w = true) ∧ runs (.vany c w) .vany 0x63#8 (vanyFields w = true) ∧
    runs (.wid c w) .wid 0x65#8 (widFields w = true) ∧ runs (.sld c w) .sld 0x14#8 (sldFields w = true) ∧
    runs (.sst c w) .sst 0x15#8 (sstFields w = true) ∧
    (let v := k.vecWork .qnt w
     let word := encodeV 0x64#8 w
     let t := s.setCore c.val (k.handed word (.vec v) v.reads (v.writes k.inRerun) 0)
     qntFields w = true → AtInsn s c.val word → Free s c.val (vecRegs .qnt w) [] [] → s.qntOk c.val v = true →
     (∀ r ∈ v.readRuns ++ v.writeRuns false, r.1 % 128 = 0 ∧ r.1 + r.2 ≤ 0x600000) → IdleCore k → CleanStore s →
       (t.qntJit c.val v = false → Answers (.qnt c w) s ((t.qnt c.val v).modCore c.val fun k => k.headPhase 1)) ∧
       (t.qntJit c.val v = true →
         Answers (.qnt c w) s ((t.fixScales c.val v.slotIx (t.qntMeasure c.val v)).modCore c.val fun k => k.headPhase 2)))

/-- One vector of VOP, ACT and WID (05 R133, R134, R137, R141). VRED over its run, its destinations, and VANY (05 R135, R136). Maximum and
minimum (02 R46). Values are compared as numbers. -/
def Obligations.VectorLanesAndReductions : Prop :=
  (∀ (c : Nat) (w : VecWork) (s : State) (v e : Nat), e < 256 → CleanStore s →
     let lane := fun (off : BitVec 64) => (s.vec c off.toNat v).getD e 0#32
     let x := (s.core c).rs w.f.x.toNat
     let base := c * 0x800000 + w.rd.toNat + 1024 * v
     let keeps := fun (t : State) => t.cores = s.cores ∧ ∀ a, (a < base ∨ base + 1024 ≤ a) → Mem.byte t.mem a = Mem.byte s.mem a
     (let t := State.vopStep c w s v
      let r := (t.vec c w.rd.toNat v)[e]?
      keeps t ∧
      (w.f.fn = 0 → r = some (fadd (lane w.ra) (lane w.rb)).1) ∧ (w.f.fn = 1 → r = some (fsub (lane w.ra) (lane w.rb)).1) ∧
      (w.f.fn = 2 → r = some (fmul (lane w.ra) (lane w.rb)).1) ∧ (w.f.fn = 3 → r = some (ffma (lane w.ra) (lane w.rb) (lane w.rd)).1) ∧
      (w.f.fn = 4 → r = some (fadd (lane w.ra) x).1) ∧ (w.f.fn = 5 → r = some (fmul (lane w.ra) x).1) ∧
      (w.f.fn = 6 → r = some (ffma (lane w.ra) x (lane w.rd)).1) ∧ (w.f.fn = 7 → r = some (ffma (lane w.ra) x (lane w.rb)).1) ∧
      (w.f.fn = 8 → r = some (fmax (lane w.ra) (lane w.rb))) ∧ (w.f.fn = 9 → r = some (fmin (lane w.ra) (lane w.rb))) ∧
      (w.f.fn = 10 → r = some (fmax (lane w.ra) x)) ∧ (w.f.fn = 11 → r = some (fabs (lane w.ra))) ∧
      (w.f.fn = 12 → r = some (fneg (lane w.ra))) ∧ (w.f.fn = 13 → r = some (lane w.ra)) ∧ (w.f.fn = 14 → r = some x)) ∧
     (let t := State.actStep c w s v
      let fn := w.f.fn.toNat % 16
      keeps t ∧ (w.f.fn.toNat < 16 → (t.vec c w.rd.toNat v)[e]? = some (actF fn (lane w.ra)).1) ∧
      (∀ m, m = 1 ∨ m = 2 → w.f.fn.toNat / 16 = m → (t.vec c w.rd.toNat v)[e]? =
        some (actLane m fn (Config.actFree fn m (lane w.ra) (lane w.rb)) (lane w.ra) (lane w.rb)).1)) ∧
     (let t := State.widStep c w s v
      let f := w.f.fn.toNat % 8
      let code := (bytesCodes f (Mem.read s.mem (c * 0x800000 + (w.ra.toNat + vecBytes f * v)) (vecBytes f))).getD e 0
      keeps t ∧ (2 ≤ f → f ≤ 6 →
        (w.f.fn.toNat < 8 → (t.vec c w.rd.toNat v)[e]? = some (widen f code)) ∧
        (8 ≤ w.f.fn.toNat → w.f.fn.toNat < 16 → (t.vec c w.rd.toNat v)[e]? = some (fmul (widen f code) x).1)))) ∧
  (∀ (c : Nat) (w : VecWork) (s : State) (op : F32 → F32 → F32), CleanStore s →
     ((w.f.fn = 0 ∧ op = fun a b => (fadd a b).1) ∨ (w.f.fn = 1 ∧ op = fmax) ∨ (w.f.fn = 2 ∧ op = fmin) ∨
       (w.f.fn = 3 ∧ op = fun a b => fmax (fabs a) (fabs b))) →
     let lane := fun l => (List.range (w.f.n - 1)).foldl (fun a v => op a ((s.vec c w.ra.toNat (v + 1)).getD l 0#32))
       ((s.vec c w.ra.toNat 0).getD l 0#32)
     let t := s.vred c w
     let base := c * 0x800000 + w.rd.toNat
     let x := halved op lane 8 0
     (w.f.misc.toNat % 2 = 1 → (∀ l, l < 256 → (t.vec c w.rd.toNat 0)[l]? = some (lane l)) ∧ t.cores = s.cores ∧
       ∀ a, (a < base ∨ base + 1024 ≤ a) → Mem.byte t.mem a = Mem.byte s.mem a) ∧
     (w.f.misc.toNat % 2 = 0 → w.f.misc.toNat / 2 % 2 = 1 → (t.core c).rs w.f.x.toNat = x ∧ t.mem = s.mem ∧
       ∀ i, i ≠ w.f.x.toNat → (t.core c).rs i = (s.core c).rs i) ∧
     (w.f.misc.toNat % 2 = 0 → w.f.misc.toNat / 2 % 2 = 0 → Mem.read t.mem base 4 = natLe 4 x.toNat ∧ t.cores = s.cores ∧
       ∀ a, (a < base ∨ base + 4 ≤ a) → Mem.byte t.mem a = Mem.byte s.mem a) ∧
     ((∀ v, v < w.f.n → ∀ y ∈ s.vec c w.ra.toNat v, (f32 y).Finite) →
       (w.f.fn = 1 → (∃ v, v < w.f.n ∧ x ∈ s.vec c w.ra.toNat v) ∧
         ∀ v, v < w.f.n → ∀ y ∈ s.vec c w.ra.toNat v, (f32 y).val ≤ (f32 x).val) ∧
       (w.f.fn = 2 → (∃ v, v < w.f.n ∧ x ∈ s.vec c w.ra.toNat v) ∧
         ∀ v, v < w.f.n → ∀ y ∈ s.vec c w.ra.toNat v, (f32 x).val ≤ (f32 y).val))) ∧
  (∀ (c : Nat) (w : VecWork) (s : State),
     (∀ x y : F32, (f32 x).Finite → (f32 y).Finite →
       (fmax x y = x ∨ fmax x y = y) ∧ (f32 (fmax x y)).val = max (f32 x).val (f32 y).val ∧
       (fmin x y = x ∨ fmin x y = y) ∧ (f32 (fmin x y)).val = min (f32 x).val (f32 y).val ∧
       (f32 (fabs x)).val = |(f32 x).val| ∧ (f32 (fneg x)).val = -(f32 x).val) ∧
     fmax 0#32 0x80000000#32 = 0#32 ∧ fmax 0x80000000#32 0#32 = 0#32 ∧ fmin 0#32 0x80000000#32 = 0x80000000#32 ∧
     fmin 0x80000000#32 0#32 = 0x80000000#32 ∧
     (∀ x y : F32, f32 x = .nan ∨ f32 y = .nan → fmax x y = 0x7FC00000#32 ∧ fmin x y = 0x7FC00000#32) ∧
     (∀ x : F32, f32 x = .nan → fabs x = 0x7FC00000#32 ∧ fneg x = 0x7FC00000#32) ∧
     ((s.vany c w).mem = s.mem ∧ ((s.vany c w).core c).a = (s.core c).a ∧
       (w.f.fn.toNat ≤ 3 → (((s.vany c w).core c).rf w.f.d.toNat = true ↔ ∃ v x, v < w.f.n ∧ x ∈ s.vec c w.ra.toNat v ∧
         ((w.f.fn = 0 ∧ f32 x = .nan) ∨ (w.f.fn = 1 ∧ ∃ b, f32 x = .inf b) ∨ (w.f.fn = 2 ∧ x ≠ 0x00000000#32 ∧ x ≠ 0x80000000#32) ∨
           (w.f.fn = 3 ∧ ¬ (f32 x).Finite))))))

/-- SLD and SST (05 R128), their cut-off at 2,048 scale registers, and the check of the run. QNT's codes (05 R140) and the tracker's counts (03 R57). -/
def Obligations.ScaleCopiesAndQuantiser : Prop :=
  (∀ (c : Nat) (w : VecWork) (s : State), let n := 256 * w.f.n
     ((s.sld c w).mem = s.mem ∧ (∀ i, i < n → ((s.sld c w).core c).rs (w.f.x.toNat + i) =
         BitVec.ofNat 32 (leNat (Mem.read s.mem (c * 0x800000 + w.ra.toNat + 4 * i) 4))) ∧
       (∀ i, (i < w.f.x.toNat ∨ w.f.x.toNat + n ≤ i) → ((s.sld c w).core c).rs i = (s.core c).rs i) ∧
       ((s.sld c w).core c).a = (s.core c).a ∧ ∀ x, x ≠ c → (s.sld c w).core x = s.core x) ∧
     (CleanStore s → (s.sst c w).cores = s.cores ∧
       (∀ i, i < n → Mem.read (s.sst c w).mem (c * 0x800000 + w.rd.toNat + 4 * i) 4 = natLe 4 ((s.core c).rs (w.f.x.toNat + i)).toNat) ∧
       ∀ a, (a < c * 0x800000 + w.rd.toNat ∨ c * 0x800000 + w.rd.toNat + 4 * n ≤ a) → Mem.byte (s.sst c w).mem a = Mem.byte s.mem a) ∧
     (∀ (d : CoreId) (f : VF) (u : State), f = ⟨0, 0, f.a, 0, f.x, f.nm1, 0⟩ → AtInsn u d.val (encodeV 0x14#8 f) →
       2048 < f.x.toNat + 256 * (f.nm1.toNat + 1) → Answers (.sld d f) u (u.insnFault d.val)) ∧
     (∀ (d : CoreId) (f : VF) (u : State), f = ⟨0, f.d, 0, 0, f.x, f.nm1, 0⟩ → AtInsn u d.val (encodeV 0x15#8 f) →
       2048 < f.x.toNat + 256 * (f.nm1.toNat + 1) → Answers (.sst d f) u (u.insnFault d.val))) ∧
  ((∀ (c f : Nat) (w : VecWork) (scale : Nat → F32) (s : State) (v : Nat), 2 ≤ f → f ≤ 6 → CleanStore s →
     let t := State.qntStep c w f scale false s v
     let base := c * 0x800000 + (w.rd.toNat + vecBytes f * v)
     let xs := s.vec c w.ra.toNat v
     let fs := s.vec c w.rb.toNat v
     vecBytes 2 = 512 ∧ vecBytes 3 = 512 ∧ vecBytes 4 = 256 ∧ vecBytes 5 = 256 ∧ vecBytes 6 = 128 ∧
     (∀ a, (a < base ∨ base + vecBytes f ≤ a) → Mem.byte t.mem a = Mem.byte s.mem a) ∧
     ∃ q : Nat → Machine.Num, ∀ e, e < 256 →
       (f ≤ 3 → Mem.read t.mem (base + 2 * e) 2 = natLe 2 (narrowNum f (q e)).1) ∧
       (f = 4 ∨ f = 5 → Mem.byte t.mem (base + e) = BitVec.ofNat 8 (narrowNum f (q e)).1) ∧
       (f = 6 → e % 2 = 0 → Mem.byte t.mem (base + e / 2) = BitVec.ofNat 8 ((narrowNum f (q e)).1 + 16 * (narrowNum f (q (e + 1))).1)) ∧
       (w.ck = false → q e = ((mulNum (f32 (xs.getD e 0#32)) (f32 (scale (w.chan v e)))).getD .nan)) ∧
       (w.ck = true → q e = match mulNum (f32 (xs.getD e 0#32)) (f32 (fs.getD e 0#32)) with
         | some p => (mulNum p (f32 (scale (w.chan v e)))).getD .nan
         | none => .nan)) ∧
   (∀ (sl : Slot) (e : Elem), let t := sl.record e
     t.elements = sl.elements + 1 ∧ t.saturated = sl.saturated + e.ev.sat ∧ t.underflow = sl.underflow + (if e.under then 1 else 0) ∧
     t.nonfinite = sl.nonfinite + (if e.nonfin then 1 else 0) ∧ t.tid = sl.tid ∧ t.tiles = sl.tiles ∧
     (let ch := if sl.perChan then e.ch else 0
      (∀ j, j ≠ ch → SMap.get 0#32 t.amax j = SMap.get 0#32 sl.amax j) ∧
      ((f32 e.x).Finite → (SMap.get 0#32 t.amax ch).toNat = max (SMap.get 0#32 sl.amax ch).toNat (e.x.toNat % 2 ^ 31)) ∧
      (¬ (f32 e.x).Finite → t.amax = sl.amax))))

/-- MMA, ARRAY_LAST_K_STEP, ARRAY_DRAIN_COMPLETE and SHADOW_RECOMPUTE (05 R129 to R131, 04 R91, R93, 03 R75, R76). That the product is
computed at ARRAY_LAST_K_STEP and the drain's bytes are written as the latch takes it is the model's choice (log 29); a tile that the check
selects is never one of an MMA with KEEP = 1, which completes no tile (05 R132). -/
def Obligations.MatrixInstructionsRun : Prop :=
  ∀ (c : CoreId) (s : State), let k := s.core c.val
    (∀ w : MF, w.rest = 0 → AtInsn s c.val (encodeM w) → IdleCore k →
      (let tl := k.rt w.tl.toNat
       let tr := k.rt w.tr.toNat
       let tout := k.rt w.tout.toNat
       let ti := k.rt w.ti.toNat
       (s.mmaOk c.val w tl tr tout ti = true → ∃ e : QEntry, e.work = .mma w tl tr tout ti (SMap.get 0 k.tilesPO (tSlot tout)) ∧ e.phase = 0 ∧ e.seq = k.nextSeq ∧ e.pc = k.pc ∧
         ∃ t, Answers (.mma c w) s t ∧ (t.core c.val).queue w.arr.toNat = [e] ∧ (t.core c.val).pc = k.pc + 1 ∧
           (t.core c.val).nextSeq = k.nextSeq + 1 ∧ (t.core c.val).kept w.arr.toNat = decide (w.keep = 1) ∧ t = { s with cores := t.cores }) ∧
       (s.mmaOk c.val w tl tr tout ti = false → Answers (.mma c w) s (s.insnFault c.val)))) ∧
    (∀ (w : MF) (tl tr tout ti : BitVec 64),
      let inside := fun (x : BitVec 64) (rows : Nat) => ∀ r, r < rows → tOffset x + r * rowStep x + rowSize (tFmt x) ≤ 0x600000
      (s.mmaOk c.val w tl tr tout ti = true ↔
        tFmt tl = tFmt tr ∧ 2 ≤ tFmt tl ∧ inside tl (mmaK w) ∧ inside tr (mmaK w) ∧ w.init ≠ 3 ∧
        (w.init = 1 → tFmt ti = 1 ∧ inside ti 64) ∧ (w.init = 2 → k.kept w.arr.toNat = true) ∧
        (w.keep = 1 → w.cblk = 0) ∧
        (w.keep = 0 → 1 ≤ tFmt tout ∧ tSbase tout ≤ 1984 ∧ inside tout (if tOrder tout = 2 then 128 else 64) ∧
          (tFmt tout ≤ 3 → w.cblk = 0) ∧
          (4 ≤ tFmt tout → tTrk tout = true ∧ ∃ n tid, k.ctx = some n ∧ k.slotPO (tSlot tout) = some tid ∧
            ((s.ctx n).perChan tid = true ∨ w.cblk = 0))))) ∧
    (∀ (arr : Fin 2) (e : QEntry) (f : MF) (tl tr tout ti : BitVec 64) (i : Nat),
      k.queue arr.val = [e] → k.vq = [] → k.dq = [] → (arr.val = 0 → k.mq1 = []) → (arr.val = 1 → k.mq0 = []) → e.phase = 0 →
      e.work = .mma f tl tr tout ti i → CleanStore s →
      let cells := s.mmaCells c.val f tl tr ti
      let acc := cells.map (·.1)
      let u := (s.modCore c.val fun k => k.setFeed arr.val (s.feeds c.val f tl tr ti)).coreArith c.val (sumEv (·.2) cells) false
      (s.shadowFault c.val f tl tr tout ti i = true → Answers (.arrayLastKStep c arr) s ((s.insnFaultAt c.val e.pc e.word).pump c.val)) ∧
      (f.keep = 1 → Answers (.arrayLastKStep c arr) s (u.modCore c.val fun k => (k.popArray arr.val).setAcc arr.val (some acc))) ∧
      (f.keep = 0 → k.latch arr.val = false →
        (let v := u.modCore c.val fun k => k.setAcc arr.val none
         v.shadowRow c.val tl tout = none → s.shadowRow c.val tl tout = none →
         Answers (.arrayLastKStep c arr) s ((v.drain c.val f tl tr tout acc).modCore c.val fun k =>
           ((k.popArray arr.val).takeLatch arr.val e.seq).setFeed arr.val [])))) ∧
    (∀ arr : Fin 2, k.latch arr.val = true → k.held arr.val = none → k.vq = [] → k.dq = [] →
      Answers (.arrayDrainComplete c arr) s (s.modCore c.val fun k => (k.setLatch arr.val false).setHeld arr.val none)) ∧
    (∀ (t : ShadowTile) (ts : List ShadowTile) (r : RecipeRow), k.shadow = t :: ts → (s.ctx t.ctx).rowOf t.tid = some r →
      ∃ u, Answers (.shadowRecompute c) s u ∧ (u.core c.val).shadow = ts ∧
        (u.ctx t.ctx).arith.checked = min ((s.ctx t.ctx).arith.checked + 1) (2 ^ 32 - 1) ∧
        (u.ctx t.ctx).arith.exceeded = min ((s.ctx t.ctx).arith.exceeded + (if shadowExceeds r t then 1 else 0)) (2 ^ 31 - 1) ∧
        u.mem = s.mem)

/-- The cells of a product (05 R130, 02 R43) and the FP32 drain in row order (04 R92). -/
def Obligations.MatrixCellsAndDrain : Prop :=
  (∀ (init : List F32) (l r : List (List Machine.Num)) (m n : Nat), m < 64 → n < 64 →
    ((accTile init l r)[64 * m + n]?.map (·.1)) = some
      (((l.map fun row => row.getD m .nan).zip (r.map fun row => row.getD n .nan)).foldl (fun a p => (accMul a p.1 p.2).1)
        (init.getD (64 * m + n) 0#32))) ∧
  (∀ (c : Nat) (f : MF) (tl tr tout : BitVec 64) (acc : List F32) (s : State),
    tFmt tout = 1 → tOrder tout = 0 → 256 ≤ rowStep tout → CleanStore s → acc.length = 4096 →
    let t := s.drain c f tl tr tout acc
    let row := fun m => c * 0x800000 + tOffset tout + m * rowStep tout
    t.cores = s.cores ∧
    (∀ m n, m < 64 → n < 64 → Mem.read t.mem (row m + 4 * n) 4 =
      natLe 4 (fmul (acc.getD (64 * m + n) 0#32) (s.descale c f tl tr tout n)).1.toNat) ∧
    (∀ a, (∀ m, m < 64 → a < row m ∨ row m + 256 ≤ a) → Mem.byte t.mem a = Mem.byte s.mem a))

/-- VECTOR_UPDATE_INSTRUCTION_COMPLETE, ISSUE_QUEUE_ROOM, JIT_QUANTISE_PASS and REMOTE_ALD_AST_COMPLETE. -/
def Obligations.QueueCompletions : Prop :=
  ∀ (c : CoreId) (s : State), let k := s.core c.val
    (∀ (e : QEntry) (w : VecWork), k.vq = [e] → k.dq = [] → e.work = .vec w → e.phase = 1 →
      Answers (.vectorUpdateInstructionComplete c) s (s.setCore c.val { k with vq := [] })) ∧
    (∀ (e : QEntry) (f : UF) (aw ag ao am : Nat) (tid : BitVec 32) (ae : BitVec 64) (n : Nat) (run : Run),
      k.vq = [e] → k.dq = [] → e.work = .upd f aw ag ao am tid ae → k.ctx = some n → s.coreRun c.val = some run →
      (e.phase = 3 → Answers (.vectorUpdateInstructionComplete c) s (s.setCore c.val { k with vq := [] })) ∧
      (e.phase = 1 → ∃ t, Answers (.vectorUpdateInstructionComplete c) s t ∧ (t.core c.val).vq = [] ∧
        (t.ctx n).step.journal = (s.ctx n).step.journal ++ [{ epoch := run.epoch, tid := tid, elem := ae, ng := f.ng.toNat }] ∧ t.mem = s.mem)) ∧
    (∀ q : Fin 4, k.seqHeld = some q.val → (k.queue q.val).length < 16 →
      Answers (.issueQueueRoom c q) s (s.setCore c.val { k with seqHeld := none })) ∧
    (∀ (e : QEntry) (es : List QEntry) (w : VecWork), k.vq = e :: es → e.work = .vec w → e.phase = 2 → CleanStore s →
      Answers (.jitQuantisePass c) s ((s.vecEffect c.val w).modCore c.val fun k => k.headPhase 1)) ∧
    (∀ (i : Nat) (r : Remote), k.remote[i]? = some r → (∀ q ∈ k.remote, q.seq < r.seq → q.addr = r.addr → q.load = true ∧ r.load = true) → k.vq = [] → k.mq0 = [] → k.mq1 = [] → k.dq = [] → k.ctx.isSome = true → CleanStore s →
      (r.load = true → Answers (.remoteAldAstComplete c i 0) s (s.setCore c.val { k with
        remote := k.remote.eraseIdx i, a := SMap.set 0 k.a r.reg (BitVec.ofNat 64 (leNat (Mem.read s.mem r.addr 8))) })) ∧
      (r.load = false → (s.ctx (k.ctx.getD 31)).inRetained r.addr 8 = false → r.addr + 8 ≤ 0x020000000000 →
        ∃ t, Answers (.remoteAldAstComplete c i 0) s t ∧ (t.core c.val).remote = k.remote.eraseIdx i ∧
          Mem.read t.mem r.addr 8 = natLe 8 r.value.toNat ∧
          (∀ a, (a < r.addr ∨ r.addr + 8 ≤ a) → Mem.byte t.mem a = Mem.byte s.mem a) ∧ t.ctxs = s.ctxs)) ∧
    (∀ (i j : Nat) (r q : Remote), k.remote[i]? = some r → k.remote[j]? = some q → q.seq < r.seq → q.addr = r.addr → (q.load = false ∨ r.load = false) →
      ∀ n, Answers (.remoteAldAstComplete c i n) s s)

/-- DMA, DMA_TRANSACTION_COMPLETE, DMA_DESCRIPTOR_COMPLETE and the transactions (05 R146, 04 R100, R102).
That a transaction reads its source when it completes is the model's choice (log 17). -/
def Obligations.DmaMovesBytesAndCounts : Prop :=
  (∀ (c : CoreId) (w : SF) (s : State) (d : DmaDesc), let k := s.core c.val
    let a := (k.ra w.a.toNat).toNat + w.imm.toInt
    w = ⟨w.fn, 0, w.a, 0, 0, w.imm⟩ → w.fn.toNat ≤ 1 → AtInsn s c.val (encodeS 0x30#8 w) → IdleCore k → CleanStore s →
    0 ≤ a → a % 64 = 0 → a + 64 ≤ 0x600000 →
    s.checkDma c.val (Mem.read s.mem (c.val * 0x800000 + a.toNat) 64) = some d →
    ∃ t p, Answers (.dma c w) s t ∧ (t.core c.val).dma = [p] ∧ p.d = d ∧ p.seq = k.nextSeq ∧ p.cut = false ∧ (t.core c.val).dq = [] ∧
      (t.core c.val).pc = k.pc + 1 ∧ t.mem = s.mem ∧ t.ctxs = s.ctxs) ∧
  (∀ (c : CoreId) (i j n : Nat) (s : State) (p : DmaPend) (x : Txn) (b : Nat), let k := s.core c.val
    k.dma[i]? = some p → p.out[j]? = some x → x.dsts = [b] → CleanStore s → k.ctx = some n → (s.ctx n).inRetained b x.len = false →
    b + x.len ≤ 0x020000000000 → ∃ t, Answers (.dmaTransactionComplete c i j 0 []) s t ∧
      Mem.read t.mem b x.len = Mem.read s.mem x.src x.len ∧ (∀ y, (y < b ∨ b + x.len ≤ y) → Mem.byte t.mem y = Mem.byte s.mem y) ∧
      t.ctxs = s.ctxs) ∧
  (∀ (c : CoreId) (i n : Nat) (s : State) (p : DmaPend), let k := s.core c.val
    k.dma = [p] → i = 0 → k.ctx = some n → p.done = true → k.vq = [] → k.dq = [] → k.layer = none →
    (s.sem n p.d.sem).toNat + 1 < 2 ^ 32 →
    ∃ t, Answers (.dmaDescriptorComplete c i) s t ∧ t.sem n p.d.sem = s.sem n p.d.sem + 1 ∧ (t.core c.val).dma = [] ∧ t.mem = s.mem) ∧
  (∀ (p q : DmaPend) (x : Txn), p.next? = some (x, q) → p.pos < p.d.rowLen → p.d.mcast = false →
    1 ≤ x.len ∧ x.len ≤ 512 ∧ x.src / 512 = (x.src + x.len - 1) / 512 ∧
      ∀ b ∈ x.dsts, (p.d.mcast = false → b / 512 = (b + x.len - 1) / 512)) ∧
  (∀ ps : List DmaPend, (ps.map fun p => p.out.length).sum ≤ 160 → ((startTxns 160 ps).map fun p => p.out.length).sum ≤ 160)

/-- UPD, UPD_DECISION_RELEASE and COLL (05 R147, R148, 07 R175, R176, R182). -/
def Obligations.UpdatesAndCollectivesStart : Prop :=
  ∀ (c : CoreId) (n : Nat) (run : Run) (s : State), let k := s.core c.val
    k.ctx = some n → s.coreRun c.val = some run →
    (∀ (w : UF) (r : Rule), w.rest = 0 → AtInsn s c.val (encodeU w) → k.remote = [] → k.vq.length < 16 → run.step = true →
      k.layer = none → (s.ctx n).rule? w.rule.toNat = some r →
      (let v := fun (i : BitVec 5) => (k.ra i.toNat).toNat
       let u := (s.ctx n).updWork w (v w.aw) (v w.ag) (v w.ao) (v w.am) ((k.ra w.at_.toNat).setWidth 32) (k.ra w.ae.toNat) r
       (s.ctx n).updTensorOk u.tid = true → (∀ o ∈ [u.aw, u.ag, u.ao], o % 128 = 0) → (r.moments ≠ 0 → u.am % 128 = 0) → (∀ g ∈ u.reads, g.1 + g.2 ≤ 0x600000) →
       ∃ t e, Answers (.upd c w) s t ∧ (t.core c.val).vq = k.vq ++ [e] ∧ e.work = .upd w u.aw u.ag u.ao u.am u.tid u.ae ∧
         e.phase = 0 ∧ (t.core c.val).pc = k.pc + 1 ∧ t = { s with cores := t.cores })) ∧
    (∀ (e : QEntry) (f : UF) (aw ag ao am : Nat) (tid : BitVec 32) (ae : BitVec 64),
      k.vq = [e] → e.work = .upd f aw ag ao am tid ae → e.phase = 0 → k.mq0 = [] → k.mq1 = [] → s.live = true → k.halted = false →
      (∀ r : Rule, s.link.member = true → (s.ctx n).step.decided = true → (s.ctx n).step.decision = false →
        (s.ctx n).step.journal = [] → (s.ctx n).rule? f.rule.toNat = some r →
        Answers (.updDecisionRelease c) s (s.updApply c.val n run ((s.ctx n).updWork f aw ag ao am tid ae r))) ∧
      (s.link.member = true → (s.ctx n).step.decided = true → (s.ctx n).step.decision = true →
        Answers (.updDecisionRelease c) s (s.modCore c.val fun k => k.headPhase 3)) ∧
      (∀ r : Rule, s.link.member = false → (s.ctx n).step.decided = false → (s.ctx n).step.ovfBit = false →
        (s.ctx n).step.journal = [] → (s.ctx n).rule? f.rule.toNat = some r →
        let v := s.updLatch n run
        (v.ctx n).step.decided = true ∧ (v.ctx n).step.decision = false ∧ v.mem = s.mem ∧ v.cores = s.cores ∧
          Answers (.updDecisionRelease c) s (v.updApply c.val n run ((s.ctx n).updWork f aw ag ao am tid ae r))) ∧
      (s.link.member = false → (s.ctx n).step.decided = false → (s.ctx n).step.ovfBit = true →
        ∃ t, Answers (.updDecisionRelease c) s t ∧ (t.ctx n).step.decided = true ∧ (t.ctx n).step.decision = true ∧ t.mem = s.mem ∧
          t.core c.val = k.headPhase 3)) ∧
    (∀ (w : SF) (d : CollDesc) (u : State), let a := (k.ra w.a.toNat).toNat + w.imm.toInt
      let t := s.setCore c.val { k with
        dq := [{ seq := k.nextSeq, pc := k.pc, word := encodeS 0x38#8 w, work := .coll d, reads := [], writes := [], phase := 0 }],
        pc := k.pc + 1, afterBlk := false, nextSeq := k.nextSeq + 1 }
      w = ⟨0, 0, w.a, 0, 0, w.imm⟩ → AtInsn s c.val (encodeS 0x38#8 w) → IdleCore k → CleanStore s → k.layer = none →
      0 ≤ a → a % 64 = 0 → a + 64 ≤ 0x600000 →
      s.checkColl n run.step (Mem.read s.mem (c.val * 0x800000 + a.toNat) 64) = some d → t.collRoom n = true →
      t.startColl n run.epoch (s.ctx n).step.layout run.id 0 d = some u → (u.core c.val).vq = [] → (u.core c.val).dq = (t.core c.val).dq →
      Answers (.coll c w) s (u.modCore c.val fun k => { k with dq := [] }))

/-- The rules (07 R170), the generator (07 R172) in whole numbers, and what an applied UPD writes (07 R168). The commit (07 R171) is over exact
rationals; `ulp` of a BF16 code is 2 to `ulpExp`, whose value is stated too. -/
def Obligations.WeightCommit : Prop :=
  (∀ w : Nat, w < 2 ^ 16 → (decodeFmt 2 w).Finite →
    (2 : Rat) ^ ulpExp w = (2 : Rat) ^ (max (if (decodeFmt 2 w).val = 0 then -126 else Int.log 2 |(decodeFmt 2 w).val|) (-126) - 7)) ∧
  (∀ (w : Nat) (c : Int) (d : F32) (u : Nat), w < 2 ^ 16 → -128 ≤ c → c ≤ 127 → u < 2 ^ 16 →
    let r := commitWeight w c d u
    ((decodeFmt 2 w).Finite → (f32 d).Finite →
      let x : Rat := (decodeFmt 2 w).val + (f32 d).val + c * (2 : Rat) ^ (-8 : Int) * (2 : Rat) ^ ulpExp w
      let n : Int := ⌊(x - (decodeFmt 2 r.1).val) / (2 : Rat) ^ ulpExp r.1 * 256 + u * (2 : Rat) ^ (-16 : Int)⌋
      (∃ (neg : Bool) (m : Nat) (e : Int), (Machine.Num.fin neg m e).val = x ∧ r.1 = (narrowNum 2 (.fin neg m e)).1 ∧
        r.2.2.2 = (narrowNum 2 (.fin neg m e)).2) ∧
      r.2.1 = max (-128) (min 127 n) ∧ (r.2.2.1 = true ↔ n < -128 ∨ 127 < n)) ∧
    (¬ (decodeFmt 2 w).Finite ∨ ¬ (f32 d).Finite → r.2.1 = 0 ∧ r.2.2.1 = false)) ∧
  (∀ (r : Rule) (i : RuleIn) (g w m1 m2 : F32),
    let mul := fun a b => (fmul a b).1
    let fma := fun a b c => (ffma a b c).1
    let gs := mul (mul g i.invLs) i.gf
    let lr := i.lr ^^^ 0x80000000#32
    let out := ruleStep r i g w m1 m2
    (r.kind = 1 → out.d = mul lr (fma r.wd w gs)) ∧
    (r.kind = 2 → out.m1 = fma r.b1 m1 (fma r.wd w gs) ∧ out.d = mul lr out.m1) ∧
    (r.kind = 3 → out.m1 = fma r.b1 m1 (mul r.c1 gs) ∧ out.m2 = fma r.b2 m2 (mul r.c2 (mul gs gs)) ∧
      out.d = mul lr (fma r.wd w (fdiv (mul out.m1 i.bc1) (fadd (fsqrt (mul out.m2 i.bc2)).1 r.eps).1).1))) ∧
  (∀ x : Int, -126 ≤ x → x ≤ 126 → invOf (pow2F32 x) = pow2F32 (-x)) ∧
  (let mix := fun (z : Nat) => let y := (z ^^^ z / 2 ^ 30) * 0xBF58476D1CE4E5B9 % 2 ^ 64
     let x := (y ^^^ y / 2 ^ 27) * 0x94D049BB133111EB % 2 ^ 64
     x ^^^ x / 2 ^ 31
   ∀ (seed e : BitVec 64) (epoch : Nat) (tid : BitVec 32), epoch < 2 ^ 48 →
     elementBits (tensorKey seed epoch tid) e =
       mix (mix (mix (mix ((seed.toNat + 0x9E3779B97F4A7C15) % 2 ^ 64) ^^^ epoch) ^^^ tid.toNat) ^^^ e.toNat) / 2 ^ 48) ∧
  (∀ (c : CoreId) (n : Nat) (run : Run) (s : State) (u : UpdWork), CleanStore s → u.clash = false →
    1 ≤ u.rule.kind → u.rule.kind ≤ 3 → (s.core c.val).ctx = some n →
    let b := c.val * 0x800000
    let t := s.updApply c.val n run u
    let i := (s.core c.val).ruleIn u.rule (invOf ((s.ctx n).step.lossScale run))
    let mb := if u.rule.mfmt = 1 then 4 else 2
    let gb := if u.gfmt = 3 then 4 else 2
    let read := fun (k a : Nat) => if k = 4 then BitVec.ofNat 32 (leNat (Mem.read s.mem (b + a) 4)) else widen 2 (leNat (Mem.read s.mem (b + a) 2))
    let stored := fun (x : F32) => if mb = 4 then natLe 4 x.toNat else natLe 2 (narrowNum 2 (f32 x)).1
    (∀ j, j < u.n →
      let w := leNat (Mem.read s.mem (b + u.aw + 2 * j) 2)
      let m1 := if u.rule.kind = 1 then 0#32 else read mb (u.am + j * mb)
      let m2 := if u.rule.kind = 3 then read mb (u.am + (u.n + j) * mb) else 0#32
      let out := ruleStep u.rule i (read gb (u.ag + gb * j)) (widen 2 w) m1 m2
      let cw := commitWeight w (Mem.byte s.mem (b + u.ao + j)).toInt out.d
        (elementBits (tensorKey (s.ctx n).step.seed run.epoch u.tid) (u.ae + BitVec.ofNat 64 j))
      Mem.read t.mem (b + u.aw + 2 * j) 2 = natLe 2 cw.1 ∧ Mem.byte t.mem (b + u.ao + j) = BitVec.ofInt 8 cw.2.1 ∧
      (u.rule.kind ≠ 1 → Mem.read t.mem (b + u.am + j * mb) mb = stored out.m1) ∧
      (u.rule.kind = 3 → Mem.read t.mem (b + u.am + (u.n + j) * mb) mb = stored out.m2)) ∧
    (∀ a, (∀ j, j < u.n → (a < b + u.aw + 2 * j ∨ b + u.aw + 2 * j + 2 ≤ a) ∧ a ≠ b + u.ao + j ∧
        (u.rule.kind ≠ 1 → a < b + u.am + j * mb ∨ b + u.am + j * mb + mb ≤ a) ∧
        (u.rule.kind = 3 → a < b + u.am + (u.n + j) * mb ∨ b + u.am + (u.n + j) * mb + mb ≤ a)) →
      Mem.byte t.mem a = Mem.byte s.mem a) ∧
    t.core c.val = (s.core c.val).headPhase 1 ∧ ∀ x, x ≠ c.val → t.core x = s.core x)

/-- The allocation commands (09 R220 to R223, R230, 13 R362). What a charge finds (09 R220, R222, R230). -/
def Obligations.AllocationCommands : Prop :=
  ((∀ (n : CtxId) (tag : Tag) (s : State) (c : Cmd), Begins s n.val 0x10 tag c →
     let tier := c.p 8 1
     let units := c.p 16 8 / 0x200000
     (∀ base, s.charge n.val tier (c.p 9 1) units = .ok base → ∃ t, Answers (.memAlloc n tag) s t ∧ Done t n.val 0x10 tag 0 base 0 ∧
       t.allocs = s.allocs ++ [{ ctx := n.val, tier := tier, base := base, units := units, freeing := false }] ∧
       (t.ctx n.val).mem.used tier = (s.ctx n.val).mem.used tier + units ∧ t.mem = s.mem) ∧
     (s.charge n.val tier (c.p 9 1) units = .overQuota → ∃ t, Answers (.memAlloc n tag) s t ∧ Done t n.val 0x10 tag 0x210 0 0 ∧
       t.allocs = s.allocs) ∧
     (s.charge n.val tier (c.p 9 1) units = .exhausted → ∃ t, Answers (.memAlloc n tag) s t ∧ Done t n.val 0x10 tag 0x211 0 0 ∧
       t.allocs = s.allocs) ∧
     (s.charge n.val tier (c.p 9 1) units = .wait → Answers (.memAlloc n tag) s s)) ∧
   (∀ (n : CtxId) (tag : Tag) (s : State) (c : Cmd), Begins s n.val 0x11 tag c →
     let hit := s.allocs.find? fun x => x.ctx == n.val && x.base == c.p 16 8 && !x.freeing
     (hit = none → ∃ t, Answers (.memFree n tag) s t ∧ Done t n.val 0x11 tag 0x212 0 0 ∧ t.allocs = s.allocs) ∧
     (∀ x, hit = some x → x.tier = 3 → ∃ t, Answers (.memFree n tag) s t ∧ Done t n.val 0x11 tag 0 0 0 ∧
       t.allocs = s.allocs.filter fun y => y != x) ∧
     (∀ x, hit = some x → x.tier ≠ 3 → (s.ctx n.val).inRetained x.base (x.units * 0x200000) = false →
       (s.ctx n.val).imageIn x.base (x.units * 0x200000) = false → s.loadNames x.base (x.units * 0x200000) = false →
       s.commandNames x.base (x.units * 0x200000) = false → s.moveNames n.val x.base (x.units * 0x200000) = false → ∃ t, Answers (.memFree n tag) s t ∧
         t.fills = s.fills ++ [{ tier := x.tier, base := x.base, units := x.units, waiter := some (n.val, tag), retire := none }] ∧
         (∀ y ∈ t.allocs, y.base = x.base ∧ y.ctx = x.ctx ∧ y.tier = x.tier ∧ y.units = x.units → y.freeing = true) ∧ t.mem = s.mem)) ∧
   (∀ (k : Nat) (f : Fill) (s : State), s.ready = true → s.fills[k]? = some f →
     ∃ t, Answers (.memFillComplete k) s t ∧ t.fills = s.fills.eraseIdx k ∧
       (∀ a, Mem.byte t.mem a = if f.base ≤ a ∧ a < f.base + f.units * 0x200000 then 0 else Mem.byte s.mem a) ∧
       (f.waiter = none → t.allocs = s.allocs) ∧
       (∀ n tag c, f.waiter = some (n, tag) → s.cmd? n 0x11 tag true = some c → Done t n 0x11 tag 0 0 0 ∧
         (∀ y ∈ t.allocs, ¬ (y.ctx = n ∧ y.tier = f.tier ∧ y.base = f.base ∧ y.freeing = true)) ∧
         (t.ctx n).mem.used f.tier = (s.ctx n).mem.used f.tier - f.units)) ∧
   (∀ (tag : Tag) (s : State) (c : Cmd), Begins s 16 0x12 tag c → let n := c.p 8 1
     (n < 16 → (s.ctx n).sched.st = 1 → ∃ t, Answers (.quotaSet tag) s t ∧ Done t 16 0x12 tag 0 0 0 ∧
       (t.ctx n).mem.limit (c.p 9 1) = c.p 16 8 ∧ (t.ctx n).mem.used1 = (s.ctx n).mem.used1 ∧ t.allocs = s.allocs) ∧
     (n < 16 → (s.ctx n).sched.st ≠ 1 → EndsWith (.quotaSet tag) s 16 0x12 tag 0x23D 0 0))) ∧
  (∀ (s : State) (ctx tier place units base : Nat), s.charge ctx tier place units = .ok base →
     (s.ctx ctx).mem.used tier + units ≤ (s.ctx ctx).mem.limit tier ∧
     (tier = 3 → base = s.nextHandle) ∧
     (tier ≠ 3 → (let r := placeRange tier place
       r.1 ≤ base ∧ base + units * 0x200000 ≤ r.1 + r.2 ∧
       ∀ g ∈ s.usedRanges tier ++ s.fillRanges tier, base + units * 0x200000 ≤ g.1 ∨ g.1 + g.2 ≤ base)))

/-- What an access meets in a word (09 R226, R228, R236), and a write of good words (09 R227). SCRUB_ACCESS and REMAP_LEDGER_COMMIT (09 R231, R234, R240). -/
def Obligations.WordCodeScrubAndRemap : Prop :=
  ((∀ (s : State) (w found : Nat),
     (s.badBits w = 0 → s.meetWord w found = (true, s)) ∧
     (inT1 w = true → s.badBits w = 1 → (s.meetWord w found).1 = true ∧ (s.meetWord w found).2.badBits w = 0 ∧
       (s.meetWord w found).2.ecc.single1 = min (s.ecc.single1 + 1) (2 ^ 32 - 1) ∧ (s.meetWord w found).2.mem = s.mem) ∧
     (inT2 w = true → inT1 w = false → s.badBits w = 2 → (s.meetWord w found).1 = true ∧ (s.meetWord w found).2.badBits w = 0 ∧
       (s.meetWord w found).2.ecc.double2 = min (s.ecc.double2 + 1) (2 ^ 16 - 1) ∧ (s.meetWord w found).2.mem = s.mem) ∧
     (inT1 w = true → s.badBits w = 3 → (s.meetWord w found).1 = false ∧ (s.meetWord w found).2.badBits w = 3 ∧
       (s.meetWord w found).2.ecc.uncorr1 = min (s.ecc.uncorr1 + 1) (2 ^ 12 - 1) ∧ (s.meetWord w found).2.mem = s.mem ∧
       (s.meetWord w found).2.ecc.lastAddr = w / 8 ∧ (s.meetWord w found).2.ecc.lastKind = 3 ∧ (s.meetWord w found).2.ecc.lastFound = found) ∧
     (inT1 w = false → inT2 w = false → s.badBits w = 1 → (s.meetWord w found).1 = false ∧
       (s.meetWord w found).2.ecc.storePar = min (s.ecc.storePar + 1) (2 ^ 16 - 1) ∧ (s.meetWord w found).2.mem = s.mem)) ∧
   (∀ (s : State) (a : Nat) (bs : List Byte), CleanStore s → ∃ t, s.store a bs = (none, t) ∧ Mem.read t.mem a bs.length = bs ∧
     (∀ x, (x < a ∨ a + bs.length ≤ x) → Mem.byte t.mem x = Mem.byte s.mem x) ∧ t = { s with mem := t.mem } ∧
     s.load a bs.length = (.inl (Mem.read s.mem a bs.length), s))) ∧
  ((∀ s : State, s.ready = true → s.pwr.rest ≤ 2 → s.ecc.bad = [] →
     (∃ t, Answers (.scrubAccess false []) s t ∧ t = { s with ecc := t.ecc } ∧ t.ecc.pos2 = s.ecc.pos2 ∧ t.ecc.passes2 = s.ecc.passes2 ∧
       (s.ecc.pos1 + 1 < 0x1E00000000 → t.ecc.pos1 = s.ecc.pos1 + 1 ∧ t.ecc.passes1 = s.ecc.passes1) ∧
       (0x1E00000000 ≤ s.ecc.pos1 + 1 → t.ecc.pos1 = 0 ∧ t.ecc.passes1 = min (s.ecc.passes1 + 1) (2 ^ 24 - 1))) ∧
     (∃ t, Answers (.scrubAccess true []) s t ∧ t = { s with ecc := t.ecc } ∧ t.ecc.pos1 = s.ecc.pos1 ∧
       (s.ecc.pos2 + 1 < 0x3000000000 → t.ecc.pos2 = s.ecc.pos2 + 1)) ∧
     (let w := 0x010000000000 + 8 * s.ecc.pos1
      s.ecc.pos1 < 0x1E00000000 → ∃ t, Answers (.scrubAccess false [⟨w, 1⟩]) s t ∧ t.badBits w = 0 ∧
       t.ecc.single1 = min (s.ecc.single1 + 1) (2 ^ 32 - 1) ∧ t.ecc.lastFound = 1 ∧ t.mem = s.mem)) ∧
   (∀ (ctl : PortId) (s : State) (l1 l2 : List Remap) (r : Remap), s.remaps ctl.val = l1 ++ r :: l2 → (∀ x ∈ l1, x.committed = true) →
     r.committed = false → ∃ t, Answers (.remapLedgerCommit ctl) s t ∧ t.remaps ctl.val = l1 ++ { r with committed := true } :: l2 ∧
       (∀ d, d ≠ ctl.val → t.remaps d = s.remaps d) ∧ t = { s with ecc := t.ecc }))

/-- TASK_TAKE, CORE_CLOCK_RESTART, TASK_COMPLETE and BLOCK_BOUND_EXPIRY (04 R108 to R111, 05 R121, R123). Which task is taken (04 R108). -/
def Obligations.TasksAreTakenInOrderAndCompleted : Prop :=
  (∀ (c : CoreId) (s : State), let k := s.core c.val
     (∀ n : Nat, s.idleIn c.val = some n →
       (∀ (t : PoolTask) (steal : Bool) (p : Prog) (r : Run) (d : TaskDesc), k.clockOff = false →
         (s.ctx n).nextTask (c.val / 80) = some (t, steal) → (s.ctx n).prog = some p → (s.ctx n).run? t.run = some r →
         p.tasks.find? (fun d => d.tid == t.tid) = some d → CleanStore s →
         (let code := bytesWords (Mem.read s.mem (p.addr + d.entry) (8 * d.len))
          (code.headD 0).extractLsb' 56 8 = 0x01#8 → ∃ u, Answers (.taskTake c) s u ∧
           (u.core c.val).code = code ∧ (u.core c.val).pc = 0 ∧ (u.core c.val).ctx = some n ∧
           (u.core c.val).task = some { run := r.id, tid := t.tid } ∧
           (u.core c.val).ra 0 = BitVec.ofNat 64 ((d.arg.toNat + r.argOff.toNat) % 2 ^ 48) ∧ (u.core c.val).ra 1 = BitVec.ofNat 64 t.tid ∧
           (∀ i, 2 ≤ i → (u.core c.val).ra i = 0) ∧ (u.core c.val).l = [] ∧ (u.core c.val).f = [] ∧ (u.core c.val).t = k.t ∧
           (u.core c.val).s = k.s ∧ (u.ctx n).pool.length < (s.ctx n).pool.length ∧
           (u.ctx n).arith.taken = (if steal then (s.ctx n).arith.taken else min ((s.ctx n).arith.taken + 1) (2 ^ 32 - 1)) ∧
           (u.ctx n).arith.stolen = (if steal then min ((s.ctx n).arith.stolen + 1) (2 ^ 31 - 1) else (s.ctx n).arith.stolen) ∧
           u.mem = s.mem)) ∧
       ((s.ctx n).nextTask (c.val / 80) = none → k.clockOff = false → Answers (.taskTake c) s (s.setCore c.val { k with clockOff := true })) ∧
       ((s.ctx n).nextTask (c.val / 80) ≠ none → k.clockOff = true → Answers (.coreClockRestart c) s (s.setCore c.val { k with clockOff := false }))) ∧
     (∀ (n : Nat) (t : TaskRun) (p : Prog) (d : TaskDesc) (r : Run), k.ctx = some n → k.task = some t → k.ended = true → k.halted = false →
       k.taskQuiet = true → (s.ctx n).prog = some p → p.tasks.find? (fun d => d.tid == t.tid) = some d →
       (s.ctx n).run? t.run = some r → d.sem < 256 → (s.sem n d.sem).toNat + 1 < 2 ^ 32 →
       (∀ i ∈ d.succ, i = 0xFFFFFFFF) → ∃ u, Answers (.taskComplete c) s u ∧ (u.core c.val).task = none ∧ (u.core c.val).ended = false ∧
         (u.core c.val).a = k.a ∧ u.sem n d.sem = s.sem n d.sem + 1 ∧ u.mem = s.mem ∧
         ∃ q, (u.ctx n).run? t.run = some q ∧ q.ran = r.ran + 1) ∧
     (∀ (n : Nat) (t : TaskRun) (p : Prog) (d : TaskDesc) (r : Run), k.ctx = some n → k.task = some t → k.ended = true → k.halted = false →
       k.taskQuiet = true → (s.ctx n).prog = some p → p.tasks.find? (fun d => d.tid == t.tid) = some d →
       (s.ctx n).run? t.run = some r → p.stages = [] → s.rst.busy = false →
       (d.sem = 0xFFFF ∨ (d.sem < 256 ∧ (s.sem n d.sem).toNat + 1 < 2 ^ 32)) →
       (r.tasks.map (·.tid)).Nodup → (∀ x ∈ r.tasks, ∃ e ∈ p.tasks, e.tid = x.tid) →
       (∀ i ∈ d.succ, i ≠ 0xFFFFFFFF → i ≠ t.tid ∧ ∃ x, r.task? i = some x ∧ d.succ.count i ≤ x.count) →
       ∃ u q, Answers (.taskComplete c) s u ∧ (u.ctx n).run? t.run = some q ∧ q.ran = r.ran + 1 ∧ (u.core c.val).task = none ∧ u.mem = s.mem ∧
         (∀ i, i < 256 → u.sem n i = if i = d.sem then s.sem n i + 1 else s.sem n i) ∧
         (∀ w ∈ (s.ctx n).pool, w ∈ (u.ctx n).pool) ∧
         (∀ i x, r.task? i = some x → i ≠ t.tid → ∃ y, q.task? i = some y ∧
           y.count = x.count - (if i = 0xFFFFFFFF then 0 else d.succ.count i) ∧
           y.st = (if x.st = 0 ∧ y.count = 0 then 1 else x.st) ∧
           (x.st = 0 → y.count = 0 → ∃ e w, e ∈ p.tasks ∧ e.tid = i ∧ w ∈ (u.ctx n).pool ∧ w.run = r.id ∧ w.tid = i ∧ w.prio = e.prio ∧
             w.order = (s.ctx n).order ∧ (e.home < 4 → s.enabledOf e.home ≠ 0 → w.quarter = e.home ∧ w.pin = e.pin)))) ∧
     (∀ b : Block, k.block = some b → k.task.isSome = true → k.halted = false → s.flt.active = false →
       ∃ u, Answers (.blockBoundExpiry c) s u ∧ u.flt.active = true ∧ (u.core c.val).halted = true ∧ u.mem = s.mem ∧
         (let f := u.record s.hlt.nextSeq
          f.cls = 0x100 ∧ f.insn = true ∧ f.core = c.val ∧ f.word = b.pc ∧ f.instr = b.word ∧ f.ctx = k.ctxNum ∧ f.task = k.taskId))) ∧
  (∀ (s : State) (k : Ctx) (d : TaskDesc),
     (d.home = 0xFF → d.pin = false → let q := (s.homeOf k d).1
       q < 4 ∧ ∀ j, j < 4 → k.poolLen q ≤ k.poolLen j ∧ (k.poolLen j = k.poolLen q → q ≤ j)) ∧
     (d.home < 4 → (d.pin = false ∨ s.enabledOf d.home ≠ 0) → s.homeOf k d = (d.home, d.pin)) ∧
     (∀ q, q < 4 → d.home < 4 → d.pin = true → s.enabledOf d.home = 0 → s.enabledOf q ≠ 0 → (∀ j, j < q → s.enabledOf j = 0) →
       s.homeOf k d = (q, false))) ∧
  (∀ (k : Ctx) (q : Nat) (t : PoolTask) (steal : Bool), k.nextTask q = some (t, steal) →
     t ∈ k.pool ∧ t.pooled = true ∧
     (steal = false → t.quarter = q ∧ ∀ u ∈ k.pool, u.quarter = q → u.pooled = true →
       k.prioOf u ≤ k.prioOf t ∧ (k.prioOf u = k.prioOf t → t.order ≤ u.order ∧ (u.order = t.order → t.tid ≤ u.tid))) ∧
     (steal = true → t.quarter ≠ q % 4 ∧ t.pin = false ∧ ∀ u ∈ k.pool, u.quarter = q → u.pooled = false))

/-- The events of a quarter and PREEMPT (12 R312 to R318, R323, 13 R364). The place of the registers whose layout 12 R316 does not give
is the model's choice (log 61). -/
def Obligations.QuartersSwitchContexts : Prop :=
  (∀ (q : QuarterId) (o : Nat) (s : State), let k := s.quarter q.val
    k.cur = some o → s.live = true →
    (k.phase = 0 → (s.pick q.val = none ∨ s.pick q.val = some o) →
      ∃ t, Answers (.sliceExpiry q) s t ∧ (t.quarter q.val).cur = some o ∧ (t.quarter q.val).phase = 0 ∧
        (t.quarter q.val).slice = max ((s.ctx o).sched.slice * 1000 - SMap.get 0 (s.ctx o).sched.debt q.val) 100 ∧
        (t.quarter q.val).yielded = false ∧ t.cores = s.cores ∧ t.mem = s.mem) ∧
    (∀ n, k.phase = 0 → s.pick q.val = some n → n ≠ o → ∃ t, Answers (.sliceExpiry q) s t ∧ (t.quarter q.val).phase = 1 ∧
      (t.quarter q.val).next = some n ∧ (t.quarter q.val).cur = some o ∧ (t.quarter q.val).ended = s.now ∧ t.mem = s.mem ∧
      (∀ c, t.core c = if c / 80 = q.val then (s.core c).stopHere else s.core c) ∧
      (t.ctx o).sched.preempt = (if t.readyOn o q.val then min ((s.ctx o).sched.preempt + 1) (2 ^ 64 - 1) else (s.ctx o).sched.preempt)) ∧
    (k.phase = 0 → s.readyOn o q.val = false → s.coresFree q.val = true →
      (s.pick q.val = none → (s.ctx o).sched.suspended = false →
        Answers (.yieldIdleTimer q) s (s.modQuarter q.val fun k => { k with yielded := true })) ∧
      (∀ n, s.pick q.val = some n → (s.ctx o).sched.suspended = false → ∃ t, Answers (.yieldIdleTimer q) s t ∧
        (t.quarter q.val).yielded = true ∧ (t.quarter q.val).phase = 2 ∧ (t.quarter q.val).next = some n ∧ (t.quarter q.val).cur = some o ∧
        t.cores = s.cores ∧ t.ctxs = s.ctxs ∧ t.mem = s.mem) ∧
      ((s.ctx o).sched.suspended = true → ∃ t, Answers (.yieldIdleTimer q) s t ∧ (t.quarter q.val).phase = 1 ∧
        (t.quarter q.val).next = s.pick q.val ∧ t.mem = s.mem)) ∧
    (k.phase = 1 → (∀ c, c / 80 = q.val → (s.core c).atBoundary = true) → ∃ t, Answers (.preemptBoundaryReached q) s t ∧
      (t.quarter q.val).phase = 2 ∧ (t.quarter q.val).cur = some o ∧
      (∀ n, t.pick q.val = some n → (t.quarter q.val).next = some n) ∧ (t.pick q.val = none → (t.quarter q.val).next = k.next) ∧
      (∀ c, t.core c = if c / 80 = q.val then (s.core c).stopHere else s.core c) ∧
      (∀ c, c / 80 = q.val → (s.core c).task.isSome = true → (t.core c).stopped = true ∧ (t.core c).a = (s.core c).a) ∧
      (t.ctx o).sched.overrun = min ((s.ctx o).sched.overrun + (s.now - k.ended)) (2 ^ 64 - 1) ∧
      SMap.get 0 (t.ctx o).sched.debt q.val = min (SMap.get 0 (s.ctx o).sched.debt q.val + (s.now - k.ended)) 65535 ∧ t.mem = s.mem) ∧
    (CleanStore s → Memory.wf s.mem = true → (∀ c, c / 80 = q.val → s.coreExists c = true) →
      (∀ b, SMap.get none (s.ctx o).mem.save q.val = some b → 0x010000000000 ≤ b) →
      (k.phase = 2 → (∀ c, c / 80 = q.val → (s.core c).quiet = true ∧ (s.core c).ctx = some o) → ∃ t, Answers (.saveComplete q) s t ∧
        (∀ c, c / 80 = q.val → t.core c = {} ∧ SMap.get none (t.ctx o).saved c = some (s.core c).record ∧
          (∀ x, x < 0x600000 → Mem.byte t.mem (c * 0x800000 + x) = 0) ∧
          (∀ a, s.recordAddr o c = some a → (∀ x, x < 0x600000 → Mem.byte t.mem (a + x) = Mem.byte s.mem (c * 0x800000 + x)) ∧
            (∀ i, i < 2048 → Mem.read t.mem (a + 0x600000 + 4 * i) 4 = natLe 4 ((s.core c).rs i).toNat) ∧
            (∀ l i, l.length = 4096 → i < 4096 →
              ((s.core c).acc0 = some l → Mem.read t.mem (a + 0x602000 + 4 * i) 4 = natLe 4 (l.getD i 0#32).toNat) ∧
              ((s.core c).acc1 = some l → Mem.read t.mem (a + 0x606000 + 4 * i) 4 = natLe 4 (l.getD i 0#32).toNat)))) ∧
        (∀ n, k.next = some n → (s.ctx n).sched.st = 1 → (s.ctx n).sched.suspended = false →
          (t.quarter q.val).cur = some n ∧ (t.quarter q.val).phase = 3 ∧ (t.quarter q.val).lastRan = some o) ∧
        (k.next = none → (s.ctx o).sched.suspended = true → (∀ n, n < 16 → s.readyOn n q.val = false) →
          (t.quarter q.val).cur = none ∧ (t.quarter q.val).phase = 0 ∧ (t.quarter q.val).lastRan = some o)) ∧
      (k.phase = 3 → ∃ t, Answers (.restoreQuarterComplete q) s t ∧
        (∀ c, c / 80 = q.val →
          (SMap.get none (s.ctx o).saved c = none → t.core c = { ctx := some o } ∧ ∀ x, x < 0x600000 → Mem.byte t.mem (c * 0x800000 + x) = 0) ∧
          (∀ r a, SMap.get none (s.ctx o).saved c = some r → r.ctx.isSome = true → s.recordAddr o c = some a →
            SMap.get none (t.ctx o).saved c = none ∧ (t.core c).ctx = some o ∧ (t.core c).a = r.a ∧ (t.core c).l = r.l ∧ (t.core c).f = r.f ∧
            (t.core c).t = r.t ∧ (t.core c).pc = r.pc ∧ (∀ x, x < 0x600000 → Mem.byte t.mem (c * 0x800000 + x) = Mem.byte s.mem (a + x)) ∧
            (∀ i, i < 2048 → (t.core c).rs i = BitVec.ofNat 32 (leNat (Mem.read s.mem (a + 0x600000 + 4 * i) 4))))) ∧
        ((s.ctx o).sched.suspended = false → (∀ n, n < 16 → n ≠ o → s.readyOn n q.val = false) →
          (t.quarter q.val).phase = 0 ∧ (t.quarter q.val).cur = some o ∧ (t.quarter q.val).lastRan = some o)))) ∧
  (∀ (tag : Tag) (s : State) (c : Cmd), Begins s 16 0x32 tag c → c.p 8 1 < 16 → let n := c.p 8 1
    (c.p 9 1 = 0 → (s.ctx n).sched.st = 1 → ∃ t, Answers (.preemptSuspend tag) s t ∧ (t.ctx n).sched.suspended = true ∧ t.mem = s.mem ∧
      (∀ x, t.core x = s.core x ∨ t.core x = (s.core x).stopHere) ∧
      (∀ q, q < 4 → (s.quarter q).cur = some n → (s.quarter q).phase = 0 ∨ (s.quarter q).phase = 3 →
        (t.quarter q).cur = some n ∧ (t.quarter q).phase = 1) ∧
      (s.onNoQuarter n = true → (s.ctx 16).host.cmds = [c] → Done t 16 0x32 tag 0 0 0)) ∧
    (c.p 9 1 = 0 → (s.ctx n).sched.st ≠ 1 → EndsWith (.preemptSuspend tag) s 16 0x32 tag 0x23D 0 0) ∧
    (c.p 9 1 = 1 → (s.ctx n).sched.st = 1 → ∃ t, Answers (.preemptResume tag) s t ∧ (t.ctx n).sched.suspended = false ∧
      Done t 16 0x32 tag 0 0 0 ∧ t.mem = s.mem ∧ ∀ x, t.core x = s.core x ∨ t.core x = (s.core x).stopHere) ∧
    (c.p 9 1 = 1 → (s.ctx n).sched.st ≠ 1 → EndsWith (.preemptResume tag) s 16 0x32 tag 0x23D 0 0))

/-- The CLR rows of a context and CTX_JOB_SEED_WRITE, with their whole frame. -/
def Obligations.ContextCountsAreCleared : Prop :=
  ∀ (o : Origin) (n : CtxN) (v : BitVec 64) (s : State), s.pwr.sup ≠ 3 →
    let k := s.ctx n.val
    let a := k.arith
    (o = .admin ∨ o = .ctx n →
      (v.getLsbD 63 = true →
        AnswersCtx (.clrCount o n v) s n.val { k with arith := { a with satCount := 0 } } ∧
        AnswersCtx (.ctxShadowCountClr o n v) s n.val { k with arith := { a with checked := 0, exceeded := 0 } } ∧
        AnswersCtx (.ctxRescaleCountClr o n v) s n.val { k with arith := { a with farOff := 0, shadow := 0, rerun := 0 } } ∧
        AnswersCtx (.ctxTaskCountClr o n v) s n.val { k with arith := { a with taken := 0, stolen := 0 } } ∧
        AnswersCtx (.ctxUpdateCountClr o n v) s n.val { k with arith := { a with skipped := 0, replayed := 0, clamped := 0 } } ∧
        AnswersCtx (.ctxCollCountClr o n v) s n.val { k with arith := { a with collDone := 0 } }) ∧
      (k.runInProgress = false → ∃ t, Answers (.ctxJobSeedWrite o n v) s t ∧ t.ctx n.val = { k with step := { k.step with seed := v } } ∧
        (∀ m, m ≠ n.val → t.ctx m = s.ctx m) ∧ t = { s with ctxs := t.ctxs, hlt := { s.hlt with slots := t.hlt.slots } } ∧
        ∀ m, SMap.get (0#64, 0, 0) t.hlt.slots m =
          if m = n.val then (v, k.step.applied, k.step.committed) else SMap.get (0#64, 0, 0) s.hlt.slots m) ∧
      (k.runInProgress = true → Answers (.ctxJobSeedWrite o n v) s s)) ∧
    (v.getLsbD 63 = false ∨ ¬ (o = .admin ∨ o = .ctx n) →
      Answers (.clrCount o n v) s s ∧ Answers (.ctxShadowCountClr o n v) s s ∧ Answers (.ctxRescaleCountClr o n v) s s ∧
      Answers (.ctxTaskCountClr o n v) s s ∧ Answers (.ctxUpdateCountClr o n v) s s ∧ Answers (.ctxCollCountClr o n v) s s) ∧
    (¬ (o = .admin ∨ o = .ctx n) → Answers (.ctxJobSeedWrite o n v) s s) ∧
    (o = .admin → v.getLsbD 0 = true → AnswersCtx (.ctxAcctCtlClr o n v) s n.val
      { k with sched := { k.sched with wait := 0, preempt := 0, used := 0, overrun := 0, energy := 0 } }) ∧
    (o ≠ .admin ∨ v.getLsbD 0 = false → Answers (.ctxAcctCtlClr o n v) s s)

/-- The rows of the module's single registers, with their whole frame. -/
def Obligations.ModuleRegisterRows : Prop :=
  ∀ (v : BitVec 64) (s : State), s.pwr.sup ≠ 3 →
    (v.getLsbD 63 = true →
      (∀ o, Answers (.memEccClr o false v) s { s with ecc := { s.ecc with single1 := 0, double1 := 0, uncorr1 := 0 } } ∧
        Answers (.memEccClr o true v) s { s with ecc := { s.ecc with single2 := 0, double2 := 0, uncorr2 := 0 } } ∧
        Answers (.lnkDropClr o v) s { s with link := { s.link with unreach := 0, hoplim := 0, proto := 0 } }) ∧
      (∀ (o : Origin) (p : PortId), AnswersPort (.lnkErrClr o p v) s p.val
        { s.port p.val with refused := 0, replays := 0, degrades := 0, lost := 0, fecUncorr := 0 }) ∧
      Answers (.mbxErrClr .admin v) s { s with host := { s.host with discarded := 0, stale := 0, flagRefused := 0, faulted := 0 } } ∧
      Answers (.clrVmin .admin v) s { s with pwr := { s.pwr with vmin := 0xFFFF } } ∧
      Answers (.pwrEventsClr .admin v) s { s with pwr := { s.pwr with sags := 0, rides := 0, wakes := 0, throttles := 0 } }) ∧
    (v.getLsbD 63 = false → Answers (.mbxErrClr .admin v) s s ∧ Answers (.clrVmin .admin v) s s ∧ Answers (.pwrEventsClr .admin v) s s ∧
      ∀ o, Answers (.memEccClr o false v) s s ∧ Answers (.memEccClr o true v) s s ∧ Answers (.lnkDropClr o v) s s) ∧
    (∀ m : Fin 2, v.getLsbD 7 = true → ∃ t, Answers (.mbxMgmtClr .admin m v) s t ∧
      t = { s with host := { s.host with rejected := t.host.rejected, duplicates := t.host.duplicates } } ∧
      ∀ x, SMap.get 0 t.host.rejected x = (if x = m.val then 0 else SMap.get 0 s.host.rejected x) ∧
        SMap.get 0 t.host.duplicates x = (if x = m.val then 0 else SMap.get 0 s.host.duplicates x)) ∧
    (let a := 8 * (v.toNat / 8 % 2 ^ 45)
     let named := (t1Base ≤ a ∧ a < t1Base + t1Size) ∨ (t2Base ≤ a ∧ a < t2Base + t2Size)
     let e : Ecc := { s.ecc with injFlips := v.toNat / 2 ^ 48 % 4, injArmed := s.ecc.injArmed || v.getLsbD 50 }
     (named → Answers (.arm .admin v) s { s with ecc := { e with injAddr := a / 8 } }) ∧ (¬ named → Answers (.arm .admin v) s { s with ecc := e })) ∧
    (v.getLsbD 0 = true → s.hlt.hstate = 2 → s.hlt.probBelow ≤ 500 → ∃ t, Answers (.readmit .admin v) s t ∧
      t = { s with hlt := { s.hlt with hstate := 0, score := 500, expelCause := 0, asked := false }, out := t.out } ∧ s.out.length < t.out.length) ∧
    (v.getLsbD 0 = false ∨ s.hlt.hstate ≠ 2 → Answers (.readmit .admin v) s s) ∧
    (let prob := v.toNat % 1024
     let exit := v.toNat / 2 ^ 10 % 1024
     let req := v.toNat / 2 ^ 20 % 1024
     let hold := v.toNat / 2 ^ 30 % 2048
     let ok := req < prob ∧ prob < exit ∧ 1 ≤ hold ∧ hold ≤ 1440
     (ok → ∃ t, Answers (.hltPolicyWrite .admin v) s t ∧ t = { s with hlt := t.hlt, out := t.out } ∧ t.hlt.probBelow = prob ∧
       t.hlt.probExit = exit ∧ t.hlt.reqBelow = req ∧ t.hlt.holdMin = hold ∧ t.hlt.score = s.hlt.score ∧ t.hlt.recs = s.hlt.recs ∧
       (s.hlt.hstate = 0 → t.hlt.hstate = if s.hlt.score < prob then 1 else 0) ∧
       (s.hlt.hstate = 1 → t.hlt.hstate = if s.hlt.score ≥ exit then 0 else 1) ∧
       (s.hlt.hstate = 2 → t.hlt.hstate = 2)) ∧
     (¬ ok → Answers (.hltPolicyWrite .admin v) s s)) ∧
    (let q := v.toNat / 2 ^ 32 % 2048
     (q = 0 ∨ clkPoint q → Answers (.clkReq .admin v) s { s with pwr := { s.pwr with clkReq := q } }) ∧
     (¬ (q = 0 ∨ clkPoint q) → Answers (.clkReq .admin v) s s)) ∧
    (∀ o, o ≠ .admin → Answers (.arm o v) s s ∧ Answers (.readmit o v) s s ∧ Answers (.hltPolicyWrite o v) s s ∧ Answers (.clkReq o v) s s ∧
      Answers (.mbxErrClr o v) s s ∧ Answers (.clrVmin o v) s s ∧ Answers (.pwrEventsClr o v) s s)

/-- REGISTER_WRITE, and what a read of the register returns afterwards. -/
def Obligations.WritableFieldsReadBack : Prop :=
  ∀ (v : BitVec 64) (s : State), s.pwr.sup ≠ 3 →
    (∀ (o : Origin) (a : BitVec 48) (size : Nat), size ≠ 8 ∨ a.toNat % 8 ≠ 0 → Answers (.registerWrite o a size v) s s) ∧
    (∀ a size, size ≠ 8 ∨ a % 8 ≠ 0 → s.readReg a size = 0#64) ∧
    (∃ t, Answers (.registerWrite .admin 0x0F0000090000#48 8 v) s t ∧ t.readReg 0x0F0000090000 = v &&& 0xFFFFFFFF00000003#64 ∧
      t = { s with shk := { s.shk with seed := t.shk.seed, path := t.shk.path, laceRelease := t.shk.laceRelease } }) ∧
    (∀ d : DirId, (∀ e, e < 8 → e ≠ d.val → (s.dir e).ports &&& v.setWidth 36 = 0#36) →
      ∃ t, Answers (.registerWrite .admin (BitVec.ofNat 48 (0x0F0000030040 + 8 * d.val)) 8 v) s t ∧
        t.readReg (0x0F0000030040 + 8 * d.val) =
          (v &&& 0x1FFFFFFFFF#64) ||| (if (s.dir d.val).down = true ∧ v.getLsbD 37 = false then 0x2000000000#64 else 0#64) ∧
        t = { s with dirs := t.dirs, ports := t.ports, out := t.out }) ∧
    (v.toNat / 2 ^ 20 % 1024 < v.toNat % 1024 → v.toNat % 1024 < v.toNat / 2 ^ 10 % 1024 → 1 ≤ v.toNat / 2 ^ 30 % 2048 →
      v.toNat / 2 ^ 30 % 2048 ≤ 1440 → ∃ t, Answers (.registerWrite .admin 0x0F0000050008#48 8 v) s t ∧
        t.readReg 0x0F0000050008 = v &&& 0x1FFFFFFFFFF#64 ∧ t = { s with hlt := t.hlt, out := t.out }) ∧
    (let a := 8 * (v.toNat / 8 % 2 ^ 45)
     let named := (t1Base ≤ a ∧ a < t1Base + t1Size) ∨ (t2Base ≤ a ∧ a < t2Base + t2Size)
     ∃ t, Answers (.registerWrite .admin 0x0F0000020028#48 8 v) s t ∧ t = { s with ecc := t.ecc } ∧
       (named → t.readReg 0x0F0000020028 = (v &&& 0x3FFFFFFFFFFF8#64) |||
          (if s.ecc.injArmed = true ∨ v.getLsbD 50 = true then 0x8000000000000#64 else 0#64)) ∧
       (¬ named → t.ecc.injAddr = s.ecc.injAddr ∧ t.ecc.injFlips = v.toNat / 2 ^ 48 % 4)) ∧
    (∀ (o : Origin) (n : CtxN), ¬ (o = .admin ∨ o = .ctx n) →
      Answers (.registerWrite o (BitVec.ofNat 48 (0x0F0000060000 + 32 * n.val)) 8 v) s s ∧
      Answers (.registerWrite o (BitVec.ofNat 48 (0x0F0000060008 + 32 * n.val)) 8 v) s s) ∧
    (∀ (o : Origin) (n : CtxN), (o = .admin ∨ o = .ctx n) → v.toNat / 2 ^ 16 % 8 ≤ 4 → v.toNat / 2 ^ 37 % 2 ^ 17 ≠ 0 →
      ∃ t, Answers (.registerWrite o (BitVec.ofNat 48 (0x0F0000060000 + 32 * n.val)) 8 v) s t ∧
        t.readReg (0x0F0000060000 + 32 * n.val) = v &&& 0x3FFFFFFFFFFFFF#64 ∧ t = { s with ctxs := t.ctxs } ∧
        ∀ m, m ≠ n.val → t.ctx m = s.ctx m) ∧
    (∀ n : CtxN, (s.ctx n.val).runInProgress = false →
      ∃ t, Answers (.registerWrite (.ctx n) (BitVec.ofNat 48 (0x0F0000100000 + 0x1000 * n.val + 0x250)) 8 v) s t ∧
        t.readReg (0x0F0000100000 + 0x1000 * n.val + 0x250) = v ∧ t = { s with ctxs := t.ctxs, hlt := { s.hlt with slots := t.hlt.slots } } ∧
        ∀ m, m ≠ n.val → t.ctx m = s.ctx m) ∧
    (∀ r : FRec, (r.setWordAt 4 v).core = (if v.toNat % 512 < 320 then v.toNat % 512 else r.core) ∧
      (r.setWordAt 0 v).ctx = (if v.toNat / 2 ^ 51 % 32 ≤ 16 ∨ v.toNat / 2 ^ 51 % 32 = 31 then v.toNat / 2 ^ 51 % 32 else r.ctx) ∧
      (r.setWordAt 0 v).cls = (if 0x100 ≤ v.toNat / 2 ^ 32 % 2 ^ 16 ∧ v.toNat / 2 ^ 32 % 2 ^ 16 ≤ 0x10B then v.toNat / 2 ^ 32 % 2 ^ 16 else r.cls))


/-- The events of a port's training and of its degrade, and the three bits of LNK_CTL (10 R249, R268, R275). -/
def Obligations.TrainingMovesAPort : Prop :=
  ∀ (p : PortId) (s : State), let k := s.port p.val
    (∀ lanes : BitVec 8,
      (k.st = 1 → laneCount lanes ≥ 7 → AnswersPort (.laneSignalDetect p lanes) s p.val { k with st := 2 }) ∧
      (k.st ≠ 1 ∨ laneCount lanes < 7 → Answers (.laneSignalDetect p lanes) s s) ∧
      (k.st = 2 → laneCount lanes ≥ 7 → ∃ t, Answers (.lanesConverge p lanes) s t ∧ t.port p.val = { k with st := 3, lanes := lanes } ∧
        (∀ q, q ≠ p.val → t.port q = s.port q) ∧ SMap.get false t.pwr.lanesKept p.val = true ∧
        t = { s with ports := t.ports, pwr := { s.pwr with lanesKept := t.pwr.lanesKept } }) ∧
      (k.st ≠ 2 ∨ laneCount lanes < 7 → Answers (.lanesConverge p lanes) s s)) ∧
    (k.st = 2 → AnswersPort (.equaliseTimeout p) s p.val { k with st := 9 }) ∧ (k.st ≠ 2 → Answers (.equaliseTimeout p) s s) ∧
    (∀ rtt, k.st = 3 →
      (rtt ≤ 20000 → ∃ t, Answers (.fecLock p rtt) s t ∧ PortOnly s t p.val { k with rtt := rtt, st := 4, verdict := false } ∧
        t.out = s.out ++ [.exchange p.val (s.announcement p.val)]) ∧
      (20000 < rtt → AnswersPort (.fecLock p rtt) s p.val { k with rtt := min rtt 0xFFFF, st := 9 })) ∧
    (k.st = 3 → AnswersPort (.alignTimeout p) s p.val { k with st := 9 }) ∧
    (k.st ≠ 3 → Answers (.alignTimeout p) s s ∧ ∀ rtt, Answers (.fecLock p rtt) s s) ∧
    (k.st = 9 → AnswersPort (.failedRetryTimer p) s p.val { k with st := 1 } ∧
      ∀ v, s.pwr.sup ≠ 3 → v.getLsbD 2 = true → AnswersPort (.retrain .admin p v) s p.val { k with st := 1 }) ∧
    (∀ v, k.st ≠ 9 ∨ v.getLsbD 2 = false → Answers (.retrain .admin p v) s s) ∧
    (k.st = 8 → k.lostDir = none → AnswersPort (.downRetrainTimer p) s p.val { k with st := 1 }) ∧
    (k.st ≠ 8 ∨ k.lostDir ≠ none → Answers (.downRetrainTimer p) s s) ∧
    (∀ l : Fin 8, k.st = 7 → k.degLane = some l.val → k.hold = false → AnswersPort (.degradeComplete p) s p.val
      { k with st := 6, degLane := none, nakSent := true, nakDue := 1, lanes := k.lanes &&& ~~~(BitVec.ofNat 8 (2 ^ l.val)) }) ∧
    (∀ l : Fin 8, k.st = 6 → k.lanes = 0xFF#8 → ∃ t, Answers (.laneFault p l) s t ∧ Answers (.degradeMarkerReceive p l) s t ∧
      t.port p.val = { k with st := 7, degLane := some l.val, degrades := min (k.degrades + 1) 255 } ∧
      (∀ q, q ≠ p.val → t.port q = s.port q) ∧ t.out.getLast? = some (.marker p.val l.val) ∧
      t = { s with ports := t.ports, hlt := t.hlt, out := t.out }) ∧
    (∀ l : Fin 8, k.lanes.getLsbD l.val = false → Answers (.laneFault p l) s s ∧ Answers (.degradeMarkerReceive p l) s s) ∧
    (∀ v : BitVec 64, s.pwr.sup ≠ 3 →
      (v.getLsbD 0 = true → k.st = 0 → k.after ≠ some 0 → s.pwr.rest < 3 →
        AnswersPort (.enable .admin p v) s p.val { k with enable := true, st := 1 }) ∧
      (v.getLsbD 0 = true → k.st ≠ 0 ∨ 3 ≤ s.pwr.rest → k.after ≠ some 0 → AnswersPort (.enable .admin p v) s p.val { k with enable := true }) ∧
      (v.getLsbD 0 = false → k.st ≠ 6 → k.lostDir = none → ∃ t, Answers (.enable .admin p v) s t ∧ (t.port p.val).st = 0 ∧
        (t.port p.val).enable = false ∧ (t.port p.val).rbuf = [] ∧ (t.port p.val).egress = [] ∧ (t.port p.val).hold = k.hold ∧
        (∀ q, q ≠ p.val → { t.port q with occ := (s.port q).occ, freed := (s.port q).freed } = s.port q) ∧
        (k.egress = [] → ∀ q, q ≠ p.val → t.port q = s.port q) ∧ t = { s with ports := t.ports }) ∧
      (v.getLsbD 1 = true → k.st ≠ 6 → (k.st = 4 → k.verdict = false) → AnswersPort (.hold .admin p v) s p.val { k with hold := true }) ∧
      (v.getLsbD 1 = true → k.st = 4 → k.verdict = true → k.rerun = false →
        AnswersPort (.hold .admin p v) s p.val { k with hold := true, st := 5, verdict := false }) ∧
      (v.getLsbD 1 = false → k.st = 5 → k.hold = true →
        ∃ t, Answers (.hold .admin p v) s t ∧ PortOnly s t p.val { k with hold := false, st := 4, verdict := false } ∧
          t.out = s.out ++ [.exchange p.val (s.announcement p.val)]) ∧
      (v.getLsbD 1 = false → k.st ≠ 5 ∨ k.hold = false → AnswersPort (.hold .admin p v) s p.val { k with hold := false })) ∧
    (∀ (o : Origin) (v : BitVec 64), o ≠ .admin → Answers (.enable o p v) s s ∧ Answers (.hold o p v) s s ∧ Answers (.retrain o p v) s s)

/-- CODEWORD_LOSS_TIMEOUT, DEGRADE_TIMEOUT, HOLD and ENABLE of an ACTIVE port, HANDOVER, HANDOVER_TIMEOUT and LNK_DIR_d (10 R269 to R271). -/
def Obligations.LostPortsAreHandedOver : Prop :=
  ∀ (p : PortId) (s : State), let k := s.port p.val
    (∀ d q : Nat, s.dirOf p.val = some d → ((s.effective d).filter (· ≠ p.val)).head? = some q →
      let stops := fun (t : State) (a : Option Nat) =>
        (t.port p.val).st = 8 ∧ (t.port p.val).handover = true ∧ (t.port p.val).lostDir = some d ∧ (t.port p.val).after = a ∧
        (t.port p.val).lost = min (k.lost + 1) 255 ∧ (t.port p.val).rbuf = k.rbuf ∧ (t.port p.val).egress = k.egress ∧ (t.port p.val).resend = [] ∧
        (∃ f, (t.port q).ctlq = (s.port q).ctlq ++ [f] ∧ f.typ = 3#4 ∧ f.words = [1#64, BitVec.ofNat 64 p.val, BitVec.ofNat 64 (k.rxSeq - 1#12).toNat]) ∧
        (∀ x, x ≠ p.val → x ≠ q → t.port x = s.port x) ∧ t.dirs = s.dirs ∧ t.mem = s.mem ∧ t.flt = s.flt
      (k.st = 6 → ∀ u, ∃ t, Answers (.codewordLossTimeout p u) s t ∧ stops t none ∧ (t.port p.val).fecUncorr = min (k.fecUncorr + u) 32767) ∧
      (k.st = 7 → ∃ t, Answers (.degradeTimeout p) s t ∧ stops t none) ∧
      (k.st = 7 → k.hold = true → ∃ t, Answers (.degradeComplete p) s t ∧ stops t (some 5)) ∧
      (k.st = 6 → ∀ v, s.pwr.sup ≠ 3 →
        (v.getLsbD 0 = false → ∃ t, Answers (.enable .admin p v) s t ∧ stops t (some 0)) ∧
        (v.getLsbD 1 = true → ∃ t, Answers (.hold .admin p v) s t ∧ stops t (some 5)))) ∧
    (k.st ≠ 6 → ∀ u, Answers (.codewordLossTimeout p u) s s) ∧ (k.st ≠ 7 → Answers (.degradeTimeout p) s s) ∧
    (∀ (i arr d : Nat) (w0 w1 w2 : BitVec 64), s.link.ctlIn[i]? = some (arr, w0, w1, w2) → w0.toNat % 256 = 1 →
      s.handoverPort arr w1 = some (d, p.val) → k.st = 8 → k.after = none →
      ∃ t, Answers (.handover i) s t ∧ t.link.ctlIn = dropAt i s.link.ctlIn ∧ (t.port p.val).st = 8 ∧ (t.port p.val).handover = false ∧
        (t.port p.val).lostDir = none ∧ (t.port p.val).rbuf = [] ∧ (t.port p.val).egress = [] ∧
        (t.dir d).ports = (s.dir d).ports &&& ~~~(BitVec.ofNat 36 (2 ^ p.val)) ∧ t.mem = s.mem ∧ t.flt = s.flt) ∧
    (∀ i : Nat, (∀ e, s.link.ctlIn[i]? = some e → e.2.1.toNat % 256 ≠ 1 ∨ s.handoverPort e.1 e.2.2.1 = none) → Answers (.handover i) s s) ∧
    (∀ d : Nat, k.handover = true → k.lostDir = some d → ∃ t, Answers (.handoverTimeout p) s t ∧ (t.dir d).down = true ∧
      (t.dir d).held = [] ∧ t.mem = s.mem ∧
      (∀ q, q < 36 → (s.port q).lostDir = some d → (t.port q).lostDir = none ∧ (t.port q).handover = false) ∧
      (s.noticed d = true → t.flt = s.flt) ∧
      (s.noticed d = false → s.flt.active = false → t.flt.active = true ∧ t.flt.tf = s.now ∧
        let f := t.record s.hlt.nextSeq
        f.cls = 0x102 ∧ f.ctx = 31 ∧ f.subject = (if s.link.member then s.neighbour d else s.link.coord) ∧
        f.detail = BitVec.ofNat 64 (d + (s.neighbour d).toNat * 2 ^ 16))) ∧
    (k.handover = false ∨ k.lostDir = none → Answers (.handoverTimeout p) s s) ∧
    (∀ (d : DirId) (v : BitVec 64), s.pwr.sup ≠ 3 → ∃ t, Answers (.lnkDirWrite .admin d v) s t ∧
      (t.dir d.val).detour = v.getLsbD 36 ∧ (t.dir d.val).down = ((s.dir d.val).down && !v.getLsbD 37) ∧
      ((∀ e, e < 8 → e ≠ d.val → (s.dir e).ports &&& v.setWidth 36 = 0#36) → (t.dir d.val).ports = v.setWidth 36) ∧
      (∀ e, e < 8 → e ≠ d.val → t.dir e = s.dir e ∧ ((s.dir e).ports &&& v.setWidth 36 ≠ 0#36 → (t.dir d.val).ports = (s.dir d.val).ports)) ∧
      (inMask (t.dir d.val).ports p.val = true → k.st = 5 → k.hold = false → t.port p.val = { k with st := 4, verdict := false }) ∧
      (inMask (t.dir d.val).ports p.val = false ∨ k.st ≠ 5 ∨ k.hold = true → t.port p.val = k) ∧ t = { s with dirs := t.dirs, ports := t.ports, out := t.out })

/-- EXCHANGE, EXCHANGE_VERDICT_EXPIRY and RESETTING (10 R248 to R250).
That queued flits hold no slot of the new input buffers after an EXCHANGE is the model's choice (logs 37 and 47). -/
def Obligations.ExchangeLeadsToActive : Prop :=
  ∀ (p : PortId) (s : State), let k := s.port p.val
    (∀ (x : XInfo) (d rtt : Nat), let h := k.heardPeer x
      let held := k.hold || s.fenced x.serial x.fence || x.version != s.shk.version
      let notes := fun (t : State) => t = { s with ports := t.ports, hlt := { s.hlt with fences := t.hlt.fences, announced := t.hlt.announced } } ∧
        SMap.get 0 t.hlt.announced x.serial.toNat = max x.fence.toNat (SMap.get 0 s.hlt.announced x.serial.toNat)
      (k.st = 4 → s.link.member = true → x.member = true → x.group = s.link.group → s.exchangeDir p.val = some d → x.coord = s.neighbour d →
        ((s.dir d).detour = true ∨ partnerOf p.val = some (x.port % 64)) → held = false →
        ∃ t, Answers (.exchange p x rtt) s t ∧ t.port p.val = { h with rtt := min rtt 0xFFFF, verdict := true } ∧
          (∀ q, q ≠ p.val → t.port q = s.port q) ∧ notes t) ∧
      (k.st = 4 → s.link.member = false → k.rerun = false → ∃ t, Answers (.exchange p x rtt) s t ∧
        t.port p.val = { h with rtt := min rtt 0xFFFF, st := 5, verdict := false, hold := held } ∧ (∀ q, q ≠ p.val → t.port q = s.port q) ∧ notes t) ∧
      (k.st = 5 → s.link.member = false → ∃ t, Answers (.exchange p x rtt) s t ∧ t.port p.val = { h with hold := held } ∧
        (∀ q, q ≠ p.val → t.port q = s.port q) ∧ notes t) ∧
      (k.st = 6 → ∃ t, Answers (.exchange p x rtt) s t ∧ (t.port p.val).serial = x.serial ∧ (t.port p.val).rbuf = [] ∧
        (t.port p.val).rtt = min rtt 0xFFFF ∧ (t.port p.val).txSeq = k.txSeq ∧ ((t.port p.val).st = 4 ∨ (t.port p.val).st = 5) ∧ t.mem = s.mem) ∧
      (k.st ≠ 4 → k.st ≠ 5 → k.st ≠ 6 → Answers (.exchange p x rtt) s s)) ∧
    (k.st = 4 → k.verdict = true → k.hold = false → s.exchangeOk p.val = true → s.joining = none →
      (∃ t, Answers (.exchangeVerdictExpiry p) s t ∧ t.port p.val = k.activated ∧
        (∀ q, q < 36 → q ≠ p.val → t.port q = { s.port q with egress := (s.port q).egress.map fun e => (e.1, e.2.map (EItem.unlink p.val)) }) ∧
        (∀ d, d < 8 → t.dir d = { s.dir d with held := (s.dir d).held.map fun e => (e.1, if e.2 = p.val then 36 else e.2) }) ∧
        t = { s with ports := t.ports, dirs := t.dirs }) ∧
      k.activated.st = 6 ∧ k.activated.txSeq = 0 ∧ k.activated.rxSeq = 0 ∧ k.activated.occ = [] ∧
      ∀ vc, SMap.get 0 k.activated.credits vc = [64, 512, 512, 384, 384, 128].getD vc 0) ∧
    (k.st = 4 → k.verdict = true → k.hold = true → k.rerun = false →
      AnswersPort (.exchangeVerdictExpiry p) s p.val { k with st := 5, verdict := false }) ∧
    (k.st ≠ 4 ∨ k.verdict = false → Answers (.exchangeVerdictExpiry p) s s) ∧
    (∀ (i arr d : Nat) (w : BitVec 64 × BitVec 64 × BitVec 64), s.link.ctlIn[i]? = some (arr, w) → w.1.toNat % 256 = 2 → s.dirOf arr = some d →
      ∃ t, Answers (.resetting i) s t ∧ t.dir d = { s.dir d with resetting := some s.now } ∧ (∀ e, e ≠ d → t.dir e = s.dir e) ∧
        t.link.ctlIn = dropAt i s.link.ctlIn ∧ t = { s with dirs := t.dirs, link := { s.link with ctlIn := t.link.ctlIn } })

/-- FLIT_RECEIVE, NAK_RECEIVE, ACK_TIMEOUT and FLIT_SLOT (10 R254 to R265).
That a NAK goes before the resend (log 35) and that a flit of a protocol error does not advance the expected SEQ (log 36) are the
model's choices. -/
def Obligations.FlitsOnAPort : Prop :=
  ∀ (p : PortId) (s : State), let k := s.port p.val
    (∀ (raw : List Byte) (u : Nat), let f := parseFlit raw
     let c : Port := { k with fecUncorr := min (k.fecUncorr + u) 32767 }
     let taken := c.takeFields f
     (k.st = 5 ∨ k.st = 6 →
      (rawOk raw = false → ∃ t, Answers (.flitReceive p raw u) s t ∧ t.port p.val = { c.askNak with refused := min (k.refused + 1) 65535 } ∧
        (∀ q, q ≠ p.val → t.port q = s.port q) ∧ t = { s with ports := t.ports, hlt := t.hlt, out := t.out }) ∧
      (rawOk raw = true → flitProtoError f = true → ∃ t, Answers (.flitReceive p raw u) s t ∧ t.port p.val = taken ∧
        (∀ q, q ≠ p.val → t.port q = s.port q) ∧ t = { s with ports := t.ports, link := { s.link with proto := min (s.link.proto + 1) 32767 } })) ∧
     (k.st = 5 → rawOk raw = true → flitProtoError f = false → AnswersPort (.flitReceive p raw u) s p.val taken) ∧
     (k.st ≠ 5 → k.st ≠ 6 → Answers (.flitReceive p raw u) s s) ∧
     (k.st = 6 →
      (rawOk raw = true → flitProtoError f = false → f.typ = 0#4 → AnswersPort (.flitReceive p raw u) s p.val taken) ∧
      (rawOk raw = true → flitProtoError f = false → f.typ = 1#4 ∨ f.typ = 3#4 → f.seq ≠ k.rxSeq →
        AnswersPort (.flitReceive p raw u) s p.val taken.askNak) ∧
      (rawOk raw = true → flitProtoError f = false → f.typ = 1#4 → f.seq = k.rxSeq → s.link.member = true → s.coordOk f.dst = true →
        (s.route f.dst = none → f.som = true → f.eom = true → (f.ctx.toNat < 16 → (s.ctx f.ctx.toNat).sched.st ≠ 2) →
          ∃ t, Answers (.flitReceive p raw u) s t ∧ (t.port p.val).rxSeq = k.rxSeq + 1#12 ∧ (t.port p.val).rbuf = taken.rbuf ∧
            SMap.get 0#12 (t.port p.val).freed f.vc.toNat = SMap.get 0#12 k.freed f.vc.toNat + 1#12 ∧
            t.link.inbox = s.link.inbox ++ [mkMsg p.val f.vc.toNat f.ctx.toNat f.src f.dst f.tag (f.words.getD 0 0#64) (f.words.getD 1 0#64)
              (f.words.getD 2 0#64) (f.words.getD 3 0#64) []] ∧
            (∀ q, q ≠ p.val → t.port q = s.port q) ∧ t.mem = s.mem ∧ t.cores = s.cores ∧ t.ctxs = s.ctxs) ∧
        (∀ d q : Nat, s.route f.dst = some d →
          let g : Flit := { f with hops := f.hops + 1#6 }
          (f.hops.toNat + 1 > 40 → ∃ t, Answers (.flitReceive p raw u) s t ∧ t.link.hoplim = min (s.link.hoplim + 1) 65535 ∧
            (∀ x, (t.port x).egress = (s.port x).egress) ∧ t.link.inbox = s.link.inbox) ∧
          (f.hops.toNat + 1 ≤ 40 → (s.dir d).down = true → ∃ t, Answers (.flitReceive p raw u) s t ∧
            t.link.unreach = min (s.link.unreach + 1) (2 ^ 32 - 1) ∧ (∀ x, (t.port x).egress = (s.port x).egress)) ∧
          (f.hops.toNat + 1 ≤ 40 → (s.dir d).down = false → s.egressPort d (some p.val) none g = some q → s.active q = true →
            ∃ t, Answers (.flitReceive p raw u) s t ∧ t.link = s.link ∧ t.mem = s.mem ∧
              SMap.get [] (t.port q).egress f.vc.toNat =
                SMap.get [] (s.port q).egress f.vc.toNat ++ [.flit g (s.entersRing d (some p.val)) p.val] ∧
              (t.port p.val).freed = k.freed ∧ SMap.get 0 (t.port p.val).occ f.vc.toNat = SMap.get 0 k.occ f.vc.toNat + 1 ∧
              ∀ x, x ≠ q → (t.port x).egress = (s.port x).egress))))) ∧
    (∀ f : Flit, (k.st = 6 → f.typ = 2#4 → flitProtoError f = false → let r := (k.takeFields f).beginResend
        r.begunAtHead < 8 → AnswersPort (.nakReceive p f) s p.val r ∧ r.resend = r.rbuf ∧ r.rbuf = afterAck f.ack k.rbuf) ∧
      (k.st ≠ 6 ∨ f.typ ≠ 2#4 → Answers (.nakReceive p f) s s)) ∧
    (k.st = 6 → k.rbuf ≠ [] → k.beginResend.begunAtHead < 8 → AnswersPort (.ackTimeout p) s p.val k.beginResend ∧
      k.beginResend.resend = k.rbuf ∧ k.beginResend.replays = min (k.replays + 1) 65535) ∧
    (k.st ≠ 6 ∨ k.rbuf = [] → Answers (.ackTimeout p) s s) ∧
    (∀ f : Flit, f.words.length = f.nw.toNat + 1 → f.words.length ≤ 30 →
      rawOk (flitWire f) = true ∧ parseFlit (flitWire f) = f) ∧
    (let sent := fun (f : Flit) => Out.flit p.val (flitWire
       { f with ack := k.rxSeq - 1#12, crvc := BitVec.ofNat 3 k.crRot, crcum := SMap.get (0#12) k.freed k.crRot })
     let idle := fun (typ : BitVec 4) => { mkFlit 0 31 s.link.coord 0#16 0#32 false false [0#64] with typ := typ }
     let sends := fun (f : Flit) (g : Port) => ∃ t, Answers (.flitSlot p) s t ∧ PortOnly s t p.val { g with crRot := (k.crRot + 1) % 6 } ∧
       t.out = s.out ++ [sent f]
     (k.st = 5 → sends (idle 0#4) k) ∧
     (k.st = 6 → (∀ vc m es, SMap.get [] k.egress vc ≠ .mark m :: es) →
       (0 < k.nakDue → sends (idle 2#4) { k with nakDue := k.nakDue - 1 }) ∧
       (k.nakDue = 0 → ∀ f fs, k.resend = f :: fs → sends f { k with resend := fs }) ∧
       (k.nakDue = 0 → k.resend = [] → k.rbuf.length < 2048 →
         (∀ f fs, k.ctlq = f :: fs → 1 ≤ SMap.get 0 k.credits 0 → let g : Flit := { f with seq := k.txSeq }
           sends g { k with ctlq := fs, txSeq := k.txSeq + 1#12, rbuf := k.rbuf ++ [g], credits := SMap.upd 0 k.credits f.vc.toNat (· - 1) }) ∧
         (k.ctlq = [] → (∀ vc, vc < 6 → k.readyFlit vc = none) → sends (idle 0#4) k) ∧
         (∀ f, k.ctlq = [] → k.readyFlit 0 = some f → 36 ≤ k.headHolder 0 → let g : Flit := { f with seq := k.txSeq }
           sends g { k with egress := SMap.upd [] k.egress 0 (·.drop 1), txSeq := k.txSeq + 1#12, rbuf := k.rbuf ++ [g],
                            credits := SMap.upd 0 k.credits f.vc.toNat (· - 1) }) ∧
         (∀ vc f, k.ctlq = [] → (vc ≠ 0 → k.readyFlit 0 = none) → vc < 6 → k.readyFlit vc = some f → k.headHolder vc ≠ p.val →
           (vc ≠ 0 → ∀ x, x ∈ [1, 2, 3, 4, 5] → x ≠ vc → k.readyFlit x = none) → ∃ t, Answers (.flitSlot p) s t ∧
             t.out = s.out ++ [sent { f with seq := k.txSeq }] ∧ (t.port p.val).egress = SMap.upd [] k.egress vc (·.drop 1) ∧
             (t.port p.val).txSeq = k.txSeq + 1#12 ∧ (t.port p.val).rbuf = k.rbuf ++ [{ f with seq := k.txSeq }] ∧
             ∀ x, x ≠ p.val → t.port x = if x = k.headHolder vc ∧ x < 36 then (s.port x).freeSlot vc else s.port x)) ∧
       (k.nakDue = 0 → k.resend = [] → 2048 ≤ k.rbuf.length → sends (idle 0#4) k)) ∧
     (k.st ≠ 5 → k.st ≠ 6 → Answers (.flitSlot p) s s))


/-- The events of the supply and of the temperatures, and POWER_SHAPE (16 R422 to R433, 19 R493).
That the thermal limit and the sag lower the clock at once (log 74), the forecast of a supply sample (log 51), the moments that the logs
73 and 74 name and the charge of the cell (log 73) are the model's choices. -/
def Obligations.SupplyMonitorAndClock : Prop :=
  (∀ (vin iin : BitVec 16) (s : State), let v := vin.toNat
    let i := if s.pwr.stageOpen then 0 else iin.toNat
    let top := if s.pwr.entering ≠ none then 600
      else min clkMax (min (if s.pwr.clkReq = 0 then clkMax else s.pwr.clkReq) (s.pwr.thermalCap.getD clkMax))
    let low := if 650 ≤ s.pwr.clk then s.pwr.clk - 50 else s.pwr.clk
    (s.pwr.sup = 3 → ∃ t, Answers (.supplySample vin iin) s t ∧ t.now = s.now + 1 ∧ t.pwr.sup = 3 ∧ t.pwr.vin = s.pwr.vin ∧
      t.pwr.energy = s.pwr.energy ∧ t.pwr.cell ≤ s.pwr.cell ∧ t.mem = s.mem ∧ t.ctxs = s.ctxs) ∧
    (s.pwr.sup ≤ 1 → ∃ t, Answers (.supplySample vin iin) s t ∧ t.now = s.now + 1 ∧ t.pwr.vin = v ∧ t.pwr.iin = i ∧
      t.pwr.vmin = min s.pwr.vmin v ∧ t.pwr.energy = min (s.pwr.energy + 4 * v * i) energyMax ∧ t.mem = s.mem ∧ t.cores = s.cores ∧
      (s.pwr.flat = false → t.pwr.aon = s.pwr.aon + 1 ∧
        (s.pwr.stageOpen = false → 4000 ≤ v → v ≤ 6000 → t.pwr.fed = s.pwr.fed + 1 ∧ (14400000000 ≤ s.pwr.fed + 1 → t.pwr.cell = 100) ∧
          (s.pwr.fed + 1 < 14400000000 → s.pwr.cell ≤ t.pwr.cell)) ∧
        (v < 4000 ∨ 6000 < v → t.pwr.fed = 0 ∧ t.pwr.cell ≤ s.pwr.cell)) ∧
      (∀ n, n < 16 →
        ((s.ctx n).sched.used < 2 ^ 64 → (t.ctx n).sched.used =
          min ((s.ctx n).sched.used + ((List.range 4).filter fun q => (s.quarter q).cur == some n).length) (2 ^ 64 - 1)) ∧
        ((s.ctx n).sched.wait < 2 ^ 64 → (t.ctx n).sched.wait = min ((s.ctx n).sched.wait + s.readyElsewhere n) (2 ^ 64 - 1))) ∧
      (3800 ≤ v → v ≤ 6300 → t.pwr.sup = s.pwr.sup ∧ t.flt = s.flt) ∧
      (s.pwr.sup = 0 → s.pwr.rest = 0 → 3800 ≤ v → v ≤ 6300 →
        (t.pwr.overLimit = true → t.pwr.clk = low) ∧
        (t.pwr.overLimit = false → top < s.pwr.clk → t.pwr.fallen = false → t.pwr.clk = low) ∧
        (t.pwr.overLimit = false → s.pwr.clk < top → t.pwr.risen = false →
          t.pwr.clk = min s.pwr.vpt (s.pwr.clk + 50) ∧ t.pwr.vpt = max s.pwr.vpt (min top (t.pwr.clk + 50))) ∧
        (t.pwr.overLimit = false → (s.pwr.clk ≤ top ∨ t.pwr.fallen = true) → (top ≤ s.pwr.clk ∨ t.pwr.risen = true) →
          t.pwr.clk = s.pwr.clk ∧ t.pwr.vpt = max s.pwr.clk (s.pwr.vpt - 50)) ∧
        (t.pwr.ballast = true ↔ t.pwr.fallen = true ∨ (s.anyRun = true ∧ (v * i < s.pwr.floor * 10000 ∨ t.pwr.early t.now = true)))) ∧
      (s.pwr.sup = 0 → s.pwr.rest ≠ 0 → 3800 ≤ v → v ≤ 6300 → t.pwr.clk = s.pwr.clk ∧ t.pwr.ballast = s.pwr.ballast) ∧
      (v < 3800 ∨ 6300 < v → s.pwr.sup = 0 → t.pwr.ballast = false) ∧
      t.pwr.window = (t.now, v, i) :: (s.pwr.window.filter fun e => decide (t.now < e.1 + 120000)) ∧
      (3000 ≤ v → v < 3800 → t.pwr.sup = 1 ∧ t.flt = s.flt ∧ (s.pwr.sup = 0 → t.pwr.clk = 600 ∧ t.pwr.sags = min (s.pwr.sags + 1) 65535)) ∧
      (v < 3000 ∨ 6300 < v → t.pwr.sup = 2 ∧ t.pwr.cause = (if v < 3000 then 2 else 3) ∧ t.pwr.clk = 600 ∧ t.flt.active = true ∧
        (6300 < v → t.pwr.stageOpen = true) ∧ (v < 3000 → t.pwr.stageOpen = s.pwr.stageOpen) ∧
        (s.flt.active = false → t.flt.tf = s.now + 1 ∧ (t.record s.hlt.nextSeq).cls = 0x109 ∧ (t.record s.hlt.nextSeq).ctx = 31)))) ∧
  (∀ p : Pwr, let newest := (p.window.head?.map (·.1)).getD 0
    let last := p.window.filter fun e => decide (newest < e.1 + 10000)
    let mA := fun (w : List (Nat × Nat × Nat)) => ((w.take 10).map fun e => e.2.2).sum
    (p.overLimit = true ↔ powerLimit * 100000000 < (last.map fun e => e.2.1 * e.2.2).sum ∨ powerLimit * 100 / 40 < p.iin) ∧
    ((∀ e ∈ p.window, ({ p with clk := 600 } : Pwr).floorOk e.2.1 e.2.2 = true) → last.length ≤ 10000 → p.drawn ≤ powerLimit * 100000000) ∧
    (p.risen = true ↔ ∃ n e, p.window[n]? = some e ∧ n + 10 ≤ p.window.length ∧ e.1 + 100 ≤ newest ∧
      2 * mA (p.window.drop n) + (if p.hist < 16 then p.ramp else 2 * p.ramp) * (newest - e.1) + 2000 ≤ 2 * mA p.window) ∧
    (p.fallen = true ↔ ∃ n e, p.window[n]? = some e ∧ n + 10 ≤ p.window.length ∧ e.1 + 100 ≤ newest ∧
      mA p.window + p.ramp * (newest - e.1) + 1000 ≤ mA (p.window.drop n)) ∧
    (∀ now, p.hist < 16 ∨ p.aim = none → p.early now = false) ∧
    (∀ c, clkPoint c → curveMv c + (Config.trim.val : Nat) - 40 = ({ p with vpt := c } : Pwr).coreMv) ∧
    curveMv 600 = 600 ∧ curveMv 950 = 650 ∧ curveMv 1200 = 690 ∧ curveMv 1450 = 720 ∧ curveMv 1700 = 760 ∧ curveMv 1900 = 800) ∧
  (∀ s : State,
    (s.pwr.sup = 1 → 4000 ≤ s.pwr.vin → Answers .sagRecovery s { s with pwr := { s.pwr with sup := 0, rides := min (s.pwr.rides + 1) 65535 } }) ∧
    (s.pwr.sup ≠ 1 ∨ s.pwr.vin < 4000 → Answers .sagRecovery s s) ∧
    (s.pwr.sup = 1 → ∃ t, Answers .sagTimeout s t ∧ t.pwr.sup = 2 ∧ t.pwr.cause = 1 ∧ t.pwr.clk = 600 ∧ t.flt.active = true ∧ t.mem = s.mem) ∧
    (s.pwr.sup ≠ 1 → Answers .sagTimeout s s) ∧
    (s.pwr.sup = 2 → s.flt.dumping = false → ∃ t, Answers .holdupEnd s t ∧ t.pwr.sup = 3 ∧ t.pwr.onCell = true ∧ t.mem = [] ∧ t.cores = [] ∧
      t.allocs = [] ∧ t.loads = [] ∧ t.ports = [] ∧ t.flt.active = false ∧ (∀ n, (t.ctx n).sched.st = 0) ∧ t.host.hostUp = [] ∧ t.host.mgmtUp = [] ∧
      t.hlt.recs = s.hlt.recs ∧ t.hlt.nextSeq = s.hlt.nextSeq ∧ t.hlt.score = s.hlt.score ∧ t.hlt.fences = s.hlt.fences ∧ t.rst.cold = s.rst.cold ∧
      t.rst.fault = s.rst.fault ∧ t.rst.ledgerBad = s.rst.ledgerBad ∧ t.shk.slotA = s.shk.slotA ∧ t.shk.pkgKeys = s.shk.pkgKeys ∧
      t.shk.rollback = s.shk.rollback ∧ t.pwr.aon = s.pwr.aon ∧ t.pwr.cause = s.pwr.cause ∧
      ∀ n, n < 16 → (t.ctx n).snap.g0 = (s.ctx n).snap.g0.afterReset ∧ (t.ctx n).snap.g1 = (s.ctx n).snap.g1.afterReset) ∧
    (s.pwr.sup ≠ 2 → Answers .holdupEnd s s) ∧
    (s.pwr.sup = 3 → let p : Pwr := { s.pwr with sup := 0, lost := s.pwr.lost || s.pwr.flat, flat := false }
      Answers .inputValid s { s with pwr := p, rst := { s.rst with last := 0, phase := 0, started := false } }) ∧
    (s.pwr.sup ≠ 3 → Answers .inputValid s s) ∧
    (∀ a b c d e f g h : Nat, s.pwr.sup = 3 → s.pwr.flat = false → s.rst.ledger = [a, b, c, d, e, f, g, h] →
      let p : Pwr := { s.pwr with flat := true, cell := 0, lanesKept := [], aon := s.pwr.aonLedger }
      let r : Rst := { s.rst with cold := a, warm := b, fault := c, escalated := d, core := e, cluster := f, partition := g, retries := h }
      Answers .backupCellFlat s { s with pwr := p, rst := r }) ∧
    (s.pwr.sup ≠ 3 ∨ s.pwr.flat = true → Answers .backupCellFlat s s) ∧
    (s.live = true → s.anyRun = true → ∃ t, Answers .governorPeriod s t ∧ (s.pwr.hist < 15 → t.pwr.aim = none) ∧
      t = { s with free := t.free, pwr := { s.pwr with hist := min 16 (s.pwr.hist + 1), aim := t.pwr.aim } }) ∧
    (s.live = false ∨ s.anyRun = false → Answers .governorPeriod s s) ∧
    (s.pwr.sup ≠ 3 → 1000 ≤ s.pwr.dieMax → ∃ t cap, Answers .thermalThrottleStep s t ∧ t.pwr.thermalCap = some cap ∧ t.pwr.thermal = true ∧
      cap = max 600 (min (if s.pwr.rest = 0 then s.pwr.clk else s.pwr.ceiling) (s.pwr.thermalCap.getD clkMax) - 50) ∧
      t.pwr.clk = (if s.pwr.rest = 0 then min s.pwr.clk cap else s.pwr.clk) ∧
      t.pwr.throttles = (if s.pwr.thermal then s.pwr.throttles else min (s.pwr.throttles + 1) 32767) ∧ t = { s with pwr := t.pwr }) ∧
    (s.pwr.sup = 3 ∨ s.pwr.dieMax < 1000 → Answers .thermalThrottleStep s s) ∧
    (∀ (i o a b c d e : BitVec 12), s.pwr.sup ≠ 3 → s.flt.active = false →
      let m := max a.toNat (max b.toNat (max c.toNat (max d.toNat e.toNat)))
      ∃ t, Answers (.coolantReading i o [a, b, c, d, e]) s t ∧ t.pwr.inlet = i.toNat ∧ t.pwr.outlet = o.toNat ∧ t.pwr.dieMax = m ∧
        ([a, b, c, d, e].getD t.pwr.dieSensor 0#12).toNat = m ∧
        (m < 950 → t.pwr.thermal = false ∧ t.pwr.thermalCap = none) ∧
        (950 ≤ m → t.pwr.thermal = s.pwr.thermal ∧ t.pwr.thermalCap = s.pwr.thermalCap) ∧ (m < 1100 → t.flt = s.flt) ∧
        (1100 ≤ m → t.flt.active = true ∧ (t.record s.hlt.nextSeq).cls = 0x10A ∧
          (t.record s.hlt.nextSeq).detail = BitVec.ofNat 64 (t.pwr.dieSensor + m * 2 ^ 8))) ∧
    (∀ o : Bool, s.pwr.sup ≠ 3 → s.pwr.rest ≤ 2 → s.flt.active = false → (if o then 700 else 500) ≤ (if o then s.pwr.outlet else s.pwr.inlet) →
      ∃ t, Answers (.coolantLimitExpiry o) s t ∧ t.flt.active = true ∧ t.flt.tf = s.now ∧ (t.record s.hlt.nextSeq).cls = 0x10A ∧
        (t.record s.hlt.nextSeq).detail = BitVec.ofNat 64 ((if o then 0x11 else 0x10) + (if o then s.pwr.outlet else s.pwr.inlet) * 2 ^ 8) ∧ t.mem = s.mem) ∧
    (∀ o : Bool, (if o then s.pwr.outlet else s.pwr.inlet) < (if o then 700 else 500) → Answers (.coolantLimitExpiry o) s s) ∧
    (∀ (tag : Tag) (c : Cmd), Begins s 16 0x51 tag c → ∃ t, Answers (.powerShape tag) s t ∧
      t.pwr = { s.pwr with ramp := c.p 8 2, floor := c.p 12 4, hist := 0, aim := none } ∧ Done t 16 0x51 tag 0 0 0 ∧ t.mem = s.mem ∧ t.cores = s.cores))

/-- WAKE_BUDGET, IDLE_TIMER_EXPIRY, REST_STATE_ENTER, WAKE and WAKE_COMPLETE (16 R434 to R438).
That WAKES counts an abandoned entry, and that a new budget turns or ends an entry under way and bounds a wake under way, are the
model's choices (log 72). -/
def Obligations.RestStates : Prop :=
  ∀ s : State,
    (∀ (tag : Tag) (c : Cmd), Begins s 16 0x50 tag c → let b := c.p 8 4
      ∃ t k, Answers (.wakeBudget tag) s t ∧ t.pwr.budget = b ∧ Done t 16 0x50 tag 0 k 0 ∧ k ≤ 4 ∧ t.mem = s.mem ∧ t.cores = s.cores ∧
        (b < 5 → k = 0) ∧ (5 ≤ b → b < 1500 → k = 1) ∧ (1500 ≤ b → b < 120000 ∨ s.link.member = true → k = 2) ∧
        (120000 ≤ b → b < 1800000 → s.link.member = false → k = 3) ∧
        t.pwr.entering = s.pwr.entering.bind (fun j => if k = 0 then none else some (min j k)) ∧
        (s.pwr.rest ≤ k → t.pwr.waking = s.pwr.waking) ∧
        (k < s.pwr.rest → s.pwr.waking = none → t.pwr.waking = some k) ∧
        (∀ j, k < s.pwr.rest → s.pwr.waking = some j → t.pwr.waking = some (min k j))) ∧
    (s.live = true → s.pwr.rest = 0 → s.pwr.entering = none → s.idle = true → s.restTarget ≠ 0 →
      Answers .idleTimerExpiry s { s with pwr := { s.pwr with entering := some s.restTarget } }) ∧
    (s.live = false ∨ s.pwr.rest ≠ 0 ∨ s.idle = false ∨ s.restTarget = 0 → Answers .idleTimerExpiry s s) ∧
    (∀ k : Nat, s.pwr.entering = some k → s.live = true → s.idle = true → s.wakeDue = false → s.restAllowed k = true →
      (s.pwr.clk ≠ 600 ∨ s.pwr.ballast = true → Answers .restStateEnter s s) ∧
      (s.pwr.clk = 600 → s.pwr.ballast = false →
      (k ≤ 2 → Answers .restStateEnter s { s with pwr := { s.pwr with rest := k, entering := none } }) ∧
      (k = 3 ∨ (k = 4 ∧ s.pwr.keepLasts = false) → ∃ t, Answers .restStateEnter s t ∧ t.pwr.rest = k ∧ t.pwr.entering = none ∧ t.cores = [] ∧
        (∀ p, p < 36 → (t.port p).st = 0 ∧ (t.port p).enable = (s.port p).enable ∧ (t.port p).hold = (s.port p).hold) ∧
        (k = 3 → (∀ a, t1Base ≤ a → Mem.byte t.mem a = Mem.byte s.mem a) ∧ t.lastA = s.lastA ∧ t.lastB = s.lastB ∧ t.host = s.host) ∧
        (k = 4 → (∀ a, t1Base ≤ a → a < t1Base + t1Size → Mem.byte t.mem a = 0) ∧
          (∀ a, t1Base + t1Size ≤ a → Mem.byte t.mem a = Mem.byte s.mem a) ∧ t.lastA.st = 0 ∧ t.lastB.st = 0 ∧ t.lastPtr.valid = false ∧
          t.host.hostUp = [] ∧ t.host.qps = [] ∧ t.host.pages = s.host.pages)))) ∧
    (s.pwr.entering = none ∨ s.live = false ∨ s.idle = false ∨ s.wakeDue = true → Answers .restStateEnter s s) ∧
    (s.ready = true → s.wakeDue = true →
      (s.pwr.entering ≠ none → Answers .wake s { s with pwr := { s.pwr with entering := none, wakes := min (s.pwr.wakes + 1) 65535 } }) ∧
      (s.pwr.entering = none → s.pwr.rest ≠ 0 → s.pwr.waking ≠ some 0 →
        Answers .wake s { s with pwr := { s.pwr with waking := some 0, wakes := min (s.pwr.wakes + 1) 65535 } }) ∧
      (s.pwr.entering = none → s.pwr.rest = 0 ∨ s.pwr.waking = some 0 → Answers .wake s s)) ∧
    (s.ready = false ∨ s.wakeDue = false → Answers .wake s s) ∧
    (∀ k : Nat, s.pwr.waking = some k →
      (k ≠ 0 → s.pwr.rest ≤ 2 ∨ (s.pwr.rest = 3 ∧ 3 ≤ k) ∨ (s.pwr.rest = 4 ∧ 4 ≤ k) →
        Answers .wakeComplete s { s with pwr := { s.pwr with rest := min k s.pwr.rest, waking := none } }) ∧
      (k = 0 → s.pwr.thenReset = 0 ∨ s.pwr.sup = 2 ∨ (s.flt.active = true ∧ s.pwr.thenReset = 1) → ∃ t, Answers .wakeComplete s t ∧ t.pwr.rest = 0 ∧ t.pwr.waking = none ∧
        (s.pwr.rest ≤ 2 → t.mem = s.mem ∧ t.ports = s.ports) ∧
        (3 ≤ s.pwr.rest → ∀ p, p < 36 → (t.port p).st = if (s.port p).enable = true ∧ (s.port p).st = 0 then 1 else (s.port p).st) ∧
        (s.pwr.rest = 4 → s.pwr.staged = none → (∀ a, t1Base ≤ a → a < t1Base + t1Size → Mem.byte t.mem a = 0) ∧ t.ecc.pos1 = 0 ∧
          ∀ n, n < 4 → SMap.get false t.host.hostUp n = true))) ∧
    (s.pwr.waking = none → Answers .wakeComplete s s)

/-- COLD_BOOT, MRST_N_RELEASE, COLD, WARM, FAULT_RESET, TRAINING_COMPLETE, BRINGUP_FILL_COMPLETE, STARTUP_TEST_COMPLETE and MODULE_READY (17 R444 to R453).
That MRST_N acts while the supply state is SAG (log 74) and what a write of both COLD and WARM means (log 15) are the model's choices. -/
def Obligations.ResetsAndBringUp : Prop :=
  ∀ s : State,
    (s.pwr.sup ≠ 3 → s.rst.phase = 0 → s.rst.started = false →
      let counted := fun (t : State) => t.rst.cold = min (s.rst.cold + 1) (2 ^ 32 - 1) ∧ t.rst.started = true ∧ t.rst.kind = 0 ∧
        t.rst.ledger = [t.rst.cold, s.rst.warm, s.rst.fault, s.rst.escalated, s.rst.core, s.rst.cluster, s.rst.partition, s.rst.retries] ∧ t.mem = s.mem
      let runs := fun (t : State) (im : FwImage) (back : Bool) => t.rst.phase = 2 ∧ t.shk.release = im.release ∧ t.shk.version = im.version ∧
        t.shk.level = im.level ∧ t.shk.fellBack = back ∧ ∀ p, p < 36 → (s.port p).enable = true → (s.port p).st = 0 → (t.port p).st = 1
      (∀ im, s.shk.slotA = some im → s.shk.starts im = true → ∃ t, Answers (.coldBoot true) s t ∧ counted t ∧ runs t im false) ∧
      (∀ im, (∀ x, s.shk.slotA = some x → s.shk.starts x = false) → s.shk.slotF = some im → s.shk.starts im = true →
        ∃ t, Answers (.coldBoot true) s t ∧ counted t ∧ runs t im true) ∧
      ((∀ x, s.shk.slotA = some x ∨ s.shk.slotF = some x → s.shk.starts x = false) →
        ∃ t, Answers (.coldBoot true) s t ∧ counted t ∧ t.rst.phase = 15 ∧ t.rst.unit = 0x1FF) ∧
      (∃ t, Answers (.coldBoot false) s t ∧ counted t ∧ t.rst.phase = 15 ∧ t.rst.unit = 0x1FF ∧ t.hlt.hstate = 2)) ∧
    (s.pwr.sup = 3 ∨ s.rst.phase ≠ 0 ∨ s.rst.started = true → ∀ ok, Answers (.coldBoot ok) s s) ∧
    (let gone := fun (t : State) (cause : Nat) => t.rst.last = cause ∧ t.rst.phase = 0 ∧ t.rst.started = false ∧ t.mem = [] ∧ t.cores = [] ∧
       t.allocs = [] ∧ (∀ n, (t.ctx n).sched.st = 0) ∧ t.hlt.recs = s.hlt.recs ∧ t.hlt.score = s.hlt.score ∧ t.rst.cold = s.rst.cold ∧
       t.shk.slotA = s.shk.slotA ∧ t.shk.slotS = none ∧ t.pwr.aon = s.pwr.aon ∧
       ∀ p, p < 36 → s.active p = true → ∃ raw, Out.flit p raw ∈ t.out.drop s.out.length ∧ (parseFlit raw).typ = 3#4 ∧ (parseFlit raw).words = [2#64]
     (s.pwr.sup ≤ 1 → s.ready = false ∨ s.pwr.rest = 0 → ∃ t, Answers .mrstNRelease s t ∧ gone t 1) ∧
     (s.pwr.sup ≤ 1 → s.ready = true → s.pwr.rest ≠ 0 →
       Answers .mrstNRelease s { s with pwr := { s.pwr with thenReset := max s.pwr.thenReset 3 } }) ∧
     (s.pwr.sup = 3 → Answers .mrstNRelease s s) ∧
     (∀ v : BitVec 64, s.pwr.sup ≤ 1 → v.toNat / 256 % 256 = 0xC3 → v.getLsbD 1 = true → s.ready = false ∨ s.pwr.rest = 0 →
       (∃ t, Answers (.cold .admin v) s t ∧ gone t 2) ∧ ∃ t, Answers (.warm .admin v) s t ∧ gone t 2)) ∧
    (∀ v : BitVec 64, s.pwr.sup ≤ 1 → v.toNat / 256 % 256 = 0xC3 → v.getLsbD 1 = false → v.getLsbD 0 = true → s.live = true → s.pwr.rest = 0 →
      Answers (.cold .admin v) s s ∧
      ∃ t, Answers (.warm .admin v) s t ∧ t.rst.last = 3 ∧ t.rst.warm = min (s.rst.warm + 1) (2 ^ 32 - 1) ∧ (t.rst.phase = 1 ∨ t.rst.phase = 15) ∧
        t.cores = [] ∧ (∀ a, a < t1Base → Mem.byte t.mem a = 0) ∧
        (∀ a, t1Base ≤ a → (∀ l ∈ s.loads, ∀ r ∈ l.ctxRanges, a < r.1 ∨ r.1 + r.2 ≤ a) → Mem.byte t.mem a = Mem.byte s.mem a) ∧
        (∀ n, n < 16 → (t.ctx n).sched.st = 0) ∧ t.hlt.recs = s.hlt.recs ∧ t.shk.slotA = s.shk.slotA) ∧
    (∀ (o : Origin) (v : BitVec 64), o ≠ .admin ∨ 2 ≤ s.pwr.sup ∨ v.toNat / 256 % 256 ≠ 0xC3 → Answers (.cold o v) s s ∧ Answers (.warm o v) s s) ∧
    (s.flt.active = true → s.flt.twoMs = true → (s.dumpDue = false ∨ s.flt.dumpNext = 406) →
      (s.pwr.sup ≤ 1 ∧ (s.pwr.rest = 0 ∨ s.pwr.thenReset ≤ 1)) ∨ (s.pwr.sup = 2 ∧ s.pwr.inRange = true) →
      ∃ t, Answers .faultReset s t ∧ t.flt.active = false ∧ t.rst.fault = (s.rst.fault + 1) % 2 ^ 32 ∧
        t.hlt.fenceSelf = (s.hlt.fenceSelf + 1) % 2 ^ 32 ∧ t.mem = [] ∧ t.cores = [] ∧ t.hlt.recs = s.hlt.recs ∧
        (s.ready = true → t.rst.last = (if s.rst.result = 2 then 6 else 5) ∧ t.rst.retries = s.rst.retries ∧ (t.rst.phase = 2 ∨ t.rst.phase = 15)) ∧
        (s.ready = false → t.rst.last = 7 ∧ (s.rst.retries ≥ 3 → t.rst.phase = 15)) ∧
        ∀ p, p < 36 → (t.port p).st = (if (s.port p).enable then 1 else 0) ∧ (t.port p).enable = (s.port p).enable) ∧
    (s.flt.active = true → s.flt.twoMs = true → (s.dumpDue = false ∨ s.flt.dumpNext = 406) → s.pwr.sup = 2 → s.pwr.inRange = false →
      Answers .faultReset s { s with flt := { s.flt with waitInput := true } }) ∧
    (s.flt.active = false ∨ s.flt.twoMs = false ∨ (s.pwr.sup ≤ 1 ∧ s.pwr.rest ≠ 0 ∧ 2 ≤ s.pwr.thenReset) → Answers .faultReset s s) ∧
    (s.rst.phase = 2 → Answers (.trainingComplete none) s { s with rst := { s.rst with phase := 3 } } ∧
      ∀ u : BitVec 9, Answers (.trainingComplete (some u)) s { s with rst := { s.rst with phase := 15, unit := u.toNat } }) ∧
    (s.rst.phase ≠ 2 → ∀ u, Answers (.trainingComplete u) s s) ∧
    (s.rst.phase = 3 → ∃ t, Answers .bringupFillComplete s t ∧ t.rst = { s.rst with phase := 4 } ∧ t.ecc.pos1 = 0 ∧ t.ecc.pos2 = 0 ∧
      (∀ a, (t1Base ≤ a ∧ a < t1Base + t1Size) ∨ (t2Base ≤ a ∧ a < t2Base + t2Size) → Mem.byte t.mem a = 0 ∧ (s.ecc.injArmed = false → t.badBits (a / 8 * 8) = 0)) ∧
      ∀ a, a < t1Base → Mem.byte t.mem a = Mem.byte s.mem a) ∧
    (s.rst.phase ≠ 3 → Answers .bringupFillComplete s s) ∧
    (s.rst.phase = 4 →
      (∀ u : Option (BitVec 9), ∃ t, Answers (.startupTestComplete [] u) s t ∧ t.rst.ledgerBad = s.rst.ledgerBad ∧ t.mem = s.mem ∧
        (match u with | none => t.rst.phase = 5 | some x => t.rst.phase = 15 ∧ t.rst.unit = x.toNat) ∧ t.rst.fullTest = (s.rst.kind == 0) ∧
        (t.rst.short = true ↔ ∃ q, q < 4 ∧ (s.goodCores q).length < 80) ∧
        ∀ q, q < 4 → SMap.get 80 t.rst.enabled q = min 80 (s.goodCores q).length ∧ SMap.get 84 t.rst.good q = (s.goodCores q).length ∧
          SMap.get 0 t.rst.newBad q = 0 ∧
          ∀ i, i < min 80 (s.goodCores q).length → SMap.get 0 t.rst.serves (80 * q + i) = (s.goodCores q).getD i 0) ∧
      (∀ (q : Fin 4) (x : Fin 84), s.markedBad (84 * q.val + x.val) = false → ∃ t, Answers (.startupTestComplete [(q, x)] none) s t ∧ t.rst.phase = 5 ∧
        SMap.get false t.rst.ledgerBad (84 * q.val + x.val) = true ∧ SMap.get 0 t.rst.newBad q.val = 1)) ∧
    (s.rst.phase ≠ 4 → ∀ f u, Answers (.startupTestComplete f u) s s) ∧
    (s.flt.active = false → s.pwr.sup ≠ 3 → s.rst.phase = 5 ∨ (s.rst.phase = 1 ∧ s.rst.kind = 1) → ∃ t, Answers .moduleReady s t ∧ t.live = true ∧
      t.rst = { s.rst with phase := 6, retries := 0 } ∧ t.shk.rollback = max s.shk.rollback s.shk.level ∧ t.pwr = { s.pwr with onCell := false } ∧
      (s.rst.kind ≠ 1 → ∀ n, n < 4 → SMap.get false t.host.hostUp n = true) ∧ (s.rst.kind = 1 → t.host = s.host) ∧
      t = { s with host := t.host, shk := t.shk, pwr := t.pwr, rst := t.rst }) ∧
    (s.flt.active = true ∨ s.pwr.sup = 3 ∨ (s.rst.phase ≠ 5 ∧ ¬ (s.rst.phase = 1 ∧ s.rst.kind = 1)) → Answers .moduleReady s s)

/-- GO, PARTIAL_DRAIN_EXPIRY and PARTIAL_RESET_END (17 R455, R456, R460). -/
def Obligations.PartialReset : Prop :=
  ∀ s : State,
    (∀ v : BitVec 64, s.pwr.sup ≠ 3 → v.getLsbD 11 = true →
      let scope := v.toNat % 4
      let index := v.toNat / 4 % 512
      let ok := (scope = 1 ∧ index ≤ 319) ∨ (scope = 2 ∧ index ≤ 39) ∨ (scope = 3 ∧ index ≤ 3)
      (s.rst.busy = false → s.live = true → ok → ∃ t, Answers (.go .admin v) s t ∧
        t = { s with rst := t.rst, pwr := { s.pwr with aonLedger := s.pwr.aon } } ∧
        t.rst = { s.rst with scope := scope, index := index, busy := true, drained := false, result := 0, stragglers := t.rst.stragglers,
                             ledger := [s.rst.cold, s.rst.warm, s.rst.fault, s.rst.escalated, s.rst.core, s.rst.cluster, s.rst.partition, s.rst.retries] } ∧
        ((∀ c, t.rst.hasCore c = true → s.core c = {} ∧ ∀ n, SMap.get none (s.ctx n).saved c = none) → (∀ n, (s.ctx n).pool = []) →
          t.rst.stragglers = 0) ∧
        (∀ c, c < 320 → t.rst.hasCore c = true → (s.core c).task.isSome = true → 1 ≤ t.rst.stragglers)) ∧
      (s.rst.busy = true ∨ s.live = false ∨ ¬ ok → Answers (.go .admin v) s s)) ∧
    (∀ (o : Origin) (v : BitVec 64), o ≠ .admin ∨ v.getLsbD 11 = false → Answers (.go o v) s s) ∧
    (s.live = true → s.rst.busy = true → s.rst.drained = false → ∃ t, Answers .partialDrainExpiry s t ∧ t.rst = { s.rst with drained := true } ∧
      (∀ c, c < 320 → t.core c = if s.rst.hasCore c then {} else s.core c) ∧
      (∀ a, Mem.byte t.mem a = if s.rst.block.any (fun r => decide (r.1 ≤ a) && decide (a < r.1 + r.2)) then 0 else Mem.byte s.mem a) ∧
      (s.rst.scope ≠ 3 → t.ctxs = s.ctxs ∧ t.quarters = s.quarters) ∧
      (s.rst.scope = 3 → t.quarter s.rst.index = {} ∧ ∀ n, n < 16 → (t.ctx n).pool = (s.ctx n).pool.filter fun x => !(x.pooled && x.quarter == s.rst.index))) ∧
    (s.live = false ∨ s.rst.busy = false ∨ s.rst.drained = true → Answers .partialDrainExpiry s s) ∧
    (s.live = true → s.rst.busy = true → s.rst.drained = true → ∃ t, Answers .partialResetEnd s t ∧ t.rst.busy = false ∧ t.mem = s.mem ∧
      (s.rst.stragglers = 0 → t.rst = { s.rst.countClean with busy := false, result := 1 } ∧ t.flt = s.flt ∧
        (s.rst.scope = 1 → t.rst.core = min (s.rst.core + 1) (2 ^ 32 - 1))) ∧
      (s.rst.stragglers ≠ 0 → t.rst = { s.rst with busy := false, result := 2, escalated := min (s.rst.escalated + 1) (2 ^ 32 - 1) } ∧
        t.flt.active = true ∧ (t.record s.hlt.nextSeq).cls = 0x106 ∧ (t.record s.hlt.nextSeq).ctx = 16)) ∧
    (s.live = false ∨ s.rst.busy = false ∨ s.rst.drained = false → Answers .partialResetEnd s s)


/-- COLL_DATA_RECEIVE, GRANT_RECEIVE, SHARD_END_RECEIVE and CONTROL_MESSAGE_RECEIVE (11 R285 to R297).
The rail totals of GRANTs and where control sections stand in the window (log 89), the tag of a wave and the bound of its words (log
16), and the replays that come with a row (log 85) are the model's choices. -/
def Obligations.CollectiveMessages : Prop :=
  ∀ (i : Nat) (m : Msg) (s : State), s.link.inbox[i]? = some m →
    (s.flowHead i m = false →
      (m.kind = 0 → (s.findColl m.ctx m.epoch m.tag m.layout = none → Answers (.collDataReceive i 0) s s) ∧
        ∀ c, s.findColl m.ctx m.epoch m.tag m.layout = some c →
          let room := (c.rail m.rail).window m.dim - s.waitingBefore i m
          (c.d.ring = false ∨ 8 * m.data.length ≤ room → Answers (.collDataReceive i 0) s s) ∧
          (c.d.ring = true → room < 240 → room < 8 * m.data.length → ∃ t, Answers (.collDataReceive i 0) s t ∧ t = { s with link := { s.link with
            inbox := dropAt i s.link.inbox, proto := min (s.link.proto + (m.data.length + 29) / 30) 32767 } })) ∧
      (m.kind = 1 → Answers (.shardEndReceive i) s s) ∧
      (m.kind = 0x10 → Answers (.grantReceive i) s s)) ∧
    (m.kind = 0 → s.flowHead i m = true → m.tag ≠ streamTag → let bs := wordsBytes m.data
      let refused := ∃ t, Answers (.collDataReceive i 0) s t ∧
        t = { s with link := { s.link with inbox := dropAt i s.link.inbox, proto := min (s.link.proto + (m.data.length + 29) / 30) 32767 } }
      (s.findColl m.ctx m.epoch m.tag m.layout = none → refused) ∧
      (∀ (c : Coll) (r : Nat), s.findColl m.ctx m.epoch m.tag m.layout = some c → s.flt.active = false → 8 ≤ r →
        ∃ t, Answers (.collDataReceive i r) s t ∧ t.flt.active = true ∧ (t.record s.hlt.nextSeq).cls = 0x101 ∧ t.mem = s.mem ∧ t.colls = s.colls) ∧
      (∀ (c : Coll) (g : CStage), let q := c.rail m.rail
        s.findColl m.ctx m.epoch m.tag m.layout = some c → s.coll? c.id = some c → c.d.ring = true → (s.stages c.d)[q.stage]? = some g →
        g.dim = m.dim → m.data ≠ [] → q.got + bs.length ≤ s.stageBytes c.d g →
        (q.window m.dim < bs.length → q.window m.dim < 240 → refused) ∧
        (bs.length ≤ q.window m.dim → q.sendQ = [] → SMap.get 0 q.heard m.dim ≤ SMap.get 0 q.sent m.dim → CleanStore s →
          let counted := fun (x : Rail) => x.got = q.got + bs.length ∧ SMap.get 0 x.granted m.dim =
            max (SMap.get 0 q.granted m.dim) (min (s.windowTotal c m.rail m.dim) (SMap.get 0 q.taken m.dim + bs.length + windowBytes))
          (g.gather = false → c.d.op ≤ 2 →
            let own := if q.stage = 0 then s.bytes (c.d.src + m.rail * c.d.part + m.off) bs.length else Mem.read q.vals m.off bs.length
            let sum := (combineBytes c.d.combine bs own).1
            ∃ t c', Answers (.collDataReceive i 0) s t ∧ t.coll? c.id = some c' ∧ counted (c'.rail m.rail) ∧
              (c'.rail m.rail).stage = q.stage ∧ t.mem = s.mem ∧
              (s.segAt c.d m.dim m.off = s.own m.dim → (c'.rail m.rail).vals = Mem.write q.vals m.off sum ∧ (c'.rail m.rail).sendQ = []) ∧
              (s.segAt c.d m.dim m.off ≠ s.own m.dim → (c'.rail m.rail).vals = q.vals ∧ (c'.rail m.rail).sendQ = [.fwd m.off sum])) ∧
          (g.gather = true → let a := c.d.dst + m.rail * c.d.part + m.off
            t1Base ≤ a → a + bs.length ≤ t1Base + t1Size → (s.ctx c.ctx).inRetained a bs.length = false →
            ∃ t c', Answers (.collDataReceive i 0) s t ∧ t.coll? c.id = some c' ∧ counted (c'.rail m.rail) ∧
              Mem.read t.mem a bs.length = bs ∧ (∀ y, (y < a ∨ a + bs.length ≤ y) → Mem.byte t.mem y = Mem.byte s.mem y)))) ∧
      (∀ c : Coll, s.findColl m.ctx m.epoch m.tag m.layout = some c → c.d.ring = false →
        (c.p2p? false m.src = none → refused) ∧
        (∀ p : P2p, c.p2p? false m.src = some p → m.off = p.done → bs.length ≤ p.grant - p.done → p.done + bs.length ≤ p.len → CleanStore s →
          t1Base ≤ p.addr → p.addr + p.len ≤ t1Base + t1Size → (s.ctx c.ctx).inRetained (p.addr + p.done) bs.length = false →
          ∃ t, Answers (.collDataReceive i 0) s t ∧ Mem.read t.mem (p.addr + p.done) bs.length = bs ∧
            ∀ y, (y < p.addr + p.done ∨ p.addr + p.done + bs.length ≤ y) → Mem.byte t.mem y = Mem.byte s.mem y))) ∧
    (m.kind = 0x10 → s.flowHead i m = true → m.tag ≠ streamTag →
      (∀ c : Coll, s.findColl m.ctx m.epoch m.tag m.layout = some c → s.coll? c.id = some c → c.d.ring = true → (c.rail m.rail).sendQ = [] →
        ∃ t c', Answers (.grantReceive i) s t ∧ t.coll? c.id = some c' ∧ t.mem = s.mem ∧
          SMap.get 0 (c'.rail m.rail).heard m.dim = max m.off (SMap.get 0 (c.rail m.rail).heard m.dim)) ∧
      (∀ (c : Coll) (p : P2p), s.findColl m.ctx m.epoch m.tag m.layout = some c → c.d.op = 7 → c.p2p? true m.src = some p → m.w3.toNat ≠ p.len →
        s.flt.active = false → ∃ t, Answers (.grantReceive i) s t ∧ t.flt.active = true ∧ (t.record s.hlt.nextSeq).cls = 0x106 ∧
          t.colls = s.colls ∧ t.mem = s.mem) ∧
      (s.findColl m.ctx m.epoch m.tag m.layout = none → let cur := (s.ctx m.ctx).step.layout
        (m.layout = cur ∨ m.layout = cur + 1 → s.link.grants.length < 1024 → Answers (.grantReceive i) s
          { s with link := { s.link with inbox := dropAt i s.link.inbox, grants := s.link.grants ++ [{ msg := m }] } }) ∧
        (m.layout ≠ cur → m.layout ≠ cur + 1 → s.flt.active = false → ∃ t, Answers (.grantReceive i) s t ∧ t.flt.active = true ∧
          (t.record s.hlt.nextSeq).cls = 0x107 ∧ (t.record s.hlt.nextSeq).detail = 2#64 ∧ t.link.grants = s.link.grants ∧ t.mem = s.mem))) ∧
    (m.kind = 1 → s.flowHead i m = true → ∀ (c : Coll) (g : CStage), let q := c.rail m.rail
      let w := (m.data.headD 0#64).toNat
      let o := BitVec.ofNat 16 (w / 2 ^ 32 % 65536)
      let x := s.shardOf c.d.dims o
      let crc := BitVec.ofNat 32 w
      let good := crc32c (Mem.read q.vals (x * s.pieceLen c.d) (s.pieceLen c.d)) = crc
      s.findColl m.ctx m.epoch m.tag m.layout = some c → s.coll? c.id = some c → (s.stages c.d)[q.stage]? = some g → c.d.tagged = true →
      g.dim = m.dim →
      (good → c.d.op = 3 → c.d.record = false → coordAt o g.dim = s.downOf m.rail g.dim (s.own g.dim) →
        ∃ t c', Answers (.shardEndReceive i) s t ∧ t.coll? c.id = some c' ∧ (c'.rail m.rail).ends = q.ends + 1 ∧
          c'.pieces = c.pieces ++ [{ shard := x, rail := m.rail, tag := m.w3, crc := crc }] ∧ t.flt = s.flt ∧ t.mem = s.mem) ∧
      (¬ good → s.collLost c = false → s.flt.active = false → ∃ t, Answers (.shardEndReceive i) s t ∧ t.flt.active = true ∧
        (t.record s.hlt.nextSeq).cls = 0x104 ∧ (t.record s.hlt.nextSeq).detail = BitVec.ofNat 64 (c.d.cid.toNat + x * 2 ^ 32 + 2 * 2 ^ 48) ∧
        t.coll? c.id = some c) ∧
      (¬ good → s.collLost c = true → Answers (.shardEndReceive i) s { s with link := { s.link with inbox := dropAt i s.link.inbox } })) ∧
    (m.kind = 2 →
      (m.tag = waveTag → ∀ (w : Wave) (j : Nat), (s.ctx m.ctx).step.wave = some w → s.groupDims[w.stage]? = some j → j = m.dim →
        w.epoch = m.epoch → w.heard.length + 1 < s.dimSize j - 1 → ∃ t, Answers (.controlMessageReceive i) s t ∧ (t.ctx m.ctx).step.wave = some
          { w with mins := combineWords [.min, .min, .min] w.mins (m.data.take 3),
                   maxs := combineWords [.max, .max, .max] w.maxs ((m.data.drop 3).take 3),
                   heard := if m.src ∈ w.heard then w.heard else w.heard ++ [m.src] } ∧ t.mem = s.mem) ∧
      (m.tag ≠ waveTag → s.flowHead i m = true → ∀ (c : Coll) (x : CtlSec) (j : Nat), s.findColl m.ctx m.epoch m.tag m.layout = some c →
        s.coll? c.id = some c → c.ctl = some x → s.groupDims[x.stage]? = some j → j = m.dim → x.pos = 0 → x.words.length < 480 →
        ((c.rail 0).window m.dim < 8 * m.data.length → (c.rail 0).window m.dim < 240 → ∃ t, Answers (.controlMessageReceive i) s t ∧ t = { s with link := { s.link with
          inbox := dropAt i s.link.inbox, proto := min (s.link.proto + (m.data.length + 29) / 30) 32767 } }) ∧
        (8 * m.data.length ≤ (c.rail 0).window m.dim →
          (m.off = 0 → m.data.length = x.words.length → x.heard + 1 < s.dimSize j - 1 → ∃ t c' y, Answers (.controlMessageReceive i) s t ∧
            t.coll? c.id = some c' ∧ t.mem = s.mem ∧ c'.ctl = some y ∧
            y = { x with words := combineWords (ctlOps x.chans) x.words m.data, heard := x.heard + 1, sendQ := y.sendQ }) ∧
          (m.data.length ≠ x.words.length → s.flt.active = false → ∃ t, Answers (.controlMessageReceive i) s t ∧ t.flt.active = true ∧
            (t.record s.hlt.nextSeq).cls = 0x107 ∧ (t.record s.hlt.nextSeq).detail = 1#64 ∧ t.mem = s.mem))))

/-- COLL_STAGE_COMPLETE, COLL_LOCAL_COMPLETE and COLL_WATCHDOG_EXPIRY (11 R283, R285, R294).
When a stage and a collective end, and what a collective that a fault cuts short leaves, are the model's choices (log 90). -/
def Obligations.CollectivesComplete : Prop :=
  ∀ (id : Nat) (c : Coll) (s : State), s.coll? id = some c →
    (∀ r : Nat, let k := (c.rail r).stage
      (s.stageDone c r = true → ∃ t c', Answers (.collStageComplete id r) s t ∧ t.coll? id = some c' ∧ (c'.rail r).stage = k + 1 ∧
        (k + 1 < (s.stages c.d).length → (c'.rail r).got = 0 ∧ (c'.rail r).ends = 0) ∧
        ∀ x, x ≠ r → c'.rail x = c.rail x) ∧
      (s.stageDone c r = false → Answers (.collStageComplete id r) s s)) ∧
    (s.flt.active = true → CleanStore s → ∃ t, Answers (.collLocalComplete id) s t ∧ t.colls = s.colls.filter (fun x => x.id != c.id) ∧
      t.ctxs = s.ctxs ∧ t.cores = s.cores ∧ t.flt = s.flt ∧
      ∀ y, (∀ r, r ∈ c.results → y < r.1 ∨ r.1 + r.2 ≤ y) → Mem.byte t.mem y = Mem.byte s.mem y) ∧
    (s.flt.active = false → s.collDone c = true → c.ctl = none → c.d.retain = false → c.owner ≠ 1 → (s.sem c.ctx c.d.sem).toNat + 1 < 2 ^ 32 →
      (s.ctx c.ctx).step.reshard = none → (∀ x, (s.core x).vq = [] ∧ (s.core x).dq = []) →
      ∃ t, Answers (.collLocalComplete id) s t ∧ t.colls = s.colls.filter (fun x => x.id != c.id) ∧
        t.sem c.ctx c.d.sem = s.sem c.ctx c.d.sem + 1 ∧ (t.ctx c.ctx).arith.collDone = min ((s.ctx c.ctx).arith.collDone + 1) (2 ^ 32 - 1) ∧
        (∀ n, n ≠ c.ctx → t.ctx n = s.ctx n) ∧ t = { s with colls := t.colls, ctxs := t.ctxs }) ∧
    (s.flt.active = false → s.collDone c = false → Answers (.collLocalComplete id) s s) ∧
    (∀ peer : BitVec 16, c.d.ring = true → s.flt.active = false →
      (∀ x, s.awaits c peer = some x → s.collLost c = true → Answers (.collWatchdogExpiry id peer) s s) ∧
      (∀ x, s.awaits c peer = some x → s.collLost c = false → ∃ t, Answers (.collWatchdogExpiry id peer) s t ∧ t.flt.active = true ∧ t.flt.tf = s.now ∧
        (t.record s.hlt.nextSeq).cls = 0x104 ∧ (t.record s.hlt.nextSeq).detail = BitVec.ofNat 64 (c.d.cid.toNat + x * 2 ^ 32 + 3 * 2 ^ 48) ∧
        (s.link.member = true → (t.record s.hlt.nextSeq).subject = if x = 0xFFFF then peer else s.shardOrigin c.d.dims x) ∧ t.mem = s.mem) ∧
      (s.awaits c peer = none → s.ctlAwaits c peer = false → Answers (.collWatchdogExpiry id peer) s s))

/-- ABORT_RECEIVE, TALLY_RECEIVE, TALLY_TIMER and FAULT_REPORT_TIMER (11 R299, R300, 14 R373). -/
def Obligations.AbortWaveAndReport : Prop :=
  (∀ (i : Nat) (m : Msg) (s : State), s.link.inbox[i]? = some m →
    (m.w0.toNat % 256 = 0x20 →
      (s.seenKey m.subject m.faultEpoch = none → s.flt.active = false → ∃ t e, Answers (.abortReceive i) s t ∧ t.flt.active = true ∧
        t.seenKey m.subject m.faultEpoch = some e ∧ e.lowest = m.origin ∧ e.origin = false ∧ e.tally = 0 ∧ t.link.inbox = dropAt i s.link.inbox ∧
        t.mem = s.mem ∧ let f := t.record s.hlt.nextSeq
          f.cls = 0x105 ∧ f.ctx = m.w2.toNat / 65536 % 32 ∧ f.detail = BitVec.ofNat 64 (m.w2.toNat % 65536 + m.origin.toNat * 65536) ∧
          (s.link.member = true → f.subject = m.subject ∧ f.lowest = m.origin)) ∧
      (∀ e, s.seenKey m.subject m.faultEpoch = some e → ∃ t, Answers (.abortReceive i) s t ∧ t.flt = s.flt ∧ t.mem = s.mem ∧
        t.link.inbox = dropAt i s.link.inbox ∧ t.seenKey m.subject m.faultEpoch = some
          (if m.origin.toNat < e.lowest.toNat then { e with lowest := m.origin } else { e with dup := min (e.dup + 1) 65535 }))) ∧
    (m.w0.toNat % 256 = 0x21 → ∀ e, s.seenKey m.subject m.faultEpoch = some e → ∃ t, Answers (.tallyReceive i) s t ∧
      t.seenKey m.subject m.faultEpoch = some { e with tally := min (e.tally + 1) 65535 } ∧
      t = { s with link := { s.link with inbox := dropAt i s.link.inbox, seen := t.link.seen } })) ∧
  (∀ (k q : Nat) (s : State), s.faultSeqs[k]? = some q → let r := s.record q
    (q ∈ s.flt.ms1 → Answers (.tallyTimer k) s s) ∧
    (q ∉ s.flt.ms1 → ∃ t, Answers (.tallyTimer k) s t ∧ t.flt = { s.flt with ms1 := q :: s.flt.ms1 } ∧ t.mem = s.mem ∧
      (∀ p, p % 256 ≠ q % 256 → t.record p = s.record p) ∧
      (∀ e, s.leadsKey q = true → s.seenKey r.subject r.epoch = some e →
        (e.lowest = s.link.coord → t.seenKey r.subject r.epoch = some { e with primary := true } ∧
          t.record q = { r with lowest := e.lowest, primary := true }) ∧
        (e.lowest ≠ s.link.coord → t.seenKey r.subject r.epoch = some e ∧ t.record q = { r with lowest := e.lowest, primary := e.primary })) ∧
      (s.leadsKey q = false → t = { s with flt := t.flt, hlt := t.hlt } ∧
        t.record q = { r with lowest := s.lowestNow q, primary := formsKey r.cls && s.link.member && s.isPrimary r.subject r.epoch }))) ∧
  (∀ (k q : Nat) (s : State), s.flt.active = true → s.faultSeqs[k]? = some q → let r := s.record q
    let first := k = 0 ∧ s.flt.twoMs = false
    let tells := q ∉ s.flt.told ∧ (if s.link.member then s.leadsKey q = true ∧ s.isPrimary r.subject r.epoch = true else s.flt.primary = some q)
    ∃ t, Answers (.faultReportTimer k) s t ∧ t.mem = s.mem ∧ t.cores = s.cores ∧ (t.record q).cls = r.cls ∧
      (first → t.flt.twoMs = true ∧ (∀ n, n < 17 → (t.ctx n).host.cmds = []) ∧ (s.dumpDue = false → (t.record q).dump = 3)) ∧
      (¬ first → t.flt.twoMs = s.flt.twoMs ∧ t.ctxs = s.ctxs) ∧
      (tells → t.flt.told = q :: s.flt.told ∧ s.out.length + 2 ≤ t.out.length ∧
        (s.link.member = true → r.primary = true → ∀ e, s.seenKey r.subject r.epoch = some e → (t.record q).tally = e.tally)) ∧
      (¬ tells → t.flt.told = s.flt.told ∧ (¬ first → t = s))) ∧
  (∀ (k : Nat) (s : State), (s.faultSeqs[k]? = none → Answers (.tallyTimer k) s s) ∧
    (s.flt.active = false ∨ s.faultSeqs[k]? = none → Answers (.faultReportTimer k) s s))

/-- DUMP_REGION_COMPLETE, DUMP_REGION_TIMEOUT, DUMP_END, DUMP_READ and DUMP_READ_COMPLETE (14 R374 to R380).
That bytes of a dump's region that are not read are zeros, and that a region's bytes come with its row, are the model's choices (log
39). -/
def Obligations.CrashDump : Prop :=
  ∀ s : State,
    (∀ r : FRec, s.flt.active = false → s.flt.dumping = false → (r.cls ≠ 0x105 ∨ s.hlt.dumpOnRemote = true) → let t := s.fatal r
      t.flt.active = true ∧ t.flt.dumping = true ∧ t.flt.dumpNext = 0 ∧ t.flt.dir = [] ∧ t.flt.dumpValid = true ∧ t.flt.dumpComplete = false ∧
        t.flt.dumpSeq = s.hlt.nextSeq ∧ t.flt.dumpRelease = s.shk.release.toNat ∧ t.flt.dumpStart = s.ticks ∧ t.mem = s.mem) ∧
    (∀ bytes : List Byte, s.regionReady = true → s.flt.dumping = true → bytes.length ≤ regionLen s.flt.dumpNext →
      let id := s.flt.dumpNext
      let entered := fun (t : State) (st n : Nat) => t.flt.dumpNext = id + 1 ∧ t.mem = s.mem ∧ t.hlt = s.hlt ∧
        t.flt.dir = s.flt.dir ++ [{ id := id, status := st, off := regionOff id, len := regionLen id, read := n }]
      (∃ t, Answers (.dumpRegionComplete bytes) s t ∧ entered t 0 (regionLen id) ∧
        Mem.read t.flt.dumpBytes (regionOff id) (regionLen id) = bytes ++ List.replicate (regionLen id - bytes.length) 0#8) ∧
      ∀ parity : Bool, ∃ t, Answers (.dumpRegionTimeout parity bytes) s t ∧ entered t (if parity then 2 else 1) bytes.length ∧
        Mem.read t.flt.dumpBytes (regionOff id) bytes.length = bytes) ∧
    (s.regionReady = false → ∀ bytes parity, Answers (.dumpRegionComplete bytes) s s ∧ Answers (.dumpRegionTimeout parity bytes) s s) ∧
    (∀ q : Nat, s.flt.active = true → s.dumpDue = true → s.flt.dumpNext = 405 → s.flt.dumping = true → s.flt.primary = some q →
      s.flt.secondaries < 15 →
      (s.flt.unreadable = 0 → ∃ t, Answers (.dumpEnd true) s t ∧ t.flt.dumping = false ∧ t.flt.dumpNext = 406 ∧ t.flt.dumpComplete = true ∧
        t.flt.dumpValid = s.flt.dumpValid ∧ t.flt.dumpEnd = s.ticks ∧ t.record q = { s.record q with dump := 1 } ∧ t.mem = s.mem) ∧
      (s.flt.unreadable ≠ 0 → s.hlt.nextSeq % 256 ≠ q % 256 → ∃ t, Answers (.dumpEnd true) s t ∧ t.flt.dumpComplete = true ∧
        t.flt.dumpNext = 406 ∧ (t.record q).dump = 2 ∧ (t.record s.hlt.nextSeq).cls = 0x10B ∧ (t.record s.hlt.nextSeq).detail = BitVec.ofNat 64 s.flt.unreadable) ∧
      (s.hlt.nextSeq % 256 ≠ q % 256 → ∃ t, Answers (.dumpEnd false) s t ∧ t.flt.dumpValid = false ∧ t.flt.dumpComplete = false ∧ t.flt.dumpNext = 406 ∧
        (t.record q).dump = 2 ∧ (t.record s.hlt.nextSeq).cls = 0x10B)) ∧
    (s.flt.active = false ∨ s.dumpDue = false ∨ 405 < s.flt.dumpNext → ∀ w, Answers (.dumpEnd w) s s) ∧
    (∀ (tag : Tag) (c : Cmd), s.flt.dumpRead = none → Begins s 16 0xF0 tag c → let n := c.p 8 1
      let ok := n < 16 ∧ s.devicePages n (c.p 16 4) (c.p 20 4) = true ∧ c.p 24 8 % 4096 = 0
      (¬ ok → EndsWith (.dumpRead tag) s 16 0xF0 tag 0x204 0 0) ∧
      (ok → s.flt.dumpValid = false → EndsWith (.dumpRead tag) s 16 0xF0 tag 0x243 0 0) ∧
      (ok → s.flt.dumpValid = true → ∃ t, Answers (.dumpRead tag) s t ∧ t.flt.dumpRead = some (tag, n, c.p 16 4, c.p 20 4, c.p 24 8) ∧
        t.mem = s.mem ∧ t.host = s.host)) ∧
    (∀ (tag : Tag) (n first count off : Nat) (c : Cmd), s.flt.dumpRead = some (tag, n, first, count, off) → s.cmd? 16 0xF0 tag true = some c →
      CleanStore s →
      let k := min (count * unit2M) (dumpLen - off)
      ((s.ctx n).sched.st ≠ 1 → ∃ t, Answers .dumpReadComplete s t ∧ t.mem = s.mem ∧ t.flt.dumpRead = none ∧ (∀ p, t.page p = s.page p) ∧
        Done t 16 0xF0 tag 0 k dumpLen) ∧
      ((s.ctx n).sched.st = 1 → s.devicePages n first count = true →
      ∃ t, Answers .dumpReadComplete s t ∧ Mem.read t.mem (pageBase first) k = s.dumpRange off k ∧ t.flt.dumpRead = none ∧
        (∀ p, first ≤ p → p < first + count → (t.page p).owner = 1) ∧ Done t 16 0xF0 tag 0 k dumpLen ∧
        ∀ y, (y < pageBase first ∨ pageBase first + k ≤ y) → Mem.byte t.mem y = Mem.byte s.mem y)) ∧
    (s.flt.dumpRead = none → Answers .dumpReadComplete s s)

/-- HEALTH_SCORE_TICK, EXPULSION_REQUEST_REPEAT, HINT_HOLD_EXPIRY, SPARE_RESERVE_HINT, HEALTH_READ and FENCE_PEER (14 R381 to R391). -/
def Obligations.HealthAndFencing : Prop :=
  ∀ s : State,
    (s.ready = true → let h := min 1000 (s.hlt.score + 1)
      ∃ t, Answers .healthScoreTick s t ∧ t.hlt.score = h ∧ t = { s with hlt := t.hlt, out := t.out } ∧ t.hlt.recs = s.hlt.recs ∧
        (s.hlt.hstate = 1 → s.hlt.probBelow ≤ s.hlt.probExit → s.hlt.probExit ≤ h → t.hlt.hstate = 0 ∧ t.hlt.requested = false) ∧
        (s.hlt.hstate = 1 → h < s.hlt.probExit →
          (s.hlt.reqBelow ≤ h → t.hlt.asked = false ∧ t.hlt.requested = s.hlt.requested ∧ t.out = s.out) ∧
          (h < s.hlt.reqBelow → s.hlt.asked = true → t.hlt = { s.hlt with score := h } ∧ t.out = s.out) ∧
          (h < s.hlt.reqBelow → s.hlt.asked = false → let go := s.hlt.hintHeld = true ∧ s.hlt.hint = false
            (go → t.hlt = { s.hlt with score := h, requested := true, withheld := false, asked := true } ∧ t.out.length = s.out.length + 2) ∧
            (¬ go → t.hlt = { s.hlt with score := h, withheld := true } ∧ t.out = s.out))) ∧
        (s.hlt.hstate = 0 → s.hlt.probBelow ≤ h → t.hlt.hstate = 0) ∧ (s.hlt.hstate = 2 → t.hlt.hstate = 2)) ∧
    (s.ready = false → Answers .healthScoreTick s s) ∧
    (let low := s.hlt.hstate = 1 ∧ s.hlt.asked = true ∧ s.hlt.score < s.hlt.reqBelow
     (low → ∃ t, Answers .expulsionRequestRepeat s t ∧ t = { s with out := t.out } ∧ t.out.length = s.out.length + 2) ∧
     (¬ low → Answers .expulsionRequestRepeat s s)) ∧
    (s.hlt.hint = true → Answers .hintHoldExpiry s s) ∧
    (s.hlt.hint = false → let due := s.hlt.withheld = true ∧ s.hlt.hstate = 1 ∧ s.hlt.score < s.hlt.reqBelow
      (due → ∃ t, Answers .hintHoldExpiry s t ∧ t = { s with hlt := { s.hlt with hintHeld := true, requested := true, withheld := false, asked := true }, out := t.out } ∧
        t.out.length = s.out.length + 2) ∧
      (¬ due → Answers .hintHoldExpiry s { s with hlt := { s.hlt with hintHeld := true } })) ∧
    (∀ (tag : Tag) (c : Cmd), Begins s 16 0xA1 tag c → let h := c.p 8 1 == 1
      ∃ t, Answers (.spareReserveHint tag) s t ∧ Done t 16 0xA1 tag 0 0 0 ∧
        t.hlt = { s.hlt with hint := h, hintHeld := s.hlt.hintHeld && s.hlt.hint == h } ∧ t.mem = s.mem) ∧
    (∀ (tag : Tag) (c : Cmd), Begins s 16 0xA0 tag c → ∃ t, Answers (.healthRead tag) s t ∧ Done t 16 0xA0 tag 0 s.hlt.score s.modState ∧
      (t.ctx 16).host.comps.getLast?.map (·.extra) = some s.healthRecord ∧ s.healthRecord.length = 1024 ∧ t.hlt = s.hlt ∧ t.mem = s.mem) ∧
    (∀ (tag : Tag) (c : Cmd), Begins s 16 0x92 tag c → let serial := BitVec.ofNat 64 (c.p 8 8)
      (serial = 0 → EndsWith (.fencePeer tag) s 16 0x92 tag 0x204 0 0) ∧
      (serial ≠ 0 → serial = Config.serial → ∃ t, Answers (.fencePeer tag) s t ∧ t.flt.active = true ∧ t.flt.fenced = true ∧
        (t.record s.hlt.nextSeq).cls = 0x108 ∧ (t.record s.hlt.nextSeq).detail = BitVec.ofNat 64 (c.p 20 4) ∧ t.mem = s.mem) ∧
      (serial ≠ 0 → serial ≠ Config.serial → (∀ p, p < 36 → (s.port p).st ≠ 6) →
        let e := if c.p 20 4 = 0xFFFFFFFF then s.announced serial else c.p 20 4
        let h := s.hlt.enterFence serial (BitVec.ofNat 32 e) (BitVec.ofNat 16 (c.p 16 2))
        ∃ t, Answers (.fencePeer tag) s t ∧ Done t 16 0x92 tag 0 0 0 ∧
          t.hlt.fences = h.fences ∧ t.hlt.fenceNext = h.fenceNext ∧
          (∀ p, p < 36 → (s.port p).serial = serial → (s.port p).peerFence.toNat ≤ e → (t.port p).hold = true) ∧
          (∀ p, p < 36 → (s.port p).serial ≠ serial → (t.port p).hold = (s.port p).hold) ∧ t.mem = s.mem))


/-- PROGRAM_LOAD, RUN, RUN_END and COMMIT_WAVE_COMPLETE (07 R177 to R184, 13 R363, R364).
The order of RUN's checks (log 34), and that a RUN waits behind a fill (log 79) and behind a RESTORE or a wave (log 50), are the model's
choices. -/
def Obligations.ProgramsRunAndCommit : Prop :=
  ∀ (n : CtxN) (tag : Tag) (s : State), let k := s.ctx n.val
    (∀ c : Cmd, Begins s n.val 0x30 tag c → let a := c.p 16 8
      let ends := fun st => EndsWith (.programLoad n tag) s n.val 0x30 tag st 0 0
      (s.programWaits n.val c = true → Answers (.programLoad n tag) s s) ∧
      (k.runInProgress = true → ends 0x23E) ∧
      (k.runInProgress = false → s.inT1Allocs n.val a (c.p 24 8) = false → ends 0x204) ∧
      (k.runInProgress = false → s.inT1Allocs n.val a (c.p 24 8) = true → CleanStore s → let bs := s.bytes a (c.p 24 8)
        (imageStatus bs ≠ 0 → ends (imageStatus bs)) ∧
        (imageStatus bs = 0 → let p := parseProg a bs
          (s.takeArea 0 (p.areaUnits * unit2M) = none → s.programWaits n.val c = false → ends 0x211) ∧
          (∀ b, s.takeArea 0 (p.areaUnits * unit2M) = some b → ∃ t, Answers (.programLoad n tag) s t ∧ (t.ctx n.val).prog = some p ∧
            (t.ctx n.val).step.scale = p.recipe.initLs ∧ (t.ctx n.val).step.clean = 0 ∧ (t.ctx n.val).mem.taskArea = some (b, p.areaUnits) ∧
            Done t n.val 0x30 tag 0 0 0 ∧ t.mem = s.mem ∧ t.cores = s.cores)))) ∧
    (∀ c : Cmd, k.step.reshard = none → k.snap.stopping = false → Begins s n.val 0x31 tag c → let e := c.p 16 8
      let ends := fun st => EndsWith (.run n tag) s n.val 0x31 tag st 0 0
      (s.rangeDevice n.val (c.p 32 4) (c.p 36 4) = false → ends 0x204) ∧
      (s.rangeDevice n.val (c.p 32 4) (c.p 36 4) = true →
        (k.prog = none → ends 0x223) ∧
        (k.prog ≠ none → e ≠ noStep → e = k.step.applied → ends 0x231) ∧
        (k.prog ≠ none → e ≠ noStep → e ≠ k.step.applied → e ≠ (k.step.applied + 1) % 2 ^ 48 → ends 0x232) ∧
        (∀ p, k.prog = some p → e = noStep ∨ (e ≠ k.step.applied ∧ e = (k.step.applied + 1) % 2 ^ 48) →
          let u := runUnits p
          let j := journalUnits k.step (e != noStep)
          let units := u + j
          let past := units ≠ 0 ∧ k.mem.lim1 < k.mem.used1 + k.step.retained.length + units
          let room := fun (x : Charge) => (u ≠ 0 ∧ s.findRoom 1 4 u j = x) ∨ (j ≠ 0 ∧ s.findRoom 1 4 j u = x)
          (s.giveLast (c.p 8 1) = none → ends 0x238) ∧
          (∀ l, s.giveLast (c.p 8 1) = some l →
            (past → ends 0x210) ∧ (¬ past → room .exhausted → ends 0x211) ∧
            (¬ past → ¬ room .exhausted → room .wait → Answers (.run n tag) s s)) ∧
          (∀ l, s.giveLast (c.p 8 1) = some l →
            ¬ past → ¬ room .exhausted → ¬ room .wait →
            (∀ x ∈ k.runs, x.id < k.nextRun) → CleanStore s →
            (k.step.wave ≠ none ∧ s.link.member = true) ∨ (k.step.wave = none ∧ k.step.committed = k.step.applied) →
            ∃ t r, Answers (.run n tag) s t ∧ (t.ctx n.val).run? k.nextRun = some r ∧ r.tag = tag ∧ r.epoch = e ∧ r.step = (e != noStep) ∧
              r.latched = l ∧ r.argOff = BitVec.ofNat 64 (c.p 24 8) ∧ (t.ctx n.val).nextRun = k.nextRun + 1 ∧
              (t.ctx n.val).mem.used1 = k.mem.used1 + units ∧ (r.released = true ↔ k.step.wave = none) ∧
              (l ≠ 0 → (t.last l).inflight = (s.last l).inflight + 1))))) ∧
    (k.step.reshard ≠ none ∨ k.snap.stopping = true → Answers (.run n tag) s s) ∧
    (∀ r : Run, k.runs.find? (fun r => r.tag == tag) = some r → s.live = true → s.runDone n.val r = true → s.cmd? n.val 0x31 tag true ≠ none →
      ∃ t, Answers (.runEnd n tag) s t ∧ Done t n.val 0x31 tag 0 (if r.latched = 0 then 0 else r.latched + 1) r.ran ∧
        (r.step = false → (t.ctx n.val).runs = k.runs.filter (fun x => x.id != r.id) ∧ (t.ctx n.val).step = k.step ∧ t.mem = s.mem) ∧
        (r.step = true → s.link.member = true → (t.ctx n.val).step.applied = r.epoch ∧ (t.ctx n.val).step.decided = false ∧
          (let cr := match k.prog with | some p => p.recipe.cleanRun | none => 1
           ((t.ctx n.val).step.scale, (t.ctx n.val).step.clean) = k.step.nextLoss cr) ∧ (t.ctx n.val).step.wave ≠ none ∧
          (t.ctx n.val).arith.skipped = (if k.step.decided && k.step.decision then min (k.arith.skipped + 1) (2 ^ 24 - 1) else min k.arith.skipped (2 ^ 24 - 1)))) ∧
    (∀ r : Run, k.runs.find? (fun r => r.tag == tag) = some r → s.live = false ∨ s.runDone n.val r = false → Answers (.runEnd n tag) s s) ∧
    (∀ (t : CtxStep) (e cr : Nat), e ≤ 30 → let L := fun (i : Nat) => BitVec.ofNat 32 ((127 + i) * 2 ^ 23)
      t.scale = L e →
      (t.decided = false → t.nextLoss cr = (t.scale, t.clean)) ∧
      (t.decided = true → t.decision = true → t.nextLoss cr = (L (e - 1), 0)) ∧
      (t.decided = true → t.decision = false → t.clean + 1 < cr → t.nextLoss cr = (L e, t.clean + 1)) ∧
      (t.decided = true → t.decision = false → t.clean + 1 = cr → t.nextLoss cr = (L (min (e + 1) 30), 0))) ∧
    (∀ w : Wave, k.step.wave = some w →
      (w.stage < s.groupDims.length → Answers (.commitWaveComplete n) s s) ∧
      (s.groupDims.length ≤ w.stage → w.mins ≠ w.maxs → s.flt.active = false → ∃ t, Answers (.commitWaveComplete n) s t ∧ t.flt.active = true ∧
        (t.record s.hlt.nextSeq).cls = 0x107 ∧ (t.record s.hlt.nextSeq).detail = 0#64 ∧ (t.ctx n.val).step.wave = none ∧
        (t.ctx n.val).step.committed = k.step.committed ∧ t.mem = s.mem) ∧
      (s.groupDims.length ≤ w.stage → w.mins = w.maxs → (∀ r ∈ k.runs, r.released = true) → k.snap.op = none →
        ∃ t, Answers (.commitWaveComplete n) s t ∧ (t.ctx n.val).step.committed = w.epoch ∧ (t.ctx n.val).step.wave = none ∧
          (t.ctx n.val).step.applied = k.step.applied ∧ SMap.get (0#64, 0, 0) t.hlt.slots n.val = (k.step.seed, k.step.applied, w.epoch) ∧
          (t.ctx n.val).step.retained = k.step.retained.filter (fun r => r.epoch != (w.epoch + 2 ^ 48 - 1) % 2 ^ 48) ∧ t.mem = s.mem ∧ t.cores = s.cores))

/-- CTX_CREATE, CTX_DESTROY, DRAIN_MARK_PASS, RETIRE_TIMEOUT, RETIRE_COMPLETE and QUERY (12 R307 to R327, 13 R362).
That CTX_DESTROY empties the context's cores at once (log 43), and what a free slot keeps (log 44), are the model's choices. -/
def Obligations.ContextsAreCreatedAndRetired : Prop :=
  (∀ (tag : Tag) (c : Cmd) (s : State), Begins s 16 2 tag c → let key := BitVec.ofNat 32 (c.p 12 4)
    ((∀ n, n < 16 → (s.ctx n).sched.st ≠ 0) → EndsWith (.ctxCreate tag) s 16 2 tag (if s.keyUsed key then 0x204 else 0x23C) 0 0) ∧
    (∀ n : Nat, n < 16 → (s.ctx n).sched.st = 0 → (∀ m, m < n → (s.ctx m).sched.st ≠ 0) →
      (s.keyUsed key = true → EndsWith (.ctxCreate tag) s 16 2 tag 0x204 0 0) ∧
      (s.keyUsed key = false → s.areasWait n = true → Answers (.ctxCreate tag) s s) ∧
      (s.keyUsed key = false → s.areasWait n = false →
        let u := (s.modCtx n fun k => newCtx k (c.p 8 1) (c.p 9 1) key).takeAreas n
        (u = none → EndsWith (.ctxCreate tag) s 16 2 tag 0x211 0 0) ∧
        (u ≠ none → ∃ t, Answers (.ctxCreate tag) s t ∧ (t.ctx n).sched.st = 1 ∧ (t.ctx n).sched.cls = c.p 8 1 ∧
          (t.ctx n).sched.slice = (if c.p 9 1 = 0 then 5 else c.p 9 1) ∧ (t.ctx n).sched.key = key ∧ (t.ctx n).step.applied = noStep ∧
          (t.ctx n).step.committed = noStep ∧
          SMap.get (0#64, 0, 0) t.hlt.slots n = ((t.ctx n).step.seed, noStep, noStep) ∧ (t.ctx n).runs = [] ∧ (t.ctx n).prog = none ∧
          (∀ q, q < 4 → (SMap.get none (t.ctx n).mem.save q).isSome = true) ∧ (t.ctx n).mem.control = some (t.ctx n).step.block ∧
          (∀ i, i < 0x8000 → Mem.byte t.host.rings (0x8000 * n + i) = 0) ∧ (∀ i, i < 0x2000 → Mem.byte t.host.rings (0x80000 + 0x2000 * n + i) = 0) ∧
          Done t 16 2 tag 0 n (t.ctx n).step.block ∧ t.mem = s.mem ∧ t.cores = s.cores ∧ ∀ m, m ≠ n → m ≠ 16 → t.ctx m = s.ctx m)))) ∧
  (∀ (tag : Tag) (c : Cmd) (s : State), Begins s 16 3 tag c → let n := c.p 8 1
    ((s.ctx n).sched.st ≠ 1 → EndsWith (.ctxDestroy tag) s 16 3 tag 0x23D 0 0) ∧
    ((s.ctx n).sched.st = 1 → n < 16 → (∀ x, (s.core x).ctx ≠ some n → (s.core x).vq = [] ∧ (s.core x).dq = []) → ∃ t, Answers (.ctxDestroy tag) s t ∧ (t.ctx n).sched.st = 2 ∧ (t.ctx n).sched.destroy = some tag ∧
      (t.ctx n).runs = [] ∧ (t.ctx n).pool = [] ∧ (t.ctx n).host.cmds = [] ∧ (t.ctx n).host.comps = [] ∧ (t.ctx n).sched.markTimeout = false ∧
      (∀ x, x < 320 → (s.core x).ctx = some n → t.core x = {}) ∧ (∀ x, x < 320 → (s.core x).ctx ≠ some n → t.core x = s.core x ∨ t.core x = (s.core x).stopHere) ∧
      (∀ q, q < 4 → (t.quarter q).cur ≠ some n) ∧ (∀ x ∈ t.colls, x.ctx ≠ n) ∧ (∀ x ∈ t.loads, x.ctx ≠ n) ∧
      (∀ e ∈ t.lastPtr.pendingSw, e.1 ≠ n) ∧ ((∀ l ∈ s.loads, l.ctx ≠ n) → t.mem = s.mem) ∧
      ∀ p vc, (p, vc) ∈ (t.ctx n).sched.marks ↔ p < 36 ∧ s.active p = true ∧ 1 ≤ vc ∧ vc ≤ 5)) ∧
  (∀ (n : CtxN) (s : State), let h := (s.ctx n.val).sched
    (∀ (p : PortId) (vc : Fin 8), (p.val, vc.val) ∈ h.marks → (∀ m ∈ (s.port p.val).marks, ¬ (m.1 = n.val ∧ m.2.1 = vc.val)) →
      (SMap.get [] (s.port p.val).egress vc.val).head? = some (.mark n.val) → (∀ f ∈ (s.port p.val).rbuf, f.vc.toNat ≠ vc.val) →
      ∃ t, Answers (.drainMarkPass n p vc) s t ∧ (t.ctx n.val).sched.marks = h.marks.filter (fun m => m != (p.val, vc.val)) ∧
        SMap.get [] (t.port p.val).egress vc.val = (SMap.get [] (s.port p.val).egress vc.val).filter (fun i => i != .mark n.val) ∧
        (t.port p.val).rbuf = (s.port p.val).rbuf ∧ (∀ q, q ≠ p.val → t.port q = s.port q) ∧ t.mem = s.mem) ∧
    (∀ (p : PortId) (vc : Fin 8), (p.val, vc.val) ∉ h.marks → Answers (.drainMarkPass n p vc) s s) ∧
    (h.st = 2 → h.filling = true →
      AnswersCtx (.retireTimeout n) s n.val { s.ctx n.val with sched := { h with markTimeout := true } }) ∧
    (h.st = 2 → h.filling = false → (s.ctx n.val).mem.control ≠ none → s.quiet n.val = 0 → ∃ t, Answers (.retireTimeout n) s t ∧
      (t.ctx n.val).sched.filling = true ∧ (t.ctx n.val).mem = (s.ctx n.val).mem ∧ (t.ctx n.val).sched.markTimeout = true ∧ (∀ x ∈ t.allocs, x.ctx = n.val → x.freeing = true) ∧ s.fills.length < t.fills.length ∧ t.mem = s.mem) ∧
    (h.st ≠ 2 → Answers (.retireTimeout n) s s ∧ Answers (.retireComplete n) s s) ∧
    (∀ tag : Tag, h.st = 2 → h.filling = true → (∀ f ∈ s.fills, f.retire ≠ some n.val) → h.destroy = some tag →
      (∀ x, (s.core x).vq = [] ∧ (s.core x).dq = []) → s.cmd? 16 3 tag true ≠ none → ∃ t, Answers (.retireComplete n) s t ∧ t.ctx n.val = (s.ctx n.val).freed ∧ (t.ctx n.val).sched.st = 0 ∧
        (t.ctx n.val).sched.used = h.used ∧ (∀ x ∈ t.allocs, x.ctx ≠ n.val) ∧ (∀ x ∈ s.allocs, x.ctx ≠ n.val → x ∈ t.allocs) ∧
        (∀ i q, SMap.get none t.host.qps i = some q → q.ctx ≠ n.val) ∧ Done t 16 3 tag 0 0 0 ∧ t.mem = s.mem ∧ t.cores = s.cores) ∧
    (h.st = 2 → h.filling = true → (∃ f ∈ s.fills, f.retire = some n.val) → Answers (.retireComplete n) s s)) ∧
  (∀ (n : CtxId) (tag : Tag) (c : Cmd) (s : State), Begins s n.val 1 tag c → EndsWith (.query n tag) s n.val 1 tag 0 Config.serial.toNat
    ((match Config.ordering with | .a => 0x0A | .b => 0x0B | .c => 0x0C) + s.enabledCores * 2 ^ 8 + (if s.rst.short then 2 ^ 17 else 0) +
      s.pwr.rest * 2 ^ 18 + s.shk.release.toNat * 2 ^ 32))

/-- JOIN_GROUP, JOIN_GROUP_TIMEOUT, LEAVE_GROUP and RESHARD (11 R295, 13 R362, 15 R413).
That a second RESHARD is BUSY (log 19), and that a JOIN ends the handover of a port's traffic (log 118), are the model's choices. -/
def Obligations.GroupMembership : Prop :=
  ∀ (tag : Tag) (s : State),
    (∀ c : Cmd, Begins s 16 0x90 tag c → let ends := fun st => EndsWith (.joinGroup tag) s 16 0x90 tag st 0 0
      let barred := s.link.member = true ∨ s.hlt.hstate = 2 ∨ s.shk.version.toNat < s.shk.required.toNat
      let short := s.rst.short = true ∧ c.p 20 1 % 2 = 0
      (barred → ends 0x240) ∧ (¬ barred → short → ends 0x241) ∧
      (¬ barred → ¬ short → ∃ t, Answers (.joinGroup tag) s t ∧ t.link.member = true ∧ t.link.coord = BitVec.ofNat 16 (c.p 8 2) ∧
        t.link.sizeM1 = BitVec.ofNat 16 (c.p 10 2) ∧ t.link.group = BitVec.ofNat 16 (c.p 12 2) ∧ t.link.faultEpoch = BitVec.ofNat 32 (c.p 16 4) ∧
        (∀ p, p < 36 → let k := s.port p
          (t.port p).st = if 4 ≤ k.st ∧ k.st ≤ 7 then 4 else if k.lostDir = none then k.st
            else if k.after.getD k.st = 5 then 4 else k.after.getD k.st) ∧ t.mem = s.mem ∧ t.cores = s.cores ∧
        (c.p 20 1 / 2 % 2 = 0 → t.link.adopt = false ∧ t.joining = s.joining ∧ Done t 16 0x90 tag 0 0 0) ∧
        (c.p 20 1 / 2 % 2 = 1 → c.p 10 2 % 65536 ≠ 0 → t.link.adopt = true ∧ t.joining = some tag))) ∧
    (s.joining = some tag → s.cmd? 16 0x90 tag true ≠ none → ∃ t, Answers .joinGroupTimeout s t ∧ t.joining = none ∧
      Done t 16 0x90 tag 0 s.activeCount 0 ∧ t.ports = s.ports ∧ t.link = s.link ∧ t.mem = s.mem) ∧
    (s.joining = none → Answers .joinGroupTimeout s s) ∧
    (∀ c : Cmd, Begins s 16 0x91 tag c → (s.colls ≠ [] → EndsWith (.leaveGroup tag) s 16 0x91 tag 0x23E 0 0) ∧
      (s.colls = [] → ∃ t, Answers (.leaveGroup tag) s t ∧ t.link = { s.link with member := false, adopt := false } ∧ Done t 16 0x91 tag 0 0 0 ∧
        t.ports = s.ports ∧ t.mem = s.mem)) ∧
    (∀ (n : CtxN) (c : Cmd), Begins s n.val 0x80 tag c → let ends := fun st => EndsWith (.reshard n tag) s n.val 0x80 tag st 0 0
      let x := s.ctx n.val
      let busy := x.runInProgress = true ∨ x.step.reshard ≠ none
      let table := s.inAlloc n.val (c.p 16 8) (32 * c.p 24 4) = true
      (busy → ends 0x23E) ∧ (¬ busy → ¬ table → ends 0x204) ∧
      (¬ busy → table → (∃ y ∈ s.colls, y.ctx = n.val) → ∃ t, Answers (.reshard n tag) s t ∧
        (t.ctx n.val).step.reshard = some (tag, false) ∧ (t.ctx n.val).step.layout = x.step.layout ∧ t.colls = s.colls ∧ t.mem = s.mem))


/-- SQ_TAIL, CQ_HEAD, FLAG_WRITE and NOTIFY (13 R343, R347, R351, R355). -/
def Obligations.DoorbellWrites : Prop :=
  ∀ (n : CtxN) (v : BitVec 64) (s : State), let k := s.ctx n.val
    let h := k.host
    let w : BitVec 32 := v.setWidth 32
    let put := fun x : CtxHost => { k with host := x }
    let p := if w = h.sqTail ∨ s.pwr.entering = none then s.pwr else { s.pwr with entering := none, wakes := min (s.pwr.wakes + 1) 65535 }
    let tail := fun x : CtxHost => ∃ t, Answers (.sqTail n v) s t ∧ CtxOnly { s with pwr := p } t n.val (put x)
    let discarded := { s with host := { s.host with discarded := min (s.host.discarded + 1) 65535 } }
    let stale := { s with host := { s.host with stale := min (s.host.stale + 1) 65535 } }
    (k.sched.st = 1 →
      (2 ^ 32 ≤ v.toNat → Answers (.sqTail n v) s discarded ∧ Answers (.cqHead n v) s discarded) ∧
      (v.toNat < 2 ^ 32 →
        ((w - h.sqTail).toNat + (h.sqTail - h.sqHead).toNat ≤ 256 →
          (s.ready = false ∨ s.pwr.rest ≠ 0 → tail { h with sqTail := w }) ∧
          (s.ready = true → s.pwr.rest = 0 → ∃ ts : List Taken, ts.length = (w - h.sqHead).toNat ∧
            (∀ i x, ts[i]? = some x → x.bytes = Mem.read s.host.rings (0x8000 * n.val + 128 * ((h.sqHead.toNat + i) % 256)) 128) ∧
            tail { h with sqTail := w, sqHead := w, taken := h.taken ++ ts })) ∧
        (256 < (w - h.sqTail).toNat + (h.sqTail - h.sqHead).toNat → (h.sqTail - h.sqHead).toNat ≤ 256 → Answers (.sqTail n v) s stale) ∧
        ((w - h.cqHead).toNat ≤ (h.cqTail - h.cqHead).toNat → AnswersCtx (.cqHead n v) s n.val (put { h with cqHead := w })) ∧
        ((h.cqTail - h.cqHead).toNat < (w - h.cqHead).toNat → Answers (.cqHead n v) s stale)) ∧
      (v.toNat < 2 ^ 25 → AnswersCtx (.notify n v) s n.val (put { h with notifyQp := v.setWidth 24, notifyEn := v.getLsbD 24 })) ∧
      (2 ^ 25 ≤ v.toNat → Answers (.notify n v) s discarded) ∧
      (let p := fld v.toNat 16 0
       let new := fld v.toNat 25 24
       let good := fld v.toNat 23 17 = 0 ∧ fld v.toNat 31 26 = 0 ∧ fld v.toNat 63 40 = 0 ∧ s.ownsPage n.val p = true ∧
         (s.page p).seq.toNat = fld v.toNat 39 32 ∧ (((s.page p).owner = 1 ∧ new = 2) ∨ ((s.page p).owner = 3 ∧ (new = 1 ∨ new = 2)))
       (good → ∃ t, Answers (.flagWrite n v) s t ∧ t.page p = { owner := new, seq := (s.page p).seq + 1 } ∧
         (∀ q, q ≠ p → t.page q = s.page q) ∧ t = { s with host := { s.host with pages := t.host.pages } }) ∧
       (¬ good → Answers (.flagWrite n v) s { s with host := { s.host with flagRefused := min (s.host.flagRefused + 1) 65535 } }))) ∧
    (k.sched.st = 2 → ∀ i ∈ [Instr.sqTail n v, .cqHead n v, .flagWrite n v, .notify n v],
      AnswersCtx i s n.val { k with sched := { k.sched with absorbed := min (k.sched.absorbed + 1) (2 ^ 31 - 1) } }) ∧
    (k.sched.st = 0 → ∀ i ∈ [Instr.sqTail n v, .cqHead n v, .flagWrite n v, .notify n v], Answers i s s)

/-- COMMAND_START and COMPLETION_POST of a client context (13 R352 to R356). -/
def Obligations.CommandsStartAndComplete : Prop :=
  (∀ (n : CtxId) (s : State) (t : Taken) (ts : List Taken), let k := s.ctx n.val
    let h := k.host
    let op := field t.bytes 0 2
    let tag := BitVec.ofNat 16 (field t.bytes 4 2)
    h.taken = t :: ts → s.live = true → (s.pwr.rest = 0 ∨ n.val = 16 ∧ op ∈ [0x01, 0xA0, 0x50, 0x51, 0xA1]) → (n.val = 16 ∨ k.sched.st = 1) →
    let room := h.cmds.length + h.comps.length < 64
    let alone := field t.bytes 3 1 % 2 = 1 → h.cmds.length + h.comps.length = 0
    let first := op = 0x31 → field t.bytes 16 8 ≠ 0xFFFFFFFFFFFF → k.training = false
    (room → alone → first →
      (slotStatus t.bytes n.val = 0 → AnswersCtx (.commandStart n) s n.val { k with host := { h with taken := ts, cmds := h.cmds ++
        [{ opcode := op, tag := tag, params := (t.bytes.drop 8).take 112, fence := bit (field t.bytes 3 1) 0, running := false, seq := t.seq, ports := t.ports }] } }) ∧
      (slotStatus t.bytes n.val ≠ 0 → AnswersCtx (.commandStart n) s n.val { k with host := { h with taken := ts, comps := h.comps ++
        [{ opcode := op, tag := tag, status := slotStatus t.bytes n.val, res0 := 0, res1 := 0, cacheFail := false, extra := [], seq := t.seq, ports := t.ports }] } })) ∧
    (¬ (room ∧ alone ∧ first) → Answers (.commandStart n) s s)) ∧
  (∀ (b : List Byte) (n : Nat), b.length = 128 → let st := slotStatus b n
    let op := field b 0 2
    let whole := field b 124 4 = (crc32c (b.take 124)).toNat ∧ field b 6 2 ≤ 112 ∧ field b 3 1 ≤ 1 ∧ field b 120 4 = 0 ∧
      ∀ i, 8 + field b 6 2 ≤ i → i < 120 → b.getD i 0 = 0
    let named := fun i => ∃ f ∈ paramsOf op (field b 8 1), f.1 ≤ i ∧ i < f.1 + f.2
    (¬ whole → st = 0x202) ∧ (whole → issuerOf op = none → st = 0x201) ∧
    (∀ who, whole → issuerOf op = some who →
      (field b 2 1 ≠ n → st = 0x203) ∧
      (field b 2 1 = n → (who = 0 ∧ n ≠ 16) ∨ (who = 1 ∧ n = 16) → st = 0x239) ∧
      (field b 2 1 = n → ¬ ((who = 0 ∧ n ≠ 16) ∨ (who = 1 ∧ n = 16)) →
        ((∃ i, 8 ≤ i ∧ i < 120 ∧ b.getD i 0 ≠ 0 ∧ ¬ named i) ∨ paramsOk op (field b) = false → st = 0x204) ∧
        ((∀ i, 8 ≤ i → i < 120 → b.getD i 0 ≠ 0 → named i) → paramsOk op (field b) = true → st = 0)))) ∧
  (∀ (n : CtxId) (s : State) (e : Comp) (es : List Comp), let k := s.ctx n.val
    let h := k.host
    n.val ≠ 16 → k.sched.st = 1 → h.comps = e :: es →
    ((h.cqTail - h.cqHead).toNat < 256 → let a := 0x80000 + 0x2000 * n.val + 32 * (h.cqTail.toNat % 256)
      let bs := e.bytes n.val (h.cqTail.toNat / 256 % 2 == 0) h.sqHead
      let told := h.notifyEn = true ∧ ∃ q, SMap.get none s.host.qps h.notifyQp.toNat = some q ∧ q.ctx = n.val
      ∃ t, Answers (.completionPost n) s t ∧ t.ctx n.val = { k with host := { h with comps := es, cqTail := h.cqTail + 1 } } ∧
        (∀ m, m ≠ n.val → t.ctx m = s.ctx m) ∧ bs.length = 32 ∧ Mem.read t.host.rings a 32 = bs ∧
        (∀ x, (x < a ∨ a + 32 ≤ x) → Mem.byte t.host.rings x = Mem.byte s.host.rings x) ∧
        (told → t.out = s.out ++ [.send h.notifyQp.toNat bs]) ∧ (¬ told → t.out = s.out) ∧
        t = { s with ctxs := t.ctxs, host := { s.host with rings := t.host.rings }, out := t.out }) ∧
    (256 ≤ (h.cqTail - h.cqHead).toNat → Answers (.completionPost n) s s))

/-- QP_CONNECT_REQUEST, the congestion rows, RDMA_WRITE, RDMA_READ and ETHERNET_LINK_UP_DOWN (13 R337 to R346, R365, R367).
That a local memory error ends the queue pair with a NAK, for a WRITE too, is PRESUMED (log 58), and the replays that come with a row
are the model's choice (log 85). -/
def Obligations.QueuePairsAndHostAccess : Prop :=
  (∀ (qp : Fin 1024) (s : State), let at_ := fun (t : State) => SMap.get none t.host.qps qp.val
    let same := fun (t : State) => (∀ x, x ≠ qp.val → SMap.get none t.host.qps x = SMap.get none s.host.qps x) ∧
      t = { s with host := { s.host with qps := t.host.qps }, out := t.out }
    let ended := fun (t : State) => at_ t = none ∧ t.out = s.out ++ [.rdmaNak qp.val true] ∧ same t
    (∀ (port : Fin 4) (key : BitVec 32) (mtu : Nat), let fits := mtu = 1024 ∨ mtu = 2048 ∨ mtu = 4096
      (s.pwr.sup = 3 → Answers (.qpConnectRequest qp port key mtu) s s) ∧
      (∀ n : Nat, s.pwr.sup ≠ 3 → fits → at_ s = none → n < 16 → (s.ctx n).sched.st = 1 → (s.ctx n).sched.key = key →
        (∀ m, m < 16 → m ≠ n → (s.ctx m).sched.st = 1 → (s.ctx m).sched.key ≠ key) →
        ∃ t, Answers (.qpConnectRequest qp port key mtu) s t ∧
          at_ t = some { ctx := n, port := port.val, rate := 400000, rises := 0, lastActed := none, lastSent := none, parts := 1, mtu := mtu } ∧
          t.out = s.out ++ [.connect qp.val true] ∧ same t) ∧
      (s.pwr.sup ≠ 3 → ¬ fits ∨ at_ s ≠ none ∨ (∀ m, m < 16 → (s.ctx m).sched.st = 1 → (s.ctx m).sched.key ≠ key) →
        Answers (.qpConnectRequest qp port key mtu) s { s with out := s.out ++ [.connect qp.val false] })) ∧
    (∀ q : Qp, at_ s = some q → let n := q.ctx
      let becomes := fun (i : Instr) (x : Qp) (o : List Out) => ∃ t, Answers i s t ∧ at_ t = some x ∧ t.out = s.out ++ o ∧ same t
      ((∀ t0, q.lastSent = some t0 → t0 + 50 ≤ s.now) → becomes (.congestionExperiencedPacket qp) { q with lastSent := some s.now } [.cnp qp.val]) ∧
      (∀ t0, q.lastSent = some t0 → s.now < t0 + 50 → Answers (.congestionExperiencedPacket qp) s s) ∧
      ((∀ t0, q.lastActed = some t0 → t0 + 50 ≤ s.now) →
        becomes (.congestionNotificationPacket qp) { q with
          rate := if q.rate * 7 ≤ 1000 * (q.parts * 8) then 1000 else q.rate * 7, parts := if q.rate * 7 ≤ 1000 * (q.parts * 8) then 1 else q.parts * 8,
          rises := 0, lastActed := some s.now } []) ∧
      (∀ t0, q.lastActed = some t0 → s.now < t0 + 50 → Answers (.congestionNotificationPacket qp) s s) ∧
      ((∀ t0, q.lastActed = some t0 → t0 + 100 ≤ s.now) →
        let r := q.rate + (if q.rises < 20 then 2000 else 20000) * q.parts
        becomes (.rateRiseTimer qp) { q with
          rate := if 400000 * q.parts ≤ r then 400000 else r, parts := if 400000 * q.parts ≤ r then 1 else q.parts, rises := q.rises + 1 } []) ∧
      (∀ t0, q.lastActed = some t0 → s.now < t0 + 100 → Answers (.rateRiseTimer qp) s s) ∧
      (∀ (key : BitVec 32) (addr : BitVec 64) (data : List Byte) (r : Nat) (us : List Upset),
        let broken := fun (t : State) => at_ t = none ∧ Out.rdmaNak qp.val false ∈ t.out ∧ t.mem = s.mem ∧ t.flt.active = true
        (key ≠ (s.ctx n).sched.key → (∃ t, Answers (.rdmaWrite qp key addr data r) s t ∧ ended t) ∧
          ∃ t, Answers (.rdmaRead qp key addr data.length us r) s t ∧ ended t) ∧
        (key = (s.ctx n).sched.key → data = [] → Answers (.rdmaWrite qp key addr [] r) s { s with out := s.out ++ [.rdmaAck qp.val] } ∧
          Answers (.rdmaRead qp key addr 0 us r) s { s with out := s.out ++ [.rdmaData qp.val []] }) ∧
        (key = (s.ctx n).sched.key → data ≠ [] → 8 ≤ r → s.flt.active = false → (∃ t, Answers (.rdmaWrite qp key addr data r) s t ∧ broken t) ∧
          ∃ t, Answers (.rdmaRead qp key addr data.length us r) s t ∧ broken t)) ∧
      (∀ (key : BitVec 32) (addr : BitVec 64) (data : List Byte), data ≠ [] → let a := addr.toNat
        let write := Instr.rdmaWrite qp key addr data 0
        let acked := fun (t : State) => t.out = s.out ++ [.rdmaAck qp.val]
        (key = (s.ctx n).sched.key → (s.ctx n).sched.st = 1 → n < 16 →
          (∀ off, a = mailbox + 0x8000 * n + off → off + data.length ≤ 0x8000 → ∃ t, Answers write s t ∧ acked t ∧
            Mem.read t.host.rings (0x8000 * n + off) data.length = data ∧
            (∀ x, (x < 0x8000 * n + off ∨ 0x8000 * n + off + data.length ≤ x) → Mem.byte t.host.rings x = Mem.byte s.host.rings x) ∧
            t = { s with host := { s.host with rings := t.host.rings }, out := t.out }) ∧
          (data.length = 8 → let bell := mailbox + 0xA0000 + 0x40 * n
            let v := BitVec.ofNat 64 (leNat data)
            ∀ (m : CtxN) (t : State), m.val = n →
            (a = bell → Answers (.sqTail m v) s t → Answers write s { t with out := t.out ++ [.rdmaAck qp.val] }) ∧
            (a = bell + 8 → Answers (.cqHead m v) s t → Answers write s { t with out := t.out ++ [.rdmaAck qp.val] }) ∧
            (a = bell + 16 → Answers (.flagWrite m v) s t → Answers write s { t with out := t.out ++ [.rdmaAck qp.val] }) ∧
            (a = bell + 40 → Answers (.notify m v) s t → Answers write s { t with out := t.out ++ [.rdmaAck qp.val] })) ∧
          (∀ p off, a = pageBase p + off → off + data.length ≤ unit2M → p < 131072 → CleanStore s →
            (s.ownsPage n p = true → (s.page p).owner = 1 → ∃ t, Answers write s t ∧ acked t ∧ Mem.read t.mem a data.length = data ∧
              (∀ x, (x < a ∨ a + data.length ≤ x) → Mem.byte t.mem x = Mem.byte s.mem x) ∧ t.host = s.host) ∧
            (s.ownsPage n p = true → (s.page p).owner ≠ 1 → ∃ t, Answers write s t ∧ acked t ∧ t.mem = s.mem ∧ (t.page p).owner = 3 ∧
              (∀ x, x ≠ p → t.page x = s.page x)) ∧
            (s.ownsPage n p = false → ∃ t, Answers write s t ∧ ended t)))) ∧
      (∀ (key : BitVec 32) (addr : BitVec 64) (len : Nat), 0 < len → let a := addr.toNat
        let read := Instr.rdmaRead qp key addr len []
        (key = (s.ctx n).sched.key → (s.ctx n).sched.st = 1 → n < 16 →
          (∀ off, a = mailbox + 0x8000 * n + off → off + len ≤ 0x8000 →
            Answers read s { s with out := s.out ++ [.rdmaData qp.val (Mem.read s.host.rings (0x8000 * n + off) len)] }) ∧
          (∀ p off, a = pageBase p + off → off + len ≤ unit2M → p < 131072 → CleanStore s →
            (s.ownsPage n p = true → (s.page p).owner ≠ 0 → Answers read s { s with out := s.out ++ [.rdmaData qp.val (Mem.read s.mem a len)] }) ∧
            (s.ownsPage n p = false ∨ (s.page p).owner = 0 → ∃ t, Answers read s t ∧ ended t)))))) ∧
  (∀ (n : Fin 4) (up : Bool) (s : State),
    (s.pwr.sup = 3 → ∀ mgmt, Answers (.ethernetLinkUpDown mgmt n up) s s) ∧
    (s.pwr.rest = 4 → Answers (.ethernetLinkUpDown false n up) s s) ∧
    (s.pwr.sup ≠ 3 → s.pwr.rest ≠ 4 → ∃ t, Answers (.ethernetLinkUpDown false n up) s t ∧ SMap.get false t.host.hostUp n.val = up ∧
      (∀ m, m ≠ n.val → SMap.get false t.host.hostUp m = SMap.get false s.host.hostUp m) ∧ t = { s with host := { s.host with hostUp := t.host.hostUp } }) ∧
    (s.pwr.sup ≠ 3 → n.val < 2 → ∃ t, Answers (.ethernetLinkUpDown true n up) s t ∧ SMap.get false t.host.mgmtUp n.val = up ∧
      (∀ m, m ≠ n.val → SMap.get false t.host.mgmtUp m = SMap.get false s.host.mgmtUp m) ∧ t = { s with host := { s.host with mgmtUp := t.host.mgmtUp } }))

/-- MANAGEMENT_COMMAND_DATAGRAM and HEARTBEAT_TIMER (13 R358 to R360, R500). The heartbeat's sequence is log 46's. -/
def Obligations.ManagementDatagrams : Prop :=
  (∀ (port : Fin 2) (ip : BitVec 128) (udp : BitVec 16) (b : List Byte) (s : State),
    let i := Instr.managementCommandDatagram port ip udp b
    let head := b.take 16
    let slot := b.drop 32
    let seq := BitVec.ofNat 64 (field b 8 8)
    let valid := b.length = 160 ∧ field b 0 4 = 0x314D495A ∧ field b 4 1 = 1 ∧ field b 5 3 = 0 ∧
      (b.drop 16).take 16 = (digestBytes (hmacSm3 (natLe 16 s.shk.mgmtKey.toNat) (head ++ slot))).take 16
    let dest := some { ip := ip, udp := udp : Addr }
    let status := fun (st : Nat) => s.mgmtBytes 2 seq.toNat
      (Comp.bytes { opcode := field slot 0 2, tag := BitVec.ofNat 16 (field slot 4 2), status := st, res0 := 0, res1 := 0, cacheFail := false,
                    extra := [], seq := 0, ports := 0 } 16 true 0)
    let rejected := fun (t : State) => SMap.get 0 t.host.rejected port.val = min (SMap.get 0 s.host.rejected port.val + 1) 65535
    let twice := fun (t : State) => SMap.get 0 t.host.duplicates port.val = min (SMap.get 0 s.host.duplicates port.val + 1) 65535
    let kept := s.host.kept.find? fun k => k.seq == seq
    let low := ∃ k ∈ s.host.kept, seq.toNat ≤ k.seq.toNat ∧ ∀ x ∈ s.host.kept, k.seq.toNat ≤ x.seq.toNat
    (s.pwr.sup = 3 → Answers i s s) ∧
    (s.pwr.sup ≠ 3 → ¬ valid → ∃ t, Answers i s t ∧ rejected t ∧ t = { s with host := { s.host with rejected := t.host.rejected } }) ∧
    (s.pwr.sup ≠ 3 → valid → ∃ t, Answers i s t ∧ SMap.get none t.hlt.reportAddr port.val = dest ∧ t.mem = s.mem ∧ t.cores = s.cores ∧
      (s.ready = false → t.out = s.out ++ [.datagram port.val dest (status 0x23E)] ∧ t.host = s.host ∧ t.ctxs = s.ctxs) ∧
      (s.ready = true →
        (kept = none → ¬ low → t.out = s.out ∧ (t.ctx 16).host.taken = (s.ctx 16).host.taken ++ [{ bytes := slot, seq := seq, ports := portBit port.val }] ∧
          t.host.kept.head? = some { seq := seq, ports := portBit port.val, opcode := field slot 0 2, tag := BitVec.ofNat 16 (field slot 4 2),
                                     comp := none, done := false } ∧ t.host.kept.length ≤ 1024) ∧
        (kept = none → low → rejected t ∧ t.out = s.out ∧ t.ctxs = s.ctxs ∧ t.host.kept = s.host.kept) ∧
        (∀ (k : Kept) (body : List Byte), kept = some k → k.comp = some body →
          t.out = s.out ++ [.datagram port.val dest (s.mgmtBytes 2 seq.toNat body)] ∧ t.host = s.host ∧ t.ctxs = s.ctxs) ∧
        (∀ k : Kept, kept = some k → k.comp = none → twice t ∧ t.ctxs = s.ctxs ∧
          (k.done = true → t.out = s.out ++ [.datagram port.val dest (status 0x247)] ∧ t.host.kept = s.host.kept) ∧
          (k.done = false → t.out = s.out ∧
            (t.host.kept.find? fun k => k.seq == seq) = some { k with ports := k.ports ||| portBit port.val }))))) ∧
  (∀ (port : Fin 2) (s : State), let c : BitVec 24 := SMap.get 0 s.host.heartbeats port.val + 1
    (s.pwr.sup ≠ 3 → ∃ t, Answers (.heartbeatTimer port) s t ∧ SMap.get 0 t.host.heartbeats port.val = c ∧ s.heartbeat.length = 32 ∧
      t.out = s.out ++ [.datagram port.val (SMap.get none s.hlt.reportAddr port.val) (s.mgmtBytes 3 c.toNat s.heartbeat)] ∧
      t = { s with host := { s.host with heartbeats := t.host.heartbeats }, out := t.out }) ∧
    (s.pwr.sup = 3 → Answers (.heartbeatTimer port) s s))

/-- LOAD_PACKAGE, PACKAGE_CACHE_DROP, PACKAGE_CHUNK_LAND, LOAD_COMPLETE and CACHE_COPY_COMPLETE of packages (08 R197 to R212).
The READ requests of a load and the row of the cache copy (log 86), the order of the checks (log 55), the EMPTY last of a failed load
(log 54) and when a cache copy is good (log 56) are the model's choices. -/
def Obligations.PackageLoads : Prop :=
  let bare := fun (l : Load) => { l with asked := 0 }
  (∀ (n : CtxId) (tag : Tag) (head : List Byte) (c : Cmd) (s : State), Begins s n.val 0x20 tag c →
    (c.p 8 1 ≤ 1 → let i := Instr.loadPackage n tag head
      let d := c.p 10 1
      let stop := fun st => EndsWith i s n.val 0x20 tag st 0 0
      let source := s.sourceOk n.val c (c.p 48 8) = true
      let dest := d = 0 ∨ s.mayLast n.val = true
      let open_ := d = 0 ∨ (s.last d).st = 0 ∨ (s.last d).st = 2
      (¬ source → stop 0x204) ∧ (source → ¬ dest → stop 0x239) ∧
      (source → dest → (s.last d).st ≤ 4 → ¬ open_ → stop 0x237) ∧
      (source → dest → open_ → c.p 9 1 = 1 → s.cached (BitVec.ofNat 64 (c.p 16 8)) = none → stop 0x23F) ∧
      (source → dest → open_ → c.p 9 1 = 0 → 16 ≤ s.readsOut (c.p 36 4) → Answers i s s) ∧
      (source → dest → open_ → c.p 9 1 = 0 → s.readsOut (c.p 36 4) < 16 → let st := s.packageStatus n.val c head
        let l := packageLoad n.val tag c head
        let asks := fun (t : State) => Out.rdmaRead (c.p 36 4) (c.p 24 8) (BitVec.ofNat 32 (c.p 32 4)) 64 ∈ t.out
        let few := fun (t : State) => (∀ q, s.readsOut q ≤ 16) → ∀ q, t.readsOut q ≤ 16
        (st ≠ 0 → ∃ t, Answers i s t ∧ Done t n.val 0x20 tag st 0 0 ∧ asks t ∧ t.loads = s.loads ∧ (d ≠ 0 → (t.last d).st = 0 ∧ t.mem = s.mem) ∧
          (CleanStore s → ∀ x, (x < c.p 40 8 ∨ c.p 40 8 + headPayload head ≤ x) → Mem.byte t.mem x = Mem.byte s.mem x)) ∧
        (st = 0 → d = 0 → ∃ t, Answers i s t ∧ asks t ∧ few t ∧ t.loads.map bare = (s.loads ++ [l]).map bare ∧ t.mem = s.mem) ∧
        (st = 0 → d = 1 ∨ d = 2 → ∀ b, (s.beginLast d).charge 16 1 4 (l.lastBytes / unit2M) = .ok b →
          ∃ t, Answers i s t ∧ asks t ∧ few t ∧ t.loads.map bare = (s.loads ++ [{ l with destBase := b }]).map bare ∧ t.mem = s.mem ∧ (t.last d).st = 1 ∧
            (t.last d).gen = (s.last d).gen ∧ (t.last d).base = some b ∧ (t.last d).units = l.lastBytes / unit2M))) ∧
    (c.p 8 1 = 2 → (s.cached (BitVec.ofNat 64 (c.p 16 8)) = none → EndsWith (.packageCacheDrop n tag) s n.val 0x20 tag 0x23F 0 0) ∧
      (∀ e, s.cached (BitVec.ofNat 64 (c.p 16 8)) = some e → ∃ t, Answers (.packageCacheDrop n tag) s t ∧ Done t n.val 0x20 tag 0 0 0 ∧
        t.cache = s.cache.filter (fun x => x != e) ∧ t.mem = s.mem))) ∧
  (∀ (n : Nat) (c : Cmd) (h : List Byte) (s : State), let st := s.packageStatus n c h
    let head := headOk h = true ∧ (c.p 9 1 ≠ 1 → payloadOff h + headPayload h ≤ c.p 48 8)
    let sig := s.sigOk h = true
    let table := entriesOk (parseEntries h) (headPayload h) (c.p 10 1 != 0) = true
    let sets := (s.ctx n).mem.setLimitHit ((parseEntries h).map (·.set)) = false
    let place := c.p 10 1 = 0 → s.inT1Allocs n (c.p 40 8) (headPayload h) = true
    64 ≤ h.length → (¬ head → st = 0x234) ∧
    (head → headBytes h ≤ h.length → (¬ sig → st = 0x235) ∧ (sig → ¬ table → st = 0x234) ∧ (sig → table → ¬ sets → st = 0x23A) ∧
      (sig → table → sets → ¬ place → st = 0x210) ∧ (sig → table → sets → place → st = 0))) ∧
  (∀ (k : Nat) (l : Load) (s : State), s.loads[k]? = some l → l.raw = false → s.live = true → l.dest ≤ 2 →
    (∀ data : List Byte, l.copying = false → l.next < l.digests.length → (l.dest = 0 ∨ (s.last l.dest).base.isSome = true) → l.source = 0 →
      let a := l.destBase + l.next * unit2M
      let failed := fun (st : Nat) => ∃ t, Answers (.packageChunkLand k data 0) s t ∧
        Done t l.ctx 0x20 l.tag st 0 0 ∧ t.loads.map bare = (dropAt k s.loads).map bare ∧ (l.dest ≠ 0 → (t.last l.dest).st = 0 ∧ (t.last l.dest).base = none) ∧
        (CleanStore s → ∀ x, (x < l.destBase ∨ l.destBase + l.payload ≤ x) → Mem.byte t.mem x = Mem.byte s.mem x)
      (s.hostOpen l = true → l.asked ≤ l.next → Answers (.packageChunkLand k data 0) s s) ∧
      (∀ c, s.hostOpen l = false → s.cmd? l.ctx 0x20 l.tag true = some c → failed 0x213) ∧
      (s.hostOpen l = true → l.next < l.asked → data.length = unit2M →
        (sm3 data = l.digests.getD l.next 0 → CleanStore s → ∃ t, Answers (.packageChunkLand k data 0) s t ∧ Mem.read t.mem a unit2M = data ∧
          (∀ x, (x < a ∨ a + unit2M ≤ x) → Mem.byte t.mem x = Mem.byte s.mem x) ∧
          t.loads.map bare = (s.loads.modify k fun l => { l with next := l.next + 1 }).map bare ∧ t.ctxs = s.ctxs) ∧
        (∀ c, sm3 data ≠ l.digests.getD l.next 0 → s.cmd? l.ctx 0x20 l.tag true = some c → failed 0x236))) ∧
    (∀ c, l.copying = false → l.next = l.digests.length → s.cmd? l.ctx 0x20 l.tag true = some c → CleanStore s → l.stage = none →
      ∃ t, Answers (.loadComplete k) s t ∧
        (l.action ≠ 1 → t.loads = dropAt k s.loads ∧ Done t l.ctx 0x20 l.tag 0 l.payload (t.loadGen l)) ∧
        (l.action = 1 → t.loads = s.loads.modify k fun l => { l with copying := true }) ∧
        (l.dest = 0 → t.mem = s.mem ∧ t.lastA = s.lastA ∧ t.lastB = s.lastB ∧
          (t.ctx l.ctx).copies = putCopies (s.ctx l.ctx).copies ((s.ctx l.ctx).loadCopies l)) ∧
        (l.dest ≠ 0 → (t.last l.dest) = { s.last l.dest with
            st := 2, gen := (s.last l.dest).gen + 1, size := (s.last l.dest).units, copies := putCopies [] ((s.ctx l.ctx).loadCopies l) } ∧
          Mem.read t.mem (l.destBase + l.payload) l.directory.length = l.directory) ∧
        (l.ctx ≠ 16 → ∀ i, i < 64 → (t.ctx l.ctx).mem.adapters.getLsbD i =
          ((s.ctx l.ctx).mem.adapters.getLsbD i || decide (i ∈ l.entries.map (·.set))))) ∧
    (l.next ≠ l.digests.length → Answers (.loadComplete k) s s) ∧
    (∀ (c : Cmd) (ok : Bool), l.copying = true → s.cmd? l.ctx 0x20 l.tag true = some c → CleanStore s →
      let units := (payloadOff l.head + l.payload) / unit2M
      let good := ok = true ∧ s.cache.length < 16 ∧ (∃ b, s.charge l.ctx 3 0 units = .ok b) ∧ s.unchanged l = true
      ∃ t, Answers (.cacheCopyComplete k ok 0) s t ∧ t.loads = dropAt k s.loads ∧ t.mem = s.mem ∧ Done t l.ctx 0x20 l.tag 0 l.payload (s.loadGen l) ∧
        (good → (t.ctx l.ctx).host.comps.getLast?.map (·.cacheFail) = some false ∧
          (s.cached l.pkgId = none → (t.ctx l.ctx).mem.used 3 = (s.ctx l.ctx).mem.used 3 + units) ∧
          ∃ e, t.cache = s.cache.filter (fun x => !(x.pkgId == l.pkgId && x.valid)) ++ [e] ∧ e.pkgId = l.pkgId ∧ e.valid = true ∧ e.ctx = l.ctx ∧ e.head = l.head) ∧
        (¬ good → (t.ctx l.ctx).host.comps.getLast?.map (·.cacheFail) = some true ∧ t.cache = s.cache)))

/-- LOAD_RAW, RAW_ARRIVAL_COMPLETE, QUANTISER_PASS_COMPLETE, LAST_SWITCH and SWITCH_POINT (08 R199 to R210).
That short host data end in 0x213 (log 55), the READ requests (log 86), what a failed load leaves (log 54) and the order of a raw load
(log 57) are the model's choices. -/
def Obligations.RawLoadsAndSwitches : Prop :=
  let bare := fun (l : Load) => { l with asked := 0 }
  (∀ (n : CtxId) (tag : Tag) (c : Cmd) (s : State), Begins s n.val 0x21 tag c → CleanStore s → let i := Instr.loadRaw n tag
    let d := c.p 10 1
    let count := c.p 12 2
    let ds := parseLayouts (Mem.read s.mem (c.p 16 8) (64 * count)) count
    let bytes := rawBytes (ds.map (·.1))
    let places := s.inAllocs n.val (c.p 16 8) (64 * count) = true ∧ s.sourceOk n.val c 1 = true
    c.p 9 1 ≠ 0 ∨ s.rawWaits n.val c = false →
    (¬ places → EndsWith i s n.val 0x21 tag 0x204 0 0) ∧
    (places → d ≠ 0 → s.mayLast n.val = false → EndsWith i s n.val 0x21 tag 0x239 0 0) ∧
    (places → d ≠ 0 → s.mayLast n.val = true → (s.last d).st = 1 ∨ (s.last d).st = 3 ∨ (s.last d).st = 4 → EndsWith i s n.val 0x21 tag 0x237 0 0) ∧
    (places → d = 0 → let st := s.rawStatus n.val c ds
      ((∃ x ∈ ds, x.1.ok x.2 false = false) ∨ layoutsApart (ds.map (·.1)) = false → st = 0x23B) ∧
      (st = 0x23B → EndsWith i s n.val 0x21 tag st 0 0) ∧
      (st ≠ 0 → ∃ t, Answers i s t ∧ Done t n.val 0x21 tag st 0 0 ∧ t.loads = s.loads ∧
        ∀ x, (∀ r ∈ (ds.map (·.1)).flatMap Layout.ranges, x < r.1 ∨ r.1 + r.2 ≤ x) → Mem.byte t.mem x = Mem.byte s.mem x) ∧
      (st = 0 → c.p 9 1 = 2 → ∃ t, Answers i s t ∧ t.mem = s.mem ∧
        t.loads.map bare = (s.loads ++ [rawLoad n.val tag c (ds.map (·.1)) none]).map bare) ∧
      (st = 0 → c.p 9 1 = 0 → let u := roundUp bytes unit2M / unit2M
        ∀ a, s.rawStage n.val bytes = .ok a → ∃ t, Answers i s t ∧ t.mem = s.mem ∧
          t.loads.map bare = (s.loads ++ [rawLoad n.val tag c (ds.map (·.1)) (some (a, u))]).map bare ∧
          (t.ctx n.val).mem.used 2 = (s.ctx n.val).mem.used 2 + u))) ∧
  (∀ (k : Nat) (l : Load) (s : State), s.loads[k]? = some l → l.raw = true → s.live = true → l.dest = 0 → CleanStore s →
    (l.arrived = 0 → (l.ctx = 16 ∨ (s.ctx l.ctx).prog = none) → let n := rawBytes l.layouts
      (∀ data, l.source = 2 → ∃ t l', Answers (.rawArrivalComplete k data 0) s t ∧ t.mem = s.mem ∧ t.loads[k]? = some l' ∧
        l'.arrived = n ∧ l'.passes = l.passes ∧ l'.layouts = l.layouts) ∧
      (∀ data, l.source = 0 → s.hostOpen l = true → 0 < l.asked → n ≤ data.length → ∃ t l', Answers (.rawArrivalComplete k data 0) s t ∧ t.loads[k]? = some l' ∧ l'.arrived = n ∧
        Mem.read t.mem l.srcAddr n = data.take n ∧ ∀ x, (x < l.srcAddr ∨ l.srcAddr + n ≤ x) → Mem.byte t.mem x = Mem.byte s.mem x) ∧
      (∀ data c, l.source = 0 → s.hostOpen l = false ∨ (0 < l.asked ∧ data.length < n) → s.cmd? l.ctx 0x21 l.tag true = some c →
        ∃ t, Answers (.rawArrivalComplete k data 0) s t ∧
        t.loads.map bare = (dropAt k s.loads).map bare ∧ Done t l.ctx 0x21 l.tag 0x213 0 0)) ∧
    (∀ (i j : Nat) (rest : List (Nat × Nat)) (d : Layout), l.arrived ≠ 0 → l.passes = (i, j) :: rest → l.layouts[i]? = some d →
      let src := fun a => Mem.byte s.mem (l.srcAddr + a)
      let bs := (d.output src ((s.ctx l.ctx).loadRow d) (SMap.get [] l.amaxes (2 * i + j % 2)) j).1
      let a := d.dest j
      ∃ t, Answers (.quantiserPassComplete k 0) s t ∧ t.loads[k]? = some { l with passes := rest } ∧ Mem.read t.mem a bs.length = bs ∧
        ∀ x, (x < a ∨ a + bs.length ≤ x) → Mem.byte t.mem x = Mem.byte s.mem x) ∧
    (∀ c, l.arrived ≠ 0 → l.copying = false → l.passes = [] → s.cmd? l.ctx 0x21 l.tag true = some c → ∃ t, Answers (.loadComplete k) s t ∧
      Done t l.ctx 0x21 l.tag 0 l.arrived 0 ∧ t.loads = dropAt k s.loads ∧ t.mem = s.mem)) ∧
  (∀ (n : CtxId) (tag : Tag) (c : Cmd) (s : State), Begins s n.val 0x22 tag c → let i := Instr.lastSwitch n tag
    let st := (s.last (c.p 8 1 + 1)).st
    (s.mayLast n.val = false → EndsWith i s n.val 0x22 tag 0x239 0 0) ∧
    (s.mayLast n.val = true → (st = 0 ∨ st = 1 → EndsWith i s n.val 0x22 tag 0x238 0 0) ∧
      (st = 3 → EndsWith i s n.val 0x22 tag 0 (if s.lastPtr.active then 1 else 0) 0) ∧
      (st = 2 ∨ st = 4 → ∃ t, Answers i s t ∧ t.mem = s.mem ∧ t.lastA = s.lastA ∧ t.lastB = s.lastB ∧
        t.lastPtr = { s.lastPtr with pendingSw := s.lastPtr.pendingSw ++ [(n.val, tag, c.p 8 1 + 1)] }))) ∧
  (∀ (n i : Nat) (tag : BitVec 16) (rest : List (Nat × BitVec 16 × Nat)) (c : Cmd) (s : State),
    s.lastPtr.pendingSw = (n, tag, i) :: rest → s.live = true → s.cmd? n 0x22 tag true = some c → i = 1 ∨ i = 2 → let o := s.last (3 - i)
    ∃ t, Answers .switchPoint s t ∧ t.lastPtr.pendingSw = rest ∧ t.mem = s.mem ∧
      ((s.last i).st = 2 ∨ (s.last i).st = 4 → Done t n 0x22 tag 0 (i - 1) 0 ∧ t.last i = { s.last i with st := 3 } ∧
        t.last (3 - i) = (if o.st = 3 then { o with st := if o.inflight = 0 then 2 else 4 } else o) ∧ t.lastPtr.active = (i == 2) ∧
        t.lastPtr.valid = true ∧ t.lastPtr.switches = min (s.lastPtr.switches + 1) (2 ^ 32 - 1)) ∧
      ((s.last i).st = 0 ∨ (s.last i).st = 1 → Done t n 0x22 tag 0x238 0 0 ∧ t.lastA = s.lastA ∧ t.lastB = s.lastB) ∧
      ((s.last i).st = 3 → Done t n 0x22 tag 0 (i - 1) 0 ∧ t.lastA = s.lastA ∧ t.lastB = s.lastB)) ∧
  (∀ s : State, s.lastPtr.pendingSw = [] → Answers .switchPoint s s)

/-- SNAPSHOT in both its rows, SNAPSHOT_STOP_END, SNAPSHOT_DRAIN_COMPLETE, RESTORE with roles 1 and 2, STREAM_TIMEOUT and
STREAM_SEND_COMPLETE (15 R400 to R410).
BUSY for no region, for more than 4,096 regions, for no retention record and for a transfer in progress is the model's choice (log 60). -/
def Obligations.SnapshotsAndStreams : Prop :=
  ∀ (n : CtxN) (s : State), let k := s.ctx n.val
    let p := k.snap
    let opIs := fun (t : State) (o : Option SnapOp) => (t.ctx n.val).snap.op = o
    (∀ (tag : Tag) (c : Cmd), Begins s n.val 0x40 tag c → s.cmd? n.val 0x40 tag true = none →
      let i := if p.role = 1 then Instr.snapshotSend n tag else .snapshot n tag
      let shape := s.snapShape n.val p.retained c
      (1 < p.role ∨ (p.retained = true ∧ p.role = 0) ∨ k.runInProgress = true ∨ p.op ≠ none ∨ shape = none ∨ (p.role = 0 ∧ (p.g0.writing = true ∨ p.g1.writing = true)) ∨
        (∀ im, shape = some im → s.freeT2 < im.length / unit2M) → EndsWith i s n.val 0x40 tag 0x23E 0 0) ∧
      (∀ im : Image, s.snapBusy n.val c = false → shape = some im → k.step.wave = none → k.step.committed = k.step.applied → CleanStore s →
        let units := im.length / unit2M
        let read := fun (rs : List Region) => rs.map (fun r => (r.addr, r.size)) = im.regions.map (fun r => (r.addr, r.size)) ∧
          ∀ r ∈ rs, ∀ j, j < r.size → Mem.byte r.bytes j = Mem.byte s.mem (r.addr + j)
        (p.role = 1 → s.link.grants = [] → ∃ t rs, Answers i s t ∧ read rs ∧ t.mem = s.mem ∧
          opIs t (some { kind := 2, tag := tag, image := some { im with regions := rs }, start := s.now, begun := true, retained := p.retained, peer := p.peer })) ∧
        (p.role = 0 → ∀ st, s.takeT2 units [] = some st →
          ((s.chargeGen n.val p.target units).isSome = true → ∃ t rs, Answers i s t ∧ read rs ∧ t.mem = s.mem ∧
            opIs t (some { kind := 1, tag := tag, gen := p.target, image := some { im with regions := rs }, start := s.now, begun := true,
                           retained := p.retained, staging := st, peer := p.peer }) ∧
            (t.ctx n.val).snap.gen p.target = { units := units } ∧ (t.ctx n.val).mem.used3 = k.mem.used3 - (p.gen p.target).units + units) ∧
          ((s.chargeGen n.val p.target units) = none → EndsWith i s n.val 0x40 tag 0x210 0 0)))) ∧
    (∀ (o : SnapOp) (im : Image) (c : Cmd), p.op = some o → o.image = some im → s.live = true → s.cmd? n.val 0x40 o.tag true = some c →
      let ended := fun (t : State) => Done t n.val 0x40 o.tag 0 im.length (s.now - o.start) ∧ opIs t none ∧ t.mem = s.mem
      (o.begun = true → o.kind = 1 → ∃ t, Answers (.snapshotStopEnd n) s t ∧ ended t ∧ (t.ctx n.val).snap.drain = some { o with kind := 3 } ∧
        (t.ctx n.val).snap.gen o.gen = { p.gen o.gen with writing := true }) ∧
      (o.begun = true → o.kind = 2 → o.sent = im.length → ∃ t, Answers (.snapshotStopEnd n) s t ∧ ended t) ∧
      (o.begun = false ∨ (o.kind = 2 ∧ o.sent ≠ im.length) → Answers (.snapshotStopEnd n) s s) ∧
      (o.kind = 2 → o.sent < im.length → EndsWith (.streamTimeout n) s n.val 0x40 o.tag 0x23E 0 0)) ∧
    (∀ (o : SnapOp) (c : Cmd), p.op = some o → o.kind = 2 → o.image = none → s.live = true → s.cmd? n.val 0x40 o.tag true = some c →
      EndsWith (.streamTimeout n) s n.val 0x40 o.tag 0x23E 0 0) ∧
    (∀ (o : SnapOp) (im : Image), p.drain = some o → o.image = some im → s.live = true → o.gen ≤ 1 →
      ∃ t, Answers (.snapshotDrainComplete n) s t ∧ (t.ctx n.val).snap.drain = none ∧ t.mem = s.mem ∧
        (t.ctx n.val).snap.gen o.gen = { image := some im, valid := true, newest := true, units := (p.gen o.gen).units, digest := im.digest } ∧
        (t.ctx n.val).snap.gen (1 - o.gen) = { p.gen (1 - o.gen) with newest := false } ∧
        t.fills = s.fills ++ o.staging.map (fun r => { tier := 2, base := r.1, units := r.2, waiter := none, retire := none })) ∧
    (∀ (tag : Tag) (c : Cmd), Begins s n.val 0x41 tag c →
      (p.role = 1 → let i := Instr.restoreSend n tag
        (s.restoreBusy n.val = true → EndsWith i s n.val 0x41 tag 0x23E 0 0) ∧
        (s.restoreBusy n.val = false → p.named (c.p 8 1) = none → EndsWith i s n.val 0x41 tag 0x242 0 0) ∧
        (∀ g im, s.restoreBusy n.val = false → p.named (c.p 8 1) = some g → (p.gen g).image = some im → s.link.grants = [] →
          ∃ t, Answers i s t ∧ t.mem = s.mem ∧ opIs t (some { kind := 6, tag := tag, gen := g, image := some im, peer := p.peer }))) ∧
      (p.role = 2 → let i := Instr.restoreReceive n tag
        let busy := s.restoreBusy n.val = true ∨ (p.retained = false ∧ s.holdsT1 n.val = true)
        (busy → EndsWith i s n.val 0x41 tag 0x23E 0 0) ∧
        (¬ busy → ∃ t, Answers i s t ∧ t.mem = s.mem ∧
          opIs t (some { kind := 5, tag := tag, peer := p.peer, retained := p.retained, grant := windowBytes })))) ∧
    (∀ (o : SnapOp) (c : Cmd), p.op = some o → s.live = true → s.cmd? n.val 0x41 o.tag true = some c →
      (∀ im, o.kind = 6 → o.image = some im → o.sent = im.length → ∃ t, Answers (.streamSendComplete n) s t ∧ opIs t none ∧
        Done t n.val 0x41 o.tag 0 im.label.toNat im.step ∧ t.mem = s.mem) ∧
      (∀ im, o.kind = 6 → o.image = some im → o.sent < im.length → Answers (.streamSendComplete n) s s ∧
        ∃ t, Answers (.streamTimeout n) s t ∧ opIs t none ∧ Done t n.val 0x41 o.tag 0x23E 0 0 ∧ t.mem = s.mem) ∧
      (o.kind = 5 → ∃ t, Answers (.streamTimeout n) s t ∧ opIs t none ∧ Done t n.val 0x41 o.tag 0x242 0 0 ∧ t.mem = s.mem ∧
        (o.placed = true → o.retained = false → ∀ x ∈ t.allocs, ¬ (x.ctx = n.val ∧ x.tier = 1)))) ∧
    (p.op = none → Answers (.snapshotStopEnd n) s s ∧ Answers (.streamTimeout n) s s ∧ Answers (.streamSendComplete n) s s)

/-- RESTORE with role 0, RESTORE_INSTALL_COMPLETE, EXPORT, IMPORT and EXPORT_IMPORT_COMPLETE (15 R400 to R416).
BUSY while a transfer is in progress is the model's choice (log 60). -/
def Obligations.RestoresExportsAndImports : Prop :=
  ∀ (n : CtxN) (s : State), let k := s.ctx n.val
    let p := k.snap
    (∀ (tag : Tag) (c : Cmd), Begins s n.val 0x41 tag c →
      let stop := fun (i : Instr) st => EndsWith i s n.val 0x41 tag st 0 0
      let started := fun (i : Instr) (o : SnapOp) => ∃ t, Answers i s t ∧ t.mem = s.mem ∧ (t.ctx n.val).snap.op = some o
      (p.role = 0 → let i := Instr.restore n tag
        let busy := k.runInProgress = true ∨ p.op ≠ none ∨ p.retained = true ∨ s.holdsT1 n.val = true
        (busy → stop i 0x23E) ∧ (¬ busy → p.named (c.p 8 1) = none → stop i 0x242) ∧
        (∀ g im, ¬ busy → p.named (c.p 8 1) = some g → (p.gen g).image = some im →
          (s.takeRegions n.val im = none → stop i 0x23E) ∧
          (s.takeRegions n.val im ≠ none → started i { kind := 4, tag := tag, gen := g, image := some im, placed := true } ∧
            ∃ t, Answers i s t ∧ t.allocs = s.allocs ++ im.regions.map
              (fun r => { ctx := n.val, tier := 1, base := r.addr, units := r.size / unit2M, freeing := false })))) ∧
      (4 < p.role → stop (.restore n tag) 0x23E) ∧
      (p.role = 3 → let i := Instr.exportImg n tag
        let free := s.restoreBusy n.val = false ∧ s.rangeDevice n.val p.firstPage p.pages = true
        (¬ free → stop i 0x23E) ∧ (free → p.named (c.p 8 1) = none → stop i 0x242) ∧
        (∀ g, free → p.named (c.p 8 1) = some g → started i
          { kind := 7, tag := tag, gen := g, image := (p.gen g).image, first := p.firstPage, pages := p.pages, off := p.offset })) ∧
      (p.role = 4 → let i := Instr.importImg n tag
        let free := s.restoreBusy n.val = false ∧ s.rangeDevice n.val p.firstPage p.pages = true
        let o : SnapOp := { kind := 8, tag := tag, first := p.firstPage, pages := p.pages, off := p.offset }
        (¬ free → stop i 0x23E) ∧
        (free → p.importing = none → p.writing = false →
          (p.offset ≠ 0 → stop i 0x242) ∧
          (p.offset = 0 → CleanStore s → let h := Mem.read s.mem (pageBase p.firstPage) 64
            (imageHeadOk h = false → stop i 0x242) ∧
            (imageHeadOk h = true → 1 ≤ p.pages → (s.chargeGen n.val p.target (field h 32 8 / unit2M)) = none → stop i 0x210) ∧
            (imageHeadOk h = true → 1 ≤ p.pages → (s.chargeGen n.val p.target (field h 32 8 / unit2M)) ≠ none → started i { o with gen := p.target }))) ∧
        (∀ g, free → p.importing = some g →
          (p.offset = (p.gen g).next → started i { o with gen := g }) ∧
          (p.offset ≠ (p.gen g).next → ∃ t, Answers i s t ∧ Done t n.val 0x41 tag 0x242 0 0 ∧ (t.ctx n.val).snap.gen g = {} ∧ t.mem = s.mem)))) ∧
    (∀ (o : SnapOp) (c : Cmd), p.op = some o → s.live = true → s.cmd? n.val 0x41 o.tag true = some c → CleanStore s →
      let len := field (Mem.read o.rx 32 8) 0 8
      let streamed := o.kind = 5 ∧ o.placed = true ∧ o.got = len
      let failed := fun (t : State) st => Done t n.val 0x41 o.tag st 0 0 ∧ (t.ctx n.val).snap.op = none ∧ t.mem = s.mem ∧
        (o.placed = true → o.retained = false → ∀ x ∈ t.allocs, ¬ (x.ctx = n.val ∧ x.tier = 1))
      (∀ im : Image, o.kind = 4 → o.image = some im → (p.gen o.gen).checks = false → ∃ t, Answers (.restoreInstallComplete n) s t ∧ failed t 0x242) ∧
      (∀ im : Image, (o.kind = 4 ∧ o.image = some im ∧ (p.gen o.gen).checks = true) ∨
          (streamed ∧ o.retained = false ∧ imageChecks o.rx = true ∧ im = readImage o.rx) → im.prog = none → ∃ t, Answers (.restoreInstallComplete n) s t ∧
        Done t n.val 0x41 o.tag 0 im.label.toNat im.step ∧ let u := t.ctx n.val
          u.snap.op = none ∧ u.step.applied = im.step ∧ u.step.committed = im.step ∧ u.step.scale = BitVec.ofNat 32 (im.reg 0x238 % 2 ^ 32) ∧
          u.step.seed = BitVec.ofNat 64 (im.reg 0x250) ∧ u.step.layout = im.reg 0x288 % 2 ^ 16 ∧ u.step.journal = [] ∧ u.step.retained = [] ∧
          u.step.decided = false ∧ u.step.wave = none ∧ u.step.block = k.step.block ∧ u.sems = [] ∧ u.prog = none ∧ u.recs = im.recs ∧ u.copies = im.copies ∧ u.mem.taskArea = none ∧
          (im.scaling = true → ∀ x, x < 320 → t.ctxSregs n.val x = SMap.get [] im.sregs x) ∧
          u.arith.serveCount = im.serveCount ∧ u.mem.lim1 = k.mem.lim1 ∧ u.mem.lim2 = k.mem.lim2 ∧ u.mem.lim3 = k.mem.lim3 ∧
          (∀ r, im.regions = [r] → t1Base ≤ r.addr → r.addr + r.size ≤ t1Base + t1Size →
            Mem.read t.mem r.addr r.size = Mem.read r.bytes 0 r.size) ∧
          (∀ q a, q < 4 → (s.quarter q).cur = some n.val ∨ (s.quarter q).lastRan = some n.val → im.regions = [] →
            0xC0000000 + q * 0x4000000 ≤ a → a < 0xC0000000 + (q + 1) * 0x4000000 → Mem.byte t.mem a = 0)) ∧
      (o.kind = 5 → o.placed = false ∨ o.got ≠ len → Answers (.restoreInstallComplete n) s s) ∧
      (streamed → imageChecks o.rx = false → ∃ t, Answers (.restoreInstallComplete n) s t ∧ failed t 0x242) ∧
      (streamed → o.retained = true → imageChecks o.rx = true → let im := readImage o.rx
        (s.acceptsRetained n.val im = false → ∃ t, Answers (.restoreInstallComplete n) s t ∧ failed t 0x23E) ∧
        (s.acceptsRetained n.val im = true → ∃ t, Answers (.restoreInstallComplete n) s t ∧ Done t n.val 0x41 o.tag 0 im.label.toNat im.step ∧
          (t.ctx n.val).snap.op = none ∧ (t.ctx n.val).step.applied = k.step.applied ∧
          (t.ctx n.val).step.retained = k.step.retained.filter (fun r => r.epoch != im.step) ++
            [{ epoch := im.step, decision := im.decision, scale := im.scale, regions := im.regions.map fun r => (r.addr, r.size) }])) ∧
      (∀ im : Image, o.kind = 7 → o.image = some im → (∀ i, i < o.pages → o.first + i < 131072 ∧ (s.page (o.first + i)).owner = 2) →
        let count := min o.pages (im.length / unit2M - o.off)
        ∃ t, Answers (.exportImportComplete n) s t ∧ Done t n.val 0x41 o.tag 0 im.label.toNat im.step ∧ (t.ctx n.val).snap.done = count ∧
          (∀ i, i < count → Mem.read t.mem (pageBase (o.first + i)) unit2M = Mem.read im.bytes ((o.off + i) * unit2M) unit2M) ∧
          (∀ a, (a < pageBase o.first ∨ pageBase (o.first + count) ≤ a) → Mem.byte t.mem a = Mem.byte s.mem a)) ∧
      (o.kind = 8 → o.gen ≤ 1 → let x := p.gen o.gen
        let m := min o.pages (x.units - x.next)
        let raw := Mem.write x.raw (x.next * unit2M) (Mem.read s.mem (pageBase o.first) (m * unit2M))
        let h := Mem.read raw 0 64
        ∃ t, Answers (.exportImportComplete n) s t ∧ t.mem = s.mem ∧ (t.ctx n.val).snap.op = none ∧
          (x.next + m < x.units → Done t n.val 0x41 o.tag 0 (field h 8 8) (field h 16 8) ∧
            (t.ctx n.val).snap.gen o.gen = { x with raw := raw, next := x.next + m }) ∧
          (x.units ≤ x.next + m → imageChecks raw = true → Done t n.val 0x41 o.tag 0 (field h 8 8) (field h 16 8) ∧
            ((t.ctx n.val).snap.gen o.gen).valid = true ∧ ((t.ctx n.val).snap.gen o.gen).newest = true ∧
            ((t.ctx n.val).snap.gen o.gen).image = some (readImage raw) ∧ (readImage raw).bytes = raw) ∧
          (x.units ≤ x.next + m → imageChecks raw = false → Done t n.val 0x41 o.tag 0x242 0 0 ∧ (t.ctx n.val).snap.gen o.gen = {}))) ∧
    (p.op = none → Answers (.restoreInstallComplete n) s s ∧ Answers (.exportImportComplete n) s s)

/-- FW_STAGE, FW_STAGE_WRITE_COMPLETE, FW_ACTIVATE, ATTEST and the enrolments (18 R467 to R479).
That an enrolment is answered to the address that reports go to is the model's choice (log 75), and the byte order of a key is PRESUMED
(log 26). -/
def Obligations.FirmwareAndKeys : Prop :=
  (∀ (tag : Tag) (c : Cmd) (s : State), Begins s 16 0x60 tag c → let i := Instr.fwStage tag
    let failed := fun st => ∃ t, Answers i s t ∧ Done t 16 0x60 tag st 0 0 ∧ t.shk = { s.shk with slotS := none, staging := none } ∧ t.mem = s.mem
    (s.shk.staging ≠ none → EndsWith i s 16 0x60 tag 0x23E 0 0) ∧
    (s.shk.staging = none → c.p 8 1 = 1 → ∃ t, Answers i s t ∧ t.mem = s.mem ∧
      t.shk = { s.shk with slotS := none, held := 0, staging := some { tag := tag, source := 1, img := none, lace := some {} } }) ∧
    (s.shk.staging = none → c.p 8 1 = 0 → c.p 24 8 = 0 → t2Base ≤ c.p 16 8 → c.p 16 8 ≤ t2Base + windowSize → CleanStore s → failed 0x244) ∧
    (s.shk.staging = none → c.p 8 1 = 0 → (s.fwPages (c.p 16 8) (c.p 24 8) = false → failed 0x204) ∧
      (s.fwPages (c.p 16 8) (c.p 24 8) = true → CleanStore s → let b := Mem.read s.mem (c.p 16 8) (c.p 24 8)
        (s.shk.fwStatus b ≠ 0 → failed (s.shk.fwStatus b)) ∧
        (s.shk.fwStatus b = 0 → ∃ t, Answers i s t ∧ t.mem = s.mem ∧
          t.shk = { s.shk with slotS := none, staging := some { tag := tag, source := 0, img := some (fwImageOf b), lace := none } })))) ∧
  (∀ b : List Byte, fwSignatureOk b = true → let n := 64 + 32 * fwChunks b
    ((b.drop n).take 32 = digestBytes Config.fwKey0 ∨ (b.drop n).take 32 = digestBytes Config.fwKey1) ∧
      Config.fwSigOk (sm3 (b.take n)) ((b.drop n).take 96) = true) ∧
  (∀ (k : Shk) (b : List Byte), let whole := fwHeaderOk b = true ∧ fwLayoutOk b = true
    (¬ whole → k.fwStatus b = 0x244) ∧ (whole → fwSignatureOk b = false → k.fwStatus b = 0x235) ∧
    (whole → fwSignatureOk b = true → (field b 16 1 < k.rollback → k.fwStatus b = 0x245) ∧
      (k.rollback ≤ field b 16 1 → (fwChunksOk b = false ∨ bit (field b 17 1) codeBit = false → k.fwStatus b = 0x244) ∧
        (fwChunksOk b = true → bit (field b 17 1) codeBit = true → k.fwStatus b = 0)))) ∧
  (∀ (g : Staging) (im : FwImage) (c : Cmd) (s : State), s.shk.staging = some g → g.img = some im → s.flt.active = false →
    s.cmd? 16 0x60 g.tag true = some c → ∃ t, Answers .fwStageWriteComplete s t ∧ t.shk = { s.shk with slotS := some im, staging := none } ∧
      Done t 16 0x60 g.tag 0 im.release.toNat 0 ∧ t.mem = s.mem ∧
      (¬ (g.source = 0 ∧ s.shk.seed = true ∧ s.shk.path = false ∧ s.link.member = true) → t.ports = s.ports ∧ t.link = s.link)) ∧
  (∀ s : State, s.shk.staging = none → Answers .fwStageWriteComplete s s) ∧
  (∀ (tag : Tag) (c : Cmd) (s : State), Begins s 16 0x61 tag c → let i := Instr.fwActivate tag
    let e := BitVec.ofNat 32 (c.p 16 8)
    let required := if s.shk.required.toNat < e.toNat then e else s.shk.required
    let ready := s.shk.staging = none ∧ ∃ im, s.shk.slotS = some im ∧ im.version = e ∧ im.verified = true
    (ready → ∃ t, Answers i s t ∧ t.shk.slotA = s.shk.slotS ∧ t.shk.slotF = s.shk.slotA ∧ t.shk.slotS = none ∧ t.shk.required = required ∧
      t.rst.last = 4 ∧ t.rst.warm = min (s.rst.warm + 1) (2 ^ 32 - 1) ∧ (t.rst.phase = 1 ∨ t.rst.phase = 15)) ∧
    (¬ ready → ∃ t, Answers i s t ∧ Done t 16 0x61 tag 0x246 0 0 ∧ t.shk = { s.shk with required := required } ∧ t.rst = s.rst ∧ t.mem = s.mem)) ∧
  (∀ (n : CtxId) (tag : Tag) (c : Cmd) (s : State), Begins s n.val 0x70 tag c → c.params.length = 112 → let i := Instr.attest n tag
    let q := s.quote (c.params.take 32) (c.p 40 2)
    let a := c.p 48 8
    q.length = 264 + 32 * ((List.range 16).filter (bit (c.p 40 2))).length ∧
    (n.val = 16 → a = 0 → ∃ t, Answers i s t ∧ Done t 16 0x70 tag 0 q.length 0 ∧ t.mem = s.mem ∧
      (t.ctx 16).host.comps.getLast?.map (·.extra) = some q) ∧
    (¬ (n.val = 16 ∧ a = 0) → s.inAllocs n.val a q.length = false → EndsWith i s n.val 0x70 tag 0x204 0 0) ∧
    (¬ (n.val = 16 ∧ a = 0) → s.inAllocs n.val a q.length = true → a + q.length ≤ t1Base + t1Size → CleanStore s →
      ∃ t, Answers i s t ∧ Done t n.val 0x70 tag 0 q.length 0 ∧ Mem.read t.mem a q.length = q ∧
        ∀ x, (x < a ∨ a + q.length ≤ x) → Mem.byte t.mem x = Mem.byte s.mem x)) ∧
  (∀ (port : Fin 2) (ip : BitVec 128) (udp : BitVec 16) (b : List Byte) (s : State),
    let op := field b 32 1
    let i := if op = 2 then Instr.enrolPackageKey port ip udp b else if op = 3 then .revokePackageKey port ip udp b
      else .enrolManagementKey port ip udp b
    let seq := BitVec.ofNat 64 (field b 8 8)
    let answer := fun (st : Nat) => Out.datagram port.val (SMap.get none s.hlt.reportAddr port.val) (s.mgmtBytes 2 seq.toNat
      (Comp.bytes { opcode := 0, tag := 0, status := st, res0 := 0, res1 := 0, cacheFail := false, extra := [], seq := 0, ports := 0 } 16 true 0))
    let valid := s.mgmtOk 5 b = true ∧ b.length = 160
    (s.pwr.sup = 3 → Answers i s s) ∧
    (s.pwr.sup ≠ 3 → ¬ valid → ∃ t, Answers i s t ∧ SMap.get 0 t.host.rejected port.val = min (SMap.get 0 s.host.rejected port.val + 1) 65535 ∧
      t.shk = s.shk ∧ t.out = s.out) ∧
    (s.pwr.sup ≠ 3 → valid → s.ready = false → Answers i s { s with out := s.out ++ [answer 0x23E] }) ∧
    (s.pwr.sup ≠ 3 → valid → s.ready = true → (∀ k ∈ s.host.kept, k.seq.toNat < seq.toNat) →
      (∀ k, s.shk.enrol (b.drop 32) = some k → ∃ t, Answers i s t ∧ t.shk = k ∧ t.out = s.out ++ [answer 0] ∧ t.mem = s.mem) ∧
      (s.shk.enrol (b.drop 32) = none → ∃ t, Answers i s t ∧ t.shk = s.shk ∧ t.out = s.out ++ [answer 0x204] ∧ t.mem = s.mem))) ∧
  (∀ (k : Shk) (b : List Byte), (enrolOk b = false → k.enrol b = none) ∧
    (enrolOk b = true → let slot := field b 1 1
      let pkg := fun (key : Option (BitVec 512)) => ∃ x, k.enrol b = some x ∧ SMap.get none x.pkgKeys slot = key ∧ x.mgmtKey = k.mgmtKey ∧ x.pkgBits.getLsbD slot = key.isSome ∧
        SMap.get 0 x.pkgIds slot = (match key with | some v => sm3 (keyBytes v) | none => 0) ∧
        (∀ j, j ≠ slot → SMap.get none x.pkgKeys j = SMap.get none k.pkgKeys j) ∧
        x.measOf 3 = sm3 (digestBytes (k.measOf 3) ++ digestBytes x.keysDigest) ∧ ∀ j, j ≠ 3 → x.measOf j = k.measOf j
      (field b 0 1 = 2 → pkg (some (BitVec.ofNat 512 (leNat ((b.drop 8).take 64).reverse)))) ∧ (field b 0 1 = 3 → pkg none) ∧
      (field b 0 1 = 1 → ∀ x, k.enrol b = some x → x.pkgKeys = k.pkgKeys ∧ x.meas = k.meas ∧ x.mgmtGen = (k.mgmtGen + 1) % 2 ^ 32)))

/-- LACE_PIECE, LACE_REPAIR_PIECE, LACE_PIECE_DATAGRAM, LACE_END, LACE_BITMAP and LACE_BITMAP_TIMER (18 R475, R476, R479).
That bitmap datagrams go to both management ports, and the other readings of log 62, are the model's choices. -/
def Obligations.LacingBroadcast : Prop :=
  (∀ (j : Nat) (m : Msg) (l : Lace) (s : State) (i : Instr), s.link.inbox[j]? = some m → s.lacing = some l → s.shk.path = false → s.flt.active = false →
    (i = .lacePiece j ∧ m.w0.toNat % 256 = 0x30) ∨ (i = .laceRepairPiece j ∧ m.w0.toNat % 256 = 0x33) →
    let x := m.laceIndex
    let d := wordsBytes m.data
    let taken := { s with link := { s.link with inbox := dropAt j s.link.inbox } }
    (s.accepts l m.laceRelease = false → Answers i s taken) ∧
    (s.accepts l m.laceRelease = true →
      (l.piece x ≠ none → Answers i s taken) ∧
      (l.piece x = none → l.piece 0 = none → x ≠ 0 → l.headOk = false → ∃ t l', Answers i s t ∧ t.lacing = some l' ∧ l'.piece x = some d ∧
        (∀ y, y ≠ x → l'.piece y = l.piece y) ∧ l'.release = some m.laceRelease ∧ t.shk.held = l'.held.length ∧ t.shk.bad = s.shk.bad ∧ t.mem = s.mem) ∧
      (∀ c h, l.piece x = none → l.chunks = some c → h = headPieces c → l.headOk = true → h ≤ x → x < h + c →
        (chunkOk (l.join h) d (x - h) = false → ∃ t l', Answers i s t ∧ t.lacing = some l' ∧ (∀ y, l'.piece y = l.piece y) ∧
          t.shk.bad = min (s.shk.bad + 1) 65535 ∧ t.mem = s.mem) ∧
        (chunkOk (l.join h) d (x - h) = true → (∃ y, y < h + c ∧ y ≠ x ∧ l.piece y = none) → ∃ t l', Answers i s t ∧ t.lacing = some l' ∧
          l'.piece x = some d ∧ (∀ y, y ≠ x → l'.piece y = l.piece y) ∧ t.shk.bad = s.shk.bad ∧ t.mem = s.mem)))) ∧
  (∀ (port : Fin 2) (b : List Byte) (s : State), let i := Instr.lacePieceDatagram port b
    (s.pwr.sup = 3 → Answers i s s) ∧ (s.pwr.sup ≠ 3 → pieceDatagramOk b = false → ∃ t, Answers i s t ∧ SMap.get 0 t.host.rejected port.val = min (SMap.get 0 s.host.rejected port.val + 1) 65535 ∧ t.shk = s.shk) ∧
    (s.pwr.sup ≠ 3 → pieceDatagramOk b = true → (s.lacing = none ∨ s.shk.path = false ∨ s.flt.active = true → Answers i s s) ∧
      (∀ l, s.lacing = some l → s.shk.path = true → s.flt.active = false → let r := BitVec.ofNat 32 (field b 32 4)
        let x := field b 40 4
        (s.accepts l r = false → Answers i s s) ∧
        (s.accepts l r = true → x < 16513 → (l.piece x ≠ none → Answers i s s) ∧
          (l.piece x = none → l.piece 0 = none → x ≠ 0 → l.headOk = false → ∃ t l', Answers i s t ∧ t.lacing = some l' ∧
            l'.piece x = some (b.drop 48) ∧ (∀ y, y ≠ x → l'.piece y = l.piece y) ∧ t.shk.held = l'.held.length ∧ t.mem = s.mem))))) ∧
  (∀ (j : Nat) (m : Msg) (s : State), s.link.inbox[j]? = some m → m.w0.toNat % 256 = 0x31 → s.flt.active = false → s.shk.path = false →
    (s.lacing = none → s.heldImage m.laceRelease = none → Answers (.laceEnd j) s { s with link := { s.link with inbox := dropAt j s.link.inbox } }) ∧
    (∀ l, s.lacing = some l → s.accepts l m.laceRelease = true →
      let l' := { l with release := some m.laceRelease, version := m.laceVersion, seed := some m.laceSeed, count := some m.laceIndex }
      ∃ t, Answers (.laceEnd j) s t ∧ t.lacing = some l' ∧ t.mem = s.mem ∧ t.shk.bitmaps =
        if l'.missing ≠ [] ∧ s.parentOf m.laceSeed s.link.coord ≠ none then min (s.shk.bitmaps + 1) 65535 else s.shk.bitmaps)) ∧
  (∀ (j : Nat) (m : Msg) (s : State), s.link.inbox[j]? = some m → m.w0.toNat % 256 = 0x32 → s.lacing = none →
    (s.heldImage m.laceRelease = none → ∃ t, Answers (.laceBitmap j) s t ∧ t.shk = s.shk ∧ t.mem = s.mem) ∧
    (∀ im, s.heldImage m.laceRelease = some im → s.shk.repaired ≤ 65535 → ∃ t, Answers (.laceBitmap j) s t ∧ t.mem = s.mem ∧
      t.shk = { s.shk with repaired := min (s.shk.repaired + (m.wanted.filter fun i => decide (i < im.pieces)).length) 65535 })) ∧
  (∀ s : State, (s.lacing = none → Answers .laceBitmapTimer s s) ∧
    (∀ l, s.lacing = some l → (l.missing = [] ∨ s.flt.active = true → Answers .laceBitmapTimer s s) ∧
      (l.missing ≠ [] → s.flt.active = false → ∃ t, Answers .laceBitmapTimer s t ∧ t.mem = s.mem ∧ t.lacing = some l ∧
        (s.shk.path = true → t.out.length = s.out.length + 2 ∧ t.shk.bitmaps = min (s.shk.bitmaps + 1) 65535) ∧
        (∀ seed, s.shk.path = false → l.seed = some seed ∨ (l.seed = none ∧ seed = Config.laceSeed s.free) →
          (∀ p, s.parentOf seed s.link.coord = some p → t.shk.bitmaps = min (s.shk.bitmaps + 1) 65535) ∧
          (s.parentOf seed s.link.coord = none → t.shk = s.shk)))))

/-- The cold columns of the registers (00 R6, 08 R213, R214, 09 R238 to R241, 10 R272 to R278, 11 R304, R305, 12 R332 to R336, 13 R365,
R366, 14 R393, 16 R440 to R443, 17 R460, R461, 18 R484) at `State.reset`, and the model's invariant there.
That every byte of memory reads 0 is the model's choice (log 3). -/
def Obligations.ResetState : Prop :=
  let r := State.reset.readReg
  State.reset.Ok ∧ State.reset.pending = [] ∧ (∀ a, Mem.byte State.reset.mem a = 0#8) ∧
  (∀ (n : CtxN) (k : Fin 512), (State.reset.ctx n.val).sched.st = 0 ∧ r (ctxBase + 0x1000 * n.val + 8 * k.val) = 0#64) ∧
  (∀ a ∈ [0x0F0000030000, 0x0F0000030080, 0x0F0000030088, 0x0F0000020000, 0x0F0000020008, 0x0F0000020010, 0x0F0000020018, 0x0F0000020020,
    0x0F0000020028, 0x0F0000010000, 0x0F0000010008, 0x0F0000010010, 0x0F0000040000, 0x0F0000040008, 0x0F0000040010, 0x0F0000040018,
    0x0F0000040020, 0x0F0000070018, 0x0F0000070020, 0x0F0000080010, 0x0F0000090000, 0x0F0000090008], r a = 0#64) ∧
  (∀ p : Fin 36, r (0x0F0000031000 + 8 * p.val) = 1#64 ∧ r (0x0F0000031200 + 8 * p.val) = 0#64 ∧ r (0x0F0000031400 + 8 * p.val) = 0#64 ∧
    r (0x0F0000031600 + 8 * p.val) = 0#64) ∧
  (∀ d : Fin 8, r (0x0F0000030040 + 8 * d.val) = BitVec.ofNat 64 (15 * 2 ^ (4 * d.val))) ∧
  (∀ e : Fin 128, r (0x0F0000031800 + 8 * e.val) = 0#64) ∧
  r 0x0F0000050008 = BitVec.ofNat 64 (300 + 400 * 2 ^ 10 + 150 * 2 ^ 20 + 30 * 2 ^ 30) ∧
  (r 0x0F0000070000).extractLsb' 16 16 = 0xFFFF#16 ∧ (r 0x0F0000070000).extractLsb' 48 2 = 0#2 ∧
  (r 0x0F0000070008).extractLsb' 0 21 = 40#21 ∧ (r 0x0F0000070008).extractLsb' 32 32 = 0#32 ∧
  r 0x0F0000070010 = BitVec.ofNat 64 (10 * 2 ^ 8) ∧
  (r 0x0F0000080018).extractLsb' 25 1 = 1#1

/-- Every command completes: the spec names no command that stops the module's model (log 1, log 5). -/
def Obligations.EveryCommandAnswers : Prop :=
  ∀ (i : Instr) (s : State), ∃ t, exec i s = .next t ∧ t.pending = s.pending ∧ s.out <+: t.out

/-- The invariant `State.Ok` is kept by every step (14 R381, R384, 16 R428 to R442, 17 R451 to R461). -/
def Obligations.InvariantKeptByEveryStep : Prop :=
  ∀ s : State, s.Ok → SafeStep s

/-- Any number of steps: the queue is taken from the front, one command a step (log 1). -/
def Obligations.WaitingCommandsAreAllTaken : Prop :=
  ∀ (s : State) (k : Nat), s.Ok → ∃ t, Sys2Proof.core.run k s = .next t ∧ t.pending = s.pending.drop k ∧ t.Ok ∧ s.out <+: t.out
end

