-- ==== Sys2Proof/Laws/State.lean ====
section
/-! SUPPORT. What each update of the state, of a core and of a context does to each field: one lemma each, true by unfolding. -/

set_option Elab.async false

namespace Sys2Proof.Machine

open Sys2Proof

/-! ## State.setCore -/

@[simp] theorem State.setCore_pending (s : State) (c : Nat) (k : Core) : (s.setCore c k).pending = s.pending := rfl
@[simp] theorem State.setCore_now (s : State) (c : Nat) (k : Core) : (s.setCore c k).now = s.now := rfl
@[simp] theorem State.setCore_free (s : State) (c : Nat) (k : Core) : (s.setCore c k).free = s.free := rfl
@[simp] theorem State.setCore_mem (s : State) (c : Nat) (k : Core) : (s.setCore c k).mem = s.mem := rfl
@[simp] theorem State.setCore_ecc (s : State) (c : Nat) (k : Core) : (s.setCore c k).ecc = s.ecc := rfl
@[simp] theorem State.setCore_cores (s : State) (c : Nat) (k : Core) : (s.setCore c k).cores = SMap.set {} s.cores c k := rfl
@[simp] theorem State.setCore_quarters (s : State) (c : Nat) (k : Core) : (s.setCore c k).quarters = s.quarters := rfl
@[simp] theorem State.setCore_ctxs (s : State) (c : Nat) (k : Core) : (s.setCore c k).ctxs = s.ctxs := rfl
@[simp] theorem State.setCore_allocs (s : State) (c : Nat) (k : Core) : (s.setCore c k).allocs = s.allocs := rfl
@[simp] theorem State.setCore_nextHandle (s : State) (c : Nat) (k : Core) : (s.setCore c k).nextHandle = s.nextHandle := rfl
@[simp] theorem State.setCore_fills (s : State) (c : Nat) (k : Core) : (s.setCore c k).fills = s.fills := rfl
@[simp] theorem State.setCore_lastA (s : State) (c : Nat) (k : Core) : (s.setCore c k).lastA = s.lastA := rfl
@[simp] theorem State.setCore_lastB (s : State) (c : Nat) (k : Core) : (s.setCore c k).lastB = s.lastB := rfl
@[simp] theorem State.setCore_lastPtr (s : State) (c : Nat) (k : Core) : (s.setCore c k).lastPtr = s.lastPtr := rfl
@[simp] theorem State.setCore_loads (s : State) (c : Nat) (k : Core) : (s.setCore c k).loads = s.loads := rfl
@[simp] theorem State.setCore_cache (s : State) (c : Nat) (k : Core) : (s.setCore c k).cache = s.cache := rfl
@[simp] theorem State.setCore_ports (s : State) (c : Nat) (k : Core) : (s.setCore c k).ports = s.ports := rfl
@[simp] theorem State.setCore_dirs (s : State) (c : Nat) (k : Core) : (s.setCore c k).dirs = s.dirs := rfl
@[simp] theorem State.setCore_link (s : State) (c : Nat) (k : Core) : (s.setCore c k).link = s.link := rfl
@[simp] theorem State.setCore_colls (s : State) (c : Nat) (k : Core) : (s.setCore c k).colls = s.colls := rfl
@[simp] theorem State.setCore_nextColl (s : State) (c : Nat) (k : Core) : (s.setCore c k).nextColl = s.nextColl := rfl
@[simp] theorem State.setCore_host (s : State) (c : Nat) (k : Core) : (s.setCore c k).host = s.host := rfl
@[simp] theorem State.setCore_flt (s : State) (c : Nat) (k : Core) : (s.setCore c k).flt = s.flt := rfl
@[simp] theorem State.setCore_hlt (s : State) (c : Nat) (k : Core) : (s.setCore c k).hlt = s.hlt := rfl
@[simp] theorem State.setCore_pwr (s : State) (c : Nat) (k : Core) : (s.setCore c k).pwr = s.pwr := rfl
@[simp] theorem State.setCore_rst (s : State) (c : Nat) (k : Core) : (s.setCore c k).rst = s.rst := rfl
@[simp] theorem State.setCore_shk (s : State) (c : Nat) (k : Core) : (s.setCore c k).shk = s.shk := rfl
@[simp] theorem State.setCore_joining (s : State) (c : Nat) (k : Core) : (s.setCore c k).joining = s.joining := rfl
@[simp] theorem State.setCore_out (s : State) (c : Nat) (k : Core) : (s.setCore c k).out = s.out := rfl

/-! ## State.modCore -/

@[simp] theorem State.modCore_pending (s : State) (c : Nat) (f : Core → Core) : (s.modCore c f).pending = s.pending := rfl
@[simp] theorem State.modCore_now (s : State) (c : Nat) (f : Core → Core) : (s.modCore c f).now = s.now := rfl
@[simp] theorem State.modCore_free (s : State) (c : Nat) (f : Core → Core) : (s.modCore c f).free = s.free := rfl
@[simp] theorem State.modCore_mem (s : State) (c : Nat) (f : Core → Core) : (s.modCore c f).mem = s.mem := rfl
@[simp] theorem State.modCore_ecc (s : State) (c : Nat) (f : Core → Core) : (s.modCore c f).ecc = s.ecc := rfl
@[simp] theorem State.modCore_quarters (s : State) (c : Nat) (f : Core → Core) : (s.modCore c f).quarters = s.quarters := rfl
@[simp] theorem State.modCore_ctxs (s : State) (c : Nat) (f : Core → Core) : (s.modCore c f).ctxs = s.ctxs := rfl
@[simp] theorem State.modCore_allocs (s : State) (c : Nat) (f : Core → Core) : (s.modCore c f).allocs = s.allocs := rfl
@[simp] theorem State.modCore_nextHandle (s : State) (c : Nat) (f : Core → Core) : (s.modCore c f).nextHandle = s.nextHandle := rfl
@[simp] theorem State.modCore_fills (s : State) (c : Nat) (f : Core → Core) : (s.modCore c f).fills = s.fills := rfl
@[simp] theorem State.modCore_lastA (s : State) (c : Nat) (f : Core → Core) : (s.modCore c f).lastA = s.lastA := rfl
@[simp] theorem State.modCore_lastB (s : State) (c : Nat) (f : Core → Core) : (s.modCore c f).lastB = s.lastB := rfl
@[simp] theorem State.modCore_lastPtr (s : State) (c : Nat) (f : Core → Core) : (s.modCore c f).lastPtr = s.lastPtr := rfl
@[simp] theorem State.modCore_loads (s : State) (c : Nat) (f : Core → Core) : (s.modCore c f).loads = s.loads := rfl
@[simp] theorem State.modCore_cache (s : State) (c : Nat) (f : Core → Core) : (s.modCore c f).cache = s.cache := rfl
@[simp] theorem State.modCore_ports (s : State) (c : Nat) (f : Core → Core) : (s.modCore c f).ports = s.ports := rfl
@[simp] theorem State.modCore_dirs (s : State) (c : Nat) (f : Core → Core) : (s.modCore c f).dirs = s.dirs := rfl
@[simp] theorem State.modCore_link (s : State) (c : Nat) (f : Core → Core) : (s.modCore c f).link = s.link := rfl
@[simp] theorem State.modCore_colls (s : State) (c : Nat) (f : Core → Core) : (s.modCore c f).colls = s.colls := rfl
@[simp] theorem State.modCore_nextColl (s : State) (c : Nat) (f : Core → Core) : (s.modCore c f).nextColl = s.nextColl := rfl
@[simp] theorem State.modCore_host (s : State) (c : Nat) (f : Core → Core) : (s.modCore c f).host = s.host := rfl
@[simp] theorem State.modCore_flt (s : State) (c : Nat) (f : Core → Core) : (s.modCore c f).flt = s.flt := rfl
@[simp] theorem State.modCore_hlt (s : State) (c : Nat) (f : Core → Core) : (s.modCore c f).hlt = s.hlt := rfl
@[simp] theorem State.modCore_pwr (s : State) (c : Nat) (f : Core → Core) : (s.modCore c f).pwr = s.pwr := rfl
@[simp] theorem State.modCore_rst (s : State) (c : Nat) (f : Core → Core) : (s.modCore c f).rst = s.rst := rfl
@[simp] theorem State.modCore_shk (s : State) (c : Nat) (f : Core → Core) : (s.modCore c f).shk = s.shk := rfl
@[simp] theorem State.modCore_joining (s : State) (c : Nat) (f : Core → Core) : (s.modCore c f).joining = s.joining := rfl
@[simp] theorem State.modCore_out (s : State) (c : Nat) (f : Core → Core) : (s.modCore c f).out = s.out := rfl

/-! ## State.setCtx -/

@[simp] theorem State.setCtx_pending (s : State) (n : Nat) (k : Ctx) : (s.setCtx n k).pending = s.pending := rfl
@[simp] theorem State.setCtx_now (s : State) (n : Nat) (k : Ctx) : (s.setCtx n k).now = s.now := rfl
@[simp] theorem State.setCtx_free (s : State) (n : Nat) (k : Ctx) : (s.setCtx n k).free = s.free := rfl
@[simp] theorem State.setCtx_mem (s : State) (n : Nat) (k : Ctx) : (s.setCtx n k).mem = s.mem := rfl
@[simp] theorem State.setCtx_ecc (s : State) (n : Nat) (k : Ctx) : (s.setCtx n k).ecc = s.ecc := rfl
@[simp] theorem State.setCtx_cores (s : State) (n : Nat) (k : Ctx) : (s.setCtx n k).cores = s.cores := rfl
@[simp] theorem State.setCtx_quarters (s : State) (n : Nat) (k : Ctx) : (s.setCtx n k).quarters = s.quarters := rfl
@[simp] theorem State.setCtx_ctxs (s : State) (n : Nat) (k : Ctx) : (s.setCtx n k).ctxs = SMap.set {} s.ctxs n k := rfl
@[simp] theorem State.setCtx_allocs (s : State) (n : Nat) (k : Ctx) : (s.setCtx n k).allocs = s.allocs := rfl
@[simp] theorem State.setCtx_nextHandle (s : State) (n : Nat) (k : Ctx) : (s.setCtx n k).nextHandle = s.nextHandle := rfl
@[simp] theorem State.setCtx_fills (s : State) (n : Nat) (k : Ctx) : (s.setCtx n k).fills = s.fills := rfl
@[simp] theorem State.setCtx_lastA (s : State) (n : Nat) (k : Ctx) : (s.setCtx n k).lastA = s.lastA := rfl
@[simp] theorem State.setCtx_lastB (s : State) (n : Nat) (k : Ctx) : (s.setCtx n k).lastB = s.lastB := rfl
@[simp] theorem State.setCtx_lastPtr (s : State) (n : Nat) (k : Ctx) : (s.setCtx n k).lastPtr = s.lastPtr := rfl
@[simp] theorem State.setCtx_loads (s : State) (n : Nat) (k : Ctx) : (s.setCtx n k).loads = s.loads := rfl
@[simp] theorem State.setCtx_cache (s : State) (n : Nat) (k : Ctx) : (s.setCtx n k).cache = s.cache := rfl
@[simp] theorem State.setCtx_ports (s : State) (n : Nat) (k : Ctx) : (s.setCtx n k).ports = s.ports := rfl
@[simp] theorem State.setCtx_dirs (s : State) (n : Nat) (k : Ctx) : (s.setCtx n k).dirs = s.dirs := rfl
@[simp] theorem State.setCtx_link (s : State) (n : Nat) (k : Ctx) : (s.setCtx n k).link = s.link := rfl
@[simp] theorem State.setCtx_colls (s : State) (n : Nat) (k : Ctx) : (s.setCtx n k).colls = s.colls := rfl
@[simp] theorem State.setCtx_nextColl (s : State) (n : Nat) (k : Ctx) : (s.setCtx n k).nextColl = s.nextColl := rfl
@[simp] theorem State.setCtx_host (s : State) (n : Nat) (k : Ctx) : (s.setCtx n k).host = s.host := rfl
@[simp] theorem State.setCtx_flt (s : State) (n : Nat) (k : Ctx) : (s.setCtx n k).flt = s.flt := rfl
@[simp] theorem State.setCtx_hlt (s : State) (n : Nat) (k : Ctx) : (s.setCtx n k).hlt = s.hlt := rfl
@[simp] theorem State.setCtx_pwr (s : State) (n : Nat) (k : Ctx) : (s.setCtx n k).pwr = s.pwr := rfl
@[simp] theorem State.setCtx_rst (s : State) (n : Nat) (k : Ctx) : (s.setCtx n k).rst = s.rst := rfl
@[simp] theorem State.setCtx_shk (s : State) (n : Nat) (k : Ctx) : (s.setCtx n k).shk = s.shk := rfl
@[simp] theorem State.setCtx_joining (s : State) (n : Nat) (k : Ctx) : (s.setCtx n k).joining = s.joining := rfl
@[simp] theorem State.setCtx_out (s : State) (n : Nat) (k : Ctx) : (s.setCtx n k).out = s.out := rfl

/-! ## State.modCtx -/

@[simp] theorem State.modCtx_pending (s : State) (n : Nat) (f : Ctx → Ctx) : (s.modCtx n f).pending = s.pending := rfl
@[simp] theorem State.modCtx_now (s : State) (n : Nat) (f : Ctx → Ctx) : (s.modCtx n f).now = s.now := rfl
@[simp] theorem State.modCtx_free (s : State) (n : Nat) (f : Ctx → Ctx) : (s.modCtx n f).free = s.free := rfl
@[simp] theorem State.modCtx_mem (s : State) (n : Nat) (f : Ctx → Ctx) : (s.modCtx n f).mem = s.mem := rfl
@[simp] theorem State.modCtx_ecc (s : State) (n : Nat) (f : Ctx → Ctx) : (s.modCtx n f).ecc = s.ecc := rfl
@[simp] theorem State.modCtx_cores (s : State) (n : Nat) (f : Ctx → Ctx) : (s.modCtx n f).cores = s.cores := rfl
@[simp] theorem State.modCtx_quarters (s : State) (n : Nat) (f : Ctx → Ctx) : (s.modCtx n f).quarters = s.quarters := rfl
@[simp] theorem State.modCtx_allocs (s : State) (n : Nat) (f : Ctx → Ctx) : (s.modCtx n f).allocs = s.allocs := rfl
@[simp] theorem State.modCtx_nextHandle (s : State) (n : Nat) (f : Ctx → Ctx) : (s.modCtx n f).nextHandle = s.nextHandle := rfl
@[simp] theorem State.modCtx_fills (s : State) (n : Nat) (f : Ctx → Ctx) : (s.modCtx n f).fills = s.fills := rfl
@[simp] theorem State.modCtx_lastA (s : State) (n : Nat) (f : Ctx → Ctx) : (s.modCtx n f).lastA = s.lastA := rfl
@[simp] theorem State.modCtx_lastB (s : State) (n : Nat) (f : Ctx → Ctx) : (s.modCtx n f).lastB = s.lastB := rfl
@[simp] theorem State.modCtx_lastPtr (s : State) (n : Nat) (f : Ctx → Ctx) : (s.modCtx n f).lastPtr = s.lastPtr := rfl
@[simp] theorem State.modCtx_loads (s : State) (n : Nat) (f : Ctx → Ctx) : (s.modCtx n f).loads = s.loads := rfl
@[simp] theorem State.modCtx_cache (s : State) (n : Nat) (f : Ctx → Ctx) : (s.modCtx n f).cache = s.cache := rfl
@[simp] theorem State.modCtx_ports (s : State) (n : Nat) (f : Ctx → Ctx) : (s.modCtx n f).ports = s.ports := rfl
@[simp] theorem State.modCtx_dirs (s : State) (n : Nat) (f : Ctx → Ctx) : (s.modCtx n f).dirs = s.dirs := rfl
@[simp] theorem State.modCtx_link (s : State) (n : Nat) (f : Ctx → Ctx) : (s.modCtx n f).link = s.link := rfl
@[simp] theorem State.modCtx_colls (s : State) (n : Nat) (f : Ctx → Ctx) : (s.modCtx n f).colls = s.colls := rfl
@[simp] theorem State.modCtx_nextColl (s : State) (n : Nat) (f : Ctx → Ctx) : (s.modCtx n f).nextColl = s.nextColl := rfl
@[simp] theorem State.modCtx_host (s : State) (n : Nat) (f : Ctx → Ctx) : (s.modCtx n f).host = s.host := rfl
@[simp] theorem State.modCtx_flt (s : State) (n : Nat) (f : Ctx → Ctx) : (s.modCtx n f).flt = s.flt := rfl
@[simp] theorem State.modCtx_hlt (s : State) (n : Nat) (f : Ctx → Ctx) : (s.modCtx n f).hlt = s.hlt := rfl
@[simp] theorem State.modCtx_pwr (s : State) (n : Nat) (f : Ctx → Ctx) : (s.modCtx n f).pwr = s.pwr := rfl
@[simp] theorem State.modCtx_rst (s : State) (n : Nat) (f : Ctx → Ctx) : (s.modCtx n f).rst = s.rst := rfl
@[simp] theorem State.modCtx_shk (s : State) (n : Nat) (f : Ctx → Ctx) : (s.modCtx n f).shk = s.shk := rfl
@[simp] theorem State.modCtx_joining (s : State) (n : Nat) (f : Ctx → Ctx) : (s.modCtx n f).joining = s.joining := rfl
@[simp] theorem State.modCtx_out (s : State) (n : Nat) (f : Ctx → Ctx) : (s.modCtx n f).out = s.out := rfl

/-! ## State.setQuarter -/

@[simp] theorem State.setQuarter_pending (s : State) (q : Nat) (k : Quarter) : (s.setQuarter q k).pending = s.pending := rfl
@[simp] theorem State.setQuarter_now (s : State) (q : Nat) (k : Quarter) : (s.setQuarter q k).now = s.now := rfl
@[simp] theorem State.setQuarter_free (s : State) (q : Nat) (k : Quarter) : (s.setQuarter q k).free = s.free := rfl
@[simp] theorem State.setQuarter_mem (s : State) (q : Nat) (k : Quarter) : (s.setQuarter q k).mem = s.mem := rfl
@[simp] theorem State.setQuarter_ecc (s : State) (q : Nat) (k : Quarter) : (s.setQuarter q k).ecc = s.ecc := rfl
@[simp] theorem State.setQuarter_cores (s : State) (q : Nat) (k : Quarter) : (s.setQuarter q k).cores = s.cores := rfl
@[simp] theorem State.setQuarter_quarters (s : State) (q : Nat) (k : Quarter) : (s.setQuarter q k).quarters = SMap.set {} s.quarters q k := rfl
@[simp] theorem State.setQuarter_ctxs (s : State) (q : Nat) (k : Quarter) : (s.setQuarter q k).ctxs = s.ctxs := rfl
@[simp] theorem State.setQuarter_allocs (s : State) (q : Nat) (k : Quarter) : (s.setQuarter q k).allocs = s.allocs := rfl
@[simp] theorem State.setQuarter_nextHandle (s : State) (q : Nat) (k : Quarter) : (s.setQuarter q k).nextHandle = s.nextHandle := rfl
@[simp] theorem State.setQuarter_fills (s : State) (q : Nat) (k : Quarter) : (s.setQuarter q k).fills = s.fills := rfl
@[simp] theorem State.setQuarter_lastA (s : State) (q : Nat) (k : Quarter) : (s.setQuarter q k).lastA = s.lastA := rfl
@[simp] theorem State.setQuarter_lastB (s : State) (q : Nat) (k : Quarter) : (s.setQuarter q k).lastB = s.lastB := rfl
@[simp] theorem State.setQuarter_lastPtr (s : State) (q : Nat) (k : Quarter) : (s.setQuarter q k).lastPtr = s.lastPtr := rfl
@[simp] theorem State.setQuarter_loads (s : State) (q : Nat) (k : Quarter) : (s.setQuarter q k).loads = s.loads := rfl
@[simp] theorem State.setQuarter_cache (s : State) (q : Nat) (k : Quarter) : (s.setQuarter q k).cache = s.cache := rfl
@[simp] theorem State.setQuarter_ports (s : State) (q : Nat) (k : Quarter) : (s.setQuarter q k).ports = s.ports := rfl
@[simp] theorem State.setQuarter_dirs (s : State) (q : Nat) (k : Quarter) : (s.setQuarter q k).dirs = s.dirs := rfl
@[simp] theorem State.setQuarter_link (s : State) (q : Nat) (k : Quarter) : (s.setQuarter q k).link = s.link := rfl
@[simp] theorem State.setQuarter_colls (s : State) (q : Nat) (k : Quarter) : (s.setQuarter q k).colls = s.colls := rfl
@[simp] theorem State.setQuarter_nextColl (s : State) (q : Nat) (k : Quarter) : (s.setQuarter q k).nextColl = s.nextColl := rfl
@[simp] theorem State.setQuarter_host (s : State) (q : Nat) (k : Quarter) : (s.setQuarter q k).host = s.host := rfl
@[simp] theorem State.setQuarter_flt (s : State) (q : Nat) (k : Quarter) : (s.setQuarter q k).flt = s.flt := rfl
@[simp] theorem State.setQuarter_hlt (s : State) (q : Nat) (k : Quarter) : (s.setQuarter q k).hlt = s.hlt := rfl
@[simp] theorem State.setQuarter_pwr (s : State) (q : Nat) (k : Quarter) : (s.setQuarter q k).pwr = s.pwr := rfl
@[simp] theorem State.setQuarter_rst (s : State) (q : Nat) (k : Quarter) : (s.setQuarter q k).rst = s.rst := rfl
@[simp] theorem State.setQuarter_shk (s : State) (q : Nat) (k : Quarter) : (s.setQuarter q k).shk = s.shk := rfl
@[simp] theorem State.setQuarter_joining (s : State) (q : Nat) (k : Quarter) : (s.setQuarter q k).joining = s.joining := rfl
@[simp] theorem State.setQuarter_out (s : State) (q : Nat) (k : Quarter) : (s.setQuarter q k).out = s.out := rfl

/-! ## State.modQuarter -/

@[simp] theorem State.modQuarter_pending (s : State) (q : Nat) (f : Quarter → Quarter) : (s.modQuarter q f).pending = s.pending := rfl
@[simp] theorem State.modQuarter_now (s : State) (q : Nat) (f : Quarter → Quarter) : (s.modQuarter q f).now = s.now := rfl
@[simp] theorem State.modQuarter_free (s : State) (q : Nat) (f : Quarter → Quarter) : (s.modQuarter q f).free = s.free := rfl
@[simp] theorem State.modQuarter_mem (s : State) (q : Nat) (f : Quarter → Quarter) : (s.modQuarter q f).mem = s.mem := rfl
@[simp] theorem State.modQuarter_ecc (s : State) (q : Nat) (f : Quarter → Quarter) : (s.modQuarter q f).ecc = s.ecc := rfl
@[simp] theorem State.modQuarter_cores (s : State) (q : Nat) (f : Quarter → Quarter) : (s.modQuarter q f).cores = s.cores := rfl
@[simp] theorem State.modQuarter_ctxs (s : State) (q : Nat) (f : Quarter → Quarter) : (s.modQuarter q f).ctxs = s.ctxs := rfl
@[simp] theorem State.modQuarter_allocs (s : State) (q : Nat) (f : Quarter → Quarter) : (s.modQuarter q f).allocs = s.allocs := rfl
@[simp] theorem State.modQuarter_nextHandle (s : State) (q : Nat) (f : Quarter → Quarter) : (s.modQuarter q f).nextHandle = s.nextHandle := rfl
@[simp] theorem State.modQuarter_fills (s : State) (q : Nat) (f : Quarter → Quarter) : (s.modQuarter q f).fills = s.fills := rfl
@[simp] theorem State.modQuarter_lastA (s : State) (q : Nat) (f : Quarter → Quarter) : (s.modQuarter q f).lastA = s.lastA := rfl
@[simp] theorem State.modQuarter_lastB (s : State) (q : Nat) (f : Quarter → Quarter) : (s.modQuarter q f).lastB = s.lastB := rfl
@[simp] theorem State.modQuarter_lastPtr (s : State) (q : Nat) (f : Quarter → Quarter) : (s.modQuarter q f).lastPtr = s.lastPtr := rfl
@[simp] theorem State.modQuarter_loads (s : State) (q : Nat) (f : Quarter → Quarter) : (s.modQuarter q f).loads = s.loads := rfl
@[simp] theorem State.modQuarter_cache (s : State) (q : Nat) (f : Quarter → Quarter) : (s.modQuarter q f).cache = s.cache := rfl
@[simp] theorem State.modQuarter_ports (s : State) (q : Nat) (f : Quarter → Quarter) : (s.modQuarter q f).ports = s.ports := rfl
@[simp] theorem State.modQuarter_dirs (s : State) (q : Nat) (f : Quarter → Quarter) : (s.modQuarter q f).dirs = s.dirs := rfl
@[simp] theorem State.modQuarter_link (s : State) (q : Nat) (f : Quarter → Quarter) : (s.modQuarter q f).link = s.link := rfl
@[simp] theorem State.modQuarter_colls (s : State) (q : Nat) (f : Quarter → Quarter) : (s.modQuarter q f).colls = s.colls := rfl
@[simp] theorem State.modQuarter_nextColl (s : State) (q : Nat) (f : Quarter → Quarter) : (s.modQuarter q f).nextColl = s.nextColl := rfl
@[simp] theorem State.modQuarter_host (s : State) (q : Nat) (f : Quarter → Quarter) : (s.modQuarter q f).host = s.host := rfl
@[simp] theorem State.modQuarter_flt (s : State) (q : Nat) (f : Quarter → Quarter) : (s.modQuarter q f).flt = s.flt := rfl
@[simp] theorem State.modQuarter_hlt (s : State) (q : Nat) (f : Quarter → Quarter) : (s.modQuarter q f).hlt = s.hlt := rfl
@[simp] theorem State.modQuarter_pwr (s : State) (q : Nat) (f : Quarter → Quarter) : (s.modQuarter q f).pwr = s.pwr := rfl
@[simp] theorem State.modQuarter_rst (s : State) (q : Nat) (f : Quarter → Quarter) : (s.modQuarter q f).rst = s.rst := rfl
@[simp] theorem State.modQuarter_shk (s : State) (q : Nat) (f : Quarter → Quarter) : (s.modQuarter q f).shk = s.shk := rfl
@[simp] theorem State.modQuarter_joining (s : State) (q : Nat) (f : Quarter → Quarter) : (s.modQuarter q f).joining = s.joining := rfl
@[simp] theorem State.modQuarter_out (s : State) (q : Nat) (f : Quarter → Quarter) : (s.modQuarter q f).out = s.out := rfl

/-! ## State.setPort -/

@[simp] theorem State.setPort_pending (s : State) (p : Nat) (k : Port) : (s.setPort p k).pending = s.pending := rfl
@[simp] theorem State.setPort_now (s : State) (p : Nat) (k : Port) : (s.setPort p k).now = s.now := rfl
@[simp] theorem State.setPort_free (s : State) (p : Nat) (k : Port) : (s.setPort p k).free = s.free := rfl
@[simp] theorem State.setPort_mem (s : State) (p : Nat) (k : Port) : (s.setPort p k).mem = s.mem := rfl
@[simp] theorem State.setPort_ecc (s : State) (p : Nat) (k : Port) : (s.setPort p k).ecc = s.ecc := rfl
@[simp] theorem State.setPort_cores (s : State) (p : Nat) (k : Port) : (s.setPort p k).cores = s.cores := rfl
@[simp] theorem State.setPort_quarters (s : State) (p : Nat) (k : Port) : (s.setPort p k).quarters = s.quarters := rfl
@[simp] theorem State.setPort_ctxs (s : State) (p : Nat) (k : Port) : (s.setPort p k).ctxs = s.ctxs := rfl
@[simp] theorem State.setPort_allocs (s : State) (p : Nat) (k : Port) : (s.setPort p k).allocs = s.allocs := rfl
@[simp] theorem State.setPort_nextHandle (s : State) (p : Nat) (k : Port) : (s.setPort p k).nextHandle = s.nextHandle := rfl
@[simp] theorem State.setPort_fills (s : State) (p : Nat) (k : Port) : (s.setPort p k).fills = s.fills := rfl
@[simp] theorem State.setPort_lastA (s : State) (p : Nat) (k : Port) : (s.setPort p k).lastA = s.lastA := rfl
@[simp] theorem State.setPort_lastB (s : State) (p : Nat) (k : Port) : (s.setPort p k).lastB = s.lastB := rfl
@[simp] theorem State.setPort_lastPtr (s : State) (p : Nat) (k : Port) : (s.setPort p k).lastPtr = s.lastPtr := rfl
@[simp] theorem State.setPort_loads (s : State) (p : Nat) (k : Port) : (s.setPort p k).loads = s.loads := rfl
@[simp] theorem State.setPort_cache (s : State) (p : Nat) (k : Port) : (s.setPort p k).cache = s.cache := rfl
@[simp] theorem State.setPort_ports (s : State) (p : Nat) (k : Port) : (s.setPort p k).ports = SMap.set {} s.ports p k := rfl
@[simp] theorem State.setPort_dirs (s : State) (p : Nat) (k : Port) : (s.setPort p k).dirs = s.dirs := rfl
@[simp] theorem State.setPort_link (s : State) (p : Nat) (k : Port) : (s.setPort p k).link = s.link := rfl
@[simp] theorem State.setPort_colls (s : State) (p : Nat) (k : Port) : (s.setPort p k).colls = s.colls := rfl
@[simp] theorem State.setPort_nextColl (s : State) (p : Nat) (k : Port) : (s.setPort p k).nextColl = s.nextColl := rfl
@[simp] theorem State.setPort_host (s : State) (p : Nat) (k : Port) : (s.setPort p k).host = s.host := rfl
@[simp] theorem State.setPort_flt (s : State) (p : Nat) (k : Port) : (s.setPort p k).flt = s.flt := rfl
@[simp] theorem State.setPort_hlt (s : State) (p : Nat) (k : Port) : (s.setPort p k).hlt = s.hlt := rfl
@[simp] theorem State.setPort_pwr (s : State) (p : Nat) (k : Port) : (s.setPort p k).pwr = s.pwr := rfl
@[simp] theorem State.setPort_rst (s : State) (p : Nat) (k : Port) : (s.setPort p k).rst = s.rst := rfl
@[simp] theorem State.setPort_shk (s : State) (p : Nat) (k : Port) : (s.setPort p k).shk = s.shk := rfl
@[simp] theorem State.setPort_joining (s : State) (p : Nat) (k : Port) : (s.setPort p k).joining = s.joining := rfl
@[simp] theorem State.setPort_out (s : State) (p : Nat) (k : Port) : (s.setPort p k).out = s.out := rfl

/-! ## State.modPort -/

@[simp] theorem State.modPort_pending (s : State) (p : Nat) (f : Port → Port) : (s.modPort p f).pending = s.pending := rfl
@[simp] theorem State.modPort_now (s : State) (p : Nat) (f : Port → Port) : (s.modPort p f).now = s.now := rfl
@[simp] theorem State.modPort_free (s : State) (p : Nat) (f : Port → Port) : (s.modPort p f).free = s.free := rfl
@[simp] theorem State.modPort_mem (s : State) (p : Nat) (f : Port → Port) : (s.modPort p f).mem = s.mem := rfl
@[simp] theorem State.modPort_ecc (s : State) (p : Nat) (f : Port → Port) : (s.modPort p f).ecc = s.ecc := rfl
@[simp] theorem State.modPort_cores (s : State) (p : Nat) (f : Port → Port) : (s.modPort p f).cores = s.cores := rfl
@[simp] theorem State.modPort_quarters (s : State) (p : Nat) (f : Port → Port) : (s.modPort p f).quarters = s.quarters := rfl
@[simp] theorem State.modPort_ctxs (s : State) (p : Nat) (f : Port → Port) : (s.modPort p f).ctxs = s.ctxs := rfl
@[simp] theorem State.modPort_allocs (s : State) (p : Nat) (f : Port → Port) : (s.modPort p f).allocs = s.allocs := rfl
@[simp] theorem State.modPort_nextHandle (s : State) (p : Nat) (f : Port → Port) : (s.modPort p f).nextHandle = s.nextHandle := rfl
@[simp] theorem State.modPort_fills (s : State) (p : Nat) (f : Port → Port) : (s.modPort p f).fills = s.fills := rfl
@[simp] theorem State.modPort_lastA (s : State) (p : Nat) (f : Port → Port) : (s.modPort p f).lastA = s.lastA := rfl
@[simp] theorem State.modPort_lastB (s : State) (p : Nat) (f : Port → Port) : (s.modPort p f).lastB = s.lastB := rfl
@[simp] theorem State.modPort_lastPtr (s : State) (p : Nat) (f : Port → Port) : (s.modPort p f).lastPtr = s.lastPtr := rfl
@[simp] theorem State.modPort_loads (s : State) (p : Nat) (f : Port → Port) : (s.modPort p f).loads = s.loads := rfl
@[simp] theorem State.modPort_cache (s : State) (p : Nat) (f : Port → Port) : (s.modPort p f).cache = s.cache := rfl
@[simp] theorem State.modPort_dirs (s : State) (p : Nat) (f : Port → Port) : (s.modPort p f).dirs = s.dirs := rfl
@[simp] theorem State.modPort_link (s : State) (p : Nat) (f : Port → Port) : (s.modPort p f).link = s.link := rfl
@[simp] theorem State.modPort_colls (s : State) (p : Nat) (f : Port → Port) : (s.modPort p f).colls = s.colls := rfl
@[simp] theorem State.modPort_nextColl (s : State) (p : Nat) (f : Port → Port) : (s.modPort p f).nextColl = s.nextColl := rfl
@[simp] theorem State.modPort_host (s : State) (p : Nat) (f : Port → Port) : (s.modPort p f).host = s.host := rfl
@[simp] theorem State.modPort_flt (s : State) (p : Nat) (f : Port → Port) : (s.modPort p f).flt = s.flt := rfl
@[simp] theorem State.modPort_hlt (s : State) (p : Nat) (f : Port → Port) : (s.modPort p f).hlt = s.hlt := rfl
@[simp] theorem State.modPort_pwr (s : State) (p : Nat) (f : Port → Port) : (s.modPort p f).pwr = s.pwr := rfl
@[simp] theorem State.modPort_rst (s : State) (p : Nat) (f : Port → Port) : (s.modPort p f).rst = s.rst := rfl
@[simp] theorem State.modPort_shk (s : State) (p : Nat) (f : Port → Port) : (s.modPort p f).shk = s.shk := rfl
@[simp] theorem State.modPort_joining (s : State) (p : Nat) (f : Port → Port) : (s.modPort p f).joining = s.joining := rfl
@[simp] theorem State.modPort_out (s : State) (p : Nat) (f : Port → Port) : (s.modPort p f).out = s.out := rfl

/-! ## State.setDir -/

@[simp] theorem State.setDir_pending (s : State) (d : Nat) (k : Direc) : (s.setDir d k).pending = s.pending := rfl
@[simp] theorem State.setDir_now (s : State) (d : Nat) (k : Direc) : (s.setDir d k).now = s.now := rfl
@[simp] theorem State.setDir_free (s : State) (d : Nat) (k : Direc) : (s.setDir d k).free = s.free := rfl
@[simp] theorem State.setDir_mem (s : State) (d : Nat) (k : Direc) : (s.setDir d k).mem = s.mem := rfl
@[simp] theorem State.setDir_ecc (s : State) (d : Nat) (k : Direc) : (s.setDir d k).ecc = s.ecc := rfl
@[simp] theorem State.setDir_cores (s : State) (d : Nat) (k : Direc) : (s.setDir d k).cores = s.cores := rfl
@[simp] theorem State.setDir_quarters (s : State) (d : Nat) (k : Direc) : (s.setDir d k).quarters = s.quarters := rfl
@[simp] theorem State.setDir_ctxs (s : State) (d : Nat) (k : Direc) : (s.setDir d k).ctxs = s.ctxs := rfl
@[simp] theorem State.setDir_allocs (s : State) (d : Nat) (k : Direc) : (s.setDir d k).allocs = s.allocs := rfl
@[simp] theorem State.setDir_nextHandle (s : State) (d : Nat) (k : Direc) : (s.setDir d k).nextHandle = s.nextHandle := rfl
@[simp] theorem State.setDir_fills (s : State) (d : Nat) (k : Direc) : (s.setDir d k).fills = s.fills := rfl
@[simp] theorem State.setDir_lastA (s : State) (d : Nat) (k : Direc) : (s.setDir d k).lastA = s.lastA := rfl
@[simp] theorem State.setDir_lastB (s : State) (d : Nat) (k : Direc) : (s.setDir d k).lastB = s.lastB := rfl
@[simp] theorem State.setDir_lastPtr (s : State) (d : Nat) (k : Direc) : (s.setDir d k).lastPtr = s.lastPtr := rfl
@[simp] theorem State.setDir_loads (s : State) (d : Nat) (k : Direc) : (s.setDir d k).loads = s.loads := rfl
@[simp] theorem State.setDir_cache (s : State) (d : Nat) (k : Direc) : (s.setDir d k).cache = s.cache := rfl
@[simp] theorem State.setDir_ports (s : State) (d : Nat) (k : Direc) : (s.setDir d k).ports = s.ports := rfl
@[simp] theorem State.setDir_dirs (s : State) (d : Nat) (k : Direc) : (s.setDir d k).dirs = SMap.set none s.dirs d (if k = coldDir d then none else some k) := rfl
@[simp] theorem State.setDir_link (s : State) (d : Nat) (k : Direc) : (s.setDir d k).link = s.link := rfl
@[simp] theorem State.setDir_colls (s : State) (d : Nat) (k : Direc) : (s.setDir d k).colls = s.colls := rfl
@[simp] theorem State.setDir_nextColl (s : State) (d : Nat) (k : Direc) : (s.setDir d k).nextColl = s.nextColl := rfl
@[simp] theorem State.setDir_host (s : State) (d : Nat) (k : Direc) : (s.setDir d k).host = s.host := rfl
@[simp] theorem State.setDir_flt (s : State) (d : Nat) (k : Direc) : (s.setDir d k).flt = s.flt := rfl
@[simp] theorem State.setDir_hlt (s : State) (d : Nat) (k : Direc) : (s.setDir d k).hlt = s.hlt := rfl
@[simp] theorem State.setDir_pwr (s : State) (d : Nat) (k : Direc) : (s.setDir d k).pwr = s.pwr := rfl
@[simp] theorem State.setDir_rst (s : State) (d : Nat) (k : Direc) : (s.setDir d k).rst = s.rst := rfl
@[simp] theorem State.setDir_shk (s : State) (d : Nat) (k : Direc) : (s.setDir d k).shk = s.shk := rfl
@[simp] theorem State.setDir_joining (s : State) (d : Nat) (k : Direc) : (s.setDir d k).joining = s.joining := rfl
@[simp] theorem State.setDir_out (s : State) (d : Nat) (k : Direc) : (s.setDir d k).out = s.out := rfl

/-! ## State.modDir -/

@[simp] theorem State.modDir_pending (s : State) (d : Nat) (f : Direc → Direc) : (s.modDir d f).pending = s.pending := rfl
@[simp] theorem State.modDir_now (s : State) (d : Nat) (f : Direc → Direc) : (s.modDir d f).now = s.now := rfl
@[simp] theorem State.modDir_free (s : State) (d : Nat) (f : Direc → Direc) : (s.modDir d f).free = s.free := rfl
@[simp] theorem State.modDir_mem (s : State) (d : Nat) (f : Direc → Direc) : (s.modDir d f).mem = s.mem := rfl
@[simp] theorem State.modDir_ecc (s : State) (d : Nat) (f : Direc → Direc) : (s.modDir d f).ecc = s.ecc := rfl
@[simp] theorem State.modDir_cores (s : State) (d : Nat) (f : Direc → Direc) : (s.modDir d f).cores = s.cores := rfl
@[simp] theorem State.modDir_quarters (s : State) (d : Nat) (f : Direc → Direc) : (s.modDir d f).quarters = s.quarters := rfl
@[simp] theorem State.modDir_ctxs (s : State) (d : Nat) (f : Direc → Direc) : (s.modDir d f).ctxs = s.ctxs := rfl
@[simp] theorem State.modDir_allocs (s : State) (d : Nat) (f : Direc → Direc) : (s.modDir d f).allocs = s.allocs := rfl
@[simp] theorem State.modDir_nextHandle (s : State) (d : Nat) (f : Direc → Direc) : (s.modDir d f).nextHandle = s.nextHandle := rfl
@[simp] theorem State.modDir_fills (s : State) (d : Nat) (f : Direc → Direc) : (s.modDir d f).fills = s.fills := rfl
@[simp] theorem State.modDir_lastA (s : State) (d : Nat) (f : Direc → Direc) : (s.modDir d f).lastA = s.lastA := rfl
@[simp] theorem State.modDir_lastB (s : State) (d : Nat) (f : Direc → Direc) : (s.modDir d f).lastB = s.lastB := rfl
@[simp] theorem State.modDir_lastPtr (s : State) (d : Nat) (f : Direc → Direc) : (s.modDir d f).lastPtr = s.lastPtr := rfl
@[simp] theorem State.modDir_loads (s : State) (d : Nat) (f : Direc → Direc) : (s.modDir d f).loads = s.loads := rfl
@[simp] theorem State.modDir_cache (s : State) (d : Nat) (f : Direc → Direc) : (s.modDir d f).cache = s.cache := rfl
@[simp] theorem State.modDir_ports (s : State) (d : Nat) (f : Direc → Direc) : (s.modDir d f).ports = s.ports := rfl
@[simp] theorem State.modDir_link (s : State) (d : Nat) (f : Direc → Direc) : (s.modDir d f).link = s.link := rfl
@[simp] theorem State.modDir_colls (s : State) (d : Nat) (f : Direc → Direc) : (s.modDir d f).colls = s.colls := rfl
@[simp] theorem State.modDir_nextColl (s : State) (d : Nat) (f : Direc → Direc) : (s.modDir d f).nextColl = s.nextColl := rfl
@[simp] theorem State.modDir_host (s : State) (d : Nat) (f : Direc → Direc) : (s.modDir d f).host = s.host := rfl
@[simp] theorem State.modDir_flt (s : State) (d : Nat) (f : Direc → Direc) : (s.modDir d f).flt = s.flt := rfl
@[simp] theorem State.modDir_hlt (s : State) (d : Nat) (f : Direc → Direc) : (s.modDir d f).hlt = s.hlt := rfl
@[simp] theorem State.modDir_pwr (s : State) (d : Nat) (f : Direc → Direc) : (s.modDir d f).pwr = s.pwr := rfl
@[simp] theorem State.modDir_rst (s : State) (d : Nat) (f : Direc → Direc) : (s.modDir d f).rst = s.rst := rfl
@[simp] theorem State.modDir_shk (s : State) (d : Nat) (f : Direc → Direc) : (s.modDir d f).shk = s.shk := rfl
@[simp] theorem State.modDir_joining (s : State) (d : Nat) (f : Direc → Direc) : (s.modDir d f).joining = s.joining := rfl
@[simp] theorem State.modDir_out (s : State) (d : Nat) (f : Direc → Direc) : (s.modDir d f).out = s.out := rfl

/-! ## State.emit -/

@[simp] theorem State.emit_pending (s : State) (o : Out) : (s.emit o).pending = s.pending := rfl
@[simp] theorem State.emit_now (s : State) (o : Out) : (s.emit o).now = s.now := rfl
@[simp] theorem State.emit_free (s : State) (o : Out) : (s.emit o).free = s.free := rfl
@[simp] theorem State.emit_mem (s : State) (o : Out) : (s.emit o).mem = s.mem := rfl
@[simp] theorem State.emit_ecc (s : State) (o : Out) : (s.emit o).ecc = s.ecc := rfl
@[simp] theorem State.emit_cores (s : State) (o : Out) : (s.emit o).cores = s.cores := rfl
@[simp] theorem State.emit_quarters (s : State) (o : Out) : (s.emit o).quarters = s.quarters := rfl
@[simp] theorem State.emit_ctxs (s : State) (o : Out) : (s.emit o).ctxs = s.ctxs := rfl
@[simp] theorem State.emit_allocs (s : State) (o : Out) : (s.emit o).allocs = s.allocs := rfl
@[simp] theorem State.emit_nextHandle (s : State) (o : Out) : (s.emit o).nextHandle = s.nextHandle := rfl
@[simp] theorem State.emit_fills (s : State) (o : Out) : (s.emit o).fills = s.fills := rfl
@[simp] theorem State.emit_lastA (s : State) (o : Out) : (s.emit o).lastA = s.lastA := rfl
@[simp] theorem State.emit_lastB (s : State) (o : Out) : (s.emit o).lastB = s.lastB := rfl
@[simp] theorem State.emit_lastPtr (s : State) (o : Out) : (s.emit o).lastPtr = s.lastPtr := rfl
@[simp] theorem State.emit_loads (s : State) (o : Out) : (s.emit o).loads = s.loads := rfl
@[simp] theorem State.emit_cache (s : State) (o : Out) : (s.emit o).cache = s.cache := rfl
@[simp] theorem State.emit_ports (s : State) (o : Out) : (s.emit o).ports = s.ports := rfl
@[simp] theorem State.emit_dirs (s : State) (o : Out) : (s.emit o).dirs = s.dirs := rfl
@[simp] theorem State.emit_link (s : State) (o : Out) : (s.emit o).link = s.link := rfl
@[simp] theorem State.emit_colls (s : State) (o : Out) : (s.emit o).colls = s.colls := rfl
@[simp] theorem State.emit_nextColl (s : State) (o : Out) : (s.emit o).nextColl = s.nextColl := rfl
@[simp] theorem State.emit_host (s : State) (o : Out) : (s.emit o).host = s.host := rfl
@[simp] theorem State.emit_flt (s : State) (o : Out) : (s.emit o).flt = s.flt := rfl
@[simp] theorem State.emit_hlt (s : State) (o : Out) : (s.emit o).hlt = s.hlt := rfl
@[simp] theorem State.emit_pwr (s : State) (o : Out) : (s.emit o).pwr = s.pwr := rfl
@[simp] theorem State.emit_rst (s : State) (o : Out) : (s.emit o).rst = s.rst := rfl
@[simp] theorem State.emit_shk (s : State) (o : Out) : (s.emit o).shk = s.shk := rfl
@[simp] theorem State.emit_joining (s : State) (o : Out) : (s.emit o).joining = s.joining := rfl
@[simp] theorem State.emit_out (s : State) (o : Out) : (s.emit o).out = s.out ++ [o] := rfl

/-! ## State.setBytes -/

@[simp] theorem State.setBytes_pending (s : State) (a : Nat) (bs : List Byte) : (s.setBytes a bs).pending = s.pending := rfl
@[simp] theorem State.setBytes_now (s : State) (a : Nat) (bs : List Byte) : (s.setBytes a bs).now = s.now := rfl
@[simp] theorem State.setBytes_free (s : State) (a : Nat) (bs : List Byte) : (s.setBytes a bs).free = s.free := rfl
@[simp] theorem State.setBytes_mem (s : State) (a : Nat) (bs : List Byte) : (s.setBytes a bs).mem = Mem.write s.mem a bs := rfl
@[simp] theorem State.setBytes_ecc (s : State) (a : Nat) (bs : List Byte) : (s.setBytes a bs).ecc = s.ecc := rfl
@[simp] theorem State.setBytes_cores (s : State) (a : Nat) (bs : List Byte) : (s.setBytes a bs).cores = s.cores := rfl
@[simp] theorem State.setBytes_quarters (s : State) (a : Nat) (bs : List Byte) : (s.setBytes a bs).quarters = s.quarters := rfl
@[simp] theorem State.setBytes_ctxs (s : State) (a : Nat) (bs : List Byte) : (s.setBytes a bs).ctxs = s.ctxs := rfl
@[simp] theorem State.setBytes_allocs (s : State) (a : Nat) (bs : List Byte) : (s.setBytes a bs).allocs = s.allocs := rfl
@[simp] theorem State.setBytes_nextHandle (s : State) (a : Nat) (bs : List Byte) : (s.setBytes a bs).nextHandle = s.nextHandle := rfl
@[simp] theorem State.setBytes_fills (s : State) (a : Nat) (bs : List Byte) : (s.setBytes a bs).fills = s.fills := rfl
@[simp] theorem State.setBytes_lastA (s : State) (a : Nat) (bs : List Byte) : (s.setBytes a bs).lastA = s.lastA := rfl
@[simp] theorem State.setBytes_lastB (s : State) (a : Nat) (bs : List Byte) : (s.setBytes a bs).lastB = s.lastB := rfl
@[simp] theorem State.setBytes_lastPtr (s : State) (a : Nat) (bs : List Byte) : (s.setBytes a bs).lastPtr = s.lastPtr := rfl
@[simp] theorem State.setBytes_loads (s : State) (a : Nat) (bs : List Byte) : (s.setBytes a bs).loads = s.loads := rfl
@[simp] theorem State.setBytes_cache (s : State) (a : Nat) (bs : List Byte) : (s.setBytes a bs).cache = s.cache := rfl
@[simp] theorem State.setBytes_ports (s : State) (a : Nat) (bs : List Byte) : (s.setBytes a bs).ports = s.ports := rfl
@[simp] theorem State.setBytes_dirs (s : State) (a : Nat) (bs : List Byte) : (s.setBytes a bs).dirs = s.dirs := rfl
@[simp] theorem State.setBytes_link (s : State) (a : Nat) (bs : List Byte) : (s.setBytes a bs).link = s.link := rfl
@[simp] theorem State.setBytes_colls (s : State) (a : Nat) (bs : List Byte) : (s.setBytes a bs).colls = s.colls := rfl
@[simp] theorem State.setBytes_nextColl (s : State) (a : Nat) (bs : List Byte) : (s.setBytes a bs).nextColl = s.nextColl := rfl
@[simp] theorem State.setBytes_host (s : State) (a : Nat) (bs : List Byte) : (s.setBytes a bs).host = s.host := rfl
@[simp] theorem State.setBytes_flt (s : State) (a : Nat) (bs : List Byte) : (s.setBytes a bs).flt = s.flt := rfl
@[simp] theorem State.setBytes_hlt (s : State) (a : Nat) (bs : List Byte) : (s.setBytes a bs).hlt = s.hlt := rfl
@[simp] theorem State.setBytes_pwr (s : State) (a : Nat) (bs : List Byte) : (s.setBytes a bs).pwr = s.pwr := rfl
@[simp] theorem State.setBytes_rst (s : State) (a : Nat) (bs : List Byte) : (s.setBytes a bs).rst = s.rst := rfl
@[simp] theorem State.setBytes_shk (s : State) (a : Nat) (bs : List Byte) : (s.setBytes a bs).shk = s.shk := rfl
@[simp] theorem State.setBytes_joining (s : State) (a : Nat) (bs : List Byte) : (s.setBytes a bs).joining = s.joining := rfl
@[simp] theorem State.setBytes_out (s : State) (a : Nat) (bs : List Byte) : (s.setBytes a bs).out = s.out := rfl

/-! ## State.zero -/

@[simp] theorem State.zero_pending (s : State) (a n : Nat) : (s.zero a n).pending = s.pending := rfl
@[simp] theorem State.zero_now (s : State) (a n : Nat) : (s.zero a n).now = s.now := rfl
@[simp] theorem State.zero_free (s : State) (a n : Nat) : (s.zero a n).free = s.free := rfl
@[simp] theorem State.zero_mem (s : State) (a n : Nat) : (s.zero a n).mem = SMap.wipe s.mem a n := rfl
@[simp] theorem State.zero_ecc (s : State) (a n : Nat) : (s.zero a n).ecc = s.ecc := rfl
@[simp] theorem State.zero_cores (s : State) (a n : Nat) : (s.zero a n).cores = s.cores := rfl
@[simp] theorem State.zero_quarters (s : State) (a n : Nat) : (s.zero a n).quarters = s.quarters := rfl
@[simp] theorem State.zero_ctxs (s : State) (a n : Nat) : (s.zero a n).ctxs = s.ctxs := rfl
@[simp] theorem State.zero_allocs (s : State) (a n : Nat) : (s.zero a n).allocs = s.allocs := rfl
@[simp] theorem State.zero_nextHandle (s : State) (a n : Nat) : (s.zero a n).nextHandle = s.nextHandle := rfl
@[simp] theorem State.zero_fills (s : State) (a n : Nat) : (s.zero a n).fills = s.fills := rfl
@[simp] theorem State.zero_lastA (s : State) (a n : Nat) : (s.zero a n).lastA = s.lastA := rfl
@[simp] theorem State.zero_lastB (s : State) (a n : Nat) : (s.zero a n).lastB = s.lastB := rfl
@[simp] theorem State.zero_lastPtr (s : State) (a n : Nat) : (s.zero a n).lastPtr = s.lastPtr := rfl
@[simp] theorem State.zero_loads (s : State) (a n : Nat) : (s.zero a n).loads = s.loads := rfl
@[simp] theorem State.zero_cache (s : State) (a n : Nat) : (s.zero a n).cache = s.cache := rfl
@[simp] theorem State.zero_ports (s : State) (a n : Nat) : (s.zero a n).ports = s.ports := rfl
@[simp] theorem State.zero_dirs (s : State) (a n : Nat) : (s.zero a n).dirs = s.dirs := rfl
@[simp] theorem State.zero_link (s : State) (a n : Nat) : (s.zero a n).link = s.link := rfl
@[simp] theorem State.zero_colls (s : State) (a n : Nat) : (s.zero a n).colls = s.colls := rfl
@[simp] theorem State.zero_nextColl (s : State) (a n : Nat) : (s.zero a n).nextColl = s.nextColl := rfl
@[simp] theorem State.zero_host (s : State) (a n : Nat) : (s.zero a n).host = s.host := rfl
@[simp] theorem State.zero_flt (s : State) (a n : Nat) : (s.zero a n).flt = s.flt := rfl
@[simp] theorem State.zero_hlt (s : State) (a n : Nat) : (s.zero a n).hlt = s.hlt := rfl
@[simp] theorem State.zero_pwr (s : State) (a n : Nat) : (s.zero a n).pwr = s.pwr := rfl
@[simp] theorem State.zero_rst (s : State) (a n : Nat) : (s.zero a n).rst = s.rst := rfl
@[simp] theorem State.zero_shk (s : State) (a n : Nat) : (s.zero a n).shk = s.shk := rfl
@[simp] theorem State.zero_joining (s : State) (a n : Nat) : (s.zero a n).joining = s.joining := rfl
@[simp] theorem State.zero_out (s : State) (a n : Nat) : (s.zero a n).out = s.out := rfl

/-! ## State.modEcc -/

@[simp] theorem State.modEcc_pending (s : State) (f : Ecc → Ecc) : (s.modEcc f).pending = s.pending := rfl
@[simp] theorem State.modEcc_now (s : State) (f : Ecc → Ecc) : (s.modEcc f).now = s.now := rfl
@[simp] theorem State.modEcc_free (s : State) (f : Ecc → Ecc) : (s.modEcc f).free = s.free := rfl
@[simp] theorem State.modEcc_mem (s : State) (f : Ecc → Ecc) : (s.modEcc f).mem = s.mem := rfl
@[simp] theorem State.modEcc_ecc (s : State) (f : Ecc → Ecc) : (s.modEcc f).ecc = f s.ecc := rfl
@[simp] theorem State.modEcc_cores (s : State) (f : Ecc → Ecc) : (s.modEcc f).cores = s.cores := rfl
@[simp] theorem State.modEcc_quarters (s : State) (f : Ecc → Ecc) : (s.modEcc f).quarters = s.quarters := rfl
@[simp] theorem State.modEcc_ctxs (s : State) (f : Ecc → Ecc) : (s.modEcc f).ctxs = s.ctxs := rfl
@[simp] theorem State.modEcc_allocs (s : State) (f : Ecc → Ecc) : (s.modEcc f).allocs = s.allocs := rfl
@[simp] theorem State.modEcc_nextHandle (s : State) (f : Ecc → Ecc) : (s.modEcc f).nextHandle = s.nextHandle := rfl
@[simp] theorem State.modEcc_fills (s : State) (f : Ecc → Ecc) : (s.modEcc f).fills = s.fills := rfl
@[simp] theorem State.modEcc_lastA (s : State) (f : Ecc → Ecc) : (s.modEcc f).lastA = s.lastA := rfl
@[simp] theorem State.modEcc_lastB (s : State) (f : Ecc → Ecc) : (s.modEcc f).lastB = s.lastB := rfl
@[simp] theorem State.modEcc_lastPtr (s : State) (f : Ecc → Ecc) : (s.modEcc f).lastPtr = s.lastPtr := rfl
@[simp] theorem State.modEcc_loads (s : State) (f : Ecc → Ecc) : (s.modEcc f).loads = s.loads := rfl
@[simp] theorem State.modEcc_cache (s : State) (f : Ecc → Ecc) : (s.modEcc f).cache = s.cache := rfl
@[simp] theorem State.modEcc_ports (s : State) (f : Ecc → Ecc) : (s.modEcc f).ports = s.ports := rfl
@[simp] theorem State.modEcc_dirs (s : State) (f : Ecc → Ecc) : (s.modEcc f).dirs = s.dirs := rfl
@[simp] theorem State.modEcc_link (s : State) (f : Ecc → Ecc) : (s.modEcc f).link = s.link := rfl
@[simp] theorem State.modEcc_colls (s : State) (f : Ecc → Ecc) : (s.modEcc f).colls = s.colls := rfl
@[simp] theorem State.modEcc_nextColl (s : State) (f : Ecc → Ecc) : (s.modEcc f).nextColl = s.nextColl := rfl
@[simp] theorem State.modEcc_host (s : State) (f : Ecc → Ecc) : (s.modEcc f).host = s.host := rfl
@[simp] theorem State.modEcc_flt (s : State) (f : Ecc → Ecc) : (s.modEcc f).flt = s.flt := rfl
@[simp] theorem State.modEcc_hlt (s : State) (f : Ecc → Ecc) : (s.modEcc f).hlt = s.hlt := rfl
@[simp] theorem State.modEcc_pwr (s : State) (f : Ecc → Ecc) : (s.modEcc f).pwr = s.pwr := rfl
@[simp] theorem State.modEcc_rst (s : State) (f : Ecc → Ecc) : (s.modEcc f).rst = s.rst := rfl
@[simp] theorem State.modEcc_shk (s : State) (f : Ecc → Ecc) : (s.modEcc f).shk = s.shk := rfl
@[simp] theorem State.modEcc_joining (s : State) (f : Ecc → Ecc) : (s.modEcc f).joining = s.joining := rfl
@[simp] theorem State.modEcc_out (s : State) (f : Ecc → Ecc) : (s.modEcc f).out = s.out := rfl

/-! ## State.modHost -/

@[simp] theorem State.modHost_pending (s : State) (f : HostSt → HostSt) : (s.modHost f).pending = s.pending := rfl
@[simp] theorem State.modHost_now (s : State) (f : HostSt → HostSt) : (s.modHost f).now = s.now := rfl
@[simp] theorem State.modHost_free (s : State) (f : HostSt → HostSt) : (s.modHost f).free = s.free := rfl
@[simp] theorem State.modHost_mem (s : State) (f : HostSt → HostSt) : (s.modHost f).mem = s.mem := rfl
@[simp] theorem State.modHost_ecc (s : State) (f : HostSt → HostSt) : (s.modHost f).ecc = s.ecc := rfl
@[simp] theorem State.modHost_cores (s : State) (f : HostSt → HostSt) : (s.modHost f).cores = s.cores := rfl
@[simp] theorem State.modHost_quarters (s : State) (f : HostSt → HostSt) : (s.modHost f).quarters = s.quarters := rfl
@[simp] theorem State.modHost_ctxs (s : State) (f : HostSt → HostSt) : (s.modHost f).ctxs = s.ctxs := rfl
@[simp] theorem State.modHost_allocs (s : State) (f : HostSt → HostSt) : (s.modHost f).allocs = s.allocs := rfl
@[simp] theorem State.modHost_nextHandle (s : State) (f : HostSt → HostSt) : (s.modHost f).nextHandle = s.nextHandle := rfl
@[simp] theorem State.modHost_fills (s : State) (f : HostSt → HostSt) : (s.modHost f).fills = s.fills := rfl
@[simp] theorem State.modHost_lastA (s : State) (f : HostSt → HostSt) : (s.modHost f).lastA = s.lastA := rfl
@[simp] theorem State.modHost_lastB (s : State) (f : HostSt → HostSt) : (s.modHost f).lastB = s.lastB := rfl
@[simp] theorem State.modHost_lastPtr (s : State) (f : HostSt → HostSt) : (s.modHost f).lastPtr = s.lastPtr := rfl
@[simp] theorem State.modHost_loads (s : State) (f : HostSt → HostSt) : (s.modHost f).loads = s.loads := rfl
@[simp] theorem State.modHost_cache (s : State) (f : HostSt → HostSt) : (s.modHost f).cache = s.cache := rfl
@[simp] theorem State.modHost_ports (s : State) (f : HostSt → HostSt) : (s.modHost f).ports = s.ports := rfl
@[simp] theorem State.modHost_dirs (s : State) (f : HostSt → HostSt) : (s.modHost f).dirs = s.dirs := rfl
@[simp] theorem State.modHost_link (s : State) (f : HostSt → HostSt) : (s.modHost f).link = s.link := rfl
@[simp] theorem State.modHost_colls (s : State) (f : HostSt → HostSt) : (s.modHost f).colls = s.colls := rfl
@[simp] theorem State.modHost_nextColl (s : State) (f : HostSt → HostSt) : (s.modHost f).nextColl = s.nextColl := rfl
@[simp] theorem State.modHost_host (s : State) (f : HostSt → HostSt) : (s.modHost f).host = f s.host := rfl
@[simp] theorem State.modHost_flt (s : State) (f : HostSt → HostSt) : (s.modHost f).flt = s.flt := rfl
@[simp] theorem State.modHost_hlt (s : State) (f : HostSt → HostSt) : (s.modHost f).hlt = s.hlt := rfl
@[simp] theorem State.modHost_pwr (s : State) (f : HostSt → HostSt) : (s.modHost f).pwr = s.pwr := rfl
@[simp] theorem State.modHost_rst (s : State) (f : HostSt → HostSt) : (s.modHost f).rst = s.rst := rfl
@[simp] theorem State.modHost_shk (s : State) (f : HostSt → HostSt) : (s.modHost f).shk = s.shk := rfl
@[simp] theorem State.modHost_joining (s : State) (f : HostSt → HostSt) : (s.modHost f).joining = s.joining := rfl
@[simp] theorem State.modHost_out (s : State) (f : HostSt → HostSt) : (s.modHost f).out = s.out := rfl

/-! ## State.modCHost -/

@[simp] theorem State.modCHost_pending (s : State) (n : Nat) (f : CtxHost → CtxHost) : (s.modCHost n f).pending = s.pending := rfl
@[simp] theorem State.modCHost_now (s : State) (n : Nat) (f : CtxHost → CtxHost) : (s.modCHost n f).now = s.now := rfl
@[simp] theorem State.modCHost_free (s : State) (n : Nat) (f : CtxHost → CtxHost) : (s.modCHost n f).free = s.free := rfl
@[simp] theorem State.modCHost_mem (s : State) (n : Nat) (f : CtxHost → CtxHost) : (s.modCHost n f).mem = s.mem := rfl
@[simp] theorem State.modCHost_ecc (s : State) (n : Nat) (f : CtxHost → CtxHost) : (s.modCHost n f).ecc = s.ecc := rfl
@[simp] theorem State.modCHost_cores (s : State) (n : Nat) (f : CtxHost → CtxHost) : (s.modCHost n f).cores = s.cores := rfl
@[simp] theorem State.modCHost_quarters (s : State) (n : Nat) (f : CtxHost → CtxHost) : (s.modCHost n f).quarters = s.quarters := rfl
@[simp] theorem State.modCHost_allocs (s : State) (n : Nat) (f : CtxHost → CtxHost) : (s.modCHost n f).allocs = s.allocs := rfl
@[simp] theorem State.modCHost_nextHandle (s : State) (n : Nat) (f : CtxHost → CtxHost) : (s.modCHost n f).nextHandle = s.nextHandle := rfl
@[simp] theorem State.modCHost_fills (s : State) (n : Nat) (f : CtxHost → CtxHost) : (s.modCHost n f).fills = s.fills := rfl
@[simp] theorem State.modCHost_lastA (s : State) (n : Nat) (f : CtxHost → CtxHost) : (s.modCHost n f).lastA = s.lastA := rfl
@[simp] theorem State.modCHost_lastB (s : State) (n : Nat) (f : CtxHost → CtxHost) : (s.modCHost n f).lastB = s.lastB := rfl
@[simp] theorem State.modCHost_lastPtr (s : State) (n : Nat) (f : CtxHost → CtxHost) : (s.modCHost n f).lastPtr = s.lastPtr := rfl
@[simp] theorem State.modCHost_loads (s : State) (n : Nat) (f : CtxHost → CtxHost) : (s.modCHost n f).loads = s.loads := rfl
@[simp] theorem State.modCHost_cache (s : State) (n : Nat) (f : CtxHost → CtxHost) : (s.modCHost n f).cache = s.cache := rfl
@[simp] theorem State.modCHost_ports (s : State) (n : Nat) (f : CtxHost → CtxHost) : (s.modCHost n f).ports = s.ports := rfl
@[simp] theorem State.modCHost_dirs (s : State) (n : Nat) (f : CtxHost → CtxHost) : (s.modCHost n f).dirs = s.dirs := rfl
@[simp] theorem State.modCHost_link (s : State) (n : Nat) (f : CtxHost → CtxHost) : (s.modCHost n f).link = s.link := rfl
@[simp] theorem State.modCHost_colls (s : State) (n : Nat) (f : CtxHost → CtxHost) : (s.modCHost n f).colls = s.colls := rfl
@[simp] theorem State.modCHost_nextColl (s : State) (n : Nat) (f : CtxHost → CtxHost) : (s.modCHost n f).nextColl = s.nextColl := rfl
@[simp] theorem State.modCHost_host (s : State) (n : Nat) (f : CtxHost → CtxHost) : (s.modCHost n f).host = s.host := rfl
@[simp] theorem State.modCHost_flt (s : State) (n : Nat) (f : CtxHost → CtxHost) : (s.modCHost n f).flt = s.flt := rfl
@[simp] theorem State.modCHost_hlt (s : State) (n : Nat) (f : CtxHost → CtxHost) : (s.modCHost n f).hlt = s.hlt := rfl
@[simp] theorem State.modCHost_pwr (s : State) (n : Nat) (f : CtxHost → CtxHost) : (s.modCHost n f).pwr = s.pwr := rfl
@[simp] theorem State.modCHost_rst (s : State) (n : Nat) (f : CtxHost → CtxHost) : (s.modCHost n f).rst = s.rst := rfl
@[simp] theorem State.modCHost_shk (s : State) (n : Nat) (f : CtxHost → CtxHost) : (s.modCHost n f).shk = s.shk := rfl
@[simp] theorem State.modCHost_joining (s : State) (n : Nat) (f : CtxHost → CtxHost) : (s.modCHost n f).joining = s.joining := rfl
@[simp] theorem State.modCHost_out (s : State) (n : Nat) (f : CtxHost → CtxHost) : (s.modCHost n f).out = s.out := rfl

/-! ## State.draw -/

@[simp] theorem State.draw_fst (s : State) : s.draw.1 = s.free := rfl
@[simp] theorem State.draw_pending (s : State) : s.draw.2.pending = s.pending := rfl
@[simp] theorem State.draw_now (s : State) : s.draw.2.now = s.now := rfl
@[simp] theorem State.draw_free (s : State) : s.draw.2.free = s.free + 1 := rfl
@[simp] theorem State.draw_mem (s : State) : s.draw.2.mem = s.mem := rfl
@[simp] theorem State.draw_ecc (s : State) : s.draw.2.ecc = s.ecc := rfl
@[simp] theorem State.draw_cores (s : State) : s.draw.2.cores = s.cores := rfl
@[simp] theorem State.draw_quarters (s : State) : s.draw.2.quarters = s.quarters := rfl
@[simp] theorem State.draw_ctxs (s : State) : s.draw.2.ctxs = s.ctxs := rfl
@[simp] theorem State.draw_allocs (s : State) : s.draw.2.allocs = s.allocs := rfl
@[simp] theorem State.draw_nextHandle (s : State) : s.draw.2.nextHandle = s.nextHandle := rfl
@[simp] theorem State.draw_fills (s : State) : s.draw.2.fills = s.fills := rfl
@[simp] theorem State.draw_lastA (s : State) : s.draw.2.lastA = s.lastA := rfl
@[simp] theorem State.draw_lastB (s : State) : s.draw.2.lastB = s.lastB := rfl
@[simp] theorem State.draw_lastPtr (s : State) : s.draw.2.lastPtr = s.lastPtr := rfl
@[simp] theorem State.draw_loads (s : State) : s.draw.2.loads = s.loads := rfl
@[simp] theorem State.draw_cache (s : State) : s.draw.2.cache = s.cache := rfl
@[simp] theorem State.draw_ports (s : State) : s.draw.2.ports = s.ports := rfl
@[simp] theorem State.draw_dirs (s : State) : s.draw.2.dirs = s.dirs := rfl
@[simp] theorem State.draw_link (s : State) : s.draw.2.link = s.link := rfl
@[simp] theorem State.draw_colls (s : State) : s.draw.2.colls = s.colls := rfl
@[simp] theorem State.draw_nextColl (s : State) : s.draw.2.nextColl = s.nextColl := rfl
@[simp] theorem State.draw_host (s : State) : s.draw.2.host = s.host := rfl
@[simp] theorem State.draw_flt (s : State) : s.draw.2.flt = s.flt := rfl
@[simp] theorem State.draw_hlt (s : State) : s.draw.2.hlt = s.hlt := rfl
@[simp] theorem State.draw_pwr (s : State) : s.draw.2.pwr = s.pwr := rfl
@[simp] theorem State.draw_rst (s : State) : s.draw.2.rst = s.rst := rfl
@[simp] theorem State.draw_shk (s : State) : s.draw.2.shk = s.shk := rfl
@[simp] theorem State.draw_joining (s : State) : s.draw.2.joining = s.joining := rfl
@[simp] theorem State.draw_out (s : State) : s.draw.2.out = s.out := rfl

/-! ## Core.setA -/

@[simp] theorem Core.setA_ctx (k : Core) (i : Nat) (v : BitVec 64) : (k.setA i v).ctx = k.ctx := rfl
@[simp] theorem Core.setA_task (k : Core) (i : Nat) (v : BitVec 64) : (k.setA i v).task = k.task := rfl
@[simp] theorem Core.setA_code (k : Core) (i : Nat) (v : BitVec 64) : (k.setA i v).code = k.code := rfl
@[simp] theorem Core.setA_pc (k : Core) (i : Nat) (v : BitVec 64) : (k.setA i v).pc = k.pc := rfl
@[simp] theorem Core.setA_a (k : Core) (i : Nat) (v : BitVec 64) : (k.setA i v).a = SMap.set (0#64) k.a i v := rfl
@[simp] theorem Core.setA_t (k : Core) (i : Nat) (v : BitVec 64) : (k.setA i v).t = k.t := rfl
@[simp] theorem Core.setA_s (k : Core) (i : Nat) (v : BitVec 64) : (k.setA i v).s = k.s := rfl
@[simp] theorem Core.setA_l (k : Core) (i : Nat) (v : BitVec 64) : (k.setA i v).l = k.l := rfl
@[simp] theorem Core.setA_f (k : Core) (i : Nat) (v : BitVec 64) : (k.setA i v).f = k.f := rfl
@[simp] theorem Core.setA_vq (k : Core) (i : Nat) (v : BitVec 64) : (k.setA i v).vq = k.vq := rfl
@[simp] theorem Core.setA_mq0 (k : Core) (i : Nat) (v : BitVec 64) : (k.setA i v).mq0 = k.mq0 := rfl
@[simp] theorem Core.setA_mq1 (k : Core) (i : Nat) (v : BitVec 64) : (k.setA i v).mq1 = k.mq1 := rfl
@[simp] theorem Core.setA_dq (k : Core) (i : Nat) (v : BitVec 64) : (k.setA i v).dq = k.dq := rfl
@[simp] theorem Core.setA_seqHeld (k : Core) (i : Nat) (v : BitVec 64) : (k.setA i v).seqHeld = k.seqHeld := rfl
@[simp] theorem Core.setA_nextSeq (k : Core) (i : Nat) (v : BitVec 64) : (k.setA i v).nextSeq = k.nextSeq := rfl
@[simp] theorem Core.setA_acc0 (k : Core) (i : Nat) (v : BitVec 64) : (k.setA i v).acc0 = k.acc0 := rfl
@[simp] theorem Core.setA_acc1 (k : Core) (i : Nat) (v : BitVec 64) : (k.setA i v).acc1 = k.acc1 := rfl
@[simp] theorem Core.setA_keep0 (k : Core) (i : Nat) (v : BitVec 64) : (k.setA i v).keep0 = k.keep0 := rfl
@[simp] theorem Core.setA_keep1 (k : Core) (i : Nat) (v : BitVec 64) : (k.setA i v).keep1 = k.keep1 := rfl
@[simp] theorem Core.setA_owe0 (k : Core) (i : Nat) (v : BitVec 64) : (k.setA i v).owe0 = k.owe0 := rfl
@[simp] theorem Core.setA_owe1 (k : Core) (i : Nat) (v : BitVec 64) : (k.setA i v).owe1 = k.owe1 := rfl
@[simp] theorem Core.setA_latch0 (k : Core) (i : Nat) (v : BitVec 64) : (k.setA i v).latch0 = k.latch0 := rfl
@[simp] theorem Core.setA_latch1 (k : Core) (i : Nat) (v : BitVec 64) : (k.setA i v).latch1 = k.latch1 := rfl
@[simp] theorem Core.setA_wait0 (k : Core) (i : Nat) (v : BitVec 64) : (k.setA i v).wait0 = k.wait0 := rfl
@[simp] theorem Core.setA_wait1 (k : Core) (i : Nat) (v : BitVec 64) : (k.setA i v).wait1 = k.wait1 := rfl
@[simp] theorem Core.setA_dma (k : Core) (i : Nat) (v : BitVec 64) : (k.setA i v).dma = k.dma := rfl
@[simp] theorem Core.setA_remote (k : Core) (i : Nat) (v : BitVec 64) : (k.setA i v).remote = k.remote := rfl
@[simp] theorem Core.setA_wait (k : Core) (i : Nat) (v : BitVec 64) : (k.setA i v).wait = k.wait := rfl
@[simp] theorem Core.setA_block (k : Core) (i : Nat) (v : BitVec 64) : (k.setA i v).block = k.block := rfl
@[simp] theorem Core.setA_clocks (k : Core) (i : Nat) (v : BitVec 64) : (k.setA i v).clocks = k.clocks := rfl
@[simp] theorem Core.setA_ended (k : Core) (i : Nat) (v : BitVec 64) : (k.setA i v).ended = k.ended := rfl
@[simp] theorem Core.setA_afterBlk (k : Core) (i : Nat) (v : BitVec 64) : (k.setA i v).afterBlk = k.afterBlk := rfl
@[simp] theorem Core.setA_layer (k : Core) (i : Nat) (v : BitVec 64) : (k.setA i v).layer = k.layer := rfl
@[simp] theorem Core.setA_slots (k : Core) (i : Nat) (v : BitVec 64) : (k.setA i v).slots = k.slots := rfl
@[simp] theorem Core.setA_slotsPO (k : Core) (i : Nat) (v : BitVec 64) : (k.setA i v).slotsPO = k.slotsPO := rfl
@[simp] theorem Core.setA_shadow (k : Core) (i : Nat) (v : BitVec 64) : (k.setA i v).shadow = k.shadow := rfl
@[simp] theorem Core.setA_forms (k : Core) (i : Nat) (v : BitVec 64) : (k.setA i v).forms = k.forms := rfl
@[simp] theorem Core.setA_clockOff (k : Core) (i : Nat) (v : BitVec 64) : (k.setA i v).clockOff = k.clockOff := rfl
@[simp] theorem Core.setA_stopped (k : Core) (i : Nat) (v : BitVec 64) : (k.setA i v).stopped = k.stopped := rfl
@[simp] theorem Core.setA_halted (k : Core) (i : Nat) (v : BitVec 64) : (k.setA i v).halted = k.halted := rfl

/-! ## Core.setT -/

@[simp] theorem Core.setT_ctx (k : Core) (i : Nat) (v : BitVec 64) : (k.setT i v).ctx = k.ctx := rfl
@[simp] theorem Core.setT_task (k : Core) (i : Nat) (v : BitVec 64) : (k.setT i v).task = k.task := rfl
@[simp] theorem Core.setT_code (k : Core) (i : Nat) (v : BitVec 64) : (k.setT i v).code = k.code := rfl
@[simp] theorem Core.setT_pc (k : Core) (i : Nat) (v : BitVec 64) : (k.setT i v).pc = k.pc := rfl
@[simp] theorem Core.setT_a (k : Core) (i : Nat) (v : BitVec 64) : (k.setT i v).a = k.a := rfl
@[simp] theorem Core.setT_t (k : Core) (i : Nat) (v : BitVec 64) : (k.setT i v).t = SMap.set (0#64) k.t i v := rfl
@[simp] theorem Core.setT_s (k : Core) (i : Nat) (v : BitVec 64) : (k.setT i v).s = k.s := rfl
@[simp] theorem Core.setT_l (k : Core) (i : Nat) (v : BitVec 64) : (k.setT i v).l = k.l := rfl
@[simp] theorem Core.setT_f (k : Core) (i : Nat) (v : BitVec 64) : (k.setT i v).f = k.f := rfl
@[simp] theorem Core.setT_vq (k : Core) (i : Nat) (v : BitVec 64) : (k.setT i v).vq = k.vq := rfl
@[simp] theorem Core.setT_mq0 (k : Core) (i : Nat) (v : BitVec 64) : (k.setT i v).mq0 = k.mq0 := rfl
@[simp] theorem Core.setT_mq1 (k : Core) (i : Nat) (v : BitVec 64) : (k.setT i v).mq1 = k.mq1 := rfl
@[simp] theorem Core.setT_dq (k : Core) (i : Nat) (v : BitVec 64) : (k.setT i v).dq = k.dq := rfl
@[simp] theorem Core.setT_seqHeld (k : Core) (i : Nat) (v : BitVec 64) : (k.setT i v).seqHeld = k.seqHeld := rfl
@[simp] theorem Core.setT_nextSeq (k : Core) (i : Nat) (v : BitVec 64) : (k.setT i v).nextSeq = k.nextSeq := rfl
@[simp] theorem Core.setT_acc0 (k : Core) (i : Nat) (v : BitVec 64) : (k.setT i v).acc0 = k.acc0 := rfl
@[simp] theorem Core.setT_acc1 (k : Core) (i : Nat) (v : BitVec 64) : (k.setT i v).acc1 = k.acc1 := rfl
@[simp] theorem Core.setT_keep0 (k : Core) (i : Nat) (v : BitVec 64) : (k.setT i v).keep0 = k.keep0 := rfl
@[simp] theorem Core.setT_keep1 (k : Core) (i : Nat) (v : BitVec 64) : (k.setT i v).keep1 = k.keep1 := rfl
@[simp] theorem Core.setT_owe0 (k : Core) (i : Nat) (v : BitVec 64) : (k.setT i v).owe0 = k.owe0 := rfl
@[simp] theorem Core.setT_owe1 (k : Core) (i : Nat) (v : BitVec 64) : (k.setT i v).owe1 = k.owe1 := rfl
@[simp] theorem Core.setT_latch0 (k : Core) (i : Nat) (v : BitVec 64) : (k.setT i v).latch0 = k.latch0 := rfl
@[simp] theorem Core.setT_latch1 (k : Core) (i : Nat) (v : BitVec 64) : (k.setT i v).latch1 = k.latch1 := rfl
@[simp] theorem Core.setT_wait0 (k : Core) (i : Nat) (v : BitVec 64) : (k.setT i v).wait0 = k.wait0 := rfl
@[simp] theorem Core.setT_wait1 (k : Core) (i : Nat) (v : BitVec 64) : (k.setT i v).wait1 = k.wait1 := rfl
@[simp] theorem Core.setT_dma (k : Core) (i : Nat) (v : BitVec 64) : (k.setT i v).dma = k.dma := rfl
@[simp] theorem Core.setT_remote (k : Core) (i : Nat) (v : BitVec 64) : (k.setT i v).remote = k.remote := rfl
@[simp] theorem Core.setT_wait (k : Core) (i : Nat) (v : BitVec 64) : (k.setT i v).wait = k.wait := rfl
@[simp] theorem Core.setT_block (k : Core) (i : Nat) (v : BitVec 64) : (k.setT i v).block = k.block := rfl
@[simp] theorem Core.setT_clocks (k : Core) (i : Nat) (v : BitVec 64) : (k.setT i v).clocks = k.clocks := rfl
@[simp] theorem Core.setT_ended (k : Core) (i : Nat) (v : BitVec 64) : (k.setT i v).ended = k.ended := rfl
@[simp] theorem Core.setT_afterBlk (k : Core) (i : Nat) (v : BitVec 64) : (k.setT i v).afterBlk = k.afterBlk := rfl
@[simp] theorem Core.setT_layer (k : Core) (i : Nat) (v : BitVec 64) : (k.setT i v).layer = k.layer := rfl
@[simp] theorem Core.setT_slots (k : Core) (i : Nat) (v : BitVec 64) : (k.setT i v).slots = k.slots := rfl
@[simp] theorem Core.setT_slotsPO (k : Core) (i : Nat) (v : BitVec 64) : (k.setT i v).slotsPO = k.slotsPO := rfl
@[simp] theorem Core.setT_shadow (k : Core) (i : Nat) (v : BitVec 64) : (k.setT i v).shadow = k.shadow := rfl
@[simp] theorem Core.setT_forms (k : Core) (i : Nat) (v : BitVec 64) : (k.setT i v).forms = k.forms := rfl
@[simp] theorem Core.setT_clockOff (k : Core) (i : Nat) (v : BitVec 64) : (k.setT i v).clockOff = k.clockOff := rfl
@[simp] theorem Core.setT_stopped (k : Core) (i : Nat) (v : BitVec 64) : (k.setT i v).stopped = k.stopped := rfl
@[simp] theorem Core.setT_halted (k : Core) (i : Nat) (v : BitVec 64) : (k.setT i v).halted = k.halted := rfl

/-! ## Core.setS -/

@[simp] theorem Core.setS_ctx (k : Core) (i : Nat) (v : F32) : (k.setS i v).ctx = k.ctx := rfl
@[simp] theorem Core.setS_task (k : Core) (i : Nat) (v : F32) : (k.setS i v).task = k.task := rfl
@[simp] theorem Core.setS_code (k : Core) (i : Nat) (v : F32) : (k.setS i v).code = k.code := rfl
@[simp] theorem Core.setS_pc (k : Core) (i : Nat) (v : F32) : (k.setS i v).pc = k.pc := rfl
@[simp] theorem Core.setS_a (k : Core) (i : Nat) (v : F32) : (k.setS i v).a = k.a := rfl
@[simp] theorem Core.setS_t (k : Core) (i : Nat) (v : F32) : (k.setS i v).t = k.t := rfl
@[simp] theorem Core.setS_s (k : Core) (i : Nat) (v : F32) : (k.setS i v).s = SMap.set (0x3F800000#32) k.s i v := rfl
@[simp] theorem Core.setS_l (k : Core) (i : Nat) (v : F32) : (k.setS i v).l = k.l := rfl
@[simp] theorem Core.setS_f (k : Core) (i : Nat) (v : F32) : (k.setS i v).f = k.f := rfl
@[simp] theorem Core.setS_vq (k : Core) (i : Nat) (v : F32) : (k.setS i v).vq = k.vq := rfl
@[simp] theorem Core.setS_mq0 (k : Core) (i : Nat) (v : F32) : (k.setS i v).mq0 = k.mq0 := rfl
@[simp] theorem Core.setS_mq1 (k : Core) (i : Nat) (v : F32) : (k.setS i v).mq1 = k.mq1 := rfl
@[simp] theorem Core.setS_dq (k : Core) (i : Nat) (v : F32) : (k.setS i v).dq = k.dq := rfl
@[simp] theorem Core.setS_seqHeld (k : Core) (i : Nat) (v : F32) : (k.setS i v).seqHeld = k.seqHeld := rfl
@[simp] theorem Core.setS_nextSeq (k : Core) (i : Nat) (v : F32) : (k.setS i v).nextSeq = k.nextSeq := rfl
@[simp] theorem Core.setS_acc0 (k : Core) (i : Nat) (v : F32) : (k.setS i v).acc0 = k.acc0 := rfl
@[simp] theorem Core.setS_acc1 (k : Core) (i : Nat) (v : F32) : (k.setS i v).acc1 = k.acc1 := rfl
@[simp] theorem Core.setS_keep0 (k : Core) (i : Nat) (v : F32) : (k.setS i v).keep0 = k.keep0 := rfl
@[simp] theorem Core.setS_keep1 (k : Core) (i : Nat) (v : F32) : (k.setS i v).keep1 = k.keep1 := rfl
@[simp] theorem Core.setS_owe0 (k : Core) (i : Nat) (v : F32) : (k.setS i v).owe0 = k.owe0 := rfl
@[simp] theorem Core.setS_owe1 (k : Core) (i : Nat) (v : F32) : (k.setS i v).owe1 = k.owe1 := rfl
@[simp] theorem Core.setS_latch0 (k : Core) (i : Nat) (v : F32) : (k.setS i v).latch0 = k.latch0 := rfl
@[simp] theorem Core.setS_latch1 (k : Core) (i : Nat) (v : F32) : (k.setS i v).latch1 = k.latch1 := rfl
@[simp] theorem Core.setS_wait0 (k : Core) (i : Nat) (v : F32) : (k.setS i v).wait0 = k.wait0 := rfl
@[simp] theorem Core.setS_wait1 (k : Core) (i : Nat) (v : F32) : (k.setS i v).wait1 = k.wait1 := rfl
@[simp] theorem Core.setS_dma (k : Core) (i : Nat) (v : F32) : (k.setS i v).dma = k.dma := rfl
@[simp] theorem Core.setS_remote (k : Core) (i : Nat) (v : F32) : (k.setS i v).remote = k.remote := rfl
@[simp] theorem Core.setS_wait (k : Core) (i : Nat) (v : F32) : (k.setS i v).wait = k.wait := rfl
@[simp] theorem Core.setS_block (k : Core) (i : Nat) (v : F32) : (k.setS i v).block = k.block := rfl
@[simp] theorem Core.setS_clocks (k : Core) (i : Nat) (v : F32) : (k.setS i v).clocks = k.clocks := rfl
@[simp] theorem Core.setS_ended (k : Core) (i : Nat) (v : F32) : (k.setS i v).ended = k.ended := rfl
@[simp] theorem Core.setS_afterBlk (k : Core) (i : Nat) (v : F32) : (k.setS i v).afterBlk = k.afterBlk := rfl
@[simp] theorem Core.setS_layer (k : Core) (i : Nat) (v : F32) : (k.setS i v).layer = k.layer := rfl
@[simp] theorem Core.setS_slots (k : Core) (i : Nat) (v : F32) : (k.setS i v).slots = k.slots := rfl
@[simp] theorem Core.setS_slotsPO (k : Core) (i : Nat) (v : F32) : (k.setS i v).slotsPO = k.slotsPO := rfl
@[simp] theorem Core.setS_shadow (k : Core) (i : Nat) (v : F32) : (k.setS i v).shadow = k.shadow := rfl
@[simp] theorem Core.setS_forms (k : Core) (i : Nat) (v : F32) : (k.setS i v).forms = k.forms := rfl
@[simp] theorem Core.setS_clockOff (k : Core) (i : Nat) (v : F32) : (k.setS i v).clockOff = k.clockOff := rfl
@[simp] theorem Core.setS_stopped (k : Core) (i : Nat) (v : F32) : (k.setS i v).stopped = k.stopped := rfl
@[simp] theorem Core.setS_halted (k : Core) (i : Nat) (v : F32) : (k.setS i v).halted = k.halted := rfl

/-! ## Core.setL -/

@[simp] theorem Core.setL_ctx (k : Core) (i : Nat) (v : BitVec 32) : (k.setL i v).ctx = k.ctx := rfl
@[simp] theorem Core.setL_task (k : Core) (i : Nat) (v : BitVec 32) : (k.setL i v).task = k.task := rfl
@[simp] theorem Core.setL_code (k : Core) (i : Nat) (v : BitVec 32) : (k.setL i v).code = k.code := rfl
@[simp] theorem Core.setL_pc (k : Core) (i : Nat) (v : BitVec 32) : (k.setL i v).pc = k.pc := rfl
@[simp] theorem Core.setL_a (k : Core) (i : Nat) (v : BitVec 32) : (k.setL i v).a = k.a := rfl
@[simp] theorem Core.setL_t (k : Core) (i : Nat) (v : BitVec 32) : (k.setL i v).t = k.t := rfl
@[simp] theorem Core.setL_s (k : Core) (i : Nat) (v : BitVec 32) : (k.setL i v).s = k.s := rfl
@[simp] theorem Core.setL_l (k : Core) (i : Nat) (v : BitVec 32) : (k.setL i v).l = SMap.set (0#32) k.l i v := rfl
@[simp] theorem Core.setL_f (k : Core) (i : Nat) (v : BitVec 32) : (k.setL i v).f = k.f := rfl
@[simp] theorem Core.setL_vq (k : Core) (i : Nat) (v : BitVec 32) : (k.setL i v).vq = k.vq := rfl
@[simp] theorem Core.setL_mq0 (k : Core) (i : Nat) (v : BitVec 32) : (k.setL i v).mq0 = k.mq0 := rfl
@[simp] theorem Core.setL_mq1 (k : Core) (i : Nat) (v : BitVec 32) : (k.setL i v).mq1 = k.mq1 := rfl
@[simp] theorem Core.setL_dq (k : Core) (i : Nat) (v : BitVec 32) : (k.setL i v).dq = k.dq := rfl
@[simp] theorem Core.setL_seqHeld (k : Core) (i : Nat) (v : BitVec 32) : (k.setL i v).seqHeld = k.seqHeld := rfl
@[simp] theorem Core.setL_nextSeq (k : Core) (i : Nat) (v : BitVec 32) : (k.setL i v).nextSeq = k.nextSeq := rfl
@[simp] theorem Core.setL_acc0 (k : Core) (i : Nat) (v : BitVec 32) : (k.setL i v).acc0 = k.acc0 := rfl
@[simp] theorem Core.setL_acc1 (k : Core) (i : Nat) (v : BitVec 32) : (k.setL i v).acc1 = k.acc1 := rfl
@[simp] theorem Core.setL_keep0 (k : Core) (i : Nat) (v : BitVec 32) : (k.setL i v).keep0 = k.keep0 := rfl
@[simp] theorem Core.setL_keep1 (k : Core) (i : Nat) (v : BitVec 32) : (k.setL i v).keep1 = k.keep1 := rfl
@[simp] theorem Core.setL_owe0 (k : Core) (i : Nat) (v : BitVec 32) : (k.setL i v).owe0 = k.owe0 := rfl
@[simp] theorem Core.setL_owe1 (k : Core) (i : Nat) (v : BitVec 32) : (k.setL i v).owe1 = k.owe1 := rfl
@[simp] theorem Core.setL_latch0 (k : Core) (i : Nat) (v : BitVec 32) : (k.setL i v).latch0 = k.latch0 := rfl
@[simp] theorem Core.setL_latch1 (k : Core) (i : Nat) (v : BitVec 32) : (k.setL i v).latch1 = k.latch1 := rfl
@[simp] theorem Core.setL_wait0 (k : Core) (i : Nat) (v : BitVec 32) : (k.setL i v).wait0 = k.wait0 := rfl
@[simp] theorem Core.setL_wait1 (k : Core) (i : Nat) (v : BitVec 32) : (k.setL i v).wait1 = k.wait1 := rfl
@[simp] theorem Core.setL_dma (k : Core) (i : Nat) (v : BitVec 32) : (k.setL i v).dma = k.dma := rfl
@[simp] theorem Core.setL_remote (k : Core) (i : Nat) (v : BitVec 32) : (k.setL i v).remote = k.remote := rfl
@[simp] theorem Core.setL_wait (k : Core) (i : Nat) (v : BitVec 32) : (k.setL i v).wait = k.wait := rfl
@[simp] theorem Core.setL_block (k : Core) (i : Nat) (v : BitVec 32) : (k.setL i v).block = k.block := rfl
@[simp] theorem Core.setL_clocks (k : Core) (i : Nat) (v : BitVec 32) : (k.setL i v).clocks = k.clocks := rfl
@[simp] theorem Core.setL_ended (k : Core) (i : Nat) (v : BitVec 32) : (k.setL i v).ended = k.ended := rfl
@[simp] theorem Core.setL_afterBlk (k : Core) (i : Nat) (v : BitVec 32) : (k.setL i v).afterBlk = k.afterBlk := rfl
@[simp] theorem Core.setL_layer (k : Core) (i : Nat) (v : BitVec 32) : (k.setL i v).layer = k.layer := rfl
@[simp] theorem Core.setL_slots (k : Core) (i : Nat) (v : BitVec 32) : (k.setL i v).slots = k.slots := rfl
@[simp] theorem Core.setL_slotsPO (k : Core) (i : Nat) (v : BitVec 32) : (k.setL i v).slotsPO = k.slotsPO := rfl
@[simp] theorem Core.setL_shadow (k : Core) (i : Nat) (v : BitVec 32) : (k.setL i v).shadow = k.shadow := rfl
@[simp] theorem Core.setL_forms (k : Core) (i : Nat) (v : BitVec 32) : (k.setL i v).forms = k.forms := rfl
@[simp] theorem Core.setL_clockOff (k : Core) (i : Nat) (v : BitVec 32) : (k.setL i v).clockOff = k.clockOff := rfl
@[simp] theorem Core.setL_stopped (k : Core) (i : Nat) (v : BitVec 32) : (k.setL i v).stopped = k.stopped := rfl
@[simp] theorem Core.setL_halted (k : Core) (i : Nat) (v : BitVec 32) : (k.setL i v).halted = k.halted := rfl

/-! ## Core.setF -/

@[simp] theorem Core.setF_ctx (k : Core) (i : Nat) (v : Bool) : (k.setF i v).ctx = k.ctx := rfl
@[simp] theorem Core.setF_task (k : Core) (i : Nat) (v : Bool) : (k.setF i v).task = k.task := rfl
@[simp] theorem Core.setF_code (k : Core) (i : Nat) (v : Bool) : (k.setF i v).code = k.code := rfl
@[simp] theorem Core.setF_pc (k : Core) (i : Nat) (v : Bool) : (k.setF i v).pc = k.pc := rfl
@[simp] theorem Core.setF_a (k : Core) (i : Nat) (v : Bool) : (k.setF i v).a = k.a := rfl
@[simp] theorem Core.setF_t (k : Core) (i : Nat) (v : Bool) : (k.setF i v).t = k.t := rfl
@[simp] theorem Core.setF_s (k : Core) (i : Nat) (v : Bool) : (k.setF i v).s = k.s := rfl
@[simp] theorem Core.setF_l (k : Core) (i : Nat) (v : Bool) : (k.setF i v).l = k.l := rfl
@[simp] theorem Core.setF_f (k : Core) (i : Nat) (v : Bool) : (k.setF i v).f = SMap.set false k.f i v := rfl
@[simp] theorem Core.setF_vq (k : Core) (i : Nat) (v : Bool) : (k.setF i v).vq = k.vq := rfl
@[simp] theorem Core.setF_mq0 (k : Core) (i : Nat) (v : Bool) : (k.setF i v).mq0 = k.mq0 := rfl
@[simp] theorem Core.setF_mq1 (k : Core) (i : Nat) (v : Bool) : (k.setF i v).mq1 = k.mq1 := rfl
@[simp] theorem Core.setF_dq (k : Core) (i : Nat) (v : Bool) : (k.setF i v).dq = k.dq := rfl
@[simp] theorem Core.setF_seqHeld (k : Core) (i : Nat) (v : Bool) : (k.setF i v).seqHeld = k.seqHeld := rfl
@[simp] theorem Core.setF_nextSeq (k : Core) (i : Nat) (v : Bool) : (k.setF i v).nextSeq = k.nextSeq := rfl
@[simp] theorem Core.setF_acc0 (k : Core) (i : Nat) (v : Bool) : (k.setF i v).acc0 = k.acc0 := rfl
@[simp] theorem Core.setF_acc1 (k : Core) (i : Nat) (v : Bool) : (k.setF i v).acc1 = k.acc1 := rfl
@[simp] theorem Core.setF_keep0 (k : Core) (i : Nat) (v : Bool) : (k.setF i v).keep0 = k.keep0 := rfl
@[simp] theorem Core.setF_keep1 (k : Core) (i : Nat) (v : Bool) : (k.setF i v).keep1 = k.keep1 := rfl
@[simp] theorem Core.setF_owe0 (k : Core) (i : Nat) (v : Bool) : (k.setF i v).owe0 = k.owe0 := rfl
@[simp] theorem Core.setF_owe1 (k : Core) (i : Nat) (v : Bool) : (k.setF i v).owe1 = k.owe1 := rfl
@[simp] theorem Core.setF_latch0 (k : Core) (i : Nat) (v : Bool) : (k.setF i v).latch0 = k.latch0 := rfl
@[simp] theorem Core.setF_latch1 (k : Core) (i : Nat) (v : Bool) : (k.setF i v).latch1 = k.latch1 := rfl
@[simp] theorem Core.setF_wait0 (k : Core) (i : Nat) (v : Bool) : (k.setF i v).wait0 = k.wait0 := rfl
@[simp] theorem Core.setF_wait1 (k : Core) (i : Nat) (v : Bool) : (k.setF i v).wait1 = k.wait1 := rfl
@[simp] theorem Core.setF_dma (k : Core) (i : Nat) (v : Bool) : (k.setF i v).dma = k.dma := rfl
@[simp] theorem Core.setF_remote (k : Core) (i : Nat) (v : Bool) : (k.setF i v).remote = k.remote := rfl
@[simp] theorem Core.setF_wait (k : Core) (i : Nat) (v : Bool) : (k.setF i v).wait = k.wait := rfl
@[simp] theorem Core.setF_block (k : Core) (i : Nat) (v : Bool) : (k.setF i v).block = k.block := rfl
@[simp] theorem Core.setF_clocks (k : Core) (i : Nat) (v : Bool) : (k.setF i v).clocks = k.clocks := rfl
@[simp] theorem Core.setF_ended (k : Core) (i : Nat) (v : Bool) : (k.setF i v).ended = k.ended := rfl
@[simp] theorem Core.setF_afterBlk (k : Core) (i : Nat) (v : Bool) : (k.setF i v).afterBlk = k.afterBlk := rfl
@[simp] theorem Core.setF_layer (k : Core) (i : Nat) (v : Bool) : (k.setF i v).layer = k.layer := rfl
@[simp] theorem Core.setF_slots (k : Core) (i : Nat) (v : Bool) : (k.setF i v).slots = k.slots := rfl
@[simp] theorem Core.setF_slotsPO (k : Core) (i : Nat) (v : Bool) : (k.setF i v).slotsPO = k.slotsPO := rfl
@[simp] theorem Core.setF_shadow (k : Core) (i : Nat) (v : Bool) : (k.setF i v).shadow = k.shadow := rfl
@[simp] theorem Core.setF_forms (k : Core) (i : Nat) (v : Bool) : (k.setF i v).forms = k.forms := rfl
@[simp] theorem Core.setF_clockOff (k : Core) (i : Nat) (v : Bool) : (k.setF i v).clockOff = k.clockOff := rfl
@[simp] theorem Core.setF_stopped (k : Core) (i : Nat) (v : Bool) : (k.setF i v).stopped = k.stopped := rfl
@[simp] theorem Core.setF_halted (k : Core) (i : Nat) (v : Bool) : (k.setF i v).halted = k.halted := rfl

/-! ## Core.setSlot -/

@[simp] theorem Core.setSlot_ctx (k : Core) (i : Nat) (v : Option Slot) : (k.setSlot i v).ctx = k.ctx := rfl
@[simp] theorem Core.setSlot_task (k : Core) (i : Nat) (v : Option Slot) : (k.setSlot i v).task = k.task := rfl
@[simp] theorem Core.setSlot_code (k : Core) (i : Nat) (v : Option Slot) : (k.setSlot i v).code = k.code := rfl
@[simp] theorem Core.setSlot_pc (k : Core) (i : Nat) (v : Option Slot) : (k.setSlot i v).pc = k.pc := rfl
@[simp] theorem Core.setSlot_a (k : Core) (i : Nat) (v : Option Slot) : (k.setSlot i v).a = k.a := rfl
@[simp] theorem Core.setSlot_t (k : Core) (i : Nat) (v : Option Slot) : (k.setSlot i v).t = k.t := rfl
@[simp] theorem Core.setSlot_s (k : Core) (i : Nat) (v : Option Slot) : (k.setSlot i v).s = k.s := rfl
@[simp] theorem Core.setSlot_l (k : Core) (i : Nat) (v : Option Slot) : (k.setSlot i v).l = k.l := rfl
@[simp] theorem Core.setSlot_f (k : Core) (i : Nat) (v : Option Slot) : (k.setSlot i v).f = k.f := rfl
@[simp] theorem Core.setSlot_vq (k : Core) (i : Nat) (v : Option Slot) : (k.setSlot i v).vq = k.vq := rfl
@[simp] theorem Core.setSlot_mq0 (k : Core) (i : Nat) (v : Option Slot) : (k.setSlot i v).mq0 = k.mq0 := rfl
@[simp] theorem Core.setSlot_mq1 (k : Core) (i : Nat) (v : Option Slot) : (k.setSlot i v).mq1 = k.mq1 := rfl
@[simp] theorem Core.setSlot_dq (k : Core) (i : Nat) (v : Option Slot) : (k.setSlot i v).dq = k.dq := rfl
@[simp] theorem Core.setSlot_seqHeld (k : Core) (i : Nat) (v : Option Slot) : (k.setSlot i v).seqHeld = k.seqHeld := rfl
@[simp] theorem Core.setSlot_nextSeq (k : Core) (i : Nat) (v : Option Slot) : (k.setSlot i v).nextSeq = k.nextSeq := rfl
@[simp] theorem Core.setSlot_acc0 (k : Core) (i : Nat) (v : Option Slot) : (k.setSlot i v).acc0 = k.acc0 := rfl
@[simp] theorem Core.setSlot_acc1 (k : Core) (i : Nat) (v : Option Slot) : (k.setSlot i v).acc1 = k.acc1 := rfl
@[simp] theorem Core.setSlot_keep0 (k : Core) (i : Nat) (v : Option Slot) : (k.setSlot i v).keep0 = k.keep0 := rfl
@[simp] theorem Core.setSlot_keep1 (k : Core) (i : Nat) (v : Option Slot) : (k.setSlot i v).keep1 = k.keep1 := rfl
@[simp] theorem Core.setSlot_owe0 (k : Core) (i : Nat) (v : Option Slot) : (k.setSlot i v).owe0 = k.owe0 := rfl
@[simp] theorem Core.setSlot_owe1 (k : Core) (i : Nat) (v : Option Slot) : (k.setSlot i v).owe1 = k.owe1 := rfl
@[simp] theorem Core.setSlot_latch0 (k : Core) (i : Nat) (v : Option Slot) : (k.setSlot i v).latch0 = k.latch0 := rfl
@[simp] theorem Core.setSlot_latch1 (k : Core) (i : Nat) (v : Option Slot) : (k.setSlot i v).latch1 = k.latch1 := rfl
@[simp] theorem Core.setSlot_wait0 (k : Core) (i : Nat) (v : Option Slot) : (k.setSlot i v).wait0 = k.wait0 := rfl
@[simp] theorem Core.setSlot_wait1 (k : Core) (i : Nat) (v : Option Slot) : (k.setSlot i v).wait1 = k.wait1 := rfl
@[simp] theorem Core.setSlot_dma (k : Core) (i : Nat) (v : Option Slot) : (k.setSlot i v).dma = k.dma := rfl
@[simp] theorem Core.setSlot_remote (k : Core) (i : Nat) (v : Option Slot) : (k.setSlot i v).remote = k.remote := rfl
@[simp] theorem Core.setSlot_wait (k : Core) (i : Nat) (v : Option Slot) : (k.setSlot i v).wait = k.wait := rfl
@[simp] theorem Core.setSlot_block (k : Core) (i : Nat) (v : Option Slot) : (k.setSlot i v).block = k.block := rfl
@[simp] theorem Core.setSlot_clocks (k : Core) (i : Nat) (v : Option Slot) : (k.setSlot i v).clocks = k.clocks := rfl
@[simp] theorem Core.setSlot_ended (k : Core) (i : Nat) (v : Option Slot) : (k.setSlot i v).ended = k.ended := rfl
@[simp] theorem Core.setSlot_afterBlk (k : Core) (i : Nat) (v : Option Slot) : (k.setSlot i v).afterBlk = k.afterBlk := rfl
@[simp] theorem Core.setSlot_layer (k : Core) (i : Nat) (v : Option Slot) : (k.setSlot i v).layer = k.layer := rfl
@[simp] theorem Core.setSlot_slots (k : Core) (i : Nat) (v : Option Slot) : (k.setSlot i v).slots = SMap.set none k.slots i v := rfl
@[simp] theorem Core.setSlot_slotsPO (k : Core) (i : Nat) (v : Option Slot) : (k.setSlot i v).slotsPO = k.slotsPO := rfl
@[simp] theorem Core.setSlot_shadow (k : Core) (i : Nat) (v : Option Slot) : (k.setSlot i v).shadow = k.shadow := rfl
@[simp] theorem Core.setSlot_forms (k : Core) (i : Nat) (v : Option Slot) : (k.setSlot i v).forms = k.forms := rfl
@[simp] theorem Core.setSlot_clockOff (k : Core) (i : Nat) (v : Option Slot) : (k.setSlot i v).clockOff = k.clockOff := rfl
@[simp] theorem Core.setSlot_stopped (k : Core) (i : Nat) (v : Option Slot) : (k.setSlot i v).stopped = k.stopped := rfl
@[simp] theorem Core.setSlot_halted (k : Core) (i : Nat) (v : Option Slot) : (k.setSlot i v).halted = k.halted := rfl

/-! ## Core.setSlotPO -/

@[simp] theorem Core.setSlotPO_ctx (k : Core) (i : Nat) (v : Option (BitVec 32)) : (k.setSlotPO i v).ctx = k.ctx := rfl
@[simp] theorem Core.setSlotPO_task (k : Core) (i : Nat) (v : Option (BitVec 32)) : (k.setSlotPO i v).task = k.task := rfl
@[simp] theorem Core.setSlotPO_code (k : Core) (i : Nat) (v : Option (BitVec 32)) : (k.setSlotPO i v).code = k.code := rfl
@[simp] theorem Core.setSlotPO_pc (k : Core) (i : Nat) (v : Option (BitVec 32)) : (k.setSlotPO i v).pc = k.pc := rfl
@[simp] theorem Core.setSlotPO_a (k : Core) (i : Nat) (v : Option (BitVec 32)) : (k.setSlotPO i v).a = k.a := rfl
@[simp] theorem Core.setSlotPO_t (k : Core) (i : Nat) (v : Option (BitVec 32)) : (k.setSlotPO i v).t = k.t := rfl
@[simp] theorem Core.setSlotPO_s (k : Core) (i : Nat) (v : Option (BitVec 32)) : (k.setSlotPO i v).s = k.s := rfl
@[simp] theorem Core.setSlotPO_l (k : Core) (i : Nat) (v : Option (BitVec 32)) : (k.setSlotPO i v).l = k.l := rfl
@[simp] theorem Core.setSlotPO_f (k : Core) (i : Nat) (v : Option (BitVec 32)) : (k.setSlotPO i v).f = k.f := rfl
@[simp] theorem Core.setSlotPO_vq (k : Core) (i : Nat) (v : Option (BitVec 32)) : (k.setSlotPO i v).vq = k.vq := rfl
@[simp] theorem Core.setSlotPO_mq0 (k : Core) (i : Nat) (v : Option (BitVec 32)) : (k.setSlotPO i v).mq0 = k.mq0 := rfl
@[simp] theorem Core.setSlotPO_mq1 (k : Core) (i : Nat) (v : Option (BitVec 32)) : (k.setSlotPO i v).mq1 = k.mq1 := rfl
@[simp] theorem Core.setSlotPO_dq (k : Core) (i : Nat) (v : Option (BitVec 32)) : (k.setSlotPO i v).dq = k.dq := rfl
@[simp] theorem Core.setSlotPO_seqHeld (k : Core) (i : Nat) (v : Option (BitVec 32)) : (k.setSlotPO i v).seqHeld = k.seqHeld := rfl
@[simp] theorem Core.setSlotPO_nextSeq (k : Core) (i : Nat) (v : Option (BitVec 32)) : (k.setSlotPO i v).nextSeq = k.nextSeq := rfl
@[simp] theorem Core.setSlotPO_acc0 (k : Core) (i : Nat) (v : Option (BitVec 32)) : (k.setSlotPO i v).acc0 = k.acc0 := rfl
@[simp] theorem Core.setSlotPO_acc1 (k : Core) (i : Nat) (v : Option (BitVec 32)) : (k.setSlotPO i v).acc1 = k.acc1 := rfl
@[simp] theorem Core.setSlotPO_keep0 (k : Core) (i : Nat) (v : Option (BitVec 32)) : (k.setSlotPO i v).keep0 = k.keep0 := rfl
@[simp] theorem Core.setSlotPO_keep1 (k : Core) (i : Nat) (v : Option (BitVec 32)) : (k.setSlotPO i v).keep1 = k.keep1 := rfl
@[simp] theorem Core.setSlotPO_owe0 (k : Core) (i : Nat) (v : Option (BitVec 32)) : (k.setSlotPO i v).owe0 = k.owe0 := rfl
@[simp] theorem Core.setSlotPO_owe1 (k : Core) (i : Nat) (v : Option (BitVec 32)) : (k.setSlotPO i v).owe1 = k.owe1 := rfl
@[simp] theorem Core.setSlotPO_latch0 (k : Core) (i : Nat) (v : Option (BitVec 32)) : (k.setSlotPO i v).latch0 = k.latch0 := rfl
@[simp] theorem Core.setSlotPO_latch1 (k : Core) (i : Nat) (v : Option (BitVec 32)) : (k.setSlotPO i v).latch1 = k.latch1 := rfl
@[simp] theorem Core.setSlotPO_wait0 (k : Core) (i : Nat) (v : Option (BitVec 32)) : (k.setSlotPO i v).wait0 = k.wait0 := rfl
@[simp] theorem Core.setSlotPO_wait1 (k : Core) (i : Nat) (v : Option (BitVec 32)) : (k.setSlotPO i v).wait1 = k.wait1 := rfl
@[simp] theorem Core.setSlotPO_dma (k : Core) (i : Nat) (v : Option (BitVec 32)) : (k.setSlotPO i v).dma = k.dma := rfl
@[simp] theorem Core.setSlotPO_remote (k : Core) (i : Nat) (v : Option (BitVec 32)) : (k.setSlotPO i v).remote = k.remote := rfl
@[simp] theorem Core.setSlotPO_wait (k : Core) (i : Nat) (v : Option (BitVec 32)) : (k.setSlotPO i v).wait = k.wait := rfl
@[simp] theorem Core.setSlotPO_block (k : Core) (i : Nat) (v : Option (BitVec 32)) : (k.setSlotPO i v).block = k.block := rfl
@[simp] theorem Core.setSlotPO_clocks (k : Core) (i : Nat) (v : Option (BitVec 32)) : (k.setSlotPO i v).clocks = k.clocks := rfl
@[simp] theorem Core.setSlotPO_ended (k : Core) (i : Nat) (v : Option (BitVec 32)) : (k.setSlotPO i v).ended = k.ended := rfl
@[simp] theorem Core.setSlotPO_afterBlk (k : Core) (i : Nat) (v : Option (BitVec 32)) : (k.setSlotPO i v).afterBlk = k.afterBlk := rfl
@[simp] theorem Core.setSlotPO_layer (k : Core) (i : Nat) (v : Option (BitVec 32)) : (k.setSlotPO i v).layer = k.layer := rfl
@[simp] theorem Core.setSlotPO_slots (k : Core) (i : Nat) (v : Option (BitVec 32)) : (k.setSlotPO i v).slots = k.slots := rfl
@[simp] theorem Core.setSlotPO_slotsPO (k : Core) (i : Nat) (v : Option (BitVec 32)) : (k.setSlotPO i v).slotsPO = SMap.set none k.slotsPO i v := rfl
@[simp] theorem Core.setSlotPO_shadow (k : Core) (i : Nat) (v : Option (BitVec 32)) : (k.setSlotPO i v).shadow = k.shadow := rfl
@[simp] theorem Core.setSlotPO_forms (k : Core) (i : Nat) (v : Option (BitVec 32)) : (k.setSlotPO i v).forms = k.forms := rfl
@[simp] theorem Core.setSlotPO_clockOff (k : Core) (i : Nat) (v : Option (BitVec 32)) : (k.setSlotPO i v).clockOff = k.clockOff := rfl
@[simp] theorem Core.setSlotPO_stopped (k : Core) (i : Nat) (v : Option (BitVec 32)) : (k.setSlotPO i v).stopped = k.stopped := rfl
@[simp] theorem Core.setSlotPO_halted (k : Core) (i : Nat) (v : Option (BitVec 32)) : (k.setSlotPO i v).halted = k.halted := rfl

/-! ## Ctx.modSched -/

@[simp] theorem Ctx.modSched_sched (k : Ctx) (g : CtxSched → CtxSched) : (k.modSched g).sched = g k.sched := rfl
@[simp] theorem Ctx.modSched_arith (k : Ctx) (g : CtxSched → CtxSched) : (k.modSched g).arith = k.arith := rfl
@[simp] theorem Ctx.modSched_step (k : Ctx) (g : CtxSched → CtxSched) : (k.modSched g).step = k.step := rfl
@[simp] theorem Ctx.modSched_mem (k : Ctx) (g : CtxSched → CtxSched) : (k.modSched g).mem = k.mem := rfl
@[simp] theorem Ctx.modSched_host (k : Ctx) (g : CtxSched → CtxSched) : (k.modSched g).host = k.host := rfl
@[simp] theorem Ctx.modSched_snap (k : Ctx) (g : CtxSched → CtxSched) : (k.modSched g).snap = k.snap := rfl
@[simp] theorem Ctx.modSched_prog (k : Ctx) (g : CtxSched → CtxSched) : (k.modSched g).prog = k.prog := rfl
@[simp] theorem Ctx.modSched_runs (k : Ctx) (g : CtxSched → CtxSched) : (k.modSched g).runs = k.runs := rfl
@[simp] theorem Ctx.modSched_pool (k : Ctx) (g : CtxSched → CtxSched) : (k.modSched g).pool = k.pool := rfl
@[simp] theorem Ctx.modSched_order (k : Ctx) (g : CtxSched → CtxSched) : (k.modSched g).order = k.order := rfl
@[simp] theorem Ctx.modSched_nextRun (k : Ctx) (g : CtxSched → CtxSched) : (k.modSched g).nextRun = k.nextRun := rfl
@[simp] theorem Ctx.modSched_recs (k : Ctx) (g : CtxSched → CtxSched) : (k.modSched g).recs = k.recs := rfl
@[simp] theorem Ctx.modSched_mergeQ (k : Ctx) (g : CtxSched → CtxSched) : (k.modSched g).mergeQ = k.mergeQ := rfl
@[simp] theorem Ctx.modSched_formed (k : Ctx) (g : CtxSched → CtxSched) : (k.modSched g).formed = k.formed := rfl
@[simp] theorem Ctx.modSched_sems (k : Ctx) (g : CtxSched → CtxSched) : (k.modSched g).sems = k.sems := rfl
@[simp] theorem Ctx.modSched_saved (k : Ctx) (g : CtxSched → CtxSched) : (k.modSched g).saved = k.saved := rfl

/-! ## Ctx.modArith -/

@[simp] theorem Ctx.modArith_sched (k : Ctx) (g : CtxArith → CtxArith) : (k.modArith g).sched = k.sched := rfl
@[simp] theorem Ctx.modArith_arith (k : Ctx) (g : CtxArith → CtxArith) : (k.modArith g).arith = g k.arith := rfl
@[simp] theorem Ctx.modArith_step (k : Ctx) (g : CtxArith → CtxArith) : (k.modArith g).step = k.step := rfl
@[simp] theorem Ctx.modArith_mem (k : Ctx) (g : CtxArith → CtxArith) : (k.modArith g).mem = k.mem := rfl
@[simp] theorem Ctx.modArith_host (k : Ctx) (g : CtxArith → CtxArith) : (k.modArith g).host = k.host := rfl
@[simp] theorem Ctx.modArith_snap (k : Ctx) (g : CtxArith → CtxArith) : (k.modArith g).snap = k.snap := rfl
@[simp] theorem Ctx.modArith_prog (k : Ctx) (g : CtxArith → CtxArith) : (k.modArith g).prog = k.prog := rfl
@[simp] theorem Ctx.modArith_runs (k : Ctx) (g : CtxArith → CtxArith) : (k.modArith g).runs = k.runs := rfl
@[simp] theorem Ctx.modArith_pool (k : Ctx) (g : CtxArith → CtxArith) : (k.modArith g).pool = k.pool := rfl
@[simp] theorem Ctx.modArith_order (k : Ctx) (g : CtxArith → CtxArith) : (k.modArith g).order = k.order := rfl
@[simp] theorem Ctx.modArith_nextRun (k : Ctx) (g : CtxArith → CtxArith) : (k.modArith g).nextRun = k.nextRun := rfl
@[simp] theorem Ctx.modArith_recs (k : Ctx) (g : CtxArith → CtxArith) : (k.modArith g).recs = k.recs := rfl
@[simp] theorem Ctx.modArith_mergeQ (k : Ctx) (g : CtxArith → CtxArith) : (k.modArith g).mergeQ = k.mergeQ := rfl
@[simp] theorem Ctx.modArith_formed (k : Ctx) (g : CtxArith → CtxArith) : (k.modArith g).formed = k.formed := rfl
@[simp] theorem Ctx.modArith_sems (k : Ctx) (g : CtxArith → CtxArith) : (k.modArith g).sems = k.sems := rfl
@[simp] theorem Ctx.modArith_saved (k : Ctx) (g : CtxArith → CtxArith) : (k.modArith g).saved = k.saved := rfl

/-! ## Ctx.modStep -/

@[simp] theorem Ctx.modStep_sched (k : Ctx) (g : CtxStep → CtxStep) : (k.modStep g).sched = k.sched := rfl
@[simp] theorem Ctx.modStep_arith (k : Ctx) (g : CtxStep → CtxStep) : (k.modStep g).arith = k.arith := rfl
@[simp] theorem Ctx.modStep_step (k : Ctx) (g : CtxStep → CtxStep) : (k.modStep g).step = g k.step := rfl
@[simp] theorem Ctx.modStep_mem (k : Ctx) (g : CtxStep → CtxStep) : (k.modStep g).mem = k.mem := rfl
@[simp] theorem Ctx.modStep_host (k : Ctx) (g : CtxStep → CtxStep) : (k.modStep g).host = k.host := rfl
@[simp] theorem Ctx.modStep_snap (k : Ctx) (g : CtxStep → CtxStep) : (k.modStep g).snap = k.snap := rfl
@[simp] theorem Ctx.modStep_prog (k : Ctx) (g : CtxStep → CtxStep) : (k.modStep g).prog = k.prog := rfl
@[simp] theorem Ctx.modStep_runs (k : Ctx) (g : CtxStep → CtxStep) : (k.modStep g).runs = k.runs := rfl
@[simp] theorem Ctx.modStep_pool (k : Ctx) (g : CtxStep → CtxStep) : (k.modStep g).pool = k.pool := rfl
@[simp] theorem Ctx.modStep_order (k : Ctx) (g : CtxStep → CtxStep) : (k.modStep g).order = k.order := rfl
@[simp] theorem Ctx.modStep_nextRun (k : Ctx) (g : CtxStep → CtxStep) : (k.modStep g).nextRun = k.nextRun := rfl
@[simp] theorem Ctx.modStep_recs (k : Ctx) (g : CtxStep → CtxStep) : (k.modStep g).recs = k.recs := rfl
@[simp] theorem Ctx.modStep_mergeQ (k : Ctx) (g : CtxStep → CtxStep) : (k.modStep g).mergeQ = k.mergeQ := rfl
@[simp] theorem Ctx.modStep_formed (k : Ctx) (g : CtxStep → CtxStep) : (k.modStep g).formed = k.formed := rfl
@[simp] theorem Ctx.modStep_sems (k : Ctx) (g : CtxStep → CtxStep) : (k.modStep g).sems = k.sems := rfl
@[simp] theorem Ctx.modStep_saved (k : Ctx) (g : CtxStep → CtxStep) : (k.modStep g).saved = k.saved := rfl

/-! ## Ctx.modMem -/

@[simp] theorem Ctx.modMem_sched (k : Ctx) (g : CtxMem → CtxMem) : (k.modMem g).sched = k.sched := rfl
@[simp] theorem Ctx.modMem_arith (k : Ctx) (g : CtxMem → CtxMem) : (k.modMem g).arith = k.arith := rfl
@[simp] theorem Ctx.modMem_step (k : Ctx) (g : CtxMem → CtxMem) : (k.modMem g).step = k.step := rfl
@[simp] theorem Ctx.modMem_mem (k : Ctx) (g : CtxMem → CtxMem) : (k.modMem g).mem = g k.mem := rfl
@[simp] theorem Ctx.modMem_host (k : Ctx) (g : CtxMem → CtxMem) : (k.modMem g).host = k.host := rfl
@[simp] theorem Ctx.modMem_snap (k : Ctx) (g : CtxMem → CtxMem) : (k.modMem g).snap = k.snap := rfl
@[simp] theorem Ctx.modMem_prog (k : Ctx) (g : CtxMem → CtxMem) : (k.modMem g).prog = k.prog := rfl
@[simp] theorem Ctx.modMem_runs (k : Ctx) (g : CtxMem → CtxMem) : (k.modMem g).runs = k.runs := rfl
@[simp] theorem Ctx.modMem_pool (k : Ctx) (g : CtxMem → CtxMem) : (k.modMem g).pool = k.pool := rfl
@[simp] theorem Ctx.modMem_order (k : Ctx) (g : CtxMem → CtxMem) : (k.modMem g).order = k.order := rfl
@[simp] theorem Ctx.modMem_nextRun (k : Ctx) (g : CtxMem → CtxMem) : (k.modMem g).nextRun = k.nextRun := rfl
@[simp] theorem Ctx.modMem_recs (k : Ctx) (g : CtxMem → CtxMem) : (k.modMem g).recs = k.recs := rfl
@[simp] theorem Ctx.modMem_mergeQ (k : Ctx) (g : CtxMem → CtxMem) : (k.modMem g).mergeQ = k.mergeQ := rfl
@[simp] theorem Ctx.modMem_formed (k : Ctx) (g : CtxMem → CtxMem) : (k.modMem g).formed = k.formed := rfl
@[simp] theorem Ctx.modMem_sems (k : Ctx) (g : CtxMem → CtxMem) : (k.modMem g).sems = k.sems := rfl
@[simp] theorem Ctx.modMem_saved (k : Ctx) (g : CtxMem → CtxMem) : (k.modMem g).saved = k.saved := rfl

/-! ## Ctx.modHost -/

@[simp] theorem Ctx.modHost_sched (k : Ctx) (g : CtxHost → CtxHost) : (k.modHost g).sched = k.sched := rfl
@[simp] theorem Ctx.modHost_arith (k : Ctx) (g : CtxHost → CtxHost) : (k.modHost g).arith = k.arith := rfl
@[simp] theorem Ctx.modHost_step (k : Ctx) (g : CtxHost → CtxHost) : (k.modHost g).step = k.step := rfl
@[simp] theorem Ctx.modHost_mem (k : Ctx) (g : CtxHost → CtxHost) : (k.modHost g).mem = k.mem := rfl
@[simp] theorem Ctx.modHost_host (k : Ctx) (g : CtxHost → CtxHost) : (k.modHost g).host = g k.host := rfl
@[simp] theorem Ctx.modHost_snap (k : Ctx) (g : CtxHost → CtxHost) : (k.modHost g).snap = k.snap := rfl
@[simp] theorem Ctx.modHost_prog (k : Ctx) (g : CtxHost → CtxHost) : (k.modHost g).prog = k.prog := rfl
@[simp] theorem Ctx.modHost_runs (k : Ctx) (g : CtxHost → CtxHost) : (k.modHost g).runs = k.runs := rfl
@[simp] theorem Ctx.modHost_pool (k : Ctx) (g : CtxHost → CtxHost) : (k.modHost g).pool = k.pool := rfl
@[simp] theorem Ctx.modHost_order (k : Ctx) (g : CtxHost → CtxHost) : (k.modHost g).order = k.order := rfl
@[simp] theorem Ctx.modHost_nextRun (k : Ctx) (g : CtxHost → CtxHost) : (k.modHost g).nextRun = k.nextRun := rfl
@[simp] theorem Ctx.modHost_recs (k : Ctx) (g : CtxHost → CtxHost) : (k.modHost g).recs = k.recs := rfl
@[simp] theorem Ctx.modHost_mergeQ (k : Ctx) (g : CtxHost → CtxHost) : (k.modHost g).mergeQ = k.mergeQ := rfl
@[simp] theorem Ctx.modHost_formed (k : Ctx) (g : CtxHost → CtxHost) : (k.modHost g).formed = k.formed := rfl
@[simp] theorem Ctx.modHost_sems (k : Ctx) (g : CtxHost → CtxHost) : (k.modHost g).sems = k.sems := rfl
@[simp] theorem Ctx.modHost_saved (k : Ctx) (g : CtxHost → CtxHost) : (k.modHost g).saved = k.saved := rfl

/-! ## Ctx.modSnap -/

@[simp] theorem Ctx.modSnap_sched (k : Ctx) (g : CtxSnap → CtxSnap) : (k.modSnap g).sched = k.sched := rfl
@[simp] theorem Ctx.modSnap_arith (k : Ctx) (g : CtxSnap → CtxSnap) : (k.modSnap g).arith = k.arith := rfl
@[simp] theorem Ctx.modSnap_step (k : Ctx) (g : CtxSnap → CtxSnap) : (k.modSnap g).step = k.step := rfl
@[simp] theorem Ctx.modSnap_mem (k : Ctx) (g : CtxSnap → CtxSnap) : (k.modSnap g).mem = k.mem := rfl
@[simp] theorem Ctx.modSnap_host (k : Ctx) (g : CtxSnap → CtxSnap) : (k.modSnap g).host = k.host := rfl
@[simp] theorem Ctx.modSnap_snap (k : Ctx) (g : CtxSnap → CtxSnap) : (k.modSnap g).snap = g k.snap := rfl
@[simp] theorem Ctx.modSnap_prog (k : Ctx) (g : CtxSnap → CtxSnap) : (k.modSnap g).prog = k.prog := rfl
@[simp] theorem Ctx.modSnap_runs (k : Ctx) (g : CtxSnap → CtxSnap) : (k.modSnap g).runs = k.runs := rfl
@[simp] theorem Ctx.modSnap_pool (k : Ctx) (g : CtxSnap → CtxSnap) : (k.modSnap g).pool = k.pool := rfl
@[simp] theorem Ctx.modSnap_order (k : Ctx) (g : CtxSnap → CtxSnap) : (k.modSnap g).order = k.order := rfl
@[simp] theorem Ctx.modSnap_nextRun (k : Ctx) (g : CtxSnap → CtxSnap) : (k.modSnap g).nextRun = k.nextRun := rfl
@[simp] theorem Ctx.modSnap_recs (k : Ctx) (g : CtxSnap → CtxSnap) : (k.modSnap g).recs = k.recs := rfl
@[simp] theorem Ctx.modSnap_mergeQ (k : Ctx) (g : CtxSnap → CtxSnap) : (k.modSnap g).mergeQ = k.mergeQ := rfl
@[simp] theorem Ctx.modSnap_formed (k : Ctx) (g : CtxSnap → CtxSnap) : (k.modSnap g).formed = k.formed := rfl
@[simp] theorem Ctx.modSnap_sems (k : Ctx) (g : CtxSnap → CtxSnap) : (k.modSnap g).sems = k.sems := rfl
@[simp] theorem Ctx.modSnap_saved (k : Ctx) (g : CtxSnap → CtxSnap) : (k.modSnap g).saved = k.saved := rfl

end Sys2Proof.Machine
end

