-- ==== Sys2Proof/Laws/Tables.lean ====
section
/-!
SUPPORT. The laws of sparse tables and of memory: a read after a write, writes elsewhere, and the canonical form that every
operation keeps. The records of the state are read through these.
-/

set_option Elab.async false

namespace Sys2Proof

/-! ## Reading after writing -/

variable {α : Type}

theorem SMap.get_put_self (d : α) (m : SMap α) (i : Nat) (v : α) : SMap.get d (SMap.put m i v) i = v := by
  induction m with
  | nil => simp [SMap.put, SMap.get]
  | cons e m ih =>
    obtain ⟨k, w⟩ := e
    simp only [SMap.put]
    split
    · simp [SMap.get]
    · split
      · simp [SMap.get]
      · have : k ≠ i := by omega
        simp [SMap.get, this, ih]

theorem SMap.get_put_other (d : α) (m : SMap α) {i j : Nat} (v : α) (h : i ≠ j) :
    SMap.get d (SMap.put m i v) j = SMap.get d m j := by
  induction m with
  | nil => simp [SMap.put, SMap.get, h]
  | cons e m ih =>
    obtain ⟨k, w⟩ := e
    simp only [SMap.put]
    split
    · simp [SMap.get, h]
    · split
      · subst_vars; simp [SMap.get, h]
      · simp [SMap.get, ih]

theorem SMap.get_filter (d : α) (m : SMap α) (p : Nat → Bool) (j : Nat) :
    SMap.get d (m.filter fun e => p e.1) j = if p j then SMap.get d m j else d := by
  induction m with
  | nil => simp [SMap.get]
  | cons e m ih =>
    obtain ⟨k, w⟩ := e
    by_cases hk : p k = true <;> by_cases hj : p j = true <;> by_cases e : k = j <;>
      simp_all [SMap.get]

/-- What a table reads as after a range of keys is dropped. -/
theorem SMap.get_wipe (d : α) (m : SMap α) (b n j : Nat) :
    SMap.get d (SMap.wipe m b n) j = if b ≤ j ∧ j < b + n then d else SMap.get d m j := by
  have := SMap.get_filter d m (fun k => decide (k < b) || decide (b + n ≤ k)) j
  simp only [Bool.or_eq_true, decide_eq_true_eq] at this
  simp only [SMap.wipe, Bool.decide_or, this]
  by_cases h : b ≤ j ∧ j < b + n
  · simp [h, show ¬ (j < b ∨ b + n ≤ j) by omega]
  · simp [h, show (j < b ∨ b + n ≤ j) by omega]

variable [DecidableEq α]

/-- A key just set reads as the value set. -/
@[simp] theorem SMap.get_set_self (d : α) (m : SMap α) (i : Nat) (v : α) : SMap.get d (SMap.set d m i v) i = v := by
  unfold SMap.set
  split
  · subst_vars
    simpa using SMap.get_filter v m (fun k => k != i) i
  · exact SMap.get_put_self d m i v

/-- Every other key reads as before. -/
theorem SMap.get_set_other (d : α) (m : SMap α) {i j : Nat} (v : α) (h : i ≠ j) :
    SMap.get d (SMap.set d m i v) j = SMap.get d m j := by
  unfold SMap.set
  split
  · have := SMap.get_filter d m (fun k => k != i) j
    simp only [bne_iff_ne, ne_eq, Ne.symm h, not_false_eq_true, if_true] at this
    exact this
  · exact SMap.get_put_other d m v h

/-- What a table reads as after one key is set. -/
theorem SMap.get_set (d : α) (m : SMap α) (i j : Nat) (v : α) :
    SMap.get d (SMap.set d m i v) j = if i = j then v else SMap.get d m j := by
  split
  · subst_vars; simp
  · exact SMap.get_set_other d m v ‹_›

/-! ## The canonical form -/

/-- The canonical form, as a proposition. -/
theorem SMap.wf_iff (d : α) (m : SMap α) :
    SMap.wf d m = true ↔ m.Pairwise (fun a b => a.1 < b.1) ∧ ∀ e ∈ m, e.2 ≠ d := by
  simp [SMap.wf]

theorem SMap.mem_put {m : SMap α} {i : Nat} {v : α} {e : Nat × α} (h : e ∈ SMap.put m i v) : e = (i, v) ∨ e ∈ m := by
  induction m with
  | nil => simp_all [SMap.put]
  | cons x m ih =>
    obtain ⟨k, w⟩ := x
    simp only [SMap.put] at h
    split at h
    · simp_all
    · split at h
      · simp only [List.mem_cons] at h ⊢; tauto
      · simp only [List.mem_cons] at h ⊢; tauto

theorem SMap.pairwise_put {m : SMap α} (i : Nat) (v : α) (h : m.Pairwise (fun a b => a.1 < b.1)) :
    (SMap.put m i v).Pairwise (fun a b => a.1 < b.1) := by
  induction m with
  | nil => simp [SMap.put]
  | cons x m ih =>
    obtain ⟨k, w⟩ := x
    simp only [List.pairwise_cons] at h
    simp only [SMap.put]
    split
    · refine List.pairwise_cons.2 ⟨?_, List.pairwise_cons.2 h⟩
      intro e he
      rcases List.mem_cons.1 he with rfl | he
      · assumption
      · have := h.1 e he; simp only at *; omega
    · split
      · exact List.pairwise_cons.2 ⟨fun e he => by have := h.1 e he; simp only at *; omega, h.2⟩
      · refine List.pairwise_cons.2 ⟨?_, ih h.2⟩
        intro e he
        rcases SMap.mem_put he with rfl | he
        · simp only; omega
        · exact h.1 e he

/-- Setting a key keeps the form. -/
theorem SMap.wf_set {d : α} {m : SMap α} (i : Nat) (v : α) (h : SMap.wf d m = true) : SMap.wf d (SMap.set d m i v) = true := by
  rw [SMap.wf_iff] at h ⊢
  unfold SMap.set
  split
  · exact ⟨h.1.filter _, fun e he => h.2 e (List.mem_filter.1 he).1⟩
  · refine ⟨SMap.pairwise_put i v h.1, fun e he => ?_⟩
    rcases SMap.mem_put he with rfl | he
    · assumption
    · exact h.2 e he

/-- Dropping a range keeps the form. -/
theorem SMap.wf_wipe {d : α} {m : SMap α} (b n : Nat) (h : SMap.wf d m = true) : SMap.wf d (SMap.wipe m b n) = true := by
  rw [SMap.wf_iff] at h ⊢
  exact ⟨h.1.filter _, fun e he => h.2 e (List.mem_filter.1 he).1⟩

/-- Writing bytes keeps the form. -/
theorem Memory.wf_write {m : Mem} (a : Nat) (bs : List Byte) (h : Memory.wf m = true) : Memory.wf (Mem.write m a bs) = true := by
  induction bs generalizing m a with
  | nil => exact h
  | cons b bs ih => exact ih (a + 1) (SMap.wf_set a b h)

/-- Dropping a range of bytes keeps the form. -/
theorem Memory.wf_wipe {m : Mem} (b n : Nat) (h : Memory.wf m = true) : Memory.wf (SMap.wipe m b n) = true := SMap.wf_wipe b n h

/-! ## Bytes -/

/-- A byte outside the bytes written reads as before. -/
theorem Mem.byte_write_other (m : Mem) (a : Nat) (bs : List Byte) (x : Nat) (h : x < a ∨ a + bs.length ≤ x) :
    Mem.byte (Mem.write m a bs) x = Mem.byte m x := by
  induction bs generalizing m a with
  | nil => rfl
  | cons b bs ih =>
    simp only [List.length_cons] at h
    simp only [Mem.write]
    rw [ih _ _ (by omega)]
    exact SMap.get_set_other (0#8) m b (by omega)

/-- A byte written reads as the byte written. -/
theorem Mem.byte_write_at (m : Mem) (a : Nat) (bs : List Byte) (i : Nat) (h : i < bs.length) :
    Mem.byte (Mem.write m a bs) (a + i) = bs[i] := by
  induction bs generalizing m a i with
  | nil => simp at h
  | cons b bs ih =>
    simp only [Mem.write]
    cases i with
    | zero =>
      rw [Mem.byte_write_other _ _ _ _ (by omega)]
      exact SMap.get_set_self (0#8) m a b
    | succ i =>
      have := ih (SMap.set (0#8) m a b) (a + 1) i (by simpa using h)
      rw [show a + (i + 1) = a + 1 + i by omega, this]
      simp

theorem Mem.read_length (m : Mem) (a n : Nat) : (Mem.read m a n).length = n := by
  induction n generalizing a with
  | zero => rfl
  | succ n ih => simp [Mem.read, ih]

/-- Reading back the bytes written. -/
theorem Mem.read_write (m : Mem) (a : Nat) (bs : List Byte) : Mem.read (Mem.write m a bs) a bs.length = bs := by
  induction bs generalizing m a with
  | nil => rfl
  | cons b bs ih =>
    simp only [Mem.write, List.length_cons, Mem.read, List.cons.injEq]
    refine ⟨?_, ih _ _⟩
    rw [Mem.byte_write_other _ _ _ _ (by omega)]
    exact SMap.get_set_self (0#8) m a b

/-- Reading bytes that none of the bytes written touches. -/
theorem Mem.read_write_other (m : Mem) (a : Nat) (bs : List Byte) (x n : Nat) (h : x + n ≤ a ∨ a + bs.length ≤ x) :
    Mem.read (Mem.write m a bs) x n = Mem.read m x n := by
  induction n generalizing x with
  | zero => rfl
  | succ n ih =>
    simp only [Mem.read]
    rw [ih _ (by omega), Mem.byte_write_other _ _ _ _ (by omega)]

namespace Machine

/-! ## The records of the state after an update -/

@[simp] theorem State.core_setCore (s : State) (c : Nat) (k : Core) : (s.setCore c k).core c = k := by
  simp [State.core, State.setCore]
theorem State.core_setCore_other (s : State) {c x : Nat} (k : Core) (h : c ≠ x) : (s.setCore c k).core x = s.core x :=
  SMap.get_set_other _ _ _ h
@[simp] theorem State.core_modCore (s : State) (c : Nat) (f : Core → Core) : (s.modCore c f).core c = f (s.core c) := by
  simp [State.modCore]
theorem State.core_modCore_other (s : State) {c x : Nat} (f : Core → Core) (h : c ≠ x) : (s.modCore c f).core x = s.core x :=
  SMap.get_set_other _ _ _ h

@[simp] theorem State.ctx_setCtx (s : State) (n : Nat) (k : Ctx) : (s.setCtx n k).ctx n = k := by
  simp [State.ctx, State.setCtx]
theorem State.ctx_setCtx_other (s : State) {n x : Nat} (k : Ctx) (h : n ≠ x) : (s.setCtx n k).ctx x = s.ctx x :=
  SMap.get_set_other _ _ _ h
@[simp] theorem State.ctx_modCtx (s : State) (n : Nat) (f : Ctx → Ctx) : (s.modCtx n f).ctx n = f (s.ctx n) := by
  simp [State.modCtx]
theorem State.ctx_modCtx_other (s : State) {n x : Nat} (f : Ctx → Ctx) (h : n ≠ x) : (s.modCtx n f).ctx x = s.ctx x :=
  SMap.get_set_other _ _ _ h

@[simp] theorem State.quarter_setQuarter (s : State) (q : Nat) (k : Quarter) : (s.setQuarter q k).quarter q = k := by
  simp [State.quarter, State.setQuarter]
theorem State.quarter_setQuarter_other (s : State) {q x : Nat} (k : Quarter) (h : q ≠ x) :
    (s.setQuarter q k).quarter x = s.quarter x := SMap.get_set_other _ _ _ h
@[simp] theorem State.quarter_modQuarter (s : State) (q : Nat) (f : Quarter → Quarter) :
    (s.modQuarter q f).quarter q = f (s.quarter q) := by
  simp [State.modQuarter]

@[simp] theorem State.port_setPort (s : State) (p : Nat) (k : Port) : (s.setPort p k).port p = k := by
  simp [State.port, State.setPort]
theorem State.port_setPort_other (s : State) {p x : Nat} (k : Port) (h : p ≠ x) : (s.setPort p k).port x = s.port x :=
  SMap.get_set_other _ _ _ h
@[simp] theorem State.port_modPort (s : State) (p : Nat) (f : Port → Port) : (s.modPort p f).port p = f (s.port p) := by
  simp [State.modPort]
theorem State.port_modPort_other (s : State) {p x : Nat} (f : Port → Port) (h : p ≠ x) : (s.modPort p f).port x = s.port x :=
  SMap.get_set_other _ _ _ h

@[simp] theorem State.dir_setDir (s : State) (d : Nat) (k : Direc) : (s.setDir d k).dir d = k := by
  by_cases h : k = coldDir d <;> simp [State.dir, State.setDir, h]
theorem State.dir_setDir_other (s : State) {d x : Nat} (k : Direc) (h : d ≠ x) : (s.setDir d k).dir x = s.dir x := by
  simp [State.dir, State.setDir, SMap.get_set_other _ _ _ h]

@[simp] theorem State.core_setCtx (s : State) (n : Nat) (k : Ctx) (c : Nat) : (s.setCtx n k).core c = s.core c := rfl
@[simp] theorem State.core_modCtx (s : State) (n : Nat) (f : Ctx → Ctx) (c : Nat) : (s.modCtx n f).core c = s.core c := rfl
@[simp] theorem State.ctx_setCore (s : State) (c : Nat) (k : Core) (n : Nat) : (s.setCore c k).ctx n = s.ctx n := rfl
@[simp] theorem State.ctx_modCore (s : State) (c : Nat) (f : Core → Core) (n : Nat) : (s.modCore c f).ctx n = s.ctx n := rfl
@[simp] theorem State.core_emit (s : State) (o : Out) (c : Nat) : (s.emit o).core c = s.core c := rfl
@[simp] theorem State.ctx_emit (s : State) (o : Out) (n : Nat) : (s.emit o).ctx n = s.ctx n := rfl
@[simp] theorem State.port_emit (s : State) (o : Out) (p : Nat) : (s.emit o).port p = s.port p := rfl

/-! ## Registers of a core after an update -/

@[simp] theorem Core.ra_setA (k : Core) (i : Nat) (v : BitVec 64) : (k.setA i v).ra i = v := by simp [Core.ra]
theorem Core.ra_setA_other (k : Core) {i j : Nat} (v : BitVec 64) (h : i ≠ j) : (k.setA i v).ra j = k.ra j :=
  SMap.get_set_other _ _ _ h
@[simp] theorem Core.rt_setT (k : Core) (i : Nat) (v : BitVec 64) : (k.setT i v).rt i = v := by simp [Core.rt]
theorem Core.rt_setT_other (k : Core) {i j : Nat} (v : BitVec 64) (h : i ≠ j) : (k.setT i v).rt j = k.rt j :=
  SMap.get_set_other _ _ _ h
@[simp] theorem Core.rs_setS (k : Core) (i : Nat) (v : F32) : (k.setS i v).rs i = v := by simp [Core.rs]
theorem Core.rs_setS_other (k : Core) {i j : Nat} (v : F32) (h : i ≠ j) : (k.setS i v).rs j = k.rs j :=
  SMap.get_set_other _ _ _ h
@[simp] theorem Core.rl_setL (k : Core) (i : Nat) (v : BitVec 32) : (k.setL i v).rl i = v := by simp [Core.rl]
theorem Core.rl_setL_other (k : Core) {i j : Nat} (v : BitVec 32) (h : i ≠ j) : (k.setL i v).rl j = k.rl j :=
  SMap.get_set_other _ _ _ h
@[simp] theorem Core.rf_setF (k : Core) (i : Nat) (v : Bool) : (k.setF i v).rf i = v := by simp [Core.rf]
theorem Core.rf_setF_other (k : Core) {i j : Nat} (v : Bool) (h : i ≠ j) : (k.setF i v).rf j = k.rf j :=
  SMap.get_set_other _ _ _ h

end Machine

end Sys2Proof
end

