-- ==== Sys2Proof/Laws/Core.lean ====
section
/-! SUPPORT. What the shared operations of the core instructions do: the issue check, the holds, the queues. -/

set_option Elab.async false

namespace Sys2Proof

/-! ## The opcode of a word (05 R115) -/

@[simp] theorem encodeS_opcode (op : BitVec 8) (w : SF) : (encodeS op w).extractLsb' 56 8 = op := by
  apply BitVec.eq_of_getLsbD_eq
  intro i hi
  simp only [encodeS, BitVec.getLsbD_extractLsb', BitVec.getLsbD_append, hi]
  simp [show ¬ (56 + i < 32) by omega, show ¬ (56 + i - 32 < 1) by omega, show ¬ (56 + i - 32 - 1 < 5) by omega,
    show ¬ (56 + i - 32 - 1 - 5 < 5) by omega, show ¬ (56 + i - 32 - 1 - 5 - 5 < 5) by omega,
    show ¬ (56 + i - 32 - 1 - 5 - 5 - 5 < 8) by omega, show 56 + i - 32 - 1 - 5 - 5 - 5 - 8 = i by omega]

@[simp] theorem encodeV_opcode (op : BitVec 8) (w : VF) : (encodeV op w).extractLsb' 56 8 = op := by
  apply BitVec.eq_of_getLsbD_eq
  intro i hi
  simp only [encodeV, BitVec.getLsbD_extractLsb', BitVec.getLsbD_append, hi]
  simp [show ¬ (56 + i < 12) by omega, show ¬ (56 + i - 12 < 10) by omega, show ¬ (56 + i - 12 - 10 < 11) by omega,
    show ¬ (56 + i - 12 - 10 - 11 < 5) by omega, show ¬ (56 + i - 12 - 10 - 11 - 5 < 5) by omega,
    show ¬ (56 + i - 12 - 10 - 11 - 5 - 5 < 5) by omega, show ¬ (56 + i - 12 - 10 - 11 - 5 - 5 - 5 < 8) by omega,
    show 56 + i - 12 - 10 - 11 - 5 - 5 - 5 - 8 = i by omega]

@[simp] theorem encodeM_opcode (w : MF) : (encodeM w).extractLsb' 56 8 = 0x50#8 := by
  apply BitVec.eq_of_getLsbD_eq
  intro i hi
  simp only [encodeM, BitVec.getLsbD_extractLsb', BitVec.getLsbD_append, hi]
  simp [show ¬ (56 + i < 16) by omega, show ¬ (56 + i - 16 < 10) by omega, show ¬ (56 + i - 16 - 10 < 10) by omega,
    show ¬ (56 + i - 16 - 10 - 10 < 4) by omega, show ¬ (56 + i - 16 - 10 - 10 - 4 < 4) by omega,
    show ¬ (56 + i - 16 - 10 - 10 - 4 - 4 < 4) by omega, show ¬ (56 + i - 16 - 10 - 10 - 4 - 4 - 4 < 4) by omega,
    show ¬ (56 + i - 16 - 10 - 10 - 4 - 4 - 4 - 4 < 1) by omega, show ¬ (56 + i - 16 - 10 - 10 - 4 - 4 - 4 - 4 - 1 < 2) by omega,
    show ¬ (56 + i - 16 - 10 - 10 - 4 - 4 - 4 - 4 - 1 - 2 < 1) by omega,
    show 56 + i - 16 - 10 - 10 - 4 - 4 - 4 - 4 - 1 - 2 - 1 = i by omega]

@[simp] theorem encodeU_opcode (w : UF) : (encodeU w).extractLsb' 56 8 = 0x70#8 := by
  apply BitVec.eq_of_getLsbD_eq
  intro i hi
  simp only [encodeU, BitVec.getLsbD_extractLsb', BitVec.getLsbD_append, hi]
  simp [show ¬ (56 + i < 10) by omega, show ¬ (56 + i - 10 < 12) by omega, show ¬ (56 + i - 10 - 12 < 5) by omega,
    show ¬ (56 + i - 10 - 12 - 5 < 5) by omega, show ¬ (56 + i - 10 - 12 - 5 - 5 < 5) by omega,
    show ¬ (56 + i - 10 - 12 - 5 - 5 - 5 < 5) by omega, show ¬ (56 + i - 10 - 12 - 5 - 5 - 5 - 5 < 5) by omega,
    show ¬ (56 + i - 10 - 12 - 5 - 5 - 5 - 5 - 5 < 5) by omega, show ¬ (56 + i - 10 - 12 - 5 - 5 - 5 - 5 - 5 - 5 < 4) by omega,
    show 56 + i - 10 - 12 - 5 - 5 - 5 - 5 - 5 - 5 - 4 = i by omega]

namespace Machine

/-! ## The issue check (05 R115 to R117) -/

/-- A good instruction at the program counter runs. -/
theorem State.issue_runs {s : State} {c : Nat} {word : BitVec 64} (h : AtInsn s c word)
    (hd : opcodeDefined (word.extractLsb' 56 8) = true) (body : State → State) : s.issue c word true body = body s := by
  simp [State.issue, h.may, h.here, hd]

/-- A word whose fields the spec does not give faults. -/
theorem State.issue_bad {s : State} {c : Nat} {word : BitVec 64} (h : AtInsn s c word) (body : State → State) :
    s.issue c word false body = s.insnFault c := by
  simp [State.issue, h.may, h.here]

/-- An undefined opcode faults. -/
theorem State.issue_undefined {s : State} {c : Nat} {w word : BitVec 64} (hm : s.mayIssue c = true)
    (h : (s.core c).code[(s.core c).pc]? = some w) (hd : opcodeDefined (w.extractLsb' 56 8) = false) (ok : Bool) (body : State → State) :
    s.issue c word ok body = s.insnFault c := by
  simp [State.issue, hm, h, hd]

/-- A core that may not issue takes no instruction. -/
theorem State.issue_not {s : State} {c : Nat} (h : s.mayIssue c = false) (word : BitVec 64) (ok : Bool) (body : State → State) :
    s.issue c word ok body = s := by
  simp [State.issue, h]

/-- An instruction that nothing holds goes on. -/
theorem State.ifFree_free {s : State} {c : Nat} {as : List Nat} {rs ws : List Res} (h : Free s c as rs ws) (body : State → State) :
    s.ifFree c as rs ws body = body s := by
  simp [State.ifFree, h.regs, h.work]

/-- A held instruction waits. -/
theorem State.ifFree_held {s : State} {c : Nat} {as : List Nat} {rs ws : List Res}
    (h : (s.core c).regHeld as = true ∨ (s.core c).heldBy (s.core c).nextSeq rs ws = true) (body : State → State) :
    s.ifFree c as rs ws body = s := by
  rcases h with h | h <;> simp [State.ifFree, h]

/-- What a core that may issue has. -/
theorem State.mayIssue_ctx {s : State} {c : Nat} (h : s.mayIssue c = true) :
    s.live = true ∧ s.pwr.rest = 0 ∧ (s.core c).task.isSome = true ∧ (s.core c).ctx.isSome = true ∧ (s.core c).halted = false ∧
      (s.core c).stopped = false ∧ (s.core c).ended = false ∧ (s.core c).clockOff = false ∧ (s.core c).wait = none ∧
      (s.core c).seqHeld = none := by
  simp only [State.mayIssue, Bool.and_eq_true, beq_iff_eq, Bool.not_eq_true', Option.isNone_iff_eq_none] at h
  tauto

/-! ## The queues (04 R499) -/

/-- An instruction handed to a queue that has room. -/
theorem State.push_room {s : State} {c q : Nat} (h : ((s.core c).queue q).length < 16) (word : BitVec 64) (w : Work) (rs ws : List Res)
    (f : Core → Core) : s.push c q word w rs ws f =
      s.setCore c (f { ((s.core c).setQueue q ((s.core c).queue q ++
        [{ seq := (s.core c).nextSeq, pc := (s.core c).pc, word := word, work := w, reads := rs, writes := ws, phase := 0 }])).next with
        nextSeq := (s.core c).nextSeq + 1 }) := by
  simp [State.push, Nat.not_le.2 h]

/-- A full queue stops the sequencer at the instruction. -/
theorem State.push_full {s : State} {c q : Nat} (h : 16 ≤ ((s.core c).queue q).length) (word : BitVec 64) (w : Work) (rs ws : List Res)
    (f : Core → Core) : s.push c q word w rs ws f = s.setCore c { s.core c with seqHeld := some q } := by
  simp [State.push, h]

/-! ## Good words (09 R226) -/

theorem State.badIn_clean {s : State} (h : CleanStore s) (a n : Nat) : s.badIn a n = [] := by
  simp [State.badIn, h.bad]

theorem State.badRuns_clean {s : State} (h : CleanStore s) (c : Nat) (rs : List (Nat × Nat)) : s.badRuns c rs = [] := by
  simp [State.badRuns, State.badIn, h.bad]

theorem State.badBits_clean {s : State} (h : CleanStore s) (w : Nat) : s.badBits w = 0 := by
  simp [State.badBits, h.bad, SMap.get]

/-- A read of good words. -/
theorem State.load_clean {s : State} (h : CleanStore s) (a n : Nat) : s.load a n = (.inl (s.bytes a n), s) := by
  simp [State.load, State.inReset, h.rst, State.badIn_clean h, State.meetWords]

theorem State.modEcc_same {s : State} {f : Ecc → Ecc} (h : f s.ecc = s.ecc) : s.modEcc f = s := by
  unfold State.modEcc
  rw [h]

/-- What a store does beside its bytes: nothing where every word is good and no injection is armed. -/
theorem State.afterStore_clean {s : State} (hb : s.ecc.bad = []) (ha : s.ecc.injArmed = false) (a n : Nat) : s.afterStore a n = s := by
  have h := State.modEcc_same (s := s) (f := fun e => { e with bad := e.bad.filter fun b => !within b.1 8 a n }) (by
    rcases e : s.ecc with ⟨⟩
    simp_all)
  unfold State.afterStore State.inject
  simp only [h, ha, Bool.false_and, Bool.false_eq_true, if_false]

/-- A write of good words. -/
theorem State.store_clean {s : State} (h : CleanStore s) (a : Nat) (bs : List Byte) : s.store a bs = (none, s.setBytes a bs) := by
  have : s.badBits = fun _ => 0 := funext (State.badBits_clean h)
  simp [State.store, State.inReset, h.rst, this, State.meetWords,
    State.afterStore_clean (s := s.setBytes a bs) h.bad h.arm]

/-! ## Descales (03 R55, R68) -/

/-- Writing a core's descales changes cores and contexts alone, where the core has no record in T1
and no partial reset runs. -/
theorem State.writeDescales_frame (n : Nat) (u : ScaleUse) (only : Option (BitVec 32)) (held : Bool) (s : State) (c : Nat)
    (h : ((SMap.get none (s.ctx n).saved c).getD {}).ctx = none) (hb : s.rst.busy = false) :
    ∃ ks xs, State.writeDescales n u only held s c = { s with cores := ks, ctxs := xs } := by
  unfold State.writeDescales State.recordDescales
  simp only [h, hb, Option.isSome_none, Bool.false_and, Bool.false_eq_true, if_false]
  repeat' first | exact ⟨_, _, rfl⟩ | split

end Machine

end Sys2Proof
end

