-- ==== Sys2Proof/Laws/Keeps.lean ====
section
/-!
SUPPORT. What every operation keeps: the queue of commands, what has gone out before, and the invariant of the module. One lemma
for each operation of the model, from the smallest up.
-/

set_option Elab.async false

namespace Sys2Proof.Machine

/-- `t` is reached from `s` by the module's own operations: the queue of commands is the same, nothing that went out is taken
back, and the invariant still holds. -/
structure Keeps (s t : State) : Prop where
  queue : t.pending = s.pending
  sent : s.out <+: t.out
  ok : s.Ok → t.Ok

theorem Keeps.refl (s : State) : Keeps s s := ⟨rfl, List.prefix_refl _, id⟩

theorem Keeps.trans {a b c : State} (h : Keeps a b) (k : Keeps b c) : Keeps a c :=
  ⟨k.queue.trans h.queue, h.sent.trans k.sent, fun x => k.ok (h.ok x)⟩

/-- A health record whose score and state are another's. -/
theorem Hlt.Ok.upd {h k : Hlt} (o : h.Ok) (h1 : k.score = h.score := by rfl) (h2 : k.hstate = h.hstate := by rfl) : k.Ok :=
  ⟨h1 ▸ o.score, h2 ▸ o.hstate⟩

/-- A bring-up record whose phase, kind and counts of restarts are another's. -/
theorem Rst.Ok.upd {r k : Rst} (o : r.Ok) (h1 : k.phase = r.phase := by rfl) (h2 : k.kind = r.kind := by rfl)
    (h3 : k.retries = r.retries := by rfl) (h4 : k.ledger = r.ledger := by rfl) : k.Ok :=
  ⟨h1 ▸ o.phase, h2 ▸ o.kind, h3 ▸ o.retries, h4 ▸ o.kept⟩

/-- The floor clock is a point of the curve. -/
theorem clkPoint_floor : clkPoint clkFloor := ⟨Nat.le_refl _, by unfold clkMax; cases Config.ordering <;> decide, by decide⟩

/-- So is the fused maximum. -/
theorem clkPoint_max : clkPoint clkMax := by
  unfold clkPoint clkMax
  cases Config.ordering <;> decide

/-- A supply record whose parts are another's, or as they must be. -/
theorem Pwr.Ok.upd {p q : Pwr} (o : p.Ok) (clk : clkPoint p.clk → clkPoint q.clk := by exact id)
    (vpt : clkPoint p.vpt → clkPoint q.vpt := by exact id) (lead : p.clk ≤ p.vpt → q.clk ≤ q.vpt := by exact id)
    (still : (p.rest ≠ 0 → p.clk = clkFloor) → q.rest ≠ 0 → q.clk = clkFloor := by exact id)
    (cap : (∀ c, p.thermalCap = some c → clkPoint c) → ∀ c, q.thermalCap = some c → clkPoint c := by exact id)
    (req : p.clkReq = 0 ∨ clkPoint p.clkReq → q.clkReq = 0 ∨ clkPoint q.clkReq := by exact id)
    (sup : p.sup ≤ 3 → q.sup ≤ 3 := by exact id) (rest : p.rest ≤ 4 → q.rest ≤ 4 := by exact id)
    (entering : (∀ k, p.entering = some k → 1 ≤ k ∧ k ≤ 4) → ∀ k, q.entering = some k → 1 ≤ k ∧ k ≤ 4 := by exact id)
    (waking : (∀ k, p.waking = some k → k ≤ 4) → ∀ k, q.waking = some k → k ≤ 4 := by exact id)
    (hist : p.hist ≤ 16 → q.hist ≤ 16 := by exact id)
    (idle : 1 ≤ p.idleMs ∧ p.idleMs ≤ 1000 → 1 ≤ q.idleMs ∧ q.idleMs ≤ 1000 := by exact id) : q.Ok :=
  ⟨clk o.clk, vpt o.vpt, lead o.lead, still o.still, cap o.cap, req o.req, sup o.sup, rest o.rest, entering o.entering, waking o.waking, hist o.hist, idle o.idle⟩

/-- A change of anything but the queue and what goes out, with the invariant's parts as they must be. -/
theorem Keeps.mkOk {a s : State} (h : Keeps a s)
    {now free mem ecc cores quarters ctxs allocs nextHandle fills lastA lastB lastPtr loads cache ports dirs link colls nextColl host flt hlt pwr rst shk joining}
    (hm : s.Ok → Memory.wf mem = true := by exact fun o => o.mem) (hp : s.Ok → Pwr.Ok pwr := by exact fun o => o.pwr)
    (hh : s.Ok → Hlt.Ok hlt := by exact fun o => o.hlt.upd) (hr : s.Ok → Rst.Ok rst := by exact fun o => o.rst.upd) :
    Keeps a (State.mk s.pending now free mem ecc cores quarters ctxs allocs nextHandle fills lastA lastB lastPtr loads cache ports dirs link colls nextColl host flt hlt pwr rst shk joining s.out) :=
  h.trans ⟨rfl, List.prefix_refl _, fun k => ⟨hm k, hp k, hh k, hr k⟩⟩

/-- A change of anything but the queue, memory, the supply, what goes out, and what the invariant says of health and bring-up. -/
theorem Keeps.mk' {a s : State} (h : Keeps a s)
    {now free ecc cores quarters ctxs allocs nextHandle fills lastA lastB lastPtr loads cache ports dirs link colls nextColl host flt hlt rst shk joining}
    (h1 : Hlt.score hlt = s.hlt.score := by rfl) (h2 : Hlt.hstate hlt = s.hlt.hstate := by rfl) (h3 : Rst.phase rst = s.rst.phase := by rfl)
    (h4 : Rst.kind rst = s.rst.kind := by rfl) (h5 : Rst.retries rst = s.rst.retries := by rfl)
    (h6 : Rst.ledger rst = s.rst.ledger := by rfl) :
    Keeps a (State.mk s.pending now free s.mem ecc cores quarters ctxs allocs nextHandle fills lastA lastB lastPtr loads cache ports dirs link colls nextColl host flt hlt s.pwr rst shk joining s.out) :=
  h.mkOk (hh := fun o => o.hlt.upd h1 h2) (hr := fun o => o.rst.upd h3 h4 h5 h6)

/-- A change of memory that keeps its canonical form. -/
theorem Keeps.updMem {a s : State} (h : Keeps a s) (m : Mem) (hm : Memory.wf s.mem = true → Memory.wf m = true) : Keeps a { s with mem := m } :=
  h.trans ⟨rfl, List.prefix_refl _, fun k => ⟨hm k.mem, k.pwr, k.hlt, k.rst⟩⟩

/-- A change of the supply record that keeps it as it must be. -/
theorem Keeps.updPwr {a s : State} (h : Keeps a s) (p : Pwr) (hp : s.pwr.Ok → p.Ok) : Keeps a { s with pwr := p } :=
  h.trans ⟨rfl, List.prefix_refl _, fun k => ⟨k.mem, hp k.pwr, k.hlt, k.rst⟩⟩

/-- A fold of operations that each keep it. -/
theorem Keeps.foldl {α : Type} {a : State} {f : State → α → State} (hf : ∀ s x, Keeps a s → Keeps a (f s x)) (l : List α) {s : State}
    (h : Keeps a s) : Keeps a (l.foldl f s) := by
  induction l generalizing s with
  | nil => exact h
  | cons x l ih => exact ih (hf _ _ h)

/-- The same for a fold that carries something beside the state. -/
theorem Keeps.foldl1 {α β : Type} {a : State} {f : State × β → α → State × β} (hf : ∀ r x, Keeps a r.1 → Keeps a (f r x).1) (l : List α)
    {r : State × β} (h : Keeps a r.1) : Keeps a (l.foldl f r).1 := by
  induction l generalizing r with
  | nil => exact h
  | cons x l ih => exact ih (hf _ _ h)

/-- A choice between two operations. -/
theorem Keeps.ite {a s t : State} {p : Prop} [Decidable p] (h : Keeps a s) (k : Keeps a t) : Keeps a (if p then s else t) := by
  split <;> assumption

/-- The state of a pair that an operation answers. -/
theorem Keeps.snd {α : Type} {a t : State} {p : α × State} {x : α} (h : Keeps a p.2) (e : p = (x, t)) : Keeps a t := by subst e; exact h
theorem Keeps.fst {α : Type} {a t : State} {p : State × α} {x : α} (h : Keeps a p.1) (e : p = (t, x)) : Keeps a t := by subst e; exact h

theorem State.emit_keeps {a : State} (s : State) (o : Out) (h : Keeps a s) : Keeps a (s.emit o) :=
  h.trans ⟨rfl, List.prefix_append _ _, fun k => ⟨k.mem, k.pwr, k.hlt, k.rst⟩⟩

theorem State.modPwr_keeps {a : State} (s : State) (f : Pwr → Pwr) (h : Keeps a s) (hf : s.Ok → (f s.pwr).Ok) : Keeps a (s.modPwr f) :=
  h.mkOk (hp := hf)

theorem State.modRst_keeps {a : State} (s : State) (f : Rst → Rst) (h : Keeps a s) (hf : s.Ok → (f s.rst).Ok) : Keeps a (s.modRst f) :=
  h.mkOk (hr := hf)

end Sys2Proof.Machine
end

