-- ==== Sys2Proof/Laws/KeepsBase.lean ====
section
/-!
SUPPORT. What every operation keeps, continued: the shared operations over cores, contexts, ports, faults, memory and the host.
-/

set_option Elab.async false

namespace Sys2Proof.Machine

open Sys2Proof

/-! ## Ops -/

theorem State.setCore_keeps {a : State} (x0 : State) (x1 : Nat) (x2 : Core) (h1 : Keeps a x0) : Keeps a (State.setCore x0 x1 x2) := by
  unfold State.setCore
  repeat' first | exact Keeps.mk' (by with_reducible assumption)

theorem State.modCore_keeps {a : State} (x0 : State) (x1 : Nat) (x2 : Core → Core) (h1 : Keeps a x0) : Keeps a (State.modCore x0 x1 x2) := by
  unfold State.modCore
  repeat' first | with_reducible apply h1 | with_reducible apply State.setCore_keeps

theorem State.setCtx_keeps {a : State} (x0 : State) (x1 : Nat) (x2 : Ctx) (h1 : Keeps a x0) : Keeps a (State.setCtx x0 x1 x2) := by
  unfold State.setCtx
  repeat' first | exact Keeps.mk' (by with_reducible assumption)

theorem State.modCtx_keeps {a : State} (x0 : State) (x1 : Nat) (x2 : Ctx → Ctx) (h1 : Keeps a x0) : Keeps a (State.modCtx x0 x1 x2) := by
  unfold State.modCtx
  repeat' first | with_reducible apply h1 | with_reducible apply State.setCtx_keeps

theorem State.setQuarter_keeps {a : State} (x0 : State) (x1 : Nat) (x2 : Quarter) (h1 : Keeps a x0) : Keeps a (State.setQuarter x0 x1 x2) := by
  unfold State.setQuarter
  repeat' first | exact Keeps.mk' (by with_reducible assumption)

theorem State.modQuarter_keeps {a : State} (x0 : State) (x1 : Nat) (x2 : Quarter → Quarter) (h1 : Keeps a x0) : Keeps a
    (State.modQuarter x0 x1 x2) := by
  unfold State.modQuarter
  repeat' first | with_reducible apply h1 | with_reducible apply State.setQuarter_keeps

theorem State.setPort_keeps {a : State} (x0 : State) (x1 : Nat) (x2 : Port) (h1 : Keeps a x0) : Keeps a (State.setPort x0 x1 x2) := by
  unfold State.setPort
  repeat' first | exact Keeps.mk' (by with_reducible assumption)

theorem State.modPort_keeps {a : State} (x0 : State) (x1 : Nat) (x2 : Port → Port) (h1 : Keeps a x0) : Keeps a (State.modPort x0 x1 x2) := by
  unfold State.modPort
  repeat' first | with_reducible apply h1 | with_reducible apply State.setPort_keeps

theorem State.setDir_keeps {a : State} (x0 : State) (x1 : Nat) (x2 : Direc) (h1 : Keeps a x0) : Keeps a (State.setDir x0 x1 x2) := by
  unfold State.setDir
  repeat' first | exact Keeps.mk' (by with_reducible assumption)

theorem State.modDir_keeps {a : State} (x0 : State) (x1 : Nat) (x2 : Direc → Direc) (h1 : Keeps a x0) : Keeps a (State.modDir x0 x1 x2) := by
  unfold State.modDir
  repeat' first | with_reducible apply h1 | with_reducible apply State.setDir_keeps

theorem State.draw_keeps {a : State} (x0 : State) (h1 : Keeps a x0) : Keeps a (State.draw x0).2 := by
  unfold State.draw
  repeat' first | exact Keeps.mk' (by with_reducible assumption)

theorem State.setBytes_keeps {a : State} (s : State) (x : Nat) (bs : List Byte) (h : Keeps a s) : Keeps a (s.setBytes x bs) :=
  h.updMem _ (Memory.wf_write _ _)

theorem State.zero_keeps {a : State} (s : State) (x n : Nat) (h : Keeps a s) : Keeps a (s.zero x n) :=
  h.updMem _ (Memory.wf_wipe _ _)

/-! ## LinkOps -/

theorem State.dropUnreach_keeps {a : State} (x0 : State) (h1 : Keeps a x0) : Keeps a (State.dropUnreach x0) := by
  unfold State.dropUnreach
  repeat' first | exact Keeps.mk' (by with_reducible assumption)

theorem State.dropHoplim_keeps {a : State} (x0 : State) (h1 : Keeps a x0) : Keeps a (State.dropHoplim x0) := by
  unfold State.dropHoplim
  repeat' first | exact Keeps.mk' (by with_reducible assumption)

theorem State.dropProto_keeps {a : State} (x0 : State) (h1 : Keeps a x0) : Keeps a (State.dropProto x0) := by
  unfold State.dropProto
  repeat' first | exact Keeps.mk' (by with_reducible assumption)

theorem State.leaveBuf_keeps {a : State} (x0 : State) (x1 : Nat) (x2 : Nat) (h1 : Keeps a x0) : Keeps a (State.leaveBuf x0 x1 x2) := by
  unfold State.leaveBuf
  repeat' first | with_reducible apply h1 | with_reducible apply State.modPort_keeps | split

theorem State.enqueue_keeps {a : State} (x0 : State) (x1 : Nat) (x2 : Nat) (x3 : EItem) (h1 : Keeps a x0) : Keeps a (State.enqueue x0 x1 x2 x3) := by
  unfold State.enqueue
  repeat' first | with_reducible apply h1 | with_reducible apply State.modPort_keeps

theorem State.enqueueHead_keeps {a : State} (x0 : State) (x1 : Nat) (x2 : Nat) (x3 : List EItem) (h1 : Keeps a x0) : Keeps a
    (State.enqueueHead x0 x1 x2 x3) := by
  unfold State.enqueueHead
  repeat' first | with_reducible apply h1 | with_reducible apply State.modPort_keeps

theorem State.sendIn_keeps {a : State} (x0 : State) (x1 : Nat) (x2 : Option Nat) (x3 : Option Nat) (x4 : Flit) (h1 : Keeps a x0) : Keeps a
    (State.sendIn x0 x1 x2 x3 x4) := by
  unfold State.sendIn
  repeat' first
    | with_reducible apply h1 | with_reducible apply State.leaveBuf_keeps | with_reducible apply State.dropUnreach_keeps
    | with_reducible apply State.enqueue_keeps | with_reducible apply State.modDir_keeps | split

theorem State.sendFlit_keeps {a : State} (x0 : State) (x1 : Option Nat) (x2 : Flit) (h1 : Keeps a x0) : Keeps a (State.sendFlit x0 x1 x2) := by
  unfold State.sendFlit
  repeat' first
    | with_reducible apply h1 | with_reducible apply State.leaveBuf_keeps | with_reducible apply State.dropUnreach_keeps
    | with_reducible apply State.dropHoplim_keeps | with_reducible apply State.sendIn_keeps | split

theorem sendAll_keeps {a : State} (send : State → Flit → State) (s : State) (fs : List Flit) (k : ∀ s f, Keeps a s → Keeps a (send s f))
    (h : Keeps a s) :
    Keeps a (sendAll send s fs) := by
  induction fs generalizing s with
  | nil => exact h
  | cons f fs ih => exact ih _ (k _ _ h)

theorem State.sendMsg_keeps {a : State} (x0 : State) (x1 : Nat) (x2 : Nat) (x3 : BitVec 16) (x4 : BitVec 32) (x5 : BitVec 64)
    (x6 : BitVec 64) (x7 : BitVec 64) (x8 : BitVec 64) (x9 : List (BitVec 64)) (h1 : Keeps a x0) : Keeps a
    (State.sendMsg x0 x1 x2 x3 x4 x5 x6 x7 x8 x9) := by
  unfold State.sendMsg
  repeat' first
    | with_reducible apply sendAll_keeps | with_reducible apply State.sendFlit_keeps | exact Keeps.mk' (by with_reducible assumption)
    | intro _ | split

theorem State.sendMsgIn_keeps {a : State} (x0 : State) (x1 : Nat) (x2 : Option Nat) (x3 : Nat) (x4 : Nat) (x5 : BitVec 32) (x6 : BitVec 64)
    (x7 : BitVec 64) (x8 : BitVec 64) (x9 : BitVec 64) (x10 : List (BitVec 64)) (h1 : Keeps a x0) : Keeps a
    (State.sendMsgIn x0 x1 x2 x3 x4 x5 x6 x7 x8 x9 x10) := by
  unfold State.sendMsgIn
  repeat' first | with_reducible apply h1 | with_reducible apply sendAll_keeps | with_reducible apply State.sendIn_keeps | intro _

theorem State.sendLinkctl_keeps {a : State} (x0 : State) (x1 : Nat) (x2 : List (BitVec 64)) (h1 : Keeps a x0) : Keeps a
    (State.sendLinkctl x0 x1 x2) := by
  unfold State.sendLinkctl
  repeat' first | with_reducible apply h1 | with_reducible apply State.modPort_keeps

/-! ## FaultOps -/

theorem State.mgmtSend_keeps {a : State} (x0 : State) (x1 : Nat) (x2 : Nat) (x3 : Nat) (x4 : List Byte) (h1 : Keeps a x0) : Keeps a
    (State.mgmtSend x0 x1 x2 x3 x4) := by
  unfold State.mgmtSend
  repeat' first | with_reducible apply h1 | with_reducible apply State.emit_keeps

theorem State.modRecord_keeps {a : State} (x0 : State) (x1 : Nat) (x2 : FRec → FRec) (h1 : Keeps a x0) : Keeps a (State.modRecord x0 x1 x2) := by
  unfold State.modRecord
  repeat' first | exact Keeps.mk' (by with_reducible assumption)

theorem State.report_keeps {a : State} (x0 : State) (x1 : Nat) (x2 : Nat) (x3 : List Byte) (h1 : Keeps a x0) : Keeps a
    (State.report x0 x1 x2 x3) := by
  unfold State.report
  repeat' first | with_reducible apply h1 | with_reducible apply State.mgmtSend_keeps

theorem State.judgeOnce_keeps {a : State} (x0 : State) (h1 : Keeps a x0) : Keeps a x0.judgeOnce := by
  have k : ∀ h : Hlt, h.score = x0.hlt.score → h.hstate ≤ 1 → Keeps a { x0 with hlt := h } := fun h e f =>
    h1.mkOk (hh := fun o => ⟨e ▸ o.hlt.score, by omega⟩)
  unfold State.judgeOnce
  dsimp only
  split
  · split
    · exact State.report_keeps _ _ _ _ (k _ rfl (Nat.le_refl 1))
    · exact h1
  · split
    · rename_i e
      have e : x0.hlt.hstate = 1 := by simpa using e
      repeat' split
      · exact State.report_keeps _ _ _ _ (k _ rfl (Nat.zero_le 1))
      · exact k _ rfl (by simp [e])
      · exact h1
      · exact State.report_keeps _ _ _ _ (k _ rfl (by simp [e]))
      · exact k _ rfl (by simp [e])
    · exact h1

theorem State.judge_keeps {a : State} (x0 : State) (h1 : Keeps a x0) : Keeps a x0.judge :=
  State.judgeOnce_keeps _ (State.judgeOnce_keeps _ h1)

theorem State.penalise_keeps {a : State} (x0 : State) (x1 : Nat) (x2 : Nat) (x3 : Option Nat) (h1 : Keeps a x0) : Keeps a (x0.penalise x1 x2 x3) := by
  have k : ∀ n l, Keeps a ({ x0 with hlt := { x0.hlt with score := x0.hlt.score - n, charged := l } }).judge := fun n l =>
    State.judge_keeps _ (h1.mkOk (hh := fun o => ⟨Nat.le_trans (Nat.sub_le ..) o.hlt.score, o.hlt.hstate⟩))
  unfold State.penalise
  dsimp only
  split <;> split
  · exact h1
  · exact k _ _
  · exact h1
  · exact k _ _

theorem State.note24_keeps {a : State} (x0 : State) (x1 : Nat) (h1 : Keeps a x0) : Keeps a (State.note24 x0 x1) := by
  unfold State.note24
  repeat' first | exact Keeps.mk' (by with_reducible assumption)

theorem State.expel_keeps {a : State} (x0 : State) (x1 : Nat) (h1 : Keeps a x0) : Keeps a (x0.expel x1) := by
  unfold State.expel
  split
  · exact h1
  · exact State.report_keeps _ _ _ _ (h1.mkOk (hh := fun o => ⟨o.hlt.score, Nat.le_refl 2⟩))

theorem State.modSeen_keeps {a : State} (x0 : State) (x1 : BitVec 16) (x2 : BitVec 32) (x3 : Seen → Seen) (h1 : Keeps a x0) : Keeps a
    (State.modSeen x0 x1 x2 x3) := by
  unfold State.modSeen
  repeat' first | exact Keeps.mk' (by with_reducible assumption)

theorem State.enterSeen_keeps {a : State} (x0 : State) (x1 : Seen) (h1 : Keeps a x0) : Keeps a (State.enterSeen x0 x1) := by
  unfold State.enterSeen
  repeat' first | exact Keeps.mk' (by with_reducible assumption)

theorem State.sendAborts_keeps {a : State} (x0 : State) (x1 : Option Nat) (x2 : BitVec 64) (x3 : BitVec 64) (h1 : Keeps a x0) : Keeps a
    (State.sendAborts x0 x1 x2 x3) := by
  unfold State.sendAborts
  repeat' first
    | with_reducible assumption | with_reducible apply State.sendMsgIn_keeps | with_reducible apply Keeps.foldl | intro _ | split

theorem State.originate_keeps {a : State} (x0 : State) (x1 : Nat) (x2 : Nat) (x3 : BitVec 16) (h1 : Keeps a x0) : Keeps a
    (State.originate x0 x1 x2 x3) := by
  unfold State.originate
  repeat' first
    | with_reducible apply h1 | with_reducible apply State.sendAborts_keeps | with_reducible apply State.enterSeen_keeps | split
    | dsimp only

theorem State.commitRec_keeps {a : State} (x0 : State) (x1 : FRec) (h1 : Keeps a x0) : Keeps a (State.commitRec x0 x1) := by
  unfold State.commitRec
  repeat' first | exact Keeps.mk' (by with_reducible assumption)

theorem State.classHealth_keeps {a : State} (x0 : State) (x1 : FRec) (h1 : Keeps a x0) : Keeps a (State.classHealth x0 x1) := by
  unfold State.classHealth
  repeat' first
    | with_reducible apply h1 | with_reducible apply State.penalise_keeps | with_reducible apply State.note24_keeps
    | with_reducible apply State.expel_keeps | split | dsimp only

theorem State.openDump_keeps {a : State} (x0 : State) (h1 : Keeps a x0) : Keeps a (State.openDump x0) := by
  unfold State.openDump
  repeat' first | exact Keeps.mk' (by with_reducible assumption) | split

theorem State.abandonEntry_keeps {a : State} (x0 : State) (h1 : Keeps a x0) : Keeps a (State.abandonEntry x0) :=
  .ite h1 (h1.updPwr _ fun o => o.upd (entering := fun _ _ e => by cases e))

theorem State.govPeriod_keeps {a : State} (x0 : State) (h1 : Keeps a x0) : Keeps a (State.govPeriod x0) :=
  Keeps.mkOk (s := x0) h1 (hp := fun o => o.pwr.upd (hist := fun _ => Nat.min_le_left ..))

theorem State.fatal_keeps {a : State} (x0 : State) (x1 : FRec) (h1 : Keeps a x0) : Keeps a (State.fatal x0 x1) := by
  have h2 := State.abandonEntry_keeps x0 h1
  unfold State.fatal
  generalize x0.abandonEntry = y at h2 ⊢
  repeat' first
    | with_reducible apply State.classHealth_keeps | with_reducible apply State.originate_keeps | with_reducible apply State.openDump_keeps
    | exact Keeps.mk' (by with_reducible assumption) | split | fail_if_no_progress (refine Keeps.mk' ?_)

theorem State.illegal_keeps {a : State} (x0 : State) (x1 : Nat) (h1 : Keeps a x0) : Keeps a (State.illegal x0 x1) := by
  unfold State.illegal
  repeat' first | with_reducible apply h1 | with_reducible apply State.fatal_keeps

theorem State.illegalTask_keeps {a : State} (x0 : State) (x1 : Nat) (x2 : Nat) (x3 : BitVec 32) (h1 : Keeps a x0) : Keeps a
    (State.illegalTask x0 x1 x2 x3) := by
  unfold State.illegalTask
  repeat' first | with_reducible apply h1 | with_reducible apply State.fatal_keeps

/-! ## MemOps -/

theorem State.modEcc_keeps {a : State} (x0 : State) (x1 : Ecc → Ecc) (h1 : Keeps a x0) : Keeps a (State.modEcc x0 x1) := by
  unfold State.modEcc
  repeat' first | exact Keeps.mk' (by with_reducible assumption)

theorem State.remap_keeps {a : State} (x0 : State) (x1 : Nat) (x2 : Nat) (h1 : Keeps a x0) : Keeps a (State.remap x0 x1 x2) := by
  unfold State.remap
  repeat' first
    | with_reducible apply h1 | with_reducible apply State.modEcc_keeps | with_reducible apply State.penalise_keeps
    | with_reducible apply State.note24_keeps | split | dsimp only

theorem State.setBad_keeps {a : State} (x0 : State) (x1 : Nat) (x2 : Nat) (h1 : Keeps a x0) : Keeps a (State.setBad x0 x1 x2) := by
  unfold State.setBad
  repeat' first | with_reducible apply h1 | with_reducible apply State.modEcc_keeps

theorem State.applyUpsets_keeps {a : State} (x0 : State) (x1 : List Upset) (h1 : Keeps a x0) : Keeps a (State.applyUpsets x0 x1) := by
  unfold State.applyUpsets
  repeat' first | with_reducible apply h1 | with_reducible apply State.setBad_keeps | with_reducible apply Keeps.foldl | intro _

theorem State.eccLast_keeps {a : State} (x0 : State) (x1 : Nat) (x2 : Nat) (x3 : Nat) (h1 : Keeps a x0) : Keeps a (State.eccLast x0 x1 x2 x3) := by
  unfold State.eccLast
  repeat' first | with_reducible apply h1 | with_reducible apply State.modEcc_keeps

theorem State.eccSingle_keeps {a : State} (x0 : State) (x1 : Nat) (x2 : Nat) (h1 : Keeps a x0) : Keeps a (x0.eccSingle x1 x2) := by
  have k2 : ∀ s : State, Keeps a s → Keeps a (if s.hlt.rem1024 + 1 ≥ 1024 then { s with hlt := { s.hlt with rem1024 := 0 } }.penalise 0 1 (some 4)
    else { s with hlt := { s.hlt with rem1024 := s.hlt.rem1024 + 1 } }) := fun s h => by
    split
    · exact State.penalise_keeps _ _ _ _ (h.mk')
    · exact h.mk'
  have k3 := fun f => State.modEcc_keeps _ f (k2 _ (State.modEcc_keeps _ (fun e => if inT1 x1 then { e with single1 := satAdd 32 e.single1 1 } else { e with single2 := satAdd 32 e.single2 1 })
    (State.eccLast_keeps _ x1 1 x2 (State.setBad_keeps _ x1 0 h1))))
  unfold State.eccSingle
  refine Keeps.ite ?_ ?_
  · exact State.remap_keeps _ _ _ (k3 _)
  · exact k3 _

theorem State.eccDouble_keeps {a : State} (x0 : State) (x1 : Nat) (x2 : Nat) (h1 : Keeps a x0) : Keeps a (State.eccDouble x0 x1 x2) := by
  unfold State.eccDouble
  repeat' first
    | with_reducible apply h1 | with_reducible apply State.eccLast_keeps | with_reducible apply State.setBad_keeps
    | with_reducible apply State.modEcc_keeps | with_reducible apply State.remap_keeps | with_reducible apply State.penalise_keeps
    | with_reducible apply State.note24_keeps

theorem State.eccUncorr_keeps {a : State} (x0 : State) (x1 : Nat) (x2 : Nat) (h1 : Keeps a x0) : Keeps a (State.eccUncorr x0 x1 x2) := by
  unfold State.eccUncorr
  repeat' first
    | with_reducible apply h1 | with_reducible apply State.eccLast_keeps | with_reducible apply State.modEcc_keeps
    | with_reducible apply State.penalise_keeps | with_reducible apply State.note24_keeps | with_reducible apply State.expel_keeps | split
    | dsimp only

theorem State.eccChange_keeps {a : State} (x0 : State) (x1 : Nat) (h1 : Keeps a x0) : Keeps a (State.eccChange x0 x1) := by
  unfold State.eccChange
  repeat' first
    | with_reducible apply h1 | with_reducible apply State.draw_keeps | with_reducible apply State.setBytes_keeps
    | with_reducible apply State.setBad_keeps

theorem State.meetWord_keeps {a : State} (x0 : State) (x1 : Nat) (x2 : Nat) (h1 : Keeps a x0) : Keeps a (State.meetWord x0 x1 x2).2 := by
  unfold State.meetWord
  repeat' first
    | with_reducible apply h1 | with_reducible apply State.eccSingle_keeps | with_reducible apply State.eccDouble_keeps
    | with_reducible apply State.eccUncorr_keeps | with_reducible apply State.draw_keeps | with_reducible apply State.eccChange_keeps
    | with_reducible apply State.penalise_keeps | with_reducible apply State.modEcc_keeps
    | refine Keeps.snd ?_ (by with_reducible assumption) | split | dsimp only

theorem State.meetWords_keeps {a : State} (x0 : State) (x1 : Nat) (x2 : List Nat) (h1 : Keeps a x0) : Keeps a (x0.meetWords x1 x2).2 := by
  induction x2 generalizing x0 with
  | nil => exact h1
  | cons w ws ih =>
    have k := State.meetWord_keeps _ w x1 h1
    unfold State.meetWords
    split <;> rename_i e <;> rw [e] at k
    · exact ih _ k
    · exact k

theorem State.straggle_keeps {a : State} (x0 : State) (x1 : Nat) (h1 : Keeps a x0) : Keeps a (State.straggle x0 x1) := by
  unfold State.straggle
  repeat' first | exact Keeps.mk' (by with_reducible assumption)

theorem State.load_keeps {a : State} (x0 : State) (x1 : Nat) (x2 : Nat) (h1 : Keeps a x0) : Keeps a (State.load x0 x1 x2).2 := by
  unfold State.load
  repeat' first
    | with_reducible apply h1 | with_reducible apply State.straggle_keeps | with_reducible apply State.meetWords_keeps
    | refine Keeps.snd ?_ (by with_reducible assumption) | split

theorem State.inject_keeps {a : State} (x0 : State) (x1 : Nat) (x2 : Nat) (h1 : Keeps a x0) : Keeps a (State.inject x0 x1 x2) := by
  unfold State.inject
  repeat' first | with_reducible apply h1 | with_reducible apply State.setBad_keeps | with_reducible apply State.modEcc_keeps | split

theorem State.afterStore_keeps {a : State} (x0 : State) (x1 : Nat) (x2 : Nat) (h1 : Keeps a x0) : Keeps a (State.afterStore x0 x1 x2) := by
  unfold State.afterStore
  repeat' first | with_reducible apply h1 | with_reducible apply State.inject_keeps | with_reducible apply State.modEcc_keeps

theorem State.store_keeps {a : State} (x0 : State) (x1 : Nat) (x2 : List Byte) (h1 : Keeps a x0) : Keeps a (State.store x0 x1 x2).2 := by
  unfold State.store
  repeat' first
    | with_reducible apply h1 | with_reducible apply State.straggle_keeps | with_reducible apply State.meetWords_keeps
    | with_reducible apply State.afterStore_keeps | with_reducible apply State.setBytes_keeps
    | refine Keeps.snd ?_ (by with_reducible assumption) | split

theorem State.fill_keeps {a : State} (x0 : State) (x1 : Nat) (x2 : Nat) (h1 : Keeps a x0) : Keeps a (State.fill x0 x1 x2) := by
  unfold State.fill
  repeat' first | with_reducible apply h1 | with_reducible apply State.afterStore_keeps | with_reducible apply State.zero_keeps

theorem State.uncorrFault_keeps {a : State} (x0 : State) (x1 : Nat) (x2 : Nat) (x3 : Nat) (x4 : Option (Nat × BitVec 32))
    (h1 : Keeps a x0) : Keeps a (State.uncorrFault x0 x1 x2 x3 x4) := by
  unfold State.uncorrFault
  repeat' first | with_reducible apply h1 | with_reducible apply State.fatal_keeps

theorem State.noteReplays_keeps {a : State} (x0 : State) (x1 : Nat) (h1 : Keeps a x0) : Keeps a (State.noteReplays x0 x1) := by
  unfold State.noteReplays
  repeat' first
    | with_reducible apply State.penalise_keeps | exact Keeps.mk' (by with_reducible assumption) | split | dsimp only
    | fail_if_no_progress (refine Keeps.mk' ?_)

theorem State.cross_keeps {a : State} (x0 : State) (x1 : Nat) (x2 : Nat) (x3 : Nat) (x4 : Nat) (x5 : Option (Nat × BitVec 32))
    (x6 : State → State) (h1 : Keeps a x0) (k7 : ∀ (y0 : State), Keeps a y0 → Keeps a (x6 y0)) : Keeps a
    (State.cross x0 x1 x2 x3 x4 x5 x6) := by
  unfold State.cross
  repeat' first
    | with_reducible apply h1 | with_reducible apply k7 | with_reducible apply State.noteReplays_keeps
    | with_reducible apply State.uncorrFault_keeps | split

theorem State.addUsed_keeps {a : State} (x0 : State) (x1 : Nat) (x2 : Nat) (x3 : Nat) (h1 : Keeps a x0) : Keeps a (State.addUsed x0 x1 x2 x3) := by
  unfold State.addUsed
  repeat' first | with_reducible apply h1 | with_reducible apply State.modCtx_keeps

theorem State.subUsed_keeps {a : State} (x0 : State) (x1 : Nat) (x2 : Nat) (x3 : Nat) (h1 : Keeps a x0) : Keeps a (State.subUsed x0 x1 x2 x3) := by
  unfold State.subUsed
  repeat' first | with_reducible apply h1 | with_reducible apply State.modCtx_keeps

theorem State.addAlloc_keeps {a : State} (x0 : State) (x1 : Nat) (x2 : Nat) (x3 : Nat) (x4 : Nat) (h1 : Keeps a x0) : Keeps a
    (State.addAlloc x0 x1 x2 x3 x4) := by
  unfold State.addAlloc
  repeat' first | exact Keeps.mk' (by with_reducible assumption) | split | fail_if_no_progress (refine Keeps.mk' ?_)

theorem State.startFill_keeps {a : State} (x0 : State) (x1 : Nat) (x2 : Nat) (x3 : Nat) (x4 : Option (Nat × BitVec 16)) (x5 : Option Nat)
    (h1 : Keeps a x0) : Keeps a (State.startFill x0 x1 x2 x3 x4 x5) := by
  unfold State.startFill
  repeat' first | exact Keeps.mk' (by with_reducible assumption)

theorem State.undefBytes_keeps {a : State} (x0 : State) (x1 : Nat) (x2 : Nat) (h1 : Keeps a x0) : Keeps a (State.undefBytes x0 x1 x2) := by
  unfold State.undefBytes
  repeat' first | with_reducible apply h1 | with_reducible apply State.draw_keeps | with_reducible apply State.setBytes_keeps

theorem State.scramble_keeps {a : State} (x0 : State) (x1 : Nat) (x2 : Nat) (h1 : Keeps a x0) : Keeps a (State.scramble x0 x1 x2) := by
  unfold State.scramble
  repeat' first
    | with_reducible apply h1 | with_reducible apply State.undefBytes_keeps | with_reducible apply State.inject_keeps

/-! ## HostOps -/

theorem State.modHost_keeps {a : State} (x0 : State) (x1 : HostSt → HostSt) (h1 : Keeps a x0) : Keeps a (State.modHost x0 x1) := by
  unfold State.modHost
  repeat' first | exact Keeps.mk' (by with_reducible assumption)

theorem State.setOwner_keeps {a : State} (x0 : State) (x1 : Nat) (x2 : Nat) (h1 : Keeps a x0) : Keeps a (State.setOwner x0 x1 x2) := by
  unfold State.setOwner
  repeat' first | with_reducible apply h1 | with_reducible apply State.modHost_keeps | split | dsimp only

theorem State.faultPage_keeps {a : State} (x0 : State) (x1 : Nat) (h1 : Keeps a x0) : Keeps a (State.faultPage x0 x1) := by
  unfold State.faultPage
  repeat' first | with_reducible apply h1 | with_reducible apply State.modHost_keeps | with_reducible apply State.setOwner_keeps | split

theorem State.devWrite_keeps {a : State} (x0 : State) (x1 : Nat) (x2 : Nat) (x3 : List Byte) (h1 : Keeps a x0) : Keeps a
    (x0.devWrite x1 x2 x3).2 := by
  induction x1 generalizing x0 x2 x3 with
  | zero => exact h1
  | succ n ih =>
    unfold State.devWrite
    have k : Keeps a (if (inWindow x2 && (x0.page (pageOf x2)).owner != 2) = true then
          (none, if ((x0.page (pageOf x2)).owner == 0) = true then x0 else x0.faultPage (pageOf x2))
        else x0.store x2 (x3.take (pagePart x2 x3.length))).2 := by
      split
      · exact .ite h1 (State.faultPage_keeps _ _ h1)
      · exact State.store_keeps _ _ _ h1
    split
    · exact h1
    · dsimp only
      split <;> rename_i e <;> rw [e] at k
      · exact k
      · exact ih _ _ _ k

theorem State.write_keeps {a : State} (x0 : State) (x1 : Nat) (x2 : List Byte) (h1 : Keeps a x0) : Keeps a (State.write x0 x1 x2).2 := by
  unfold State.write
  repeat' first | with_reducible apply h1 | with_reducible apply State.devWrite_keeps

theorem State.writeFor_keeps {a : State} (x0 : State) (x1 : Nat) (x2 : Nat) (x3 : List Byte) (h1 : Keeps a x0) : Keeps a
    (State.writeFor x0 x1 x2 x3).2 := by
  unfold State.writeFor
  repeat' first | with_reducible apply h1 | with_reducible apply State.illegal_keeps | with_reducible apply State.write_keeps | split

theorem State.modCHost_keeps {a : State} (x0 : State) (x1 : Nat) (x2 : CtxHost → CtxHost) (h1 : Keeps a x0) : Keeps a (State.modCHost x0 x1 x2) := by
  unfold State.modCHost
  repeat' first | with_reducible apply h1 | with_reducible apply State.modCtx_keeps

theorem State.finishWith_keeps {a : State} (x0 : State) (x1 : Nat) (x2 : Nat) (x3 : BitVec 16) (x4 : Nat) (x5 : BitVec 64) (x6 : BitVec 64)
    (x7 : Bool) (x8 : List Byte) (h1 : Keeps a x0) : Keeps a (State.finishWith x0 x1 x2 x3 x4 x5 x6 x7 x8) := by
  unfold State.finishWith
  repeat' first | with_reducible apply h1 | with_reducible apply State.modCHost_keeps | split

theorem State.finish_keeps {a : State} (x0 : State) (x1 : Nat) (x2 : Nat) (x3 : BitVec 16) (x4 : Nat) (x5 : Nat) (x6 : Nat)
    (h1 : Keeps a x0) : Keeps a (State.finish x0 x1 x2 x3 x4 x5 x6) := by
  unfold State.finish
  repeat' first | with_reducible apply h1 | with_reducible apply State.finishWith_keeps

theorem State.command_keeps {a : State} (x0 : State) (x1 : Nat) (x2 : Nat) (x3 : BitVec 16) (x4 : Cmd → State → State) (h1 : Keeps a x0)
    (k5 : ∀ (y0 : Cmd) (y1 : State), Keeps a y1 → Keeps a (x4 y0 y1)) : Keeps a (State.command x0 x1 x2 x3 x4) := by
  unfold State.command
  repeat' first | with_reducible apply h1 | with_reducible apply k5 | with_reducible apply State.modCHost_keeps | split

theorem State.commandIf_keeps {a : State} (x0 : State) (x1 : Nat) (x2 : Nat) (x3 : BitVec 16) (x4 : Cmd → Bool) (x5 : Cmd → State → State)
    (h1 : Keeps a x0) (k6 : ∀ (y0 : Cmd) (y1 : State), Keeps a y1 → Keeps a (x5 y0 y1)) : Keeps a (State.commandIf x0 x1 x2 x3 x4 x5) := by
  unfold State.commandIf
  repeat' first | with_reducible apply h1 | with_reducible apply k6 | with_reducible apply State.command_keeps | split

theorem State.notifySend_keeps {a : State} (x0 : State) (x1 : Nat) (x2 : List Byte) (h1 : Keeps a x0) : Keeps a (State.notifySend x0 x1 x2) := by
  unfold State.notifySend
  repeat' first | with_reducible apply h1 | with_reducible apply State.emit_keeps | split | dsimp only

theorem State.postRing_keeps {a : State} (x0 : State) (x1 : Nat) (x2 : Comp) (h1 : Keeps a x0) : Keeps a (State.postRing x0 x1 x2) := by
  unfold State.postRing
  repeat' first
    | with_reducible apply h1 | with_reducible apply State.modHost_keeps | with_reducible apply State.notifySend_keeps
    | with_reducible apply State.modCHost_keeps

theorem State.keepComp_keeps {a : State} (x0 : State) (x1 : Comp) (x2 : List Byte) (h1 : Keeps a x0) : Keeps a (State.keepComp x0 x1 x2) := by
  unfold State.keepComp
  repeat' first | with_reducible apply h1 | with_reducible apply State.modHost_keeps

theorem State.postMgmt_keeps {a : State} (x0 : State) (x1 : Comp) (h1 : Keeps a x0) : Keeps a (State.postMgmt x0 x1) := by
  unfold State.postMgmt
  repeat' first
    | with_reducible apply h1 | with_reducible apply State.mgmtSend_keeps | with_reducible apply State.keepComp_keeps | split | dsimp only

theorem State.post_keeps {a : State} (x0 : State) (x1 : Nat) (x2 : Comp) (h1 : Keeps a x0) : Keeps a (State.post x0 x1 x2) := by
  unfold State.post
  repeat' first | with_reducible apply h1 | with_reducible apply State.postMgmt_keeps | with_reducible apply State.postRing_keeps | split

theorem State.postAll_keeps {a : State} (x0 : State) (x1 : Nat) (x2 : Nat) (h1 : Keeps a x0) : Keeps a (x0.postAll x1 x2) := by
  induction x2 generalizing x0 with
  | zero => exact h1
  | succ k ih =>
    unfold State.postAll
    split
    · exact h1
    · exact Keeps.ite (ih _ (State.post_keeps _ _ _ (State.modCHost_keeps _ _ _ h1))) h1

theorem State.endAll_keeps {a : State} (x0 : State) (x1 : Nat) (x2 : Nat) (x3 : BitVec 64) (h1 : Keeps a x0) : Keeps a
    (State.endAll x0 x1 x2 x3) := by
  unfold State.endAll
  repeat' first | with_reducible apply h1 | with_reducible apply State.modCHost_keeps

/-! ## Abort -/

theorem State.withMsg_keeps {a : State} (x0 : State) (x1 : Nat) (x2 : Nat) (x3 : Msg → State → State) (h1 : Keeps a x0) (k4 : ∀ (y0 : Msg) (y1 : State), Keeps a y1 → Keeps a (x3 y0 y1)) : Keeps a
    (State.withMsg x0 x1 x2 x3) := by
  unfold State.withMsg
  repeat' first | with_reducible apply k4 | exact Keeps.mk' (by with_reducible assumption) | split

theorem execAbortReceive_keeps {a t : State} (x0 : Nat) (x1 : State) (h1 : Keeps a x1) (e : execAbortReceive x0 x1 = .next t) : Keeps a t := by
  unfold execAbortReceive at e
  cases e
  repeat' first
    | with_reducible assumption | with_reducible apply State.withMsg_keeps | with_reducible apply State.enterSeen_keeps
    | with_reducible apply State.fatal_keeps | with_reducible apply State.sendAborts_keeps | with_reducible apply State.modSeen_keeps
    | intro _ | split | dsimp only

theorem execTallyReceive_keeps {a t : State} (x0 : Nat) (x1 : State) (h1 : Keeps a x1) (e : execTallyReceive x0 x1 = .next t) : Keeps a t := by
  unfold execTallyReceive at e
  cases e
  repeat' first | with_reducible apply h1 | with_reducible apply State.withMsg_keeps | with_reducible apply State.modSeen_keeps | intro _

theorem State.settleKey_keeps {a : State} (x0 : State) (x1 : Nat) (h1 : Keeps a x0) : Keeps a (State.settleKey x0 x1) := by
  unfold State.settleKey
  repeat' first
    | with_reducible apply h1 | with_reducible apply State.modSeen_keeps | with_reducible apply State.sendMsg_keeps | split | dsimp only

theorem execTallyTimer_keeps {a t : State} (x0 : Nat) (x1 : State) (h1 : Keeps a x1) (e : execTallyTimer x0 x1 = .next t) : Keeps a t := by
  unfold execTallyTimer at e
  cases e
  repeat' first
    | with_reducible apply State.settleKey_keeps | exact Keeps.mk' (by with_reducible assumption) | split
    | fail_if_no_progress (refine Keeps.mk' ?_)

theorem State.endCommands_keeps {a : State} (x0 : State) (x1 : Nat) (x2 : BitVec 64) (h1 : Keeps a x0) : Keeps a (x0.endCommands x1 x2) :=
  Keeps.foldl (fun _ _ h => State.postAll_keeps _ _ _ (State.endAll_keeps _ _ _ _ h)) _ h1

theorem State.setTally_keeps {a : State} (x0 : State) (x1 : BitVec 16) (x2 : BitVec 32) (x3 : Nat) (h1 : Keeps a x0) : Keeps a
    (State.setTally x0 x1 x2 x3) := by
  unfold State.setTally
  repeat' first | with_reducible apply h1 | with_reducible apply State.modRecord_keeps | with_reducible apply Keeps.foldl | intro _

theorem State.tellKey_keeps {a : State} (x0 : State) (x1 : Nat) (h1 : Keeps a x0) : Keeps a (State.tellKey x0 x1) := by
  unfold State.tellKey
  repeat' first
    | with_reducible apply State.report_keeps | with_reducible apply State.setTally_keeps | exact Keeps.mk' (by with_reducible assumption)
    | split | dsimp only

theorem execFaultReportTimer_keeps {a t : State} (x0 : Nat) (x1 : State) (h1 : Keeps a x1) (e : execFaultReportTimer x1 x0 = .next t) :
    Keeps a t := by
  have k : ∀ f c, Keeps a (State.endCommands { x1 with flt := f } 0x222 c) := fun f c => State.endCommands_keeps _ _ _ h1.mk'
  simp only [execFaultReportTimer, Host.Outcome.next.injEq] at e
  subst e
  split
  · exact State.tellKey_keeps _ _ (.ite (.ite (k _ _) (State.modRecord_keeps _ _ _ (k _ _))) h1)
  · exact h1

theorem State.endRegion_keeps {a : State} (x0 : State) (x1 : Nat) (x2 : List Byte) (h1 : Keeps a x0) : Keeps a (State.endRegion x0 x1 x2) := by
  unfold State.endRegion
  repeat' first
    | with_reducible apply State.openDump_keeps | exact Keeps.mk' (by with_reducible assumption) | split
    | fail_if_no_progress (refine Keeps.mk' ?_)

theorem execDumpRegionComplete_keeps {a t : State} (x0 : List Byte) (x1 : State) (h1 : Keeps a x1)
    (e : execDumpRegionComplete x0 x1 = .next t) : Keeps a t := by
  unfold execDumpRegionComplete at e
  cases e
  repeat' first | with_reducible apply h1 | with_reducible apply State.endRegion_keeps

theorem execDumpRegionTimeout_keeps {a t : State} (x0 : Bool) (x1 : List Byte) (x2 : State) (h1 : Keeps a x2)
    (e : execDumpRegionTimeout x0 x1 x2 = .next t) : Keeps a t := by
  unfold execDumpRegionTimeout at e
  cases e
  repeat' first | with_reducible apply h1 | with_reducible apply State.endRegion_keeps

theorem State.dumpIncomplete_keeps {a : State} (x0 : State) (x1 : Bool) (x2 : Bool) (h1 : Keeps a x0) : Keeps a (State.dumpIncomplete x0 x1 x2) := by
  unfold State.dumpIncomplete
  repeat' first | with_reducible apply h1 | with_reducible apply State.fatal_keeps

theorem State.closeDump_keeps {a : State} (x0 : State) (x1 : Bool) (x2 : Bool) (h1 : Keeps a x0) : Keeps a (State.closeDump x0 x1 x2) := by
  unfold State.closeDump
  repeat' first
    | with_reducible apply State.dumpIncomplete_keeps | exact Keeps.mk' (by with_reducible assumption) | split | dsimp only
    | fail_if_no_progress (refine Keeps.mk' ?_)

theorem execDumpEnd_keeps {a t : State} (x0 : Bool) (x1 : State) (h1 : Keeps a x1) (e : execDumpEnd x0 x1 = .next t) : Keeps a t := by
  unfold execDumpEnd at e
  cases e
  repeat' first | with_reducible apply h1 | with_reducible apply State.closeDump_keeps | with_reducible apply State.openDump_keeps | split

theorem execDumpRead_keeps {a t : State} (x0 : Tag) (x1 : State) (h1 : Keeps a x1) (e : execDumpRead x0 x1 = .next t) : Keeps a t := by
  unfold execDumpRead at e
  cases e
  repeat' first
    | with_reducible apply State.command_keeps | exact Keeps.mk' (by with_reducible assumption) | intro _ | split | dsimp only
    | fail_if_no_progress (refine Keeps.mk' ?_)

theorem State.dumpPage_keeps {a : State} (x0 x1 x2 x3 : Nat) (x4 : State) (x5 : Nat) (h1 : Keeps a x4) :
    Keeps a (State.dumpPage x0 x1 x2 x3 x4 x5) := by
  unfold State.dumpPage
  repeat' first | with_reducible apply h1 | with_reducible apply State.write_keeps | with_reducible apply State.setOwner_keeps | split

theorem execDumpReadComplete_keeps {a t : State} (x0 : State) (replays : Nat) (h1 : Keeps a x0) (e : execDumpReadComplete x0 replays = .next t) : Keeps a t := by
  unfold execDumpReadComplete at e
  cases e
  repeat' first
    | with_reducible apply h1 | with_reducible apply State.cross_keeps | with_reducible apply State.finish_keeps
    | with_reducible apply State.dumpPage_keeps | with_reducible apply Keeps.foldl | with_reducible assumption
    | exact Keeps.mk' (by with_reducible assumption) | intro _ | split

theorem execHealthScoreTick_keeps {a t : State} (x0 : State) (h1 : Keeps a x0) (e : execHealthScoreTick x0 = .next t) : Keeps a t := by
  cases e
  split
  · exact State.judge_keeps _ (h1.mkOk (hh := fun o => ⟨Nat.min_le_left .., o.hlt.hstate⟩))
  · exact h1

theorem execExpulsionRequestRepeat_keeps {a t : State} (x0 : State) (h1 : Keeps a x0) (e : execExpulsionRequestRepeat x0 = .next t) : Keeps a t := by
  unfold execExpulsionRequestRepeat at e
  cases e
  repeat' first | with_reducible apply h1 | with_reducible apply State.report_keeps | split

theorem execHintHoldExpiry_keeps {a t : State} (x0 : State) (h1 : Keeps a x0) (e : execHintHoldExpiry x0 = .next t) : Keeps a t := by
  unfold execHintHoldExpiry at e
  cases e
  repeat' first | with_reducible apply State.report_keeps | exact Keeps.mk' (by with_reducible assumption) | split | dsimp only

theorem execSpareReserveHint_keeps {a t : State} (x0 : Tag) (x1 : State) (h1 : Keeps a x1)
    (e : execSpareReserveHint x0 x1 = .next t) : Keeps a t := by
  unfold execSpareReserveHint at e
  cases e
  repeat' first
    | with_reducible apply State.command_keeps | exact Keeps.mk' (by with_reducible assumption) | intro _ | split
    | fail_if_no_progress (refine Keeps.mk' ?_)

theorem execHealthRead_keeps {a t : State} (x0 : Tag) (x1 : State) (h1 : Keeps a x1) (e : execHealthRead x0 x1 = .next t) : Keeps a t := by
  unfold execHealthRead at e
  cases e
  repeat' first | with_reducible apply h1 | with_reducible apply State.command_keeps | with_reducible apply State.finishWith_keeps | intro _

end Sys2Proof.Machine
end

