-- ==== Sys2Proof/Laws/KeepsCompute.lean ====
section
/-!
SUPPORT. What every operation keeps, continued: the cores, the scaling tables and the copies.
-/

set_option Elab.async false

namespace Sys2Proof.Machine

open Sys2Proof

/-! ## Flags -/

theorem State.arith_keeps {a : State} (x0 : State) (x1 : Nat) (x2 : Ev) (x3 : Bool) (h1 : Keeps a x0) : Keeps a (State.arith x0 x1 x2 x3) := by
  unfold State.arith
  repeat' first | with_reducible apply h1 | with_reducible apply State.modCtx_keeps

/-! ## Scaling -/

theorem State.growScaling_keeps {a t : State} (x0 : State) (x1 : Nat) (x2 : Nat) (h1 : Keeps a x0)
    (e : State.growScaling x0 x1 x2 = some t) : Keeps a t := by
  induction x2 generalizing x0 with
  | zero => cases e; exact h1
  | succ f ih =>
    unfold State.growScaling at e
    split at e
    · cases e
    · exact ih _ (State.modCtx_keeps _ _ _ h1) e

theorem State.firstUse_keeps {a t : State} (x0 : State) (x1 : Nat) (x2 : BitVec 32) (h1 : Keeps a x0)
    (e : State.firstUse x0 x1 x2 = some t) : Keeps a t := by
  unfold State.firstUse at e
  (try dsimp only at e)
  (repeat' split at e) <;> (try cases e)
  all_goals repeat' first
    | with_reducible apply h1 | with_reducible apply State.modCtx_keeps
    | refine State.growScaling_keeps (e := by with_reducible assumption) (h1 := ?_) ..

/-! ## CoreOps -/

theorem State.insnFaultAt_keeps {a : State} (x0 : State) (x1 : Nat) (x2 : Nat) (x3 : BitVec 64) (h1 : Keeps a x0) : Keeps a
    (State.insnFaultAt x0 x1 x2 x3) := by
  unfold State.insnFaultAt
  repeat' first | with_reducible apply h1 | with_reducible apply State.fatal_keeps | with_reducible apply State.modCore_keeps

theorem State.insnFault_keeps {a : State} (x0 : State) (x1 : Nat) (h1 : Keeps a x0) : Keeps a (State.insnFault x0 x1) := by
  unfold State.insnFault
  repeat' first | with_reducible apply h1 | with_reducible apply State.insnFaultAt_keeps

theorem State.taskFault_keeps {a : State} (x0 : State) (x1 : Nat) (h1 : Keeps a x0) : Keeps a (State.taskFault x0 x1) := by
  unfold State.taskFault
  repeat' first | with_reducible apply h1 | with_reducible apply State.illegalTask_keeps | with_reducible apply State.modCore_keeps

theorem State.issue_keeps {a : State} (x0 : State) (x1 : Nat) (x2 : BitVec 64) (x3 : Bool) (x4 : State → State) (h1 : Keeps a x0) (k5 : ∀ (y0 : State), Keeps a y0 → Keeps a (x4 y0)) : Keeps a
    (State.issue x0 x1 x2 x3 x4) := by
  unfold State.issue
  repeat' first
    | with_reducible apply h1 | with_reducible apply k5 | with_reducible apply State.taskFault_keeps
    | with_reducible apply State.insnFault_keeps | split | dsimp only

theorem State.ifFree_keeps {a : State} (x0 : State) (x1 : Nat) (x2 : List Nat) (x3 : List Res) (x4 : List Res) (x5 : State → State)
    (h1 : Keeps a x0) (k6 : ∀ (y0 : State), Keeps a y0 → Keeps a (x5 y0)) : Keeps a (State.ifFree x0 x1 x2 x3 x4 x5) := by
  unfold State.ifFree
  repeat' first | with_reducible apply h1 | with_reducible apply k6 | split | dsimp only

theorem State.push_keeps {a : State} (x0 : State) (x1 : Nat) (x2 : Nat) (x3 : BitVec 64) (x4 : Work) (x5 : List Res) (x6 : List Res)
    (x7 : Core → Core) (h1 : Keeps a x0) : Keeps a (State.push x0 x1 x2 x3 x4 x5 x6 x7) := by
  unfold State.push
  repeat' first | with_reducible apply h1 | with_reducible apply State.setCore_keeps | split | dsimp only

theorem State.setSem_keeps {a : State} (x0 : State) (x1 : Nat) (x2 : Nat) (x3 : BitVec 32) (h1 : Keeps a x0) : Keeps a
    (State.setSem x0 x1 x2 x3) := by
  unfold State.setSem
  repeat' first | with_reducible apply h1 | with_reducible apply State.modCtx_keeps

theorem State.semInc_keeps {a : State} (x0 : State) (x1 : Nat) (x2 : Nat) (x3 : Nat) (x4 : Option (Nat × BitVec 32))
    (h1 : Keeps a x0) : Keeps a (State.semInc x0 x1 x2 x3 x4) := by
  unfold State.semInc
  repeat' first
    | with_reducible apply h1 | with_reducible apply State.illegalTask_keeps | with_reducible apply State.illegal_keeps
    | with_reducible apply State.setSem_keeps | split

theorem State.grantPlain_keeps {a : State} (x0 : Nat) (x1 : Nat) (x2 : BitVec 32) (x3 : State) (x4 : Nat) (h1 : Keeps a x3) : Keeps a
    (State.grantPlain x0 x1 x2 x3 x4) := by
  unfold State.grantPlain
  repeat' first | with_reducible apply h1 | with_reducible apply State.modCore_keeps | split

theorem State.tryDec_keeps {a : State} (x0 : State) (x1 : Nat) (x2 : Nat) (x3 : Nat) (x4 : Nat) (x5 : BitVec 32) (h1 : Keeps a x0) : Keeps a
    (State.tryDec x0 x1 x2 x3 x4 x5) := by
  unfold State.tryDec
  repeat' first
    | with_reducible apply h1 | with_reducible apply State.modCore_keeps | with_reducible apply State.setSem_keeps | split | dsimp only

theorem State.grantDec_keeps {a : State} (x0 : Nat) (x1 : Nat) (x2 : Option (Nat × Nat × BitVec 32)) (x3 : State) (x4 : Nat)
    (h1 : Keeps a x3) : Keeps a (State.grantDec x0 x1 x2 x3 x4) := by
  unfold State.grantDec
  repeat' first
    | with_reducible apply h1 | with_reducible apply State.tryDec_keeps | with_reducible apply State.modCore_keeps
    | with_reducible apply State.setSem_keeps | split

theorem State.semClock_keeps {a : State} (x0 : State) (x1 : Nat) (x2 : Nat) (x3 : Option (Nat × Nat × BitVec 32))
    (h1 : Keeps a x0) : Keeps a (x0.semClock x1 x2 x3) :=
  Keeps.foldl (fun _ _ h => State.grantDec_keeps _ _ _ _ _ h) _ (Keeps.foldl (fun _ _ h => State.grantPlain_keeps _ _ _ _ _ h) _ h1)

/-! ## Descale -/

theorem State.storeScale_keeps {a : State} (x0 : Nat) (x1 : Nat) (x2 : State) (x3 : Nat × F32 × Ev) (h1 : Keeps a x2) : Keeps a
    (State.storeScale x0 x1 x2 x3) := by
  unfold State.storeScale
  repeat' first
    | with_reducible apply h1 | with_reducible apply State.store_keeps | with_reducible apply State.uncorrFault_keeps
    | refine Keeps.snd ?_ (by with_reducible assumption) | split

theorem State.recordDescales_keeps {a : State} (x0 : State) (x1 : Nat) (x2 : Nat) (x3 : Core) (x4 : List (Nat × F32 × Ev))
    (h1 : Keeps a x0) : Keeps a (State.recordDescales x0 x1 x2 x3 x4) := by
  unfold State.recordDescales
  repeat' first
    | with_reducible apply h1 | with_reducible apply State.modCtx_keeps | with_reducible apply State.storeScale_keeps
    | with_reducible apply Keeps.foldl | split | dsimp only

theorem State.writeDescales_keeps {a : State} (x0 : Nat) (x1 : ScaleUse) (x2 : Option (BitVec 32)) (x3 : Bool) (x4 : State) (x5 : Nat)
    (h1 : Keeps a x4) : Keeps a (State.writeDescales x0 x1 x2 x3 x4 x5) := by
  unfold State.writeDescales
  repeat' first
    | with_reducible apply h1 | with_reducible apply State.arith_keeps | with_reducible apply State.modCore_keeps
    | with_reducible apply State.recordDescales_keeps | with_reducible apply State.straggle_keeps | split | dsimp only

theorem State.allDescales_keeps {a : State} (x0 : State) (x1 : Nat) (x2 : ScaleUse) (x3 : Option (BitVec 32)) (x4 : Bool)
    (h1 : Keeps a x0) : Keeps a (State.allDescales x0 x1 x2 x3 x4) := by
  unfold State.allDescales
  repeat' first
    | with_reducible apply h1 | with_reducible apply State.writeDescales_keeps | with_reducible apply Keeps.foldl
    | with_reducible apply State.meetWords_keeps | with_reducible apply State.uncorrFault_keeps | with_reducible assumption
    | refine Keeps.snd ?_ (by with_reducible assumption) | split

theorem State.firmDescales_keeps {a : State} (x0 : State) (x1 : Nat) (x2 : ScaleUse) (h1 : Keeps a x0) : Keeps a (State.firmDescales x0 x1 x2) := by
  unfold State.firmDescales
  repeat' first | with_reducible apply h1 | with_reducible apply State.allDescales_keeps

theorem State.newScale_keeps {a : State} (x0 : State) (x1 : Nat) (x2 : Run) (x3 : BitVec 32) (h1 : Keeps a x0) : Keeps a
    (State.newScale x0 x1 x2 x3) := by
  unfold State.newScale
  repeat' first | with_reducible apply h1 | with_reducible apply State.allDescales_keeps

/-! ## Vector -/

theorem State.setCoreBytes_keeps {a : State} (x0 : State) (x1 : Nat) (x2 : Nat) (x3 : List Byte) (h1 : Keeps a x0) : Keeps a
    (State.setCoreBytes x0 x1 x2 x3) := by
  unfold State.setCoreBytes
  repeat' first | with_reducible apply h1 | with_reducible apply State.afterStore_keeps | with_reducible apply State.setBytes_keeps

theorem State.setVec_keeps {a : State} (x0 : State) (x1 : Nat) (x2 : Nat) (x3 : Nat) (x4 : List F32) (h1 : Keeps a x0) : Keeps a
    (State.setVec x0 x1 x2 x3 x4) := by
  unfold State.setVec
  repeat' first | with_reducible apply h1 | with_reducible apply State.setCoreBytes_keeps

theorem State.coreArith_keeps {a : State} (x0 : State) (x1 : Nat) (x2 : Ev) (x3 : Bool) (h1 : Keeps a x0) : Keeps a
    (State.coreArith x0 x1 x2 x3) := by
  unfold State.coreArith
  repeat' first | with_reducible apply h1 | with_reducible apply State.arith_keeps | split

theorem State.putLanes_keeps {a : State} (x0 : State) (x1 : Nat) (x2 : Nat) (x3 : Nat) (x4 : List (F32 × Ev)) (h1 : Keeps a x0) : Keeps a
    (State.putLanes x0 x1 x2 x3 x4) := by
  unfold State.putLanes
  repeat' first | with_reducible apply h1 | with_reducible apply State.coreArith_keeps | with_reducible apply State.setVec_keeps

theorem eachVec_keeps {a : State} (x0 : State → Nat → State) (x1 : Nat) (x2 : State) (k1 : ∀ (y0 : State) (y1 : Nat), Keeps a y0 → Keeps a (x0 y0 y1))
    (h1 : Keeps a x2) : Keeps a (eachVec x0 x1 x2) := by
  unfold eachVec
  repeat' first | with_reducible apply k1 | with_reducible apply h1 | with_reducible apply Keeps.foldl

theorem State.vopStep_keeps {a : State} (x0 : Nat) (x1 : VecWork) (x2 : State) (x3 : Nat) (h1 : Keeps a x2) : Keeps a
    (State.vopStep x0 x1 x2 x3) := by
  unfold State.vopStep
  repeat' first | with_reducible apply h1 | with_reducible apply State.putLanes_keeps

theorem State.vred_keeps {a : State} (x0 : State) (x1 : Nat) (x2 : VecWork) (h1 : Keeps a x0) : Keeps a (State.vred x0 x1 x2) := by
  unfold State.vred
  repeat' first
    | with_reducible apply h1 | with_reducible apply State.coreArith_keeps | with_reducible apply State.setVec_keeps
    | with_reducible apply State.modCore_keeps | with_reducible apply State.setCoreBytes_keeps | split

theorem State.vany_keeps {a : State} (x0 : State) (x1 : Nat) (x2 : VecWork) (h1 : Keeps a x0) : Keeps a (State.vany x0 x1 x2) := by
  unfold State.vany
  repeat' first | with_reducible apply h1 | with_reducible apply State.modCore_keeps

theorem State.actStep_keeps {a : State} (x0 : Nat) (x1 : VecWork) (x2 : State) (x3 : Nat) (h1 : Keeps a x2) : Keeps a
    (State.actStep x0 x1 x2 x3) := by
  unfold State.actStep
  repeat' first | with_reducible apply h1 | with_reducible apply State.putLanes_keeps

theorem State.sld_keeps {a : State} (x0 : State) (x1 : Nat) (x2 : VecWork) (h1 : Keeps a x0) : Keeps a (x0.sld x1 x2) := by
  unfold State.sld
  exact State.modCore_keeps _ _ _ h1

theorem State.sst_keeps {a : State} (x0 : State) (x1 : Nat) (x2 : VecWork) (h1 : Keeps a x0) : Keeps a (State.sst x0 x1 x2) := by
  unfold State.sst
  repeat' first | with_reducible apply h1 | with_reducible apply State.setCoreBytes_keeps

theorem State.widStep_keeps {a : State} (x0 : Nat) (x1 : VecWork) (x2 : State) (x3 : Nat) (h1 : Keeps a x2) : Keeps a
    (State.widStep x0 x1 x2 x3) := by
  unfold State.widStep
  repeat' first | with_reducible apply h1 | with_reducible apply State.putLanes_keeps

theorem State.recordSlot_keeps {a : State} (x0 : State) (x1 : Nat) (x2 : Nat) (x3 : List Elem) (h1 : Keeps a x0) : Keeps a
    (State.recordSlot x0 x1 x2 x3) := by
  unfold State.recordSlot
  repeat' first
    | with_reducible apply h1 | with_reducible apply State.modCore_keeps | with_reducible apply State.modCtx_keeps | split | dsimp only

theorem State.qntStep_keeps {a : State} (x0 : Nat) (x1 : VecWork) (x2 : Nat) (x3 : Nat → F32) (x4 : Bool) (x5 : State) (x6 : Nat)
    (h1 : Keeps a x5) : Keeps a (State.qntStep x0 x1 x2 x3 x4 x5 x6) := by
  unfold State.qntStep
  repeat' first
    | with_reducible apply h1 | with_reducible apply State.setCoreBytes_keeps | with_reducible apply State.coreArith_keeps
    | with_reducible apply State.modCore_keeps | with_reducible apply State.recordSlot_keeps | split

theorem State.fixScales_keeps {a : State} (x0 : State) (x1 : Nat) (x2 : Nat) (x3 : SMap F32) (h1 : Keeps a x0) : Keeps a
    (State.fixScales x0 x1 x2 x3) := by
  unfold State.fixScales
  repeat' first
    | with_reducible apply h1 | with_reducible apply State.newScale_keeps | with_reducible apply State.modCtx_keeps | split | dsimp only

theorem State.produces_keeps {a : State} (x0 : State) (x1 : Nat) (x2 : Nat) (x3 : List Nat) (h1 : Keeps a x0) : Keeps a (State.produces x0 x1 x2 x3) := by
  unfold State.produces
  repeat' first | with_reducible apply h1 | with_reducible apply State.newScale_keeps | with_reducible apply State.modCtx_keeps | split

theorem State.qnt_keeps {a : State} (x0 : State) (x1 : Nat) (x2 : VecWork) (h1 : Keeps a x0) : Keeps a (State.qnt x0 x1 x2) := by
  unfold State.qnt
  repeat' first
    | with_reducible apply h1 | with_reducible apply eachVec_keeps | with_reducible apply State.qntStep_keeps
    | with_reducible apply State.modCore_keeps | with_reducible apply State.produces_keeps | split | dsimp only

theorem State.vecEffect_keeps {a : State} (x0 : State) (x1 : Nat) (x2 : VecWork) (h1 : Keeps a x0) : Keeps a (State.vecEffect x0 x1 x2) := by
  unfold State.vecEffect
  repeat' first
    | with_reducible apply h1 | with_reducible apply eachVec_keeps | with_reducible apply State.vopStep_keeps
    | with_reducible apply State.vred_keeps | with_reducible apply State.vany_keeps | with_reducible apply State.actStep_keeps
    | with_reducible apply State.qnt_keeps | with_reducible apply State.widStep_keeps | with_reducible apply State.sld_keeps
    | with_reducible apply State.sst_keeps | split

theorem State.execVec_keeps {a : State} (x0 : State) (x1 : Nat) (x2 : VecWork) (h1 : Keeps a x0) : Keeps a (State.execVec x0 x1 x2) := by
  unfold State.execVec
  repeat' first
    | with_reducible apply h1 | with_reducible apply State.meetWords_keeps | with_reducible apply State.uncorrFault_keeps
    | with_reducible apply State.vecEffect_keeps | refine Keeps.snd ?_ (by with_reducible assumption) | split

/-! ## Update -/

theorem State.updOne_keeps {a : State} (x0 : Nat) (x1 : UpdWork) (x2 : RuleIn) (x3 : BitVec 64) (x4 : State) (x5 : Nat)
    (h1 : Keeps a x4) : Keeps a (State.updOne x0 x1 x2 x3 x4 x5) := by
  unfold State.updOne
  repeat' first
    | with_reducible apply h1 | with_reducible apply State.setCoreBytes_keeps | with_reducible apply State.coreArith_keeps
    | with_reducible apply State.modCtx_keeps | split | dsimp only

theorem State.updClash_keeps {a : State} (x0 : State) (x1 : Nat) (x2 : UpdWork) (h1 : Keeps a x0) : Keeps a (State.updClash x0 x1 x2) := by
  unfold State.updClash
  repeat' first
    | with_reducible apply h1 | with_reducible apply State.draw_keeps | with_reducible apply State.setCoreBytes_keeps
    | with_reducible apply State.coreArith_keeps | with_reducible apply State.modCtx_keeps | with_reducible apply Keeps.foldl
    | refine Keeps.snd ?_ (by with_reducible assumption) | intro _ | split | dsimp only

theorem State.updApply_keeps {a : State} (x0 : State) (x1 : Nat) (x2 : Nat) (x3 : Run) (x4 : UpdWork) (h1 : Keeps a x0) : Keeps a
    (State.updApply x0 x1 x2 x3 x4) := by
  unfold State.updApply
  repeat' first
    | with_reducible apply h1 | with_reducible apply State.meetWords_keeps | with_reducible apply State.uncorrFault_keeps
    | with_reducible apply State.modCore_keeps | with_reducible apply State.updClash_keeps | with_reducible apply State.updOne_keeps
    | with_reducible apply Keeps.foldl | refine Keeps.snd ?_ (by with_reducible assumption) | split

theorem State.updGo_keeps {a : State} (x0 : State) (x1 : Nat) (x2 : Nat) (x3 : Run) (x4 : QEntry) (x5 : UF) (x6 : Nat) (x7 : Nat) (x8 : Nat)
    (x9 : Nat) (x10 : BitVec 32) (x11 : BitVec 64) (h1 : Keeps a x0) : Keeps a (State.updGo x0 x1 x2 x3 x4 x5 x6 x7 x8 x9 x10 x11) := by
  unfold State.updGo
  repeat' first
    | with_reducible apply h1 | with_reducible apply State.modCore_keeps | with_reducible apply State.modCtx_keeps
    | with_reducible apply State.insnFaultAt_keeps | with_reducible apply State.updApply_keeps | split | dsimp only

theorem State.updLatch_keeps {a : State} (x0 : State) (x1 : Nat) (x2 : Run) (h1 : Keeps a x0) : Keeps a (State.updLatch x0 x1 x2) := by
  unfold State.updLatch
  repeat' first | with_reducible apply h1 | with_reducible apply State.modCtx_keeps | split

theorem execUpdDecisionRelease_keeps {a t : State} (x0 : CoreId) (x1 : State) (replays : Nat) (h1 : Keeps a x1)
    (e : execUpdDecisionRelease x0 x1 replays = .next t) : Keeps a t := by
  unfold execUpdDecisionRelease at e
  cases e
  repeat' first
    | with_reducible apply State.cross_keeps | with_reducible apply h1 | with_reducible apply State.updLatch_keeps
    | with_reducible apply State.updGo_keeps | with_reducible assumption | split | dsimp only | intro _

theorem State.journalAdd_keeps {a : State} (x0 : State) (x1 : Nat) (x2 : UF) (x3 : BitVec 32) (x4 : BitVec 64) (h1 : Keeps a x0) : Keeps a
    (State.journalAdd x0 x1 x2 x3 x4) := by
  unfold State.journalAdd
  repeat' first | with_reducible apply h1 | with_reducible apply State.modCtx_keeps | split

theorem State.updIssue_keeps {a : State} (x0 : State) (x1 : Nat) (x2 : UF) (h1 : Keeps a x0) : Keeps a (State.updIssue x0 x1 x2) := by
  unfold State.updIssue
  repeat' first
    | with_reducible apply h1 | with_reducible apply State.insnFault_keeps | with_reducible apply State.push_keeps | split | dsimp only

theorem execUpd_keeps {a t : State} (x0 : CoreId) (x1 : UF) (x2 : State) (h1 : Keeps a x2) (e : execUpd x0 x1 x2 = .next t) : Keeps a t := by
  unfold execUpd at e
  cases e
  repeat' first
    | with_reducible assumption | with_reducible apply State.issue_keeps | with_reducible apply State.ifFree_keeps
    | with_reducible apply State.updIssue_keeps | intro _

/-! ## Dma -/

theorem State.dmaRun_keeps {a : State} (x0 : State) (x1 : Nat) (h1 : Keeps a x0) : Keeps a (State.dmaRun x0 x1) := by
  unfold State.dmaRun
  repeat' first | with_reducible apply h1 | with_reducible apply State.modCore_keeps | split

theorem State.cutDma_keeps {a : State} (x0 : State) (x1 : Nat) (x2 : Nat) (h1 : Keeps a x0) : Keeps a (State.cutDma x0 x1 x2) := by
  unfold State.cutDma
  repeat' first | with_reducible apply h1 | with_reducible apply State.modCore_keeps

theorem State.txnWrite_keeps {a : State} (x0 : State) (x1 : Nat) (x2 : Nat) (x3 : Nat) (x4 : List Byte) (x5 : List Nat)
    (h1 : Keeps a x0) : Keeps a (State.txnWrite x0 x1 x2 x3 x4 x5) := by
  induction x5 generalizing x0 x1 x2 x3 x4 <;> unfold State.txnWrite
  all_goals repeat' first
    | with_reducible apply_assumption | with_reducible apply State.illegal_keeps | with_reducible apply State.cutDma_keeps
    | with_reducible apply State.writeFor_keeps | with_reducible apply State.uncorrFault_keeps
    | refine Keeps.snd ?_ (by with_reducible assumption) | with_reducible apply Keeps.ite | split

theorem State.txnDone_keeps {a : State} (x0 : State) (x1 : Nat) (x2 : Nat) (x3 : Txn) (x4 : Nat) (h1 : Keeps a x0) : Keeps a
    (State.txnDone x0 x1 x2 x3 x4) := by
  unfold State.txnDone
  repeat' first
    | with_reducible assumption | with_reducible apply State.cross_keeps | with_reducible apply State.cutDma_keeps
    | with_reducible apply State.load_keeps | with_reducible apply State.uncorrFault_keeps | with_reducible apply State.txnWrite_keeps
    | refine Keeps.snd ?_ (by with_reducible assumption) | intro _ | split

theorem State.dropTxn_keeps {a : State} (x0 : State) (x1 : Nat) (x2 : Nat) (x3 : Nat) (h1 : Keeps a x0) : Keeps a (State.dropTxn x0 x1 x2 x3) := by
  unfold State.dropTxn
  repeat' first | with_reducible apply h1 | with_reducible apply State.modCore_keeps

theorem execDmaTransactionComplete_keeps {a t : State} (x0 : CoreId) (x1 : Nat) (x2 : Nat) (x3 : Nat) (x4 : List Upset) (x5 : State)
    (h1 : Keeps a x5) (e : execDmaTransactionComplete x0 x1 x2 x3 x4 x5 = .next t) : Keeps a t := by
  unfold execDmaTransactionComplete at e
  cases e
  repeat' first
    | with_reducible apply h1 | with_reducible apply State.dmaRun_keeps | with_reducible apply State.txnDone_keeps
    | with_reducible apply State.dropTxn_keeps | with_reducible apply State.applyUpsets_keeps | split

theorem State.addDma_keeps {a : State} (x0 : State) (x1 : Nat) (x2 : Nat) (x3 : DmaDesc) (h1 : Keeps a x0) : Keeps a (State.addDma x0 x1 x2 x3) := by
  unfold State.addDma
  repeat' first | with_reducible apply h1 | with_reducible apply State.dmaRun_keeps | with_reducible apply State.modCore_keeps

/-! ## Images -/

theorem State.readRegions_keeps {a : State} (x0 : State) (x1 : List Region) (h1 : Keeps a x0) : Keeps a (State.readRegions x0 x1).2 := by
  induction x1 generalizing x0 <;> unfold State.readRegions
  all_goals repeat' first
    | with_reducible apply_assumption | with_reducible apply State.load_keeps | refine Keeps.snd ?_ (by with_reducible assumption) | split

theorem State.freeStaging_keeps {a : State} (x0 : State) (x1 : List (Nat × Nat)) (h1 : Keeps a x0) : Keeps a (State.freeStaging x0 x1) := by
  unfold State.freeStaging
  repeat' first | with_reducible apply h1 | with_reducible apply State.startFill_keeps | with_reducible apply Keeps.foldl | intro _

theorem State.takeRegions_keeps {a t : State} (x0 : State) (x1 : Nat) (x2 : Image) (h1 : Keeps a x0)
    (e : State.takeRegions x0 x1 x2 = some t) : Keeps a t := by
  unfold State.takeRegions at e
  (try dsimp only at e)
  (repeat' split at e) <;> (try cases e)
  all_goals repeat' first
    | with_reducible apply h1 | with_reducible apply State.addAlloc_keeps
    | refine State.growScaling_keeps (e := by with_reducible assumption) (h1 := ?_) .. | with_reducible apply Keeps.foldl | intro _

theorem State.modSnapOf_keeps {a : State} (x0 : State) (x1 : Nat) (x2 : CtxSnap → CtxSnap) (h1 : Keeps a x0) : Keeps a
    (State.modSnapOf x0 x1 x2) := by
  unfold State.modSnapOf
  repeat' first | with_reducible apply h1 | with_reducible apply State.modCtx_keeps

theorem State.chargeGen_keeps {a t : State} (x0 : State) (x1 : Nat) (x2 : Nat) (x3 : Nat) (h1 : Keeps a x0)
    (e : State.chargeGen x0 x1 x2 x3 = some t) : Keeps a t := by
  unfold State.chargeGen at e
  (try dsimp only at e)
  (repeat' split at e) <;> (try cases e)
  all_goals repeat' first | with_reducible apply h1 | with_reducible apply State.modCtx_keeps

theorem State.emptyGen_keeps {a : State} (x0 : State) (x1 : Nat) (x2 : Nat) (h1 : Keeps a x0) : Keeps a (State.emptyGen x0 x1 x2) := by
  unfold State.emptyGen
  repeat' first | with_reducible apply h1 | with_reducible apply State.modCtx_keeps

end Sys2Proof.Machine
end

