-- ==== Sys2Proof/Laws/KeepsColl.lean ====
section
/-!
SUPPORT. What every operation keeps, continued: the collectives, the matrix unit and the queues.
-/

set_option Elab.async false

namespace Sys2Proof.Machine

open Sys2Proof

/-! ## Coll -/

theorem State.modColl_keeps {a : State} (x0 : State) (x1 : Nat) (x2 : Coll → Coll) (h1 : Keeps a x0) : Keeps a (State.modColl x0 x1 x2) := by
  unfold State.modColl
  repeat' first | exact Keeps.mk' (by with_reducible assumption)

theorem State.modRail_keeps {a : State} (x0 : State) (x1 : Nat) (x2 : Nat) (x3 : Rail → Rail) (h1 : Keeps a x0) : Keeps a
    (State.modRail x0 x1 x2 x3) := by
  unfold State.modRail
  repeat' first | with_reducible apply h1 | with_reducible apply State.modColl_keeps

theorem State.sendRing_keeps {a : State} (x0 : State) (x1 : Coll) (x2 : Nat) (x3 : Nat) (x4 : Nat) (x5 : Nat) (x6 : BitVec 64) (x7 : List (BitVec 64))
    (h1 : Keeps a x0) : Keeps a (State.sendRing x0 x1 x2 x3 x4 x5 x6 x7) := by
  unfold State.sendRing
  repeat' first | with_reducible apply h1 | with_reducible apply State.sendMsgIn_keeps

theorem State.sendGrant_keeps {a : State} (x0 : State) (x1 : Coll) (x2 : Nat) (x3 : Nat) (x4 : Nat) (h1 : Keeps a x0) : Keeps a
    (State.sendGrant x0 x1 x2 x3 x4) := by
  unfold State.sendGrant
  repeat' first | with_reducible apply h1 | with_reducible apply State.sendMsgIn_keeps

theorem State.collRead_keeps {a : State} (x0 : State) (x1 : Nat) (x2 : Nat) (x3 : Nat) (h1 : Keeps a x0) : Keeps a
    (State.collRead x0 x1 x2 x3).2 := by
  unfold State.collRead
  repeat' first
    | with_reducible apply h1 | with_reducible apply State.load_keeps | with_reducible apply State.uncorrFault_keeps
    | refine Keeps.snd ?_ (by with_reducible assumption) | split

theorem State.collWrite_keeps {a : State} (x0 : State) (x1 : Nat) (x2 : Nat) (x3 : List Byte) (h1 : Keeps a x0) : Keeps a
    (State.collWrite x0 x1 x2 x3) := by
  unfold State.collWrite
  repeat' first
    | with_reducible apply h1 | with_reducible apply State.illegal_keeps | with_reducible apply State.writeFor_keeps
    | with_reducible apply State.uncorrFault_keeps | refine Keeps.snd ?_ (by with_reducible assumption) | split

theorem State.railVals_keeps {a : State} (x0 : State) (x1 : Coll) (x2 : Nat) (x3 : Nat) (x4 : Nat) (h1 : Keeps a x0) : Keeps a
    (State.railVals x0 x1 x2 x3 x4).2 := by
  unfold State.railVals
  repeat' first | with_reducible apply h1 | with_reducible apply State.collRead_keeps | split

theorem State.advance_keeps {a : State} (x0 : State) (x1 : Nat) (x2 : Nat) (x3 : Nat) (x4 : Nat) (x5 : List RItem)
    (h1 : Keeps a x0) : Keeps a (State.advance x0 x1 x2 x3 x4 x5) := by
  unfold State.advance
  repeat' first | with_reducible apply h1 | with_reducible apply State.modRail_keeps

theorem State.flushRail_keeps {a : State} (x0 : Nat) (x1 : Nat) (x2 : Nat) (x3 : State) (h1 : Keeps a x3) : Keeps a
    (State.flushRail x0 x1 x2 x3) := by
  induction x2 generalizing x0 x1 x3 <;> unfold State.flushRail
  all_goals repeat' first
    | with_reducible apply_assumption | with_reducible apply State.advance_keeps | with_reducible apply State.sendRing_keeps
    | with_reducible apply State.railVals_keeps | refine Keeps.snd ?_ (by with_reducible assumption) | with_reducible apply Keeps.ite
    | split | dsimp only

theorem State.flush_keeps {a : State} (x0 : State) (x1 : Nat) (x2 : Nat) (h1 : Keeps a x0) : Keeps a (State.flush x0 x1 x2) := by
  unfold State.flush
  repeat' first | with_reducible apply h1 | with_reducible apply State.flushRail_keeps | split

theorem State.startStage_keeps {a : State} (x0 : State) (x1 : Nat) (x2 : Nat) (h1 : Keeps a x0) : Keeps a (State.startStage x0 x1 x2) := by
  unfold State.startStage
  repeat' first | with_reducible apply h1 | with_reducible apply State.flush_keeps | with_reducible apply State.modRail_keeps | split

theorem State.writeReduced_keeps {a : State} (x0 : State) (x1 : Coll) (x2 : Nat) (h1 : Keeps a x0) : Keeps a (State.writeReduced x0 x1 x2) := by
  unfold State.writeReduced
  repeat' first | with_reducible apply h1 | with_reducible apply State.collWrite_keeps

theorem execCollStageComplete_keeps {a t : State} (x0 : Nat) (x1 : Nat) (x2 : State) (replays : Nat) (h1 : Keeps a x2)
    (e : execCollStageComplete x0 x1 x2 replays = .next t) : Keeps a t := by
  unfold execCollStageComplete at e
  cases e
  repeat' first
    | with_reducible apply State.cross_keeps | with_reducible apply h1 | with_reducible apply State.writeReduced_keeps
    | with_reducible apply State.modRail_keeps | with_reducible apply State.startStage_keeps | with_reducible assumption | split
    | dsimp only | intro _

theorem State.raise_keeps {a : State} (x0 : State) (x1 : Nat) (x2 : Nat) (x3 : Nat) (x4 : Nat) (h1 : Keeps a x0) : Keeps a
    (State.raise x0 x1 x2 x3 x4) := by
  unfold State.raise
  repeat' first
    | with_reducible apply h1 | with_reducible apply State.modRail_keeps | with_reducible apply State.sendGrant_keeps | split | dsimp only

theorem State.consume_keeps {a : State} (x0 : State) (x1 : Nat) (x2 : Nat) (x3 : Nat) (x4 : Nat) (h1 : Keeps a x0) : Keeps a
    (State.consume x0 x1 x2 x3 x4) := by
  unfold State.consume
  repeat' first | with_reducible apply h1 | with_reducible apply State.raise_keeps | with_reducible apply State.modRail_keeps

theorem State.recvReduce_keeps {a : State} (x0 : State) (x1 : Coll) (x2 : Nat) (x3 : Nat) (x4 : Nat) (x5 : List Byte)
    (h1 : Keeps a x0) : Keeps a (State.recvReduce x0 x1 x2 x3 x4 x5) := by
  unfold State.recvReduce
  repeat' first
    | with_reducible apply h1 | with_reducible apply State.railVals_keeps | with_reducible apply State.arith_keeps
    | with_reducible apply State.modRail_keeps | with_reducible apply State.flush_keeps | with_reducible apply State.consume_keeps
    | refine Keeps.snd ?_ (by with_reducible assumption) | split

theorem State.recvGather_keeps {a : State} (x0 : State) (x1 : Coll) (x2 : Nat) (x3 : Nat) (x4 : Nat) (x5 : List Byte)
    (h1 : Keeps a x0) : Keeps a (State.recvGather x0 x1 x2 x3 x4 x5) := by
  unfold State.recvGather
  repeat' first
    | with_reducible apply h1 | with_reducible apply State.collWrite_keeps | with_reducible apply State.modRail_keeps
    | with_reducible apply State.flush_keeps | with_reducible apply State.consume_keeps | split

theorem State.takeMsg_keeps {a : State} (x0 : State) (x1 : Nat) (h1 : Keeps a x0) : Keeps a (State.takeMsg x0 x1) := by
  unfold State.takeMsg
  repeat' first | exact Keeps.mk' (by with_reducible assumption)

theorem State.dropFlits_keeps {a : State} (x0 : State) (x1 : Nat) (h1 : Keeps a x0) : Keeps a (State.dropFlits x0 x1) := by
  unfold State.dropFlits
  repeat' first | exact Keeps.mk' (by with_reducible assumption)

theorem State.refuseMsg_keeps {a : State} (x0 : State) (x1 : Nat) (x2 : Msg) (h1 : Keeps a x0) : Keeps a (State.refuseMsg x0 x1 x2) := by
  unfold State.refuseMsg
  repeat' first | with_reducible apply h1 | with_reducible apply State.dropFlits_keeps | with_reducible apply State.takeMsg_keeps

theorem State.trimMsg_keeps {a : State} (x0 : State) (x1 : Nat) (x2 : Coll) (x3 : Msg) (h1 : Keeps a x0) : Keeps a (State.trimMsg x0 x1 x2 x3) := by
  unfold State.trimMsg
  repeat' first
    | with_reducible apply h1 | with_reducible apply State.refuseMsg_keeps | with_reducible apply State.dropFlits_keeps | split | dsimp only
    | refine Keeps.mk' ?_

theorem State.recvRing_keeps {a : State} (x0 : State) (x1 : Nat) (x2 : Coll) (x3 : Msg) (h1 : Keeps a x0) : Keeps a (State.recvRing x0 x1 x2 x3) := by
  unfold State.recvRing
  repeat' first
    | with_reducible apply h1 | with_reducible apply State.refuseMsg_keeps | with_reducible apply State.dropFlits_keeps
    | with_reducible apply State.takeMsg_keeps | with_reducible apply State.recvGather_keeps | with_reducible apply State.recvReduce_keeps
    | with_reducible apply State.trimMsg_keeps | split | dsimp only

theorem State.sendP2p_keeps {a : State} (x0 : State) (x1 : Coll) (x2 : Nat) (x3 : Nat) (x4 : Nat) (x5 : BitVec 16) (x6 : BitVec 64)
    (x7 : List (BitVec 64)) (h1 : Keeps a x0) : Keeps a (State.sendP2p x0 x1 x2 x3 x4 x5 x6 x7) := by
  unfold State.sendP2p
  repeat' first | with_reducible apply h1 | with_reducible apply State.sendMsg_keeps

theorem State.modP2p_keeps {a : State} (x0 : State) (x1 : Nat) (x2 : Bool) (x3 : BitVec 16) (x4 : P2p → P2p) (h1 : Keeps a x0) : Keeps a
    (State.modP2p x0 x1 x2 x3 x4) := by
  unfold State.modP2p
  repeat' first | with_reducible apply h1 | with_reducible apply State.modColl_keeps

theorem State.grantPeer_keeps {a : State} (x0 : Nat) (x1 : BitVec 16) (x2 : Nat) (x3 : State) (h1 : Keeps a x3) : Keeps a
    (State.grantPeer x0 x1 x2 x3) := by
  induction x2 generalizing x0 x1 x3 <;> unfold State.grantPeer
  all_goals repeat' first
    | with_reducible apply_assumption | with_reducible apply State.sendP2p_keeps | with_reducible apply State.modP2p_keeps
    | with_reducible apply Keeps.ite | split

theorem State.grantP2p_keeps {a : State} (x0 : State) (x1 : Nat) (x2 : BitVec 16) (h1 : Keeps a x0) : Keeps a (State.grantP2p x0 x1 x2) := by
  unfold State.grantP2p
  repeat' first | with_reducible apply h1 | with_reducible apply State.grantPeer_keeps | split

theorem State.flushP2p_keeps {a : State} (x0 : Nat) (x1 : BitVec 16) (x2 : Nat) (x3 : State) (h1 : Keeps a x3) : Keeps a
    (State.flushP2p x0 x1 x2 x3) := by
  induction x2 generalizing x0 x1 x3 <;> unfold State.flushP2p
  all_goals repeat' first
    | with_reducible apply_assumption | with_reducible apply State.collRead_keeps | with_reducible apply State.modP2p_keeps
    | with_reducible apply State.sendP2p_keeps | refine Keeps.snd ?_ (by with_reducible assumption) | with_reducible apply Keeps.ite | split

theorem State.recvP2p_keeps {a : State} (x0 : State) (x1 : Nat) (x2 : Coll) (x3 : Msg) (h1 : Keeps a x0) : Keeps a (State.recvP2p x0 x1 x2 x3) := by
  unfold State.recvP2p
  repeat' first
    | with_reducible apply h1 | with_reducible apply State.refuseMsg_keeps | with_reducible apply State.dropFlits_keeps
    | with_reducible apply State.takeMsg_keeps | with_reducible apply State.grantP2p_keeps | with_reducible apply State.modP2p_keeps
    | with_reducible apply State.collWrite_keeps | split

theorem State.modOp_keeps {a : State} (x0 : State) (x1 : Nat) (x2 : SnapOp → SnapOp) (h1 : Keeps a x0) : Keeps a (State.modOp x0 x1 x2) := by
  unfold State.modOp
  repeat' first | with_reducible apply h1 | with_reducible apply State.modSnapOf_keeps

theorem State.endOp_keeps {a : State} (x0 : State) (x1 : Nat) (h1 : Keeps a x0) : Keeps a (State.endOp x0 x1) := by
  unfold State.endOp
  repeat' first | with_reducible apply h1 | with_reducible apply State.modSnapOf_keeps

theorem State.sendStream_keeps {a : State} (x0 : State) (x1 : Nat) (x2 : Nat) (x3 : Nat) (x4 : Nat) (x5 : BitVec 16) (x6 : List (BitVec 64))
    (h1 : Keeps a x0) : Keeps a (State.sendStream x0 x1 x2 x3 x4 x5 x6) := by
  unfold State.sendStream
  repeat' first | with_reducible apply h1 | with_reducible apply State.sendMsg_keeps

theorem State.flushStream_keeps {a : State} (x0 : Nat) (x1 : Nat) (x2 : State) (h1 : Keeps a x2) : Keeps a (State.flushStream x0 x1 x2) := by
  induction x1 generalizing x0 x2 <;> unfold State.flushStream
  all_goals repeat' first
    | with_reducible apply_assumption | with_reducible apply State.modSnapOf_keeps | with_reducible apply State.modOp_keeps
    | with_reducible apply State.sendStream_keeps | with_reducible apply Keeps.ite | split

theorem State.pumpStream_keeps {a : State} (x0 : State) (x1 : Nat) (h1 : Keeps a x0) : Keeps a (State.pumpStream x0 x1) := by
  unfold State.pumpStream
  repeat' first | with_reducible apply h1 | with_reducible apply State.flushStream_keeps | split

theorem State.streamGrant_keeps {a : State} (x0 : State) (x1 : Msg) (h1 : Keeps a x0) : Keeps a (State.streamGrant x0 x1) := by
  unfold State.streamGrant
  repeat' first
    | with_reducible apply State.illegal_keeps | with_reducible apply State.pumpStream_keeps
    | exact Keeps.mk' (by with_reducible assumption) | split

theorem State.takeGrants_keeps {a : State} (x0 : State) (x1 : Nat) (h1 : Keeps a x0) : Keeps a (State.takeGrants x0 x1) := by
  unfold State.takeGrants
  repeat' first
    | with_reducible apply State.pumpStream_keeps | exact Keeps.mk' (by with_reducible assumption) | split
    | fail_if_no_progress (refine Keeps.mk' ?_)

theorem State.grantStream_keeps {a : State} (x0 : State) (x1 : Nat) (h1 : Keeps a x0) : Keeps a (State.grantStream x0 x1) := by
  unfold State.grantStream
  repeat' first
    | with_reducible apply h1 | with_reducible apply State.sendStream_keeps | with_reducible apply State.modOp_keeps | split | dsimp only

theorem State.failRestore_keeps {a : State} (x0 : State) (x1 : Nat) (x2 : Nat) (h1 : Keeps a x0) : Keeps a (State.failRestore x0 x1 x2) := by
  unfold State.failRestore
  repeat' first
    | with_reducible apply Keeps.foldl | exact Keeps.mk' (by with_reducible assumption) | intro _ | split
    | fail_if_no_progress (refine Keeps.mk' ?_)

theorem State.placeStream_keeps {a : State} (x0 : State) (x1 : Nat) (h1 : Keeps a x0) : Keeps a (x0.placeStream x1) := by
  have k := fun (i : Image) (t : State) => State.takeRegions_keeps (t := t) x0 x1 i h1
  unfold State.placeStream
  split
  · exact h1
  · refine .ite h1 (.ite (State.failRestore_keeps _ _ _ h1) (.ite h1 (.ite (.ite (State.modOp_keeps _ _ _ h1) (State.failRestore_keeps _ _ _ h1)) ?_)))
    split
    · exact State.modOp_keeps _ _ _ (k _ _ (by assumption))
    · exact State.failRestore_keeps _ _ _ h1

theorem State.recvStream_keeps {a : State} (x0 : State) (x1 : Nat) (x2 : Msg) (h1 : Keeps a x0) : Keeps a (State.recvStream x0 x1 x2) := by
  unfold State.recvStream
  repeat' first
    | with_reducible apply h1 | with_reducible apply State.takeMsg_keeps | with_reducible apply State.grantStream_keeps
    | with_reducible apply State.placeStream_keeps | with_reducible apply State.modSnapOf_keeps | with_reducible apply State.modOp_keeps
    | with_reducible apply State.dropFlits_keeps | split | dsimp only

theorem execCollDataReceive_keeps {a t : State} (x0 : Nat) (x1 : Nat) (x2 : State) (h1 : Keeps a x2)
    (e : execCollDataReceive x0 x2 x1 = .next t) : Keeps a t := by
  unfold execCollDataReceive at e
  cases e
  repeat' first
    | with_reducible assumption | with_reducible apply State.cross_keeps | with_reducible apply State.recvStream_keeps
    | with_reducible apply State.refuseMsg_keeps | with_reducible apply State.recvRing_keeps | with_reducible apply State.recvP2p_keeps
    | with_reducible apply State.trimMsg_keeps | intro _ | split

theorem State.modCtl_keeps {a : State} (x0 : State) (x1 : Nat) (x2 : CtlSec → CtlSec) (h1 : Keeps a x0) : Keeps a (State.modCtl x0 x1 x2) := by
  unfold State.modCtl
  repeat' first | with_reducible apply h1 | with_reducible apply State.modColl_keeps

theorem State.flushCtlN_keeps {a : State} (x0 : Nat) (x1 : Nat) (x2 : State) (h1 : Keeps a x2) : Keeps a (State.flushCtlN x0 x1 x2) := by
  induction x1 generalizing x0 x2 <;> unfold State.flushCtlN
  all_goals repeat' first
    | with_reducible apply_assumption | with_reducible apply State.sendMsgIn_keeps | with_reducible apply State.modCtl_keeps
    | with_reducible apply State.modRail_keeps | with_reducible apply Keeps.ite | split

theorem State.flushCtl_keeps {a : State} (x0 : State) (x1 : Nat) (h1 : Keeps a x0) : Keeps a (State.flushCtl x0 x1) := by
  unfold State.flushCtl
  repeat' first | with_reducible apply h1 | with_reducible apply State.flushCtlN_keeps | split

theorem State.applyGrant_keeps {a : State} (x0 : State) (x1 : Coll) (x2 : Msg) (h1 : Keeps a x0) : Keeps a (State.applyGrant x0 x1 x2) := by
  unfold State.applyGrant
  repeat' first
    | with_reducible apply h1 | with_reducible apply State.flush_keeps | with_reducible apply State.modRail_keeps
    | with_reducible apply State.flushCtl_keeps | with_reducible apply State.illegal_keeps | with_reducible apply State.flushP2p_keeps
    | with_reducible apply State.modP2p_keeps | split

theorem State.epochMismatch_keeps {a : State} (x0 : State) (x1 : Nat) (x2 : Nat) (h1 : Keeps a x0) : Keeps a (State.epochMismatch x0 x1 x2) := by
  unfold State.epochMismatch
  repeat' first | with_reducible apply h1 | with_reducible apply State.fatal_keeps

theorem execGrantReceive_keeps {a t : State} (x0 : Nat) (x1 : State) (replays : Nat) (h1 : Keeps a x1) (e : execGrantReceive x0 x1 replays = .next t) : Keeps a t := by
  unfold execGrantReceive at e
  cases e
  repeat' first
    | with_reducible apply State.cross_keeps | with_reducible apply State.streamGrant_keeps | with_reducible apply State.applyGrant_keeps
    | with_reducible apply State.illegal_keeps | with_reducible apply State.epochMismatch_keeps
    | exact Keeps.mk' (by with_reducible assumption) | split | dsimp only | fail_if_no_progress (refine Keeps.mk' ?_) | intro _

theorem State.shardFault_keeps {a : State} (x0 : State) (x1 : Nat) (x2 : Coll) (x3 : BitVec 16) (x4 : Nat) (x5 : Nat)
    (h1 : Keeps a x0) : Keeps a (State.shardFault x0 x1 x2 x3 x4 x5) := by
  unfold State.shardFault
  repeat' first | with_reducible apply h1 | with_reducible apply State.fatal_keeps | split

theorem State.shardWhole_keeps {a : State} (x0 : State) (x1 : Nat) (x2 : Nat) (h1 : Keeps a x0) : Keeps a (State.shardWhole x0 x1 x2) := by
  unfold State.shardWhole
  repeat' first
    | with_reducible apply h1 | with_reducible apply State.collWrite_keeps | with_reducible apply State.collRead_keeps
    | with_reducible apply State.shardFault_keeps | refine Keeps.snd ?_ (by with_reducible assumption) | split | dsimp only

theorem State.addPiece_keeps {a : State} (x0 : State) (x1 : Nat) (x2 : Piece) (h1 : Keeps a x0) : Keeps a (State.addPiece x0 x1 x2) := by
  unfold State.addPiece
  repeat' first | with_reducible apply h1 | with_reducible apply State.shardWhole_keeps | with_reducible apply State.modColl_keeps

theorem State.recvEnd_keeps {a : State} (x0 : State) (x1 : Coll) (x2 : CStage) (x3 : Msg) (h1 : Keeps a x0) : Keeps a
    (State.recvEnd x0 x1 x2 x3) := by
  unfold State.recvEnd
  repeat' first
    | with_reducible apply h1 | with_reducible apply State.shardFault_keeps | with_reducible apply State.addPiece_keeps
    | with_reducible apply State.modRail_keeps | with_reducible apply State.flush_keeps | split | dsimp only

theorem execShardEndReceive_keeps {a t : State} (x0 : Nat) (x1 : State) (replays : Nat) (h1 : Keeps a x1) (e : execShardEndReceive x0 x1 replays = .next t) : Keeps a t := by
  unfold execShardEndReceive at e
  cases e
  repeat' first
    | with_reducible apply State.cross_keeps | with_reducible apply h1 | with_reducible apply State.refuseMsg_keeps
    | with_reducible apply State.recvEnd_keeps | with_reducible apply State.takeMsg_keeps | with_reducible assumption | split | intro _

theorem State.queueCtl_keeps {a : State} (x0 : State) (x1 : Nat) (x2 : List CtlMsg) (h1 : Keeps a x0) : Keeps a (State.queueCtl x0 x1 x2) := by
  unfold State.queueCtl
  repeat' first | with_reducible apply h1 | with_reducible apply State.flushCtl_keeps | with_reducible apply State.modCtl_keeps

theorem State.startCtl_keeps {a : State} (x0 : State) (x1 : Nat) (h1 : Keeps a x0) : Keeps a (State.startCtl x0 x1) := by
  unfold State.startCtl
  repeat' first | with_reducible apply h1 | with_reducible apply State.queueCtl_keeps | split

theorem State.recvSection_keeps {a : State} (x0 : State) (x1 : Coll) (x2 : CtlSec) (x3 : Nat) (x4 : Msg) (x5 : Nat) (h1 : Keeps a x0) : Keeps a
    (State.recvSection x0 x1 x2 x3 x4 x5) := by
  unfold State.recvSection
  repeat' first
    | with_reducible apply h1 | with_reducible apply State.epochMismatch_keeps | with_reducible apply State.modCtl_keeps
    | with_reducible apply State.raise_keeps | with_reducible apply State.queueCtl_keeps | with_reducible apply State.startCtl_keeps | split
    | dsimp only

theorem State.sendWave_keeps {a : State} (x0 : State) (x1 : Nat) (h1 : Keeps a x0) : Keeps a (State.sendWave x0 x1) := by
  unfold State.sendWave
  repeat' first | with_reducible apply h1 | with_reducible apply State.sendMsgIn_keeps | split

theorem State.setWave_keeps {a : State} (x0 : State) (x1 : Nat) (x2 : Option Wave) (h1 : Keeps a x0) : Keeps a (State.setWave x0 x1 x2) := by
  unfold State.setWave
  repeat' first | with_reducible apply h1 | with_reducible apply State.modCtx_keeps

theorem State.startWave_keeps {a : State} (x0 : State) (x1 : Nat) (x2 : Nat) (h1 : Keeps a x0) : Keeps a (State.startWave x0 x1 x2) := by
  unfold State.startWave
  repeat' first | with_reducible apply h1 | with_reducible apply State.sendWave_keeps | with_reducible apply State.setWave_keeps

theorem State.passWave_keeps {a : State} (x0 : State) (x1 : Msg) (x2 : Nat) (h1 : Keeps a x0) : Keeps a (State.passWave x0 x1 x2) := by
  unfold State.passWave
  repeat' first | with_reducible apply h1 | with_reducible apply sendAll_keeps | with_reducible apply State.sendIn_keeps | intro _ | split

theorem State.recvWave_keeps {a : State} (x0 : State) (x1 : Nat) (x2 : Wave) (x3 : Nat) (x4 : Msg) (h1 : Keeps a x0) : Keeps a
    (State.recvWave x0 x1 x2 x3 x4) := by
  unfold State.recvWave
  repeat' first
    | with_reducible apply h1 | with_reducible apply State.passWave_keeps | with_reducible apply State.setWave_keeps
    | with_reducible apply State.sendWave_keeps | split | dsimp only

theorem execControlMessageReceive_keeps {a t : State} (x0 : Nat) (x1 : State) (h1 : Keeps a x1)
    (e : execControlMessageReceive x0 x1 = .next t) : Keeps a t := by
  unfold execControlMessageReceive at e
  cases e
  repeat' first
    | with_reducible apply h1 | with_reducible apply State.passWave_keeps | with_reducible apply State.takeMsg_keeps
    | with_reducible apply State.recvWave_keeps | with_reducible apply State.refuseMsg_keeps | with_reducible apply State.recvSection_keeps
    | with_reducible apply State.trimMsg_keeps | with_reducible apply State.dropFlits_keeps | split | dsimp only

theorem execCollWatchdogExpiry_keeps {a t : State} (x0 : Nat) (x1 : BitVec 16) (x2 : State) (h1 : Keeps a x2)
    (e : execCollWatchdogExpiry x0 x1 x2 = .next t) : Keeps a t := by
  unfold execCollWatchdogExpiry at e
  cases e
  repeat' first | with_reducible apply h1 | with_reducible apply State.shardFault_keeps | split

theorem State.copyLocal_keeps {a : State} (x0 : State) (x1 : Nat) (x2 : Nat) (x3 : Nat) (x4 : Nat) (h1 : Keeps a x0) : Keeps a
    (State.copyLocal x0 x1 x2 x3 x4) := by
  unfold State.copyLocal
  repeat' first
    | with_reducible apply h1 | with_reducible apply State.collRead_keeps | with_reducible apply State.collWrite_keeps
    | refine Keeps.snd ?_ (by with_reducible assumption) | split

theorem State.selfCopies_keeps {a t : State} (x0 : State) (x1 : Nat) (x2 x3 : List P2p) (h1 : Keeps a x0)
    (e : x0.selfCopies x1 x2 x3 = some t) : Keeps a t := by
  induction x2 generalizing x0 x3 with
  | nil => cases x3 <;> cases e; exact h1
  | cons p ps ih =>
    cases x3 with
    | nil => cases e
    | cons q qs =>
      unfold State.selfCopies at e
      split at e
      · exact ih _ _ (State.copyLocal_keeps _ _ _ _ _ h1) e
      · cases e

/-! ## Matrix -/

theorem State.putTile_keeps {a : State} (x0 : State) (x1 : Nat) (x2 : Nat) (x3 : BitVec 64) (x4 : List (List Nat))
    (h1 : Keeps a x0) : Keeps a (State.putTile x0 x1 x2 x3 x4) := by
  unfold State.putTile
  repeat' first | with_reducible apply h1 | with_reducible apply State.setCoreBytes_keeps | with_reducible apply Keeps.foldl | intro _

theorem State.writeTile_keeps {a : State} (x0 : State) (x1 : Nat) (x2 : BitVec 64) (x3 : List Nat) (h1 : Keeps a x0) : Keeps a
    (State.writeTile x0 x1 x2 x3) := by
  unfold State.writeTile
  repeat' first | with_reducible apply h1 | with_reducible apply State.putTile_keeps | split

theorem State.drain_keeps {a : State} (x0 : State) (x1 : Nat) (x2 : MF) (x3 : BitVec 64) (x4 : BitVec 64) (x5 : BitVec 64) (x6 : List F32)
    (h1 : Keeps a x0) : Keeps a (State.drain x0 x1 x2 x3 x4 x5 x6) := by
  unfold State.drain
  repeat' first
    | with_reducible apply h1 | with_reducible apply State.coreArith_keeps | with_reducible apply State.writeTile_keeps
    | with_reducible apply State.produces_keeps | with_reducible apply State.fixScales_keeps | with_reducible apply State.modCore_keeps
    | with_reducible apply State.recordSlot_keeps | split | dsimp only

theorem State.shadowTake_keeps {a : State} (x0 : State) (x1 : Nat) (x2 : MF) (x3 : BitVec 64) (x4 : BitVec 64) (x5 : BitVec 64) (x6 : Nat)
    (x7 : List F32) (x8 : RecipeRow) (x9 : Run) (x10 : Slot) (h1 : Keeps a x0) : Keeps a
    (State.shadowTake x0 x1 x2 x3 x4 x5 x6 x7 x8 x9 x10) := by
  unfold State.shadowTake
  repeat' first
    | with_reducible apply h1 | with_reducible apply State.modCore_keeps | with_reducible apply State.draw_keeps
    | with_reducible apply State.setCoreBytes_keeps | with_reducible apply State.coreArith_keeps | split

theorem State.copyDrain_keeps {a : State} (x0 : State) (x1 : Nat) (x2 : Nat) (x3 : Nat) (x4 : MF) (x5 : BitVec 64) (x6 : BitVec 64)
    (x7 : BitVec 64) (x8 : Nat) (x9 : List F32) (h1 : Keeps a x0) : Keeps a (State.copyDrain x0 x1 x2 x3 x4 x5 x6 x7 x8 x9) := by
  unfold State.copyDrain
  repeat' first
    | with_reducible apply h1 | with_reducible apply State.shadowTake_keeps | with_reducible apply State.modCore_keeps
    | with_reducible apply State.drain_keeps | split

theorem State.mmaLast_keeps {a : State} (x0 : State) (x1 : Nat) (x2 : Nat) (x3 : QEntry) (x4 : MF) (x5 : BitVec 64) (x6 : BitVec 64)
    (x7 : BitVec 64) (x8 : BitVec 64) (x9 : Nat) (h1 : Keeps a x0) : Keeps a (State.mmaLast x0 x1 x2 x3 x4 x5 x6 x7 x8 x9) := by
  unfold State.mmaLast
  repeat' first
    | with_reducible apply h1 | with_reducible apply State.meetWords_keeps | with_reducible apply State.uncorrFault_keeps
    | with_reducible apply State.insnFaultAt_keeps | with_reducible apply State.modCore_keeps | with_reducible apply State.coreArith_keeps
    | with_reducible apply State.copyDrain_keeps | refine Keeps.snd ?_ (by with_reducible assumption) | split | dsimp only

/-! ## Tracker -/

theorem State.slotOpen_keeps {a : State} (x0 : State) (x1 : Nat) (x2 : Nat) (x3 : BitVec 32) (x4 : Nat) (x5 : Nat)
    (h1 : Keeps a x0) : Keeps a (State.slotOpen x0 x1 x2 x3 x4 x5) := by
  unfold State.slotOpen
  repeat' first | with_reducible apply h1 | with_reducible apply State.setCore_keeps | split | dsimp only

theorem State.slotClose_keeps {a : State} (x0 : State) (x1 : Nat) (x2 : Nat) (x3 : Nat) (h1 : Keeps a x0) : Keeps a
    (State.slotClose x0 x1 x2 x3) := by
  unfold State.slotClose
  repeat' first
    | with_reducible apply h1 | with_reducible apply State.setCore_keeps | with_reducible apply State.modCtx_keeps | split | dsimp only

theorem State.undoSems_keeps {a : State} (x0 : State) (x1 : Nat) (x2 : LayerRun) (h1 : Keeps a x0) : Keeps a (State.undoSems x0 x1 x2) := by
  unfold State.undoSems
  repeat' first | with_reducible apply h1 | with_reducible apply State.setSem_keeps | with_reducible apply Keeps.foldl | intro _

theorem State.startRerun_keeps {a : State} (x0 : State) (x1 : Nat) (x2 : Nat) (x3 : LayerRun) (h1 : Keeps a x0) : Keeps a
    (State.startRerun x0 x1 x2 x3) := by
  unfold State.startRerun
  repeat' first
    | with_reducible apply h1 | with_reducible apply State.modCtx_keeps | with_reducible apply State.undoSems_keeps
    | with_reducible apply State.setCore_keeps

theorem State.layerVerdict_keeps {a : State} (x0 : State) (x1 : Nat) (x2 : Nat) (x3 : BitVec 32) (h1 : Keeps a x0) : Keeps a
    (State.layerVerdict x0 x1 x2 x3) := by
  unfold State.layerVerdict
  repeat' first
    | with_reducible apply h1 | with_reducible apply State.startRerun_keeps | with_reducible apply State.setCore_keeps | split | dsimp only

theorem execTrackerMerge_keeps {a t : State} (x0 : CtxN) (x1 : State) (h1 : Keeps a x1) (e : execTrackerMerge x0 x1 = .next t) : Keeps a t := by
  unfold execTrackerMerge at e
  cases e
  repeat' first
    | with_reducible apply h1 | with_reducible apply State.modCtx_keeps | with_reducible apply State.layerVerdict_keeps | split | dsimp only

theorem execStepScalesFormed_keeps {a t : State} (x0 : CtxN) (x1 : State) (replays : Nat) (h1 : Keeps a x1)
    (e : execStepScalesFormed x0 x1 replays = .next t) : Keeps a t := by
  unfold execStepScalesFormed at e
  cases e
  repeat' first
    | with_reducible apply State.cross_keeps | with_reducible apply h1 | with_reducible apply State.firmDescales_keeps
    | with_reducible apply State.modCtx_keeps | with_reducible assumption | split | dsimp only | intro _

/-! ## Queue -/

theorem State.applyPending_keeps {a : State} (x0 : State) (x1 : Coll) (h1 : Keeps a x0) : Keeps a (State.applyPending x0 x1) := by
  unfold State.applyPending
  repeat' first
    | with_reducible apply State.applyGrant_keeps | with_reducible apply Keeps.foldl | exact Keeps.mk' (by with_reducible assumption)
    | intro _ | split

theorem State.firstGrants_keeps {a : State} (x0 : State) (x1 : Coll) (h1 : Keeps a x0) : Keeps a (State.firstGrants x0 x1) := by
  unfold State.firstGrants
  repeat' first
    | with_reducible assumption | with_reducible apply State.sendGrant_keeps | with_reducible apply State.modRail_keeps
    | with_reducible apply Keeps.foldl | intro _

theorem State.ownPiece_keeps {a : State} (x0 : State) (x1 : Coll) (x2 : Nat) (x3 : List Byte) (h1 : Keeps a x0) :
    Keeps a (State.ownPiece x0 x1 x2 x3) := by
  unfold State.ownPiece
  repeat' first
    | with_reducible apply h1 | with_reducible apply State.modRail_keeps | with_reducible apply State.addPiece_keeps
    | with_reducible apply State.collWrite_keeps | split | dsimp only

theorem State.ownShard_keeps {a : State} (x1 : Coll) (rs : List Nat) (x0 : State) (h1 : Keeps a x0) : Keeps a (State.ownShard x1 rs x0).2 := by
  induction rs generalizing x0 with
  | nil => exact h1
  | cons r rs ih =>
    have k := State.collRead_keeps x0 x1.ctx (x1.d.src + r * x0.pieceLen x1.d) (x0.pieceLen x1.d) h1
    unfold State.ownShard
    repeat' first
      | with_reducible apply h1 | with_reducible apply ih | with_reducible apply State.ownPiece_keeps | with_reducible assumption
      | with_reducible apply State.collRead_keeps | refine Keeps.snd ?_ (by with_reducible assumption) | split | dsimp only

theorem State.startRails_keeps {a : State} (x0 : State) (x1 : Coll) (h1 : Keeps a x0) : Keeps a (State.startRails x0 x1) := by
  unfold State.startRails
  repeat' first
    | with_reducible apply h1 | with_reducible apply State.applyPending_keeps | with_reducible apply State.copyLocal_keeps
    | with_reducible apply State.startStage_keeps | with_reducible apply Keeps.foldl | intro _ | split

theorem State.startRing_keeps {a : State} (x0 : State) (x1 : Coll) (h1 : Keeps a x0) : Keeps a (State.startRing x0 x1) := by
  unfold State.startRing
  repeat' first
    | with_reducible apply h1 | with_reducible apply State.ownShard_keeps | with_reducible apply State.startRails_keeps
    | refine Keeps.snd ?_ (by with_reducible assumption) | split

theorem State.startPeers_keeps {a : State} (x0 : State) (x1 : Coll) (h1 : Keeps a x0) : Keeps a (State.startPeers x0 x1) := by
  unfold State.startPeers
  repeat' first
    | with_reducible apply h1 | with_reducible apply State.applyPending_keeps | with_reducible apply State.grantP2p_keeps
    | with_reducible apply Keeps.foldl | intro _

theorem State.enterColl_keeps {a : State} (x0 : State) (x1 : Coll) (h1 : Keeps a x0) : Keeps a (State.enterColl x0 x1) := by
  unfold State.enterColl
  repeat' first | exact Keeps.mk' (by with_reducible assumption)

theorem State.peerTable_keeps {a : State} (x0 : State) (x1 : Nat) (x2 : CollDesc) (h1 : Keeps a x0) : Keeps a (State.peerTable x0 x1 x2).2 := by
  unfold State.peerTable
  repeat' first
    | with_reducible apply h1 | with_reducible apply State.collRead_keeps
    | refine State.selfCopies_keeps (e := by with_reducible assumption) (h1 := ?_) .. | with_reducible apply State.copyLocal_keeps
    | refine Keeps.snd ?_ (by with_reducible assumption) | split

theorem State.startColl_keeps {a t : State} (x0 : State) (x1 : Nat) (x2 : Nat) (x3 : Nat) (x4 : Nat) (x5 : Nat) (x6 : CollDesc)
    (h1 : Keeps a x0) (e : State.startColl x0 x1 x2 x3 x4 x5 x6 = some t) : Keeps a t := by
  unfold State.startColl at e
  (try dsimp only at e)
  (repeat' split at e) <;> (try cases e)
  all_goals repeat' first
    | with_reducible apply h1 | with_reducible apply State.modCtx_keeps | with_reducible apply State.startCtl_keeps
    | with_reducible apply State.startRing_keeps | with_reducible apply State.firstGrants_keeps | with_reducible apply State.enterColl_keeps
    | with_reducible apply State.peerTable_keeps | with_reducible apply State.startPeers_keeps
    | refine Keeps.snd ?_ (by with_reducible assumption)

theorem State.popDq_keeps {a : State} (x0 : State) (x1 : Nat) (h1 : Keeps a x0) : Keeps a (State.popDq x0 x1) := by
  unfold State.popDq
  repeat' first | with_reducible apply h1 | with_reducible apply State.modCore_keeps

theorem State.readSem_keeps {a : State} (x0 : State) (x1 : Nat) (x2 : Nat) (x3 : Nat) (x4 : Nat) (h1 : Keeps a x0) : Keeps a
    (State.readSem x0 x1 x2 x3 x4) := by
  unfold State.readSem
  repeat' first | with_reducible apply h1 | with_reducible apply State.modCore_keeps

theorem State.startDq_keeps {a t : State} (x0 : State) (x1 : Nat) (h1 : Keeps a x0) (e : x0.startDq x1 = some t) : Keeps a t := by
  have p := State.popDq_keeps x0 x1 h1
  unfold State.startDq at e
  dsimp only at e
  split at e
  · cases e
  · split at e <;> (repeat' split at e) <;> first | (injection e with e; subst e) | cases e
    · exact State.modCore_keeps _ _ _ (State.semInc_keeps _ _ _ _ _ p)
    · exact State.addDma_keeps _ _ _ _ p
    · exact State.modCore_keeps _ _ _ p
    · exact State.semClock_keeps _ _ _ _ p
    · exact State.readSem_keeps _ _ _ _ _ (State.semClock_keeps _ _ _ _ p)
    · exact State.popDq_keeps _ _ (State.startColl_keeps (e := by assumption) (h1 := h1) ..)
    · exact State.insnFaultAt_keeps _ _ _ _ p

theorem State.startVec_keeps {a : State} (x0 : State) (x1 : Nat) (x2 : VecWork) (h1 : Keeps a x0) : Keeps a (State.startVec x0 x1 x2) := by
  unfold State.startVec
  repeat' first
    | with_reducible apply h1 | with_reducible apply State.modCore_keeps | with_reducible apply State.fixScales_keeps
    | with_reducible apply State.execVec_keeps | split

theorem State.startVq_keeps {a t : State} (x0 : State) (x1 : Nat) (h1 : Keeps a x0) (e : State.startVq x0 x1 = some t) : Keeps a t := by
  unfold State.startVq at e
  (try dsimp only at e)
  (repeat' split at e) <;> (try cases e)
  all_goals repeat' first
    | with_reducible apply h1 | with_reducible apply State.startVec_keeps | with_reducible apply State.slotOpen_keeps
    | with_reducible apply State.modCore_keeps | with_reducible apply State.slotClose_keeps

theorem State.pumpN_keeps {a : State} (x0 : Nat) (x1 : Nat) (x2 : State) (h1 : Keeps a x2) : Keeps a (State.pumpN x0 x1 x2) := by
  induction x1 generalizing x2 with
  | zero => exact h1
  | succ k ih =>
    unfold State.pumpN
    split
    · exact ih _ (State.startVq_keeps _ _ h1 (by assumption))
    · split
      · exact ih _ (State.startDq_keeps _ _ h1 (by assumption))
      · exact h1

theorem State.pump_keeps {a : State} (x0 : State) (x1 : Nat) (h1 : Keeps a x0) : Keeps a (State.pump x0 x1) := by
  unfold State.pump
  repeat' first | with_reducible apply h1 | with_reducible apply State.pumpN_keeps

theorem State.pumpAll_keeps {a : State} (x0 : State) (h1 : Keeps a x0) : Keeps a (State.pumpAll x0) := by
  unfold State.pumpAll
  repeat' first | with_reducible apply h1 | with_reducible apply State.pump_keeps | with_reducible apply Keeps.foldl

theorem execIssueQueueRoom_keeps {a t : State} (x0 : CoreId) (x1 : Fin 4) (x2 : State) (h1 : Keeps a x2)
    (e : execIssueQueueRoom x0 x1 x2 = .next t) : Keeps a t := by
  unfold execIssueQueueRoom at e
  cases e
  repeat' first | with_reducible apply h1 | with_reducible apply State.setCore_keeps | split | dsimp only

theorem execArrayLastKStep_keeps {a t : State} (x0 : CoreId) (x1 : Fin 2) (x2 : State) (h1 : Keeps a x2)
    (e : execArrayLastKStep x0 x1 x2 = .next t) : Keeps a t := by
  unfold execArrayLastKStep at e
  cases e
  repeat' first
    | with_reducible apply h1 | with_reducible apply State.pump_keeps | with_reducible apply State.mmaLast_keeps | split | dsimp only

theorem execArrayDrainComplete_keeps {a t : State} (x0 : CoreId) (x1 : Fin 2) (x2 : State) (h1 : Keeps a x2)
    (e : execArrayDrainComplete x0 x1 x2 = .next t) : Keeps a t := by
  unfold execArrayDrainComplete at e
  cases e
  repeat' first
    | with_reducible apply h1 | with_reducible apply State.modCore_keeps | with_reducible apply State.pump_keeps
    | with_reducible apply State.copyDrain_keeps | split | dsimp only

theorem execShadowRecompute_keeps {a t : State} (x0 : CoreId) (x1 : State) (h1 : Keeps a x1)
    (e : execShadowRecompute x0 x1 = .next t) : Keeps a t := by
  unfold execShadowRecompute at e
  cases e
  repeat' first
    | with_reducible apply h1 | with_reducible apply State.modCore_keeps | with_reducible apply State.modCtx_keeps
    | with_reducible apply State.arith_keeps | split | dsimp only

theorem execJitQuantisePass_keeps {a t : State} (x0 : CoreId) (x1 : State) (h1 : Keeps a x1)
    (e : execJitQuantisePass x0 x1 = .next t) : Keeps a t := by
  unfold execJitQuantisePass at e
  cases e
  repeat' first | with_reducible apply h1 | with_reducible apply State.modCore_keeps | with_reducible apply State.execVec_keeps | split

theorem execVectorUpdateInstructionComplete_keeps {a t : State} (x0 : CoreId) (x1 : State) (replays : Nat) (h1 : Keeps a x1)
    (e : execVectorUpdateInstructionComplete x0 x1 replays = .next t) : Keeps a t := by
  unfold execVectorUpdateInstructionComplete at e
  cases e
  repeat' first
    | with_reducible apply State.cross_keeps | with_reducible apply h1 | with_reducible apply State.journalAdd_keeps
    | with_reducible apply State.pump_keeps | with_reducible apply State.modCore_keeps | with_reducible assumption | split | intro _

theorem State.remoteDone_keeps {a : State} (x0 : State) (x1 : Nat) (x2 : Remote) (h1 : Keeps a x0) : Keeps a (State.remoteDone x0 x1 x2) := by
  unfold State.remoteDone
  repeat' first
    | with_reducible apply h1 | with_reducible apply State.load_keeps | with_reducible apply State.modCore_keeps
    | with_reducible apply State.uncorrFault_keeps | with_reducible apply State.illegal_keeps | with_reducible apply State.writeFor_keeps
    | refine Keeps.snd ?_ (by with_reducible assumption) | split | dsimp only

theorem execRemoteAldAstComplete_keeps {a t : State} (x0 : CoreId) (x1 : Nat) (x2 : Nat) (x3 : State) (h1 : Keeps a x3)
    (e : execRemoteAldAstComplete x0 x1 x3 x2 = .next t) : Keeps a t := by
  unfold execRemoteAldAstComplete at e
  cases e
  repeat' first
    | with_reducible apply h1 | with_reducible apply State.modCore_keeps | with_reducible apply State.pump_keeps
    | with_reducible apply State.cross_keeps | with_reducible apply State.remoteDone_keeps | intro _ | split

theorem execDmaDescriptorComplete_keeps {a t : State} (x0 : CoreId) (x1 : Nat) (x2 : State) (h1 : Keeps a x2)
    (e : execDmaDescriptorComplete x0 x1 x2 = .next t) : Keeps a t := by
  unfold execDmaDescriptorComplete at e
  cases e
  repeat' first
    | with_reducible apply h1 | with_reducible apply State.modCore_keeps | with_reducible apply State.pump_keeps
    | with_reducible apply State.dmaRun_keeps | with_reducible apply State.semInc_keeps | split | dsimp only

theorem execSemaphoreWaitGrant_keeps {a t : State} (x0 : CtxN) (x1 : BitVec 8) (x2 : State) (h1 : Keeps a x2)
    (e : execSemaphoreWaitGrant x0 x1 x2 = .next t) : Keeps a t := by
  unfold execSemaphoreWaitGrant at e
  cases e
  repeat' first | with_reducible apply h1 | with_reducible apply State.semClock_keeps | split

/-! ## CollEnd -/

theorem State.endSection_keeps {a : State} (x0 : State) (x1 : Coll) (x2 : CtlSec) (h1 : Keeps a x0) : Keeps a (State.endSection x0 x1 x2) := by
  unfold State.endSection
  repeat' first | with_reducible apply h1 | with_reducible apply State.modCtx_keeps | split

theorem State.retainOne_keeps {a : State} (x0 : Nat) (x1 : Nat) (x2 : State) (x3 : Nat × Nat) (h1 : Keeps a x2) : Keeps a
    (State.retainOne x0 x1 x2 x3) := by
  unfold State.retainOne
  repeat' first | with_reducible apply h1 | with_reducible apply State.illegal_keeps | with_reducible apply State.modCtx_keeps | split

theorem State.retainDst_keeps {a : State} (x0 : State) (x1 : Coll) (h1 : Keeps a x0) : Keeps a (State.retainDst x0 x1) := by
  unfold State.retainDst
  repeat' first | with_reducible apply h1 | with_reducible apply State.retainOne_keeps | with_reducible apply Keeps.foldl | split

theorem State.reshardGo_keeps {a : State} (x0 : State) (x1 : Nat) (h1 : Keeps a x0) : Keeps a (State.reshardGo x0 x1) := by
  unfold State.reshardGo
  repeat' first
    | with_reducible apply h1 | refine State.startColl_keeps (e := by with_reducible assumption) (h1 := ?_) ..
    | with_reducible apply State.modCtx_keeps | with_reducible apply State.illegal_keeps | split

theorem State.reshardEnd_keeps {a : State} (x0 : State) (x1 : Nat) (h1 : Keeps a x0) : Keeps a (State.reshardEnd x0 x1) := by
  unfold State.reshardEnd
  repeat' first | with_reducible apply h1 | with_reducible apply State.finish_keeps | with_reducible apply State.modCtx_keeps | split

theorem execReshard_keeps {a t : State} (x0 : CtxN) (x1 : Tag) (x2 : State) (h1 : Keeps a x2) (e : execReshard x0 x1 x2 = .next t) : Keeps a t := by
  unfold execReshard at e
  cases e
  repeat' first
    | with_reducible assumption | with_reducible apply State.command_keeps | with_reducible apply State.finish_keeps
    | with_reducible apply State.reshardGo_keeps | with_reducible apply State.modCtx_keeps | intro _ | split | dsimp only

theorem State.collLeave_keeps {a : State} (x0 : State) (x1 : Coll) (h1 : Keeps a x0) : Keeps a (State.collLeave x0 x1) := by
  unfold State.collLeave
  repeat' first
    | with_reducible apply State.semInc_keeps | with_reducible apply State.pumpAll_keeps | with_reducible apply State.reshardGo_keeps
    | exact Keeps.mk' (by with_reducible assumption) | split | fail_if_no_progress (refine Keeps.mk' ?_)

theorem State.cutColl_keeps {a : State} (x0 : State) (x1 : Coll) (h1 : Keeps a x0) : Keeps a (State.cutColl x0 x1) := by
  unfold State.cutColl
  repeat' first
    | with_reducible apply State.scramble_keeps | with_reducible apply Keeps.foldl | exact Keeps.mk' (by with_reducible assumption)
    | intro _

theorem execCollLocalComplete_keeps {a t : State} (x0 : Nat) (x1 : State) (h1 : Keeps a x1)
    (e : execCollLocalComplete x0 x1 = .next t) : Keeps a t := by
  unfold execCollLocalComplete at e
  cases e
  repeat' first
    | with_reducible apply h1 | with_reducible apply State.cutColl_keeps | with_reducible apply State.epochMismatch_keeps
    | with_reducible apply State.modCtl_keeps | with_reducible apply State.collLeave_keeps | with_reducible apply State.retainDst_keeps
    | with_reducible apply State.endSection_keeps | split

end Sys2Proof.Machine
end

