-- ==== Sys2Proof/Laws/KeepsSched.lean ====
section
/-!
SUPPORT. What every operation keeps, continued: programs, tasks, runs and scheduling.
-/

set_option Elab.async false

namespace Sys2Proof.Machine

open Sys2Proof

/-! ## SchedOps -/

theorem State.beginSlice_keeps {a : State} (x0 : State) (x1 : Nat) (x2 : Nat) (h1 : Keeps a x0) : Keeps a (State.beginSlice x0 x1 x2) := by
  unfold State.beginSlice
  repeat' first | with_reducible apply h1 | with_reducible apply State.modCtx_keeps | with_reducible apply State.modQuarter_keeps

theorem State.countPreempt_keeps {a : State} (x0 : State) (x1 : Nat) (x2 : Nat) (h1 : Keeps a x0) : Keeps a (State.countPreempt x0 x1 x2) := by
  unfold State.countPreempt
  repeat' first | with_reducible apply h1 | with_reducible apply State.modQuarter_keeps | with_reducible apply State.modCtx_keeps

theorem State.beginRestore_keeps {a : State} (x0 : State) (x1 : Nat) (x2 : Nat) (h1 : Keeps a x0) : Keeps a (State.beginRestore x0 x1 x2) := by
  unfold State.beginRestore
  repeat' first | with_reducible apply h1 | with_reducible apply State.beginSlice_keeps | with_reducible apply State.modQuarter_keeps

theorem State.stopBoundary_keeps {a : State} (x0 : State) (x1 : Nat) (h1 : Keeps a x0) : Keeps a (State.stopBoundary x0 x1) := by
  unfold State.stopBoundary
  repeat' first | with_reducible apply h1 | with_reducible apply State.modCore_keeps | with_reducible apply Keeps.foldl | intro _

theorem State.endSlice_keeps {a : State} (x0 : State) (x1 : Nat) (x2 : Nat) (x3 : Option Nat) (h1 : Keeps a x0) : Keeps a
    (State.endSlice x0 x1 x2 x3) := by
  unfold State.endSlice
  repeat' first
    | with_reducible apply h1 | with_reducible apply State.stopBoundary_keeps | with_reducible apply State.modQuarter_keeps
    | with_reducible apply State.countPreempt_keeps | split | dsimp only

theorem State.reschedule_keeps {a : State} (x0 : State) (x1 : Nat) (h1 : Keeps a x0) : Keeps a (State.reschedule x0 x1) := by
  unfold State.reschedule
  repeat' first
    | with_reducible apply h1 | with_reducible apply State.modQuarter_keeps | with_reducible apply State.beginRestore_keeps
    | with_reducible apply State.endSlice_keeps | with_reducible apply State.beginSlice_keeps | split | dsimp only

theorem State.rescheduleAll_keeps {a : State} (x0 : State) (h1 : Keeps a x0) : Keeps a (State.rescheduleAll x0) := by
  unfold State.rescheduleAll
  repeat' first | with_reducible apply h1 | with_reducible apply State.reschedule_keeps | with_reducible apply Keeps.foldl

/-! ## Tasks -/

theorem State.poolAdd_keeps {a : State} (x0 : State) (x1 : Nat) (x2 : Nat) (x3 : TaskDesc) (h1 : Keeps a x0) : Keeps a
    (State.poolAdd x0 x1 x2 x3) := by
  unfold State.poolAdd
  repeat' first
    | with_reducible apply h1 | with_reducible apply State.modCtx_keeps | with_reducible apply State.straggle_keeps | split | dsimp only

theorem State.makeRunnable_keeps {a : State} (x0 : State) (x1 : Nat) (x2 : List (Nat × Nat)) (h1 : Keeps a x0) : Keeps a
    (State.makeRunnable x0 x1 x2) := by
  unfold State.makeRunnable
  repeat' first
    | with_reducible apply h1 | with_reducible apply State.rescheduleAll_keeps | with_reducible apply State.modCtx_keeps
    | with_reducible apply State.poolAdd_keeps | with_reducible apply Keeps.foldl | intro _ | split

theorem State.advanceRuns_keeps {a : State} (x0 : State) (x1 : Nat) (x2 : List Nat) (h1 : Keeps a x0) : Keeps a (State.advanceRuns x0 x1 x2) := by
  unfold State.advanceRuns
  repeat' first | with_reducible apply h1 | with_reducible apply State.makeRunnable_keeps | with_reducible apply State.modCtx_keeps | split

theorem State.advanceRun_keeps {a : State} (x0 : State) (x1 : Nat) (x2 : Nat) (h1 : Keeps a x0) : Keeps a (State.advanceRun x0 x1 x2) := by
  unfold State.advanceRun
  repeat' first | with_reducible apply h1 | with_reducible apply State.advanceRuns_keeps

theorem State.readCode_keeps {a : State} (x0 : State) (x1 : Nat) (x2 : Nat) (h1 : Keeps a x0) : Keeps a (State.readCode x0 x1 x2).2 := by
  unfold State.readCode
  repeat' first
    | with_reducible apply h1 | with_reducible apply State.load_keeps | refine Keeps.snd ?_ (by with_reducible assumption) | split

theorem State.startTask_keeps {a : State} (x0 : State) (x1 : Nat) (x2 : Nat) (x3 : Run) (x4 : TaskDesc) (x5 : Nat)
    (h1 : Keeps a x0) : Keeps a (State.startTask x0 x1 x2 x3 x4 x5) := by
  unfold State.startTask
  repeat' first
    | with_reducible apply h1 | with_reducible apply State.readCode_keeps | with_reducible apply State.uncorrFault_keeps
    | with_reducible apply State.modCore_keeps | with_reducible apply State.insnFault_keeps
    | refine Keeps.snd ?_ (by with_reducible assumption) | split

theorem execTaskTake_keeps {a t : State} (x0 : CoreId) (x1 : State) (replays : Nat) (h1 : Keeps a x1) (e : execTaskTake x0 x1 replays = .next t) : Keeps a t := by
  unfold execTaskTake at e
  cases e
  repeat' first
    | with_reducible apply State.cross_keeps | with_reducible apply h1 | with_reducible apply State.modCore_keeps
    | with_reducible apply State.startTask_keeps | with_reducible apply State.modCtx_keeps | with_reducible assumption | split | dsimp only
    | intro _

theorem execCoreClockRestart_keeps {a t : State} (x0 : CoreId) (x1 : State) (h1 : Keeps a x1)
    (e : execCoreClockRestart x0 x1 = .next t) : Keeps a t := by
  unfold execCoreClockRestart at e
  cases e
  repeat' first | with_reducible apply h1 | with_reducible apply State.modCore_keeps | split

theorem State.dropDep_keeps {a : State} (x0 : State) (x1 : Nat) (x2 : Nat) (x3 : Nat) (x4 : BitVec 32) (x5 : Nat)
    (h1 : Keeps a x0) : Keeps a (State.dropDep x0 x1 x2 x3 x4 x5) := by
  unfold State.dropDep
  repeat' first | with_reducible apply h1 | with_reducible apply State.illegalTask_keeps | with_reducible apply State.modCtx_keeps | split

theorem State.endTask_keeps {a : State} (x0 : State) (x1 : Nat) (x2 : Nat) (x3 : TaskRun) (x4 : TaskDesc) (h1 : Keeps a x0) : Keeps a
    (State.endTask x0 x1 x2 x3 x4) := by
  unfold State.endTask
  repeat' first
    | with_reducible assumption | with_reducible apply State.modCore_keeps | with_reducible apply State.modCtx_keeps
    | with_reducible apply State.semInc_keeps | with_reducible apply State.dropDep_keeps | with_reducible apply State.advanceRun_keeps
    | with_reducible apply Keeps.foldl | intro _ | split

theorem execTaskComplete_keeps {a t : State} (x0 : CoreId) (x1 : State) (h1 : Keeps a x1) (e : execTaskComplete x0 x1 = .next t) : Keeps a t := by
  unfold execTaskComplete at e
  cases e
  repeat' first | with_reducible apply h1 | with_reducible apply State.endTask_keeps | split | dsimp only

theorem execBlockBoundExpiry_keeps {a t : State} (x0 : CoreId) (x1 : State) (h1 : Keeps a x1)
    (e : execBlockBoundExpiry x0 x1 = .next t) : Keeps a t := by
  unfold execBlockBoundExpiry at e
  cases e
  repeat' first
    | with_reducible apply h1 | with_reducible apply State.fatal_keeps | with_reducible apply State.modCore_keeps | split | dsimp only

/-! ## Program -/

theorem State.install_keeps {a : State} (x0 : State) (x1 : Nat) (x2 : Prog) (x3 : Nat) (h1 : Keeps a x0) : Keeps a (State.install x0 x1 x2 x3) := by
  unfold State.install
  repeat' first
    | with_reducible apply h1 | with_reducible apply State.modCtx_keeps | with_reducible apply State.startFill_keeps | split | dsimp only

theorem execProgramLoad_keeps {a t : State} (x0 : CtxN) (x1 : Tag) (x2 : State) (replays : Nat) (h1 : Keeps a x2)
    (e : execProgramLoad x0 x1 x2 replays = .next t) : Keeps a t := by
  unfold execProgramLoad at e
  injection e with e
  subst e
  refine State.commandIf_keeps _ _ _ _ _ _ h1 fun c s h => ?_
  extract_lets x y stop
  clear_value x y
  refine .ite (State.finish_keeps _ _ _ _ _ _ _ h) (.ite (State.finish_keeps _ _ _ _ _ _ _ h) ?_)
  refine State.cross_keeps _ _ _ _ _ _ _ h fun s h => ?_
  have k2 := State.load_keeps _ x y h
  generalize s.load x y = p at k2
  obtain ⟨o, s'⟩ := p
  cases o
  · refine .ite (State.finish_keeps _ _ _ _ _ _ _ k2) ?_
    extract_lets pr
    clear_value pr
    generalize s'.takeArea 0 (pr.areaUnits * unit2M) = o
    cases o
    · exact State.finish_keeps _ _ _ _ _ _ _ k2
    · exact State.finish_keeps _ _ _ _ _ _ _ (State.install_keeps _ _ _ _ k2)
  · exact State.uncorrFault_keeps _ _ _ _ _ k2

/-! ## SnapOps -/

theorem State.failSnapshot_keeps {a : State} (x0 : State) (x1 : Nat) (x2 : Nat) (h1 : Keeps a x0) : Keeps a (State.failSnapshot x0 x1 x2) := by
  unfold State.failSnapshot
  repeat' first | with_reducible apply h1 | with_reducible apply State.finish_keeps | with_reducible apply State.endOp_keeps | split

theorem State.stopToT2_keeps {a : State} (x0 : State) (x1 : Nat) (x2 : Image) (h1 : Keeps a x0) : Keeps a (State.stopToT2 x0 x1 x2) := by
  unfold State.stopToT2
  repeat' first
    | with_reducible apply h1 | with_reducible apply State.failSnapshot_keeps
    | refine State.chargeGen_keeps (e := by with_reducible assumption) (h1 := ?_) .. | with_reducible apply State.readRegions_keeps
    | with_reducible apply State.uncorrFault_keeps | with_reducible apply State.modSnapOf_keeps | with_reducible apply State.modOp_keeps
    | refine Keeps.snd ?_ (by with_reducible assumption) | split | dsimp only

theorem State.stopToFabric_keeps {a : State} (x0 : State) (x1 : Nat) (x2 : Image) (h1 : Keeps a x0) : Keeps a (State.stopToFabric x0 x1 x2) := by
  unfold State.stopToFabric
  repeat' first
    | with_reducible apply h1 | with_reducible apply State.readRegions_keeps | with_reducible apply State.uncorrFault_keeps
    | with_reducible apply State.takeGrants_keeps | with_reducible apply State.modSnapOf_keeps | with_reducible apply State.modOp_keeps
    | refine Keeps.snd ?_ (by with_reducible assumption) | split

theorem State.beginStop_keeps {a : State} (x0 : State) (x1 : Nat) (h1 : Keeps a x0) : Keeps a (State.beginStop x0 x1) := by
  unfold State.beginStop
  repeat' first
    | with_reducible apply h1 | with_reducible apply State.failSnapshot_keeps | with_reducible apply State.stopToT2_keeps
    | with_reducible apply State.stopToFabric_keeps | split

/-! ## Runs -/

theorem State.setLast_keeps {a : State} (x0 : State) (x1 : Nat) (x2 : Last) (h1 : Keeps a x0) : Keeps a (State.setLast x0 x1 x2) := by
  unfold State.setLast
  repeat' first | exact Keeps.mk' (by with_reducible assumption) | split

theorem State.takeLast_keeps {a : State} (x0 : State) (x1 : Nat) (h1 : Keeps a x0) : Keeps a (State.takeLast x0 x1) := by
  unfold State.takeLast
  repeat' first | with_reducible apply h1 | with_reducible apply State.setLast_keeps | split

theorem State.dropLast_keeps {a : State} (x0 : State) (x1 : Nat) (h1 : Keeps a x0) : Keeps a (State.dropLast x0 x1) := by
  unfold State.dropLast
  repeat' first | with_reducible apply h1 | with_reducible apply State.setLast_keeps | split

theorem State.putStepBlock_keeps {a : State} (x0 : State) (x1 : Nat) (x2 : Nat) (x3 : Bool) (x4 : Bool) (h1 : Keeps a x0) : Keeps a
    (State.putStepBlock x0 x1 x2 x3 x4) := by
  unfold State.putStepBlock
  repeat' first | with_reducible apply h1 | with_reducible apply State.store_keeps | split

theorem State.prevSet_keeps {a : State} (x0 : State) (x1 : Nat) (x2 : Nat) (h1 : Keeps a x0) : Keeps a (State.prevSet x0 x1 x2).2 := by
  unfold State.prevSet
  repeat' first
    | with_reducible apply h1 | with_reducible apply State.load_keeps | refine Keeps.snd ?_ (by with_reducible assumption) | split

theorem State.ledgerSlot_keeps {a : State} (x0 : State) (x1 : Nat) (h1 : Keeps a x0) : Keeps a (State.ledgerSlot x0 x1) := by
  unfold State.ledgerSlot
  repeat' first | exact Keeps.mk' (by with_reducible assumption)

theorem State.modStepOf_keeps {a : State} (x0 : State) (x1 : Nat) (x2 : CtxStep → CtxStep) (h1 : Keeps a x0) : Keeps a
    (State.modStepOf x0 x1 x2) := by
  unfold State.modStepOf
  repeat' first | with_reducible apply h1 | with_reducible apply State.modCtx_keeps

theorem State.prepRun_keeps {a : State} (x0 : Nat) (x1 : State) (x2 : Nat) (h1 : Keeps a x1) : Keeps a (State.prepRun x0 x1 x2) := by
  unfold State.prepRun
  repeat' first
    | with_reducible apply h1 | with_reducible apply State.modCtx_keeps | with_reducible apply State.prevSet_keeps
    | with_reducible apply State.uncorrFault_keeps | with_reducible apply State.putStepBlock_keeps
    | with_reducible apply State.firmDescales_keeps | refine Keeps.snd ?_ (by with_reducible assumption) | split

theorem State.releaseRuns_keeps {a : State} (x0 : State) (x1 : Nat) (x2 : List Nat) (h1 : Keeps a x0) : Keeps a (State.releaseRuns x0 x1 x2) := by
  unfold State.releaseRuns
  repeat' first
    | with_reducible apply h1 | with_reducible apply State.advanceRuns_keeps | with_reducible apply State.prepRun_keeps
    | with_reducible apply Keeps.foldl

theorem State.releaseRun_keeps {a : State} (x0 : State) (x1 : Nat) (x2 : Nat) (h1 : Keeps a x0) : Keeps a (State.releaseRun x0 x1 x2) := by
  unfold State.releaseRun
  repeat' first | with_reducible apply h1 | with_reducible apply State.releaseRuns_keeps

theorem State.releaseHeld_keeps {a : State} (x0 : State) (x1 : Nat) (h1 : Keeps a x0) : Keeps a (State.releaseHeld x0 x1) := by
  unfold State.releaseHeld
  repeat' first | with_reducible apply h1 | with_reducible apply State.releaseRuns_keeps | split

theorem State.committed_keeps {a : State} (x0 : State) (x1 : Nat) (x2 : Nat) (h1 : Keeps a x0) : Keeps a (State.committed x0 x1 x2) := by
  unfold State.committed
  repeat' first
    | with_reducible apply h1 | with_reducible apply State.modStepOf_keeps | with_reducible apply State.beginStop_keeps
    | with_reducible apply State.releaseHeld_keeps | with_reducible apply State.ledgerSlot_keeps

theorem State.contribute_keeps {a : State} (x0 : State) (x1 : Nat) (h1 : Keeps a x0) : Keeps a (State.contribute x0 x1) := by
  unfold State.contribute
  repeat' first
    | with_reducible apply h1 | with_reducible apply State.committed_keeps | with_reducible apply State.sendWave_keeps
    | with_reducible apply State.startWave_keeps | split | dsimp only

theorem execCommitWaveComplete_keeps {a t : State} (x0 : CtxN) (x1 : State) (replays : Nat) (h1 : Keeps a x1)
    (e : execCommitWaveComplete x0 x1 replays = .next t) : Keeps a t := by
  unfold execCommitWaveComplete at e
  cases e
  repeat' first
    | with_reducible apply State.cross_keeps | with_reducible apply h1 | with_reducible apply State.epochMismatch_keeps
    | with_reducible apply State.setWave_keeps | with_reducible apply State.committed_keeps | with_reducible assumption | split | intro _

theorem State.serveScales_keeps {a : State} (x0 : State) (x1 : Nat) (x2 : Run) (h1 : Keeps a x0) : Keeps a (State.serveScales x0 x1 x2) := by
  unfold State.serveScales
  repeat' first | with_reducible apply h1 | with_reducible apply State.firmDescales_keeps | with_reducible apply State.modCtx_keeps | split

theorem State.admitRun_keeps {a : State} (x0 : State) (x1 : Nat) (x2 : BitVec 16) (x3 : Cmd) (x4 : Prog) (x5 : Nat)
    (h1 : Keeps a x0) : Keeps a (State.admitRun x0 x1 x2 x3 x4 x5) := by
  unfold State.admitRun
  repeat' first
    | with_reducible apply h1 | with_reducible apply State.addUsed_keeps | with_reducible apply State.takeLast_keeps
    | with_reducible apply State.serveScales_keeps | with_reducible apply State.modCtx_keeps | with_reducible apply State.contribute_keeps
    | with_reducible apply State.releaseRun_keeps | split | dsimp only

theorem execRun_keeps {a t : State} (x0 : CtxN) (x1 : Tag) (x2 : State) (h1 : Keeps a x2) (e : execRun x0 x1 x2 = .next t) : Keeps a t := by
  unfold execRun at e
  cases e
  repeat' first
    | with_reducible assumption | with_reducible apply State.commandIf_keeps | with_reducible apply State.finish_keeps
    | with_reducible apply State.admitRun_keeps | intro _ | split | dsimp only

theorem State.releasePages_keeps {a : State} (x0 : State) (x1 : Nat) (x2 : Run) (h1 : Keeps a x0) : Keeps a (State.releasePages x0 x1 x2) := by
  unfold State.releasePages
  repeat' first | with_reducible assumption | with_reducible apply State.setOwner_keeps | with_reducible apply Keeps.foldl | intro _ | split

theorem State.leaveRun_keeps {a : State} (x0 : State) (x1 : Nat) (x2 : Run) (h1 : Keeps a x0) : Keeps a (State.leaveRun x0 x1 x2) := by
  unfold State.leaveRun
  repeat' first
    | with_reducible apply h1 | with_reducible apply State.subUsed_keeps | with_reducible apply State.releasePages_keeps
    | with_reducible apply State.dropLast_keeps | with_reducible apply State.modCtx_keeps

theorem State.abortRun_keeps {a : State} (x0 : State) (x1 : Nat) (x2 : Run) (h1 : Keeps a x0) : Keeps a (State.abortRun x0 x1 x2) := by
  unfold State.abortRun
  repeat' first
    | with_reducible apply h1 | with_reducible apply State.modCtx_keeps | with_reducible apply State.modStepOf_keeps
    | with_reducible apply State.leaveRun_keeps | split

theorem State.localCommit_keeps {a : State} (x0 : State) (x1 : Nat) (x2 : Run) (h1 : Keeps a x0) : Keeps a (State.localCommit x0 x1 x2) := by
  unfold State.localCommit
  repeat' first
    | with_reducible apply h1 | with_reducible apply State.modCtx_keeps | with_reducible apply State.ledgerSlot_keeps
    | with_reducible apply State.modStepOf_keeps | with_reducible apply State.putStepBlock_keeps
    | with_reducible apply State.contribute_keeps | with_reducible apply State.govPeriod_keeps

theorem execRunEnd_keeps {a t : State} (x0 : CtxN) (x1 : Tag) (x2 : State) (replays : Nat) (h1 : Keeps a x2) (e : execRunEnd x0 x1 x2 replays = .next t) : Keeps a t := by
  unfold execRunEnd at e
  cases e
  repeat' first
    | with_reducible apply State.cross_keeps | with_reducible apply h1 | with_reducible apply State.localCommit_keeps
    | with_reducible apply State.modCtx_keeps | with_reducible apply State.finish_keeps | with_reducible apply State.leaveRun_keeps
    | with_reducible assumption | split | intro _

/-! ## Sched -/

theorem State.endSuspends_keeps {a : State} (x0 : State) (h1 : Keeps a x0) : Keeps a (State.endSuspends x0) := by
  unfold State.endSuspends
  repeat' first | with_reducible assumption | with_reducible apply State.finish_keeps | with_reducible apply Keeps.foldl | intro _ | split

theorem execPreemptSuspend_keeps {a t : State} (x0 : Tag) (x1 : State) (h1 : Keeps a x1) (e : execPreemptSuspend x0 x1 = .next t) : Keeps a t := by
  unfold execPreemptSuspend at e
  cases e
  repeat' first
    | with_reducible assumption | with_reducible apply State.commandIf_keeps | with_reducible apply State.finish_keeps
    | with_reducible apply State.endSuspends_keeps | with_reducible apply State.rescheduleAll_keeps
    | with_reducible apply State.modCtx_keeps | intro _ | split | dsimp only

theorem execPreemptResume_keeps {a t : State} (x0 : Tag) (x1 : State) (h1 : Keeps a x1) (e : execPreemptResume x0 x1 = .next t) : Keeps a t := by
  unfold execPreemptResume at e
  cases e
  repeat' first
    | with_reducible assumption | with_reducible apply State.commandIf_keeps | with_reducible apply State.finish_keeps
    | with_reducible apply State.rescheduleAll_keeps | with_reducible apply State.modCtx_keeps | intro _ | split | dsimp only

theorem execSliceExpiry_keeps {a t : State} (x0 : QuarterId) (x1 : State) (h1 : Keeps a x1) (e : execSliceExpiry x0 x1 = .next t) : Keeps a t := by
  unfold execSliceExpiry at e
  cases e
  repeat' first
    | with_reducible apply h1 | with_reducible apply State.beginSlice_keeps | with_reducible apply State.endSlice_keeps | split | dsimp only

theorem execYieldIdleTimer_keeps {a t : State} (x0 : QuarterId) (x1 : State) (h1 : Keeps a x1)
    (e : execYieldIdleTimer x0 x1 = .next t) : Keeps a t := by
  unfold execYieldIdleTimer at e
  cases e
  repeat' first
    | with_reducible apply h1 | with_reducible apply State.reschedule_keeps | with_reducible apply State.modQuarter_keeps | split
    | dsimp only

theorem execPreemptBoundaryReached_keeps {a t : State} (x0 : QuarterId) (x1 : State) (h1 : Keeps a x1)
    (e : execPreemptBoundaryReached x0 x1 = .next t) : Keeps a t := by
  unfold execPreemptBoundaryReached at e
  cases e
  repeat' first
    | with_reducible apply h1 | with_reducible apply State.stopBoundary_keeps | with_reducible apply State.modCtx_keeps
    | with_reducible apply State.countPreempt_keeps | with_reducible apply State.reschedule_keeps
    | with_reducible apply State.modQuarter_keeps | split | dsimp only

theorem State.copyRange_keeps {a : State} (x0 : State) (x1 x2 x3 : Nat) (h1 : Keeps a x0) : Keeps a (x0.copyRange x1 x2 x3).2 := by
  have k := State.meetWords_keeps _ 0 (x0.badIn x1 x3) h1
  have f : ∀ (l m : Mem), Memory.wf m = true → Memory.wf (l.foldl (fun m e => SMap.set (0#8) m (e.1 - x1 + x2) e.2) m) = true := fun l => by
    induction l with
    | nil => exact fun _ h => h
    | cons e l ih => exact fun m h => ih _ (SMap.wf_set _ _ h)
  unfold State.copyRange
  split
  · exact State.straggle_keeps _ _ h1
  split
  · exact State.fill_keeps _ _ _ (State.straggle_keeps _ _ h1)
  split <;> rename_i e <;> rw [e] at k
  · exact k
  · exact State.afterStore_keeps _ _ _ ((State.zero_keeps _ _ _ k).updMem _ (f _ _))

theorem State.saveRegs_keeps {a : State} (x0 : State) (x1 : Core) (x2 : Nat) (h1 : Keeps a x0) : Keeps a (State.saveRegs x0 x1 x2) := by
  unfold State.saveRegs
  repeat' first
    | with_reducible apply h1 | with_reducible apply State.scramble_keeps | with_reducible apply State.setBytes_keeps
    | with_reducible apply State.afterStore_keeps | with_reducible apply State.undefBytes_keeps | split

theorem State.saveCore_keeps {a : State} (x0 : Nat) (x1 : State) (x2 : Nat) (h1 : Keeps a x1) : Keeps a (State.saveCore x0 x1 x2) := by
  unfold State.saveCore
  repeat' first
    | with_reducible apply h1 | with_reducible apply State.modCtx_keeps | with_reducible apply State.copyRange_keeps
    | with_reducible apply State.uncorrFault_keeps | with_reducible apply State.saveRegs_keeps | with_reducible apply State.zero_keeps
    | with_reducible apply State.setCore_keeps | refine Keeps.snd ?_ (by with_reducible assumption) | split

theorem execSaveComplete_keeps {a t : State} (x0 : QuarterId) (x1 : State) (replays : Nat) (h1 : Keeps a x1) (e : execSaveComplete x0 x1 replays = .next t) : Keeps a t := by
  unfold execSaveComplete at e
  cases e
  repeat' first
    | with_reducible apply State.cross_keeps | with_reducible apply h1 | with_reducible apply State.saveCore_keeps
    | with_reducible apply State.modQuarter_keeps | with_reducible apply State.endSuspends_keeps
    | with_reducible apply State.beginRestore_keeps | with_reducible apply State.reschedule_keeps | with_reducible apply Keeps.foldl
    | with_reducible assumption | split | dsimp only | intro _

theorem State.reloadCode_keeps {a : State} (x0 : State) (x1 : Nat) (x2 : Nat) (h1 : Keeps a x0) : Keeps a (State.reloadCode x0 x1 x2) := by
  unfold State.reloadCode
  repeat' first
    | with_reducible apply h1 | with_reducible apply State.readCode_keeps | with_reducible apply State.modCore_keeps
    | with_reducible apply State.uncorrFault_keeps | refine Keeps.snd ?_ (by with_reducible assumption) | split

theorem State.loadRegs_keeps {a : State} (x0 : State) (x1 : Nat) (x2 : Nat) (x3 : Nat) (h1 : Keeps a x0) : Keeps a (State.loadRegs x0 x1 x2 x3) := by
  unfold State.loadRegs
  repeat' first
    | with_reducible apply h1 | with_reducible apply State.load_keeps | with_reducible apply State.uncorrFault_keeps
    | with_reducible apply State.modCore_keeps | refine Keeps.snd ?_ (by with_reducible assumption) | split

theorem State.restoreCore_keeps {a : State} (x0 : Nat) (x1 : State) (x2 : Nat) (h1 : Keeps a x1) : Keeps a (State.restoreCore x0 x1 x2) := by
  unfold State.restoreCore
  repeat' first
    | with_reducible apply h1 | with_reducible apply State.zero_keeps | with_reducible apply State.setCore_keeps
    | with_reducible apply State.modCtx_keeps | with_reducible apply State.copyRange_keeps | with_reducible apply State.uncorrFault_keeps
    | with_reducible apply State.loadRegs_keeps | with_reducible apply State.reloadCode_keeps | with_reducible apply State.straggle_keeps
    | refine Keeps.snd ?_ (by with_reducible assumption) | split

theorem execRestoreQuarterComplete_keeps {a t : State} (x0 : QuarterId) (x1 : State) (replays : Nat) (h1 : Keeps a x1)
    (e : execRestoreQuarterComplete x0 x1 replays = .next t) : Keeps a t := by
  unfold execRestoreQuarterComplete at e
  cases e
  repeat' first
    | with_reducible apply State.cross_keeps | with_reducible apply h1 | with_reducible apply State.fill_keeps
    | with_reducible apply State.restoreCore_keeps | with_reducible apply State.reschedule_keeps
    | with_reducible apply State.modQuarter_keeps | with_reducible apply Keeps.foldl | with_reducible assumption | split | dsimp only
    | intro _

end Sys2Proof.Machine
end

