-- ==== Sys2Proof/Laws/KeepsHost.lean ====
section
/-!
SUPPORT. What every operation keeps, continued: allocation, loads, contexts and the command queues.
-/

set_option Elab.async false

namespace Sys2Proof.Machine

open Sys2Proof

/-! ## Memory -/

theorem State.ownPages_keeps {a : State} (x0 : State) (x1 : Nat) (x2 : Nat) (x3 : Nat) (h1 : Keeps a x0) : Keeps a (State.ownPages x0 x1 x2 x3) := by
  unfold State.ownPages
  repeat' first | with_reducible apply h1 | with_reducible apply State.setOwner_keeps | with_reducible apply Keeps.foldl | intro _

theorem State.allocate_keeps {a : State} (x0 : State) (x1 : Nat) (x2 : BitVec 16) (x3 : Nat) (x4 : Nat) (x5 : Nat) (x6 : Nat)
    (h1 : Keeps a x0) : Keeps a (State.allocate x0 x1 x2 x3 x4 x5 x6) := by
  unfold State.allocate
  repeat' first
    | with_reducible apply h1 | with_reducible apply State.addAlloc_keeps | with_reducible apply State.ownPages_keeps
    | with_reducible apply State.finish_keeps | split

theorem execMemAlloc_keeps {a t : State} (x0 : CtxId) (x1 : Tag) (x2 : State) (h1 : Keeps a x2)
    (e : execMemAlloc x0 x1 x2 = .next t) : Keeps a t := by
  unfold execMemAlloc at e
  cases e
  repeat' first
    | with_reducible assumption | with_reducible apply State.commandIf_keeps | with_reducible apply State.allocate_keeps
    | with_reducible apply State.finish_keeps | intro _ | split

theorem State.beginFree_keeps {a : State} (x0 : State) (x1 : Nat) (x2 : BitVec 16) (x3 : Alloc) (h1 : Keeps a x0) : Keeps a
    (State.beginFree x0 x1 x2 x3) := by
  unfold State.beginFree
  repeat' first | exact Keeps.mk' (by with_reducible assumption) | split | fail_if_no_progress (refine Keeps.mk' ?_)

theorem execMemFree_keeps {a t : State} (x0 : CtxId) (x1 : Tag) (x2 : State) (h1 : Keeps a x2) (e : execMemFree x0 x1 x2 = .next t) : Keeps a t := by
  unfold execMemFree at e
  cases e
  repeat' first
    | with_reducible assumption | with_reducible apply State.command_keeps | with_reducible apply State.finish_keeps
    | with_reducible apply State.beginFree_keeps | intro _ | split

theorem State.endFree_keeps {a : State} (x0 : State) (x1 : Fill) (x2 : Nat) (x3 : BitVec 16) (h1 : Keeps a x0) : Keeps a
    (State.endFree x0 x1 x2 x3) := by
  unfold State.endFree
  repeat' first
    | with_reducible apply State.ownPages_keeps | exact Keeps.mk' (by with_reducible assumption) | split
    | fail_if_no_progress (refine Keeps.mk' ?_)

theorem execMemFillComplete_keeps {a t : State} (x0 : Nat) (x1 : State) (h1 : Keeps a x1) (e : execMemFillComplete x0 x1 = .next t) : Keeps a t := by
  unfold execMemFillComplete at e
  cases e
  repeat' first
    | with_reducible apply State.fill_keeps | with_reducible apply State.endFree_keeps | exact Keeps.mk' (by with_reducible assumption)
    | split

theorem execQuotaSet_keeps {a t : State} (x0 : Tag) (x1 : State) (h1 : Keeps a x1) (e : execQuotaSet x0 x1 = .next t) : Keeps a t := by
  unfold execQuotaSet at e
  cases e
  repeat' first
    | with_reducible assumption | with_reducible apply State.command_keeps | with_reducible apply State.finish_keeps
    | with_reducible apply State.modCtx_keeps | intro _ | split | dsimp only

theorem execRemapLedgerCommit_keeps {a t : State} (x0 : PortId) (x1 : State) (h1 : Keeps a x1)
    (e : execRemapLedgerCommit x0 x1 = .next t) : Keeps a t := by
  unfold execRemapLedgerCommit at e
  cases e
  repeat' first | with_reducible apply h1 | with_reducible apply State.modEcc_keeps

theorem State.scrubBad_keeps {a : State} (x0 : State) (x1 : Nat) (x2 : Nat) (h1 : Keeps a x0) : Keeps a (State.scrubBad x0 x1 x2) := by
  unfold State.scrubBad
  repeat' first | with_reducible apply h1 | with_reducible apply State.fill_keeps | split | dsimp only

theorem execScrubAccess_keeps {a t : State} (x0 : Bool) (x1 : List Upset) (x2 : State) (h1 : Keeps a x2)
    (e : execScrubAccess x0 x1 x2 = .next t) : Keeps a t := by
  unfold execScrubAccess at e
  cases e
  repeat' first
    | with_reducible apply h1 | with_reducible apply State.applyUpsets_keeps | with_reducible apply State.meetWord_keeps
    | with_reducible apply State.scrubBad_keeps | with_reducible apply State.modEcc_keeps
    | refine Keeps.snd ?_ (by with_reducible assumption) | split

/-! ## Loads -/

theorem State.modLoad_keeps {a : State} (x0 : State) (x1 : Nat) (x2 : Load → Load) (h1 : Keeps a x0) : Keeps a (State.modLoad x0 x1 x2) := by
  unfold State.modLoad
  repeat' first | exact Keeps.mk' (by with_reducible assumption)

theorem State.releaseLast_keeps {a : State} (x0 : State) (x1 : Nat) (h1 : Keeps a x0) : Keeps a (State.releaseLast x0 x1) := by
  unfold State.releaseLast
  repeat' first
    | with_reducible apply h1 | with_reducible apply State.startFill_keeps | with_reducible apply State.subUsed_keeps
    | with_reducible apply State.setLast_keeps | split | dsimp only

theorem State.releaseStage_keeps {a : State} (x0 : State) (x1 : Load) (h1 : Keeps a x0) : Keeps a (State.releaseStage x0 x1) := by
  unfold State.releaseStage
  repeat' first | with_reducible apply h1 | with_reducible apply State.startFill_keeps | with_reducible apply State.subUsed_keeps | split

theorem State.abandonLoad_keeps {a : State} (x0 : State) (x1 : Load) (h1 : Keeps a x0) : Keeps a (State.abandonLoad x0 x1) := by
  unfold State.abandonLoad
  repeat' first
    | with_reducible apply h1 | with_reducible apply State.releaseStage_keeps | with_reducible apply State.scramble_keeps
    | with_reducible apply State.setLast_keeps | with_reducible apply State.releaseLast_keeps | with_reducible apply Keeps.foldl | intro _
    | split

theorem State.land_keeps {a : State} (x0 : State) (x1 : Load) (x2 : Nat) (x3 : List Byte) (x4 : State → State) (h1 : Keeps a x0) (k5 : ∀ (y0 : State), Keeps a y0 → Keeps a (x4 y0)) : Keeps a
    (State.land x0 x1 x2 x3 x4) := by
  unfold State.land
  repeat' first
    | with_reducible apply h1 | with_reducible apply k5 | with_reducible apply State.store_keeps
    | with_reducible apply State.uncorrFault_keeps | refine Keeps.snd ?_ (by with_reducible assumption) | split

theorem State.askHost_keeps {a : State} (x0 : State) (x1 : Nat) (h1 : Keeps a x0) : Keeps a (State.askHost x0 x1) := by
  unfold State.askHost
  repeat' first | with_reducible apply State.emit_keeps | exact Keeps.mk' (by with_reducible assumption) | split

theorem State.askLoad_keeps {a : State} (x0 : State) (x1 : Nat) (h1 : Keeps a x0) : Keeps a (State.askLoad x0 x1) := by
  unfold State.askLoad
  repeat' first | with_reducible assumption | with_reducible apply State.askHost_keeps | with_reducible apply Keeps.foldl | intro _ | split

theorem State.askLoads_keeps {a : State} (x0 : State) (h1 : Keeps a x0) : Keeps a (State.askLoads x0) := by
  unfold State.askLoads
  repeat' first | with_reducible apply h1 | with_reducible apply State.askLoad_keeps | with_reducible apply Keeps.foldl

theorem State.failLoad_keeps {a : State} (x0 : State) (x1 : Nat) (x2 : Nat) (h1 : Keeps a x0) : Keeps a (State.failLoad x0 x1 x2) := by
  unfold State.failLoad
  repeat' first
    | with_reducible apply State.abandonLoad_keeps | exact Keeps.mk' (by with_reducible assumption)
    | with_reducible apply State.askLoads_keeps | with_reducible apply State.finish_keeps | split
    | fail_if_no_progress (refine Keeps.mk' ?_)

theorem State.giveSpace_keeps {a t : State} (x0 : State) (x1 : Nat) (h1 : Keeps a x0) (e : x0.giveSpace x1 = some t) : Keeps a t := by
  unfold State.giveSpace at e
  split at e
  · cases e
  · split at e
    · cases e; exact h1
    · dsimp only at e
      split at e
      · cases e; exact State.modLoad_keeps _ _ _ (State.addUsed_keeps _ _ _ _ (State.setLast_keeps _ _ _ h1))
      · cases e
      · cases e; exact State.failLoad_keeps _ _ _ h1

theorem State.enterLoad_keeps {a : State} (x0 : State) (x1 : Load) (h1 : Keeps a x0) : Keeps a (State.enterLoad x0 x1) := by
  unfold State.enterLoad
  repeat' first
    | with_reducible apply State.askLoads_keeps | refine State.giveSpace_keeps (e := by with_reducible assumption) (h1 := ?_) ..
    | exact Keeps.mk' (by with_reducible assumption) | split | fail_if_no_progress (refine Keeps.mk' ?_)

theorem State.beginLast_keeps {a : State} (x0 : State) (x1 : Nat) (h1 : Keeps a x0) : Keeps a (State.beginLast x0 x1) := by
  unfold State.beginLast
  repeat' first | with_reducible apply h1 | with_reducible apply State.releaseLast_keeps | with_reducible apply State.setLast_keeps | split

theorem State.refuseLoad_keeps {a : State} (x0 : State) (x1 : Nat) (x2 : Nat) (x3 : BitVec 16) (x4 : Nat) (x5 : List (Nat × Nat)) (x6 : Nat)
    (h1 : Keeps a x0) : Keeps a (State.refuseLoad x0 x1 x2 x3 x4 x5 x6) := by
  unfold State.refuseLoad
  repeat' first
    | with_reducible apply h1 | with_reducible apply State.scramble_keeps | with_reducible apply State.setLast_keeps
    | with_reducible apply State.finish_keeps | with_reducible apply Keeps.foldl | intro _ | split

theorem State.askHead_keeps {a : State} (x0 : State) (x1 : Cmd) (x2 : List Byte) (h1 : Keeps a x0) : Keeps a (State.askHead x0 x1 x2) := by
  unfold State.askHead
  repeat' first | with_reducible apply h1 | with_reducible apply State.emit_keeps | split

theorem State.headOf_keeps {a : State} (x0 : State) (x1 : Cmd) (x2 : List Byte) (h1 : Keeps a x0) : Keeps a (State.headOf x0 x1 x2).2 := by
  unfold State.headOf
  repeat' first
    | with_reducible apply h1 | with_reducible apply State.askHead_keeps | with_reducible apply State.load_keeps
    | refine Keeps.snd ?_ (by with_reducible assumption) | split | dsimp only

theorem execLoadPackage_keeps {a t : State} (x0 : CtxId) (x1 : Tag) (x2 : List Byte) (x3 : State) (h1 : Keeps a x3)
    (e : execLoadPackage x0 x1 x2 x3 = .next t) : Keeps a t := by
  unfold execLoadPackage at e
  cases e
  repeat' first
    | with_reducible assumption | with_reducible apply State.commandIf_keeps | with_reducible apply State.finish_keeps
    | with_reducible apply State.headOf_keeps | with_reducible apply State.beginLast_keeps | with_reducible apply State.uncorrFault_keeps
    | with_reducible apply State.refuseLoad_keeps | with_reducible apply State.enterLoad_keeps
    | refine Keeps.snd ?_ (by with_reducible assumption) | intro _ | split | dsimp only

theorem execPackageCacheDrop_keeps {a t : State} (x0 : CtxId) (x1 : Tag) (x2 : State) (h1 : Keeps a x2)
    (e : execPackageCacheDrop x0 x1 x2 = .next t) : Keeps a t := by
  unfold execPackageCacheDrop at e
  cases e
  repeat' first
    | with_reducible apply State.commandIf_keeps | exact Keeps.mk' (by with_reducible assumption) | intro _ | split
    | fail_if_no_progress (refine Keeps.mk' ?_)

theorem State.chunkBytes_keeps {a : State} (x0 : State) (x1 : Load) (x2 : List Byte) (h1 : Keeps a x0) : Keeps a (State.chunkBytes x0 x1 x2).2 := by
  unfold State.chunkBytes
  repeat' first
    | with_reducible apply h1 | with_reducible apply State.load_keeps | with_reducible apply State.uncorrFault_keeps
    | refine Keeps.snd ?_ (by with_reducible assumption) | split

theorem execPackageChunkLand_keeps {a t : State} (x0 : Nat) (x1 : List Byte) (x2 : Nat) (x3 : State) (h1 : Keeps a x3)
    (e : execPackageChunkLand x0 x1 x3 x2 = .next t) : Keeps a t := by
  unfold execPackageChunkLand at e
  cases e
  repeat' first
    | with_reducible assumption | refine State.giveSpace_keeps (e := by with_reducible assumption) (h1 := ?_) ..
    | with_reducible apply State.cross_keeps | with_reducible apply State.chunkBytes_keeps | with_reducible apply State.failLoad_keeps
    | with_reducible apply State.land_keeps | with_reducible apply State.askLoads_keeps | with_reducible apply State.modLoad_keeps
    | refine Keeps.snd ?_ (by with_reducible assumption) | intro _ | split

theorem State.useSets_keeps {a : State} (x0 : State) (x1 : Nat) (x2 : List Nat) (h1 : Keeps a x0) : Keeps a (State.useSets x0 x1 x2) := by
  unfold State.useSets
  repeat' first | with_reducible apply h1 | with_reducible apply State.modCtx_keeps | split

theorem State.readyLast_keeps {a : State} (x0 : State) (x1 : Load) (h1 : Keeps a x0) : Keeps a (State.readyLast x0 x1) := by
  unfold State.readyLast
  repeat' first
    | with_reducible apply h1 | with_reducible apply State.land_keeps | with_reducible apply State.setLast_keeps | intro _ | split

theorem State.noteCopies_keeps {a : State} (x0 : State) (x1 : Load) (h1 : Keeps a x0) : Keeps a (State.noteCopies x0 x1) := by
  unfold State.noteCopies
  repeat' first | with_reducible apply h1 | with_reducible apply State.modCtx_keeps | split

theorem execLoadComplete_keeps {a t : State} (x0 : Nat) (x1 : State) (h1 : Keeps a x1) (e : execLoadComplete x0 x1 = .next t) : Keeps a t := by
  unfold execLoadComplete at e
  cases e
  repeat' first
    | with_reducible assumption | with_reducible apply State.noteCopies_keeps | with_reducible apply State.readyLast_keeps
    | with_reducible apply State.useSets_keeps
    | exact Keeps.mk' (by with_reducible assumption) | split | dsimp only | fail_if_no_progress (refine Keeps.mk' ?_)

theorem State.readCopy_keeps {a : State} (x0 : State) (x1 : Load) (h1 : Keeps a x0) : Keeps a (State.readCopy x0 x1).2 := by
  unfold State.readCopy
  repeat' first | with_reducible apply h1 | with_reducible apply State.meetWords_keeps

theorem State.dropCached_keeps {a : State} (x0 : State) (x1 : BitVec 64) (h1 : Keeps a x0) : Keeps a (State.dropCached x0 x1) := by
  unfold State.dropCached
  repeat' first | with_reducible apply Keeps.foldl | exact Keeps.mk' (by with_reducible assumption) | intro _

theorem State.enterCache_keeps {a : State} (x0 : State) (x1 : Load) (x2 : Nat) (h1 : Keeps a x0) : Keeps a (State.enterCache x0 x1 x2) := by
  unfold State.enterCache
  repeat' first | exact Keeps.mk' (by with_reducible assumption) | fail_if_no_progress (refine Keeps.mk' ?_)

theorem execCacheCopyComplete_keeps {a t : State} (x0 : Nat) (x1 : Bool) (x2 : Nat) (x3 : State) (h1 : Keeps a x3)
    (e : execCacheCopyComplete x0 x1 x3 x2 = .next t) : Keeps a t := by
  unfold execCacheCopyComplete at e
  cases e
  repeat' first
    | with_reducible apply State.cross_keeps | with_reducible apply State.readCopy_keeps | with_reducible apply State.uncorrFault_keeps
    | with_reducible apply State.dropCached_keeps | refine Keeps.snd ?_ (by with_reducible assumption)
    | exact Keeps.mk' (by with_reducible assumption) | intro _ | split | fail_if_no_progress (refine Keeps.mk' ?_)

theorem execLoadRaw_keeps {a t : State} (x0 : CtxId) (x1 : Tag) (x2 : State) (h1 : Keeps a x2) (e : execLoadRaw x0 x1 x2 = .next t) : Keeps a t := by
  unfold execLoadRaw at e
  cases e
  repeat' first
    | with_reducible assumption | with_reducible apply State.commandIf_keeps | with_reducible apply State.finish_keeps
    | with_reducible apply State.load_keeps | with_reducible apply State.uncorrFault_keeps | with_reducible apply State.beginLast_keeps
    | with_reducible apply State.refuseLoad_keeps | with_reducible apply State.enterLoad_keeps | with_reducible apply State.addUsed_keeps
    | refine Keeps.snd ?_ (by with_reducible assumption) | intro _ | split | dsimp only

theorem State.enterHist_keeps {a : State} (x0 : Nat) (x1 : State) (x2 : BitVec 32 × Nat × SMap F32) (h1 : Keeps a x1) : Keeps a
    (State.enterHist x0 x1 x2) := by
  unfold State.enterHist
  repeat' first
    | with_reducible apply h1 | refine State.firstUse_keeps (e := by with_reducible assumption) (h1 := ?_) ..
    | with_reducible apply State.illegal_keeps | with_reducible apply State.modCtx_keeps | split

theorem State.loadHists_keeps {a : State} (x0 : State) (x1 : Load) (h1 : Keeps a x0) : Keeps a (State.loadHists x0 x1) := by
  unfold State.loadHists
  repeat' first
    | with_reducible assumption | with_reducible apply State.enterHist_keeps | with_reducible apply Keeps.foldl | intro _ | split

theorem State.askRest_keeps {a : State} (x0 : State) (x1 : Nat) (h1 : Keeps a x0) : Keeps a (State.askRest x0 x1) := by
  unfold State.askRest
  repeat' first | with_reducible apply h1 | with_reducible apply State.askHost_keeps | with_reducible apply Keeps.foldl | intro _ | split

theorem execRawArrivalComplete_keeps {a t : State} (x0 : Nat) (x1 : List Byte) (x2 : Nat) (x3 : State) (h1 : Keeps a x3)
    (e : execRawArrivalComplete x0 x1 x3 x2 = .next t) : Keeps a t := by
  unfold execRawArrivalComplete at e
  cases e
  repeat' first
    | with_reducible assumption | refine State.giveSpace_keeps (e := by with_reducible assumption) (h1 := ?_) ..
    | with_reducible apply State.failLoad_keeps | with_reducible apply State.cross_keeps | with_reducible apply State.askRest_keeps
    | with_reducible apply State.land_keeps | with_reducible apply State.meetWords_keeps | with_reducible apply State.uncorrFault_keeps
    | with_reducible apply State.modLoad_keeps | with_reducible apply State.askLoads_keeps | with_reducible apply State.loadHists_keeps
    | refine Keeps.snd ?_ (by with_reducible assumption) | intro _ | split | dsimp only

theorem execQuantiserPassComplete_keeps {a t : State} (x0 : Nat) (x1 : Nat) (x2 : State) (h1 : Keeps a x2)
    (e : execQuantiserPassComplete x0 x2 x1 = .next t) : Keeps a t := by
  unfold execQuantiserPassComplete at e
  cases e
  repeat' first
    | with_reducible assumption | with_reducible apply State.cross_keeps | with_reducible apply State.meetWords_keeps
    | with_reducible apply State.uncorrFault_keeps | with_reducible apply State.land_keeps | with_reducible apply State.modLoad_keeps
    | with_reducible apply State.arith_keeps | refine Keeps.snd ?_ (by with_reducible assumption) | intro _ | split

theorem execLastSwitch_keeps {a t : State} (x0 : CtxId) (x1 : Tag) (x2 : State) (h1 : Keeps a x2)
    (e : execLastSwitch x0 x1 x2 = .next t) : Keeps a t := by
  unfold execLastSwitch at e
  cases e
  repeat' first
    | with_reducible apply State.command_keeps | exact Keeps.mk' (by with_reducible assumption) | intro _ | split | dsimp only
    | fail_if_no_progress (refine Keeps.mk' ?_)

theorem State.switchTo_keeps {a : State} (x0 : State) (x1 : Nat) (h1 : Keeps a x0) : Keeps a (State.switchTo x0 x1) := by
  unfold State.switchTo
  repeat' first
    | with_reducible apply State.setLast_keeps | exact Keeps.mk' (by with_reducible assumption) | fail_if_no_progress (refine Keeps.mk' ?_)

theorem execSwitchPoint_keeps {a t : State} (x0 : State) (h1 : Keeps a x0) (e : execSwitchPoint x0 = .next t) : Keeps a t := by
  unfold execSwitchPoint at e
  cases e
  repeat' first
    | with_reducible apply State.switchTo_keeps | exact Keeps.mk' (by with_reducible assumption) | split | dsimp only
    | fail_if_no_progress (refine Keeps.mk' ?_)

/-! ## Ctxs -/

theorem State.takeAreas_keeps {a t : State} (x0 : State) (x1 : Nat) (h1 : Keeps a x0) (e : x0.takeAreas x1 = some t) : Keeps a t := by
  have k : ∀ (l : List Nat) (o : Option State) (u : State), (∀ s, o = some s → Keeps a s) →
      l.foldl (fun o q => match o with
        | none => none
        | some s => (s.takeArea q savePart).map fun b => s.modCtx x1 fun k => k.modMem fun m => { m with save := SMap.set none m.save q (some b) }) o = some u →
      Keeps a u := fun l => by
    induction l with
    | nil => exact fun o u h e => h u e
    | cons q l ih =>
      refine fun o u h e => ih _ u ?_ e
      intro s f
      cases o with
      | none => cases f
      | some r =>
        obtain ⟨b, -, rfl⟩ := Option.map_eq_some_iff.1 f
        exact State.modCtx_keeps _ _ _ (h _ rfl)
  unfold State.takeAreas at e
  extract_lets part at e
  split at e
  · cases e
  · rename_i s f
    obtain ⟨b, -, rfl⟩ := Option.map_eq_some_iff.1 e
    exact State.modCtx_keeps _ _ _ (k _ _ _ (fun s h => by cases h; exact h1) f)

theorem State.clearRings_keeps {a : State} (x0 : State) (x1 : Nat) (h1 : Keeps a x0) : Keeps a (State.clearRings x0 x1) := by
  unfold State.clearRings
  repeat' first | with_reducible apply h1 | with_reducible apply State.modHost_keeps

theorem execCtxCreate_keeps {a t : State} (x0 : Tag) (x1 : State) (h1 : Keeps a x1) (e : execCtxCreate x0 x1 = .next t) : Keeps a t := by
  unfold execCtxCreate at e
  cases e
  repeat' first
    | with_reducible assumption | with_reducible apply State.command_keeps | with_reducible apply State.finish_keeps
    | with_reducible apply State.commandIf_keeps | refine State.takeAreas_keeps (e := by with_reducible assumption) (h1 := ?_) ..
    | with_reducible apply State.modCtx_keeps | with_reducible apply State.ledgerSlot_keeps | with_reducible apply State.clearRings_keeps
    | intro _ | split | dsimp only

theorem State.absorb_keeps {a : State} (x0 : State) (x1 : Nat) (x2 : Nat) (h1 : Keeps a x0) : Keeps a (State.absorb x0 x1 x2) := by
  unfold State.absorb
  repeat' first | with_reducible apply h1 | with_reducible apply State.modCtx_keeps

theorem State.stopCores_keeps {a : State} (x0 : State) (x1 : Nat) (h1 : Keeps a x0) : Keeps a (State.stopCores x0 x1) := by
  unfold State.stopCores
  repeat' first
    | with_reducible assumption | with_reducible apply State.setCore_keeps | with_reducible apply State.absorb_keeps
    | with_reducible apply Keeps.foldl | intro _ | split

theorem State.leaveQuarters_keeps {a : State} (x0 : State) (x1 : Nat) (h1 : Keeps a x0) : Keeps a (State.leaveQuarters x0 x1) := by
  unfold State.leaveQuarters
  repeat' first | with_reducible apply h1 | with_reducible apply State.modQuarter_keeps | with_reducible apply Keeps.foldl | intro _

theorem State.dropLoads_keeps {a : State} (x0 : State) (x1 : Nat) (h1 : Keeps a x0) : Keeps a (State.dropLoads x0 x1) := by
  unfold State.dropLoads
  repeat' first
    | with_reducible apply State.abandonLoad_keeps | with_reducible apply Keeps.foldl | exact Keeps.mk' (by with_reducible assumption)
    | with_reducible apply State.askLoads_keeps | with_reducible apply State.askLoad_keeps | fail_if_no_progress (refine Keeps.mk' ?_)
    | intro _

theorem State.dropFabric_keeps {a : State} (x0 : State) (x1 : Nat) (h1 : Keeps a x0) : Keeps a (State.dropFabric x0 x1) := by
  unfold State.dropFabric
  repeat' first | exact Keeps.mk' (by with_reducible assumption) | fail_if_no_progress (refine Keeps.mk' ?_)

theorem State.abortCommands_keeps {a : State} (x0 : State) (x1 : Nat) (h1 : Keeps a x0) : Keeps a (State.abortCommands x0 x1) := by
  unfold State.abortCommands
  repeat' first
    | with_reducible apply State.postAll_keeps | exact Keeps.mk' (by with_reducible assumption) | fail_if_no_progress (refine Keeps.mk' ?_)

theorem State.abortRuns_keeps {a : State} (x0 : State) (x1 : Nat) (h1 : Keeps a x0) : Keeps a (State.abortRuns x0 x1) := by
  unfold State.abortRuns
  repeat' first | with_reducible apply h1 | with_reducible apply State.abortRun_keeps | with_reducible apply Keeps.foldl | intro _

theorem State.placeMarks_keeps {a : State} (x0 : State) (x1 : Nat) (h1 : Keeps a x0) : Keeps a (State.placeMarks x0 x1) := by
  unfold State.placeMarks
  repeat' first
    | with_reducible assumption | with_reducible apply State.enqueue_keeps | with_reducible apply State.modPort_keeps
    | with_reducible apply State.modCtx_keeps | with_reducible apply Keeps.foldl | intro _

theorem State.dropStaging_keeps {a : State} (x0 : State) (x1 : Nat) (h1 : Keeps a x0) : Keeps a (State.dropStaging x0 x1) := by
  unfold State.dropStaging
  repeat' first | with_reducible apply h1 | with_reducible apply State.freeStaging_keeps

theorem execCtxDestroy_keeps {a t : State} (x0 : Tag) (x1 : State) (h1 : Keeps a x1) (e : execCtxDestroy x0 x1 = .next t) : Keeps a t := by
  unfold execCtxDestroy at e
  cases e
  repeat' first
    | with_reducible assumption | with_reducible apply State.command_keeps | with_reducible apply State.finish_keeps
    | with_reducible apply State.abortRuns_keeps | with_reducible apply State.abortCommands_keeps
    | with_reducible apply State.stopCores_keeps | with_reducible apply State.modCtx_keeps | with_reducible apply State.dropFabric_keeps
    | with_reducible apply State.dropLoads_keeps | with_reducible apply State.dropStaging_keeps | with_reducible apply State.pumpAll_keeps
    | with_reducible apply State.rescheduleAll_keeps | with_reducible apply State.endSuspends_keeps
    | with_reducible apply State.leaveQuarters_keeps | with_reducible apply State.placeMarks_keeps | intro _ | split | dsimp only

theorem State.fillCtx_keeps {a : State} (x0 : State) (x1 : Nat) (h1 : Keeps a x0) : Keeps a (State.fillCtx x0 x1) := by
  unfold State.fillCtx
  repeat' first
    | with_reducible apply Keeps.foldl | exact Keeps.mk' (by with_reducible assumption) | intro _
    | fail_if_no_progress (refine Keeps.mk' ?_)

theorem State.dropAllocs_keeps {a : State} (x0 : State) (x1 : Nat) (h1 : Keeps a x0) : Keeps a (State.dropAllocs x0 x1) := by
  unfold State.dropAllocs
  repeat' first
    | with_reducible apply State.ownPages_keeps | with_reducible apply Keeps.foldl | exact Keeps.mk' (by with_reducible assumption)
    | intro _ | fail_if_no_progress (refine Keeps.mk' ?_)

theorem State.retireStep_keeps {a : State} (x0 : State) (x1 : Nat) (h1 : Keeps a x0) : Keeps a (State.retireStep x0 x1) := by
  unfold State.retireStep
  repeat' first | with_reducible apply h1 | with_reducible apply State.fillCtx_keeps | split

theorem execDrainMarkPass_keeps {a t : State} (x0 : CtxN) (x1 : PortId) (x2 : Fin 8) (x3 : State) (h1 : Keeps a x3)
    (e : execDrainMarkPass x0 x1 x2 x3 = .next t) : Keeps a t := by
  unfold execDrainMarkPass at e
  cases e
  repeat' first
    | with_reducible apply h1 | with_reducible apply State.modPort_keeps | with_reducible apply State.retireStep_keeps
    | with_reducible apply State.modCtx_keeps | split | dsimp only

theorem execRetireTimeout_keeps {a t : State} (x0 : CtxN) (x1 : State) (h1 : Keeps a x1) (e : execRetireTimeout x0 x1 = .next t) : Keeps a t := by
  unfold execRetireTimeout at e
  cases e
  repeat' first | with_reducible apply h1 | with_reducible apply State.retireStep_keeps | with_reducible apply State.modCtx_keeps | split

theorem State.dropQps_keeps {a : State} (x0 : State) (x1 : Nat) (h1 : Keeps a x0) : Keeps a (State.dropQps x0 x1) := by
  unfold State.dropQps
  repeat' first | with_reducible apply h1 | with_reducible apply State.modHost_keeps

theorem State.freeSlot_keeps {a : State} (x0 : State) (x1 : Nat) (h1 : Keeps a x0) : Keeps a (State.freeSlot x0 x1) := by
  unfold State.freeSlot
  repeat' first
    | with_reducible apply State.dropAllocs_keeps | with_reducible apply State.pumpAll_keeps | with_reducible apply State.finish_keeps
    | exact Keeps.mk' (by with_reducible assumption) | split | dsimp only | fail_if_no_progress (refine Keeps.mk' ?_)

theorem execRetireComplete_keeps {a t : State} (x0 : CtxN) (x1 : State) (h1 : Keeps a x1) (e : execRetireComplete x0 x1 = .next t) : Keeps a t := by
  unfold execRetireComplete at e
  cases e
  repeat' first
    | with_reducible apply h1 | with_reducible apply State.retireStep_keeps | with_reducible apply State.freeSlot_keeps | split | dsimp only

/-! ## Commands -/

theorem State.hostDiscard_keeps {a : State} (x0 : State) (h1 : Keeps a x0) : Keeps a (State.hostDiscard x0) := by
  unfold State.hostDiscard
  repeat' first | with_reducible apply h1 | with_reducible apply State.modHost_keeps

theorem State.hostStale_keeps {a : State} (x0 : State) (h1 : Keeps a x0) : Keeps a (State.hostStale x0) := by
  unfold State.hostStale
  repeat' first | with_reducible apply h1 | with_reducible apply State.modHost_keeps

theorem State.takeSlots_keeps {a : State} (x0 : State) (x1 : Nat) (x2 : Nat) (h1 : Keeps a x0) : Keeps a (State.takeSlots x0 x1 x2) := by
  induction x2 generalizing x0 x1 <;> unfold State.takeSlots
  all_goals repeat' first | with_reducible apply_assumption | with_reducible apply State.modCHost_keeps | with_reducible apply Keeps.ite

theorem State.takeIfAwake_keeps {a : State} (x0 : State) (x1 : Nat) (h1 : Keeps a x0) : Keeps a (State.takeIfAwake x0 x1) := by
  unfold State.takeIfAwake
  repeat' first | with_reducible apply h1 | with_reducible apply State.takeSlots_keeps | split

theorem State.doorbell_keeps {a : State} (x0 : State) (x1 : Nat) (x2 : State → State) (h1 : Keeps a x0) (k3 : ∀ (y0 : State), Keeps a y0 → Keeps a (x2 y0)) : Keeps a
    (State.doorbell x0 x1 x2) := by
  unfold State.doorbell
  repeat' first | with_reducible apply h1 | with_reducible apply k3 | with_reducible apply State.absorb_keeps | split

theorem State.writeSqTail_keeps {a : State} (x0 : State) (x1 : Nat) (x2 : BitVec 64) (h1 : Keeps a x0) : Keeps a (State.writeSqTail x0 x1 x2) := by
  unfold State.writeSqTail
  repeat' first
    | with_reducible assumption | with_reducible apply State.doorbell_keeps | with_reducible apply State.hostDiscard_keeps
    | with_reducible apply State.takeIfAwake_keeps | with_reducible apply State.modCHost_keeps | with_reducible apply State.hostStale_keeps
    | with_reducible apply State.abandonEntry_keeps | intro _ | split | dsimp only

theorem State.writeCqHead_keeps {a : State} (x0 : State) (x1 : Nat) (x2 : BitVec 64) (h1 : Keeps a x0) : Keeps a (State.writeCqHead x0 x1 x2) := by
  unfold State.writeCqHead
  repeat' first
    | with_reducible assumption | with_reducible apply State.doorbell_keeps | with_reducible apply State.hostDiscard_keeps
    | with_reducible apply State.modCHost_keeps | with_reducible apply State.hostStale_keeps | intro _ | split | dsimp only

theorem State.writeFlag_keeps {a : State} (x0 : State) (x1 : Nat) (x2 : BitVec 64) (h1 : Keeps a x0) : Keeps a (State.writeFlag x0 x1 x2) := by
  unfold State.writeFlag
  repeat' first
    | with_reducible assumption | with_reducible apply State.doorbell_keeps | with_reducible apply State.setOwner_keeps
    | with_reducible apply State.modHost_keeps | intro _ | split | dsimp only

theorem State.writeNotify_keeps {a : State} (x0 : State) (x1 : Nat) (x2 : BitVec 64) (h1 : Keeps a x0) : Keeps a (State.writeNotify x0 x1 x2) := by
  unfold State.writeNotify
  repeat' first
    | with_reducible assumption | with_reducible apply State.doorbell_keeps | with_reducible apply State.hostDiscard_keeps
    | with_reducible apply State.modCHost_keeps | intro _ | split

theorem execSqTail_keeps {a t : State} (x0 : CtxN) (x1 : BitVec 64) (x2 : State) (h1 : Keeps a x2)
    (e : execSqTail x0 x1 x2 = .next t) : Keeps a t := by
  unfold execSqTail at e
  cases e
  repeat' first | with_reducible apply h1 | with_reducible apply State.writeSqTail_keeps

theorem execCqHead_keeps {a t : State} (x0 : CtxN) (x1 : BitVec 64) (x2 : State) (h1 : Keeps a x2)
    (e : execCqHead x0 x1 x2 = .next t) : Keeps a t := by
  unfold execCqHead at e
  cases e
  repeat' first | with_reducible apply h1 | with_reducible apply State.writeCqHead_keeps

theorem execFlagWrite_keeps {a t : State} (x0 : CtxN) (x1 : BitVec 64) (x2 : State) (h1 : Keeps a x2)
    (e : execFlagWrite x0 x1 x2 = .next t) : Keeps a t := by
  unfold execFlagWrite at e
  cases e
  repeat' first | with_reducible apply h1 | with_reducible apply State.writeFlag_keeps

theorem execNotify_keeps {a t : State} (x0 : CtxN) (x1 : BitVec 64) (x2 : State) (h1 : Keeps a x2)
    (e : execNotify x0 x1 x2 = .next t) : Keeps a t := by
  unfold execNotify at e
  cases e
  repeat' first | with_reducible apply h1 | with_reducible apply State.writeNotify_keeps

theorem State.startSlot_keeps {a : State} (x0 : State) (x1 : Nat) (x2 : Taken) (h1 : Keeps a x0) : Keeps a (State.startSlot x0 x1 x2) := by
  unfold State.startSlot
  repeat' first | with_reducible apply h1 | with_reducible apply State.modCHost_keeps | split | dsimp only

theorem execCommandStart_keeps {a t : State} (x0 : CtxId) (x1 : State) (h1 : Keeps a x1) (e : execCommandStart x0 x1 = .next t) : Keeps a t := by
  unfold execCommandStart at e
  cases e
  repeat' first
    | with_reducible apply h1 | with_reducible apply State.startSlot_keeps | with_reducible apply State.modCHost_keeps | split | dsimp only

theorem execCompletionPost_keeps {a t : State} (x0 : CtxId) (x1 : State) (h1 : Keeps a x1) (e : execCompletionPost x0 x1 = .next t) : Keeps a t := by
  unfold execCompletionPost at e
  cases e
  repeat' first | with_reducible apply h1 | with_reducible apply State.postAll_keeps | split

theorem execQuery_keeps {a t : State} (x0 : CtxId) (x1 : Tag) (x2 : State) (h1 : Keeps a x2) (e : execQuery x0 x1 x2 = .next t) : Keeps a t := by
  unfold execQuery at e
  cases e
  repeat' first | with_reducible apply h1 | with_reducible apply State.command_keeps | with_reducible apply State.finish_keeps | intro _

theorem State.mgmtReject_keeps {a : State} (x0 : State) (x1 : Nat) (h1 : Keeps a x0) : Keeps a (State.mgmtReject x0 x1) := by
  unfold State.mgmtReject
  repeat' first | with_reducible apply h1 | with_reducible apply State.modHost_keeps

theorem State.mgmtDup_keeps {a : State} (x0 : State) (x1 : Nat) (h1 : Keeps a x0) : Keeps a (State.mgmtDup x0 x1) := by
  unfold State.mgmtDup
  repeat' first | with_reducible apply h1 | with_reducible apply State.modHost_keeps

theorem State.reportTo_keeps {a : State} (x0 : State) (x1 : Nat) (x2 : BitVec 128) (x3 : BitVec 16) (h1 : Keeps a x0) : Keeps a
    (State.reportTo x0 x1 x2 x3) := by
  unfold State.reportTo
  repeat' first | exact Keeps.mk' (by with_reducible assumption)

theorem State.mgmtAnswer_keeps {a : State} (x0 : State) (x1 : Nat) (x2 : Nat) (x3 : Nat) (x4 : List Byte) (h1 : Keeps a x0) : Keeps a
    (State.mgmtAnswer x0 x1 x2 x3 x4) := by
  unfold State.mgmtAnswer
  repeat' first | with_reducible apply h1 | with_reducible apply State.mgmtSend_keeps

theorem State.mgmtCommand_keeps {a : State} (x0 : State) (x1 : Nat) (x2 x3 : List Byte) (x4 : State → BitVec 64 → State) (h1 : Keeps a x0)
    (k5 : ∀ y0 y1, Keeps a y0 → Keeps a (x4 y0 y1)) : Keeps a (x0.mgmtCommand x1 x2 x3 x4) := by
  unfold State.mgmtCommand
  extract_lets seq
  split
  · split
    · exact State.mgmtSend_keeps _ _ _ _ _ h1
    · exact .ite (State.mgmtAnswer_keeps _ _ _ _ _ (State.mgmtDup_keeps _ _ h1)) (State.modHost_keeps _ _ (State.mgmtDup_keeps _ _ h1))
  · exact .ite (State.mgmtReject_keeps _ _ h1) (k5 _ _ (State.modHost_keeps _ _ h1))

theorem execManagementCommandDatagram_keeps {a t : State} (x0 : Fin 2) (x1 : BitVec 128) (x2 : BitVec 16) (x3 : List Byte) (x4 : State)
    (h1 : Keeps a x4) (e : execManagementCommandDatagram x0 x1 x2 x3 x4 = .next t) : Keeps a t := by
  unfold execManagementCommandDatagram at e
  cases e
  repeat' first
    | with_reducible apply h1 | with_reducible apply State.mgmtReject_keeps | with_reducible apply State.reportTo_keeps
    | with_reducible apply State.mgmtAnswer_keeps | with_reducible apply State.mgmtCommand_keeps | with_reducible apply State.modCHost_keeps
    | with_reducible apply State.abandonEntry_keeps | with_reducible assumption | intro _ | split | dsimp only

theorem execHeartbeatTimer_keeps {a t : State} (x0 : Fin 2) (x1 : State) (h1 : Keeps a x1) (e : execHeartbeatTimer x0 x1 = .next t) : Keeps a t := by
  unfold execHeartbeatTimer at e
  cases e
  repeat' first | with_reducible apply h1 | with_reducible apply State.mgmtSend_keeps | with_reducible apply State.modHost_keeps | split

theorem execEthernetLinkUpDown_keeps {a t : State} (x0 : Bool) (x1 : Fin 4) (x2 : Bool) (x3 : State) (h1 : Keeps a x3)
    (e : execEthernetLinkUpDown x0 x1 x2 x3 = .next t) : Keeps a t := by
  unfold execEthernetLinkUpDown at e
  cases e
  repeat' first | with_reducible apply h1 | with_reducible apply State.modHost_keeps | split

end Sys2Proof.Machine
end

