-- ==== Sys2Proof/Laws/KeepsIssue.lean ====
section
/-!
SUPPORT. What every operation keeps, continued: instructions, flits and host accesses.
-/

set_option Elab.async false

namespace Sys2Proof.Machine

open Sys2Proof

/-! ## Issue -/

theorem State.vecIssue_keeps {a : State} (x0 : State) (x1 : Nat) (x2 : VecOp) (x3 : BitVec 8) (x4 : VF) (x5 : Bool)
    (h1 : Keeps a x0) : Keeps a (State.vecIssue x0 x1 x2 x3 x4 x5) := by
  unfold State.vecIssue
  repeat' first
    | with_reducible assumption | with_reducible apply State.issue_keeps | with_reducible apply State.ifFree_keeps
    | with_reducible apply State.insnFault_keeps | with_reducible apply State.pump_keeps | with_reducible apply State.push_keeps | intro _
    | split | dsimp only

theorem execSld_keeps {a t : State} (x0 : CoreId) (x1 : VF) (x2 : State) (h1 : Keeps a x2) (e : execSld x0 x1 x2 = .next t) : Keeps a t := by
  unfold execSld at e
  cases e
  repeat' first | with_reducible apply h1 | with_reducible apply State.vecIssue_keeps

theorem execSst_keeps {a t : State} (x0 : CoreId) (x1 : VF) (x2 : State) (h1 : Keeps a x2) (e : execSst x0 x1 x2 = .next t) : Keeps a t := by
  unfold execSst at e
  cases e
  repeat' first | with_reducible apply h1 | with_reducible apply State.vecIssue_keeps

theorem execVop_keeps {a t : State} (x0 : CoreId) (x1 : VF) (x2 : State) (h1 : Keeps a x2) (e : execVop x0 x1 x2 = .next t) : Keeps a t := by
  unfold execVop at e
  cases e
  repeat' first | with_reducible apply h1 | with_reducible apply State.vecIssue_keeps

theorem execAct_keeps {a t : State} (x0 : CoreId) (x1 : VF) (x2 : State) (h1 : Keeps a x2) (e : execAct x0 x1 x2 = .next t) : Keeps a t := by
  unfold execAct at e
  cases e
  repeat' first | with_reducible apply h1 | with_reducible apply State.vecIssue_keeps

theorem execVred_keeps {a t : State} (x0 : CoreId) (x1 : VF) (x2 : State) (h1 : Keeps a x2) (e : execVred x0 x1 x2 = .next t) : Keeps a t := by
  unfold execVred at e
  cases e
  repeat' first | with_reducible apply h1 | with_reducible apply State.vecIssue_keeps

theorem execVany_keeps {a t : State} (x0 : CoreId) (x1 : VF) (x2 : State) (h1 : Keeps a x2) (e : execVany x0 x1 x2 = .next t) : Keeps a t := by
  unfold execVany at e
  cases e
  repeat' first | with_reducible apply h1 | with_reducible apply State.vecIssue_keeps

theorem execQnt_keeps {a t : State} (x0 : CoreId) (x1 : VF) (x2 : State) (h1 : Keeps a x2) (e : execQnt x0 x1 x2 = .next t) : Keeps a t := by
  unfold execQnt at e
  cases e
  repeat' first | with_reducible apply h1 | with_reducible apply State.vecIssue_keeps

theorem execWid_keeps {a t : State} (x0 : CoreId) (x1 : VF) (x2 : State) (h1 : Keeps a x2) (e : execWid x0 x1 x2 = .next t) : Keeps a t := by
  unfold execWid at e
  cases e
  repeat' first | with_reducible apply h1 | with_reducible apply State.vecIssue_keeps

theorem execMma_keeps {a t : State} (x0 : CoreId) (x1 : MF) (x2 : State) (h1 : Keeps a x2) (e : execMma x0 x1 x2 = .next t) : Keeps a t := by
  unfold execMma at e
  cases e
  repeat' first
    | with_reducible assumption | with_reducible apply State.issue_keeps | with_reducible apply State.insnFault_keeps
    | with_reducible apply State.pump_keeps | with_reducible apply State.push_keeps | intro _ | split | dsimp only

theorem execTopen_keeps {a t : State} (x0 : CoreId) (x1 : SF) (x2 : State) (h1 : Keeps a x2) (e : execTopen x0 x1 x2 = .next t) : Keeps a t := by
  unfold execTopen at e
  cases e
  repeat' first
    | with_reducible assumption | with_reducible apply State.issue_keeps | with_reducible apply State.ifFree_keeps
    | with_reducible apply State.insnFault_keeps | refine State.firstUse_keeps (e := by with_reducible assumption) (h1 := ?_) ..
    | with_reducible apply State.pump_keeps | with_reducible apply State.push_keeps | intro _ | split | dsimp only

theorem execTclose_keeps {a t : State} (x0 : CoreId) (x1 : SF) (x2 : State) (h1 : Keeps a x2) (e : execTclose x0 x1 x2 = .next t) : Keeps a t := by
  unfold execTclose at e
  cases e
  repeat' first
    | with_reducible assumption | with_reducible apply State.issue_keeps | with_reducible apply State.insnFault_keeps
    | with_reducible apply State.pump_keeps | with_reducible apply State.push_keeps | intro _ | split | dsimp only

theorem execLayer_keeps {a t : State} (x0 : CoreId) (x1 : SF) (x2 : State) (h1 : Keeps a x2) (e : execLayer x0 x1 x2 = .next t) : Keeps a t := by
  unfold execLayer at e
  cases e
  repeat' first
    | with_reducible assumption | with_reducible apply State.issue_keeps | with_reducible apply State.setCore_keeps
    | with_reducible apply State.insnFault_keeps | intro _ | split | dsimp only

theorem execSinc_keeps {a t : State} (x0 : CoreId) (x1 : SF) (x2 : State) (h1 : Keeps a x2) (e : execSinc x0 x1 x2 = .next t) : Keeps a t := by
  unfold execSinc at e
  cases e
  repeat' first
    | with_reducible assumption | with_reducible apply State.issue_keeps | with_reducible apply State.ifFree_keeps
    | with_reducible apply State.pump_keeps | with_reducible apply State.push_keeps | intro _

theorem execSwait_keeps {a t : State} (x0 : CoreId) (x1 : SF) (x2 : State) (h1 : Keeps a x2) (e : execSwait x0 x1 x2 = .next t) : Keeps a t := by
  unfold execSwait at e
  cases e
  repeat' first
    | with_reducible assumption | with_reducible apply State.issue_keeps | with_reducible apply State.ifFree_keeps
    | with_reducible apply State.pump_keeps | with_reducible apply State.push_keeps | intro _

theorem execStry_keeps {a t : State} (x0 : CoreId) (x1 : SF) (x2 : State) (h1 : Keeps a x2) (e : execStry x0 x1 x2 = .next t) : Keeps a t := by
  unfold execStry at e
  cases e
  repeat' first
    | with_reducible assumption | with_reducible apply State.issue_keeps | with_reducible apply State.ifFree_keeps
    | with_reducible apply State.pump_keeps | with_reducible apply State.push_keeps | intro _

theorem execSrd_keeps {a t : State} (x0 : CoreId) (x1 : SF) (x2 : State) (h1 : Keeps a x2) (e : execSrd x0 x1 x2 = .next t) : Keeps a t := by
  unfold execSrd at e
  cases e
  repeat' first
    | with_reducible assumption | with_reducible apply State.issue_keeps | with_reducible apply State.ifFree_keeps
    | with_reducible apply State.pump_keeps | with_reducible apply State.push_keeps | intro _

theorem State.withDesc_keeps {a : State} (x0 : State) (x1 : Nat) (x2 : SF) (x3 : List Byte → State → State) (h1 : Keeps a x0) (k4 : ∀ (y0 : List Byte) (y1 : State), Keeps a y1 → Keeps a (x3 y0 y1)) : Keeps a
    (State.withDesc x0 x1 x2 x3) := by
  unfold State.withDesc
  repeat' first
    | with_reducible assumption | with_reducible apply k4 | with_reducible apply State.insnFault_keeps
    | with_reducible apply State.ifFree_keeps | with_reducible apply State.load_keeps | with_reducible apply State.uncorrFault_keeps
    | refine Keeps.snd ?_ (by with_reducible assumption) | intro _ | split | dsimp only

theorem execDma_keeps {a t : State} (x0 : CoreId) (x1 : SF) (x2 : State) (h1 : Keeps a x2) (e : execDma x0 x1 x2 = .next t) : Keeps a t := by
  unfold execDma at e
  cases e
  repeat' first
    | with_reducible assumption | with_reducible apply State.issue_keeps | with_reducible apply State.ifFree_keeps
    | with_reducible apply State.withDesc_keeps | with_reducible apply State.insnFault_keeps | with_reducible apply State.pump_keeps
    | with_reducible apply State.push_keeps | intro _ | split

theorem execColl_keeps {a t : State} (x0 : CoreId) (x1 : SF) (x2 : State) (h1 : Keeps a x2) (e : execColl x0 x1 x2 = .next t) : Keeps a t := by
  unfold execColl at e
  cases e
  repeat' first
    | with_reducible assumption | with_reducible apply State.issue_keeps | with_reducible apply State.ifFree_keeps
    | with_reducible apply State.insnFault_keeps | with_reducible apply State.withDesc_keeps | with_reducible apply State.pump_keeps
    | with_reducible apply State.push_keeps | intro _ | split

theorem execBlk_keeps {a t : State} (x0 : CoreId) (x1 : SF) (x2 : State) (h1 : Keeps a x2) (e : execBlk x0 x1 x2 = .next t) : Keeps a t := by
  unfold execBlk at e
  cases e
  repeat' first
    | with_reducible assumption | with_reducible apply State.issue_keeps | with_reducible apply State.modCore_keeps
    | with_reducible apply State.ifFree_keeps | intro _ | split

theorem execEndTask_keeps {a t : State} (x0 : CoreId) (x1 : SF) (x2 : State) (h1 : Keeps a x2) (e : execEndTask x0 x1 x2 = .next t) : Keeps a t := by
  unfold execEndTask at e
  cases e
  repeat' first
    | with_reducible assumption | with_reducible apply State.issue_keeps | with_reducible apply State.modCore_keeps
    | with_reducible apply State.insnFault_keeps | intro _ | split

/-! ## Ports -/

theorem State.marksPass_keeps {a : State} (x0 : State) (x1 : Nat) (h1 : Keeps a x0) : Keeps a (State.marksPass x0 x1) := by
  unfold State.marksPass
  repeat' first
    | with_reducible assumption | with_reducible apply State.modPort_keeps | with_reducible apply State.modCtx_keeps
    | with_reducible apply Keeps.foldl | intro _ | split

theorem State.dropQueued_keeps {a : State} (x0 : State) (x1 : Nat) (h1 : Keeps a x0) : Keeps a (State.dropQueued x0 x1) := by
  unfold State.dropQueued
  repeat' first | with_reducible assumption | with_reducible apply State.leaveBuf_keeps | with_reducible apply Keeps.foldl | intro _ | split

theorem State.emptyPort_keeps {a : State} (x0 : State) (x1 : Nat) (h1 : Keeps a x0) : Keeps a (State.emptyPort x0 x1) := by
  unfold State.emptyPort
  repeat' first | with_reducible apply h1 | with_reducible apply State.modPort_keeps | with_reducible apply State.dropQueued_keeps

theorem State.endPort_keeps {a : State} (x0 : State) (x1 : Nat) (h1 : Keeps a x0) : Keeps a (State.endPort x0 x1) := by
  unfold State.endPort
  repeat' first
    | with_reducible apply h1 | with_reducible apply State.modDir_keeps | with_reducible apply State.marksPass_keeps
    | with_reducible apply State.modPort_keeps | with_reducible apply State.emptyPort_keeps | split

theorem State.loseDir_keeps {a : State} (x0 : State) (x1 : Nat) (h1 : Keeps a x0) : Keeps a (State.loseDir x0 x1) := by
  unfold State.loseDir
  repeat' first
    | with_reducible assumption | with_reducible apply State.modDir_keeps | with_reducible apply State.leaveBuf_keeps
    | with_reducible apply State.dropUnreach_keeps | with_reducible apply State.endPort_keeps | with_reducible apply State.fatal_keeps
    | with_reducible apply Keeps.foldl | intro _ | split | dsimp only

theorem State.countLost_keeps {a : State} (x0 : State) (x1 : Nat) (h1 : Keeps a x0) : Keeps a (State.countLost x0 x1) := by
  unfold State.countLost
  repeat' first
    | with_reducible apply h1 | with_reducible apply State.penalise_keeps | with_reducible apply State.note24_keeps
    | with_reducible apply State.modPort_keeps

theorem State.dropPort_keeps {a : State} (x0 : State) (x1 : Nat) (x2 : Option Nat) (h1 : Keeps a x0) : Keeps a (State.dropPort x0 x1 x2) := by
  unfold State.dropPort
  repeat' first
    | with_reducible apply h1 | with_reducible apply State.countLost_keeps | with_reducible apply State.modPort_keeps
    | with_reducible apply State.emptyPort_keeps | with_reducible apply State.loseDir_keeps | with_reducible apply State.sendLinkctl_keeps
    | split | dsimp only

theorem State.losePort_keeps {a : State} (x0 : State) (x1 : Nat) (h1 : Keeps a x0) : Keeps a (State.losePort x0 x1) := by
  unfold State.losePort
  repeat' first | with_reducible apply h1 | with_reducible apply State.dropPort_keeps

theorem State.replay_keeps {a : State} (x0 : State) (x1 : Nat) (h1 : Keeps a x0) : Keeps a (State.replay x0 x1) := by
  unfold State.replay
  repeat' first
    | with_reducible apply h1 | with_reducible apply State.modPort_keeps | with_reducible apply State.losePort_keeps | split | dsimp only

theorem State.requeueOne_keeps {a : State} (x0 : State) (x1 : Nat) (x2 : Flit) (x3 : Nat) (h1 : Keeps a x0) : Keeps a
    (State.requeueOne x0 x1 x2 x3) := by
  unfold State.requeueOne
  repeat' first
    | with_reducible apply h1 | with_reducible apply State.modPort_keeps | with_reducible apply State.leaveBuf_keeps
    | with_reducible apply State.dropUnreach_keeps | with_reducible apply State.enqueueHead_keeps | with_reducible apply State.modDir_keeps
    | split

theorem State.releaseFlows_keeps {a : State} (x0 : State) (x1 : Nat) (h1 : Keeps a x0) : Keeps a (State.releaseFlows x0 x1) := by
  unfold State.releaseFlows
  repeat' first
    | with_reducible apply h1 | with_reducible apply State.modDir_keeps | with_reducible apply State.sendIn_keeps
    | with_reducible apply Keeps.foldl | intro _

theorem State.handOver_keeps {a : State} (x0 : State) (x1 : Nat) (x2 : Nat) (x3 : BitVec 12) (h1 : Keeps a x0) : Keeps a
    (State.handOver x0 x1 x2 x3) := by
  unfold State.handOver
  repeat' first
    | with_reducible apply h1 | with_reducible apply State.endPort_keeps | with_reducible apply State.modPort_keeps
    | with_reducible apply State.releaseFlows_keeps | with_reducible apply State.requeueOne_keeps | with_reducible apply Keeps.foldl
    | intro _

theorem State.deliverFlit_keeps {a : State} (x0 : State) (x1 : Nat) (x2 : Option (Fin 4)) (x3 : Flit) (h1 : Keeps a x0) : Keeps a (State.deliverFlit x0 x1 x2 x3) := by
  unfold State.deliverFlit
  repeat' first | exact Keeps.mk' (by with_reducible assumption) | split | dsimp only

theorem State.acceptData_keeps {a : State} (x0 : State) (x1 : Nat) (x2 : Option (Fin 4)) (x3 : Flit) (h1 : Keeps a x0) : Keeps a (State.acceptData x0 x1 x2 x3) := by
  unfold State.acceptData
  repeat' first
    | with_reducible apply h1 | with_reducible apply State.leaveBuf_keeps | with_reducible apply State.deliverFlit_keeps
    | with_reducible apply State.sendFlit_keeps | split

theorem State.acceptSeq_keeps {a : State} (x0 : State) (x1 : Nat) (x2 : Option (Fin 4)) (x3 : Flit) (h1 : Keeps a x0) : Keeps a (State.acceptSeq x0 x1 x2 x3) := by
  unfold State.acceptSeq
  repeat' first
    | with_reducible apply State.leaveBuf_keeps | with_reducible apply State.acceptData_keeps
    | exact Keeps.mk' (by with_reducible assumption) | split | fail_if_no_progress (refine Keeps.mk' ?_)

theorem State.refuseFlit_keeps {a : State} (x0 : State) (x1 : Nat) (h1 : Keeps a x0) : Keeps a (State.refuseFlit x0 x1) := by
  unfold State.refuseFlit
  repeat' first
    | with_reducible apply State.penalise_keeps | exact Keeps.mk' (by with_reducible assumption) | split | dsimp only
    | fail_if_no_progress (refine Keeps.mk' ?_)

theorem State.takeFlit_keeps {a : State} (x0 : State) (x1 : Nat) (x2 : Option (Fin 4)) (x3 : Flit) (h1 : Keeps a x0) : Keeps a (State.takeFlit x0 x1 x2 x3) := by
  unfold State.takeFlit
  repeat' first
    | with_reducible apply h1 | with_reducible apply State.modPort_keeps | with_reducible apply State.dropProto_keeps
    | with_reducible apply State.replay_keeps | with_reducible apply State.acceptSeq_keeps | split

theorem State.takeHeld_keeps {a : State} (x0 : State) (x1 : Nat) (x2 : Flit) (h1 : Keeps a x0) : Keeps a (State.takeHeld x0 x1 x2) := by
  unfold State.takeHeld
  repeat' first | with_reducible apply h1 | with_reducible apply State.modPort_keeps | with_reducible apply State.dropProto_keeps | split

theorem State.countUncorr_keeps {a : State} (x0 : State) (x1 : Nat) (x2 : Nat) (h1 : Keeps a x0) : Keeps a (State.countUncorr x0 x1 x2) := by
  unfold State.countUncorr
  repeat' first | with_reducible apply h1 | with_reducible apply State.modPort_keeps

theorem execFlitReceive_keeps {a t : State} (x0 : PortId) (x1 : List Byte) (x2 : Nat) (x3 : State) (strand : Option (Fin 4)) (h1 : Keeps a x3)
    (e : execFlitReceive x0 x1 x3 x2 strand = .next t) : Keeps a t := by
  unfold execFlitReceive at e
  cases e
  repeat' first
    | with_reducible apply h1 | with_reducible apply State.countUncorr_keeps | with_reducible apply State.refuseFlit_keeps
    | with_reducible apply State.takeFlit_keeps | with_reducible apply State.takeHeld_keeps | split | dsimp only

theorem execNakReceive_keeps {a t : State} (x0 : PortId) (x1 : Flit) (x2 : State) (h1 : Keeps a x2)
    (e : execNakReceive x0 x1 x2 = .next t) : Keeps a t := by
  unfold execNakReceive at e
  cases e
  repeat' first | with_reducible apply h1 | with_reducible apply State.takeFlit_keeps | split

theorem execAckTimeout_keeps {a t : State} (x0 : PortId) (x1 : State) (h1 : Keeps a x1) (e : execAckTimeout x0 x1 = .next t) : Keeps a t := by
  unfold execAckTimeout at e
  cases e
  repeat' first | with_reducible apply h1 | with_reducible apply State.replay_keeps | split

theorem execHandover_keeps {a t : State} (x0 : Nat) (x1 : State) (h1 : Keeps a x1) (e : execHandover x0 x1 = .next t) : Keeps a t := by
  unfold execHandover at e
  cases e
  repeat' first | with_reducible apply State.handOver_keeps | exact Keeps.mk' (by with_reducible assumption) | split

theorem execHandoverTimeout_keeps {a t : State} (x0 : PortId) (x1 : State) (h1 : Keeps a x1)
    (e : execHandoverTimeout x0 x1 = .next t) : Keeps a t := by
  unfold execHandoverTimeout at e
  cases e
  repeat' first | with_reducible apply h1 | with_reducible apply State.loseDir_keeps | split

theorem execResetting_keeps {a t : State} (x0 : Nat) (x1 : State) (h1 : Keeps a x1) (e : execResetting x0 x1 = .next t) : Keeps a t := by
  unfold execResetting at e
  cases e
  repeat' first | exact Keeps.mk' (by with_reducible assumption) | split | dsimp only | fail_if_no_progress (refine Keeps.mk' ?_)

theorem State.sendOut_keeps {a : State} (x0 : State) (x1 : Nat) (x2 : Flit) (h1 : Keeps a x0) : Keeps a (State.sendOut x0 x1 x2) := by
  unfold State.sendOut
  repeat' first | with_reducible apply h1 | with_reducible apply State.emit_keeps | with_reducible apply State.modPort_keeps

theorem State.sendNew_keeps {a : State} (x0 : State) (x1 : Nat) (x2 : Flit) (h1 : Keeps a x0) : Keeps a (State.sendNew x0 x1 x2) := by
  unfold State.sendNew
  repeat' first | with_reducible apply h1 | with_reducible apply State.sendOut_keeps | with_reducible apply State.modPort_keeps

theorem State.sendResetting_keeps {a : State} (x0 : State) (h1 : Keeps a x0) : Keeps a (State.sendResetting x0) := by
  unfold State.sendResetting
  repeat' first | with_reducible assumption | with_reducible apply State.sendNew_keeps | with_reducible apply Keeps.foldl | intro _ | split

theorem State.sendHead_keeps {a : State} (x0 : State) (x1 : Nat) (x2 : Nat) (x3 : Flit) (h1 : Keeps a x0) : Keeps a (State.sendHead x0 x1 x2 x3) := by
  unfold State.sendHead
  repeat' first
    | with_reducible apply h1 | with_reducible apply State.sendNew_keeps | with_reducible apply State.leaveBuf_keeps
    | with_reducible apply State.modPort_keeps

theorem State.slotSend_keeps {a : State} (x0 : State) (x1 : Nat) (h1 : Keeps a x0) : Keeps a (x0.slotSend x1) := by
  unfold State.slotSend
  have k := State.modPort_keeps x0 x1 (fun k => (List.range 6).foldl (fun k vc => k.popMarks vc 16) k) h1
  revert k
  generalize x0.modPort x1 _ = s
  intro k
  extract_lets q
  refine .ite (State.sendOut_keeps _ _ _ (State.modPort_keeps _ _ _ k)) ?_
  split
  · exact State.sendOut_keeps _ _ _ (State.modPort_keeps _ _ _ k)
  · refine .ite (State.sendOut_keeps _ _ _ k) ?_
    extract_lets ctl
    split
    · exact State.sendNew_keeps _ _ _ (State.modPort_keeps _ _ _ k)
    · exact State.sendHead_keeps _ _ _ _ k
    · split
      · exact State.sendHead_keeps _ _ _ _ (State.modPort_keeps _ _ _ k)
      · exact k
    · exact State.sendOut_keeps _ _ _ k

theorem execFlitSlot_keeps {a t : State} (x0 : PortId) (x1 : State) (h1 : Keeps a x1) (e : execFlitSlot x0 x1 = .next t) : Keeps a t := by
  unfold execFlitSlot at e
  cases e
  repeat' first | with_reducible apply h1 | with_reducible apply State.slotSend_keeps | with_reducible apply State.sendOut_keeps | split

/-! ## Rdma -/

theorem execQpConnectRequest_keeps {a t : State} (x0 : Fin 1024) (x1 : Fin 4) (x2 : BitVec 32) (x3 : Nat) (x4 : State) (h1 : Keeps a x4)
    (e : execQpConnectRequest x0 x1 x2 x4 x3 = .next t) : Keeps a t := by
  unfold execQpConnectRequest at e
  cases e
  repeat' first | with_reducible apply h1 | with_reducible apply State.emit_keeps | with_reducible apply State.modHost_keeps | split

theorem State.modQp_keeps {a : State} (x0 : State) (x1 : Nat) (x2 : Qp → Qp) (h1 : Keeps a x0) : Keeps a (State.modQp x0 x1 x2) := by
  unfold State.modQp
  repeat' first | with_reducible apply h1 | with_reducible apply State.modHost_keeps

theorem execCongestionExperiencedPacket_keeps {a t : State} (x0 : Fin 1024) (x1 : State) (h1 : Keeps a x1)
    (e : execCongestionExperiencedPacket x0 x1 = .next t) : Keeps a t := by
  unfold execCongestionExperiencedPacket at e
  cases e
  repeat' first | with_reducible apply h1 | with_reducible apply State.emit_keeps | with_reducible apply State.modQp_keeps | split

theorem execCongestionNotificationPacket_keeps {a t : State} (x0 : Fin 1024) (x1 : State) (h1 : Keeps a x1)
    (e : execCongestionNotificationPacket x0 x1 = .next t) : Keeps a t := by
  unfold execCongestionNotificationPacket at e
  cases e
  repeat' first | with_reducible apply h1 | with_reducible apply State.modQp_keeps | split

theorem execRateRiseTimer_keeps {a t : State} (x0 : Fin 1024) (x1 : State) (h1 : Keeps a x1) (e : execRateRiseTimer x0 x1 = .next t) : Keeps a t := by
  unfold execRateRiseTimer at e
  cases e
  repeat' first | with_reducible apply h1 | with_reducible apply State.modQp_keeps | split

theorem State.nakEnd_keeps {a : State} (x0 : State) (x1 : Nat) (x2 : Bool) (h1 : Keeps a x0) : Keeps a (State.nakEnd x0 x1 x2) := by
  unfold State.nakEnd
  repeat' first | with_reducible apply h1 | with_reducible apply State.emit_keeps | with_reducible apply State.modHost_keeps

theorem State.bulkWrite_keeps {a : State} (x0 : State) (x1 : Nat) (x2 : Nat) (x3 : Nat) (x4 : List Byte) (h1 : Keeps a x0) : Keeps a
    (State.bulkWrite x0 x1 x2 x3 x4) := by
  induction x2 generalizing x0 x1 x3 x4 <;> unfold State.bulkWrite
  all_goals repeat' first
    | with_reducible apply_assumption | with_reducible apply State.store_keeps | with_reducible apply State.uncorrFault_keeps
    | with_reducible apply State.faultPage_keeps | refine Keeps.snd ?_ (by with_reducible assumption) | with_reducible apply Keeps.ite
    | split

theorem State.bellWrite_keeps {a : State} (x0 : State) (x1 : Nat) (x2 : Nat) (x3 : List Byte) (h1 : Keeps a x0) : Keeps a
    (State.bellWrite x0 x1 x2 x3) := by
  unfold State.bellWrite
  repeat' first
    | with_reducible apply h1 | with_reducible apply State.hostDiscard_keeps | with_reducible apply State.writeSqTail_keeps
    | with_reducible apply State.writeCqHead_keeps | with_reducible apply State.writeFlag_keeps
    | with_reducible apply State.writeNotify_keeps | split

theorem State.hostWrite_keeps {a : State} (x0 : State) (x1 : Nat) (x2 : Nat) (x3 : Nat) (x4 : List Byte) (h1 : Keeps a x0) : Keeps a
    (State.hostWrite x0 x1 x2 x3 x4) := by
  unfold State.hostWrite
  repeat' first
    | with_reducible apply h1 | with_reducible apply State.emit_keeps | with_reducible apply State.absorb_keeps
    | with_reducible apply State.modHost_keeps | with_reducible apply State.bellWrite_keeps | with_reducible apply State.hostDiscard_keeps
    | with_reducible apply State.bulkWrite_keeps | with_reducible apply State.nakEnd_keeps | split

theorem execRdmaWrite_keeps {a t : State} (x0 : Fin 1024) (x1 : BitVec 32) (x2 : BitVec 64) (x3 : List Byte) (x4 : Nat) (x5 : State)
    (h1 : Keeps a x5) (e : execRdmaWrite x0 x1 x2 x3 x5 x4 = .next t) : Keeps a t := by
  unfold execRdmaWrite at e
  cases e
  repeat' first
    | with_reducible apply h1 | with_reducible apply State.nakEnd_keeps | with_reducible apply State.emit_keeps
    | with_reducible apply State.cross_keeps | with_reducible apply State.hostWrite_keeps | intro _ | split

theorem State.hostRead_keeps {a : State} (x0 : State) (x1 : Nat) (x2 : Nat) (x3 : Nat) (x4 : Nat) (h1 : Keeps a x0) : Keeps a
    (State.hostRead x0 x1 x2 x3 x4) := by
  unfold State.hostRead
  repeat' first
    | with_reducible apply h1 | with_reducible apply State.nakEnd_keeps | with_reducible apply State.absorb_keeps
    | with_reducible apply State.emit_keeps | with_reducible apply State.load_keeps | with_reducible apply State.uncorrFault_keeps
    | refine Keeps.snd ?_ (by with_reducible assumption) | split

theorem execRdmaRead_keeps {a t : State} (x0 : Fin 1024) (x1 : BitVec 32) (x2 : BitVec 64) (x3 : Nat) (x4 : Nat) (x5 : List Upset)
    (x6 : State) (h1 : Keeps a x6) (e : execRdmaRead x0 x1 x2 x3 x5 x6 x4 = .next t) : Keeps a t := by
  unfold execRdmaRead at e
  cases e
  repeat' first
    | with_reducible assumption | with_reducible apply State.nakEnd_keeps | with_reducible apply State.emit_keeps
    | with_reducible apply State.cross_keeps | with_reducible apply State.hostRead_keeps | with_reducible apply State.applyUpsets_keeps
    | intro _ | split

end Sys2Proof.Machine
end

