-- ==== Sys2Proof/Laws/KeepsLink.lean ====
section
/-!
SUPPORT. What every operation keeps, continued: training, snapshots and groups.
-/

set_option Elab.async false

namespace Sys2Proof.Machine

open Sys2Proof

/-! ## Train -/

theorem State.inState_keeps {a : State} (x0 : State) (x1 : Nat) (x2 : Nat) (x3 : Port → Port) (h1 : Keeps a x0) : Keeps a
    (State.inState x0 x1 x2 x3) := by
  unfold State.inState
  repeat' first | with_reducible apply h1 | with_reducible apply State.modPort_keeps | split

theorem execLaneSignalDetect_keeps {a t : State} (x0 : PortId) (x1 : BitVec 8) (x2 : State) (h1 : Keeps a x2)
    (e : execLaneSignalDetect x0 x1 x2 = .next t) : Keeps a t := by
  unfold execLaneSignalDetect at e
  cases e
  repeat' first | with_reducible apply h1 | with_reducible apply State.inState_keeps | split

theorem execLanesConverge_keeps {a t : State} (x0 : PortId) (x1 : BitVec 8) (x2 : State) (h1 : Keeps a x2)
    (e : execLanesConverge x0 x1 x2 = .next t) : Keeps a t := by
  cases e
  exact .ite ((State.modPort_keeps _ _ _ h1).mkOk (hp := fun o => o.pwr.upd)) h1

theorem execEqualiseTimeout_keeps {a t : State} (x0 : PortId) (x1 : State) (h1 : Keeps a x1)
    (e : execEqualiseTimeout x0 x1 = .next t) : Keeps a t := by
  unfold execEqualiseTimeout at e
  cases e
  repeat' first | with_reducible apply h1 | with_reducible apply State.inState_keeps

theorem State.enterExchange_keeps {a : State} (x0 : State) (x1 : Nat) (h1 : Keeps a x0) : Keeps a (State.enterExchange x0 x1) := by
  unfold State.enterExchange
  repeat' first | with_reducible apply h1 | with_reducible apply State.emit_keeps | with_reducible apply State.modPort_keeps

theorem execFecLock_keeps {a t : State} (x0 : PortId) (x1 : Nat) (x2 : State) (h1 : Keeps a x2) (e : execFecLock x0 x1 x2 = .next t) : Keeps a t := by
  unfold execFecLock at e
  cases e
  repeat' first
    | with_reducible apply h1 | with_reducible apply State.modPort_keeps | with_reducible apply State.enterExchange_keeps | split

theorem execAlignTimeout_keeps {a t : State} (x0 : PortId) (x1 : State) (h1 : Keeps a x1) (e : execAlignTimeout x0 x1 = .next t) : Keeps a t := by
  unfold execAlignTimeout at e
  cases e
  repeat' first | with_reducible apply h1 | with_reducible apply State.inState_keeps

theorem State.liftFence_keeps {a : State} (x0 : State) (x1 : BitVec 64) (x2 : BitVec 32) (h1 : Keeps a x0) : Keeps a (x0.liftFence x1 x2) := by
  unfold State.liftFence
  have k : ∀ (l : List Nat) (h : Hlt), h.Ok → (l.foldl (fun (h : Hlt) i =>
      match h.fence i with
      | some f => if f.serial == x1 && decide (f.epoch.toNat < x2.toNat) then { h with fences := SMap.set none h.fences i none } else h
      | none => h) h).Ok := by
    intro l
    induction l with
    | nil => exact fun _ o => o
    | cons i l ih =>
      intro h o
      refine ih _ ?_
      dsimp only
      split
      · split
        · exact o.upd
        · exact o
      · exact o
  exact h1.mkOk (hh := fun o => k _ _ o.hlt)

theorem State.giveVerdict_keeps {a : State} (x0 : State) (x1 : Nat) (h1 : Keeps a x0) : Keeps a (x0.giveVerdict x1) := by
  unfold State.giveVerdict
  extract_lets k s
  have h : Keeps a s := State.liftFence_keeps _ _ _ h1
  clear_value s
  split
  · exact State.modPort_keeps _ _ _ h
  · exact h

theorem State.afterRerun_keeps {a : State} (x0 : State) (x1 : Nat) (h1 : Keeps a x0) : Keeps a (State.afterRerun x0 x1) := by
  unfold State.afterRerun
  repeat' first | with_reducible apply h1 | with_reducible apply State.loseDir_keeps | split

theorem State.toHeld_keeps {a : State} (x0 : State) (x1 : Nat) (h1 : Keeps a x0) : Keeps a (State.toHeld x0 x1) := by
  unfold State.toHeld
  repeat' first
    | with_reducible apply h1 | with_reducible apply State.modPort_keeps | with_reducible apply State.afterRerun_keeps | split | dsimp only

theorem State.judgeExchange_keeps {a : State} (x0 : State) (x1 : Nat) (h1 : Keeps a x0) : Keeps a (x0.judgeExchange x1) := by
  unfold State.judgeExchange
  extract_lets s
  have h : Keeps a s := State.giveVerdict_keeps _ _ h1
  clear_value s
  split
  · exact State.toHeld_keeps _ _ h
  · exact State.modPort_keeps _ _ _ h

theorem State.unlink_keeps {a : State} (x0 : State) (x1 : Nat) (h1 : Keeps a x0) : Keeps a (State.unlink x0 x1) := by
  unfold State.unlink
  repeat' first
    | with_reducible apply h1 | with_reducible apply State.modPort_keeps | with_reducible apply State.modDir_keeps
    | with_reducible apply Keeps.foldl | intro _

theorem State.activate_keeps {a : State} (x0 : State) (x1 : Nat) (h1 : Keeps a x0) : Keeps a (State.activate x0 x1) := by
  unfold State.activate
  repeat' first | with_reducible apply h1 | with_reducible apply State.modPort_keeps | with_reducible apply State.unlink_keeps

theorem State.joinCheck_keeps {a : State} (x0 : State) (h1 : Keeps a x0) : Keeps a (State.joinCheck x0) := by
  unfold State.joinCheck
  repeat' first | exact Keeps.mk' (by with_reducible assumption) | split | fail_if_no_progress (refine Keeps.mk' ?_)

theorem State.adoptVia_keeps {a : State} (x0 : State) (x1 : Nat) (h1 : Keeps a x0) : Keeps a (State.adoptVia x0 x1) := by
  unfold State.adoptVia
  repeat' first
    | with_reducible assumption | with_reducible apply State.modDir_keeps | with_reducible apply State.enterExchange_keeps
    | with_reducible apply Keeps.foldl | intro _ | split

theorem State.hearPeer_keeps {a : State} (x0 : State) (x1 : Nat) (x2 : XInfo) (h1 : Keeps a x0) : Keeps a (State.hearPeer x0 x1 x2) := by
  unfold State.hearPeer
  repeat' first | exact Keeps.mk' (by with_reducible assumption) | fail_if_no_progress (refine Keeps.mk' ?_)

theorem State.setRtt_keeps {a : State} (x0 : State) (x1 : Nat) (x2 : Nat) (h1 : Keeps a x0) : Keeps a (State.setRtt x0 x1 x2) := by
  unfold State.setRtt
  repeat' first | with_reducible apply h1 | with_reducible apply State.modPort_keeps

theorem State.rerunExchange_keeps {a : State} (x0 : State) (x1 : Nat) (h1 : Keeps a x0) : Keeps a (x0.rerunExchange x1) := by
  unfold State.rerunExchange
  extract_lets st s t
  have hs : Keeps a s := State.modPort_keeps _ _ _ (State.emptyPort_keeps _ _ h1)
  have ht : Keeps a t := State.endPort_keeps _ _ h1
  clear_value s t
  refine .ite (State.marksPass_keeps _ _ (State.enterExchange_keeps _ _ hs)) (.ite (State.enterExchange_keeps _ _ h1) (.ite ?_ h1))
  exact .ite (State.enterExchange_keeps _ _ ht) ht

theorem execExchange_keeps {a t : State} (x0 : PortId) (x1 : XInfo) (x2 : Nat) (x3 : State) (h1 : Keeps a x3)
    (e : execExchange x0 x1 x3 x2 = .next t) : Keeps a t := by
  unfold execExchange at e
  injection e with e
  subst e
  have h := State.hearPeer_keeps x3 x0.val x1 h1
  exact .ite (State.adoptVia_keeps _ _ (State.judgeExchange_keeps _ _ (State.setRtt_keeps _ _ _ h)))
    (.ite (State.adoptVia_keeps _ _ (State.giveVerdict_keeps _ _ h))
      (.ite (State.judgeExchange_keeps _ _ (State.setRtt_keeps _ _ _ (State.rerunExchange_keeps _ _ h))) h1))

theorem execExchangeVerdictExpiry_keeps {a t : State} (x0 : PortId) (x1 : State) (h1 : Keeps a x1)
    (e : execExchangeVerdictExpiry x0 x1 = .next t) : Keeps a t := by
  unfold execExchangeVerdictExpiry at e
  cases e
  repeat' first
    | with_reducible apply h1 | with_reducible apply State.toHeld_keeps | with_reducible apply State.joinCheck_keeps
    | with_reducible apply State.activate_keeps | split | dsimp only

theorem State.degrade_keeps {a : State} (x0 : State) (x1 : Nat) (x2 : Nat) (h1 : Keeps a x0) : Keeps a (State.degrade x0 x1 x2) := by
  unfold State.degrade
  repeat' first
    | with_reducible apply h1 | with_reducible apply State.modPort_keeps | with_reducible apply State.emit_keeps
    | with_reducible apply State.penalise_keeps | with_reducible apply State.note24_keeps

theorem State.laneFault_keeps {a : State} (x0 : State) (x1 : Nat) (x2 : Nat) (h1 : Keeps a x0) : Keeps a (State.laneFault x0 x1 x2) := by
  unfold State.laneFault
  repeat' first
    | with_reducible apply h1 | with_reducible apply State.degrade_keeps | with_reducible apply State.losePort_keeps | split | dsimp only

theorem execLaneFault_keeps {a t : State} (x0 : PortId) (x1 : Fin 8) (x2 : State) (h1 : Keeps a x2)
    (e : execLaneFault x0 x1 x2 = .next t) : Keeps a t := by
  unfold execLaneFault at e
  cases e
  repeat' first | with_reducible apply h1 | with_reducible apply State.laneFault_keeps

theorem execDegradeMarkerReceive_keeps {a t : State} (x0 : PortId) (x1 : Fin 8) (x2 : State) (h1 : Keeps a x2)
    (e : execDegradeMarkerReceive x0 x1 x2 = .next t) : Keeps a t := by
  unfold execDegradeMarkerReceive at e
  cases e
  repeat' first | with_reducible apply h1 | with_reducible apply State.laneFault_keeps

theorem execDegradeComplete_keeps {a t : State} (x0 : PortId) (x1 : State) (h1 : Keeps a x1)
    (e : execDegradeComplete x0 x1 = .next t) : Keeps a t := by
  unfold execDegradeComplete at e
  cases e
  repeat' first
    | with_reducible apply h1 | with_reducible apply State.modPort_keeps | with_reducible apply State.dropPort_keeps | split | dsimp only

theorem execDegradeTimeout_keeps {a t : State} (x0 : PortId) (x1 : State) (h1 : Keeps a x1) (e : execDegradeTimeout x0 x1 = .next t) : Keeps a t := by
  unfold execDegradeTimeout at e
  cases e
  repeat' first | with_reducible apply h1 | with_reducible apply State.losePort_keeps | split

theorem execCodewordLossTimeout_keeps {a t : State} (x0 : PortId) (x1 : Nat) (x2 : State) (h1 : Keeps a x2)
    (e : execCodewordLossTimeout x0 x2 x1 = .next t) : Keeps a t := by
  unfold execCodewordLossTimeout at e
  cases e
  repeat' first | with_reducible apply h1 | with_reducible apply State.losePort_keeps | with_reducible apply State.countUncorr_keeps | split

theorem execDownRetrainTimer_keeps {a t : State} (x0 : PortId) (x1 : State) (h1 : Keeps a x1)
    (e : execDownRetrainTimer x0 x1 = .next t) : Keeps a t := by
  unfold execDownRetrainTimer at e
  cases e
  repeat' first | with_reducible apply h1 | with_reducible apply State.inState_keeps | split

theorem execFailedRetryTimer_keeps {a t : State} (x0 : PortId) (x1 : State) (h1 : Keeps a x1)
    (e : execFailedRetryTimer x0 x1 = .next t) : Keeps a t := by
  unfold execFailedRetryTimer at e
  cases e
  repeat' first | with_reducible apply h1 | with_reducible apply State.inState_keeps

theorem State.writeEnable_keeps {a : State} (x0 : State) (x1 : Nat) (x2 : Bool) (h1 : Keeps a x0) : Keeps a (State.writeEnable x0 x1 x2) := by
  unfold State.writeEnable
  repeat' first
    | with_reducible apply h1 | with_reducible apply State.modPort_keeps | with_reducible apply State.dropPort_keeps
    | with_reducible apply State.emptyPort_keeps | split | dsimp only

theorem State.writeHold_keeps {a : State} (x0 : State) (x1 : Nat) (x2 : Bool) (h1 : Keeps a x0) : Keeps a (State.writeHold x0 x1 x2) := by
  unfold State.writeHold
  repeat' first
    | with_reducible apply h1 | with_reducible apply State.modPort_keeps | with_reducible apply State.dropPort_keeps
    | with_reducible apply State.toHeld_keeps | with_reducible apply State.enterExchange_keeps | split | dsimp only

theorem State.writeRetrain_keeps {a : State} (x0 : State) (x1 : Nat) (x2 : Bool) (h1 : Keeps a x0) : Keeps a (State.writeRetrain x0 x1 x2) := by
  unfold State.writeRetrain
  repeat' first | with_reducible apply h1 | with_reducible apply State.inState_keeps | split

theorem State.writeDir_keeps {a : State} (x0 : State) (x1 : Nat) (x2 : BitVec 64) (h1 : Keeps a x0) : Keeps a (State.writeDir x0 x1 x2) := by
  unfold State.writeDir
  repeat' first
    | with_reducible assumption | with_reducible apply State.modDir_keeps | with_reducible apply State.enterExchange_keeps
    | with_reducible apply Keeps.foldl | intro _ | split

theorem execEnable_keeps {a t : State} (x0 : Origin) (x1 : PortId) (x2 : BitVec 64) (x3 : State) (h1 : Keeps a x3)
    (e : execEnable x0 x1 x2 x3 = .next t) : Keeps a t := by
  unfold execEnable at e
  cases e
  repeat' first | with_reducible apply h1 | with_reducible apply State.writeEnable_keeps | split

theorem execHold_keeps {a t : State} (x0 : Origin) (x1 : PortId) (x2 : BitVec 64) (x3 : State) (h1 : Keeps a x3)
    (e : execHold x0 x1 x2 x3 = .next t) : Keeps a t := by
  unfold execHold at e
  cases e
  repeat' first | with_reducible apply h1 | with_reducible apply State.writeHold_keeps | split

theorem execRetrain_keeps {a t : State} (x0 : Origin) (x1 : PortId) (x2 : BitVec 64) (x3 : State) (h1 : Keeps a x3)
    (e : execRetrain x0 x1 x2 x3 = .next t) : Keeps a t := by
  unfold execRetrain at e
  cases e
  repeat' first | with_reducible apply h1 | with_reducible apply State.writeRetrain_keeps | split

theorem execLnkDirWrite_keeps {a t : State} (x0 : Origin) (x1 : DirId) (x2 : BitVec 64) (x3 : State) (h1 : Keeps a x3)
    (e : execLnkDirWrite x0 x1 x2 x3 = .next t) : Keeps a t := by
  unfold execLnkDirWrite at e
  cases e
  repeat' first | with_reducible apply h1 | with_reducible apply State.writeDir_keeps | split

theorem State.holdPeer_keeps {a : State} (x0 : State) (x1 : BitVec 64) (x2 : Nat) (h1 : Keeps a x0) : Keeps a (State.holdPeer x0 x1 x2) := by
  unfold State.holdPeer
  repeat' first
    | with_reducible assumption | with_reducible apply State.writeHold_keeps | with_reducible apply Keeps.foldl | intro _ | split

theorem Hlt.Ok.enterFence {h : Hlt} (o : h.Ok) (serial : BitVec 64) (epoch : BitVec 32) (coord : BitVec 16) :
    (h.enterFence serial epoch coord).Ok := by
  unfold Hlt.enterFence
  split <;> exact o.upd

theorem execFencePeer_keeps {a t : State} (x0 : Tag) (x1 : State) (h1 : Keeps a x1) (e : execFencePeer x0 x1 = .next t) : Keeps a t := by
  cases e
  exact State.command_keeps _ _ _ _ _ h1 fun c s h => .ite (State.finish_keeps _ _ _ _ _ _ _ h) (.ite (State.fatal_keeps _ _ h).mk'
    (State.finish_keeps _ _ _ _ _ _ _ (State.holdPeer_keeps _ _ _ (h.mkOk (hh := fun o => o.hlt.enterFence _ _ _)))))

/-! ## Snapshots -/

theorem State.finishWave_keeps {a : State} (x0 : State) (x1 : Nat) (h1 : Keeps a x0) : Keeps a (State.finishWave x0 x1) := by
  unfold State.finishWave
  repeat' first
    | with_reducible apply h1 | with_reducible apply State.contribute_keeps | with_reducible apply State.beginStop_keeps | split
    | dsimp only

theorem State.startSnapshot_keeps {a : State} (x0 : State) (x1 : Nat) (x2 : BitVec 16) (x3 : Nat) (h1 : Keeps a x0) : Keeps a
    (State.startSnapshot x0 x1 x2 x3) := by
  unfold State.startSnapshot
  repeat' first | with_reducible apply h1 | with_reducible apply State.finishWave_keeps | with_reducible apply State.modSnapOf_keeps

theorem execSnapshot_keeps {a t : State} (x0 : CtxN) (x1 : Tag) (x2 : State) (h1 : Keeps a x2) (e : execSnapshot x0 x1 x2 = .next t) : Keeps a t := by
  unfold execSnapshot at e
  cases e
  repeat' first
    | with_reducible assumption | with_reducible apply State.commandIf_keeps | with_reducible apply State.finish_keeps
    | with_reducible apply State.startSnapshot_keeps | intro _ | split

theorem execSnapshotSend_keeps {a t : State} (x0 : CtxN) (x1 : Tag) (x2 : State) (h1 : Keeps a x2)
    (e : execSnapshotSend x0 x1 x2 = .next t) : Keeps a t := by
  unfold execSnapshotSend at e
  cases e
  repeat' first
    | with_reducible assumption | with_reducible apply State.commandIf_keeps | with_reducible apply State.finish_keeps
    | with_reducible apply State.startSnapshot_keeps | intro _ | split

theorem execSnapshotStopEnd_keeps {a t : State} (x0 : CtxN) (x1 : State) (replays : Nat) (h1 : Keeps a x1) (e : execSnapshotStopEnd x0 x1 replays = .next t) : Keeps a t := by
  unfold execSnapshotStopEnd at e
  cases e
  repeat' first
    | with_reducible apply State.cross_keeps | with_reducible apply h1 | with_reducible apply State.finish_keeps
    | with_reducible apply State.modSnapOf_keeps | with_reducible apply State.endOp_keeps | with_reducible assumption | split | intro _

theorem execSnapshotDrainComplete_keeps {a t : State} (x0 : CtxN) (x1 : State) (replays : Nat) (h1 : Keeps a x1)
    (e : execSnapshotDrainComplete x0 x1 replays = .next t) : Keeps a t := by
  unfold execSnapshotDrainComplete at e
  cases e
  repeat' first
    | with_reducible apply State.cross_keeps | with_reducible apply h1 | with_reducible apply State.freeStaging_keeps
    | with_reducible apply State.modSnapOf_keeps | with_reducible assumption | split | intro _

theorem State.startOp_keeps {a : State} (x0 : State) (x1 : Nat) (x2 : SnapOp) (h1 : Keeps a x0) : Keeps a (State.startOp x0 x1 x2) := by
  unfold State.startOp
  repeat' first | with_reducible apply h1 | with_reducible apply State.modSnapOf_keeps

theorem execRestore_keeps {a t : State} (x0 : CtxN) (x1 : Tag) (x2 : State) (h1 : Keeps a x2) (e : execRestore x0 x1 x2 = .next t) : Keeps a t := by
  unfold execRestore at e
  cases e
  repeat' first
    | with_reducible assumption | with_reducible apply State.commandIf_keeps | with_reducible apply State.finish_keeps
    | refine State.takeRegions_keeps (e := by with_reducible assumption) (h1 := ?_) .. | with_reducible apply State.startOp_keeps | intro _
    | split | dsimp only

theorem execRestoreSend_keeps {a t : State} (x0 : CtxN) (x1 : Tag) (x2 : State) (h1 : Keeps a x2)
    (e : execRestoreSend x0 x1 x2 = .next t) : Keeps a t := by
  unfold execRestoreSend at e
  cases e
  repeat' first
    | with_reducible assumption | with_reducible apply State.commandIf_keeps | with_reducible apply State.finish_keeps
    | with_reducible apply State.takeGrants_keeps | with_reducible apply State.startOp_keeps | intro _ | split | dsimp only

theorem execRestoreReceive_keeps {a t : State} (x0 : CtxN) (x1 : Tag) (x2 : State) (h1 : Keeps a x2)
    (e : execRestoreReceive x0 x1 x2 = .next t) : Keeps a t := by
  unfold execRestoreReceive at e
  cases e
  repeat' first
    | with_reducible assumption | with_reducible apply State.commandIf_keeps | with_reducible apply State.finish_keeps
    | with_reducible apply State.grantStream_keeps | with_reducible apply State.startOp_keeps | intro _ | split | dsimp only

theorem State.clearQuarters_keeps {a : State} (x0 : State) (x1 : Nat) (h1 : Keeps a x0) : Keeps a (State.clearQuarters x0 x1) := by
  unfold State.clearQuarters
  repeat' first | with_reducible assumption | with_reducible apply State.fill_keeps | with_reducible apply Keeps.foldl | intro _ | split

theorem State.restoreArea_keeps {a t : State} (x0 : State) (x1 : Nat) (x2 : Image) (h1 : Keeps a x0)
    (e : x0.restoreArea x1 x2 = some t) : Keeps a t := by
  unfold State.restoreArea at e
  extract_lets free at e
  have k : Keeps a (free x0) := by
    unfold free
    split
    · exact State.startFill_keeps _ _ _ _ _ _ h1
    · exact h1
  clear_value free
  split at e
  · injection e with e
    subst e
    exact State.modCtx_keeps _ _ _ k
  · obtain ⟨b, -, rfl⟩ := Option.map_eq_some_iff.1 e
    exact State.modCtx_keeps _ _ _ k

theorem State.writeRegions_keeps {a : State} (x0 : State) (rs : List Region) (h1 : Keeps a x0) : Keeps a (x0.writeRegions rs).2 := by
  induction rs generalizing x0 with
  | nil => exact h1
  | cons r rs ih =>
    unfold State.writeRegions
    repeat' first
      | with_reducible apply h1 | with_reducible apply ih | with_reducible apply State.store_keeps
      | refine Keeps.snd ?_ (by with_reducible assumption) | split

theorem State.putSregs_keeps {a : State} (x0 : Nat) (x1 : Image) (x2 : State) (x3 : Nat) (h1 : Keeps a x2) : Keeps a (State.putSregs x0 x1 x2 x3) := by
  unfold State.putSregs
  repeat' first | with_reducible apply h1 | with_reducible apply State.modCtx_keeps | with_reducible apply State.modCore_keeps | split | dsimp only

theorem State.restoreSregs_keeps {a : State} (x0 : State) (x1 : Nat) (x2 : Image) (h1 : Keeps a x0) : Keeps a (x0.restoreSregs x1 x2) := by
  unfold State.restoreSregs
  repeat' first | with_reducible assumption | with_reducible apply State.putSregs_keeps | with_reducible apply Keeps.foldl | intro _ | split

theorem State.restoreDone_keeps {a : State} (x0 : State) (x1 : Nat) (x2 : Image) (h1 : Keeps a x0) : Keeps a (State.restoreDone x0 x1 x2) := by
  unfold State.restoreDone
  repeat' first | with_reducible apply h1 | with_reducible apply State.finish_keeps | with_reducible apply State.endOp_keeps | split

theorem State.installWhole_keeps {a : State} (x0 : State) (x1 : Nat) (x2 : Image) (h1 : Keeps a x0) : Keeps a (x0.installWhole x1 x2) := by
  unfold State.installWhole
  repeat' first
    | with_reducible apply h1 | with_reducible apply State.failRestore_keeps | with_reducible apply State.uncorrFault_keeps
    | with_reducible apply State.restoreDone_keeps | with_reducible apply State.modSnapOf_keeps | with_reducible apply State.ledgerSlot_keeps
    | with_reducible apply State.restoreSregs_keeps | with_reducible apply State.clearQuarters_keeps | with_reducible apply State.modCtx_keeps
    | with_reducible apply State.writeRegions_keeps | refine State.restoreArea_keeps _ _ _ ?_ (by with_reducible assumption)
    | refine Keeps.snd ?_ (by with_reducible assumption) | split | dsimp only

theorem State.installRetained_keeps {a : State} (x0 : State) (x1 : Nat) (x2 : Image) (h1 : Keeps a x0) : Keeps a
    (State.installRetained x0 x1 x2) := by
  unfold State.installRetained
  repeat' first
    | with_reducible apply h1 | with_reducible apply State.restoreDone_keeps | with_reducible apply State.modStepOf_keeps
    | with_reducible apply State.writeRegions_keeps | with_reducible apply State.uncorrFault_keeps
    | refine Keeps.snd ?_ (by with_reducible assumption) | split

theorem execRestoreInstallComplete_keeps {a t : State} (x0 : CtxN) (x1 : State) (replays : Nat) (h1 : Keeps a x1)
    (e : execRestoreInstallComplete x0 x1 replays = .next t) : Keeps a t := by
  unfold execRestoreInstallComplete at e
  cases e
  repeat' first
    | with_reducible assumption | with_reducible apply State.cross_keeps | with_reducible apply State.installWhole_keeps
    | with_reducible apply State.installRetained_keeps | with_reducible apply State.failRestore_keeps | intro _ | split | dsimp only

theorem execStreamTimeout_keeps {a t : State} (x0 : CtxN) (x1 : State) (h1 : Keeps a x1) (e : execStreamTimeout x0 x1 = .next t) : Keeps a t := by
  unfold execStreamTimeout at e
  cases e
  repeat' first
    | with_reducible apply h1 | with_reducible apply State.failSnapshot_keeps | with_reducible apply State.finish_keeps
    | with_reducible apply State.endOp_keeps | with_reducible apply State.failRestore_keeps | split | dsimp only

theorem execStreamSendComplete_keeps {a t : State} (x0 : CtxN) (x1 : State) (replays : Nat) (h1 : Keeps a x1)
    (e : execStreamSendComplete x0 x1 replays = .next t) : Keeps a t := by
  unfold execStreamSendComplete at e
  cases e
  repeat' first
    | with_reducible apply State.cross_keeps | with_reducible apply h1 | with_reducible apply State.restoreDone_keeps
    | with_reducible assumption | split | intro _

theorem execExportImg_keeps {a t : State} (x0 : CtxN) (x1 : Tag) (x2 : State) (h1 : Keeps a x2)
    (e : execExportImg x0 x1 x2 = .next t) : Keeps a t := by
  unfold execExportImg at e
  cases e
  repeat' first
    | with_reducible assumption | with_reducible apply State.commandIf_keeps | with_reducible apply State.finish_keeps
    | with_reducible apply State.startOp_keeps | intro _ | split | dsimp only

theorem State.firstImport_keeps {a : State} (x0 : State) (x1 : Nat) (x2 : SnapOp) (h1 : Keeps a x0) : Keeps a (State.firstImport x0 x1 x2) := by
  unfold State.firstImport
  repeat' first
    | with_reducible apply h1 | with_reducible apply State.finish_keeps | with_reducible apply State.load_keeps
    | with_reducible apply State.uncorrFault_keeps | refine State.chargeGen_keeps (e := by with_reducible assumption) (h1 := ?_) ..
    | with_reducible apply State.startOp_keeps | with_reducible apply State.modSnapOf_keeps
    | refine Keeps.snd ?_ (by with_reducible assumption) | split | dsimp only

theorem execImportImg_keeps {a t : State} (x0 : CtxN) (x1 : Tag) (x2 : State) (h1 : Keeps a x2)
    (e : execImportImg x0 x1 x2 = .next t) : Keeps a t := by
  unfold execImportImg at e
  cases e
  repeat' first
    | with_reducible assumption | with_reducible apply State.commandIf_keeps | with_reducible apply State.finish_keeps
    | with_reducible apply State.firstImport_keeps | with_reducible apply State.startOp_keeps | with_reducible apply State.emptyGen_keeps
    | intro _ | split | dsimp only

theorem State.moveOut_keeps {a : State} (x0 : State) (x1 : Nat) (x2 : SnapOp) (x3 : Image) (h1 : Keeps a x0) : Keeps a
    (State.moveOut x0 x1 x2 x3) := by
  unfold State.moveOut
  repeat' first
    | with_reducible apply h1 | with_reducible apply State.write_keeps | with_reducible apply State.restoreDone_keeps
    | with_reducible apply State.modSnapOf_keeps | with_reducible apply Keeps.foldl | intro _

theorem State.importUnits_keeps {a : State} (x0 : State) (x1 : Nat) (x2 : SnapOp) (x3 : List Byte) (h1 : Keeps a x0) : Keeps a
    (State.importUnits x0 x1 x2 x3) := by
  unfold State.importUnits
  repeat' first
    | with_reducible apply h1 | with_reducible apply State.finish_keeps | with_reducible apply State.modSnapOf_keeps
    | with_reducible apply State.endOp_keeps | with_reducible apply State.emptyGen_keeps | split | dsimp only

theorem execExportImportComplete_keeps {a t : State} (x0 : CtxN) (x1 : State) (replays : Nat) (h1 : Keeps a x1)
    (e : execExportImportComplete x0 x1 replays = .next t) : Keeps a t := by
  unfold execExportImportComplete at e
  cases e
  repeat' first
    | with_reducible apply State.cross_keeps | with_reducible apply h1 | with_reducible apply State.moveOut_keeps
    | with_reducible apply State.load_keeps | with_reducible apply State.uncorrFault_keeps | with_reducible apply State.importUnits_keeps
    | with_reducible assumption | refine Keeps.snd ?_ (by with_reducible assumption) | split | dsimp only | intro _

theorem State.rerunAll_keeps {a : State} (x0 : State) (h1 : Keeps a x0) : Keeps a (State.rerunAll x0) := by
  unfold State.rerunAll
  repeat' first | with_reducible apply h1 | with_reducible apply State.rerunExchange_keeps | with_reducible apply Keeps.foldl

theorem execJoinGroup_keeps {a t : State} (x0 : Tag) (x1 : State) (h1 : Keeps a x1) (e : execJoinGroup x0 x1 = .next t) : Keeps a t := by
  cases e
  exact State.command_keeps _ _ _ _ _ h1 fun c s h => .ite (State.finish_keeps _ _ _ _ _ _ _ h) (.ite (State.finish_keeps _ _ _ _ _ _ _ h)
    (.ite (State.joinCheck_keeps _ (State.rerunAll_keeps _ h.mk').mk') (State.finish_keeps _ _ _ _ _ _ _ (State.rerunAll_keeps _ h.mk'))))

theorem execJoinGroupTimeout_keeps {a t : State} (x0 : State) (h1 : Keeps a x0) (e : execJoinGroupTimeout x0 = .next t) : Keeps a t := by
  unfold execJoinGroupTimeout at e
  cases e
  repeat' first | exact Keeps.mk' (by with_reducible assumption) | split | fail_if_no_progress (refine Keeps.mk' ?_)

theorem execLeaveGroup_keeps {a t : State} (x0 : Tag) (x1 : State) (h1 : Keeps a x1) (e : execLeaveGroup x0 x1 = .next t) : Keeps a t := by
  unfold execLeaveGroup at e
  cases e
  repeat' first
    | with_reducible apply State.command_keeps | exact Keeps.mk' (by with_reducible assumption) | intro _ | split
    | fail_if_no_progress (refine Keeps.mk' ?_)

end Sys2Proof.Machine
end

