-- ==== Sys2Proof/Laws/KeepsReset.lean ====
section
/-!
SUPPORT. What every operation keeps, continued: resets, the supply, the Shank and the registers.
-/

set_option Elab.async false

namespace Sys2Proof.Machine

open Sys2Proof

/-! ## ResetOps -/

theorem State.halt_keeps {a : State} (x0 : State) (x1 : Nat) (h1 : Keeps a x0) : Keeps a (x0.halt x1) :=
  h1.mkOk (hr := fun o => ⟨.inr rfl, o.rst.kind, o.rst.retries, o.rst.kept⟩)

theorem State.bootTo_keeps {a : State} (x0 : State) (x1 : Nat) (h1 : Keeps a x0) (hp : x1 ≤ 6) : Keeps a (x0.bootTo x1) := by
  unfold State.bootTo
  split
  · exact h1.mkOk (hr := fun o => ⟨.inl hp, o.rst.kind, o.rst.retries, o.rst.kept⟩)
  · exact State.halt_keeps _ _ h1

theorem State.commitCounters_keeps {a : State} (x0 : State) (h1 : Keeps a x0) : Keeps a x0.commitCounters :=
  h1.mkOk (hp := fun o => o.pwr.upd) (hr := fun o => ⟨o.rst.phase, o.rst.kind, o.rst.retries, o.rst.retries⟩)

theorem State.switchOff_keeps {a : State} (x0 : State) (h1 : Keeps a x0) : Keeps a x0.switchOff :=
  h1.trans ⟨rfl, List.prefix_refl _, fun o => ⟨rfl, ⟨clkPoint_floor, clkPoint_floor, Nat.le_refl 600, (fun h => absurd rfl h), (fun _ e => by cases e), .inl rfl, Nat.zero_le 3, Nat.zero_le 4, (fun _ e => by cases e), (fun _ e => by cases e), Nat.zero_le 16, (by decide : 1 ≤ 10 ∧ 10 ≤ 1000)⟩,
    o.hlt.upd, ⟨.inl (Nat.zero_le 6), Nat.zero_le 3, o.rst.retries, o.rst.kept⟩⟩⟩

theorem State.coldReset_keeps {a : State} (x0 : State) (x1 : Nat) (h1 : Keeps a x0) : Keeps a (x0.coldReset x1) := by
  have k : Keeps a (if x0.ready then x0.endCommands 0x221 0#64 else x0) := .ite (State.endCommands_keeps _ _ _ h1) h1
  have k := State.switchOff_keeps _ (State.sendResetting_keeps _ k)
  unfold State.coldReset
  generalize (State.sendResetting _).switchOff = y at k ⊢
  exact k.mkOk (hp := fun o => o.pwr.upd)

theorem State.warmMemory_keeps {a : State} (x0 : State) (h1 : Keeps a x0) : Keeps a (State.warmMemory x0) := by
  unfold State.warmMemory
  repeat' first
    | with_reducible apply State.dropLoads_keeps | with_reducible apply Keeps.foldl | exact Keeps.mk' (by with_reducible assumption)
    | intro _ | fail_if_no_progress (refine Keeps.mk' ?_)

theorem State.warmed_keeps {a : State} (x0 : State) (x1 : Nat) (h1 : Keeps a x0) : Keeps a (x0.warmed x1) := by
  unfold State.warmed
  refine State.bootTo_keeps _ _ (State.commitCounters_keeps _ (State.rerunAll_keeps _ ?_)) (by decide)
  exact (State.warmMemory_keeps _ h1).mkOk (hm := fun o => Memory.wf_wipe _ _ o.mem)
    (hp := fun o => o.pwr.upd (fun _ => clkPoint_floor) (fun _ => clkPoint_floor) (fun _ => Nat.le_refl 600) (fun _ h => absurd rfl h) (fun _ _ e => by cases e) (sup := fun _ => Nat.zero_le 3) (rest := fun _ => Nat.zero_le 4) (entering := fun _ _ e => by cases e)
      (waking := fun _ _ e => by cases e) (hist := fun _ => Nat.zero_le 16))
    (hr := fun o => ⟨o.rst.phase, (by decide : 1 ≤ 3), o.rst.retries, o.rst.kept⟩)

theorem State.warmReset_keeps {a : State} (x0 : State) (x1 : Nat) (h1 : Keeps a x0) : Keeps a (State.warmReset x0 x1) := by
  unfold State.warmReset
  repeat' first
    | with_reducible apply h1 | with_reducible apply State.warmed_keeps | with_reducible apply State.sendResetting_keeps
    | with_reducible apply State.endCommands_keeps

theorem State.faulted_keeps {a : State} (x0 : State) (h1 : Keeps a x0) : Keeps a x0.faulted := by
  unfold State.faulted
  extract_lets restart kind stop unit o
  have hk : kind ≤ 3 := by
    show (if _ then 3 else 2) ≤ 3
    split <;> decide
  have hr : x0.rst.retries ≤ 3 → (if restart then min 3 (x0.rst.retries + 1) else x0.rst.retries) ≤ 3 := fun h => by
    split
    · exact Nat.min_le_left ..
    · exact h
  refine .ite (State.halt_keeps _ _ (State.commitCounters_keeps _ ?hs)) (State.bootTo_keeps _ _ (State.commitCounters_keeps _ ?hs) (by decide))
  exact h1.trans ⟨rfl, List.prefix_refl _, fun q => ⟨rfl,
    q.pwr.upd (fun _ => clkPoint_floor) (fun _ => clkPoint_floor) (fun _ => Nat.le_refl 600) (fun _ h => absurd rfl h) (fun _ _ e => by cases e) (sup := fun _ => Nat.zero_le 3) (rest := fun _ => Nat.zero_le 4)
      (entering := fun _ _ e => by cases e) (waking := fun _ _ e => by cases e) (hist := fun _ => Nat.zero_le 16),
    q.hlt.upd, ⟨.inl (Nat.zero_le 6), hk, hr q.rst.retries, q.rst.kept⟩⟩⟩

theorem State.faultReset_keeps {a : State} (x0 : State) (h1 : Keeps a x0) : Keeps a (State.faultReset x0) := by
  unfold State.faultReset
  repeat' first | with_reducible apply h1 | with_reducible apply State.faulted_keeps | with_reducible apply State.sendResetting_keeps

/-! ## Supply -/

theorem State.chargeQuarter_keeps {a : State} (x0 : State) (x1 : Nat) (x2 : Nat) (h1 : Keeps a x0) : Keeps a (State.chargeQuarter x0 x1 x2) := by
  unfold State.chargeQuarter
  repeat' first | with_reducible apply h1 | with_reducible apply State.modCtx_keeps | split

theorem State.chargeWait_keeps {a : State} (x0 : State) (x1 : Nat) (h1 : Keeps a x0) : Keeps a (State.chargeWait x0 x1) := by
  unfold State.chargeWait
  repeat' first | with_reducible apply h1 | with_reducible apply State.modCtx_keeps | split | dsimp only

theorem State.account_keeps {a : State} (x0 : State) (x1 : Nat) (h1 : Keeps a x0) : Keeps a (State.account x0 x1) := by
  unfold State.account
  repeat' first
    | with_reducible apply h1 | with_reducible apply State.chargeQuarter_keeps | with_reducible apply State.chargeWait_keeps
    | with_reducible apply Keeps.foldl | intro _

theorem State.stopping_keeps {a : State} (x0 : State) (x1 : Nat) (h1 : Keeps a x0) : Keeps a (x0.stopping x1) :=
  State.fatal_keeps _ _ (State.modPwr_keeps _ _ h1 fun o => o.pwr.upd (clk := fun _ => clkPoint_floor) (lead := fun _ => o.pwr.vpt.1) (still := fun _ _ => rfl) (sup := fun _ => (by decide : 2 ≤ 3)))

theorem State.judgeSupply_keeps {a : State} (x0 : State) (h1 : Keeps a x0) : Keeps a x0.judgeSupply :=
  .ite (State.stopping_keeps _ _ h1) (.ite (State.stopping_keeps _ _ h1)
    (.ite (State.modPwr_keeps _ _ h1 fun o => o.pwr.upd (clk := fun _ => clkPoint_floor) (lead := fun _ => o.pwr.vpt.1) (still := fun _ _ => rfl) (sup := fun _ => (by decide : 1 ≤ 3)))
      (.ite (State.faultReset_keeps _ h1) h1)))

theorem Pwr.Ok.ceiling {p : Pwr} (o : p.Ok) : clkPoint p.ceiling := by
  have m : ∀ x y, clkPoint x → clkPoint y → clkPoint (min x y) := fun x y hx hy => by
    rcases Nat.le_total x y with h | h
    · rw [Nat.min_eq_left h]; exact hx
    · rw [Nat.min_eq_right h]; exact hy
  have x : clkPoint clkMax := clkPoint_max
  refine m _ _ x (m _ _ ?_ ?_)
  · split
    · exact x
    · rename_i h
      exact o.req.resolve_left (by simpa using h)
  · cases h : p.thermalCap
    · exact x
    · exact o.cap _ h

theorem Pwr.Ok.top {p : Pwr} (o : p.Ok) : clkPoint p.top := by
  unfold Pwr.top
  split
  · exact clkPoint_floor
  · exact o.ceiling

theorem Pwr.Ok.lower {p : Pwr} (o : p.Ok) (h : p.rest = 0) : p.lower.Ok := by
  obtain ⟨k1, k2, k3⟩ := o.clk
  obtain ⟨v1, v2, v3⟩ := o.vpt
  have l := o.lead
  have e : clkPoint (if clkFloor + 50 ≤ p.clk then p.clk - 50 else p.clk) ∧ (if clkFloor + 50 ≤ p.clk then p.clk - 50 else p.clk) ≤ p.clk := by
    unfold clkPoint
    split <;> omega
  have v : clkPoint (max p.clk (p.vpt - 50)) := by unfold clkPoint; omega
  exact o.upd (fun _ => e.1) (fun _ => v) (fun _ => Nat.le_trans e.2 (Nat.le_max_left ..)) (fun _ n => absurd h n)

theorem Pwr.Ok.lift {p : Pwr} (o : p.Ok) (h : p.rest = 0) : p.lift.Ok := by
  obtain ⟨k1, k2, k3⟩ := o.clk
  obtain ⟨v1, v2, v3⟩ := o.vpt
  obtain ⟨c1, c2, c3⟩ := o.top
  have l := o.lead
  have e : clkPoint (min p.vpt (p.clk + 50)) := by unfold clkPoint; omega
  have v : clkPoint (max p.vpt (min p.top (min p.vpt (p.clk + 50) + 50))) := by unfold clkPoint; omega
  exact o.upd (fun _ => e) (fun _ => v) (fun _ => Nat.le_trans (Nat.min_le_left ..) (Nat.le_max_left ..)) (fun _ n => absurd h n)

/-- The voltage follows the clock down. -/
theorem Pwr.Ok.settle {p : Pwr} (o : p.Ok) : ({ p with vpt := max p.clk (p.vpt - 50) } : Pwr).Ok := by
  have v : clkPoint (max p.clk (p.vpt - 50)) := by
    obtain ⟨k1, k2, k3⟩ := o.clk
    obtain ⟨v1, v2, v3⟩ := o.vpt
    unfold clkPoint
    omega
  exact o.upd (vpt := fun _ => v) (lead := fun _ => Nat.le_max_left ..)

theorem Pwr.Ok.govern {p : Pwr} (o : p.Ok) (h : p.rest = 0) : p.govern.Ok := by
  unfold Pwr.govern
  split
  · exact o.lower h
  split
  · exact o.lower h
  split
  · exact o.lift h
  · exact o.settle

theorem Pwr.Ok.ballasted {p : Pwr} (o : p.Ok) (run : Bool) (now : Nat) : (p.ballasted run now).Ok := o.upd

theorem Pwr.Ok.governed {p : Pwr} (o : p.Ok) (run : Bool) (now : Nat) : (p.governed run now).Ok := by
  unfold Pwr.governed
  split
  · rename_i h
    exact (o.govern (by simp at h; exact h.2)).ballasted _ _
  · exact o.settle

theorem Pwr.Ok.aonTick {p : Pwr} (o : p.Ok) (n : Nat) : (p.aonTick n).Ok := by
  unfold Pwr.aonTick Pwr.fedCell
  repeat' first | exact o.upd | split

theorem execSupplySample_keeps {a t : State} (x0 x1 : BitVec 16) (x2 : State) (h1 : Keeps a x2)
    (e : execSupplySample x0 x1 x2 = .next t) : Keeps a t := by
  cases e
  have k1 : Keeps a { x2.draw.2 with now := x2.draw.2.now + 1 } := (State.draw_keeps _ h1).mk'
  refine .ite (State.modPwr_keeps _ _ k1 fun o => o.pwr.aonTick _) (State.judgeSupply_keeps _ (State.modPwr_keeps _ _ (State.account_keeps _ _
    (State.modPwr_keeps _ _ k1 fun o => ?_)) fun o => o.pwr.governed _ _))
  exact Pwr.Ok.aonTick o.pwr.upd _

theorem execSagRecovery_keeps {a t : State} (x0 : State) (h1 : Keeps a x0) (e : execSagRecovery x0 = .next t) : Keeps a t := by
  cases e
  exact .ite (State.modPwr_keeps _ _ h1 fun o => o.pwr.upd (sup := fun _ => Nat.zero_le 3)) h1

theorem execSagTimeout_keeps {a t : State} (x0 : State) (h1 : Keeps a x0) (e : execSagTimeout x0 = .next t) : Keeps a t := by
  unfold execSagTimeout at e
  cases e
  repeat' first | with_reducible apply h1 | with_reducible apply State.stopping_keeps | split

theorem execHoldupEnd_keeps {a t : State} (x0 : State) (h1 : Keeps a x0) (e : execHoldupEnd x0 = .next t) : Keeps a t := by
  cases e
  exact .ite h1 (State.modHost_keeps _ _ (State.modPwr_keeps _ _ (State.switchOff_keeps _ (.ite (State.closeDump_keeps _ _ _ h1) h1))
    fun o => o.pwr.upd (sup := fun _ => Nat.le_refl 3)))

theorem execInputValid_keeps {a t : State} (x0 : State) (h1 : Keeps a x0) (e : execInputValid x0 = .next t) : Keeps a t := by
  cases e
  exact .ite h1 ((State.modPwr_keeps _ _ h1 fun o => o.pwr.upd (sup := fun _ => Nat.zero_le 3)).mkOk
    (hr := fun o => ⟨.inl (Nat.zero_le 6), o.rst.kind, o.rst.retries, o.rst.kept⟩))

theorem execBackupCellFlat_keeps {a t : State} (x0 : State) (h1 : Keeps a x0) (e : execBackupCellFlat x0 = .next t) : Keeps a t := by
  cases e
  exact .ite h1 (h1.mkOk (hp := fun o => o.pwr.upd) (hr := fun o => ⟨o.rst.phase, o.rst.kind, o.rst.kept, o.rst.kept⟩))

theorem execGovernorPeriod_keeps {a t : State} (x0 : State) (h1 : Keeps a x0) (e : execGovernorPeriod x0 = .next t) : Keeps a t := by
  cases e
  exact .ite (State.govPeriod_keeps _ h1) h1

theorem Pwr.Ok.throttled {p : Pwr} (o : p.Ok) : clkPoint p.throttled := by
  obtain ⟨f1, f2, f3⟩ := clkPoint_floor
  have c : clkPoint (p.thermalCap.getD clkMax) := by
    cases h : p.thermalCap
    · exact clkPoint_max
    · exact o.cap _ h
  have k : clkPoint (if p.rest == 0 then p.clk else p.ceiling) := by
    split
    · exact o.clk
    · exact o.ceiling
  obtain ⟨c1, c2, c3⟩ := c
  obtain ⟨k1, k2, k3⟩ := k
  unfold Pwr.throttled clkPoint
  omega

theorem execThermalThrottleStep_keeps {a t : State} (x0 : State) (h1 : Keeps a x0) (e : execThermalThrottleStep x0 = .next t) : Keeps a t := by
  cases e
  refine .ite h1 (State.modPwr_keeps _ _ h1 fun o => ?_)
  have hc := o.pwr.throttled
  have hk : clkPoint (if x0.pwr.rest == 0 then min x0.pwr.clk x0.pwr.throttled else x0.pwr.clk) ∧
      (if x0.pwr.rest == 0 then min x0.pwr.clk x0.pwr.throttled else x0.pwr.clk) ≤ x0.pwr.clk := by
    obtain ⟨c1, c2, c3⟩ := hc
    obtain ⟨k1, k2, k3⟩ := o.pwr.clk
    unfold clkPoint
    split <;> omega
  refine o.pwr.upd (clk := fun _ => hk.1) (lead := fun l => Nat.le_trans hk.2 l) (still := fun s n => ?_) (cap := fun _ c e => ?_)
  · have n : (x0.pwr.rest == 0) = false := by simpa using n
    show (if x0.pwr.rest == 0 then _ else x0.pwr.clk) = _
    rw [n]
    exact s (by simpa using n)
  · injection e with e
    exact e ▸ hc

theorem State.thermalFault_keeps {a : State} (x0 : State) (x1 : Nat) (x2 : Nat) (h1 : Keeps a x0) : Keeps a (State.thermalFault x0 x1 x2) := by
  unfold State.thermalFault
  repeat' first | with_reducible apply h1 | with_reducible apply State.fatal_keeps

theorem execCoolantReading_keeps {a t : State} (x0 x1 : BitVec 12) (x2 : List (BitVec 12)) (x3 : State) (h1 : Keeps a x3)
    (e : execCoolantReading x0 x1 x2 x3 = .next t) : Keeps a t := by
  cases e
  have k : ∀ s d, Keeps a s → Keeps a (if d < 950 then s.modPwr fun p => { p with thermal := false, thermalCap := none } else s) := fun s d h =>
    .ite (State.modPwr_keeps _ _ h fun o => o.pwr.upd (cap := fun _ _ e => by cases e)) h
  refine .ite h1 (.ite (State.thermalFault_keeps _ _ _ (k _ _ ?_)) (k _ _ ?_)) <;> exact State.modPwr_keeps _ _ h1 fun o => o.pwr.upd

theorem execCoolantLimitExpiry_keeps {a t : State} (x0 : Bool) (x1 : State) (h1 : Keeps a x1)
    (e : execCoolantLimitExpiry x0 x1 = .next t) : Keeps a t := by
  unfold execCoolantLimitExpiry at e
  cases e
  repeat' first | with_reducible apply h1 | with_reducible apply State.thermalFault_keeps | split

theorem execPowerShape_keeps {a t : State} (x0 : Tag) (x1 : State) (h1 : Keeps a x1) (e : execPowerShape x0 x1 = .next t) : Keeps a t := by
  cases e
  exact State.command_keeps _ _ _ _ _ h1 fun c s h => State.finish_keeps _ _ _ _ _ _ _ (State.modPwr_keeps _ _ h fun o => o.pwr.upd (hist := fun _ => Nat.zero_le 16))

theorem State.writeGov_keeps {a : State} (x0 : State) (x1 : BitVec 64) (h1 : Keeps a x0) : Keeps a (x0.writeGov x1) := by
  unfold State.writeGov
  extract_lets q
  split
  · rename_i h
    refine State.modPwr_keeps _ _ h1 fun o => o.pwr.upd (req := fun _ => ?_)
    show q = 0 ∨ clkPoint q
    simp only [clkReqOk, Bool.or_eq_true, beq_iff_eq, Bool.and_eq_true, decide_eq_true_eq] at h
    exact h.imp id fun h => ⟨h.1.1, h.1.2, h.2⟩
  · exact h1

theorem State.writeSupply_keeps {a : State} (x0 : State) (x1 : BitVec 64) (h1 : Keeps a x0) : Keeps a (State.writeSupply x0 x1) := by
  unfold State.writeSupply
  repeat' first | with_reducible apply h1 | with_reducible apply State.modPwr_keeps | exact fun o => o.pwr.upd | split

theorem State.writeEvents_keeps {a : State} (x0 : State) (x1 : BitVec 64) (h1 : Keeps a x0) : Keeps a (State.writeEvents x0 x1) := by
  unfold State.writeEvents
  repeat' first | with_reducible apply h1 | with_reducible apply State.modPwr_keeps | exact fun o => o.pwr.upd | split

theorem execClkReq_keeps {a t : State} (x0 : Origin) (x1 : BitVec 64) (x2 : State) (h1 : Keeps a x2)
    (e : execClkReq x0 x1 x2 = .next t) : Keeps a t := by
  unfold execClkReq at e
  cases e
  repeat' first | with_reducible apply h1 | with_reducible apply State.writeGov_keeps | split

theorem execClrVmin_keeps {a t : State} (x0 : Origin) (x1 : BitVec 64) (x2 : State) (h1 : Keeps a x2)
    (e : execClrVmin x0 x1 x2 = .next t) : Keeps a t := by
  unfold execClrVmin at e
  cases e
  repeat' first | with_reducible apply h1 | with_reducible apply State.writeSupply_keeps | split

theorem execPwrEventsClr_keeps {a t : State} (x0 : Origin) (x1 : BitVec 64) (x2 : State) (h1 : Keeps a x2)
    (e : execPwrEventsClr x0 x1 x2 = .next t) : Keeps a t := by
  unfold execPwrEventsClr at e
  cases e
  repeat' first | with_reducible apply h1 | with_reducible apply State.writeEvents_keeps | split

theorem State.restTarget_le (s : State) : s.restTarget ≤ 4 := by
  unfold State.restTarget
  cases h : [4, 3, 2, 1].find? fun k => s.latencyOk k s.pwr.budget && s.restAllowed k with
  | none => exact Nat.zero_le 4
  | some k =>
    have m := List.mem_of_find?_eq_some h
    simp only [List.mem_cons, List.not_mem_nil, or_false] at m
    show k ≤ 4
    omega

theorem Pwr.Ok.limited {p : Pwr} {t : Nat} (o : p.Ok) (h : t ≤ 4) : (p.limited t).Ok := by
  refine o.upd (entering := fun _ k e => ?_)
  have old := o.entering
  simp only [Pwr.limited] at e
  cases he : p.entering with
  | none => simp [he] at e
  | some j =>
    have := old j he
    simp [he] at e
    omega

theorem execWakeBudget_keeps {a t : State} (x0 : Tag) (x1 : State) (h1 : Keeps a x1) (e : execWakeBudget x0 x1 = .next t) : Keeps a t := by
  cases e
  refine State.command_keeps _ _ _ _ _ h1 fun c s h => State.finish_keeps _ _ _ _ _ _ _ ?_
  have k := State.modPwr_keeps _ (fun p => { p with budget := c.p 8 4 }) h fun o => o.pwr.upd
  generalize State.modPwr s (fun p => { p with budget := c.p 8 4 }) = u at k ⊢
  have k := State.modPwr_keeps _ (Pwr.limited u.restTarget) k fun o => o.pwr.limited (State.restTarget_le u)
  exact .ite (State.modPwr_keeps _ _ k fun o => o.pwr.upd (waking := fun _ k e => by
    injection e with e; exact e ▸ Nat.le_trans (Nat.min_le_left ..) (State.restTarget_le _))) k

theorem execIdleTimerExpiry_keeps {a t : State} (x0 : State) (h1 : Keeps a x0) (e : execIdleTimerExpiry x0 = .next t) : Keeps a t := by
  cases e
  split
  · rename_i h
    refine State.modPwr_keeps _ _ h1 fun o => o.pwr.upd (entering := fun _ k e => ?_)
    injection e with e
    have n : x0.restTarget ≠ 0 := by simp only [Bool.and_eq_true, bne_iff_ne] at h; exact h.2
    have m := x0.restTarget_le
    omega
  · exact h1

theorem State.lastWords_keeps {a : State} (x0 : State) (h1 : Keeps a x0) : Keeps a (State.lastWords x0).2 := by
  unfold State.lastWords
  repeat' first | with_reducible apply h1 | with_reducible apply State.meetWords_keeps

theorem State.emptyLast_keeps {a : State} (x0 : State) (x1 : Nat) (h1 : Keeps a x0) : Keeps a (State.emptyLast x0 x1) := by
  unfold State.emptyLast
  repeat' first | with_reducible apply h1 | with_reducible apply State.subUsed_keeps | with_reducible apply State.setLast_keeps | split

theorem State.loseCores_keeps {a : State} (x0 : State) (h1 : Keeps a x0) : Keeps a (State.loseCores x0) := by
  unfold State.loseCores
  repeat' first | with_reducible apply State.scramble_keeps | exact Keeps.mk' (by with_reducible assumption)

theorem State.portsOff_keeps {a : State} (x0 : State) (h1 : Keeps a x0) : Keeps a (State.portsOff x0) := by
  unfold State.portsOff
  repeat' first | with_reducible apply h1 | with_reducible apply State.modPort_keeps | with_reducible apply Keeps.foldl | intro _

theorem State.loseT1_keeps {a : State} (x0 : State) (h1 : Keeps a x0) : Keeps a x0.loseT1 :=
  h1.mkOk (hm := fun o => Memory.wf_wipe _ _ o.mem)

theorem State.enterA4_keeps {a : State} (x0 : State) (h1 : Keeps a x0) : Keeps a (State.enterA4 x0) := by
  unfold State.enterA4
  repeat' first
    | with_reducible assumption | with_reducible apply h1 | with_reducible apply State.modPwr_keeps
    | with_reducible apply State.emptyLast_keeps | with_reducible apply State.modHost_keeps | with_reducible apply State.loseT1_keeps
    | exact fun o => o.pwr.upd | refine Keeps.snd ?_ (by with_reducible assumption) | refine Keeps.fst ?_ (by with_reducible assumption)
    | exact Keeps.mk' (by with_reducible assumption) | rfl | intro _ | with_reducible apply Keeps.ite | split | dsimp only
    | fail_if_no_progress (refine Keeps.mk' ?_)

theorem execRestStateEnter_keeps {a t : State} (x0 : State) (h1 : Keeps a x0) (e : execRestStateEnter x0 = .next t) : Keeps a t := by
  unfold execRestStateEnter at e
  injection e with e
  subst e
  split
  · exact h1
  · rename_i k hk
    refine .ite h1 ?_
    have r : Keeps x0 (if k == 4 && x0.pwr.keepLasts then x0.lastWords else (none, x0)).2 := by
      split
      · exact State.lastWords_keeps _ (.refl _)
      · exact .refl _
    revert r
    generalize (if k == 4 && x0.pwr.keepLasts then x0.lastWords else (none, x0)) = p
    intro r
    obtain ⟨o, s⟩ := p
    cases o with
    | some w => exact State.uncorrFault_keeps _ _ _ _ _ (State.modPwr_keeps _ _ (h1.trans r) fun o => o.pwr.upd (entering := fun _ _ e => by cases e))
    | none =>
      have q : ∀ s, Keeps x0 s → Keeps x0 (if k ≥ 3 then s.loseCores.portsOff else s) := fun s h => .ite (State.portsOff_keeps _ (State.loseCores_keeps _ h)) h
      have q2 : ∀ s, Keeps x0 s → Keeps x0 (if k == 4 then s.enterA4 else s) := fun s h => .ite (State.enterA4_keeps _ h) h
      have u := q2 _ (q _ r)
      exact h1.trans ⟨u.queue, u.sent, fun ok =>
        have v := u.ok ok
        ⟨v.mem, v.pwr.upd (clk := fun _ => clkPoint_floor) (lead := fun _ => v.pwr.vpt.1) (still := fun _ _ => rfl)
          (rest := fun _ => (ok.pwr.entering _ hk).2) (entering := fun _ _ e => by cases e), v.hlt, v.rst⟩⟩

theorem execWake_keeps {a t : State} (x0 : State) (h1 : Keeps a x0) (e : execWake x0 = .next t) : Keeps a t := by
  cases e
  exact .ite h1 (.ite (State.abandonEntry_keeps _ h1) (.ite h1
    (State.modPwr_keeps _ _ h1 fun o => o.pwr.upd (waking := fun _ _ e => by cases e; exact Nat.zero_le 4))))

theorem State.leaveA4_keeps {a : State} (x0 : State) (h1 : Keeps a x0) : Keeps a x0.leaveA4 := by
  have f : ∀ (l m : Mem), Memory.wf m = true → Memory.wf (l.foldl (fun m e => SMap.set (0#8) m e.1 e.2) m) = true := fun l => by
    induction l with
    | nil => exact fun _ h => h
    | cons e l ih => exact fun m h => ih _ (SMap.wf_set _ _ h)
  have k := State.fill_keeps x0 t1Base t1Size h1
  unfold State.leaveA4
  generalize x0.fill t1Base t1Size = y at k ⊢
  extract_lets y' e h s
  have k : Keeps a s := k.mk'
  clear_value s
  split
  · exact k
  · refine Keeps.foldl (fun s l h => ?_) _ (k.mkOk (hm := fun o => f _ _ o.mem) (hp := fun o => o.pwr.upd))
    split
    · exact State.afterStore_keeps _ _ _ h
    · exact h

theorem State.portsOn_keeps {a : State} (x0 : State) (h1 : Keeps a x0) : Keeps a (State.portsOn x0) := by
  unfold State.portsOn
  repeat' first | with_reducible apply h1 | with_reducible apply State.modPort_keeps | with_reducible apply Keeps.foldl | intro _

theorem State.awake_keeps {a : State} (x0 : State) (h1 : Keeps a x0) : Keeps a (State.awake x0) := by
  unfold State.awake
  repeat' first
    | with_reducible assumption | with_reducible apply h1 | with_reducible apply State.modPwr_keeps
    | with_reducible apply State.warmReset_keeps | with_reducible apply State.coldReset_keeps | with_reducible apply State.takeIfAwake_keeps
    | exact fun o => o.pwr.upd | with_reducible apply Keeps.foldl | refine Keeps.snd ?_ (by with_reducible assumption)
    | refine Keeps.fst ?_ (by with_reducible assumption) | rfl | intro _ | with_reducible apply Keeps.ite | split | dsimp only

theorem execWakeComplete_keeps {a t : State} (x0 : State) (h1 : Keeps a x0) (e : execWakeComplete x0 = .next t) : Keeps a t := by
  unfold execWakeComplete at e
  injection e with e
  subst e
  split
  · exact h1
  · rename_i k hk
    have q : ∀ s, Keeps x0 s → Keeps x0 (if s.pwr.rest == 4 && decide (k < 4) then s.leaveA4 else s) := fun s h => .ite (State.leaveA4_keeps _ h) h
    have q2 : ∀ s, Keeps x0 s → Keeps x0 (if decide (s.pwr.rest ≥ 3) && decide (k < 3) then s.portsOn else s) := fun s h => .ite (State.portsOn_keeps _ h) h
    have u := q2 _ (q _ (.refl _))
    have m := h1.trans (⟨u.queue, u.sent, fun ok =>
        have v := u.ok ok
        ⟨v.mem, v.pwr.upd (still := fun s n => s fun z => n (by
          show min k _ = 0; rw [z]; exact Nat.min_zero _)) (rest := fun r => Nat.le_trans (Nat.min_le_right ..) r)
          (waking := fun _ _ e => by cases e), v.hlt, v.rst⟩⟩ :
      Keeps x0 (State.modPwr _ fun p => { p with rest := min k p.rest, waking := none }))
    exact .ite (State.awake_keeps _ m) m

/-! ## Reset -/

theorem execColdBoot_keeps {a t : State} (x0 : Bool) (x1 : State) (h1 : Keeps a x1) (e : execColdBoot x0 x1 = .next t) : Keeps a t := by
  cases e
  have k := State.commitCounters_keeps _ (State.modRst_keeps _ (fun r => { r with cold := satAdd 32 r.cold 1, started := true, kind := 0 }) h1
    fun o => ⟨o.rst.phase, Nat.zero_le 3, o.rst.retries, o.rst.kept⟩)
  exact .ite h1 (.ite (.ite (State.portsOn_keeps _ (State.bootTo_keeps _ _ k (by decide))) (State.bootTo_keeps _ _ k (by decide)))
    (State.expel_keeps _ _ (State.halt_keeps _ _ k)))

theorem State.requestCold_keeps {a : State} (x0 : State) (x1 x2 : Nat) (h1 : Keeps a x0) : Keeps a (x0.requestCold x1 x2) :=
  .ite (State.modPwr_keeps _ _ h1 fun o => o.pwr.upd) (State.coldReset_keeps _ _ h1)

theorem execMrstNRelease_keeps {a t : State} (x0 : State) (h1 : Keeps a x0) (e : execMrstNRelease x0 = .next t) : Keeps a t := by
  unfold execMrstNRelease at e
  cases e
  repeat' first | with_reducible apply h1 | with_reducible apply State.requestCold_keeps | split

theorem State.requestWarm_keeps {a : State} (x0 : State) (h1 : Keeps a x0) : Keeps a (State.requestWarm x0) := by
  unfold State.requestWarm
  repeat' first
    | with_reducible apply h1 | with_reducible apply State.modPwr_keeps | with_reducible apply State.warmReset_keeps
    | exact fun o => o.pwr.upd | with_reducible apply State.abandonEntry_keeps | split

theorem State.writeCtl_keeps {a : State} (x0 : State) (x1 : BitVec 64) (x2 : Bool) (x3 : Bool) (h1 : Keeps a x0) : Keeps a
    (State.writeCtl x0 x1 x2 x3) := by
  unfold State.writeCtl
  repeat' first
    | with_reducible apply h1 | with_reducible apply State.requestCold_keeps | with_reducible apply State.requestWarm_keeps | split

theorem execCold_keeps {a t : State} (x0 : Origin) (x1 : BitVec 64) (x2 : State) (h1 : Keeps a x2) (e : execCold x0 x1 x2 = .next t) : Keeps a t := by
  unfold execCold at e
  cases e
  repeat' first | with_reducible apply h1 | with_reducible apply State.writeCtl_keeps | split

theorem execWarm_keeps {a t : State} (x0 : Origin) (x1 : BitVec 64) (x2 : State) (h1 : Keeps a x2) (e : execWarm x0 x1 x2 = .next t) : Keeps a t := by
  unfold execWarm at e
  cases e
  repeat' first | with_reducible apply h1 | with_reducible apply State.writeCtl_keeps | split

theorem execFaultReset_keeps {a t : State} (x0 : State) (h1 : Keeps a x0) (e : execFaultReset x0 = .next t) : Keeps a t := by
  unfold execFaultReset at e
  cases e
  repeat' first | with_reducible apply State.faultReset_keeps | exact Keeps.mk' (by with_reducible assumption) | split

theorem execTrainingComplete_keeps {a t : State} (x0 : Option (BitVec 9)) (x1 : State) (h1 : Keeps a x1)
    (e : execTrainingComplete x0 x1 = .next t) : Keeps a t := by
  cases e
  refine .ite h1 ?_
  split
  · exact State.halt_keeps _ _ h1
  · exact State.modRst_keeps _ _ h1 fun o => ⟨.inl (by decide : 3 ≤ 6), o.rst.kind, o.rst.retries, o.rst.kept⟩

theorem execBringupFillComplete_keeps {a t : State} (x1 : State) (h1 : Keeps a x1) (e : execBringupFillComplete x1 = .next t) : Keeps a t := by
  cases e
  exact .ite h1 (State.modRst_keeps _ _ (State.modEcc_keeps _ _ (State.fill_keeps _ _ _ (State.fill_keeps _ _ _ h1)))
    fun o => ⟨.inl (by decide : 4 ≤ 6), o.rst.kind, o.rst.retries, o.rst.kept⟩)

theorem State.failCore_keeps {a : State} (x0 : State) (x1 : Nat) (x2 : Nat) (h1 : Keeps a x0) : Keeps a (State.failCore x0 x1 x2) := by
  unfold State.failCore
  repeat' first
    | with_reducible apply h1 | with_reducible apply State.penalise_keeps | with_reducible apply State.modRst_keeps
    | exact fun o => o.rst.upd | split

theorem State.numberQuarter_keeps {a : State} (x0 : State) (x1 : Nat) (h1 : Keeps a x0) : Keeps a (State.numberQuarter x0 x1) := by
  unfold State.numberQuarter
  repeat' first
    | with_reducible apply h1 | with_reducible apply State.modRst_keeps | with_reducible apply State.expel_keeps | exact fun o => o.rst.upd
    | split | dsimp only

theorem execStartupTestComplete_keeps {a t : State} (x0 : List (Fin 4 × Fin 84)) (x1 : Option (BitVec 9)) (x2 : State) (h1 : Keeps a x2)
    (e : execStartupTestComplete x0 x1 x2 = .next t) : Keeps a t := by
  cases e
  refine .ite h1 ?_
  have k : Keeps a ((List.range 4).foldl State.numberQuarter (x0.foldl (fun (s : State) f => s.failCore f.1.val f.2.val)
      (x2.modRst fun r => { r with newBad := [], serves := [], short := false, fullTest := r.kind == 0 }))) :=
    Keeps.foldl (fun _ _ h => State.numberQuarter_keeps _ _ h) _ (Keeps.foldl (fun _ _ h => State.failCore_keeps _ _ _ h) _
      (State.modRst_keeps _ _ h1 fun o => o.rst.upd))
  split
  · exact State.penalise_keeps _ _ _ _ (State.halt_keeps _ _ k)
  · exact State.modRst_keeps _ _ k fun o => ⟨.inl (by decide : 5 ≤ 6), o.rst.kind, o.rst.retries, o.rst.kept⟩

theorem execModuleReady_keeps {a t : State} (x1 : State) (h1 : Keeps a x1) (e : execModuleReady x1 = .next t) : Keeps a t := by
  cases e
  have k := Keeps.ite (p := (x1.rst.kind == 1) = true) h1 (State.modHost_keeps _ (fun h => { h with hostUp := [(0, true), (1, true), (2, true), (3, true)] }) h1)
  exact .ite h1 (State.modRst_keeps _ _ (k.mkOk (hp := fun o => o.pwr.upd)) fun o => ⟨.inl (Nat.le_refl 6), o.rst.kind, Nat.zero_le 3, o.rst.kept⟩)

theorem State.writePartial_keeps {a : State} (x0 : State) (x1 : BitVec 64) (h1 : Keeps a x0) : Keeps a (State.writePartial x0 x1) := by
  unfold State.writePartial
  repeat' first
    | with_reducible assumption | with_reducible apply h1 | with_reducible apply State.modRst_keeps
    | with_reducible apply State.commitCounters_keeps
    | with_reducible apply State.straggle_keeps | exact fun o => o.rst.upd | refine Keeps.snd ?_ (by with_reducible assumption)
    | refine Keeps.fst ?_ (by with_reducible assumption) | rfl | intro _ | with_reducible apply Keeps.ite | split | dsimp only

theorem execGo_keeps {a t : State} (x0 : Origin) (x1 : BitVec 64) (x2 : State) (h1 : Keeps a x2) (e : execGo x0 x1 x2 = .next t) : Keeps a t := by
  unfold execGo at e
  cases e
  repeat' first | with_reducible apply h1 | with_reducible apply State.writePartial_keeps | split

theorem State.resetBlock_keeps {a : State} (x0 : State) (h1 : Keeps a x0) : Keeps a (State.resetBlock x0) := by
  unfold State.resetBlock
  repeat' first
    | with_reducible apply h1 | with_reducible apply State.setCore_keeps | with_reducible apply State.fill_keeps
    | with_reducible apply State.modCtx_keeps | with_reducible apply State.setQuarter_keeps | with_reducible apply Keeps.foldl | intro _
    | split | dsimp only

theorem execPartialDrainExpiry_keeps {a t : State} (x0 : State) (h1 : Keeps a x0) (e : execPartialDrainExpiry x0 = .next t) : Keeps a t := by
  unfold execPartialDrainExpiry at e
  cases e
  repeat' first
    | with_reducible apply h1 | with_reducible apply State.modRst_keeps | with_reducible apply State.resetBlock_keeps
    | exact fun o => o.rst.upd | split

theorem execPartialResetEnd_keeps {a t : State} (x1 : State) (h1 : Keeps a x1) (e : execPartialResetEnd x1 = .next t) : Keeps a t := by
  cases e
  refine .ite h1 (.ite (State.rescheduleAll_keeps _ (State.modRst_keeps _ _ h1 fun o => ?_)) (State.illegal_keeps _ _ (State.modRst_keeps _ _ h1 fun o => o.rst.upd)))
  have c : x1.rst.countClean.Ok := by
    unfold Rst.countClean
    split
    · exact o.rst.upd
    · split <;> exact o.rst.upd
  exact c.upd

/-! ## Shank -/

theorem State.modShk_keeps {a : State} (x0 : State) (x1 : Shk → Shk) (h1 : Keeps a x0) : Keeps a (State.modShk x0 x1) := by
  unfold State.modShk
  repeat' first | exact Keeps.mk' (by with_reducible assumption)

theorem State.endStaging_keeps {a : State} (x0 : State) (x1 : Nat) (x2 : Nat) (h1 : Keeps a x0) : Keeps a (State.endStaging x0 x1 x2) := by
  unfold State.endStaging
  repeat' first | with_reducible apply h1 | with_reducible apply State.finish_keeps | with_reducible apply State.modShk_keeps | split

theorem State.stageImage_keeps {a : State} (x0 : State) (x1 : List Byte) (h1 : Keeps a x0) : Keeps a (State.stageImage x0 x1) := by
  unfold State.stageImage
  repeat' first
    | with_reducible apply h1 | with_reducible apply State.endStaging_keeps | with_reducible apply State.modShk_keeps | split | dsimp only

theorem execFwStage_keeps {a t : State} (x0 : Tag) (x1 : State) (replays : Nat) (h1 : Keeps a x1) (e : execFwStage x0 x1 replays = .next t) : Keeps a t := by
  unfold execFwStage at e
  cases e
  repeat' first
    | with_reducible apply State.cross_keeps | with_reducible assumption | with_reducible apply State.command_keeps
    | with_reducible apply State.finish_keeps | with_reducible apply State.modShk_keeps | with_reducible apply State.endStaging_keeps
    | with_reducible apply State.load_keeps | with_reducible apply State.uncorrFault_keeps | with_reducible apply State.stageImage_keeps
    | refine Keeps.snd ?_ (by with_reducible assumption) | intro _ | split | dsimp only

theorem State.laceDown_keeps {a : State} (x0 : State) (x1 : Nat) (x2 : Nat) (x3 : BitVec 32) (x4 : BitVec 32) (x5 : BitVec 16) (x6 : List (BitVec 64))
    (h1 : Keeps a x0) : Keeps a (State.laceDown x0 x1 x2 x3 x4 x5 x6) := by
  unfold State.laceDown
  repeat' first | with_reducible apply h1 | with_reducible apply State.sendMsgIn_keeps | with_reducible apply Keeps.foldl | intro _

theorem State.seedLace_keeps {a : State} (x0 : State) (x1 : FwImage) (h1 : Keeps a x0) : Keeps a (State.seedLace x0 x1) := by
  unfold State.seedLace
  repeat' first | with_reducible apply h1 | with_reducible apply State.laceDown_keeps | with_reducible apply Keeps.foldl | intro _

theorem execFwStageWriteComplete_keeps {a t : State} (x0 : State) (replays : Nat) (h1 : Keeps a x0) (e : execFwStageWriteComplete x0 replays = .next t) : Keeps a t := by
  unfold execFwStageWriteComplete at e
  cases e
  repeat' first
    | with_reducible apply State.cross_keeps | with_reducible apply h1 | with_reducible apply State.endStaging_keeps
    | with_reducible apply State.modShk_keeps | with_reducible apply State.seedLace_keeps | with_reducible assumption | split | dsimp only
    | intro _

theorem execFwActivate_keeps {a t : State} (x0 : Tag) (x1 : State) (h1 : Keeps a x1) (e : execFwActivate x0 x1 = .next t) : Keeps a t := by
  unfold execFwActivate at e
  cases e
  repeat' first
    | with_reducible assumption | with_reducible apply State.command_keeps | with_reducible apply State.modShk_keeps
    | with_reducible apply State.warmReset_keeps | with_reducible apply State.finish_keeps | intro _ | split | dsimp only

theorem execAttest_keeps {a t : State} (x0 : CtxId) (x1 : Tag) (x2 : State) (h1 : Keeps a x2) (e : execAttest x0 x1 x2 = .next t) : Keeps a t := by
  unfold execAttest at e
  cases e
  repeat' first
    | with_reducible assumption | with_reducible apply State.command_keeps | with_reducible apply State.finishWith_keeps
    | with_reducible apply State.finish_keeps | with_reducible apply State.write_keeps | with_reducible apply State.uncorrFault_keeps
    | refine Keeps.snd ?_ (by with_reducible assumption) | intro _ | split | dsimp only

theorem State.enrol_keeps {a : State} (x0 : State) (x1 : Nat) (x2 : BitVec 64) (x3 : List Byte) (h1 : Keeps a x0) : Keeps a
    (State.enrol x0 x1 x2 x3) := by
  unfold State.enrol
  repeat' first
    | with_reducible apply State.post_keeps | exact Keeps.mk' (by with_reducible assumption) | fail_if_no_progress (refine Keeps.mk' ?_)

theorem State.enrolDatagram_keeps {a : State} (x0 : State) (x1 : Nat) (x2 : List Byte) (x3 : Nat → Bool) (h1 : Keeps a x0) : Keeps a
    (State.enrolDatagram x0 x1 x2 x3) := by
  unfold State.enrolDatagram
  repeat' first
    | with_reducible apply h1 | with_reducible apply State.mgmtReject_keeps | with_reducible apply State.mgmtAnswer_keeps
    | with_reducible apply State.mgmtCommand_keeps | with_reducible apply State.enrol_keeps | intro _ | split

theorem execEnrolManagementKey_keeps {a t : State} (x0 : Fin 2) (x1 : BitVec 128) (x2 : BitVec 16) (x3 : List Byte) (x4 : State)
    (h1 : Keeps a x4) (e : execEnrolManagementKey x0 x1 x2 x3 x4 = .next t) : Keeps a t := by
  unfold execEnrolManagementKey at e
  cases e
  repeat' first | with_reducible apply h1 | with_reducible apply State.enrolDatagram_keeps

theorem execEnrolPackageKey_keeps {a t : State} (x0 : Fin 2) (x1 : BitVec 128) (x2 : BitVec 16) (x3 : List Byte) (x4 : State)
    (h1 : Keeps a x4) (e : execEnrolPackageKey x0 x1 x2 x3 x4 = .next t) : Keeps a t := by
  unfold execEnrolPackageKey at e
  cases e
  repeat' first | with_reducible apply h1 | with_reducible apply State.enrolDatagram_keeps

theorem execRevokePackageKey_keeps {a t : State} (x0 : Fin 2) (x1 : BitVec 128) (x2 : BitVec 16) (x3 : List Byte) (x4 : State)
    (h1 : Keeps a x4) (e : execRevokePackageKey x0 x1 x2 x3 x4 = .next t) : Keeps a t := by
  unfold execRevokePackageKey at e
  cases e
  repeat' first | with_reducible apply h1 | with_reducible apply State.enrolDatagram_keeps

theorem State.setLace_keeps {a : State} (x0 : State) (x1 : Lace) (h1 : Keeps a x0) : Keeps a (State.setLace x0 x1) := by
  unfold State.setLace
  repeat' first | with_reducible apply h1 | with_reducible apply State.modShk_keeps

theorem State.repairTo_keeps {a : State} (x0 : State) (x1 : Lace) (x2 : BitVec 16) (x3 : Nat) (x4 : List Byte) (h1 : Keeps a x0) : Keeps a
    (State.repairTo x0 x1 x2 x3 x4) := by
  unfold State.repairTo
  repeat' first | with_reducible apply h1 | with_reducible apply State.sendMsg_keeps | with_reducible apply State.modShk_keeps

theorem State.passPiece_keeps {a : State} (x0 : State) (x1 : Lace) (x2 : Nat) (x3 : List Byte) (h1 : Keeps a x0) : Keeps a
    (State.passPiece x0 x1 x2 x3).1 := by
  unfold State.passPiece
  repeat' first
    | with_reducible apply h1 | with_reducible apply State.laceDown_keeps | with_reducible apply State.repairTo_keeps
    | with_reducible apply Keeps.foldl | intro _ | split

theorem State.badPiece_keeps {a : State} (x0 : State) (x1 : Lace) (x2 : Nat) (h1 : Keeps a x0) : Keeps a (State.badPiece x0 x1 x2).1 := by
  unfold State.badPiece
  repeat' first | with_reducible apply h1 | with_reducible apply State.modShk_keeps

theorem State.passHead_keeps {a : State} (x0 : State) (x1 : Lace) (h1 : Keeps a x0) : Keeps a (x0.passHead x1).1 := by
  unfold State.passHead
  split
  · exact h1
  · refine Keeps.foldl1 (fun r i h => ?_) _ h1
    split
    · split
      · exact h
      · exact State.passPiece_keeps _ _ _ _ h
    · exact h

theorem State.judgeHead_keeps {a : State} (x0 : State) (x1 : Lace) (h1 : Keeps a x0) : Keeps a (x0.judgeHead x1).1 := by
  unfold State.judgeHead
  split
  · exact h1
  · extract_lets h b
    split
    · exact h1
    · split
      · exact h1
      · exact Keeps.foldl1 (fun _ _ h => State.badPiece_keeps _ _ _ h) _ h1

theorem State.judgeBody_keeps {a : State} (x0 : State) (x1 : Lace) (x2 : List Nat) (h1 : Keeps a x0) : Keeps a (x0.judgeBody x1 x2).1 := by
  unfold State.judgeBody
  split
  · exact h1
  · extract_lets h b
    split
    · exact h1
    · refine Keeps.foldl1 (fun r i k => ?_) _ h1
      split
      · split
        · exact k
        · split
          · exact State.passPiece_keeps _ _ _ _ k
          · exact State.badPiece_keeps _ _ _ k
      · exact k

theorem State.laceWhole_keeps {a : State} (x0 : State) (h1 : Keeps a x0) : Keeps a (State.laceWhole x0) := by
  unfold State.laceWhole
  repeat' first | with_reducible apply h1 | with_reducible apply State.stageImage_keeps | split

theorem State.enterPiece_keeps {a : State} (x0 : State) (x1 : Lace) (x2 : Nat) (x3 : List Byte) (x4 : Bool) (h1 : Keeps a x0) : Keeps a
    (State.enterPiece x0 x1 x2 x3 x4) := by
  unfold State.enterPiece
  repeat' first
    | with_reducible apply h1 | with_reducible apply State.passHead_keeps | with_reducible apply State.judgeHead_keeps
    | with_reducible apply State.judgeBody_keeps | with_reducible apply State.laceWhole_keeps | with_reducible apply State.setLace_keeps
    | split

theorem State.withLace_keeps {a : State} (x0 : State) (x1 : Msg) (x2 : Lace → State → State) (h1 : Keeps a x0) (k3 : ∀ (y0 : Lace) (y1 : State), Keeps a y1 → Keeps a (x2 y0 y1)) : Keeps a
    (State.withLace x0 x1 x2) := by
  unfold State.withLace
  repeat' first | with_reducible apply h1 | with_reducible apply k3 | split

theorem execLacePiece_keeps {a t : State} (x0 : Nat) (x1 : State) (h1 : Keeps a x1) (e : execLacePiece x0 x1 = .next t) : Keeps a t := by
  unfold execLacePiece at e
  cases e
  repeat' first
    | with_reducible assumption | with_reducible apply State.withMsg_keeps | with_reducible apply State.withLace_keeps
    | with_reducible apply State.enterPiece_keeps | intro _

theorem State.askParent_keeps {a : State} (x0 : State) (x1 : Lace) (h1 : Keeps a x0) : Keeps a (State.askParent x0 x1) := by
  unfold State.askParent
  repeat' first
    | with_reducible apply h1 | with_reducible apply State.sendMsg_keeps | with_reducible apply State.modShk_keeps
    | with_reducible apply State.draw_keeps | split | refine Keeps.snd ?_ (by with_reducible assumption) | dsimp only

theorem State.passEnd_keeps {a : State} (x0 : State) (x1 : Msg) (h1 : Keeps a x0) : Keeps a (State.passEnd x0 x1) := by
  unfold State.passEnd
  repeat' first | with_reducible apply h1 | with_reducible apply State.laceDown_keeps

theorem execLaceEnd_keeps {a t : State} (x0 : Nat) (x1 : State) (h1 : Keeps a x1) (e : execLaceEnd x0 x1 = .next t) : Keeps a t := by
  unfold execLaceEnd at e
  cases e
  repeat' first
    | with_reducible assumption | with_reducible apply State.withMsg_keeps | with_reducible apply State.passEnd_keeps
    | with_reducible apply State.withLace_keeps | with_reducible apply State.setLace_keeps | with_reducible apply State.askParent_keeps
    | intro _ | split | dsimp only

theorem State.answerLacing_keeps {a : State} (x0 : State) (x1 : Lace) (x2 : Msg) (h1 : Keeps a x0) : Keeps a (State.answerLacing x0 x1 x2) := by
  unfold State.answerLacing
  repeat' first
    | with_reducible apply h1 | with_reducible apply State.repairTo_keeps | with_reducible apply State.setLace_keeps
    | with_reducible apply State.askParent_keeps | with_reducible apply Keeps.foldl | intro _ | split | dsimp only

theorem State.answerStaged_keeps {a : State} (x0 : State) (x1 : Msg) (h1 : Keeps a x0) : Keeps a (State.answerStaged x0 x1) := by
  unfold State.answerStaged
  repeat' first
    | with_reducible apply h1 | with_reducible apply State.repairTo_keeps | with_reducible apply sendAll_keeps
    | with_reducible apply State.sendFlit_keeps | with_reducible apply Keeps.foldl | intro _ | split

theorem execLaceBitmap_keeps {a t : State} (x0 : Nat) (x1 : State) (h1 : Keeps a x1) (e : execLaceBitmap x0 x1 = .next t) : Keeps a t := by
  unfold execLaceBitmap at e
  cases e
  repeat' first
    | with_reducible assumption | with_reducible apply State.withMsg_keeps | with_reducible apply State.answerLacing_keeps
    | with_reducible apply State.answerStaged_keeps | intro _ | split

theorem execLaceRepairPiece_keeps {a t : State} (x0 : Nat) (x1 : State) (h1 : Keeps a x1) (e : execLaceRepairPiece x0 x1 = .next t) : Keeps a t := by
  unfold execLaceRepairPiece at e
  cases e
  repeat' first
    | with_reducible assumption | with_reducible apply State.withMsg_keeps | with_reducible apply State.withLace_keeps
    | with_reducible apply State.enterPiece_keeps | intro _

theorem execLacePieceDatagram_keeps {a t : State} (x0 : Fin 2) (x1 : List Byte) (x2 : State) (h1 : Keeps a x2)
    (e : execLacePieceDatagram x0 x1 x2 = .next t) : Keeps a t := by
  unfold execLacePieceDatagram at e
  cases e
  repeat' first
    | with_reducible apply h1 | with_reducible apply State.mgmtReject_keeps | with_reducible apply State.enterPiece_keeps | split
    | dsimp only

theorem execLaceBitmapTimer_keeps {a t : State} (x0 : State) (h1 : Keeps a x0) (e : execLaceBitmapTimer x0 = .next t) : Keeps a t := by
  unfold execLaceBitmapTimer at e
  cases e
  repeat' first
    | with_reducible apply h1 | with_reducible apply State.askParent_keeps | with_reducible apply State.modShk_keeps
    | with_reducible apply State.mgmtSend_keeps | split

/-! ## Registers -/

theorem State.writeLastPtr_keeps {a : State} (x0 : State) (x1 : BitVec 64) (h1 : Keeps a x0) : Keeps a (State.writeLastPtr x0 x1) := by
  unfold State.writeLastPtr
  repeat' first | exact Keeps.mk' (by with_reducible assumption)

theorem State.writeEccCount_keeps {a : State} (x0 : State) (x1 : Bool) (x2 : BitVec 64) (h1 : Keeps a x0) : Keeps a
    (State.writeEccCount x0 x1 x2) := by
  unfold State.writeEccCount
  repeat' first | with_reducible apply h1 | with_reducible apply State.modEcc_keeps | split

theorem State.writeInject_keeps {a : State} (x0 : State) (x1 : BitVec 64) (h1 : Keeps a x0) : Keeps a (State.writeInject x0 x1) := by
  unfold State.writeInject
  repeat' first | with_reducible apply h1 | with_reducible apply State.modEcc_keeps

theorem State.writeDrop_keeps {a : State} (x0 : State) (x1 : BitVec 64) (h1 : Keeps a x0) : Keeps a (State.writeDrop x0 x1) := by
  unfold State.writeDrop
  repeat' first | exact Keeps.mk' (by with_reducible assumption) | split

theorem State.writeLnkErr_keeps {a : State} (x0 : State) (x1 : Nat) (x2 : BitVec 64) (h1 : Keeps a x0) : Keeps a (State.writeLnkErr x0 x1 x2) := by
  unfold State.writeLnkErr
  repeat' first | with_reducible apply h1 | with_reducible apply State.modPort_keeps | split

theorem State.writeLnkCtl_keeps {a : State} (x0 : State) (x1 : Nat) (x2 : BitVec 64) (h1 : Keeps a x0) : Keeps a (State.writeLnkCtl x0 x1 x2) := by
  unfold State.writeLnkCtl
  repeat' first
    | with_reducible apply h1 | with_reducible apply State.writeRetrain_keeps | with_reducible apply State.writeHold_keeps
    | with_reducible apply State.writeEnable_keeps

theorem State.writeMbxErr_keeps {a : State} (x0 : State) (x1 : BitVec 64) (h1 : Keeps a x0) : Keeps a (State.writeMbxErr x0 x1) := by
  unfold State.writeMbxErr
  repeat' first | with_reducible apply h1 | with_reducible apply State.modHost_keeps | split

theorem State.writeMbxMgmt_keeps {a : State} (x0 : State) (x1 : Nat) (x2 : BitVec 64) (h1 : Keeps a x0) : Keeps a (State.writeMbxMgmt x0 x1 x2) := by
  unfold State.writeMbxMgmt
  repeat' first | with_reducible apply h1 | with_reducible apply State.modHost_keeps | split

theorem State.writePolicy_keeps {a : State} (x0 : State) (x1 : BitVec 64) (h1 : Keeps a x0) : Keeps a (State.writePolicy x0 x1) := by
  unfold State.writePolicy
  repeat' first | with_reducible apply State.judge_keeps | exact Keeps.mk' (by with_reducible assumption) | split | dsimp only

theorem State.readmit_keeps {a : State} (x0 : State) (h1 : Keeps a x0) : Keeps a x0.readmit :=
  .ite (State.judge_keeps _ (State.report_keeps _ _ _ _ (h1.mkOk (hh := fun _ => ⟨(by decide : 500 ≤ 1000), Nat.zero_le 2⟩)))) h1

theorem State.writeHltCtl_keeps {a : State} (x0 : State) (x1 : BitVec 64) (h1 : Keeps a x0) : Keeps a (x0.writeHltCtl x1) :=
  .ite (State.readmit_keeps _ h1.mk') h1.mk'

theorem State.writeResole_keeps {a : State} (x0 : State) (x1 : Nat) (x2 : BitVec 64) (h1 : Keeps a x0) : Keeps a (State.writeResole x0 x1 x2) := by
  unfold State.writeResole
  repeat' first | with_reducible apply h1 | with_reducible apply State.modCtx_keeps

theorem State.writeResoleOff_keeps {a : State} (x0 : State) (x1 : Nat) (x2 : BitVec 64) (h1 : Keeps a x0) : Keeps a
    (State.writeResoleOff x0 x1 x2) := by
  unfold State.writeResoleOff
  repeat' first | with_reducible apply h1 | with_reducible apply State.modCtx_keeps

theorem State.writeRest_keeps {a : State} (x0 : State) (x1 : BitVec 64) (h1 : Keeps a x0) : Keeps a (x0.writeRest x1) := by
  unfold State.writeRest
  refine State.modPwr_keeps _ _ h1 fun o => o.pwr.upd (idle := fun i => ?_)
  dsimp only
  split
  · rename_i h
    simpa only [Bool.and_eq_true, decide_eq_true_eq] using h
  · exact i

theorem State.writeAon_keeps {a : State} (x0 : State) (x1 : BitVec 64) (h1 : Keeps a x0) : Keeps a (State.writeAon x0 x1) := by
  unfold State.writeAon
  repeat' first | with_reducible apply h1 | with_reducible apply State.modPwr_keeps | exact fun o => o.pwr.upd

theorem State.writeLace_keeps {a : State} (x0 : State) (x1 : BitVec 64) (h1 : Keeps a x0) : Keeps a (State.writeLace x0 x1) := by
  unfold State.writeLace
  repeat' first | with_reducible apply h1 | with_reducible apply State.modShk_keeps

theorem State.writeSched_keeps {a : State} (x0 : State) (x1 : Nat) (x2 : BitVec 64) (h1 : Keeps a x0) : Keeps a (State.writeSched x0 x1 x2) := by
  unfold State.writeSched
  repeat' first | with_reducible apply h1 | with_reducible apply State.modCtx_keeps

theorem State.writeAcctCtl_keeps {a : State} (x0 : State) (x1 : Nat) (x2 : BitVec 64) (h1 : Keeps a x0) : Keeps a (State.writeAcctCtl x0 x1 x2) := by
  unfold State.writeAcctCtl
  repeat' first | with_reducible apply h1 | with_reducible apply State.modCtx_keeps | split

theorem State.writeFlags_keeps {a : State} (x0 : State) (x1 : Nat) (x2 : BitVec 64) (h1 : Keeps a x0) : Keeps a (State.writeFlags x0 x1 x2) := by
  unfold State.writeFlags
  repeat' first | with_reducible apply h1 | with_reducible apply State.modCtx_keeps

theorem State.writeShadow_keeps {a : State} (x0 : State) (x1 : Nat) (x2 : BitVec 64) (h1 : Keeps a x0) : Keeps a (State.writeShadow x0 x1 x2) := by
  unfold State.writeShadow
  repeat' first | with_reducible apply h1 | with_reducible apply State.modCtx_keeps | split

theorem State.writeRescale_keeps {a : State} (x0 : State) (x1 : Nat) (x2 : BitVec 64) (h1 : Keeps a x0) : Keeps a (State.writeRescale x0 x1 x2) := by
  unfold State.writeRescale
  repeat' first | with_reducible apply h1 | with_reducible apply State.modCtx_keeps | split

theorem State.writeTasks_keeps {a : State} (x0 : State) (x1 : Nat) (x2 : BitVec 64) (h1 : Keeps a x0) : Keeps a (State.writeTasks x0 x1 x2) := by
  unfold State.writeTasks
  repeat' first | with_reducible apply h1 | with_reducible apply State.modCtx_keeps | split

theorem State.writeUpdates_keeps {a : State} (x0 : State) (x1 : Nat) (x2 : BitVec 64) (h1 : Keeps a x0) : Keeps a (State.writeUpdates x0 x1 x2) := by
  unfold State.writeUpdates
  repeat' first | with_reducible apply h1 | with_reducible apply State.modCtx_keeps | split

theorem State.writeColls_keeps {a : State} (x0 : State) (x1 : Nat) (x2 : BitVec 64) (h1 : Keeps a x0) : Keeps a (State.writeColls x0 x1 x2) := by
  unfold State.writeColls
  repeat' first | with_reducible apply h1 | with_reducible apply State.modCtx_keeps | split

theorem State.writeEpoch_keeps {a : State} (x0 : State) (x1 : Nat) (x2 : BitVec 64) (h1 : Keeps a x0) : Keeps a (State.writeEpoch x0 x1 x2) := by
  unfold State.writeEpoch
  repeat' first | with_reducible apply h1 | with_reducible apply State.modStepOf_keeps

theorem State.writeSeed_keeps {a : State} (x0 : State) (x1 : Nat) (x2 : BitVec 64) (h1 : Keeps a x0) : Keeps a (State.writeSeed x0 x1 x2) := by
  unfold State.writeSeed
  repeat' first | with_reducible apply h1 | with_reducible apply State.ledgerSlot_keeps | with_reducible apply State.modStepOf_keeps | split

theorem State.writeAdapters_keeps {a : State} (x0 : State) (x1 : Nat) (x2 : BitVec 64) (h1 : Keeps a x0) : Keeps a
    (State.writeAdapters x0 x1 x2) := by
  unfold State.writeAdapters
  repeat' first | with_reducible apply h1 | with_reducible apply State.modCtx_keeps

theorem State.writeCtx_keeps {a : State} (x0 : State) (x1 : Origin) (x2 : Nat) (x3 : Nat) (x4 : BitVec 64) (h1 : Keeps a x0) : Keeps a
    (State.writeCtx x0 x1 x2 x3 x4) := by
  unfold State.writeCtx
  repeat' first
    | with_reducible apply h1 | with_reducible apply State.writeSched_keeps | with_reducible apply State.writeAcctCtl_keeps
    | with_reducible apply State.writeFlags_keeps | with_reducible apply State.writeShadow_keeps
    | with_reducible apply State.writeRescale_keeps | with_reducible apply State.writeTasks_keeps
    | with_reducible apply State.writeEpoch_keeps | with_reducible apply State.writeSeed_keeps
    | with_reducible apply State.writeUpdates_keeps | with_reducible apply State.writeAdapters_keeps
    | with_reducible apply State.writeColls_keeps | split

theorem execArm_keeps {a t : State} (x0 : Origin) (x1 : BitVec 64) (x2 : State) (h1 : Keeps a x2) (e : execArm x0 x1 x2 = .next t) : Keeps a t := by
  unfold execArm at e
  cases e
  repeat' first | with_reducible apply h1 | with_reducible apply State.writeInject_keeps | split

theorem execReadmit_keeps {a t : State} (x0 : Origin) (x1 : BitVec 64) (x2 : State) (h1 : Keeps a x2)
    (e : execReadmit x0 x1 x2 = .next t) : Keeps a t := by
  unfold execReadmit at e
  cases e
  repeat' first | with_reducible apply h1 | with_reducible apply State.readmit_keeps | split

theorem execHltPolicyWrite_keeps {a t : State} (x0 : Origin) (x1 : BitVec 64) (x2 : State) (h1 : Keeps a x2)
    (e : execHltPolicyWrite x0 x1 x2 = .next t) : Keeps a t := by
  unfold execHltPolicyWrite at e
  cases e
  repeat' first | with_reducible apply h1 | with_reducible apply State.writePolicy_keeps | split

theorem execCtxJobSeedWrite_keeps {a t : State} (x0 : Origin) (x1 : CtxN) (x2 : BitVec 64) (x3 : State) (h1 : Keeps a x3)
    (e : execCtxJobSeedWrite x0 x1 x2 x3 = .next t) : Keeps a t := by
  unfold execCtxJobSeedWrite at e
  cases e
  repeat' first | with_reducible apply h1 | with_reducible apply State.writeSeed_keeps | split

theorem execClrCount_keeps {a t : State} (x0 : Origin) (x1 : CtxN) (x2 : BitVec 64) (x3 : State) (h1 : Keeps a x3)
    (e : execClrCount x0 x1 x2 x3 = .next t) : Keeps a t := by
  unfold execClrCount at e
  cases e
  repeat' first | with_reducible apply h1 | with_reducible apply State.modCtx_keeps | split

theorem execCtxShadowCountClr_keeps {a t : State} (x0 : Origin) (x1 : CtxN) (x2 : BitVec 64) (x3 : State) (h1 : Keeps a x3)
    (e : execCtxShadowCountClr x0 x1 x2 x3 = .next t) : Keeps a t := by
  unfold execCtxShadowCountClr at e
  cases e
  repeat' first | with_reducible apply h1 | with_reducible apply State.writeShadow_keeps | split

theorem execCtxRescaleCountClr_keeps {a t : State} (x0 : Origin) (x1 : CtxN) (x2 : BitVec 64) (x3 : State) (h1 : Keeps a x3)
    (e : execCtxRescaleCountClr x0 x1 x2 x3 = .next t) : Keeps a t := by
  unfold execCtxRescaleCountClr at e
  cases e
  repeat' first | with_reducible apply h1 | with_reducible apply State.writeRescale_keeps | split

theorem execCtxTaskCountClr_keeps {a t : State} (x0 : Origin) (x1 : CtxN) (x2 : BitVec 64) (x3 : State) (h1 : Keeps a x3)
    (e : execCtxTaskCountClr x0 x1 x2 x3 = .next t) : Keeps a t := by
  unfold execCtxTaskCountClr at e
  cases e
  repeat' first | with_reducible apply h1 | with_reducible apply State.writeTasks_keeps | split

theorem execCtxUpdateCountClr_keeps {a t : State} (x0 : Origin) (x1 : CtxN) (x2 : BitVec 64) (x3 : State) (h1 : Keeps a x3)
    (e : execCtxUpdateCountClr x0 x1 x2 x3 = .next t) : Keeps a t := by
  unfold execCtxUpdateCountClr at e
  cases e
  repeat' first | with_reducible apply h1 | with_reducible apply State.writeUpdates_keeps | split

theorem execCtxCollCountClr_keeps {a t : State} (x0 : Origin) (x1 : CtxN) (x2 : BitVec 64) (x3 : State) (h1 : Keeps a x3)
    (e : execCtxCollCountClr x0 x1 x2 x3 = .next t) : Keeps a t := by
  unfold execCtxCollCountClr at e
  cases e
  repeat' first | with_reducible apply h1 | with_reducible apply State.writeColls_keeps | split

theorem execCtxAcctCtlClr_keeps {a t : State} (x0 : Origin) (x1 : CtxN) (x2 : BitVec 64) (x3 : State) (h1 : Keeps a x3)
    (e : execCtxAcctCtlClr x0 x1 x2 x3 = .next t) : Keeps a t := by
  unfold execCtxAcctCtlClr at e
  cases e
  repeat' first | with_reducible apply h1 | with_reducible apply State.writeAcctCtl_keeps | split

theorem execMemEccClr_keeps {a t : State} (x0 : Origin) (x1 : Bool) (x2 : BitVec 64) (x3 : State) (h1 : Keeps a x3)
    (e : execMemEccClr x0 x1 x2 x3 = .next t) : Keeps a t := by
  unfold execMemEccClr at e
  cases e
  repeat' first | with_reducible apply h1 | with_reducible apply State.writeEccCount_keeps | split

theorem execLnkDropClr_keeps {a t : State} (x0 : Origin) (x1 : BitVec 64) (x2 : State) (h1 : Keeps a x2)
    (e : execLnkDropClr x0 x1 x2 = .next t) : Keeps a t := by
  unfold execLnkDropClr at e
  cases e
  repeat' first | with_reducible apply h1 | with_reducible apply State.writeDrop_keeps | split

theorem execLnkErrClr_keeps {a t : State} (x0 : Origin) (x1 : PortId) (x2 : BitVec 64) (x3 : State) (h1 : Keeps a x3)
    (e : execLnkErrClr x0 x1 x2 x3 = .next t) : Keeps a t := by
  unfold execLnkErrClr at e
  cases e
  repeat' first | with_reducible apply h1 | with_reducible apply State.writeLnkErr_keeps | split

theorem execMbxErrClr_keeps {a t : State} (x0 : Origin) (x1 : BitVec 64) (x2 : State) (h1 : Keeps a x2)
    (e : execMbxErrClr x0 x1 x2 = .next t) : Keeps a t := by
  unfold execMbxErrClr at e
  cases e
  repeat' first | with_reducible apply h1 | with_reducible apply State.writeMbxErr_keeps | split

theorem execMbxMgmtClr_keeps {a t : State} (x0 : Origin) (x1 : Fin 2) (x2 : BitVec 64) (x3 : State) (h1 : Keeps a x3)
    (e : execMbxMgmtClr x0 x1 x2 x3 = .next t) : Keeps a t := by
  unfold execMbxMgmtClr at e
  cases e
  repeat' first | with_reducible apply h1 | with_reducible apply State.writeMbxMgmt_keeps | split

theorem State.writeRemap_keeps {a : State} (x0 : State) (x1 : Nat) (x2 : Nat) (x3 : BitVec 64) (h1 : Keeps a x0) : Keeps a
    (State.writeRemap x0 x1 x2 x3) := by
  unfold State.writeRemap
  repeat' first | with_reducible apply h1 | with_reducible apply State.modEcc_keeps

theorem State.writeShank_keeps {a : State} (x0 : State) (x1 : Nat) (x2 : BitVec 64) (h1 : Keeps a x0) : Keeps a (State.writeShank x0 x1 x2) := by
  unfold State.writeShank
  repeat' first | exact Keeps.mk' (by with_reducible assumption) | split

theorem State.writeAdmin_keeps {a : State} (x0 : State) (x1 : Nat) (x2 : BitVec 64) (h1 : Keeps a x0) : Keeps a (State.writeAdmin x0 x1 x2) := by
  unfold State.writeAdmin
  repeat' first
    | with_reducible apply h1 | with_reducible apply State.writeLastPtr_keeps | with_reducible apply State.writeInject_keeps
    | with_reducible apply State.writeDir_keeps | with_reducible apply State.writeLnkCtl_keeps
    | with_reducible apply State.writeMbxErr_keeps | with_reducible apply State.writeMbxMgmt_keeps
    | with_reducible apply State.writePolicy_keeps | with_reducible apply State.writeHltCtl_keeps
    | with_reducible apply State.writeSupply_keeps | with_reducible apply State.writeGov_keeps | with_reducible apply State.writeRest_keeps
    | with_reducible apply State.writeEvents_keeps | with_reducible apply State.writeAon_keeps | with_reducible apply State.writeCtl_keeps
    | with_reducible apply State.writePartial_keeps | with_reducible apply State.writeLace_keeps | with_reducible apply Keeps.ite

theorem State.writeAny_keeps {a : State} (x0 : State) (x1 : Nat) (x2 : BitVec 64) (h1 : Keeps a x0) : Keeps a (x0.writeAny x1 x2) :=
  .ite (State.writeEccCount_keeps _ _ _ h1) (.ite (State.writeEccCount_keeps _ _ _ h1) (.ite (State.writeDrop_keeps _ _ h1)
    (.ite (State.writeLnkErr_keeps _ _ _ h1) h1)))

theorem State.writeStream_keeps {a : State} (x0 : State) (x1 : Origin) (x2 : Nat) (x3 : BitVec 64) (h1 : Keeps a x0) : Keeps a
    (x0.writeStream x1 x2 x3) := by
  unfold State.writeStream
  dsimp only
  refine .ite h1 ?_
  split
  · exact State.writeResole_keeps _ _ _ h1
  · exact State.writeResoleOff_keeps _ _ _ h1
  · exact h1

theorem State.writeReg_keeps {a : State} (x0 : State) (x1 : Origin) (x2 : Nat) (x3 : BitVec 64) (h1 : Keeps a x0) : Keeps a
    (State.writeReg x0 x1 x2 x3) := by
  unfold State.writeReg
  repeat' first
    | with_reducible apply h1 | with_reducible apply State.writeCtx_keeps | with_reducible apply State.writeStream_keeps
    | with_reducible apply State.writeAny_keeps | with_reducible apply State.writeAdmin_keeps | with_reducible apply State.writeShank_keeps
    | split

theorem execRegisterWrite_keeps {a t : State} (x0 : Origin) (x1 : BitVec 48) (x2 : Nat) (x3 : BitVec 64) (x4 : State) (h1 : Keeps a x4)
    (e : execRegisterWrite x0 x1 x2 x3 x4 = .next t) : Keeps a t := by
  unfold execRegisterWrite at e
  cases e
  repeat' first | with_reducible apply h1 | with_reducible apply State.writeReg_keeps | split

/-! ## Scalar -/

theorem execNop_keeps {a t : State} (x0 : CoreId) (x1 : SF) (x2 : State) (h1 : Keeps a x2) (e : execNop x0 x1 x2 = .next t) : Keeps a t := by
  unfold execNop at e
  cases e
  repeat' first | with_reducible apply h1 | with_reducible apply State.issue_keeps | with_reducible apply State.modCore_keeps | intro _

theorem execAlu_keeps {a t : State} (x0 : CoreId) (x1 : SF) (x2 : State) (h1 : Keeps a x2) (e : execAlu x0 x1 x2 = .next t) : Keeps a t := by
  unfold execAlu at e
  cases e
  repeat' first
    | with_reducible assumption | with_reducible apply State.issue_keeps | with_reducible apply State.ifFree_keeps
    | with_reducible apply State.modCore_keeps | intro _

theorem execAlih_keeps {a t : State} (x0 : CoreId) (x1 : SF) (x2 : State) (h1 : Keeps a x2) (e : execAlih x0 x1 x2 = .next t) : Keeps a t := by
  unfold execAlih at e
  cases e
  repeat' first
    | with_reducible assumption | with_reducible apply State.issue_keeps | with_reducible apply State.ifFree_keeps
    | with_reducible apply State.modCore_keeps | intro _

theorem execAcmp_keeps {a t : State} (x0 : CoreId) (x1 : SF) (x2 : State) (h1 : Keeps a x2) (e : execAcmp x0 x1 x2 = .next t) : Keeps a t := by
  unfold execAcmp at e
  cases e
  repeat' first
    | with_reducible assumption | with_reducible apply State.issue_keeps | with_reducible apply State.ifFree_keeps
    | with_reducible apply State.modCore_keeps | intro _

theorem execLset_keeps {a t : State} (x0 : CoreId) (x1 : SF) (x2 : State) (h1 : Keeps a x2) (e : execLset x0 x1 x2 = .next t) : Keeps a t := by
  unfold execLset at e
  cases e
  repeat' first
    | with_reducible assumption | with_reducible apply State.issue_keeps | with_reducible apply State.ifFree_keeps
    | with_reducible apply State.modCore_keeps | intro _

theorem execLget_keeps {a t : State} (x0 : CoreId) (x1 : SF) (x2 : State) (h1 : Keeps a x2) (e : execLget x0 x1 x2 = .next t) : Keeps a t := by
  unfold execLget at e
  cases e
  repeat' first
    | with_reducible assumption | with_reducible apply State.issue_keeps | with_reducible apply State.ifFree_keeps
    | with_reducible apply State.modCore_keeps | intro _

theorem execFset_keeps {a t : State} (x0 : CoreId) (x1 : SF) (x2 : State) (h1 : Keeps a x2) (e : execFset x0 x1 x2 = .next t) : Keeps a t := by
  unfold execFset at e
  cases e
  repeat' first
    | with_reducible assumption | with_reducible apply State.issue_keeps | with_reducible apply State.ifFree_keeps
    | with_reducible apply State.modCore_keeps | intro _

theorem execTset_keeps {a t : State} (x0 : CoreId) (x1 : SF) (x2 : State) (h1 : Keeps a x2) (e : execTset x0 x1 x2 = .next t) : Keeps a t := by
  unfold execTset at e
  cases e
  repeat' first
    | with_reducible assumption | with_reducible apply State.issue_keeps | with_reducible apply State.ifFree_keeps
    | with_reducible apply State.modCore_keeps | with_reducible apply State.insnFault_keeps | intro _ | split

theorem execTget_keeps {a t : State} (x0 : CoreId) (x1 : SF) (x2 : State) (h1 : Keeps a x2) (e : execTget x0 x1 x2 = .next t) : Keeps a t := by
  unfold execTget at e
  cases e
  repeat' first
    | with_reducible assumption | with_reducible apply State.issue_keeps | with_reducible apply State.ifFree_keeps
    | with_reducible apply State.modCore_keeps | intro _

theorem execToff_keeps {a t : State} (x0 : CoreId) (x1 : SF) (x2 : State) (h1 : Keeps a x2) (e : execToff x0 x1 x2 = .next t) : Keeps a t := by
  unfold execToff at e
  cases e
  repeat' first
    | with_reducible assumption | with_reducible apply State.issue_keeps | with_reducible apply State.ifFree_keeps
    | with_reducible apply State.modCore_keeps | with_reducible apply State.insnFault_keeps | intro _ | split | dsimp only

theorem execTsb_keeps {a t : State} (x0 : CoreId) (x1 : SF) (x2 : State) (h1 : Keeps a x2) (e : execTsb x0 x1 x2 = .next t) : Keeps a t := by
  unfold execTsb at e
  cases e
  repeat' first
    | with_reducible assumption | with_reducible apply State.issue_keeps | with_reducible apply State.ifFree_keeps
    | with_reducible apply State.modCore_keeps | with_reducible apply State.insnFault_keeps | intro _ | split | dsimp only

theorem State.branch_keeps {a : State} (x0 : State) (x1 : Nat) (x2 : ℤ) (x3 : Bool) (x4 : Core → Core) (h1 : Keeps a x0) : Keeps a
    (State.branch x0 x1 x2 x3 x4) := by
  unfold State.branch
  repeat' first
    | with_reducible apply h1 | with_reducible apply State.modCore_keeps | with_reducible apply State.insnFault_keeps | split | dsimp only

theorem execBr_keeps {a t : State} (x0 : CoreId) (x1 : SF) (x2 : State) (h1 : Keeps a x2) (e : execBr x0 x1 x2 = .next t) : Keeps a t := by
  unfold execBr at e
  cases e
  repeat' first | with_reducible apply h1 | with_reducible apply State.issue_keeps | with_reducible apply State.branch_keeps | intro _

theorem execBra_keeps {a t : State} (x0 : CoreId) (x1 : SF) (x2 : State) (h1 : Keeps a x2) (e : execBra x0 x1 x2 = .next t) : Keeps a t := by
  unfold execBra at e
  cases e
  repeat' first
    | with_reducible assumption | with_reducible apply State.issue_keeps | with_reducible apply State.ifFree_keeps
    | with_reducible apply State.branch_keeps | intro _

theorem execBrf_keeps {a t : State} (x0 : CoreId) (x1 : SF) (x2 : State) (h1 : Keeps a x2) (e : execBrf x0 x1 x2 = .next t) : Keeps a t := by
  unfold execBrf at e
  cases e
  repeat' first
    | with_reducible assumption | with_reducible apply State.issue_keeps | with_reducible apply State.ifFree_keeps
    | with_reducible apply State.branch_keeps | intro _

theorem execLoop_keeps {a t : State} (x0 : CoreId) (x1 : SF) (x2 : State) (h1 : Keeps a x2) (e : execLoop x0 x1 x2 = .next t) : Keeps a t := by
  unfold execLoop at e
  cases e
  repeat' first | with_reducible apply h1 | with_reducible apply State.issue_keeps | with_reducible apply State.branch_keeps | intro _

theorem State.aldLocal_keeps {a : State} (x0 : State) (x1 : Nat) (x2 : Nat) (x3 : Nat) (h1 : Keeps a x0) : Keeps a (State.aldLocal x0 x1 x2 x3) := by
  unfold State.aldLocal
  repeat' first
    | with_reducible apply h1 | with_reducible apply State.load_keeps | with_reducible apply State.modCore_keeps
    | with_reducible apply State.uncorrFault_keeps | refine Keeps.snd ?_ (by with_reducible assumption) | split

theorem execAld_keeps {a t : State} (x0 : CoreId) (x1 : SF) (x2 : State) (h1 : Keeps a x2) (e : execAld x0 x1 x2 = .next t) : Keeps a t := by
  unfold execAld at e
  cases e
  repeat' first
    | with_reducible assumption | with_reducible apply State.issue_keeps | with_reducible apply State.ifFree_keeps
    | with_reducible apply State.insnFault_keeps | with_reducible apply State.aldLocal_keeps | with_reducible apply State.modCore_keeps
    | intro _ | split | dsimp only

theorem execAst_keeps {a t : State} (x0 : CoreId) (x1 : SF) (x2 : State) (h1 : Keeps a x2) (e : execAst x0 x1 x2 = .next t) : Keeps a t := by
  unfold execAst at e
  cases e
  repeat' first
    | with_reducible assumption | with_reducible apply State.issue_keeps | with_reducible apply State.ifFree_keeps
    | with_reducible apply State.insnFault_keeps | with_reducible apply State.modCore_keeps | with_reducible apply State.afterStore_keeps
    | with_reducible apply State.setBytes_keeps | intro _ | split | dsimp only

end Sys2Proof.Machine
end

