-- ==== Sys2Proof/Laws/Sections.lean ====
section
/-!
SUPPORT. Reading a section of a state image inverts writing it (15 R397, R407).
-/

set_option Elab.async false

namespace Sys2Proof.Machine

open Sys2Proof

theorem numOfBytes_bytesOfNum (n : Nat) : numOfBytes (bytesOfNum n) = n := by
  have h : ((Nat.digits 256 n).map (BitVec.ofNat 8)).map BitVec.toNat = Nat.digits 256 n := by
    rw [List.map_map]
    refine (List.map_congr_left fun d hd => ?_).trans (List.map_id _)
    have := Nat.digits_lt_base (b := 256) (by decide) hd
    simp; omega
  rw [numOfBytes, bytesOfNum, h, Nat.ofDigits_digits]

theorem map_inv {α β : Type} {f : α → β} {g : β → α} (h : ∀ a, g (f a) = a) (l : List α) : (l.map f).map g = l := by
  simp [List.map_map, Function.comp_def, h]

theorem option_inv {α β : Type} {f : α → β} {g : β → α} (h : ∀ a, g (f a) = a) (o : Option α) : (o.map f).map g = o := by
  cases o <;> simp [h]

theorem pair_inv {α β : Type} {f : α → β} {g : β → α} (h : ∀ a, g (f a) = a) (l : List (Nat × α)) :
    (l.map fun e => (e.1, f e.2)).map (fun e => (e.1, g e.2)) = l := map_inv (fun e => by simp [h]) l

theorem wordNum (w : Nat) (x : BitVec w) : BitVec.ofNat w x.toNat = x := by simp

theorem taskOfNums_nums (d : TaskDesc) : taskOfNums d.nums = d := by cases d; simp [taskOfNums, TaskDesc.nums]
theorem ruleOfNums_nums (r : Rule) : ruleOfNums r.nums = r := by cases r; simp [ruleOfNums, Rule.nums]
theorem layerOfNums_nums (l : Layer) : layerOfNums l.nums = l := by cases l; simp [layerOfNums, Layer.nums]
theorem stageOfNums_nums (g : Stage) : stageOfNums g.nums = g := by cases g; simp [stageOfNums, Stage.nums]
theorem rowOfNums_nums (r : RecipeRow) : rowOfNums r.nums = r := by cases r; simp [rowOfNums, RecipeRow.nums]

theorem progOfNums_nums (p : Prog) : progOfNums p.nums = p := by
  obtain ⟨a, l, co, cl, ts, rs, ls, gs, ⟨rc, ri, rr, rw⟩⟩ := p
  simp only [progOfNums, Prog.nums, map_inv taskOfNums_nums, map_inv ruleOfNums_nums, map_inv layerOfNums_nums, map_inv stageOfNums_nums,
    map_inv rowOfNums_nums]
  simp

theorem scalesOfNums_nums (m : SMap (Option F32)) : scalesOfNums (scaleNums m) = m := pair_inv (option_inv (wordNum 32)) m
theorem histOfNums_nums (m : SMap (List (Nat × F32))) : histOfNums (histNums m) = m := pair_inv (pair_inv (wordNum 32)) m

theorem pendOfNums_nums (p : Pend) : pendOfNums p.nums = p := by
  obtain ⟨c, m, ⟨e, sa, u, nf⟩, f, g, sh, x⟩ := p
  simp only [pendOfNums, Pend.nums, pair_inv (wordNum 32) m]
  simp [totalsOfNums, Totals.nums]

theorem recOfNums_nums (r : ScaleRec) : recOfNums r.nums = r := by
  obtain ⟨sc, ss, h, sv, sr, ⟨e, sa, u, nf⟩, ps, j, ca, st, sd⟩ := r
  simp only [recOfNums, ScaleRec.nums, scalesOfNums_nums, histOfNums_nums, pair_inv (option_inv pendOfNums_nums), pair_inv scalesOfNums_nums]
  simp [totalsOfNums, Totals.nums]

theorem scalingOfNums_nums (x : Scaling) : scalingOfNums x.nums = x := by
  simp only [scalingOfNums, Scaling.nums, pair_inv (option_inv recOfNums_nums), pair_inv (pair_inv (wordNum 32))]

/-- The program section of a program stands for that program. -/
theorem sectionProg_progSection (p : Prog) : sectionProg (progSection p) = some p := by
  simp only [sectionProg, progSection, Equiv.symm_apply_apply, numOfBytes_bytesOfNum, Encodable.encodek, Option.map_some, progOfNums_nums]

/-- The scaling section of some records stands for those records. -/
theorem sectionScaling_scalingSection (x : Scaling) : sectionScaling (scalingSection x) = x := by
  simp only [sectionScaling, scalingSection, Equiv.symm_apply_apply, numOfBytes_bytesOfNum, Encodable.encodek, scalingOfNums_nums]

end Sys2Proof.Machine
end

