-- ==== Sys2Proof/WellFormed.lean ====
section
/-!
DEFINITION. Well-formed commands: the lengths and ranges that the spec gives what comes from outside with a command.

A command that is not well formed stands for no event of the hardware. No meaning relies on these checks; a meaning gives
every command a next state.
-/

namespace Sys2Proof

/-- An upset stands at an 8-byte word of T1 or T2 and has 1 to 80 bits (09 R226). -/
def Upset.wf (u : Upset) : Bool := u.addr % 8 == 0 && decide (1 ≤ u.bits) && decide (u.bits ≤ 80)

/-- A command of the shape the spec gives its row. -/
def Instr.wf : Instr → Bool
  | .dmaTransactionComplete _ _ _ _ ups => ups.all Upset.wf
  | .scrubAccess _ ups => ups.all Upset.wf
  | .rdmaRead _ _ _ _ ups _ => ups.all Upset.wf
  | .flitReceive _ raw _ => raw.length == 264
  | .nakReceive _ f => f.typ == 0x2#4
  | .qpConnectRequest _ _ _ mtu => mtu == 1024 || mtu == 2048 || mtu == 4096
  | .dumpRegionComplete bytes => decide (bytes.length ≤ 0x400_0000)
  | .dumpRegionTimeout _ bytes => decide (bytes.length ≤ 0x400_0000)
  | .coolantReading _ _ dies => dies.length == 5
  | .lacePieceDatagram _ bytes => bytes.length == 4144
  | .registerWrite _ _ size _ => size == 4 || size == 8
  | _ => true

end Sys2Proof
end

