-- ==== Sys2Proof/Tests/Slice0.lean ====
section
/-! SUPPORT. The model's own tests: ill-formed commands, single steps on small states, and a witness for the hypotheses of
each statement. -/

set_option Elab.async false

namespace Sys2Proof.Tests

open Sys2Proof Sys2Proof.Machine

/-! ## Small states -/

/-- A module that is ready, with core 5 of context 3 at a word of its task. -/
def atWord (w : BitVec 64) (f : Core → Core) : State :=
  let k : Core := { ctx := some 3, task := some { run := 1, tid := 7 }, code := [w, w, w], pc := 1 }
  let r : State := State.reset
  { r with rst := { r.rst with phase := 6 }, cores := [(5, f k)] }

theorem test_idle : step State.reset = .next State.reset := rfl

/-- A host command with these parameter bytes, which begin at offset 8. -/
def hostCmd (op : Nat) (params : List Byte) : Cmd :=
  { opcode := op, tag := 0xBEEF, params := params, fence := false, running := false, seq := 1, ports := 1 }

/-- A module that is ready, with one command of context `n` (or of the management context, 16) whose row has not run; contexts
3 and 4 are active. -/
def atCmd (n op : Nat) (params : List Byte) (f : State → State) : State :=
  let r : State := State.reset
  let s := { r with rst := { r.rst with phase := 6 } }
  let s := (s.modCtx 3 fun k => k.modSched fun h => { h with st := 1 }).modCtx 4 fun k => k.modSched fun h => { h with st := 1 }
  f (s.modCHost n fun h => { h with cmds := [hostCmd op params] })

theorem begins_atCmd (n op : Nat) (params : List Byte) (f : State → State) (h : (f (atCmd n op params id)).live = true)
    (hc : (f (atCmd n op params id)).cmd? n op 0xBEEF false = some (hostCmd op params)) :
    Begins (atCmd n op params f) n op 0xBEEF (hostCmd op params) := ⟨h, hc⟩

/-! ## Scalar instructions (05 R125, R126) -/

/-- ALU ADD A2 = A1 + IMM, with A1 near the top: the sum wraps. -/
def addWord : SF := ⟨0, 2, 1, 0, 1, 5⟩
theorem test_add_wraps :
    (match exec (.alu 5 addWord) (atWord (encodeS 0x08#8 addWord) fun k => k.setA 1 0xFFFFFFFFFFFFFFFE#64) with
      | .next t => (t.core 5).ra 2 == 3#64 && (t.core 5).pc == 2
      | _ => false) = true := by rfl
/-- ALU MIN A31 = A0, A1 is signed. -/
def minWord : SF := ⟨9, 31, 0, 1, 0, 0⟩
theorem test_min_signed :
    (match exec (.alu 5 minWord) (atWord (encodeS 0x08#8 minWord) fun k => (k.setA 0 1#64).setA 1 0xFFFFFFFFFFFFFFFF#64) with
      | .next t => (t.core 5).ra 31 == 0xFFFFFFFFFFFFFFFF#64
      | _ => false) = true := by rfl
def nopWord : SF := ⟨0, 0, 0, 0, 0, 0⟩
theorem witness_ScalarRegisterResults_nop : AtInsn (atWord (encodeS 0x00#8 nopWord) id) 5 (encodeS 0x00#8 nopWord) := ⟨rfl, rfl⟩
theorem witness_ScalarRegisterResults_alu :
    let s := atWord (encodeS 0x08#8 addWord) id
    addWord.fn.toNat ≤ 11 ∧ OpndForm addWord ∧ (addWord.fn = 11 → addWord.a = 0) ∧ AtInsn s 5 (encodeS 0x08#8 addWord) ∧
      Free s 5 ([addWord.d.toNat, addWord.a.toNat] ++ opndReads addWord) [] [] :=
  ⟨by decide, ⟨by decide, by decide⟩, by decide, ⟨rfl, rfl⟩, ⟨rfl, rfl⟩⟩
theorem witness_ScalarRegisterResults_alu_mov :
    let w : SF := ⟨11, 31, 0, 31, 0, 0⟩
    let s := atWord (encodeS 0x08#8 w) id
    w.fn.toNat ≤ 11 ∧ OpndForm w ∧ (w.fn = 11 → w.a = 0) ∧ AtInsn s 5 (encodeS 0x08#8 w) ∧
      Free s 5 ([w.d.toNat, w.a.toNat] ++ opndReads w) [] [] :=
  ⟨by decide, ⟨by decide, by decide⟩, by decide, ⟨rfl, rfl⟩, ⟨rfl, rfl⟩⟩
def alihWord : SF := ⟨0, 31, 0, 0, 0, 0xFFFFFFFF⟩
theorem test_alih_keeps_low :
    (match exec (.alih 5 alihWord) (atWord (encodeS 0x09#8 alihWord) fun k => k.setA 31 0x123456789ABCDEF0#64) with
      | .next t => (t.core 5).ra 31 == 0xFFFFFFFF9ABCDEF0#64
      | _ => false) = true := by rfl
theorem witness_ScalarRegisterResults_alih :
    let s := atWord (encodeS 0x09#8 alihWord) id
    AtInsn s 5 (encodeS 0x09#8 alihWord) ∧ Free s 5 [alihWord.d.toNat] [] [] := ⟨⟨rfl, rfl⟩, ⟨rfl, rfl⟩⟩
def acmpWord : SF := ⟨5, 7, 1, 2, 0, 0⟩
theorem test_geu_unsigned :
    (match exec (.acmp 5 acmpWord) (atWord (encodeS 0x0A#8 acmpWord) fun k => (k.setA 1 0xFFFFFFFFFFFFFFFF#64).setA 2 1#64) with
      | .next t => (t.core 5).rf 7
      | _ => false) = true := by rfl
theorem witness_ScalarRegisterResults_acmp :
    let s := atWord (encodeS 0x0A#8 acmpWord) id
    acmpWord.fn.toNat ≤ 5 ∧ OpndForm acmpWord ∧ acmpWord.d.toNat < 8 ∧ AtInsn s 5 (encodeS 0x0A#8 acmpWord) ∧
      Free s 5 (acmpWord.a.toNat :: opndReads acmpWord) [] [.freg acmpWord.d.toNat] :=
  ⟨by decide, ⟨by decide, by decide⟩, by decide, ⟨rfl, rfl⟩, ⟨rfl, rfl⟩⟩
def lsetWord : SF := ⟨0, 7, 0, 0, 1, 0xFFFFFFFF⟩
theorem test_lset_low_half :
    (match exec (.lset 5 lsetWord) (atWord (encodeS 0x0D#8 lsetWord) id) with
      | .next t => (t.core 5).rl 7 == 0xFFFFFFFF#32
      | _ => false) = true := by rfl
theorem witness_ScalarRegisterResults_lset :
    let s := atWord (encodeS 0x0D#8 lsetWord) id
    lsetWord.fn = 0 ∧ lsetWord.a = 0 ∧ OpndForm lsetWord ∧ lsetWord.d.toNat < 8 ∧ AtInsn s 5 (encodeS 0x0D#8 lsetWord) ∧
      Free s 5 (opndReads lsetWord) [] [] :=
  ⟨rfl, rfl, ⟨by decide, by decide⟩, by decide, ⟨rfl, rfl⟩, ⟨rfl, rfl⟩⟩
def lgetWord : SF := ⟨0, 31, 7, 0, 0, 0⟩
theorem test_lget_zero_extends :
    (match exec (.lget 5 lgetWord) (atWord (encodeS 0x0E#8 lgetWord) fun k => (k.setL 7 0xFFFFFFFF#32).setA 31 0xFFFFFFFFFFFFFFFF#64) with
      | .next t => (t.core 5).ra 31 == 0xFFFFFFFF#64
      | _ => false) = true := by rfl
theorem witness_ScalarRegisterResults_lget :
    let s := atWord (encodeS 0x0E#8 lgetWord) id
    lgetWord.a.toNat < 8 ∧ AtInsn s 5 (encodeS 0x0E#8 lgetWord) ∧ Free s 5 [lgetWord.d.toNat] [] [] :=
  ⟨by decide, ⟨rfl, rfl⟩, ⟨rfl, rfl⟩⟩
def fsetWord : SF := ⟨0, 7, 0, 0, 0, 1⟩
theorem witness_ScalarRegisterResults_fset :
    let s := atWord (encodeS 0x0F#8 fsetWord) id
    fsetWord = ⟨0, fsetWord.d, 0, 0, 0, if true then 1 else 0⟩ ∧ fsetWord.d.toNat < 8 ∧ AtInsn s 5 (encodeS 0x0F#8 fsetWord) ∧
      Free s 5 [] [] [.freg fsetWord.d.toNat] := ⟨rfl, by decide, ⟨rfl, rfl⟩, ⟨rfl, rfl⟩⟩
def tsetWord : SF := ⟨0, 15, 3, 0, 0, 0⟩
/-- A BF16 tile at offset 32. -/
def tileBf16 : BitVec 64 := 0x1000020#64
theorem test_tset_stores :
    (match exec (.tset 5 tsetWord) (atWord (encodeS 0x10#8 tsetWord) fun k => k.setA 3 tileBf16) with
      | .next t => (t.core 5).rt 15 == tileBf16 && !t.flt.active
      | _ => false) = true := by rfl
theorem test_tset_refuses_format_0 :
    (match exec (.tset 5 tsetWord) (atWord (encodeS 0x10#8 tsetWord) id) with
      | .next t => (t.core 5).rt 15 == 0#64 && t.flt.active && (t.core 5).halted
      | _ => false) = true := by rfl
theorem witness_ScalarRegisterResults_tset :
    let s := atWord (encodeS 0x10#8 tsetWord) fun k => k.setA 3 tileBf16
    tsetWord.d.toNat < 16 ∧ tileOk ((s.core 5).ra tsetWord.a.toNat) = true ∧ AtInsn s 5 (encodeS 0x10#8 tsetWord) ∧
      Free s 5 [tsetWord.a.toNat] [] [] := ⟨by decide, rfl, ⟨rfl, rfl⟩, ⟨rfl, rfl⟩⟩
def tgetWord : SF := ⟨0, 31, 15, 0, 0, 0⟩
theorem witness_ScalarRegisterResults_tget :
    let s := atWord (encodeS 0x11#8 tgetWord) id
    tgetWord.a.toNat < 16 ∧ AtInsn s 5 (encodeS 0x11#8 tgetWord) ∧ Free s 5 [tgetWord.d.toNat] [] [] :=
  ⟨by decide, ⟨rfl, rfl⟩, ⟨rfl, rfl⟩⟩
def toffWord : SF := ⟨0, 15, 3, 0, 0, 0xFFFFFFE0⟩
theorem test_toff_negative_imm :
    (match exec (.toff 5 toffWord) (atWord (encodeS 0x12#8 toffWord) fun k => (k.setA 3 0x40#64).setT 15 tileBf16) with
      | .next t => (t.core 5).rt 15 == 0x1000020#64
      | _ => false) = true := by rfl
theorem witness_ScalarRegisterResults_toff :
    let s := atWord (encodeS 0x12#8 toffWord) fun k => (k.setA 3 0x40#64).setT 15 tileBf16
    toffWord.d.toNat < 16 ∧ (((s.core 5).ra toffWord.a.toNat).toNat : Int) + toffWord.imm.toInt = (32 : Nat) ∧
      tFmt ((s.core 5).rt toffWord.d.toNat) ≠ 0 ∧ AtInsn s 5 (encodeS 0x12#8 toffWord) ∧ Free s 5 [toffWord.a.toNat] [] [] :=
  ⟨by decide, rfl, by decide, ⟨rfl, rfl⟩, ⟨rfl, rfl⟩⟩
def tsbWord : SF := ⟨0, 15, 3, 0, 0, 2047⟩
theorem witness_ScalarRegisterResults_tsb :
    let s := atWord (encodeS 0x13#8 tsbWord) fun k => k.setT 15 tileBf16
    tsbWord.d.toNat < 16 ∧ (((s.core 5).ra tsbWord.a.toNat).toNat : Int) + tsbWord.imm.toInt = (2047 : Nat) ∧
      tFmt ((s.core 5).rt tsbWord.d.toNat) ≠ 0 ∧ AtInsn s 5 (encodeS 0x13#8 tsbWord) ∧ Free s 5 [tsbWord.a.toNat] [] [] :=
  ⟨by decide, rfl, by decide, ⟨rfl, rfl⟩, ⟨rfl, rfl⟩⟩

def brWord : SF := ⟨0, 0, 0, 0, 0, 0xFFFFFFFF⟩
theorem test_br_back :
    (match exec (.br 5 brWord) (atWord (encodeS 0x04#8 brWord) id) with | .next t => (t.core 5).pc == 0 | _ => false) = true := by rfl
theorem witness_BranchesGoWhereR126Says_br :
    let s := atWord (encodeS 0x04#8 brWord) id
    ((s.core 5).pc : Int) + brWord.imm.toInt = (0 : Nat) ∧ 0 < (s.core 5).code.length ∧ AtInsn s 5 (encodeS 0x04#8 brWord) :=
  ⟨rfl, by decide, ⟨rfl, rfl⟩⟩
theorem witness_BranchesGoWhereR126Says_br_outside :
    let w : SF := ⟨0, 0, 0, 0, 0, 2⟩
    let s := atWord (encodeS 0x04#8 w) id
    ((s.core 5).code.length : Int) ≤ ((s.core 5).pc : Int) + w.imm.toInt ∧ AtInsn s 5 (encodeS 0x04#8 w) :=
  ⟨by decide, ⟨rfl, rfl⟩⟩
def braWord : SF := ⟨3, 0, 31, 0, 0, 1⟩
theorem witness_BranchesGoWhereR126Says_bra :
    let s := atWord (encodeS 0x05#8 braWord) id
    ((s.core 5).pc : Int) + braWord.imm.toInt = (2 : Nat) ∧ 2 < (s.core 5).code.length ∧ AtInsn s 5 (encodeS 0x05#8 braWord) ∧
      Free s 5 [braWord.a.toNat] [] [] := ⟨rfl, by decide, ⟨rfl, rfl⟩, ⟨rfl, rfl⟩⟩
theorem witness_BranchesGoWhereR126Says_bra_outside :
    let w : SF := ⟨0, 0, 31, 0, 0, 0xFFFFFFFE⟩
    let s := atWord (encodeS 0x05#8 w) id
    ((s.core 5).pc : Int) + w.imm.toInt < 0 ∧ w.fn.toNat ≤ 3 ∧ AtInsn s 5 (encodeS 0x05#8 w) ∧ Free s 5 [w.a.toNat] [] [] :=
  ⟨by decide, by decide, ⟨rfl, rfl⟩, ⟨rfl, rfl⟩⟩
def brfWord : SF := ⟨1, 7, 0, 0, 0, 1⟩
theorem test_brf_not_taken :
    (match exec (.brf 5 ⟨1, 7, 0, 0, 0, 0⟩) (atWord (encodeS 0x06#8 ⟨1, 7, 0, 0, 0, 0⟩) id) with
      | .next t => (t.core 5).pc == 2
      | _ => false) = true := by rfl
theorem witness_BranchesGoWhereR126Says_brf :
    let s := atWord (encodeS 0x06#8 brfWord) id
    ((s.core 5).pc : Int) + brfWord.imm.toInt = (2 : Nat) ∧ 2 < (s.core 5).code.length ∧ brfWord.d.toNat < 8 ∧
      AtInsn s 5 (encodeS 0x06#8 brfWord) ∧ Free s 5 [] [.freg brfWord.d.toNat] [] := ⟨rfl, by decide, by decide, ⟨rfl, rfl⟩, ⟨rfl, rfl⟩⟩
theorem witness_BranchesGoWhereR126Says_brf_outside :
    let w : SF := ⟨0, 7, 0, 0, 0, 2⟩
    let s := atWord (encodeS 0x06#8 w) id
    ((s.core 5).code.length : Int) ≤ ((s.core 5).pc : Int) + w.imm.toInt ∧ w.d.toNat < 8 ∧ AtInsn s 5 (encodeS 0x06#8 w) ∧
      Free s 5 [] [.freg w.d.toNat] [] := ⟨by decide, by decide, ⟨rfl, rfl⟩, ⟨rfl, rfl⟩⟩
def loopWord : SF := ⟨0, 7, 0, 0, 0, 0xFFFFFFFF⟩
theorem test_loop_last_turn :
    (match exec (.loop 5 loopWord) (atWord (encodeS 0x07#8 loopWord) fun k => k.setL 7 1#32) with
      | .next t => (t.core 5).pc == 2 && (t.core 5).rl 7 == 0#32
      | _ => false) = true := by rfl
theorem witness_BranchesGoWhereR126Says_loop :
    let s := atWord (encodeS 0x07#8 loopWord) fun k => k.setL 7 1#32
    ((s.core 5).pc : Int) + loopWord.imm.toInt = (0 : Nat) ∧ loopWord.d.toNat < 8 ∧ (s.core 5).rl loopWord.d.toNat ≠ 0 ∧
      AtInsn s 5 (encodeS 0x07#8 loopWord) := ⟨rfl, by decide, by decide, ⟨rfl, rfl⟩⟩
theorem witness_BranchesGoWhereR126Says_loop_zero :
    let s := atWord (encodeS 0x07#8 loopWord) id
    ((s.core 5).pc : Int) + loopWord.imm.toInt = (0 : Nat) ∧ (s.core 5).rl loopWord.d.toNat = 0 ∧ AtInsn s 5 (encodeS 0x07#8 loopWord) :=
  ⟨rfl, rfl, ⟨rfl, rfl⟩⟩
theorem witness_BranchesGoWhereR126Says_loop_outside :
    let w : SF := ⟨0, 7, 0, 0, 0, 2⟩
    let s := atWord (encodeS 0x07#8 w) id
    ((s.core 5).code.length : Int) ≤ ((s.core 5).pc : Int) + w.imm.toInt ∧ w.d.toNat < 8 ∧ AtInsn s 5 (encodeS 0x07#8 w) :=
  ⟨by decide, by decide, ⟨rfl, rfl⟩⟩

/-! ## ALD, AST, semaphores, blocks, layers and trackers (05 R119 to R145) -/

def aldWord : SF := ⟨0, 2, 1, 0, 0, 8⟩
def astWord : SF := ⟨0, 0, 1, 3, 0, 8⟩
/-- A core whose A1 points at device address 5 * 0x800000 + 0x5FFFF0, so that +8 is the last word of its store. -/
def atStore (w : BitVec 64) : State := atWord w fun k => k.setA 1 0x2DFFFF0#64
theorem test_ald_last_word :
    (match exec (.ald 5 aldWord) { atStore (encodeS 0x0B#8 aldWord) with mem := [(0x2DFFFF8, 7#8), (0x2DFFFFF, 1#8)] } with
      | .next t => (t.core 5).ra 2 == 0x0100000000000007#64
      | _ => false) = true := by rfl
theorem test_ast_last_word :
    (match exec (.ast 5 astWord) ((atStore (encodeS 0x0C#8 astWord)).modCore 5 fun k => k.setA 3 0x0102#64) with
      | .next t => t.mem == [(0x2DFFFF8, 2#8), (0x2DFFFF9, 1#8)]
      | _ => false) = true := by rfl
theorem witness_TileFieldsAndRegisterAccesses_own :
    let s := atStore (encodeS 0x0B#8 aldWord)
    let u := atStore (encodeS 0x0C#8 astWord)
    (AtInsn s 5 (encodeS 0x0B#8 aldWord) ∧ Free s 5 [1, 2] [] [] ∧ ((s.core 5).ra 1 + aldWord.imm.signExtend 64).toNat = 5 * 0x800000 + 0x5FFFF8 ∧
      s.coreExists 5 = true ∧ CleanStore s ∧ Free s 5 [] [.store 0x5FFFF8 8] []) ∧
    (AtInsn u 5 (encodeS 0x0C#8 astWord) ∧ Free u 5 [1, 3] [] [] ∧ ((u.core 5).ra 1 + astWord.imm.signExtend 64).toNat = 5 * 0x800000 + 0x5FFFF8 ∧
      u.coreExists 5 = true ∧ CleanStore u ∧ Free u 5 [] [] [.store 0x5FFFF8 8]) :=
  ⟨⟨⟨rfl, rfl⟩, ⟨rfl, rfl⟩, rfl, rfl, ⟨rfl, rfl, rfl⟩, ⟨rfl, rfl⟩⟩, ⟨⟨rfl, rfl⟩, ⟨rfl, rfl⟩, rfl, rfl, ⟨rfl, rfl, rfl⟩, ⟨rfl, rfl⟩⟩⟩
theorem witness_TileFieldsAndRegisterAccesses_alias :
    let s := atWord (encodeS 0x0B#8 aldWord) fun k => k.setA 1 0xE00000000000#64
    ((s.core 5).ra 1 + aldWord.imm.signExtend 64).toNat = 0xE00000000000 + 8 ∧ AtInsn s 5 (encodeS 0x0B#8 aldWord) := ⟨rfl, ⟨rfl, rfl⟩⟩
theorem witness_TileFieldsAndRegisterAccesses_remote :
    let s := atWord (encodeS 0x0B#8 aldWord) fun k => k.setA 1 0x2FFFFF8#64
    let u := atWord (encodeS 0x0C#8 astWord) fun k => k.setA 1 0x2FFFFF8#64
    (s.reach 5 0x3000000 8 false true = some 0x3000000 ∧ s.localAddr 5 0x3000000 = false ∧ AtInsn s 5 (encodeS 0x0B#8 aldWord)) ∧
    (u.reach 5 0x3000000 8 true false = some 0x3000000 ∧ u.localAddr 5 0x3000000 = false ∧ AtInsn u 5 (encodeS 0x0C#8 astWord)) :=
  ⟨⟨rfl, rfl, ⟨rfl, rfl⟩⟩, ⟨rfl, rfl, ⟨rfl, rfl⟩⟩⟩
theorem witness_TileFieldsAndRegisterAccesses_misaligned :
    let s := atWord (encodeS 0x0B#8 aldWord) fun k => k.setA 1 1#64
    ((s.core 5).ra 1 + aldWord.imm.signExtend 64).toNat % 8 ≠ 0 ∧ AtInsn s 5 (encodeS 0x0B#8 aldWord) ∧ Free s 5 [1, 2] [] [] :=
  ⟨by decide, ⟨rfl, rfl⟩, ⟨rfl, rfl⟩⟩

theorem test_undefined_opcode_faults :
    (match exec (.nop 5 nopWord) (atWord 0xFF00000000000000#64 id) with
      | .next t => (t.core 5).halted && t.flt.active && (t.record 0).cls == 0x106 && (t.record 0).instr == 0xFF00000000000000#64
      | _ => false) = true := by rfl
theorem witness_IllegalInstructionsOnlyFault :
    let s := atWord 0xFF00000000000000#64 id
    s.flt.active = false ∧ s.mayIssue 5 = true ∧ (s.core 5).code[(s.core 5).pc]? = some 0xFF00000000000000#64 ∧
      opcodeDefined ((0xFF00000000000000#64).extractLsb' 56 8) = false := ⟨rfl, rfl, rfl, rfl⟩
theorem witness_IllegalInstructionsOnlyFault_fields (op : BitVec 8) (w : SF) : AtInsn (atWord (encodeS op w) id) 5 (encodeS op w) :=
  ⟨rfl, rfl⟩
theorem witness_IllegalInstructionsOnlyFault_tile :
    tFmt 0x4000020#64 = 0 ∧ tFmt 0x3800000#64 = 7 ∧ tOrder 0x6001000000#64 = 3 ∧ tOffset 0x1000001#64 % 32 ≠ 0 ∧
      2 ^ 55 ≤ (0x80000001000000#64).toNat ∧ Free (atWord (encodeS 0x10#8 tsetWord) id) 5 [tsetWord.a.toNat] [] [] :=
  ⟨rfl, rfl, rfl, by decide, by decide, ⟨rfl, rfl⟩⟩

/-! ### Semaphores (05 R144, R145) -/

def sincWord : SF := ⟨0, 0, 1, 0, 0, 255⟩
def swaitWord : SF := ⟨1, 0, 1, 0, 0, 255⟩
def stryWord : SF := ⟨0, 7, 1, 0, 0, 255⟩
def srdWord : SF := ⟨0, 31, 0, 0, 0, 255⟩
/-- A core at a word with A1 = 2 and semaphore 255 of its context at `v`. -/
def atSem (w : BitVec 64) (v : BitVec 32) : State := (atWord w fun k => k.setA 1 2#64).setSem 3 255 v
set_option maxRecDepth 20000 in
/-- A read of a semaphore takes its turn, and the register has its value when the queue is empty again (05 R144). -/
theorem test_srd_reads :
    (match exec (.srd 5 srdWord) (atSem (encodeS 0x34#8 srdWord) 9#32) with
      | .next t => (t.core 5).ra 31 == 9#64 && (t.core 5).dq.isEmpty
      | _ => false) = true := by rfl
theorem test_sinc_adds :
    (match exec (.sinc 5 sincWord) (atSem (encodeS 0x31#8 sincWord) 0xFFFFFFFD#32) with
      | .next t => t.sem 3 255 == 0xFFFFFFFF#32 && !t.flt.active
      | _ => false) = true := by rfl
set_option maxRecDepth 20000 in
theorem test_stry_too_small :
    (match exec (.stry 5 stryWord) (atSem (encodeS 0x33#8 stryWord) 1#32) with
      | .next t => t.sem 3 255 == 1#32 && !(t.core 5).rf 7
      | _ => false) = true := by rfl
theorem idle_atWord (w : BitVec 64) : IdleCore ((atSem w 0#32).core 5) := ⟨rfl, rfl, rfl, rfl, rfl, rfl, rfl, rfl⟩
theorem noWaiter_atSem (w : BitVec 64) (v : BitVec 32) : NoWaiter (atSem w v) 3 255 := fun x => by
  by_cases h : x = 5
  · subst h; rfl
  · have e : (atSem w v).core x = ({} : Core) := by
      show SMap.get ({} : Core) [(5, _)] x = {}
      simp [SMap.get, Ne.symm h]
    simp [State.waitsOn, e]
theorem witness_SemaphoresBlocksLayersAndEnd_sems :
    let s := atSem (encodeS 0x31#8 sincWord) 0xFFFFFFFD#32
    let u := atSem (encodeS 0x31#8 sincWord) 0xFFFFFFFE#32
    (AtInsn s 5 (encodeS 0x31#8 sincWord) ∧ (s.core 5).ctx = some 3 ∧ (s.core 5).layer = none ∧ (s.sem 3 255).toNat + 2 < 2 ^ 32) ∧
    2 ^ 32 ≤ (u.sem 3 255).toNat + 2 ∧
    AtInsn (atSem (encodeS 0x32#8 swaitWord) 0) 5 (encodeS 0x32#8 swaitWord) ∧
    AtInsn (atSem (encodeS 0x33#8 stryWord) 2) 5 (encodeS 0x33#8 stryWord) ∧
    AtInsn (atSem (encodeS 0x34#8 srdWord) 2) 5 (encodeS 0x34#8 srdWord) :=
  ⟨⟨⟨rfl, rfl⟩, rfl, rfl, by decide⟩, by decide, ⟨rfl, rfl⟩, ⟨rfl, rfl⟩, ⟨rfl, rfl⟩⟩
/-- A fourth queue that is full of increments. -/
theorem witness_SemaphoresBlocksLayersAndEnd_full :
    let e : QEntry := { seq := 0, pc := 0, word := 0#64, work := .sinc 255 1#32, reads := [], writes := [], phase := 0 }
    let s := (atSem (encodeS 0x32#8 swaitWord) 0).modCore 5 fun k => { k with dq := List.replicate 16 e }
    AtInsn s 5 (encodeS 0x32#8 swaitWord) ∧ Free s 5 [1] [] [] ∧ (s.core 5).vq = [] ∧ (s.core 5).dq.length = 16 :=
  ⟨⟨rfl, rfl⟩, ⟨rfl, rfl⟩, rfl, rfl⟩
theorem witness_SemaphoresBlocksLayersAndEnd_grant :
    let u := fun dec => ({ sem := 255, amount := 2, dec := dec, blk := false, cls := 0, word := 0 } : SemWait)
    let s := fun dec v => (atSem 0#64 v).modCore 5 fun k => { k with wait := some (u dec) }
    (s true 2#32).live = true ∧ (s true 2#32).waitsOn 3 255 5 = some (u true) ∧ (s false 1#32).waitsOn 3 255 5 = some (u false) ∧
      ((s true 2#32).core 5).layer = none ∧ ∀ x ∈ [0, 4, 6, 319], (s true 2#32).waitsOn 3 255 x = none :=
  ⟨rfl, rfl, rfl, rfl, by decide⟩
/-- A core that waits at a BLK of class 6 for 2, which the value meets or does not. -/
theorem witness_SemaphoresBlocksLayersAndEnd_grant_block :
    let u : SemWait := { sem := 255, amount := 2, dec := false, blk := true, cls := 6, word := encodeS 0x01#8 ⟨14, 0, 1, 0, 0, 255⟩ }
    let s := fun v => (atSem 0#64 v).modCore 5 fun k => { k with wait := some u }
    (s 2#32).live = true ∧ (s 2#32).waitsOn 3 255 5 = some u ∧ u.blk = true ∧ ((s 2#32).core 5).layer = none ∧
      u.amount.toNat ≤ ((s 2#32).sem 3 255).toNat ∧ ((s 1#32).sem 3 255).toNat < u.amount.toNat := ⟨rfl, rfl, rfl, rfl, by decide, by decide⟩
def layer9 : LayerRun :=
  { id := 9, seq := 0, blkPc := 0, slotsPO := [], rerun := false, done := false, incs := [], decs := [], produced := [], pending := false }
theorem witness_SemaphoresBlocksLayersAndEnd_blocks :
    let blk : SF := ⟨6, 0, 0, 0, 0, 0⟩
    let blkWait : SF := ⟨24, 0, 1, 0, 0, 255⟩
    let lay : SF := ⟨0, 0, 0, 0, 0, 9⟩
    let layEnd : SF := ⟨1, 0, 0, 0, 0, 9⟩
    (AtInsn (atWord (encodeS 0x01#8 blk) id) 5 (encodeS 0x01#8 blk) ∧ ((atWord (encodeS 0x01#8 blk) id).quarter 0).phase ≠ 1) ∧
    (AtInsn (atSem (encodeS 0x01#8 blkWait) 0) 5 (encodeS 0x01#8 blkWait) ∧ Free (atSem (encodeS 0x01#8 blkWait) 0) 5 [1] [] []) ∧
    (let s := (atWord (encodeS 0x01#8 blk) id).setQuarter 0 { phase := 1 }
     AtInsn s 5 (encodeS 0x01#8 blk) ∧ (s.quarter (5 / 80)).phase = 1) ∧
    (let s := atWord (encodeS 0x03#8 lay) fun k => { k with afterBlk := true }
     AtInsn s 5 (encodeS 0x03#8 lay) ∧ (s.core 5).layer = none ∧ (s.core 5).afterBlk = true) ∧
    (let s := atWord (encodeS 0x03#8 layEnd) fun k => { k with layer := some layer9 }
     AtInsn s 5 (encodeS 0x03#8 layEnd) ∧ ∃ l, (s.core 5).layer = some l ∧ l.id = layEnd.imm) ∧
    (let s := atWord (encodeS 0x02#8 ⟨0, 0, 0, 0, 0, 0⟩) id
     AtInsn s 5 (encodeS 0x02#8 ⟨0, 0, 0, 0, 0, 0⟩) ∧ (∀ i, i < 8 → (s.core 5).slotPO i = none) ∧ (s.core 5).owe0 = false ∧ (s.core 5).owe1 = false) :=
  ⟨⟨⟨rfl, rfl⟩, by decide⟩, ⟨⟨rfl, rfl⟩, ⟨rfl, rfl⟩⟩, ⟨⟨rfl, rfl⟩, rfl⟩, ⟨⟨rfl, rfl⟩, rfl, rfl⟩, ⟨⟨rfl, rfl⟩, _, rfl, rfl⟩,
    ⟨⟨rfl, rfl⟩, by decide, rfl, rfl⟩⟩

/-! ### Tracker slots (05 R142, 03 R58, R68) -/

def topenWord : SF := ⟨0, 7, 1, 2, 0, 4096⟩
def tcloseWord : SF := ⟨0, 7, 0, 0, 0, 0⟩
def slot9 : Slot :=
  { tid := 9, perChan := false, shOff := 0, shSize := 4096, chans := 0, amax := [], elements := 0, saturated := 0, underflow := 0, nonfinite := 0,
    tiles := 0, rerun := false }
/-- A program with nothing in it. -/
def prog0 : Prog := { addr := 0, len := 0, codeOff := 0, codeLen := 0, tasks := [], rules := [], layers := [], stages := [], recipe := { compat := false, initLs := 0, cleanRun := 0, rows := [] } }
theorem witness_TrackerSlotsOpenCloseAndMerge :
    (let s := (atWord (encodeS 0x68#8 topenWord) fun k => k.setA 1 9#64).modCtx 3 fun k => k.modRec 9#32 id
     AtInsn s 5 (encodeS 0x68#8 topenWord) ∧ (s.core 5).slotPO 7 = none ∧ (s.core 5).layer = none ∧ ((s.ctx 3).rec? 9#32).isSome = true) ∧
    (let s := atWord (encodeS 0x69#8 tcloseWord) fun k => (k.setSlotPO 7 (some 9#32)).setSlot 7 (some slot9)
     AtInsn s 5 (encodeS 0x69#8 tcloseWord) ∧ (s.core 5).slotPO 7 = some slot9.tid ∧ (s.core 5).slot 7 = some slot9 ∧ slot9.rerun = false ∧
       s.closeLate 5 3 9#32 = false) ∧
    (let s := (atWord 0#64 id).modCtx 3 fun k => { k with mergeQ := [{ slot := slot9, core := 5, run := 1, seq := 0 }] }
     (s.ctx 3).mergeQ = [{ slot := slot9, core := 5, run := 1, seq := 0 }] ∧ (s.core 5).layer = none) ∧
    (let s := (atWord 0#64 id).modCtx 3 fun k => { k with prog := some prog0 }
     (s.ctx 3).inStep = false ∧ (s.ctx 3).prog ≠ none ∧ CleanStore s ∧ (s.ctx 3).saved = []) ∧
    (let s := (((atWord 0#64 id).modCtx 3 fun k => { k with prog := some prog0 }).modQuarter 0 fun q => { q with cur := some 3 }).modCore 5 fun k => { k with task := none }
     (s.ctx 3).inStep = false ∧ (s.ctx 3).prog ≠ none ∧ (s.ctx 3).formed ≠ some ((s.ctx 3).step.applied + 1) ∧ s.coreExists 5 = true ∧
       (s.core 5).task = none ∧ (s.quarter (5 / 80)).cur = some 3 ∧ (s.quarter (5 / 80)).phase ≠ 3) :=
  ⟨⟨⟨rfl, rfl⟩, rfl, rfl, rfl⟩, ⟨⟨rfl, rfl⟩, rfl, rfl, rfl, rfl⟩, ⟨rfl, rfl⟩, ⟨rfl, by decide, ⟨rfl, rfl, rfl⟩, rfl⟩, ⟨rfl, by decide, by decide, rfl, rfl, rfl, by decide⟩⟩
/-- The example of 03 after R68: scales 32 and 128 give a descale of 2^-12, and the later 32 and 32 one of 2^-10. -/
theorem test_descales_of_the_example :
    descaleOf 0x42000000#32 0x43000000#32 = (0x39800000#32, {}) ∧ descaleOf 0x42000000#32 0x42000000#32 = (0x3A800000#32, {}) := by decide +kernel
/-- Outside the normal range a descale is subnormal, zero, or an infinity with its flag (03 R55). -/
theorem test_descales_out_of_range :
    descaleOf (pow2F32 127) (pow2F32 0) = (0x00400000#32, {}) ∧ descaleOf (pow2F32 127) (pow2F32 127) = (0#32, {}) ∧
    descaleOf (pow2F32 (-126)) (pow2F32 (-2)) = (0x7F800000#32, { ovf := true }) ∧
    descaleOf (pow2F32 (-126)) (pow2F32 (-1)) = (pow2F32 127, {}) ∧ descaleOf (pow2F32 127) (pow2F32 (-1)) = (pow2F32 (-126), {}) := by decide +kernel
/-- The last channel of a product at the last base is register 2,047 (03 R54). -/
theorem witness_TrackerSlotsOpenCloseAndMerge_product :
    let p : Product := { base := 1984, a := 1, b := 2, chan := 0 }
    ((({} : Core).putDescales (State.reset.productDescales 3 ({} : Ctx).nextUse p)).s.length = 0) ∧ p.base.val + 63 = 2047 := by decide +kernel

/-! ## Number formats (02) -/

/-- The rows of the table of worked rounding cases in 02: the input's FP32 bits, the target, the result's bits and what is recorded. -/
def narrows (x : F32) (f r : Nat) (ev : Ev) : Bool := narrowNum f (f32 x) == (r, ev)
theorem test_rounding_cases_16_bits :
    narrows 0x3F808000#32 2 0x3F81 {} && narrows 0xBF818000#32 2 0xBF82 {} && narrows 0x3F801000#32 3 0x3C01 {} &&
    narrows 0x477FF000#32 3 0x7BFF { sat := 1 } = true := by rfl
theorem test_rounding_cases_8_bits :
    narrows 0x3F880000#32 4 0x39 {} && narrows 0x43F7C000#32 4 0x7F {} && narrows 0x43F80000#32 4 0x7F { sat := 1 } &&
    narrows 0x3A800000#32 4 0x01 {} && narrows 0xBA400000#32 4 0x00 {} && narrows 0x47F00000#32 5 0x7F { sat := 1 } = true := by rfl
theorem test_rounding_cases_4_bits :
    narrows 0x40200000#32 6 0b0101 {} && narrows 0x40E00000#32 6 0b0111 { sat := 1 } && narrows 0xBE800000#32 6 0b1001 {} &&
    narrows 0xBE4CCCCD#32 6 0b1000 {} = true := by rfl
theorem test_rounding_cases_special :
    narrows 0x7F800000#32 4 0x7F { ovf := true, sat := 1 } && narrows 0x7FC00000#32 6 0b1111 { inv := true } = true := by rfl
/-- The example of 02 after R44: 1.0 and a product of -2^-24. -/
theorem test_accumulation_floors : accNum (f32 0x3F800000#32) (.fin true 1 (-24)) = (0x3F7FFFFE#32, {}) := by decide
/-- The activation and the weight of the example of 03 after R68: 169.6 in N8a is 176, code 0x73; 2.7008 is 2.75, code 0x43. -/
theorem test_example_codes : narrows 0x4329999A#32 4 0x73 {} && narrows 0x402CD9E8#32 4 0x43 {} = true := by rfl
/-- The example of 07 after R171: with u = 0x4000 the offcut becomes -75, with u = 0x8000 it becomes -74. -/
theorem test_commit_example :
    commitWeight 0x3F80 37 0x3B908000#32 0x4000 = (0x3F81, -75, false, {}) ∧
    commitWeight 0x3F80 37 0x3B908000#32 0x8000 = (0x3F81, -74, false, {}) := ⟨rfl, rfl⟩

theorem witness_NarrowingRoundsToNearestTiesAway : 2 ≤ 2 ∧ 2 ≤ 6 ∧ 6 ≤ 6 ∧ 0 < 1 := by decide
theorem witness_SpecialInputsAndWidening :
    (narrowNum 6 (.fin true 1 (-9))).1 = 8 ∧ (∃ e, decodeFmt 6 8 = .fin true 0 e) ∧ 0x7BFF < 2 ^ fmtBits 3 ∧ (decodeFmt 3 0x7BFF).Finite :=
  ⟨rfl, ⟨_, rfl⟩, by decide, _, _, _, rfl⟩
theorem witness_AccumulationFloorsToItsGrid : f32 0x7F7FFFFF#32 = .fin false 0xFFFFFF 104 ∧ f32 0x80000000#32 = .fin true 0 (-149) := by decide
theorem witness_ChainNeverExceedsExactSum (ps : List Machine.Num) (h : ps = [.fin true 1 (-24)]) :
    ps ≠ [] ∧ (∀ p ∈ ps, p.Finite) ∧ accChain 0x3F800000#32 ps = [0x3F800000#32, 0x3F7FFFFE#32] ∧
      (f32 0x3F800000#32).Finite ∧ (f32 0x3F7FFFFE#32).Finite := by
  subst h
  refine ⟨by simp, ?_, ?_, ⟨_, _, _, rfl⟩, ⟨_, _, _, rfl⟩⟩
  · intro p hp; simp at hp; subst hp; exact ⟨_, _, _, rfl⟩
  · simp only [accChain, test_accumulation_floors]
theorem witness_SpecialInputsAndWidening_operands :
    decodeFmt 4 0x80 = .nan ∧ decodeFmt 2 0x7F80 = .inf false ∧ decodeFmt 2 0x8000 = .fin true 0 (-133) ∧ f32 0xFF800000#32 = .inf true ∧
      f32 0x7FC00000#32 = .nan ∧ (decodeFmt 2 0x7F7F).Finite := ⟨rfl, rfl, rfl, rfl, rfl, _, _, _, rfl⟩
theorem witness_WeightCommit : (0xFFFF < 2 ^ 16) ∧ (decodeFmt 2 0xFF7F).Finite ∧ (f32 0x3B908000#32).Finite ∧
    ((-128 : Int) ≤ -128 ∧ (127 : Int) ≤ 127) ∧ decodeFmt 2 0x7F80 = .inf false := ⟨by decide, ⟨_, _, _, rfl⟩, ⟨_, _, _, rfl⟩, by decide, rfl⟩
theorem witness_TrackerSlotsOpenCloseAndMerge_exponent : log2Ratio 480 0 12 0 = 5 ∧ log2Ratio 480 0 9 0 = 5 ∧ log2Ratio 480 0 37 0 = 3 := ⟨rfl, rfl, rfl⟩

/-- 02 R39: a tie goes to the even code, and a sum beyond the largest code is an infinity that is recorded. -/
theorem test_sums_round_to_even :
    fadd 0x3F800000#32 0x33800000#32 = (0x3F800000#32, {}) ∧ fadd 0x3F800001#32 0x33800000#32 = (0x3F800002#32, {}) ∧
      fadd 0x7F7FFFFF#32 0x7F7FFFFF#32 = (0x7F800000#32, { ovf := true }) := by decide +kernel
/-- 02 R39: the product and the sum of a fused operation round once: (1 + 2^-23)^2 - (1 + 2^-22) is 2^-46. -/
theorem test_fused_rounds_once : ffma 0x3F800001#32 0x3F800001#32 0xBF800002#32 = (0x28800000#32, {}) := by decide +kernel
theorem witness_VectorArithmeticRoundsOnce :
    (f32 0x80000001#32).Finite ∧ (f32 0x7F7FFFFF#32).Finite ∧ f32 0x7FC00000#32 = .nan ∧ f32 0xFF800000#32 = .inf true ∧
      f32 0x80000000#32 = .fin true 0 (-149) ∧ mulNum (f32 0xFF800000#32) (f32 0x3F800000#32) = some (.inf true) :=
  ⟨⟨_, _, _, rfl⟩, ⟨_, _, _, rfl⟩, rfl, rfl, rfl, rfl⟩
/-- 05 R137, R138: the sigmoid of 1 and its derivative, rounded by hand. -/
theorem test_sigmoid_at_1 :
    actF 2 0x3F800000#32 = (0x3F3B26A8#32, {}) ∧ actLane 2 2 0#32 0x3F800000#32 0x3F800000#32 = (0x3E4954A3#32, {}) := by decide +kernel
theorem witness_ActivationValues :
    1 ≤ 11 ∧ f32 0x7FC00000#32 = .nan ∧ (f32 0xC0000000#32).Finite ∧ (f32 0xC0000000#32).val < 0 ∧ (f32 0x3F000000#32).Finite ∧
      0 < (f32 0x3F000000#32).val :=
  ⟨by decide, rfl, ⟨_, _, _, rfl⟩, by decide +kernel, ⟨_, _, _, rfl⟩, by decide +kernel⟩

/-! ## The queues of a core (04, 05 R128 to R148) -/

/-- Core 5 at a layout-V word, with A1 at the last 4 KiB of its store. -/
def atVec (w : BitVec 64) : State := atWord w fun k => (k.setA 1 0x5FFC00#64).setA 2 0x80#64
/-- The operands of a layout-V instruction whose runs end at the end of the core store. -/
def vecGood (op : VecOp) (opc : BitVec 8) (w : VF) : Prop :=
  let s := atVec (encodeV opc w)
  let v := (s.core 5).vecWork op w
  AtInsn s 5 (encodeV opc w) ∧ Free s 5 (vecRegs op w) [] [] ∧ (v.readRuns ++ v.writeRuns false).all rangeOk = true ∧ CleanStore s
theorem idle_atVec (w : BitVec 64) : IdleCore ((atVec w).core 5) := ⟨rfl, rfl, rfl, rfl, rfl, rfl, rfl, rfl⟩
def vopWord : VF := ⟨3, 2, 1, 1, 0, 0, 0⟩
def qntWord : VF := ⟨2, 2, 1, 0, 0, 0, 0⟩
set_option maxRecDepth 20000 in
theorem witness_VectorInstructionsRun :
    (vopFields vopWord = true ∧ vecGood .vop 0x60#8 vopWord) ∧
    (actFields ⟨1, 2, 1, 0, 0, 0, 0⟩ = true ∧ vecGood .act 0x61#8 ⟨1, 2, 1, 0, 0, 0, 0⟩) ∧
    (vredFields ⟨1, 2, 1, 0, 0, 0, 0⟩ = true ∧ vecGood .vred 0x62#8 ⟨1, 2, 1, 0, 0, 0, 0⟩) ∧
    (vanyFields ⟨3, 7, 1, 0, 0, 0, 0⟩ = true ∧ vecGood .vany 0x63#8 ⟨3, 7, 1, 0, 0, 0, 0⟩) ∧
    (widFields ⟨2, 2, 1, 0, 0, 0, 0⟩ = true ∧ vecGood .wid 0x65#8 ⟨2, 2, 1, 0, 0, 0, 0⟩) ∧
    (sldFields ⟨0, 0, 1, 0, 1792, 0, 0⟩ = true ∧ vecGood .sld 0x14#8 ⟨0, 0, 1, 0, 1792, 0, 0⟩) ∧
    (sstFields ⟨0, 1, 0, 0, 1792, 0, 0⟩ = true ∧ vecGood .sst 0x15#8 ⟨0, 1, 0, 0, 1792, 0, 0⟩) ∧
    (qntFields qntWord = true ∧ vecGood .qnt 0x64#8 qntWord) :=
  ⟨⟨rfl, ⟨rfl, rfl⟩, ⟨rfl, rfl⟩, rfl, ⟨rfl, rfl, rfl⟩⟩, ⟨rfl, ⟨rfl, rfl⟩, ⟨rfl, rfl⟩, rfl, ⟨rfl, rfl, rfl⟩⟩,
   ⟨rfl, ⟨rfl, rfl⟩, ⟨rfl, rfl⟩, rfl, ⟨rfl, rfl, rfl⟩⟩, ⟨rfl, ⟨rfl, rfl⟩, ⟨rfl, rfl⟩, rfl, ⟨rfl, rfl, rfl⟩⟩,
   ⟨rfl, ⟨rfl, rfl⟩, ⟨rfl, rfl⟩, rfl, ⟨rfl, rfl, rfl⟩⟩, ⟨rfl, ⟨rfl, rfl⟩, ⟨rfl, rfl⟩, rfl, ⟨rfl, rfl, rfl⟩⟩,
   ⟨rfl, ⟨rfl, rfl⟩, ⟨rfl, rfl⟩, rfl, ⟨rfl, rfl, rfl⟩⟩, ⟨rfl, ⟨rfl, rfl⟩, ⟨rfl, rfl⟩, rfl, ⟨rfl, rfl, rfl⟩⟩⟩
/-- An entry of queue 2. -/
def vecEntry (phase : Nat) : QEntry :=
  { seq := 0, pc := 0, word := 0, work := .vec { op := .vany, f := ⟨0, 0, 0, 0, 0, 0, 0⟩, ra := 0, rb := 0, rd := 0, rc := 0 },
    reads := [], writes := [], phase := phase }
theorem witness_VectorInstructionsRun_full :
    let s := (atVec (encodeV 0x60#8 vopWord)).modCore 5 fun k => { k with vq := List.replicate 16 (vecEntry 1), nextSeq := 16 }
    let k := s.core 5
    k.vq.length = 16 ∧ (∃ e, k.vq.head? = some e ∧ e.phase ≠ 0) ∧ k.dq = [] ∧ AtInsn s 5 (encodeV 0x60#8 vopWord) ∧
      Free s 5 (vecRegs .vop vopWord) [] [] := ⟨rfl, ⟨_, rfl, by decide⟩, rfl, ⟨rfl, rfl⟩, ⟨rfl, rfl⟩⟩
/-- A program with one layer, whose forward copy (tensor 9, a weight) and master (tensor 10) it names, and an SGD rule 3. -/
def prog9 : Prog :=
  { prog0 with
    layers := [{ lid := 1, frozen := false, row := 2, master := 10, fwd := 9, trans := 0xFFFFFFFF }],
    rules := [rule9, rule9, rule9, rule9],
    recipe := { prog0.recipe with rows := [row9] } }
where
  rule9 : Rule := { kind := 1, mfmt := 0, lrx := 0, gfx := 0, bc1x := 0, bc2x := 0, wd := 0, b1 := 0, c1 := 0, b2 := 0, c2 := 0, eps := 0 }
  row9 : RecipeRow := { kind := 2, fmt := 4, hist := 16, margin := 0, texp := 10, uexp := 20, shN := 1, shR := 1, shRun := 1, jit := true,
                        group := false, init := 0x3F800000 }
/-- RUN 1, of a step. -/
def run1 : Run :=
  { id := 1, tag := 0, epoch := 5, step := true, argOff := 0, latched := 0, relFirst := 0, relCount := 0, released := true, replay := false,
    serveIx := 0, scaleIx := 0, tasks := [{ tid := 7, count := 0, st := 1 }], stages := [], reserved := 0, ran := 0, seq := 0, rerun := [] }
/-- Core 5 at a word of its task in a step RUN of that program. -/
def inRun (w : BitVec 64) (f : Core → Core) : State := (atWord w f).modCtx 3 fun k => { k with prog := some prog9, runs := [run1] }
theorem witness_VectorInstructionsRun_jit :
    let w : VF := ⟨4, 2, 1, 0, 0, 0, 1⟩
    let s := inRun (encodeV 0x64#8 w) fun k => (((k.setA 1 0x5FFC00#64).setA 2 0x80#64).setSlotPO 0 (some 9#32)).setSlot 0 (some slot9)
    qntFields w = true ∧ s.qntOk 5 ((s.core 5).vecWork .qnt w) = true ∧ s.qntJit 5 ((s.core 5).vecWork .qnt w) = true ∧
      AtInsn s 5 (encodeV 0x64#8 w) := ⟨rfl, rfl, rfl, ⟨rfl, rfl⟩⟩

set_option maxRecDepth 20000 in
theorem vec_zero : (atVec 0#64).vec 5 0 0 = List.replicate 256 0#32 := by rfl
theorem witness_VectorLanesAndReductions :
    255 < 256 ∧ CleanStore (atVec 0#64) ∧ (⟨1, 0, 1, 0, 0, 0, 0⟩ : VF).n = 1 ∧ (∀ y ∈ (atVec 0#64).vec 5 0 0, (f32 y).Finite) :=
  ⟨by decide, ⟨rfl, rfl, rfl⟩, rfl, fun y h => by
    rw [vec_zero] at h
    rw [(List.mem_replicate.mp h).2]
    exact ⟨_, _, _, rfl⟩⟩
theorem witness_ScaleCopiesAndQuantiser :
    let f : VF := ⟨0, 0, 1, 0, 1793, 0, 0⟩
    let g : VF := ⟨0, 1, 0, 0, 1793, 0, 0⟩
    (2048 < f.x.toNat + 256 * (f.nm1.toNat + 1) ∧ AtInsn (atVec (encodeV 0x14#8 f)) 5 (encodeV 0x14#8 f)) ∧
    (2048 < g.x.toNat + 256 * (g.nm1.toNat + 1) ∧ AtInsn (atVec (encodeV 0x15#8 g)) 5 (encodeV 0x15#8 g)) ∧ CleanStore (atVec 0#64) ∧
    (f32 0x7F7FFFFF#32).Finite ∧ f32 0x7F800000#32 = .inf false :=
  ⟨⟨by decide, ⟨rfl, rfl⟩⟩, ⟨by decide, ⟨rfl, rfl⟩⟩, ⟨rfl, rfl, rfl⟩, ⟨_, _, _, rfl⟩, rfl⟩

/-! ### Matrix instructions -/

def mmaWord (keep : BitVec 1) : MF := ⟨0, 0, keep, 1, 2, 3, 0, 0, 0, 0⟩
/-- Core 5 at an MMA whose operand tiles are BF16 and whose output tile is FP32 in row order. -/
def atMma (w : MF) : State := atWord (encodeM w) fun k => ((k.setT 1 tileBf16).setT 2 tileBf16).setT 3 0x800000#64
def mmaEntry (keep : BitVec 1) : QEntry :=
  { seq := 0, pc := 1, word := encodeM (mmaWord keep), work := .mma (mmaWord keep) tileBf16 tileBf16 0x800000#64 0#64 0, reads := [],
    writes := [], phase := 0 }
def oldMma (keep : BitVec 1) : State := (atMma (mmaWord keep)).modCore 5 fun k => { k with mq0 := [mmaEntry keep], nextSeq := 1 }
def tile9 : ShadowTile := { ctx := 3, run := 1, tid := 9, k := 64, init := [], l := [], r := [], yn := [] }
theorem witness_MatrixInstructionsRun :
    (let s := atMma (mmaWord 0)
     AtInsn s 5 (encodeM (mmaWord 0)) ∧ s.mmaOk 5 (mmaWord 0) tileBf16 tileBf16 0x800000#64 0#64 = true) ∧
    (let w : MF := ⟨0, 3, 0, 1, 2, 3, 0, 0, 0, 0⟩
     AtInsn (atMma w) 5 (encodeM w) ∧ (atMma w).mmaOk 5 w tileBf16 tileBf16 0x800000#64 0#64 = false) ∧
    (let k := (oldMma 1).core 5
     k.queue 0 = [mmaEntry 1] ∧ k.vq = [] ∧ k.dq = [] ∧ k.mq1 = [] ∧ (mmaWord 1).keep = 1 ∧ CleanStore (oldMma 1)) ∧
    (let k := (oldMma 0).core 5
     k.queue 0 = [mmaEntry 0] ∧ k.latch 0 = false ∧ (oldMma 0).shadowRow 5 tileBf16 0x800000#64 = none) ∧
    (let k := ((atWord 0 id).modCore 5 fun k => k.setLatch 1 true).core 5
     k.latch 1 = true ∧ k.held 1 = none ∧ k.vq = [] ∧ k.dq = []) ∧
    (let s := inRun 0#64 fun k => { k with shadow := [tile9] }
     (s.core 5).shadow = [tile9] ∧ (s.ctx tile9.ctx).rowOf tile9.tid ≠ none) :=
  ⟨⟨⟨rfl, rfl⟩, rfl⟩, ⟨⟨rfl, rfl⟩, rfl⟩, ⟨rfl, rfl, rfl, rfl, rfl, ⟨rfl, rfl, rfl⟩⟩, ⟨rfl, rfl, rfl⟩, ⟨rfl, rfl, rfl, rfl⟩, ⟨rfl, by decide⟩⟩
/-- An MMA that completes a narrow tile of an open slot whose shadow buffer is smaller than the tile needs. -/
theorem witness_MatrixInstructionsRun_shadow :
    let e : QEntry := { mmaEntry 0 with work := .mma (mmaWord 0) 0x2000020#64 0x2000020#64 0x40000800000#64 0#64 0 }
    let s := inRun 0#64 fun k => ({ k with mq0 := [e], nextSeq := 1 }).setSlot 0 (some slot9)
    (s.core 5).queue 0 = [e] ∧ s.shadowFault 5 (mmaWord 0) 0x2000020#64 0x2000020#64 0x40000800000#64 0#64 0 = true ∧ CleanStore s :=
  ⟨rfl, rfl, ⟨rfl, rfl, rfl⟩⟩
theorem witness_MatrixCellsAndDrain :
    tFmt 0x800000#64 = 1 ∧ tOrder 0x800000#64 = 0 ∧ 256 ≤ rowStep 0x800000#64 ∧ CleanStore (atMma (mmaWord 0)) ∧
      (List.replicate 4096 (0#32 : F32)).length = 4096 := ⟨rfl, rfl, by decide, ⟨rfl, rfl, rfl⟩, List.length_replicate⟩

/-! ### Completions -/

def updEntry (phase : Nat) : QEntry :=
  { seq := 0, pc := 1, word := 0, work := .upd ⟨3, 1, 2, 3, 4, 5, 6, 0, 0⟩ 0 128 256 384 10 0, reads := [], writes := [], phase := phase }
theorem witness_QueueCompletions :
    (let k := ((atWord 0 id).modCore 5 fun k => { k with vq := [vecEntry 1], nextSeq := 1 }).core 5
     k.vq = [vecEntry 1] ∧ k.dq = [] ∧ (vecEntry 1).phase = 1) ∧
    (let s := inRun 0#64 fun k => { k with vq := [updEntry 1], nextSeq := 1 }
     (s.core 5).vq = [updEntry 1] ∧ (s.core 5).dq = [] ∧ (s.core 5).ctx = some 3 ∧ s.coreRun 5 = some run1) ∧
    (let k := ((atWord 0 id).modCore 5 fun k => { k with seqHeld := some 3, dq := List.replicate 15 (vecEntry 0) }).core 5
     k.seqHeld = some 3 ∧ (k.queue 3).length < 16) ∧
    (let s := (atWord 0 id).modCore 5 fun k => { k with vq := [vecEntry 2], nextSeq := 1 }
     (s.core 5).vq = vecEntry 2 :: [] ∧ CleanStore s) ∧
    (let r : Remote := { load := false, reg := 0, addr := 0x01FFFFFFFFF8, value := 1, seq := 0 }
     let s := (atWord 0 id).modCore 5 fun k => { k with remote := [r], nextSeq := 1 }
     (s.core 5).remote[0]? = some r ∧ (s.ctx 3).inRetained r.addr 8 = false ∧ r.addr + 8 ≤ 0x020000000000 ∧ CleanStore s) ∧
    (let r : Remote := { load := false, reg := 0, addr := 8, value := 1, seq := 0 }
     let q : Remote := { load := true, reg := 7, addr := 8, value := 0, seq := 1 }
     let s := (atWord 0 id).modCore 5 fun k => { k with remote := [q, r], nextSeq := 2 }
     (s.core 5).remote[0]? = some q ∧ (s.core 5).remote[1]? = some r ∧ r.seq < q.seq ∧ r.addr = q.addr ∧ r.load = false) :=
  ⟨⟨rfl, rfl, rfl⟩, ⟨rfl, rfl, rfl, rfl⟩, ⟨rfl, by decide⟩, ⟨rfl, ⟨rfl, rfl, rfl⟩⟩, ⟨rfl, rfl, by decide, ⟨rfl, rfl, rfl⟩⟩,
    ⟨rfl, rfl, by decide, rfl, rfl⟩⟩

/-! ### DMA -/

/-- The last descriptor place of core 5's store: 32 bytes from its first byte to offset 0x1000, semaphore 0. -/
def dmaMem : Mem :=
  [(0x2DFFFC2, 0x80), (0x2DFFFC3, 2), (0x2DFFFC9, 0x10), (0x2DFFFCA, 0x80), (0x2DFFFCB, 2), (0x2DFFFD0, 0x20), (0x2DFFFD4, 1), (0x2DFFFD8, 1)]
def dmaWord : SF := ⟨1, 0, 1, 0, 0, 0⟩
def dmaDesc : DmaDesc :=
  { src := 0x2800000, dst := 0x2801000, rowLen := 32, rows := 1, planes := 1, srcRow := 0, srcPlane := 0, dstRow := 0, dstPlane := 0,
    sem := 0, fence := false, mcast := false, mask := 0 }
def atDma : State := { atWord (encodeS 0x30#8 dmaWord) (fun k => k.setA 1 0x5FFFC0#64) with mem := dmaMem }
def dmaTxn : Txn := { src := 0x2800000, dsts := [0x2801000], len := 32 }
def dmaOld (out : List Txn) : DmaPend := { d := dmaDesc, seq := 0, task := 0, plane := 1, row := 0, pos := 0, cut := false, out := out }
theorem test_dma_moves :
    (match exec (.dma 5 dmaWord) atDma with
      | .next t => (t.core 5).dma.map (·.d) == [dmaDesc] && !t.flt.active
      | _ => false) = true := by rfl
theorem witness_DmaMovesBytesAndCounts :
    (AtInsn atDma 5 (encodeS 0x30#8 dmaWord) ∧ CleanStore atDma ∧
      atDma.checkDma 5 (Mem.read atDma.mem (5 * 0x800000 + 0x5FFFC0) 64) = some dmaDesc) ∧
    (let s := (atWord 0 id).modCore 5 fun k => { k with dma := [dmaOld [dmaTxn]], nextSeq := 1 }
     (s.core 5).dma[0]? = some (dmaOld [dmaTxn]) ∧ (dmaOld [dmaTxn]).out[0]? = some dmaTxn ∧ CleanStore s ∧
       (s.ctx 3).inRetained 0x2801000 32 = false) ∧
    (let s := (atWord 0 id).modCore 5 fun k => { k with dma := [dmaOld []], nextSeq := 1 }
     (s.core 5).dma = [dmaOld []] ∧ (dmaOld []).done = true ∧ (s.core 5).layer = none ∧ (s.sem 3 0).toNat + 1 < 2 ^ 32) ∧
    (let p : DmaPend := { dmaOld [] with plane := 0 }
     p.next?.map (·.1) = some dmaTxn ∧ p.pos < p.d.rowLen) ∧
    ((List.replicate 2 (dmaOld [dmaTxn])).map fun p => p.out.length).sum ≤ 160 :=
  ⟨⟨⟨rfl, rfl⟩, ⟨rfl, rfl, rfl⟩, rfl⟩, ⟨rfl, rfl, ⟨rfl, rfl, rfl⟩, rfl⟩, ⟨rfl, rfl, rfl, by decide⟩, ⟨rfl, by decide⟩, by decide⟩

/-! ### UPD and COLL -/

def updWord : UF := ⟨3, 1, 2, 3, 4, 5, 6, 0, 0⟩
def atUpd : State := inRun (encodeU updWord) fun k => (((k.setA 2 0x80#64).setA 3 0x100#64).setA 4 0x180#64).setA 5 10#64
def collWord : SF := ⟨0, 0, 1, 0, 0, 0⟩
/-- A SEND of no bytes to the own coordinate, at the last descriptor place. -/
def atColl : State :=
  let s := inRun (encodeS 0x38#8 collWord) fun k => k.setA 1 0x5FFFC0#64
  { s with mem := [(0x2DFFFC0, 5), (0x2DFFFCD, 1), (0x2DFFFD5, 1)],
           allocs := [{ ctx := 3, tier := 1, base := 0x010000000000, units := 1, freeing := false }], link := { s.link with member := true } }
def atRelease (member decided decision ovf : Bool) : State :=
  let s := (inRun 0#64 fun k => { k with vq := [updEntry 0], nextSeq := 1 }).modCtx 3 fun k =>
    { k with step := { k.step with decided := decided, decision := decision, ovfBit := ovf } }
  { s with link := { s.link with member := member } }
theorem witness_UpdatesAndCollectivesStart_upd :
    let u := (atUpd.ctx 3).updWork updWord 0 0x80 0x100 0x180 10 0 prog9.rule9
    updWord.rest = 0 ∧ AtInsn atUpd 5 (encodeU updWord) ∧ atUpd.coreRun 5 = some run1 ∧ (atUpd.core 5).remote = [] ∧ run1.step = true ∧
      (atUpd.ctx 3).rule? updWord.rule.toNat = some prog9.rule9 ∧ (atUpd.ctx 3).updTensorOk u.tid = true ∧
      (∀ o ∈ [u.aw, u.ag, u.ao], o % 128 = 0) ∧ (∀ g ∈ u.reads, g.1 + g.2 ≤ 0x600000) :=
  ⟨rfl, ⟨rfl, rfl⟩, rfl, rfl, rfl, rfl, rfl, by decide, by decide⟩
theorem witness_UpdatesAndCollectivesStart_release :
    (let s := atRelease true true false false
     (s.core 5).vq = [updEntry 0] ∧ s.live = true ∧ s.link.member = true ∧ (s.ctx 3).step.decided = true ∧ (s.ctx 3).step.journal = [] ∧
       (s.ctx 3).rule? 3 = some prog9.rule9) ∧
    (let s := atRelease true true true false
     s.link.member = true ∧ (s.ctx 3).step.decision = true) ∧
    (let s := atRelease false false false true
     s.link.member = false ∧ (s.ctx 3).step.decided = false ∧ (s.ctx 3).step.ovfBit = true) :=
  ⟨⟨rfl, rfl, rfl, rfl, rfl, rfl⟩, ⟨rfl, rfl⟩, ⟨rfl, rfl, rfl⟩⟩
theorem witness_UpdatesAndCollectivesStart_local :
    let s := atRelease false false false false
    (s.core 5).vq = [updEntry 0] ∧ s.link.member = false ∧ (s.ctx 3).step.decided = false ∧ (s.ctx 3).step.ovfBit = false ∧
      (s.ctx 3).step.journal = [] ∧ (s.ctx 3).rule? 3 = some prog9.rule9 := ⟨rfl, rfl, rfl, rfl, rfl, rfl⟩
theorem witness_WeightCommit_update :
    let u := (atUpd.ctx 3).updWork updWord 0 0x80 0x100 0x180 10 0 prog9.rule9
    CleanStore atUpd ∧ u.clash = false ∧ u.rule.kind = 1 ∧ (atUpd.core 5).ctx = some 3 := ⟨⟨rfl, rfl, rfl⟩, rfl, rfl, rfl⟩
theorem witness_UpdatesAndCollectivesStart_coll :
    let s := atColl
    let k := s.core 5
    let d := parseColl (Mem.read s.mem 0x2DFFFC0 64)
    let t := s.setCore 5 { k with
      dq := [{ seq := k.nextSeq, pc := k.pc, word := encodeS 0x38#8 collWord, work := .coll d, reads := [], writes := [], phase := 0 }],
      pc := k.pc + 1, afterBlk := false, nextSeq := k.nextSeq + 1 }
    AtInsn s 5 (encodeS 0x38#8 collWord) ∧ CleanStore s ∧ k.layer = none ∧
      s.checkColl 3 true (Mem.read s.mem (5 * 0x800000 + 0x5FFFC0) 64) = some d ∧ t.collRoom 3 = true ∧
      (∃ u, t.startColl 3 5 (s.ctx 3).step.layout 1 0 d = some u ∧ (u.core 5).vq = [] ∧ (u.core 5).dq = (t.core 5).dq) :=
  ⟨⟨rfl, rfl⟩, ⟨rfl, rfl, rfl⟩, rfl, rfl, rfl, _, rfl, rfl, rfl⟩

/-! ## Memory (09) -/

/-- MEM_ALLOC of 4 MiB of T1 in region 3, where context 3's limit is `lim`. -/
def atAlloc (lim : Nat) : State :=
  atCmd 3 0x10 [1, 3, 0, 0, 0, 0, 0, 0, 0, 0, 0x40, 0, 0, 0, 0, 0] fun s => s.modCtx 3 fun k => k.modMem fun m => { m with lim1 := lim }
def allocCmd : Cmd := hostCmd 0x10 [1, 3, 0, 0, 0, 0, 0, 0, 0, 0, 0x40, 0, 0, 0, 0, 0]
theorem test_alloc_lowest_of_region_3 :
    (match exec (.memAlloc 3 0xBEEF) (atAlloc 2) with
      | .next t => t.allocs == [{ ctx := 3, tier := 1, base := 0x01B400000000, units := 2, freeing := false }]
      | _ => false) = true := by rfl
/-- MEM_FREE of base 2^40 (T1's first). -/
def freeParams : List Byte := [0, 0, 0, 0, 0, 0, 0, 0, 0, 0, 0, 0, 0, 1, 0, 0]
def alloc1 : Alloc := { ctx := 3, tier := 1, base := 0x010000000000, units := 1, freeing := false }
def handle1 : Alloc := { ctx := 3, tier := 3, base := 0x010000000000, units := 1, freeing := false }
set_option maxRecDepth 20000 in
theorem witness_AllocationCommands :
    (Begins (atAlloc 2) 3 0x10 0xBEEF allocCmd ∧ (atAlloc 2).charge 3 1 3 2 = .ok 0x01B400000000 ∧ allocCmd.p 8 1 = 1 ∧ allocCmd.p 9 1 = 3 ∧
      allocCmd.p 16 8 / 0x200000 = 2) ∧
    (Begins (atAlloc 1) 3 0x10 0xBEEF allocCmd ∧ (atAlloc 1).charge 3 1 3 2 = .overQuota) ∧
    (let c := hostCmd 0x11 freeParams
     let hit := fun (s : State) => s.allocs.find? fun x => x.ctx == 3 && x.base == c.p 16 8 && !x.freeing
     (let s := atCmd 3 0x11 freeParams id
      Begins s 3 0x11 0xBEEF c ∧ hit s = none) ∧
     (let s := atCmd 3 0x11 freeParams fun s => { s with allocs := [handle1] }
      Begins s 3 0x11 0xBEEF c ∧ hit s = some handle1) ∧
     (let s := atCmd 3 0x11 freeParams fun s => { s with allocs := [alloc1] }
      Begins s 3 0x11 0xBEEF c ∧ hit s = some alloc1 ∧ (s.ctx 3).inRetained alloc1.base 0x200000 = false ∧
        (s.ctx 3).imageIn alloc1.base 0x200000 = false ∧ s.loadNames alloc1.base 0x200000 = false ∧
        s.moveNames 3 alloc1.base 0x200000 = false)) :=
  ⟨⟨⟨rfl, rfl⟩, rfl, rfl, rfl, rfl⟩, ⟨⟨rfl, rfl⟩, rfl⟩,
   ⟨⟨rfl, rfl⟩, rfl⟩, ⟨⟨rfl, rfl⟩, rfl⟩, ⟨⟨rfl, rfl⟩, rfl, rfl, rfl, rfl, rfl⟩⟩
def fill1 : Fill := { tier := 1, base := 0x010000000000, units := 1, waiter := some (3, 0xBEEF), retire := none }
theorem witness_AllocationCommands_room :
    (atCmd 3 0x10 [] fun s => s.modCtx 3 fun k => k.modMem fun m => { m with lim3 := 0x2000000 }).charge 3 3 0 0x2000000 = .exhausted := by decide +kernel
/-- The whole of region 3 is being filled. -/
theorem witness_AllocationCommands_wait :
    let s : State := { atAlloc 2 with fills := [{ tier := 1, base := 0x01B400000000, units := 0x1E000, waiter := none, retire := none }] }
    Begins s 3 0x10 0xBEEF allocCmd ∧ s.charge 3 1 3 2 = .wait := ⟨⟨rfl, rfl⟩, rfl⟩
theorem witness_AllocationCommands_fill :
    let s := atCmd 3 0x11 freeParams fun s => ({ s with fills := [fill1] }).modCHost 3 fun (h : CtxHost) =>
      { h with cmds := h.cmds.map fun (c : Cmd) => { c with running := true } }
    s.ready = true ∧ s.fills[0]? = some fill1 ∧ (s.cmd? 3 0x11 0xBEEF true).isSome = true := ⟨rfl, rfl, rfl⟩
theorem witness_AllocationCommands_quota :
    let s := atCmd 16 0x12 [15, 1] id
    let t := atCmd 16 0x12 [3, 1] id
    (Begins s 16 0x12 0xBEEF (hostCmd 0x12 [15, 1]) ∧ (hostCmd 0x12 [15, 1]).p 8 1 = 15 ∧ (s.ctx 15).sched.st = 0) ∧
      Begins t 16 0x12 0xBEEF (hostCmd 0x12 [3, 1]) ∧ (t.ctx 3).sched.st = 1 := ⟨⟨⟨rfl, rfl⟩, rfl, rfl⟩, ⟨rfl, rfl⟩, rfl⟩

/-- A stored word with bits in error. -/
def atBad (w n : Nat) : State := { State.reset with ecc := { State.reset.ecc with bad := [⟨w, n⟩] } }
set_option maxRecDepth 20000 in
theorem test_single_bit_corrected :
    ((atBad 0x010000000000 1).meetWord 0x010000000000 1).2.ecc.single1 = 1 ∧
      ((atBad 0x010000000000 1).meetWord 0x010000000000 1).2.badBits 0x010000000000 = 0 := ⟨rfl, rfl⟩
set_option maxRecDepth 20000 in
theorem witness_WordCodeScrubAndRemap :
    ((atBad 0x010000000000 1).badBits 0x010000000000 = 1 ∧ inT1 0x010000000000 = true) ∧
    ((atBad 0x020000000000 2).badBits 0x020000000000 = 2 ∧ inT2 0x020000000000 = true ∧ inT1 0x020000000000 = false) ∧
    ((atBad 0x01EFFFFFFFF8 3).badBits 0x01EFFFFFFFF8 = 3 ∧ inT1 0x01EFFFFFFFF8 = true) ∧
    ((atBad 0x5FFFF8 1).badBits 0x5FFFF8 = 1 ∧ inT1 0x5FFFF8 = false ∧ inT2 0x5FFFF8 = false) ∧ CleanStore (atWord 0 id) :=
  ⟨⟨rfl, rfl⟩, ⟨rfl, rfl, rfl⟩, ⟨rfl, rfl⟩, ⟨rfl, rfl, rfl⟩, ⟨rfl, rfl, rfl⟩⟩
def remap1 : Remap := { valid := true, cause := 0, line := 0, committed := false }
set_option maxRecDepth 20000 in
theorem witness_WordCodeScrubAndRemap_scrub :
    (let s := atCmd 3 0 [] fun s => { s with ecc := { s.ecc with pos1 := 0x1DFFFFFFFF, pos2 := 0x2FFFFFFFFE } }
     s.ready = true ∧ s.pwr.rest ≤ 2 ∧ s.ecc.bad = [] ∧ 0x1E00000000 ≤ s.ecc.pos1 + 1 ∧ s.ecc.pos1 < 0x1E00000000 ∧ s.ecc.pos2 + 1 < 0x3000000000) ∧
    (let s := atCmd 3 0 [] fun s =>
       { s with ecc := { s.ecc with remaps := SMap.set [] [] 23 [{ remap1 with committed := true }, remap1] } }
     s.remaps 23 = [{ remap1 with committed := true }] ++ remap1 :: []) :=
  ⟨⟨rfl, by decide, rfl, by decide, by decide, by decide⟩, rfl⟩

/-! ## Tasks and quarters (04 R106 to R111, 12 R311 to R318) -/

def task7 : TaskDesc := { entry := 0, len := 1, prio := 9, pin := false, home := 0, deps := 0, tid := 7, arg := 0x100, succ := [], sem := 255 }
/-- Context 3 with a program of one task, whose code block stands at `t1Base`. -/
def prog7 : Prog := { prog0 with addr := 0x010000000000, len := 8, codeLen := 8, tasks := [task7] }
def pool7 : PoolTask := { run := 1, tid := 7, quarter := 0, prio := 9, pin := false, order := 0, pooled := true }
/-- A ready module whose quarter 0 runs context 3; RUN 1 has released its task 7 into the pool of quarter 0. -/
def atPool (pool : List PoolTask) (f : State → State) : State :=
  let r : State := State.reset
  let s := { r with rst := { r.rst with phase := 6 }, mem := [(0x010000000007, 1#8)] }
  let s := (s.setQuarter 0 { cur := some 3 }).modCtx 3 fun k =>
    ({ k with prog := some prog7, runs := [run1], pool := pool }).modSched fun h => { h with st := 1, slice := 5 }
  f s
theorem test_take_loads_code :
    (match exec (.taskTake 5) (atPool [pool7] id) with
      | .next t => (t.core 5).code == [0x0100000000000000#64] && (t.core 5).ra 0 == 0x100#64 && (t.core 5).ra 1 == 7#64
      | _ => false) = true := by decide +kernel
/-- The example of 04 after R113: core 95 steals the unpinned priority-12 task of quarter 3, not the pinned 14. -/
def stealPool : List PoolTask :=
  [{ pool7 with tid := 20, quarter := 2, prio := 9 }, { pool7 with tid := 21, quarter := 3, prio := 12 },
   { pool7 with tid := 22, quarter := 3, prio := 14, pin := true }]
theorem test_steal_example :
    ((atPool stealPool id).ctx 3).nextTask 1 = some ({ pool7 with tid := 21, quarter := 3, prio := 12 }, true) := by decide +kernel
theorem witness_TasksAreTakenInOrderAndCompleted_take :
    let s := atPool [pool7] id
    s.idleIn 5 = some 3 ∧ (s.core 5).clockOff = false ∧ (s.ctx 3).nextTask 0 = some (pool7, false) ∧ (s.ctx 3).prog = some prog7 ∧
      (s.ctx 3).run? 1 = some run1 ∧ prog7.tasks.find? (fun d => d.tid == pool7.tid) = some task7 ∧ CleanStore s ∧
      ((bytesWords (Mem.read s.mem (prog7.addr + task7.entry) (8 * task7.len))).headD 0).extractLsb' 56 8 = 0x01#8 := by
  refine ⟨?_, ?_, ?_, ?_, ?_, ?_, ⟨?_, ?_, ?_⟩, ?_⟩ <;> decide +kernel
theorem witness_TasksAreTakenInOrderAndCompleted_clock :
    (let s := atPool [] id
     s.idleIn 5 = some 3 ∧ (s.ctx 3).nextTask 0 = none ∧ (s.core 5).clockOff = false) ∧
    (let s := atPool [pool7] fun s => s.modCore 5 fun k => { k with clockOff := true }
     s.idleIn 5 = some 3 ∧ (s.ctx 3).nextTask 0 ≠ none ∧ (s.core 5).clockOff = true) := by
  refine ⟨⟨?_, ?_, ?_⟩, ?_, ?_, ?_⟩ <;> decide +kernel
theorem witness_TasksAreTakenInOrderAndCompleted_complete :
    let s := atPool [] fun s => s.modCore 319 fun k => { k with ctx := some 3, task := some { run := 1, tid := 7 }, ended := true }
    let k := s.core 319
    k.ctx = some 3 ∧ k.task = some { run := 1, tid := 7 } ∧ k.ended = true ∧ k.halted = false ∧ k.taskQuiet = true ∧
      (s.ctx 3).prog = some prog7 ∧ (s.ctx 3).run? 1 = some run1 ∧ task7.sem < 256 ∧ (s.sem 3 task7.sem).toNat + 1 < 2 ^ 32 ∧
      (∀ i ∈ task7.succ, i = 0xFFFFFFFF) := by
  refine ⟨?_, ?_, ?_, ?_, ?_, ?_, ?_, ?_, ?_, ?_⟩ <;> decide +kernel
/-- The task names two successors, one of them twice, and counts at no semaphore; the second has a home that it is pinned to. -/
theorem witness_TasksAreTakenInOrderAndCompleted_successors :
    let d : TaskDesc := { task7 with succ := [8, 8, 9, 0xFFFFFFFF], sem := 0xFFFF }
    let p : Prog := { prog7 with tasks := [d, { task7 with tid := 8, deps := 2, home := 0xFF }, { task7 with tid := 9, deps := 1, home := 3, pin := true }] }
    let r : Run := { run1 with tasks := [{ tid := 7, count := 0, st := 1 }, { tid := 8, count := 2, st := 0 }, { tid := 9, count := 1, st := 0 }] }
    let s := (atPool [] fun s => s.modCore 319 fun k => { k with ctx := some 3, task := some { run := 1, tid := 7 }, ended := true }).modCtx 3 fun k =>
      { k with prog := some p, runs := [r] }
    (s.core 319).taskQuiet = true ∧ (s.ctx 3).run? 1 = some r ∧ p.tasks.find? (fun d => d.tid == 7) = some d ∧ p.stages = [] ∧ s.rst.busy = false ∧
      d.sem = 0xFFFF ∧ (r.tasks.map (·.tid)).Nodup ∧ (∀ x ∈ r.tasks, ∃ e ∈ p.tasks, e.tid = x.tid) ∧
      (∀ i ∈ d.succ, i ≠ 0xFFFFFFFF → i ≠ 7 ∧ ∃ x ∈ r.tasks, x.tid = i ∧ d.succ.count i ≤ x.count) := by
  refine ⟨?_, ?_, ?_, ?_, ?_, ?_, ?_, ?_, ?_⟩ <;> decide +kernel
theorem witness_TasksAreTakenInOrderAndCompleted_homes :
    let d : TaskDesc := { task7 with home := 3, pin := true }
    let s := atPool [] id
    d.home < 4 ∧ d.pin = true ∧ ({ d with home := 0xFF, pin := false } : TaskDesc).home = 0xFF ∧
      ({ s with rst := { s.rst with enabled := [(3, 0)] } } : State).enabledOf 3 = 0 := by decide +kernel
theorem witness_TasksAreTakenInOrderAndCompleted_bound :
    let b : Block := { cls := 6, pc := 1, word := 0x0106000000000000 }
    let s := atWord 0 fun k => { k with block := some b }
    (s.core 5).block = some b ∧ (s.core 5).task.isSome = true ∧ (s.core 5).halted = false ∧ s.flt.active = false := ⟨rfl, rfl, rfl, rfl⟩

/-- Quarter 0 with its phase set. -/
def atPhase (phase : Nat) (f : State → State) : State := atPool [] fun s => f (s.setQuarter 0 { cur := some 3, phase := phase })
/-- Context 4 is ready on quarter 0, and context 3 is not. -/
def rival : State := atPhase 0 fun s => s.modCtx 4 fun k =>
  ({ k with prog := some prog7, runs := [run1], pool := [pool7] }).modSched fun h => { h with st := 1 }
theorem quarter_core (c : Nat) (s : State) (h : s.cores = []) : s.core c = {} := by simp [State.core, h, SMap.get]
theorem atPhase_cores (p : Nat) : (atPhase p id).cores = [] := rfl
theorem witness_QuartersSwitchContexts :
    ((atPhase 0 id).live = true ∧ ((atPhase 0 id).quarter 0).cur = some 3 ∧ (atPhase 0 id).pick 0 = none ∧ (atPhase 0 id).readyOn 3 0 = false ∧
      (atPhase 0 id).coresFree 0 = true ∧ ((atPhase 0 id).ctx 3).sched.suspended = false) ∧
    (rival.pick 0 = some 4 ∧ (rival.quarter 0).cur = some 3 ∧ (rival.quarter 0).phase = 0) ∧
    (rival.readyOn 3 0 = false ∧ rival.coresFree 0 = true ∧ (rival.ctx 3).sched.suspended = false ∧ rival.live = true) ∧
    (((atPhase 1 id).quarter 0).phase = 1 ∧ ∀ c, ((atPhase 1 id).core c).atBoundary = true) := by
  refine ⟨⟨?_, ?_, ?_, ?_, ?_, ?_⟩, ⟨?_, ?_, ?_⟩, ⟨?_, ?_, ?_, ?_⟩, ?_, ?_⟩
  all_goals first | decide +kernel | (intro c; rw [quarter_core c _ rfl]; rfl)
/-- Quarter 0 with its 80 cores, whose records of context 3 stand from 2 MiB below the end of region 0 up. -/
def atCores (phase : Nat) (k : Core) (f : State → State) : State := atPhase phase fun s =>
  f ({ s with cores := (List.range 80).map fun c => (c, k) }.modCtx 3 fun x => x.modMem fun m => { m with save := [(0, some 0x013BE1400000)] })
theorem fin80 {p : Nat → Prop} (h : ∀ c : Fin 80, p c.val) : ∀ c, c / 80 = 0 → p c := fun c hc => h ⟨c, by omega⟩
set_option maxRecDepth 20000 in
theorem witness_QuartersSwitchContexts_save :
    let k : Core := { ctx := some 3, acc0 := some (List.replicate 4096 0#32) }
    let s := atCores 2 k id
    let u := atCores 2 k fun s => (s.modCtx 3 fun k => k.modSched fun h => { h with suspended := true })
    let v := atCores 2 k fun s => (s.modCtx 4 fun k => k.modSched fun h => { h with st := 1 }).modQuarter 0 fun q => { q with next := some 4 }
    ((s.quarter 0).cur = some 3 ∧ s.live = true ∧ CleanStore s ∧ Memory.wf s.mem = true ∧ (∀ c, c / 80 = 0 → s.coreExists c = true) ∧
      (∀ b, SMap.get none (s.ctx 3).mem.save 0 = some b → 0x010000000000 ≤ b) ∧ (s.quarter 0).phase = 2 ∧
      (∀ c, c / 80 = 0 → (s.core c).quiet = true ∧ (s.core c).ctx = some 3) ∧ s.recordAddr 3 79 = some 0x13BFF91C000) ∧
    ((u.quarter 0).next = none ∧ (u.ctx 3).sched.suspended = true ∧ (∀ n : Fin 16, u.readyOn n.val 0 = false)) ∧
    ((v.quarter 0).next = some 4 ∧ (v.ctx 4).sched.st = 1 ∧ (v.ctx 4).sched.suspended = false) := by
  refine ⟨⟨rfl, rfl, ⟨rfl, rfl, rfl⟩, ?_, fin80 ?_, ?_, rfl, fin80 ?_, ?_⟩, ⟨rfl, rfl, ?_⟩, rfl, rfl, rfl⟩
  all_goals decide +kernel
theorem witness_QuartersSwitchContexts_restore :
    let r : Core := { ctx := some 3, a := [(7, 9#64)] }
    let s := atCores 3 {} fun s => s.modCtx 3 fun k => { k with saved := [(79, some r)] }
    (s.quarter 0).cur = some 3 ∧ s.live = true ∧ CleanStore s ∧ Memory.wf s.mem = true ∧ (∀ c, c / 80 = 0 → s.coreExists c = true) ∧
      (∀ b, SMap.get none (s.ctx 3).mem.save 0 = some b → 0x010000000000 ≤ b) ∧ (s.quarter 0).phase = 3 ∧
      SMap.get none (s.ctx 3).saved 0 = none ∧ SMap.get none (s.ctx 3).saved 79 = some r ∧ r.ctx.isSome = true ∧
      s.recordAddr 3 79 = some 0x13BFF91C000 ∧ (s.ctx 3).sched.suspended = false ∧ ∀ n : Fin 16, n.val ≠ 3 → s.readyOn n.val 0 = false := by
  refine ⟨rfl, rfl, ⟨rfl, rfl, rfl⟩, ?_, fin80 ?_, ?_, rfl, rfl, rfl, rfl, ?_, rfl, ?_⟩
  all_goals decide +kernel
theorem witness_QuartersSwitchContexts_preempt :
    Begins (atCmd 16 0x32 [3, 0] id) 16 0x32 0xBEEF (hostCmd 0x32 [3, 0]) ∧ ((atCmd 16 0x32 [3, 0] id).ctx 3).sched.st = 1 ∧
    Begins (atCmd 16 0x32 [15, 0] id) 16 0x32 0xBEEF (hostCmd 0x32 [15, 0]) ∧ ((atCmd 16 0x32 [15, 0] id).ctx 15).sched.st = 0 ∧
    Begins (atCmd 16 0x32 [3, 1] id) 16 0x32 0xBEEF (hostCmd 0x32 [3, 1]) ∧ (hostCmd 0x32 [3, 1]).p 9 1 = 1 ∧
    (atCmd 16 0x32 [3, 0] id).onNoQuarter 3 = true ∧ ((atCmd 16 0x32 [3, 0] id).ctx 16).host.cmds = [hostCmd 0x32 [3, 0]] ∧
    (let s := atCmd 16 0x32 [3, 0] fun s => s.setQuarter 3 { cur := some 3, phase := 3 }
     Begins s 16 0x32 0xBEEF (hostCmd 0x32 [3, 0]) ∧ (s.quarter 3).cur = some 3 ∧ (s.quarter 3).phase = 3) :=
  ⟨⟨rfl, rfl⟩, rfl, ⟨rfl, rfl⟩, rfl, ⟨rfl, rfl⟩, rfl, rfl, rfl, ⟨rfl, rfl⟩, rfl, rfl⟩

/-! ## Registers (00 R8, R10, and the CLR and single-register rows) -/

def clrBit : BitVec 64 := 0x8000000000000000#64
theorem test_clr_other_context_refused :
    (match exec (.clrCount (.ctx 4) 3 clrBit) (atCmd 3 0 [] fun s => s.modCtx 3 fun k => k.charge { sat := 7 } false) with
      | .next t => (t.ctx 3).arith.satCount == 7
      | _ => false) = true := by decide +kernel
theorem test_clr_own_context :
    (match exec (.clrCount (.ctx 3) 3 clrBit) (atCmd 3 0 [] fun s => s.modCtx 3 fun k => k.charge { sat := 7 } false) with
      | .next t => (t.ctx 3).arith.satCount == 0 && (t.ctx 3).arith.sat
      | _ => false) = true := by decide +kernel
theorem witness_ContextCountsAreCleared :
    State.reset.pwr.sup ≠ 3 ∧ clrBit.getLsbD 63 = true ∧ (State.reset.ctx 15).runInProgress = false ∧ ((inRun 0 id).ctx 3).runInProgress = true ∧
      ¬ (Origin.shank = .admin ∨ Origin.shank = .ctx 15) ∧ (1#64).getLsbD 0 = true := by
  refine ⟨?_, ?_, ?_, ?_, ?_, ?_⟩ <;> decide +kernel
/-- HLT_POLICY with PROB_BELOW 1, PROB_EXIT 2, REQ_BELOW 0 and HOLD_MIN 1440. -/
def policyWord : BitVec 64 := BitVec.ofNat 64 (1 + 2 * 2 ^ 10 + 1440 * 2 ^ 30)
theorem witness_ModuleRegisterRows :
    (let s : State := { State.reset with hlt := { State.reset.hlt with hstate := 2, probBelow := 500 } }
     s.pwr.sup ≠ 3 ∧ (1#64).getLsbD 0 = true ∧ s.hlt.hstate = 2 ∧ s.hlt.probBelow ≤ 500) ∧
    (State.reset.hlt.hstate ≠ 2 ∧ (0#64).getLsbD 63 = false ∧ (128#64).getLsbD 7 = true) ∧
    (policyWord.toNat / 2 ^ 20 % 1024 < policyWord.toNat % 1024 ∧ policyWord.toNat % 1024 < policyWord.toNat / 2 ^ 10 % 1024 ∧
      policyWord.toNat / 2 ^ 30 % 2048 = 1440) ∧
    (t1Base ≤ 0x01EFFFFFFFF8 ∧ 0x01EFFFFFFFF8 < t1Base + t1Size ∧ ¬ 0x01F000000000 < t1Base + t1Size) := by
  refine ⟨⟨?_, ?_, ?_, ?_⟩, ⟨?_, ?_, ?_⟩, ⟨?_, ?_, ?_⟩, ?_, ?_, ?_⟩ <;> decide +kernel
theorem witness_ModuleRegisterRows_clock : clkPoint 600 ∧ ¬ clkPoint 601 := by
  unfold clkPoint clkMax; cases Config.ordering <;> decide
theorem witness_WritableFieldsReadBack :
    (let v : BitVec 64 := 0x3000000000#64
     ∀ e, e < 8 → e ≠ 7 → (State.reset.dir e).ports &&& v.setWidth 36 = 0#36) ∧
    ((0#64).toNat / 2 ^ 16 % 8 ≤ 4 ∧ (0x2000000000#64).toNat / 2 ^ 37 % 2 ^ 17 ≠ 0) ∧
    (¬ (Origin.ctx 14 = .admin ∨ Origin.ctx 14 = .ctx 15) ∧ (Origin.ctx 15 = .admin ∨ Origin.ctx 15 = .ctx 15) ∧ (State.reset.ctx 15).runInProgress = false) := by
  refine ⟨?_, ⟨?_, ?_⟩, ?_, ?_, ?_⟩ <;> decide +kernel
theorem test_policy_inconsistent_refused :
    (match exec (.hltPolicyWrite .admin 0x601#64) State.reset with
      | .next t => t.hlt == State.reset.hlt
      | _ => false) = true := by decide +kernel

/-! ## Ports (10) -/

/-- A ready module with the ports set, in a group of 16 x 8 x 4 x 4 as coordinate (3, 5, 0, 2). -/
def atPorts (ps : List (Nat × Port)) (f : State → State) : State :=
  let r : State := State.reset
  let s := { r with rst := { r.rst with phase := 6 },
                    link := { r.link with coord := 0x2053, sizeM1 := 0x337F, member := true, group := 7 } }
  f (ps.foldl (fun s e => s.setPort e.1 e.2) s)
def activePort : Port := { ({ } : Port) with st := 6, lanes := 0xFF, credits := [(0, 2), (1, 2), (3, 2)] }
/-- The example of 10: on VC3 from (3, 5, 0, 2) to (14, 1, 3, 2) the first hop is X-, on LP6. -/
theorem test_route_example :
    let s := atPorts [(4, activePort), (5, activePort), (6, activePort), (7, activePort)] id
    s.route 0x231E = some 1 ∧
      s.egressPort 1 none none { mkFlit 3 3 0x2053 0x231E 0 true true [0] with typ := 1 } = some 6 := by
  refine ⟨?_, ?_⟩ <;> decide +kernel
theorem test_lane_fault_starts_degrade :
    (match exec (.laneFault 35 7) (atPorts [(35, activePort)] id) with
      | .next t => (t.port 35).st == 7 && (t.port 35).degLane == some 7 && t.out == [.marker 35 7]
      | _ => false) = true := by decide +kernel
theorem witness_TrainingMovesAPort :
    (∀ st ∈ [0, 1, 2, 3, 4, 5, 6, 9], ((atPorts [(35, { activePort with st := st })] id).port 35).st = st) ∧
    (let k := (atPorts [(35, { activePort with st := 8 })] id).port 35
     k.st = 8 ∧ k.lostDir = none) ∧
    (let k := (atPorts [(35, { activePort with st := 7, degLane := some 7 })] id).port 35
     k.st = 7 ∧ k.degLane = some 7 ∧ k.hold = false) ∧
    (let k := (atPorts [(35, activePort)] id).port 35
     k.st = 6 ∧ k.lanes = 0xFF#8 ∧ k.after ≠ some 0 ∧ laneCount 0x7F#8 ≥ 7 ∧ (2#64).getLsbD 1 = true ∧ (4#64).getLsbD 2 = true) ∧
    (let k := (atPorts [(35, { activePort with st := 4, verdict := true })] id).port 35
     k.st = 4 ∧ k.verdict = true ∧ k.rerun = false) ∧
    (let k := (atPorts [(35, { activePort with st := 5, hold := true, lanes := 0x7F })] id).port 35
     k.st = 5 ∧ k.hold = true ∧ k.lanes.getLsbD 7 = false) ∧ State.reset.pwr.sup ≠ 3 := by
  decide +kernel
/-- LP4 and LP5 of X- are active; LP4 loses its traffic. -/
def twoActive (st : Nat) : State := atPorts [(4, { activePort with st := st }), (5, activePort)] id
/-- LP4 has lost its traffic, and the peer's HANDOVER names it. -/
def handing (f : State → State) : State :=
  atPorts [(4, { activePort with st := 8, handover := true, lostDir := some 1, peerPort := 0 }), (5, activePort)] f
theorem witness_LostPortsAreHandedOver :
    ((twoActive 6).dirOf 4 = some 1 ∧ (((twoActive 6).effective 1).filter (· ≠ 4)).head? = some 5 ∧ ((twoActive 6).port 4).st = 6) ∧
    ((twoActive 7).dirOf 4 = some 1 ∧ (((twoActive 7).effective 1).filter (· ≠ 4)).head? = some 5 ∧ ((twoActive 7).port 4).st = 7) ∧
    (let s := atPorts [(4, { activePort with st := 7, hold := true }), (5, activePort)] id
     s.dirOf 4 = some 1 ∧ ((s.effective 1).filter (· ≠ 4)).head? = some 5 ∧ (s.port 4).st = 7 ∧ (s.port 4).hold = true) ∧
    (let s := handing fun s => { s with link := { s.link with ctlIn := [(5, 1#64, 0#64, 9#64)] } }
     s.link.ctlIn[0]? = some (5, 1#64, 0#64, 9#64) ∧ s.handoverPort 5 0#64 = some (1, 4) ∧ (s.port 4).st = 8 ∧ (s.port 4).after = none) ∧
    (let s := handing id
     (s.port 4).handover = true ∧ (s.port 4).lostDir = some 1 ∧ s.noticed 1 = false ∧ s.flt.active = false) ∧
    (let s := handing fun s => (s.modDir 1 fun d => { d with resetting := some 0 })
     s.noticed 1 = true) := by
  decide +kernel
theorem witness_LostPortsAreHandedOver_mask :
    let v : BitVec 64 := 0x1000000000#64
    (∀ e, e < 8 → e ≠ 7 → (State.reset.dir e).ports &&& v.setWidth 36 = 0#36) ∧
    ((State.reset.dir 1).ports &&& (0x10#64).setWidth 36 ≠ 0#36) ∧ inMask 0x10#36 4 = true := by
  decide +kernel
/-- What the neighbour in X- sends on LP4. -/
def xinfo : XInfo := { serial := 1, group := 7, coord := 0x2052, member := true, port := 0, version := 0, fence := 0 }
theorem witness_ExchangeLeadsToActive :
    let s := atPorts [(4, { activePort with st := 4 })] id
    let x := { xinfo with version := s.shk.version }
    ((s.port 4).st = 4 ∧ s.link.member = true ∧ x.group = s.link.group ∧ s.exchangeDir 4 = some 1 ∧ x.coord = s.neighbour 1 ∧
      partnerOf 4 = some (x.port % 64) ∧ (s.port 4).hold = false ∧ s.fenced x.serial x.fence = false) ∧ x.version = s.shk.version :=
  ⟨by decide +kernel, rfl⟩
theorem witness_ExchangeLeadsToActive_states :
    (let s := atPorts [(4, { activePort with st := 5 })] fun s => { s with link := { s.link with member := false } }
     (s.port 4).st = 5 ∧ s.link.member = false) ∧ ((atPorts [(4, activePort)] id).port 4).st = 6 ∧ ((atPorts [(4, { activePort with st := 7 })] id).port 4).st = 7 := by
  decide +kernel
theorem witness_ExchangeLeadsToActive_others :
    (let s := atPorts [(4, { activePort with st := 4 })] fun s => { s with link := { s.link with member := false } }
     (s.port 4).st = 4 ∧ s.link.member = false ∧ (s.port 4).rerun = false) ∧
    (let s := atPorts [(4, { activePort with st := 4, verdict := true, peerMember := true, peerGroup := 7, peer := 0x2052, peerPort := 0 })] id
     (s.port 4).verdict = true ∧ (s.port 4).hold = false ∧ s.exchangeOk 4 = true ∧ s.joining = none) ∧
    (let s := atPorts [(5, activePort)] fun s => { s with link := { s.link with ctlIn := [(5, 2#64, 0#64, 0#64)] } }
     s.link.ctlIn[0]? = some (5, 2#64, 0#64, 0#64) ∧ s.dirOf 5 = some 1) := by
  decide +kernel

/-! ### Flits -/

/-- The 264 bytes of a flit with this header whose words are 0, with its CRC (10 R252). -/
def rawOf (head : Nat) : List Byte :=
  let body := natLe 16 head ++ List.replicate 244 0#8
  body ++ natLe 4 (crc32 body).toNat
/-- A one-word DATA flit of a message, on VC1, with this SEQ and HOPS, to `dst`. -/
def dataHead (seq hops dst : Nat) : Nat := 1 + 2 ^ 4 + 2 ^ 7 + seq * 2 ^ 8 + 2 ^ 47 + dst * 2 ^ 48 + 0x2052 * 2 ^ 64 + 3 * 2 ^ 80 + hops * 2 ^ 90
def flitOk (raw : List Byte) (typ : Nat) (seq : Nat) (dst : Nat) : Bool :=
  let f := parseFlit raw
  rawOk raw && !flitProtoError f && f.typ.toNat == typ && f.seq.toNat == seq && f.dst.toNat == dst && f.som == f.eom
set_option maxRecDepth 100000 in
theorem witness_FlitsOnAPort_receive :
    (rawOk (List.replicate 264 1#8) = false) ∧ (rawOk (rawOf 4) = true ∧ flitProtoError (parseFlit (rawOf 4)) = true) ∧
    (let s := atPorts [(4, { activePort with st := 5 })] id
     (s.port 4).st = 5) ∧ flitOk (rawOf 0) 0 0 0 = true ∧ flitOk (rawOf (dataHead 4095 0 0x2053)) 1 4095 0x2053 = true ∧
    flitOk (rawOf (dataHead 0 0 0x2053)) 1 0 0x2053 = true ∧ flitOk (rawOf (dataHead 0 40 0x231E)) 1 0 0x231E = true ∧
    (let s := twoActive 6
     (s.port 4).st = 6 ∧ (s.port 4).rxSeq = 0 ∧ s.link.member = true ∧ s.coordOk 0x2053 = true ∧ s.route 0x2053 = none ∧ (s.ctx 3).sched.st ≠ 2 ∧
       s.coordOk 0x231E = true ∧ s.route 0x231E = some 1) := by
  decide +kernel
set_option maxRecDepth 100000 in
theorem witness_FlitsOnAPort_forward :
    let f := parseFlit (rawOf (dataHead 0 39 0x231E))
    let g : Flit := { f with hops := f.hops + 1#6 }
    let s := twoActive 6
    f.hops.toNat + 1 ≤ 40 ∧ (s.dir 1).down = false ∧ s.egressPort 1 (some 4) none g = some 4 ∧ s.active 4 = true ∧
      ((s.modDir 1 fun d => { d with down := true }).dir 1).down = true := by
  decide +kernel
set_option maxRecDepth 100000 in
theorem test_flit_for_here_is_delivered :
    (match exec (.flitReceive 4 (rawOf (dataHead 0 0 0x2053)) 0) (twoActive 6) with
      | .next t => (t.port 4).rxSeq == 1#12 && t.link.inbox.length == 1 && (t.port 4).refused == 0
      | _ => false) = true := by decide +kernel
def flit1 (vc : BitVec 3) : Flit := { mkFlit 0 3 0x2053 0x231E 0 true true [0] with typ := 1, vc := vc }
def nak9 : Flit := { mkFlit 0 31 0x2052 0 0 false false [0] with typ := 2, ack := 9 }
set_option maxRecDepth 100000 in
/-- The wire form of a flit of 30 words, which the receiver reads back (10 R251, R252). -/
theorem test_wire_form :
    let f : Flit := { mkFlit 5 16 0xFFFF 0x8001 0x87654321 true false (List.replicate 30 0x8000000000000001#64) with typ := 1, crcum := 0xABC, hops := 40 }
    f.words.length = f.nw.toNat + 1 ∧ (flitWire f).length = 264 ∧ rawOk (flitWire f) = true ∧ parseFlit (flitWire f) = f := by decide +kernel
theorem witness_FlitsOnAPort_send :
    (let k := (atPorts [(4, { activePort with rbuf := [flit1 1] })] id).port 4
     k.st = 6 ∧ k.rbuf ≠ [] ∧ k.beginResend.begunAtHead < 8 ∧ (k.takeFields nak9).beginResend.begunAtHead < 8 ∧ nak9.typ = 2#4 ∧ flitProtoError nak9 = false) ∧
    (let k := (atPorts [(4, { activePort with nakDue := 2 })] id).port 4
     k.st = 6 ∧ 0 < k.nakDue ∧ k.egress = []) ∧
    (let k := (atPorts [(4, { activePort with resend := [flit1 1] })] id).port 4
     k.nakDue = 0 ∧ k.resend = flit1 1 :: []) ∧
    (let k := (atPorts [(4, { activePort with ctlq := [{ flit1 0 with typ := 3 }], credits := [(0, 1)] })] id).port 4
     k.resend = [] ∧ k.rbuf.length < 2048 ∧ k.ctlq = { flit1 0 with typ := 3 } :: [] ∧ 1 ≤ SMap.get 0 k.credits 0) ∧
    (let k := (atPorts [(4, activePort)] id).port 4
     k.ctlq = [] ∧ ∀ vc, vc < 6 → k.readyFlit vc = none) ∧
    (let k := (atPorts [(4, { activePort with egress := [(0, [.flit (flit1 0) false 36])] })] id).port 4
     k.readyFlit 0 = some (flit1 0) ∧ 36 ≤ k.headHolder 0) ∧
    (let k := (atPorts [(4, { activePort with egress := [(3, [.flit (flit1 3) true 5])] })] id).port 4
     k.headHolder 3 ≠ 4 ∧ k.readyFlit 0 = none ∧ k.readyFlit 3 = some (flit1 3) ∧ ∀ x, x ∈ [1, 2, 3, 4, 5] → x ≠ 3 → k.readyFlit x = none) ∧
    (let k := (atPorts [(4, { activePort with rbuf := List.replicate 2048 (flit1 1) })] id).port 4
     2048 ≤ k.rbuf.length) := by
  refine ⟨?_, ?_, ?_, ?_, ?_, ?_, ?_, ?_⟩ <;> decide +kernel

/-- A write of ENABLE reaches a port at rest in A2, and in A3 the port stays off. -/
theorem witness_TrainingMovesAPort_rest :
    let s := atPorts [(35, { activePort with st := 0 })]
    (s id).pwr.rest < 3 ∧ ((s id).port 35).st = 0 ∧ 3 ≤ (s fun s => { s with pwr := { s.pwr with rest := 3 } }).pwr.rest ∧
      ((s id).port 35).after ≠ some 0 := by decide +kernel

/-! ## Supply, rest states, resets (16, 17) -/

/-- A ready module. -/
def atReady (f : State → State) : State := f (atCmd 3 0 [] fun s => s.modCHost 3 fun h => { h with cmds := [] })
/-- A ready module with its supply record changed. -/
def atPwr (f : Pwr → Pwr) : State := atReady fun s => { s with pwr := f s.pwr }
theorem test_sag_ends_at_40_V :
    (match exec .sagRecovery (atPwr fun p => { p with sup := 1, vin := 4000 }), exec .sagRecovery (atPwr fun p => { p with sup := 1, vin := 3999 }) with
      | .next t, .next u => t.pwr.sup == 0 && t.pwr.rides == 1 && u.pwr.sup == 1
      | _, _ => false) = true := by decide +kernel
theorem test_sag_of_10_ms_stops :
    (match exec .sagTimeout (atPwr fun p => { p with sup := 1 }) with
      | .next t => t.pwr.sup == 2 && t.pwr.cause == 1 && t.flt.active
      | _ => false) = true := by decide +kernel
theorem witness_SupplyMonitorAndClock :
    ((atPwr fun p => { p with sup := 3 }).pwr.sup = 3 ∧ (atPwr fun p => { p with sup := 3 }).pwr.flat = false ∧
      (atPwr id).pwr.sup = 0 ∧ (atPwr id).pwr.rest = 0 ∧ (atPwr id).live = true ∧ (atPwr id).rst.ledger = [0, 0, 0, 0, 0, 0, 0, 0]) ∧
    (let s := atPwr fun p => { p with sup := 1, vin := 4000 }
     s.pwr.sup = 1 ∧ 4000 ≤ s.pwr.vin) ∧
    (let s := atPwr fun p => { p with sup := 2 }
     s.pwr.sup = 2 ∧ s.flt.dumping = false) ∧
    (let s := atPwr fun p => { p with dieMax := 1000, inlet := 500, outlet := 700 }
     s.pwr.sup ≠ 3 ∧ 1000 ≤ s.pwr.dieMax ∧ 500 ≤ s.pwr.inlet ∧ 700 ≤ s.pwr.outlet ∧ s.pwr.rest ≤ 2 ∧ s.flt.active = false) ∧
    ((State.reset.ctx 15).sched.used < 2 ^ 64 ∧ (State.reset.ctx 15).sched.wait < 2 ^ 64 ∧ State.reset.live = false) := by
  decide +kernel
/-- 60 V, a ramp of 256 A/ms and a floor of 1 W. -/
def shapeParams : List Byte := [0, 1, 0, 0, 1, 0, 0, 0]
theorem witness_SupplyMonitorAndClock_shape :
    Begins (atCmd 16 0x51 shapeParams id) 16 0x51 0xBEEF (hostCmd 0x51 shapeParams) := ⟨rfl, rfl⟩

theorem witness_RestStates_budget (ps : List Byte) : Begins (atCmd 16 0x50 ps id) 16 0x50 0xBEEF (hostCmd 0x50 ps) := ⟨rfl, rfl⟩
theorem witness_RestStates_budget_values :
    (hostCmd 0x50 [4]).p 8 4 = 4 ∧ (hostCmd 0x50 [5]).p 8 4 = 5 ∧ (hostCmd 0x50 [0xDB, 5]).p 8 4 = 1499 ∧ (hostCmd 0x50 [0xDC, 5]).p 8 4 = 1500 ∧
      (hostCmd 0x50 [0xBF, 0xD4, 1]).p 8 4 = 119999 ∧ (hostCmd 0x50 [0xC0, 0xD4, 1]).p 8 4 = 120000 ∧
      (hostCmd 0x50 [0x3F, 0x77, 0x1B]).p 8 4 = 1799999 := ⟨rfl, rfl, rfl, rfl, rfl, rfl, rfl⟩
theorem witness_RestStates_entry :
    (let s := atPwr fun p => { p with budget := 5 }
     s.live = true ∧ s.pwr.rest = 0 ∧ s.pwr.entering = none ∧ s.idle = true ∧ s.restTarget = 1) ∧
    (∀ k ∈ [1, 2, 3, 4], let s := { (atPwr fun p => { p with entering := some k }) with ctxs := [] }
      s.pwr.entering = some k ∧ s.live = true ∧ s.idle = true ∧ s.wakeDue = false ∧ s.restAllowed k = true ∧ s.pwr.keepLasts = false) := by
  decide +kernel
/-- A fault makes a wake due (16 R437). -/
def waking (f : Pwr → Pwr) : State := atReady fun s => { s with pwr := f { s.pwr with thenReset := 1 } }
theorem witness_RestStates_wake :
    ((waking fun p => { p with entering := some 1 }).ready = true ∧ (waking fun p => { p with entering := some 1 }).wakeDue = true ∧
      (waking fun p => { p with entering := some 1 }).pwr.entering ≠ none) ∧
    ((waking fun p => { p with rest := 4 }).wakeDue = true ∧ (waking fun p => { p with rest := 4 }).pwr.rest ≠ 0 ∧
      (waking fun p => { p with rest := 4 }).pwr.waking ≠ some 0) ∧
    (let s := atPwr fun p => { p with rest := 2, waking := some 1 }
     s.pwr.waking = some 1 ∧ s.pwr.rest ≤ 2) ∧
    (let s := atPwr fun p => { p with rest := 4, waking := some 0 }
     s.pwr.waking = some 0 ∧ s.pwr.thenReset = 0 ∧ s.pwr.rest = 4 ∧ s.pwr.staged = none) ∧ (atReady id).wakeDue = false := by
  decide +kernel

/-- An image for every ordering code. -/
def image0 (level : Nat) : FwImage :=
  { release := 1, version := 2, level := level, codes := 0xFF, chunks := 1, verified := true, digest := 0, bytes := [], length := 0 }
theorem codeBit_lt_8 : codeBit < 8 := by unfold codeBit; cases Config.ordering <;> decide
theorem image0_starts (k : Shk) (n : Nat) (h : k.rollback ≤ n) : k.starts (image0 n) = true := by
  have e : (0xFF#8).getLsbD codeBit = true := by
    have h := codeBit_lt_8
    generalize codeBit = c at h
    revert c
    decide
  show (true && decide (k.rollback ≤ n) && (0xFF#8).getLsbD codeBit) = true
  rw [e, decide_eq_true h]; rfl
theorem witness_ResetsAndBringUp_boot :
    State.reset.pwr.sup ≠ 3 ∧ State.reset.rst.phase = 0 ∧ State.reset.rst.started = false ∧
    (∀ k : Shk, k.starts (image0 k.rollback) = true) ∧
    (∀ x, ({ State.reset.shk with slotA := none, slotF := none } : Shk).slotA = some x → False) :=
  ⟨by decide, rfl, rfl, fun k => image0_starts k _ (Nat.le_refl _), fun x h => by simp at h⟩
theorem witness_ResetsAndBringUp_resets :
    (let s := atReady id
     s.pwr.sup ≤ 1 ∧ s.ready = true ∧ s.pwr.rest = 0 ∧ s.live = true ∧ (0xC301#64).toNat / 256 % 256 = 0xC3 ∧ (0xC302#64).getLsbD 1 = true ∧
       (0xC301#64).getLsbD 1 = false ∧ (0xC301#64).getLsbD 0 = true) ∧
    ((atPwr fun p => { p with rest := 1 }).pwr.rest ≠ 0 ∧ (0xC3#64).toNat / 256 % 256 ≠ 0xC3 ∧ State.reset.ready = false) ∧
    (let s := atReady fun s => { s with flt := { s.flt with active := true, twoMs := true } }
     s.flt.active = true ∧ s.flt.twoMs = true ∧ s.dumpDue = false ∧ s.ready = true) ∧
    (let s : State := { State.reset with flt := { State.reset.flt with active := true, twoMs := true },
                                         rst := { State.reset.rst with retries := 3 } }
     s.ready = false ∧ s.rst.retries ≥ 3 ∧ s.dumpDue = false) ∧
    (let s := atReady fun s => { s with flt := { s.flt with active := true, twoMs := true }, pwr := { s.pwr with sup := 2, vin := 2999 } }
     s.pwr.sup = 2 ∧ s.pwr.inRange = false) := by
  decide +kernel
/-- The last phases of bring-up. -/
def atRst (p kind : Nat) : State := { State.reset with rst := { State.reset.rst with phase := p, kind := kind } }
theorem witness_ResetsAndBringUp_phases :
    (atRst 2 0).rst.phase = 2 ∧ (atRst 3 0).rst.phase = 3 ∧ (atRst 4 0).rst.phase = 4 ∧ (atRst 5 0).rst.phase = 5 ∧
    ((atRst 1 1).rst.phase = 1 ∧ (atRst 1 1).rst.kind = 1) ∧ (atRst 5 0).flt.active = false ∧ (atRst 5 0).pwr.sup ≠ 3 := by
  decide +kernel
/-- The fuses are open (an opaque constant of the configuration); a core that they do not mark is not marked at reset. -/
theorem witness_ResetsAndBringUp_core (h : Config.fuseBad 335 = false) : (atRst 4 0).markedBad (84 * 3 + 83) = false := by
  show (Config.fuseBad 335 || false) = false
  rw [h]; rfl

/-- A partial reset that runs. -/
def atPartial (scope index stragglers : Nat) (drained : Bool) : State := atReady fun s =>
  { s with rst := { s.rst with scope := scope, index := index, busy := true, drained := drained, stragglers := stragglers } }
theorem test_partial_reset_clears_the_core :
    (match exec .partialDrainExpiry ((atPartial 1 5 0 false).modCore 5 fun k => k.setA 1 7#64) with
      | .next t => (t.core 5).ra 1 == 0#64 && t.rst.drained
      | _ => false) = true := by decide +kernel
theorem witness_PartialReset :
    ((∀ v ∈ [1 + 4 * 319, 2 + 4 * 39, 3 + 4 * 3],
        (v % 4 = 1 ∧ v / 4 % 512 ≤ 319) ∨ (v % 4 = 2 ∧ v / 4 % 512 ≤ 39) ∨ (v % 4 = 3 ∧ v / 4 % 512 ≤ 3)) ∧
      (atReady id).pwr.sup ≠ 3 ∧ (atReady id).rst.busy = false ∧ (atReady id).live = true ∧ (BitVec.ofNat 64 (2 ^ 11 + 1 + 4 * 319)).getLsbD 11 = true) ∧
    ((atPartial 3 3 0 false).live = true ∧ (atPartial 3 3 0 false).rst.busy = true ∧ (atPartial 3 3 0 false).rst.drained = false) ∧
    ((atPartial 1 319 0 true).rst.drained = true ∧ (atPartial 1 319 0 true).rst.stragglers = 0) ∧ (atPartial 1 319 1 true).rst.stragglers ≠ 0 := by
  decide +kernel
/-- A ready module without contexts. -/
def bare : State := { atReady id with ctxs := [] }
theorem witness_PartialReset_stragglers :
    (bare.live = true ∧ bare.rst.busy = false ∧ (∀ c, bare.core c = {}) ∧ (∀ c n, SMap.get none (bare.ctx n).saved c = none) ∧
      (∀ n, (bare.ctx n).pool = [])) ∧
    (let r : Rst := { State.reset.rst with scope := 1, index := 319, busy := true }
     r.hasCore 319 = true ∧ (((bare.modCore 319 fun k => { k with task := some { run := 1, tid := 7 } }).core 319).task.isSome = true)) :=
  ⟨⟨rfl, rfl, fun _ => rfl, fun _ _ => rfl, fun _ => rfl⟩, rfl, rfl⟩

/-- A window of 120 samples whose newest ten draw `a` and whose others draw `b`. -/
def rampWindow (a b : Nat) : List (Nat × Nat × Nat) := (List.range 120).map fun i => (1000 - i, 5000, if i < 10 then a else b)

/-- 16 R424: 34.0 A after 10.0 A a tenth of a millisecond before is more than 40 A/ms allows. -/
theorem test_ramp_risen : ({ window := rampWindow 3400 1000, hist := 16 } : Pwr).risen = true := by decide +kernel
/-- 16 R424: a step of 0.5 A lies within the allowance of 1 A. -/
theorem test_ramp_free : ({ window := rampWindow 1050 1000 } : Pwr).risen = false := by decide +kernel
/-- 16 R425: a fall by 24.0 A is slowed by ballast, with no RUN in progress. -/
theorem test_ballast_fall : (({ window := rampWindow 1000 3400 } : Pwr).ballasted false 0).ballast = true := by decide +kernel
/-- 16 R425: 900 W are below a floor of 1,800 W while a RUN is in progress, and ballast stops with the last RUN. -/
theorem test_ballast_floor : (({ vin := 5000, iin := 1800, floor := 1800 } : Pwr).ballasted true 0).ballast = true ∧
    (({ vin := 5000, iin := 1800, floor := 1800 } : Pwr).ballasted false 0).ballast = false := by decide
/-- 16 R436: a budget that allows no rest ends an entry. -/
theorem test_entry_limited : (({ entering := some 2 } : Pwr).limited 0).entering = none ∧
    (({ entering := some 2 } : Pwr).limited 1).entering = some 1 := by decide

/-- The clock above, and below, what R429 allows, with the current free to move. -/
theorem witness_SupplyMonitorAndClock_governor :
    (let p : Pwr := { clkReq := 650, clk := 700, vpt := 700 }
     p.top < p.clk ∧ p.overLimit = false ∧ p.fallen = false) ∧
    (let p : Pwr := { clkReq := 650, clk := 600, vpt := 600 }
     p.clk < p.top ∧ p.overLimit = false ∧ p.risen = false) ∧
    (let p : Pwr := { clkReq := 650, clk := 600, vpt := 600, iin := 6001 }
     p.overLimit = true) := by
  unfold Pwr.top Pwr.ceiling Pwr.overLimit currentCeiling clkMax powerLimit
  cases Config.ordering <;> decide +kernel
/-- 16 R428: the voltage goes up first, and the clock follows a sample later. -/
theorem test_voltage_leads_the_clock :
    ({ clk := 600, vpt := 650 } : Pwr).lift.clk = 650 ∧ ({ clk := 600, vpt := 600 } : Pwr).lift.clk = 600 ∧
      ({ clk := 650, vpt := 650 } : Pwr).lower.clk = 600 ∧ ({ clk := 650, vpt := 650 } : Pwr).lower.vpt = 650 := by
  simp only [Pwr.lift, Pwr.lower, Pwr.top, Pwr.ceiling, clkMax]
  cases Config.ordering <;> decide
/-- The learned curve runs ballast for a rise that it predicts (16 R426). -/
theorem witness_SupplyMonitorAndClock_early :
    ({ hist := 16, aim := some (100, 1200), iin := 1000, ramp := 40 } : Pwr).early 60 = true ∧
      ({ hist := 16, aim := some (100, 1200), iin := 1000, ramp := 40 } : Pwr).early 40 = false := by decide
theorem witness_SupplyMonitorAndClock_cell :
    (atPwr fun p => { p with fed := 14399999999 }).pwr.fed + 1 = 14400000000 ∧ (atPwr fun p => { p with fed := 5 }).pwr.stageOpen = false ∧
      (atPwr fun p => { p with stageOpen := true }).pwr.stageOpen = true ∧ (atPwr id).anyRun = false ∧
      ((atPwr id).modCtx 3 fun k => { k with runs := [run1] }).anyRun = true := by decide +kernel
/-- The power is down, or is not; and a wake that a lower budget bounds, or that a fault's reset waits for. -/
theorem witness_RestStates_power :
    (atPwr fun p => { p with entering := some 1 }).pwr.clk = 600 ∧ (atPwr fun p => { p with entering := some 1 }).pwr.ballast = false ∧
      (atPwr fun p => { p with entering := some 1, clk := 650, vpt := 650 }).pwr.clk ≠ 600 ∧
      (atPwr fun p => { p with rest := 4, waking := some 3 }).pwr.waking = some 3 ∧
      (atReady fun s => { s with flt := { s.flt with active := true }, pwr := { s.pwr with rest := 1, waking := some 0, thenReset := 1 } }).pwr.thenReset = 1 ∧
      (atPwr fun p => { p with rest := 4, waking := some 4 }).pwr.waking = some 4 := by decide +kernel
/-- A cold reset that a wake delays comes before the fault reset. -/
theorem witness_ResetsAndBringUp_cold_first :
    let s := atReady fun s => { s with flt := { s.flt with active := true, twoMs := true }, pwr := { s.pwr with rest := 3, thenReset := 2 } }
    s.pwr.sup ≤ 1 ∧ s.pwr.rest ≠ 0 ∧ 2 ≤ s.pwr.thenReset ∧ s.flt.active = true := by decide +kernel

/-! ## Collectives, the abort wave, the dump, health (11, 14) -/

/-- A ready module as coordinate 0 of a group of three in X. -/
def inGroup (m : List Msg) (cs : List Coll) (f : State → State) : State := atReady fun s =>
  f { s with link := { s.link with member := true, sizeM1 := 2, inbox := m }, colls := cs }
/-- A ring operation on 192 bytes over X: rail parts of 24 bytes, segments of 8. -/
def ringDesc (op : Nat) : CollDesc :=
  { op := op, combine := 1, dims := 1, retain := false, stepctl := false, hipri := false, record := false, cid := 7, src := 0x010000000000,
    dst := 0x010000001000, len := 192, tag := 0, recAddr := 0, sem := 9, peer := 0, entries := 0 }
def ringColl (op : Nat) (q : Rail) : Coll :=
  { id := 1, ctx := 3, epoch := 5, layout := 0, d := ringDesc op, owner := 0, run := 1, rails := [(0, q)], p2p := [], pieces := [], ctl := none, results := [] }
/-- A message of kind `kind` about that operation, on rail 0 in X. -/
def ringMsg (kind off : Nat) (data : List (BitVec 64)) : Msg :=
  mkMsg 0 1 3 2 0 7 (BitVec.ofNat 64 kind) 5 (BitVec.ofNat 64 off) 0 data
/-- A rail that awaits its first bytes in stage `k`, inside its window. -/
def openRail (k : Nat) : Rail := { stage := k, granted := [(0, 24)] }
def dataMsg (off : Nat) : Msg := ringMsg 0 off [1]
def ownMsg : Msg := dataMsg 0
def fwdMsg : Msg := dataMsg 8
def reduceColl : Coll := ringColl 2 (openRail 0)
def gatherColl : Coll := ringColl 1 (openRail 1)
def atOwn : State := inGroup [ownMsg] [reduceColl] id
def atFwd : State := inGroup [fwdMsg] [reduceColl] id
def atGather : State := inGroup [fwdMsg] [gatherColl] id
def rsStage : CStage := { dim := 0, gather := false }
def agStage : CStage := { dim := 0, gather := true }
theorem witness_CollectiveMessages_discard :
    (inGroup [ownMsg] [] id).link.inbox[0]? = some ownMsg ∧ ownMsg.kind = 0 ∧ ownMsg.tag ≠ streamTag ∧
      (inGroup [ownMsg] [] id).flowHead 0 ownMsg = true ∧
      (inGroup [ownMsg] [] id).findColl ownMsg.ctx ownMsg.epoch ownMsg.tag ownMsg.layout = none ∧
      (inGroup [ownMsg, fwdMsg] [] id).flowHead 1 fwdMsg = false := by
  refine ⟨?_, ?_, ?_, ?_, ?_, ?_⟩ <;> decide +kernel
def shutRail : Coll := ringColl 2 { stage := 0 }
/-- A grant of nothing shuts a rail out, and a path fails for a message that matches. -/
theorem witness_CollectiveMessages_refused :
    (let s := inGroup [ownMsg] [shutRail] id
     s.findColl ownMsg.ctx ownMsg.epoch ownMsg.tag ownMsg.layout = some shutRail ∧ s.flt.active = false ∧ ownMsg.data ≠ [] ∧
       (shutRail.rail ownMsg.rail).window ownMsg.dim < (wordsBytes ownMsg.data).length ∧ (shutRail.rail ownMsg.rail).window ownMsg.dim < 240) := by
  refine ⟨?_, ?_, ?_, ?_, ?_⟩ <;> decide +kernel
theorem witness_CollectiveMessages_reduce_own :
    atOwn.findColl ownMsg.ctx ownMsg.epoch ownMsg.tag ownMsg.layout = some reduceColl ∧ atOwn.coll? 1 = some reduceColl ∧
      reduceColl.d.ring = true ∧ (atOwn.stages reduceColl.d)[(reduceColl.rail ownMsg.rail).stage]? = some rsStage ∧ rsStage.dim = ownMsg.dim ∧
      (wordsBytes ownMsg.data).length ≤ atOwn.stageBytes reduceColl.d rsStage ∧
      (wordsBytes ownMsg.data).length ≤ (reduceColl.rail ownMsg.rail).window ownMsg.dim ∧ (reduceColl.rail ownMsg.rail).sendQ = [] ∧
      SMap.get 0 (reduceColl.rail ownMsg.rail).heard ownMsg.dim ≤ SMap.get 0 (reduceColl.rail ownMsg.rail).sent ownMsg.dim ∧
      atOwn.ecc.bad = [] ∧ atOwn.ecc.injArmed = false ∧ atOwn.rst.busy = false ∧
      atOwn.segAt reduceColl.d ownMsg.dim ownMsg.off = atOwn.own ownMsg.dim := by
  refine ⟨?_, ?_, ?_, ?_, ?_, ?_, ?_, ?_, ?_, ?_, ?_, ?_, ?_⟩ <;> decide +kernel
theorem witness_CollectiveMessages_reduce_other :
    atFwd.findColl fwdMsg.ctx fwdMsg.epoch fwdMsg.tag fwdMsg.layout = some reduceColl ∧ atFwd.coll? 1 = some reduceColl ∧
      (atFwd.stages reduceColl.d)[(reduceColl.rail fwdMsg.rail).stage]? = some rsStage ∧ rsStage.dim = fwdMsg.dim ∧
      (wordsBytes fwdMsg.data).length ≤ atFwd.stageBytes reduceColl.d rsStage ∧ wordsBytes fwdMsg.data ≠ [] ∧
      atFwd.segAt reduceColl.d fwdMsg.dim fwdMsg.off ≠ atFwd.own fwdMsg.dim := by
  refine ⟨?_, ?_, ?_, ?_, ?_, ?_, ?_⟩ <;> decide +kernel
theorem witness_CollectiveMessages_gather :
    atGather.findColl fwdMsg.ctx fwdMsg.epoch fwdMsg.tag fwdMsg.layout = some gatherColl ∧ atGather.coll? 1 = some gatherColl ∧
      (atGather.stages gatherColl.d)[(gatherColl.rail fwdMsg.rail).stage]? = some agStage ∧ agStage.dim = fwdMsg.dim ∧
      (wordsBytes fwdMsg.data).length ≤ atGather.stageBytes gatherColl.d agStage ∧
      (wordsBytes fwdMsg.data).length ≤ (gatherColl.rail fwdMsg.rail).window fwdMsg.dim ∧
      (atGather.ctx 3).inRetained 0x010000001008 8 = false := by
  refine ⟨?_, ?_, ?_, ?_, ?_, ?_, ?_⟩ <;> decide +kernel
def recv2 : P2p := { send := false, peer := 2, addr := 0x010000000000, len := 16, done := 8, grant := 16 }
def recvColl : Coll := { ringColl 6 {} with p2p := [recv2] }
def atRecv : State := inGroup [fwdMsg] [recvColl] id
theorem witness_CollectiveMessages_p2p :
    atRecv.findColl fwdMsg.ctx fwdMsg.epoch fwdMsg.tag fwdMsg.layout = some recvColl ∧ recvColl.d.ring = false ∧
      recvColl.p2p? false fwdMsg.src = some recv2 ∧ fwdMsg.off = recv2.done ∧ (wordsBytes fwdMsg.data).length ≤ recv2.grant - recv2.done ∧ recvColl.p2p? false 9 = none ∧
      recv2.done + (wordsBytes fwdMsg.data).length ≤ recv2.len ∧ (atRecv.ctx recvColl.ctx).inRetained (recv2.addr + recv2.done) 8 = false := by
  refine ⟨?_, ?_, ?_, ?_, ?_, ?_, ?_, ?_⟩ <;> decide +kernel
def grantMsg : Msg := ringMsg 0x10 24 []
def lateGrant : Msg := { grantMsg with w1 := 0x0002000000000005#64 }
def atGrant : State := inGroup [grantMsg] [ringColl 2 {}] id
/-- A PERMUTE that sends 16 bytes, and a GRANT for 24. -/
def send2 : P2p := { send := true, peer := 2, addr := 0x010000000000, len := 16 }
def permColl : Coll := { ringColl 7 {} with p2p := [send2] }
def permMsg : Msg := { grantMsg with w3 := 24 }
def atPerm : State := inGroup [permMsg] [permColl] id
theorem witness_CollectiveMessages_permute :
    permMsg.kind = 0x10 ∧ atPerm.flowHead 0 permMsg = true ∧ atPerm.findColl permMsg.ctx permMsg.epoch permMsg.tag permMsg.layout = some permColl ∧
      permColl.d.op = 7 ∧ permColl.p2p? true permMsg.src = some send2 ∧ permMsg.w3.toNat ≠ send2.len ∧ atPerm.flt.active = false := by
  refine ⟨?_, ?_, ?_, ?_, ?_, ?_, ?_⟩ <;> decide +kernel
def atEarly : State := inGroup [grantMsg] [] id
def atLate : State := inGroup [lateGrant] [] id
theorem witness_CollectiveMessages_grant :
    grantMsg.kind = 0x10 ∧ atGrant.findColl grantMsg.ctx grantMsg.epoch grantMsg.tag grantMsg.layout = some (ringColl 2 {}) ∧
      ((ringColl 2 {}).rail grantMsg.rail).sendQ = [] ∧ atEarly.findColl grantMsg.ctx grantMsg.epoch grantMsg.tag grantMsg.layout = none ∧
      grantMsg.layout = (atEarly.ctx grantMsg.ctx).step.layout ∧ atEarly.link.grants = [] ∧
      lateGrant.layout ≠ (atLate.ctx lateGrant.ctx).step.layout ∧ lateGrant.layout ≠ (atLate.ctx lateGrant.ctx).step.layout + 1 ∧
      atLate.flt.active = false := by
  refine ⟨?_, ?_, ?_, ?_, ?_, ?_, ?_, ?_, ?_⟩ <;> decide +kernel
/-- A shard end of coordinate 1 over a piece of zeros, with its CRC. -/
def endMsg (w : BitVec 64) : Msg := ringMsg 1 0 [w]
def endColl : Coll := ringColl 3 (openRail 0)
def atEnd : State := inGroup [endMsg 0x18C28B28A] [endColl] id
/-- FC_LINK_LOST of direction 0 stands. -/
def atLost : State := inGroup [] [] fun s =>
  { s with flt := { s.flt with active := true, primary := some 0 },
           hlt := { s.hlt with nextSeq := 1, recs := [(0, { cls := 0x102, valid := true })] } }
theorem witness_CollectiveMessages_shard_end :
    (endMsg 0x18C28B28A).kind = 1 ∧
      atEnd.findColl (endMsg 0x18C28B28A).ctx (endMsg 0x18C28B28A).epoch (endMsg 0x18C28B28A).tag (endMsg 0x18C28B28A).layout = some endColl ∧
      (atEnd.stages endColl.d)[(endColl.rail 0).stage]? = some agStage ∧ endColl.d.tagged = true ∧
      coordAt 1 0 = atEnd.downOf 0 0 (atEnd.own 0) ∧ atEnd.shardOf endColl.d.dims 1 = 1 ∧ atEnd.pieceLen endColl.d = 8 ∧
      crc32c (Mem.read (endColl.rail 0).vals 8 8) = 0x8C28B28A#32 ∧ atEnd.collLost endColl = false ∧
      atLost.collLost endColl = true := by
  refine ⟨?_, ?_, ?_, ?_, ?_, ?_, ?_, ?_, ?_, ?_⟩ <;> decide +kernel
def waveMsg6 : Msg := { ringMsg 2 0 [1, 2, 3, 4, 5, 6] with tag := waveTag }
def wave0 : Wave := { epoch := 5, mins := [0, 0, 0], maxs := [0, 0, 0], stage := 0, heard := [] }
def atWave : State := inGroup [waveMsg6] [] fun s => s.modCtx 3 fun k => k.modStep fun t => { t with wave := some wave0 }
def ctl0 : CtlSec := { words := [0, 0, 0], tids := [], chans := [], stage := 0, heard := 0, pos := 0, mismatch := false, sendQ := [] }
def ctlColl : Coll := { ringColl 1 (openRail 0) with ctl := some ctl0 }
def ctlMsg : Msg := ringMsg 2 0 [1, 2, 3]
def atCtl : State := inGroup [ctlMsg] [ctlColl] id
theorem witness_CollectiveMessages_control :
    (waveMsg6.kind = 2 ∧ (atWave.ctx waveMsg6.ctx).step.wave = some wave0 ∧ atWave.groupDims[wave0.stage]? = some waveMsg6.dim ∧
      wave0.epoch = waveMsg6.epoch ∧ wave0.heard.length + 1 < atWave.dimSize 0 - 1) ∧
    (ctlMsg.tag ≠ waveTag ∧ atCtl.findColl ctlMsg.ctx ctlMsg.epoch ctlMsg.tag ctlMsg.layout = some ctlColl ∧
      atCtl.groupDims[ctl0.stage]? = some ctlMsg.dim ∧ ctlMsg.off = 0 ∧ ctlMsg.data.length = ctl0.words.length ∧
      ctl0.heard + 1 < atCtl.dimSize 0 - 1 ∧ (ringMsg 2 0 [1, 2]).data.length ≠ ctl0.words.length ∧ ctl0.words.length < 480 ∧
      8 * ctlMsg.data.length ≤ (ctlColl.rail 0).window ctlMsg.dim ∧ (shutRail.rail 0).window 0 < 8 * ctlMsg.data.length) := by
  refine ⟨⟨?_, ?_, ?_, ?_, ?_⟩, ⟨?_, ?_, ?_, ?_, ?_, ?_, ?_, ?_, ?_, ?_⟩⟩ <;> decide +kernel
theorem witness_CollectivesComplete :
    (let c := ringColl 2 { openRail 0 with got := 16 }
     let s := inGroup [] [c] id
     s.coll? 1 = some c ∧ s.stageDone c 0 = true ∧ s.stageDone c 1 = false ∧ s.collDone c = false) ∧
    (let c := { ringColl 2 {} with rails := (List.range 8).map fun r => (r, { stage := 1 }) }
     let s := inGroup [] [c] id
     s.collDone c = true ∧ c.ctl = none ∧ c.d.retain = false ∧ c.owner ≠ 1 ∧ (s.sem 3 9).toNat + 1 < 2 ^ 32 ∧ (s.ctx 3).step.reshard = none ∧
       s.cores = [] ∧ s.flt.active = false) ∧
    (let c := ringColl 2 (openRail 0)
     let s := inGroup [] [c] id
     c.d.ring = true ∧ s.flt.active = false ∧ s.awaits c 2 ≠ none ∧ s.collLost c = false ∧ s.awaits c 0x9999 = none ∧ s.ctlAwaits c 0x9999 = false) := by
  decide +kernel

/-- An ABORT or TALLY: subject 1, originator 2, fault epoch 3. -/
def waveMsg (kind : BitVec 64) : Msg := mkMsg 0 0 31 2 0 0 kind 0 0 0x0000000300020001 []
def seenKey1 (lowest : BitVec 16) : Seen := { subject := 1, lowest := lowest, epoch := 3, origin := false, primary := false, dup := 0, tally := 65535 }
def atAbort : State := inGroup [waveMsg 0x20] [] id
def atSeen (lowest : BitVec 16) : State := inGroup [waveMsg 0x21] [] fun s => { s with link := { s.link with seen := [(0, seenKey1 lowest)] } }
def atTally (lowest : BitVec 16) : State := inGroup [] [] fun s =>
  { s with link := { s.link with seen := [(0, seenKey1 lowest)] }, flt := { s.flt with active := true, primary := some 0 },
           hlt := { s.hlt with nextSeq := 1, recs := [(0, { cls := 0x100, subject := 1, epoch := 3, valid := true })] } }
theorem witness_AbortWaveAndReport :
    (atAbort.link.inbox[0]? = some (waveMsg 0x20) ∧ (waveMsg 0x20).w0.toNat % 256 = 0x20 ∧
      atAbort.seenKey (waveMsg 0x20).subject (waveMsg 0x20).faultEpoch = none ∧ atAbort.flt.active = false) ∧
    ((atSeen 1).seenKey 1 3 = some (seenKey1 1) ∧ (atSeen 3).seenKey 1 3 = some (seenKey1 3) ∧ (waveMsg 0x20).origin = 2) ∧
    ((atTally 0).faultSeqs[0]? = some 0 ∧ 0 ∉ (atTally 0).flt.ms1 ∧ (atTally 0).seenKey 1 3 = some (seenKey1 0) ∧
      (atTally 0).leadsKey 0 = true ∧ (atTally 3).seenKey 1 3 = some (seenKey1 3) ∧ (atTally 3).leadsKey 0 = true ∧ (atTally 0).link.coord = 0 ∧
      (atTally 0).flt.active = true ∧ (atTally 0).flt.twoMs = false ∧ (atTally 0).faultSeqs[1]? = none) := by
  refine ⟨⟨?_, ?_, ?_, ?_⟩, ⟨?_, ?_, ?_⟩, ⟨?_, ?_, ?_, ?_, ?_, ?_, ?_, ?_, ?_, ?_⟩⟩ <;> decide +kernel
/-- A key reported by its primary, a record that leads no key, and one settled already. -/
def atReport (d : Hlt → Hlt) : State :=
  let s := atTally 0
  { s with link := { s.link with seen := [(0, { seenKey1 0 with primary := true })] },
           hlt := d { s.hlt with recs := [(0, { cls := 0x100, subject := 1, epoch := 3, valid := true, primary := true })] },
           flt := { s.flt with ms1 := [0] } }
theorem witness_AbortWaveAndReport_report :
    (atReport id).leadsKey 0 = true ∧ (atReport id).isPrimary 1 3 = true ∧ 0 ∉ (atReport id).flt.told ∧ ((atReport id).record 0).primary = true ∧
      (atReport id).link.member = true ∧ 0 ∈ (atReport id).flt.ms1 ∧
      (atReport fun h => { h with recs := [(0, { cls := 0x105 })] }).leadsKey 0 = false := by
  refine ⟨?_, ?_, ?_, ?_, ?_, ?_, ?_⟩ <;> decide +kernel
/-- A latched fatal fault whose dump stands before region `next`. -/
def atDump (next : Nat) (f : Flt → Flt) : State := atReady fun s =>
  { s with flt := f { s.flt with active := true, primary := some 0, dumping := true, dumpNext := next, dumpValid := true },
           hlt := { s.hlt with nextSeq := 1, recs := [(0, { cls := 0x100, valid := true })] } }
theorem witness_CrashDump_regions :
    ((atDump 0 id).regionReady = true ∧ (atDump 0 id).flt.dumping = true ∧ ([7#8] : List Byte).length ≤ regionLen 0 ∧
      (atDump 404 id).regionReady = true ∧ (atDump 405 id).regionReady = false ∧ (atDump 0x170 id).regionReady = false) ∧
    (let s := atDump 405 id
     s.flt.active = true ∧ s.dumpDue = true ∧ s.flt.primary = some 0 ∧ s.flt.secondaries < 15 ∧ s.flt.unreadable = 0 ∧ s.hlt.nextSeq % 256 ≠ 0 % 256) ∧
    (let s := atDump 405 fun x => { x with dir := [{ id := 0, status := 2, off := 0, len := 0, read := 0 }] }
     s.flt.unreadable ≠ 0) := by
  decide +kernel
theorem witness_CrashDump_opens :
    (atReady id).flt.active = false ∧ (atReady id).flt.dumping = false ∧ ({ cls := 0x100 } : FRec).cls ≠ 0x105 := by
  refine ⟨?_, ?_, ?_⟩ <;> decide +kernel
/-- DUMP_READ of context `n`, pages 131,071 and one of them, from offset 4,096. -/
def dumpParams (n : Byte) : List Byte := [n, 0, 0, 0, 0, 0, 0, 0, 0xFF, 0xFF, 1, 0, 1, 0, 0, 0, 0, 0x10, 0, 0, 0, 0, 0, 0]
def atDumpRead (n : Byte) (f : State → State) : State := atCmd 16 0xF0 (dumpParams n) fun s =>
  f { s with host := { s.host with pages := [(131071, { owner := 2, seq := 0 })] },
             allocs := [{ ctx := 3, tier := 2, base := 0x023FFFE00000, units := 1, freeing := false }] }
theorem witness_CrashDump_read :
    (let s := atDumpRead 3 id
     let c := hostCmd 0xF0 (dumpParams 3)
     s.flt.dumpRead = none ∧ s.live = true ∧ s.cmd? 16 0xF0 0xBEEF false = some c ∧ c.p 8 1 < 16 ∧ s.devicePages 3 (c.p 16 4) (c.p 20 4) = true ∧
       c.p 24 8 % 4096 = 0 ∧ s.flt.dumpValid = false) ∧
    (let s := atDumpRead 16 id
     s.live = true ∧ s.cmd? 16 0xF0 0xBEEF false = some (hostCmd 0xF0 (dumpParams 16)) ∧ ¬ (hostCmd 0xF0 (dumpParams 16)).p 8 1 < 16) ∧
    (let s := atDumpRead 3 fun s => { s.modCHost 16 fun h => { h with cmds := [{ hostCmd 0xF0 (dumpParams 3) with running := true }] } with
       flt := { s.flt with dumpRead := some (0xBEEF, 3, 131071, 1, 4096), dumpValid := true } }
     s.flt.dumpRead = some (0xBEEF, 3, 131071, 1, 4096) ∧ (s.cmd? 16 0xF0 0xBEEF true).isSome = true ∧ 131071 + 1 ≤ 131072 ∧
       (∀ p ∈ [131071], (s.page p).owner = 2)) := by
  decide +kernel

/-! ### Health and fencing -/

theorem test_tick_saturates :
    (match exec .healthScoreTick (atReady fun s => { s with hlt := { s.hlt with score := 1000 } }) with
      | .next t => t.hlt.score == 1000
      | _ => false) = true := by decide +kernel
theorem witness_HealthAndFencing :
    (let s := atReady fun s => { s with hlt := { s.hlt with hstate := 1, score := 399 } }
     s.ready = true ∧ s.hlt.hstate = 1 ∧ s.hlt.probBelow ≤ s.hlt.probExit ∧ s.hlt.probExit ≤ min 1000 (s.hlt.score + 1)) ∧
    (let s := atReady fun s => { s with hlt := { s.hlt with hstate := 0, score := 299 } }
     s.hlt.hstate = 0 ∧ s.hlt.probBelow ≤ min 1000 (s.hlt.score + 1)) ∧
    (let s := atReady fun s => { s with hlt := { s.hlt with hstate := 1, score := 148, asked := true, withheld := true } }
     s.hlt.hstate = 1 ∧ s.hlt.asked = true ∧ s.hlt.score < s.hlt.reqBelow ∧ s.hlt.hint = false ∧ s.hlt.withheld = true ∧
       min 1000 (s.hlt.score + 1) < s.hlt.probExit ∧ min 1000 (s.hlt.score + 1) < s.hlt.reqBelow) ∧
    (let s := atReady fun s => { s with hlt := { s.hlt with hstate := 1, score := 148, hintHeld := true } }
     s.hlt.asked = false ∧ s.hlt.hintHeld = true ∧ s.hlt.hint = false ∧ min 1000 (s.hlt.score + 1) < s.hlt.reqBelow) ∧
    (let s := atReady fun s => { s with hlt := { s.hlt with hstate := 1, score := 149 } }
     s.hlt.reqBelow ≤ min 1000 (s.hlt.score + 1) ∧ min 1000 (s.hlt.score + 1) < s.hlt.probExit) ∧
    (let s := atReady fun s => { s with hlt := { s.hlt with hstate := 2, hint := true } }
     s.hlt.hstate = 2 ∧ s.hlt.hint = true) := by
  decide +kernel
theorem witness_HealthAndFencing_commands (ps : List Byte) :
    Begins (atCmd 16 0xA1 ps id) 16 0xA1 0xBEEF (hostCmd 0xA1 ps) ∧ Begins (atCmd 16 0xA0 ps id) 16 0xA0 0xBEEF (hostCmd 0xA0 ps) ∧
      Begins (atCmd 16 0x92 ps id) 16 0x92 0xBEEF (hostCmd 0x92 ps) ∧ (∀ p, ((atCmd 16 0x92 ps id).port p).st ≠ 6) :=
  ⟨⟨rfl, rfl⟩, ⟨rfl, rfl⟩, ⟨rfl, rfl⟩, fun p => by show ({} : Port).st ≠ 6; decide⟩
theorem leNat_natLe (n v : Nat) : leNat (natLe n v) = v % 256 ^ n := by
  induction n generalizing v with
  | zero => simp [natLe, leNat, Nat.mod_one]
  | succ n ih =>
    simp only [natLe, leNat, ih, BitVec.toNat_ofNat]
    show v % 256 + 256 * (v / 256 % 256 ^ n) = v % 256 ^ (n + 1)
    rw [Nat.pow_succ (m := n), Nat.mul_comm (256 ^ n) 256, Nat.mod_mul]
theorem natLe_length (n v : Nat) : (natLe n v).length = n := by induction n generalizing v <;> simp [natLe, *]
/-- A FENCE_PEER that names a serial. -/
theorem fence_serial (v : BitVec 64) : BitVec.ofNat 64 ((hostCmd 0x92 (natLe 8 v.toNat)).p 8 8) = v := by
  show BitVec.ofNat 64 (leNat ((natLe 8 v.toNat).take 8)) = v
  rw [List.take_of_length_le (by simp [natLe_length]), leNat_natLe]
  have h : v.toNat % 256 ^ 8 = v.toNat := Nat.mod_eq_of_lt v.isLt
  rw [h]; simp
/-- The serial is an opaque constant of the configuration: some other serial exists, and it is its own. -/
theorem witness_HealthAndFencing_serials :
    (∃ v : BitVec 64, v ≠ 0 ∧ v ≠ Config.serial) ∧ BitVec.ofNat 64 ((hostCmd 0x92 (natLe 8 Config.serial.toNat)).p 8 8) = Config.serial := by
  refine ⟨?_, fence_serial _⟩
  by_cases h : Config.serial = 1#64
  · exact ⟨2#64, by decide, by rw [h]; decide⟩
  · exact ⟨1#64, by decide, fun e => h e.symm⟩

/-- A message behind another of its flow that the window leaves no room for. -/
theorem witness_CollectiveMessages_beyond :
    let s := inGroup [ownMsg, fwdMsg] [shutRail] id
    s.flowHead 1 fwdMsg = false ∧ s.findColl fwdMsg.ctx fwdMsg.epoch fwdMsg.tag fwdMsg.layout = some shutRail ∧ shutRail.d.ring = true ∧
      (shutRail.rail fwdMsg.rail).window fwdMsg.dim - s.waitingBefore 1 fwdMsg < 240 ∧
      (shutRail.rail fwdMsg.rail).window fwdMsg.dim - s.waitingBefore 1 fwdMsg < 8 * fwdMsg.data.length := by
  refine ⟨?_, ?_, ?_, ?_, ?_⟩ <;> decide +kernel
/-- The context of a dump read is ACTIVE and holds the pages, or it is not ACTIVE any more. -/
theorem witness_CrashDump_read_context :
    let s := atDumpRead 3 id
    (s.ctx 3).sched.st = 1 ∧ s.devicePages 3 131071 1 = true ∧ ((s.modCtx 3 fun k => k.modSched fun h => { h with st := 2 }).ctx 3).sched.st ≠ 1 := by
  decide +kernel

/-! ## Programs, contexts and the group (12, 13, 07) -/

/-- A program image of one code word (BLK), one task, no rules, no layers and a recipe (13 R363). -/
def image640 : List Byte :=
  [90, 80, 73, 49, 1, 0, 0, 0, 64, 0, 0, 0, 8, 0, 0, 0, 128, 0, 0, 0, 1, 0, 0, 0, 192] ++ List.replicate 35 0 ++ [148, 160, 52, 182] ++
  [0, 0, 0, 0, 0, 0, 0, 1] ++ List.replicate 56 0 ++
  [64, 0, 0, 0, 1, 0, 9, 0, 0, 0, 0, 0, 7, 0, 0, 0, 0, 1, 0, 0, 0, 0, 0, 0, 255, 255, 255, 255, 255, 255, 255, 255, 255, 255, 255, 255, 255, 255, 255, 255, 255, 255] ++ List.replicate 18 0 ++ [234, 133, 146, 186] ++
  [90, 83, 82, 49, 1, 0, 6, 0, 0, 0, 0, 0, 0, 0, 128, 63, 1] ++ List.replicate 43 0 ++ [147, 83, 1, 90] ++
  [1, 4, 16, 0, 10, 10, 0, 0, 1, 1, 0, 0, 0, 0, 128, 63] ++ List.replicate 44 0 ++ [49, 213, 220, 107] ++
  [2, 4, 16, 0, 10, 10, 0, 0, 1, 1, 0, 0, 0, 0, 128, 63] ++ List.replicate 44 0 ++ [220, 57, 16, 245] ++
  [3, 5, 16, 0, 10, 10, 0, 0, 1, 1, 0, 0, 0, 0, 128, 63] ++ List.replicate 44 0 ++ [51, 16, 234, 180] ++
  [4, 2, 16, 0, 10, 10, 0, 0, 1, 1, 0, 0, 0, 0, 128, 63] ++ List.replicate 44 0 ++ [79, 187, 224, 116] ++
  [5, 4, 16, 0, 10, 10, 0, 0, 1, 1, 0, 0, 0, 0, 128, 63] ++ List.replicate 44 0 ++ [172, 50, 222, 184] ++
  [6, 4, 16, 0, 10, 10, 0, 0, 1, 1, 0, 0, 0, 0, 128, 63] ++ List.replicate 44 0 ++ [65, 222, 18, 38]
def loadParams : List Byte := [0, 0, 0, 0, 0, 0, 0, 0, 0, 0, 0, 0, 0, 1, 0, 0, 0x80, 2, 0, 0, 0, 0, 0, 0]
def loadCmd : Cmd := hostCmd 0x30 loadParams
/-- PROGRAM_LOAD of these bytes, which stand in context 3's allocation at the base of T1. -/
def atLoad (bs : List Byte) : State := atCmd 3 0x30 loadParams fun s =>
  { s with mem := Mem.write [] 0x010000000000 bs, allocs := [alloc1] }
theorem witness_ProgramsRunAndCommit_load :
    (Begins (atLoad image640) 3 0x30 0xBEEF loadCmd ∧ loadCmd.p 16 8 = 0x010000000000 ∧ loadCmd.p 24 8 = 640) ∧
    ((atLoad image640).inT1Allocs 3 0x010000000000 640 = true ∧ CleanStore (atLoad image640) ∧ ((atLoad image640).ctx 3).runs = []) ∧
    ((atCmd 3 0x30 loadParams id).inT1Allocs 3 0x010000000000 640 = false) ∧ ((atLoad image640).ctx 3).runInProgress = false ∧
    (((atLoad image640).modCtx 3 fun k => { k with runs := [run1] }).ctx 3).runInProgress = true := by
  refine ⟨⟨⟨rfl, rfl⟩, rfl, rfl⟩, ⟨?_, ⟨rfl, rfl, rfl⟩, rfl⟩, ?_, ?_, ?_⟩ <;> decide +kernel
theorem image640_length : image640.length = 640 := by decide +kernel
theorem atLoad_mem (bs : List Byte) : (atLoad bs).mem = Mem.write [] 0x010000000000 bs := rfl
theorem witness_ProgramsRunAndCommit_bytes : (atLoad image640).bytes 0x010000000000 640 = image640 := by
  have h := Mem.read_write [] 0x010000000000 image640
  rw [image640_length] at h
  unfold State.bytes
  rw [atLoad_mem, h]
theorem witness_ProgramsRunAndCommit_good : imageStatus image640 = 0 := by decide +kernel
theorem witness_ProgramsRunAndCommit_bad : imageStatus (List.replicate 640 1#8) ≠ 0 := by decide +kernel
/-- A fill that covers region 0. -/
def region0Fill (s : State) : State := { s with fills := [{ fill1 with waiter := none, base := t1Base, units := regionSize / unit2M }] }
theorem witness_ProgramsRunAndCommit_room :
    ((region0Fill (atLoad image640)).takeArea 0 (1 * unit2M) = none ∧
      ({ region0Fill (atLoad image640) with fills := [] } : State).takeArea 0 (1 * unit2M) = some (0x010000000000 + regionSize - unit2M)) ∧
    (atLoad image640).takeArea 0 (1 * unit2M) = some (0x010000000000 + regionSize - unit2M) ∧
      (atLoad image640).takeArea 0 (0x1000000 * unit2M) = none := by
  refine ⟨⟨?_, ?_⟩, ?_, ?_⟩ <;> decide +kernel

/-- RUN with this last, epoch (low byte) and count of pages. -/
def runParams (last epoch pages : Byte) : List Byte :=
  [last, 0, 0, 0, 0, 0, 0, 0, epoch, 0, 0, 0, 0, 0, 0, 0, 0, 0, 0, 0, 0, 0, 0, 0, 0, 0, 0, 0, pages, 0, 0, 0]
def serveParams : List Byte := [0, 0, 0, 0, 0, 0, 0, 0, 255, 255, 255, 255, 255, 255, 0, 0, 0, 0, 0, 0, 0, 0, 0, 0]
/-- RUN for context 3 with a program, whose T1 limit is 16 units. -/
def atRun (ps : List Byte) : State := atCmd 3 0x31 ps fun s => s.modCtx 3 fun k =>
  ({ k with prog := some prog7 } : Ctx).modMem fun m => { m with lim1 := 16 }
theorem witness_ProgramsRunAndCommit_run (ps : List Byte) :
    Begins (atRun ps) 3 0x31 0xBEEF (hostCmd 0x31 ps) ∧ ((atRun ps).ctx 3).step.reshard = none ∧ ((atRun ps).ctx 3).snap.stopping = false ∧
      ((atRun ps).ctx 3).prog = some prog7 ∧ ((atRun ps).ctx 3).runs = [] ∧ ((atRun ps).ctx 3).step.wave = none ∧
      ((atRun ps).ctx 3).step.committed = ((atRun ps).ctx 3).step.applied := ⟨⟨rfl, rfl⟩, rfl, rfl, rfl, rfl, rfl, rfl⟩
theorem witness_ProgramsRunAndCommit_run_cases :
    ((atRun (runParams 0 0 1)).rangeDevice 3 0 1 = false ∧ (hostCmd 0x31 (runParams 0 0 1)).p 36 4 = 1) ∧
    ((atRun (runParams 0 1 0)).rangeDevice 3 0 0 = true ∧ (hostCmd 0x31 (runParams 0 1 0)).p 36 4 = 0 ∧
      (hostCmd 0x31 (runParams 0 1 0)).p 16 8 = 1 ∧ ((atRun (runParams 0 1 0)).ctx 3).step.applied = 0) ∧
    ((hostCmd 0x31 (runParams 0 0 0)).p 16 8 = 0 ∧ (hostCmd 0x31 (runParams 0 2 0)).p 16 8 = 2 ∧ (hostCmd 0x31 serveParams).p 16 8 = noStep) ∧
    ((atRun (runParams 2 1 0)).giveLast 2 = none ∧ (atRun (runParams 0 1 0)).giveLast 0 = some 0 ∧
      runUnits prog7 + journalUnits ((atRun (runParams 0 1 0)).ctx 3).step true = 16 ∧ ((atRun (runParams 0 1 0)).ctx 3).mem.lim1 = 16) := by
  refine ⟨⟨?_, ?_⟩, ⟨?_, ?_, ?_, ?_⟩, ⟨?_, ?_, ?_⟩, ?_, ?_, ?_, ?_⟩ <;> decide +kernel
/-- Room in T1 for the charge, none for another context's whole tier, and room but for a fill. -/
theorem witness_ProgramsRunAndCommit_charge :
    (∃ b, (atRun (runParams 0 1 0)).findRoom 1 4 16 = .ok b) ∧
    (let s := atRun (runParams 0 1 0)
     ({ s with allocs := [{ ctx := 2, tier := 1, base := t1Base, units := t1Size / unit2M, freeing := false }] } : State).findRoom 1 4 16 = .exhausted ∧
      ({ s with fills := [{ fill1 with waiter := none, base := t1Base, units := t1Size / unit2M }] } : State).findRoom 1 4 16 = .wait) ∧
    CleanStore (atRun (runParams 0 1 0)) := by
  refine ⟨⟨t1Base, ?_⟩, ⟨?_, ?_⟩, ⟨rfl, rfl, rfl⟩⟩ <;> decide +kernel
theorem test_run_of_a_step_waits_for_the_wave :
    (match exec (.run 3 0xBEEF) (({ atRun (runParams 0 1 0) with link := { (atRun []).link with member := true, sizeM1 := 2 } } : State).modCtx 3 fun k => k.modStep fun t => { t with wave := some { epoch := 0, mins := [], maxs := [], stage := 0, heard := [] } }) with
      | .next t => (t.ctx 3).nextRun == 1 && (t.ctx 3).runs.map Run.released == [false] && (t.ctx 3).mem.used1 == 16 && (t.ctx 3).host.comps.isEmpty
      | _ => false) = true := by decide +kernel
/-- A RUN of step 5, whose tasks have ended, or not; the module is a member. -/
def atRunEnd (st : Nat) (step : Bool) : State :=
  let s := atCmd 3 0x31 [] fun s => (s.modCHost 3 fun h => { h with cmds := [{ hostCmd 0x31 [] with running := true }] }).modCtx 3 fun k =>
    { k with prog := some prog7, runs := [{ run1 with tag := 0xBEEF, step := step, tasks := [{ tid := 7, count := 0, st := st }] }] }
  { s with link := { s.link with member := true } }
theorem witness_ProgramsRunAndCommit_end :
    let r := fun st step => ({ run1 with tag := 0xBEEF, step := step, tasks := [{ tid := 7, count := 0, st := st }] } : Run)
    (((atRunEnd 2 true).ctx 3).runs.find? (fun r => r.tag == 0xBEEF) = some (r 2 true) ∧ (atRunEnd 2 true).live = true ∧
      (atRunEnd 2 true).runDone 3 (r 2 true) = true ∧ ((atRunEnd 2 true).cmd? 3 0x31 0xBEEF true).isSome = true ∧
      (atRunEnd 2 true).link.member = true) ∧
    ((atRunEnd 2 false).runDone 3 (r 2 false) = true ∧ (atRunEnd 1 true).runDone 3 (r 1 true) = false) := by
  refine ⟨⟨?_, ?_, ?_, ?_, ?_⟩, ?_, ?_⟩ <;> decide +kernel
theorem test_loss_scale_doubles_after_the_clean_run :
    ({ scale := 0x3F800000#32, decided := true, decision := false, clean := 9 } : CtxStep).nextLoss 10 = (0x40000000#32, 0) := by decide +kernel
theorem witness_ProgramsRunAndCommit_loss :
    BitVec.ofNat 32 ((127 + 30) * 2 ^ 23) = 0x4E800000#32 ∧ BitVec.ofNat 32 ((127 + 0) * 2 ^ 23) = 0x3F800000#32 := by decide +kernel
def waveAt (maxs : List (BitVec 64)) (stage : Nat) : State := inGroup [] [] fun s => s.modCtx 3 fun k => k.modStep fun t =>
  { t with wave := some { epoch := 5, mins := [1, 2, 3], maxs := maxs, stage := stage, heard := [] } }
theorem witness_ProgramsRunAndCommit_wave :
    (waveAt [1, 2, 3] 0).groupDims.length = 1 ∧ (waveAt [1, 2, 4] 1).flt.active = false ∧ ((waveAt [1, 2, 3] 1).ctx 3).runs = [] ∧
      ((waveAt [1, 2, 3] 1).ctx 3).snap.op = none ∧ ((waveAt [1, 2, 4] 1).ctx 3).step.wave.isSome = true := by
  refine ⟨?_, ?_, ?_, ?_, ?_⟩ <;> decide +kernel

/-! ### Contexts -/

/-- CTX_CREATE with a key. -/
def createParams (key : Byte) : List Byte := [0, 0, 0, 0, key, 0, 0, 0]
def allActive : State := atCmd 16 2 (createParams 1) fun s =>
  { s with ctxs := (List.range 16).map (fun n => (n, { sched := { st := 1 } })) ++ s.ctxs.filter fun e => e.1 == 16 }
/-- Region 3 is allocated whole. -/
def noRoom : State := atCmd 16 2 (createParams 1) fun s =>
  { s with allocs := [{ ctx := 3, tier := 1, base := t1Base + 3 * regionSize, units := regionSize / unit2M, freeing := false }] }
theorem test_create_takes_slot_0 :
    (match exec (.ctxCreate 0xBEEF) (atCmd 16 2 (createParams 1) id) with
      | .next t => (t.ctx 0).sched.st == 1 && (t.ctx 0).sched.slice == 5 && (t.ctx 0).sched.key == 1#32
      | _ => false) = true := by decide +kernel
theorem witness_ContextsAreCreatedAndRetired_create :
    ((Begins allActive 16 2 0xBEEF (hostCmd 2 (createParams 1))) ∧ (∀ n, n < 16 → (allActive.ctx n).sched.st ≠ 0)) ∧
    (let s := atCmd 16 2 (createParams 0) id
     Begins s 16 2 0xBEEF (hostCmd 2 (createParams 0)) ∧ (s.ctx 0).sched.st = 0 ∧ s.keyUsed (BitVec.ofNat 32 ((hostCmd 2 (createParams 0)).p 12 4)) = true) ∧
    (let s := atCmd 16 2 (createParams 1) id
     s.keyUsed 1 = false ∧ s.areasWait 0 = false ∧ ((s.modCtx 0 fun k => newCtx k 0 0 1).takeAreas 0).isSome = true) ∧
    (noRoom.areasWait 0 = false ∧ ((noRoom.modCtx 0 fun k => newCtx k 0 0 1).takeAreas 0).isNone = true) := by
  refine ⟨⟨⟨?_, ?_⟩, ?_⟩, ⟨⟨rfl, rfl⟩, rfl, rfl⟩, ⟨?_, ?_, ?_⟩, ?_, ?_⟩ <;> decide +kernel
theorem witness_ContextsAreCreatedAndRetired_destroy :
    (Begins (atCmd 16 3 [15] id) 16 3 0xBEEF (hostCmd 3 [15]) ∧ ((atCmd 16 3 [15] id).ctx 15).sched.st ≠ 1) ∧
    (Begins (atCmd 16 3 [3] id) 16 3 0xBEEF (hostCmd 3 [3]) ∧ ((atCmd 16 3 [3] id).ctx 3).sched.st = 1) ∧
    (∀ ps, Begins (atCmd 3 1 ps id) 3 1 0xBEEF (hostCmd 1 ps)) :=
  ⟨⟨⟨rfl, rfl⟩, by decide⟩, ⟨⟨rfl, rfl⟩, rfl⟩, fun _ => ⟨rfl, rfl⟩⟩
/-- Context 3 in RETIRING. -/
def retiring (control : Option Nat) (f : State → State) : State := atReady fun s => f (s.modCtx 3 fun k =>
  (k.modSched fun h => { h with st := 2, marks := [(4, 5)], destroy := some 0xBEEF }).modMem fun m => { m with control := control })
def markPort : Port := { activePort with egress := [(5, [.mark 3])] }
def markState : State := retiring none fun s => s.setPort 4 markPort
def retireEnd : State := retiring none fun s => (s.modCtx 3 fun k => k.modSched fun h => { h with filling := true }).modCHost 16 fun h => { h with cmds := [{ hostCmd 3 [3] with running := true }] }
theorem witness_ContextsAreCreatedAndRetired_retire :
    ((4, 5) ∈ (markState.ctx 3).sched.marks ∧ (markState.port 4).marks = [] ∧
      (SMap.get [] (markState.port 4).egress 5).head? = some (.mark 3) ∧ (markState.port 4).rbuf = []) ∧
    (((retiring none id).ctx 3).sched.st = 2 ∧ (retireEnd.ctx 3).sched.filling = true) ∧
    (((retiring (some t1Base) id).ctx 3).mem.control ≠ none ∧ ((retiring (some t1Base) id).ctx 3).sched.filling = false ∧ (retiring (some t1Base) id).quiet 3 = 0) ∧
    ((retireEnd.ctx 3).sched.st = 2 ∧ (retireEnd.ctx 3).sched.filling = true ∧ retireEnd.fills = [] ∧ (retireEnd.ctx 3).sched.destroy = some 0xBEEF ∧
      (retireEnd.cmd? 16 3 0xBEEF true).isSome = true) ∧
    (∃ f ∈ (retiring none fun s => { s with fills := [{ fill1 with waiter := none, retire := some 3 }] }).fills, f.retire = some 3) := by
  refine ⟨⟨?_, ?_, ?_, ?_⟩, ⟨?_, ?_⟩, ⟨?_, ?_, ?_⟩, ⟨?_, ?_, ?_, ?_, ?_⟩, ⟨_, List.mem_singleton.mpr rfl, rfl⟩⟩ <;> decide +kernel
/-- Region 3 is free but for a fill of it. -/
theorem witness_ContextsAreCreatedAndRetired_wait :
    let s := atCmd 16 2 (createParams 1) fun s =>
      { s with fills := [{ fill1 with waiter := none, tier := 1, base := t1Base + 3 * regionSize, units := regionSize / unit2M }] }
    s.areasWait 0 = true ∧ s.keyUsed 1 = false := by
  refine ⟨?_, ?_⟩ <;> decide +kernel

/-! ### The group -/

/-- JOIN_GROUP with FLAGS and a size of two in X. -/
def joinParams (flags : Byte) : List Byte := [0, 0, 1, 0, 7, 0, 0, 0, 0, 0, 0, 0, flags]
def atJoin (flags : Byte) (f : State → State) : State := atCmd 16 0x90 (joinParams flags) fun s =>
  f { s with shk := { s.shk with version := 5, required := 5 } }
theorem witness_GroupMembership_join :
    (∀ b, Begins (atJoin b id) 16 0x90 0xBEEF (hostCmd 0x90 (joinParams b)) ∧ (atJoin b id).link.member = false ∧ (atJoin b id).hlt.hstate = 0 ∧
      (atJoin b id).rst.short = false) ∧
    ¬ (5#32).toNat < (5#32).toNat ∧ (hostCmd 0x90 (joinParams 2)).p 20 1 / 2 % 2 = 1 ∧ (hostCmd 0x90 (joinParams 0)).p 20 1 / 2 % 2 = 0 ∧
    (hostCmd 0x90 (joinParams 2)).p 10 2 % 65536 ≠ 0 ∧ (hostCmd 0x90 (joinParams 0)).p 20 1 % 2 = 0 ∧
    (atJoin 0 fun s => { s with rst := { s.rst with short := true } }).rst.short = true :=
  ⟨fun _ => ⟨⟨rfl, rfl⟩, rfl, rfl, rfl⟩, by decide, rfl, rfl, by decide, rfl, rfl⟩
def joiningState : State := atCmd 16 0x90 [] fun s =>
  { s.modCHost 16 fun h => { h with cmds := [{ hostCmd 0x90 [] with running := true }] } with joining := some 0xBEEF }
/-- RESHARD with a table of one entry at the base of T1. -/
def reshardParams : List Byte := [0, 0, 0, 0, 0, 0, 0, 0, 0, 0, 0, 0, 0, 1, 0, 0, 1, 0, 0, 0]
def reshardState : State := atCmd 3 0x80 reshardParams fun s => { s with allocs := [alloc1], colls := [ringColl 2 {}] }
theorem witness_GroupMembership_others :
    (joiningState.joining = some 0xBEEF ∧ (joiningState.cmd? 16 0x90 0xBEEF true).isSome = true ∧ State.reset.joining = none) ∧
    (Begins (atCmd 16 0x91 [] id) 16 0x91 0xBEEF (hostCmd 0x91 []) ∧ (atCmd 16 0x91 [] id).colls = []) ∧
    (Begins reshardState 3 0x80 0xBEEF (hostCmd 0x80 reshardParams) ∧ (reshardState.ctx 3).runs = [] ∧ (reshardState.ctx 3).step.reshard = none ∧
      reshardState.inAlloc 3 ((hostCmd 0x80 reshardParams).p 16 8) (32 * (hostCmd 0x80 reshardParams).p 24 4) = true ∧
      (∃ y ∈ reshardState.colls, y.ctx = 3)) :=
  ⟨⟨rfl, rfl, rfl⟩, ⟨⟨rfl, rfl⟩, rfl⟩, ⟨⟨rfl, rfl⟩, rfl, rfl, rfl, ⟨_, List.mem_singleton.mpr rfl, rfl⟩⟩⟩

/-! ## The host (13) -/

/-- Context 3 with these counts, which owns bulk page 5. -/
def atBell (f : CtxHost → CtxHost) (g : CtxSched → CtxSched) (o : Nat) : State := atReady fun s =>
  let s := (s.modCHost 3 f).modCtx 3 fun k => k.modSched g
  { s with allocs := [{ ctx := 3, tier := 2, base := 0x020000A00000, units := 1, freeing := false }],
           host := { s.host with pages := [(5, { owner := o, seq := 9 })] } }
theorem test_sq_tail_takes_the_slots :
    (match exec (.sqTail 3 2) (atBell id id 1) with
      | .next t => (t.ctx 3).host.taken.length == 2 && (t.ctx 3).host.sqHead == 2#32
      | _ => false) = true := by decide +kernel
theorem test_sq_tail_257_is_stale :
    (match exec (.sqTail 3 257) (atBell id id 1) with
      | .next t => t.host.stale == 1 && (t.ctx 3).host.sqTail == 0#32
      | _ => false) = true := by decide +kernel
theorem witness_DoorbellWrites_counts :
    (((atBell id id 1).ctx 3).sched.st = 1 ∧ 2 ^ 32 ≤ (0x100000000#64).toNat ∧ (0xFFFFFFFF#64).toNat < 2 ^ 32) ∧
    (let s := atBell (fun h => { h with sqTail := 0xFFFFFF80, sqHead := 0xFFFFFF80, cqHead := 0xFFFFFF80, cqTail := 0x7F }) id 1
     let h := (s.ctx 3).host
     (0x80#32 - h.sqTail).toNat + (h.sqTail - h.sqHead).toNat ≤ 256 ∧ 256 < (0x81#32 - h.sqTail).toNat + (h.sqTail - h.sqHead).toNat ∧
       (h.sqTail - h.sqHead).toNat ≤ 256 ∧ s.ready = true ∧ s.pwr.rest = 0 ∧
       (0x7F#32 - h.cqHead).toNat ≤ (h.cqTail - h.cqHead).toNat ∧ (h.cqTail - h.cqHead).toNat < (0x80#32 - h.cqHead).toNat) ∧
    ((0x1FFFFFF#64).toNat < 2 ^ 25 ∧ 2 ^ 25 ≤ (0x2000000#64).toNat) := by
  refine ⟨⟨?_, ?_, ?_⟩, ⟨?_, ?_, ?_, ?_, ?_, ?_, ?_⟩, ?_, ?_⟩ <;> decide +kernel
theorem witness_DoorbellWrites_flag :
    (let s := atBell id id 1
     let v := 0x902000005#64
     fld v.toNat 23 17 = 0 ∧ fld v.toNat 31 26 = 0 ∧ fld v.toNat 63 40 = 0 ∧ s.ownsPage 3 (fld v.toNat 16 0) = true ∧
       (s.page (fld v.toNat 16 0)).seq.toNat = fld v.toNat 39 32 ∧ (s.page (fld v.toNat 16 0)).owner = 1 ∧ fld v.toNat 25 24 = 2) ∧
    (let s := atBell id id 2
     let v := 0x902000005#64
     ¬ ((s.page (fld v.toNat 16 0)).owner = 1 ∨ (s.page (fld v.toNat 16 0)).owner = 3)) ∧
    ((atBell id (fun h => { h with st := 2 }) 1).ctx 3).sched.st = 2 ∧ ((atBell id (fun h => { h with st := 0 }) 1).ctx 3).sched.st = 0 := by
  refine ⟨⟨?_, ?_, ?_, ?_, ?_, ?_, ?_⟩, ?_, ?_, ?_⟩ <;> decide +kernel

/-- Slots of context 3: each carries the CRC-32C of its first 124 bytes (13 R350, R353). -/
def slotNop : List Byte := [1, 0, 3, 0, 239, 190] ++ List.replicate 118 0 ++ [20, 242, 218, 160]
def slotFence : List Byte := [1, 0, 3, 1, 239, 190] ++ List.replicate 118 0 ++ [148, 69, 68, 211]
def slotNoOp : List Byte := [255, 15, 3, 0, 239, 190] ++ List.replicate 118 0 ++ [118, 213, 166, 82]
def slotOther : List Byte := [1, 0, 4, 0, 239, 190] ++ List.replicate 118 0 ++ [106, 16, 118, 35]
def slotAdmin : List Byte := [2, 0, 3, 0, 239, 190, 8, 0, 0, 0, 0, 0, 1] ++ List.replicate 111 0 ++ [183, 101, 238, 10]
def slotRange : List Byte := [34, 0, 3, 0, 239, 190, 1, 0, 2] ++ List.replicate 115 0 ++ [81, 133, 194, 226]
def slotStray : List Byte := [1, 0, 3, 0, 239, 190, 1, 0, 1] ++ List.replicate 115 0 ++ [132, 11, 175, 244]
def slotTrain : List Byte := [49, 0, 3, 0, 239, 190, 32, 0, 0, 0, 0, 0, 0, 0, 0, 0, 1] ++ List.replicate 107 0 ++ [248, 117, 170, 172]
set_option maxRecDepth 100000 in
theorem test_slot_checks_in_order :
    slotStatus slotNop 3 = 0 ∧ slotStatus slotFence 3 = 0 ∧ slotStatus slotTrain 3 = 0 ∧ slotStatus (List.replicate 128 1) 3 = 0x202 ∧
      slotStatus slotNoOp 3 = 0x201 ∧ slotStatus slotOther 3 = 0x203 ∧ slotStatus slotAdmin 3 = 0x239 ∧ slotStatus slotRange 3 = 0x204 ∧
      slotStatus slotStray 3 = 0x204 := by
  refine ⟨?_, ?_, ?_, ?_, ?_, ?_, ?_, ?_, ?_⟩ <;> decide +kernel
set_option maxRecDepth 100000 in
theorem witness_CommandsStartAndComplete_slots :
    (∀ b ∈ [slotNop, slotNoOp, slotOther, slotAdmin, slotRange, slotStray], b.length = 128) ∧
    (field slotRange 124 4 = (crc32c (slotRange.take 124)).toNat ∧ field slotRange 6 2 ≤ 112 ∧ field slotRange 3 1 ≤ 1 ∧
      (∀ i, i < 120 → 8 + field slotRange 6 2 ≤ i → slotRange.getD i 0 = 0)) ∧
    issuerOf (field slotNoOp 0 2) = none ∧ issuerOf (field slotAdmin 0 2) = some 0 ∧ issuerOf (field slotTrain 0 2) = some 1 ∧
      issuerOf (field slotNop 0 2) = some 2 ∧ paramsOk (field slotRange 0 2) (field slotRange) = false ∧ slotStray.getD 8 0 ≠ 0 ∧
      paramsOf (field slotStray 0 2) 1 = [] := by
  refine ⟨?_, ⟨?_, ?_, ?_, ?_⟩, ?_, ?_, ?_, ?_, ?_, ?_, ?_⟩ <;> decide +kernel
def takenOf (b : List Byte) : Taken := { bytes := b, seq := 0, ports := 0 }
/-- Context 3 with one slot taken and `n` commands in progress. -/
def atTaken (b : List Byte) (n : Nat) : State := atReady fun s => s.modCHost 3 fun h =>
  { h with taken := [takenOf b], cmds := List.replicate n (hostCmd 0x10 []) }
theorem witness_CommandsStartAndComplete_start :
    (((atTaken slotNop 63).ctx 3).host.taken = [takenOf slotNop] ∧ (atTaken slotNop 63).live = true ∧ (atTaken slotNop 63).pwr.rest = 0 ∧
      ((atTaken slotNop 63).ctx 3).sched.st = 1 ∧ ((atTaken slotNop 63).ctx 3).host.cmds.length = 63 ∧ field slotNop 3 1 % 2 = 0) ∧
    (((atTaken slotFence 0).ctx 3).host.cmds.length = 0 ∧ ((atTaken slotFence 1).ctx 3).host.cmds.length = 1 ∧ field slotFence 3 1 % 2 = 1) ∧
    (field slotTrain 0 2 = 0x31 ∧ field slotTrain 16 8 ≠ 0xFFFFFFFFFFFF ∧ ((atTaken slotTrain 0).ctx 3).training = false) ∧
    ((atTaken slotNop 64).ctx 3).host.cmds.length = 64 := by
  refine ⟨⟨?_, ?_, ?_, ?_, ?_, ?_⟩, ⟨?_, ?_, ?_⟩, ⟨?_, ?_, ?_⟩, ?_⟩ <;> decide +kernel
def comp0 : Comp := { opcode := 1, tag := 0xBEEF, status := 0, res0 := 0, res1 := 0, cacheFail := false, extra := [], seq := 0, ports := 0 }
/-- Context 3 with one completion waiting, its ring's counts, and queue pair 9. -/
def atComp (head tail : BitVec 32) : State := atReady fun s =>
  let s := s.modCHost 3 fun h => { h with comps := [comp0], cqHead := head, cqTail := tail, notifyEn := true, notifyQp := 9 }
  { s with host := { s.host with qps := [(9, some { ctx := 3, port := 0, rate := 400000, rises := 0, lastActed := none, lastSent := none })] } }
theorem witness_CommandsStartAndComplete_post :
    ((atComp 0 255).ctx 3).sched.st = 1 ∧ ((atComp 0 255).ctx 3).host.comps = [comp0] ∧
      (((atComp 0 255).ctx 3).host.cqTail - ((atComp 0 255).ctx 3).host.cqHead).toNat < 256 ∧
      256 ≤ (((atComp 0 256).ctx 3).host.cqTail - ((atComp 0 256).ctx 3).host.cqHead).toNat ∧
      (∃ q, SMap.get none (atComp 0 255).host.qps ((atComp 0 255).ctx 3).host.notifyQp.toNat = some q ∧ q.ctx = 3) :=
  ⟨rfl, rfl, by decide, by decide, ⟨_, rfl, rfl⟩⟩
theorem test_completion_is_posted :
    (match exec (.completionPost 3) (atComp 0 0) with
      | .next t => Mem.read t.host.rings 0x86000 8 == [1, 0, 3, 1, 0xEF, 0xBE, 0, 0]
      | _ => false) = true := by decide +kernel

/-- Queue pair 9 is bound to context 3. -/
def atQp (f : Qp → Qp) (g : State → State) : State := g (atReady fun s =>
  { s with now := 100,
           host := { s.host with qps := [(9, some (f { ctx := 3, port := 0, rate := 400000, rises := 19, lastActed := some 0, lastSent := some 50 }))],
                                 pages := [(0, { owner := 1, seq := 0 }), (1, { owner := 2, seq := 0 })] },
           allocs := [{ ctx := 3, tier := 2, base := 0x020000000000, units := 2, freeing := false }] })
theorem test_rate_falls_to_seven_eighths :
    (match exec (.congestionNotificationPacket 9) (atQp id id) with
      | .next t => (SMap.get none t.host.qps 9).map (fun q => (q.rate, q.parts)) == some (2800000, 8)
      | _ => false) = true := by decide +kernel
theorem test_write_to_a_page_the_host_does_not_own_faults_it :
    (match exec (.rdmaWrite 9 0 0x020000200000 [7] 0) (atQp id id) with
      | .next t => (t.page 1).owner == 3 && t.host.faulted == 1 && t.out == [.rdmaAck 9]
      | _ => false) = true := by decide +kernel
theorem witness_QueuePairsAndHostAccess :
    (let s := atReady fun s => s.modCtx 3 fun k => k.modSched fun h => { h with key := 77 }
     SMap.get none s.host.qps 9 = none ∧ (s.ctx 3).sched.st = 1 ∧ (s.ctx 3).sched.key = 77 ∧
       (∀ m, m < 16 → m ≠ 3 → (s.ctx m).sched.st = 1 → (s.ctx m).sched.key ≠ 77) ∧ (∀ m, m < 16 → (s.ctx m).sched.st = 1 → (s.ctx m).sched.key ≠ 78)) ∧
    (SMap.get none (atQp id id).host.qps 9 ≠ none) ∧
    (let s := atQp id id
     50 + 50 ≤ s.now ∧ s.now < 51 + 50 ∧ 0 + 100 ≤ s.now ∧ s.now < 1 + 100) ∧
    (let s := atQp id id
     (s.ctx 3).sched.key = 0 ∧ (1#32) ≠ (s.ctx 3).sched.key ∧ CleanStore s ∧
       (BitVec.ofNat 64 (mailbox + 0x8000 * 3 + 0x7FFF)).toNat = mailbox + 0x8000 * 3 + 0x7FFF ∧
       (BitVec.ofNat 64 (mailbox + 0xA0000 + 0x40 * 3 + 40)).toNat = mailbox + 0xA0000 + 0x40 * 3 + 40 ∧
       (0x0200001FFFFF#64).toNat = pageBase 0 + 0x1FFFFF ∧ s.ownsPage 3 0 = true ∧ (s.page 0).owner = 1 ∧ s.ownsPage 3 1 = true ∧ (s.page 1).owner ≠ 1 ∧
       s.ownsPage 3 2 = false) := by
  refine ⟨⟨rfl, rfl, rfl, ?_, ?_⟩, ?_, ⟨?_, ?_, ?_, ?_⟩, ?_, ?_, ⟨rfl, rfl, rfl⟩, ?_, ?_, ?_, ?_, ?_, ?_, ?_, ?_⟩ <;> decide +kernel
theorem witness_QueuePairsAndHostAccess_bells :
    ∃ t, Answers (.sqTail 3 (BitVec.ofNat 64 (leNat [1, 0, 0, 0, 0, 0, 0, 0]))) (atQp id id) t := ⟨_, rfl⟩

/-- NOP by datagram with sequence 5, its code HMAC-SM3 under the key of zeros (13 R358). -/
def datagram5 : List Byte := [90, 73, 77, 49, 1, 0, 0, 0, 5, 0, 0, 0, 0, 0, 0, 0] ++
  [26, 221, 51, 26, 182, 209, 183, 137, 76, 253, 182, 98, 125, 186, 204, 29] ++ [1, 0, 16, 0, 239, 190] ++ List.replicate 118 0 ++ [204, 129, 129, 37]
def keptOf (seq : BitVec 64) (comp : Option (List Byte)) (done : Bool) : Kept := { seq := seq, ports := 1, opcode := 1, tag := 0, comp := comp, done := done }
/-- A module whose management key is zero, with these sequences kept. -/
def atMgmt (ks : List Kept) (r : Bool) : State := atReady fun s =>
  { s with shk := { s.shk with mgmtKey := 0 }, host := { s.host with kept := ks }, rst := { s.rst with phase := if r then 6 else 5 } }
theorem witness_ManagementDatagrams_valid :
    datagram5.length = 160 ∧ field datagram5 0 4 = 0x314D495A ∧ field datagram5 4 1 = 1 ∧ field datagram5 5 3 = 0 ∧
      (datagram5.drop 16).take 16 = (digestBytes (hmacSm3 (natLe 16 (atMgmt [] true).shk.mgmtKey.toNat) (datagram5.take 16 ++ datagram5.drop 32))).take 16 := by
  refine ⟨?_, ?_, ?_, ?_, ?_⟩ <;> decide +kernel
theorem witness_ManagementDatagrams_cases :
    BitVec.ofNat 64 (field datagram5 8 8) = 5 ∧ ([] : List Byte).length ≠ 160 ∧ (atMgmt [] false).ready = false ∧
    ((atMgmt [] true).ready = true ∧ ((atMgmt [] true).host.kept.find? fun k => k.seq == 5) = none) ∧
    (∃ k ∈ (atMgmt [keptOf 6 none false] true).host.kept, (5#64).toNat ≤ k.seq.toNat ∧
      ∀ x ∈ (atMgmt [keptOf 6 none false] true).host.kept, k.seq.toNat ≤ x.seq.toNat) ∧
    ((atMgmt [keptOf 5 (some []) true] true).host.kept.find? fun k => k.seq == 5) = some (keptOf 5 (some []) true) ∧
    ((atMgmt [keptOf 5 none true] true).host.kept.find? fun k => k.seq == 5) = some (keptOf 5 none true) ∧
    ((atMgmt [keptOf 5 none false] true).host.kept.find? fun k => k.seq == 5) = some (keptOf 5 none false) ∧
    (atMgmt [] true).pwr.sup ≠ 3 ∧ (atPwr fun p => { p with sup := 3 }).pwr.sup = 3 := by
  refine ⟨?_, ?_, ?_, ⟨?_, ?_⟩, ⟨_, List.mem_singleton.mpr rfl, ?_, ?_⟩, ?_, ?_, ?_, ?_, ?_⟩ <;> decide +kernel
theorem test_datagram_is_taken :
    (match exec (.managementCommandDatagram 0 0 0 datagram5) (atMgmt [keptOf 4 none true] true) with
      | .next t => (t.ctx 16).host.taken.length == 1 && t.host.kept.length == 2
      | _ => false) = true := by decide +kernel

/-- A new tail that abandons an entry into a rest state. -/
theorem witness_DoorbellWrites_entry :
    let s := atCmd 3 0 [] fun s => { s with pwr := { s.pwr with entering := some 1 } }
    (s.ctx 3).sched.st = 1 ∧ s.pwr.entering ≠ none ∧ s.ready = true ∧ s.pwr.rest = 0 ∧ (1#32 : BitVec 32) ≠ (s.ctx 3).host.sqTail := by decide +kernel
theorem witness_QueuePairsAndHostAccess_rest :
    (atCmd 3 0 [] fun s => { s with pwr := { s.pwr with rest := 4 } }).pwr.rest = 4 := by decide

/-! ## Packages, raw loads and lasts (08) -/

/-- A package of one tensor and one chunk (08 R193 to R196): header, tensor table and digest, signature. -/
def pkgHeader : List Byte := [90, 83, 80, 49, 1, 0, 1, 0, 52, 18] ++ List.replicate 8 0 ++ [32, 0, 0, 0, 0, 0, 96, 0, 0, 0, 1] ++ List.replicate 31 0 ++ [232, 52, 112, 238]
def pkgEntry : List Byte := [7, 0, 0, 0, 1, 4, 0, 255, 64, 0, 0, 0, 64] ++ List.replicate 12 0 ++ [16, 0, 0, 0, 0, 0, 0, 0, 16] ++ List.replicate 26 0 ++ [115, 134, 208, 177]
/-- The signer is the key of 64 zero bytes, which its SM3 digest names. -/
def pkgSig : List Byte := [70, 181, 133, 113, 190, 65, 104, 92, 37, 49, 148, 210, 14, 199, 248, 43, 101, 156, 200, 198, 183, 83, 242, 109, 78, 158, 200, 91, 201, 28, 35, 30] ++ List.replicate 64 0
def pkgHead : List Byte := pkgHeader ++ pkgEntry ++ List.replicate 32 1 ++ pkgSig
/-- LOAD_PACKAGE's parameters; queue pair 9, T1 address 2^40, 4 MiB. -/
def pkgParams (action source dest : Byte) : List Byte :=
  [action, source, dest] ++ List.replicate 25 0 ++ [9, 0, 0, 0] ++ [0, 0, 0, 0, 0, 1, 0, 0] ++ [0, 0, 0x40, 0, 0, 0, 0, 0]
/-- The management context issues it; the key of zeros is enrolled, T1 base belongs to it, and its T1 limit is 16 units. -/
def atPkg (n : Nat) (ps : List Byte) (f : State → State) : State := atCmd n 0x20 ps fun s =>
  f { s.modCtx 16 (fun k => k.modMem fun m => { m with lim1 := 16, lim3 := 16 }) with
      shk := { s.shk with pkgKeys := [(0, some 0)], pkgBits := 1 }, allocs := [{ alloc1 with ctx := n }],
      host := { s.host with qps := [(9, some { ctx := 3, port := 0, rate := 400000, rises := 0, lastActed := none, lastSent := none })] } }
def cache1 : CacheEntry := { pkgId := 0, ctx := 16, units := 2, valid := true, head := pkgHead, bytes := [] }
theorem witness_PackageLoads_begin (n : Nat) (h : n = 16 ∨ n = 3) (ps : List Byte) : Begins (atPkg n ps id) n 0x20 0xBEEF (hostCmd 0x20 ps) := by
  rcases h with rfl | rfl <;> exact ⟨rfl, rfl⟩
theorem witness_PackageLoads_places :
    ((hostCmd 0x20 (pkgParams 1 0 2)).p 8 1 = 1 ∧ (hostCmd 0x20 (pkgParams 1 0 2)).p 10 1 = 2 ∧ (hostCmd 0x20 (pkgParams 2 0 0)).p 8 1 = 2) ∧
    ((atPkg 16 (pkgParams 0 0 1) id).sourceOk 16 (hostCmd 0x20 (pkgParams 0 0 1)) 0x400000 = true ∧
      (atPkg 16 [] fun s => { s with host := { s.host with qps := [] } }).sourceOk 16 (hostCmd 0x20 (pkgParams 0 0 1)) 0x400000 = false) ∧
    ((atPkg 3 [] id).mayLast 3 = false ∧ (atPkg 16 [] id).mayLast 16 = true) ∧
    ((atPkg 16 [] fun s => { s with lastA := { s.lastA with st := 4 } }).last 1).st = 4 ∧ ((atPkg 16 [] id).last 1).st = 0 ∧
    ((atPkg 16 [] id).cached 0 = none ∧ (atPkg 16 [] fun s => { s with cache := [cache1] }).cached 0 = some cache1) := by
  refine ⟨⟨?_, ?_, ?_⟩, ⟨?_, ?_⟩, ⟨?_, ?_⟩, ?_, ?_, ?_, ?_⟩ <;> decide +kernel
set_option maxRecDepth 100000 in
theorem witness_PackageLoads_head :
    headOk pkgHead = true ∧ headBytes pkgHead ≤ pkgHead.length ∧ payloadOff pkgHead + headPayload pkgHead ≤ 0x400000 ∧
      entriesOk (parseEntries pkgHead) (headPayload pkgHead) false = true ∧ headOk (List.replicate 64 1) = false ∧
      entriesOk (parseEntries (pkgHeader ++ List.replicate 192 0)) 0x200000 false = false := by
  refine ⟨?_, ?_, ?_, ?_, ?_, ?_⟩ <;> decide +kernel
/-- The key the signature block names is the one enrolled; what an SM2 check answers is a constant of the configuration, so a package
passes where it holds and fails where it does not. -/
theorem witness_PackageLoads_signature :
    (atPkg 16 [] id).sigOk pkgHead = Config.sm2Verify 0 (sm3 (pkgHead.take 160)) 0 ∧
      (atPkg 16 [] fun s => { s with shk := { s.shk with pkgKeys := [] } }).sigOk pkgHead = false := by
  have e : sm3 (keyBytes 0#512) = digestOf (pkgSig.take 32) := by decide +kernel
  have d : digestOf (((pkgHead.drop (64 + headManifest pkgHead)).take 96).take 32) = digestOf (pkgSig.take 32) := by decide +kernel
  have r : BitVec.ofNat 512 (leNat (((pkgHead.drop 160).take 96).drop 32).reverse) = 0#512 := by decide +kernel
  have l : (atPkg 16 [] id).pkgKeysList = [0#512] := by decide +kernel
  have m : 64 + headManifest pkgHead = 160 := by decide +kernel
  refine ⟨?_, ?_⟩
  · unfold State.sigOk
    rw [l]
    simp only [List.find?_cons]
    rw [e, d, m, r]
    simp
  · decide +kernel
theorem witness_PackageLoads_status (h : Config.sm2Verify 0 (sm3 (pkgHead.take 160)) 0 = true) :
    (atPkg 16 [] id).packageStatus 16 (hostCmd 0x20 (pkgParams 0 0 0)) pkgHead = 0 := by
  have s := witness_PackageLoads_signature.1.trans h
  have a : pkgHead.length = 256 := by decide +kernel
  have b : headBytes pkgHead = 256 := by decide +kernel
  have c := witness_PackageLoads_head
  have d : (hostCmd 0x20 (pkgParams 0 0 0)).p 10 1 = 0 ∧ (hostCmd 0x20 (pkgParams 0 0 0)).p 9 1 = 0 ∧
      (hostCmd 0x20 (pkgParams 0 0 0)).p 48 8 = 0x400000 ∧
      (atPkg 16 [] id).inT1Allocs 16 ((hostCmd 0x20 (pkgParams 0 0 0)).p 40 8) (headPayload pkgHead) = true ∧
      ((atPkg 16 [] id).ctx 16).mem.setLimitHit ((parseEntries pkgHead).map (·.set)) = false := by
    refine ⟨?_, ?_, ?_, ?_, ?_⟩ <;> decide +kernel
  generalize hostCmd 0x20 (pkgParams 0 0 0) = x at d ⊢
  unfold State.packageStatus
  simp [d.1, d.2.1, d.2.2.1, d.2.2.2.1, d.2.2.2.2, s, a, b, c.1, c.2.2.2.1, Nat.not_lt.mpr c.2.2.1]
/-- A load of one chunk into context 3's T1 base, or into last A. -/
def load1 (g : BitVec 256) (f : Load → Load) : Load :=
  f { ctx := 16, tag := 0xBEEF, action := 0, source := 0, dest := 0, destBase := 0x010000000000, srcAddr := 0, pkgId := 0x1234, raw := false,
      payload := 0x200000, digests := [g], next := 0, entries := [], layouts := [], passes := [], arrived := 0, stage := none, amaxes := [],
      copying := false, failed := none, head := pkgHead, qp := 9, asked := 1 }
def atLoads (l : Load) (op : Nat) (f : State → State) : State := atReady fun s =>
  f { s.modCHost 16 (fun h => { h with cmds := [{ hostCmd op [] with running := true }] }) with
      loads := [l], lastA := { base := some 0x010000000000, st := 1, units := 2, gen := 4 },
      host := { s.host with qps := [(9, some { ctx := 3, port := 0, rate := 400000, rises := 0, lastActed := none, lastSent := none })] } }
def chunk0 : List Byte := List.replicate unit2M 0
theorem witness_PackageLoads_chunk :
    chunk0.length = unit2M ∧ sm3 chunk0 = (load1 (sm3 chunk0) id).digests.getD (load1 (sm3 chunk0) id).next 0 ∧
      sm3 chunk0 ≠ (load1 (sm3 chunk0 + 1) id).digests.getD (load1 (sm3 chunk0 + 1) id).next 0 ∧
      (∀ g, (atLoads (load1 g id) 0x20 id).loads[0]? = some (load1 g id) ∧ (atLoads (load1 g id) 0x20 id).live = true ∧
        CleanStore (atLoads (load1 g id) 0x20 id) ∧ ((atLoads (load1 g id) 0x20 id).cmd? 16 0x20 0xBEEF true).isSome = true ∧
        (atLoads (load1 g id) 0x20 id).hostOpen (load1 g id) = true ∧ (load1 g id).next < (load1 g id).asked ∧
        (load1 g fun l => { l with asked := 0 }).asked ≤ (load1 g id).next ∧ (atReady id).hostOpen (load1 g id) = false) := by
  refine ⟨by simp [chunk0], rfl, ?_, fun g => ⟨rfl, rfl, ⟨rfl, rfl, rfl⟩, rfl, rfl, Nat.zero_lt_one, Nat.le_refl _, rfl⟩⟩
  show sm3 chunk0 ≠ sm3 chunk0 + 1
  generalize sm3 chunk0 = x
  intro h
  have h := congrArg (fun y => y - x) h
  simp at h
theorem witness_PackageLoads_complete :
    (∀ f ∈ [id, (fun l => { l with action := 1 }), fun l => { l with dest := 1 }, fun l => { l with ctx := 3 }],
      let l := load1 0 fun l => f { l with next := 1 }
      l.copying = false ∧ l.next = l.digests.length ∧ l.stage = none) ∧
    (load1 0 id).next ≠ (load1 0 id).digests.length ∧
    (let s := atLoads (load1 0 fun l => { l with copying := true }) 0x20 id
     s.cached 0x1234 = none ∧ s.cache.length < 16) ∧
    (let s := (atLoads (load1 0 fun l => { l with copying := true }) 0x20 id).modCtx 16 fun k => k.modMem fun m => { m with lim3 := 16 }
     (match s.charge 16 3 0 ((payloadOff pkgHead + 0x200000) / unit2M) with | .ok _ => true | _ => false) = true) := by
  refine ⟨by simp [load1], ?_, ⟨?_, ?_⟩, ?_⟩ <;> decide +kernel
theorem test_load_complete_makes_the_last_ready :
    (match exec (.loadComplete 0) (atLoads (load1 0 fun l => { l with next := 1, dest := 1 }) 0x20 id) with
      | .next t => (t.last 1).st == 2 && (t.last 1).gen == 5#8 && t.loads.isEmpty
      | _ => false) = true := by decide +kernel

/-- A layout descriptor: tensor 7, BF16 to H8, forward, 64 by 64, rows of 128 bytes, destination 1 MiB into T1 (08 R199). -/
def layout7 : List Byte := [7, 0, 0, 0, 2, 1, 4, 1, 64, 0, 0, 0, 64, 0, 0, 0, 128] ++ List.replicate 9 0 ++ [16, 0, 0, 1] ++ List.replicate 20 0 ++ [255] ++ List.replicate 9 0 ++ [82, 216, 184, 37]
def rawParams (source dest : Byte) : List Byte :=
  [0, source, dest, 0, 1, 0, 0, 0] ++ [0, 0, 0, 0, 0, 1, 0, 0] ++ [0, 0, 0, 0, 0, 2, 0, 0] ++ [0, 0, 0, 0, 9, 0, 0, 0] ++ [0, 0x20, 0, 0, 0, 0, 0, 0]
/-- LOAD_RAW from context 3 with that descriptor at the base of T1; it owns a unit of each tier, and its T2 limit is `lim`. -/
def atRaw (lim : Nat) (d : List Byte) (ps : List Byte) : State := atCmd 3 0x21 ps fun s =>
  { s.modCtx 3 (fun k => k.modMem fun m => { m with lim2 := lim }) with
      mem := Mem.write [] 0x010000000000 d, allocs := [alloc1, { ctx := 3, tier := 2, base := 0x020000000000, units := 1, freeing := false }],
      host := { s.host with qps := [(9, some { ctx := 3, port := 0, rate := 400000, rises := 0, lastActed := none, lastSent := none })] } }
def rawDs (d : List Byte) : List (Layout × List Byte) := [(parseLayout d, d)]
set_option maxRecDepth 100000 in
theorem witness_RawLoadsAndSwitches_descriptor :
    (∀ lim ps, Begins (atRaw lim layout7 ps) 3 0x21 0xBEEF (hostCmd 0x21 ps) ∧ CleanStore (atRaw lim layout7 ps)) ∧
    parseLayouts (Mem.read (atRaw 8 layout7 []).mem 0x010000000000 64) 1 = rawDs layout7 ∧
    (parseLayout layout7).ok layout7 false = true ∧ (parseLayout (List.replicate 64 1)).ok (List.replicate 64 1) false = false ∧
    layoutsApart [parseLayout layout7, parseLayout layout7] = false ∧ rawBytes [parseLayout layout7] = 8192 := by
  refine ⟨fun _ _ => ⟨⟨rfl, rfl⟩, ⟨rfl, rfl, rfl⟩⟩, ?_, ?_, ?_, ?_, ?_⟩ <;> decide +kernel
set_option maxRecDepth 100000 in
theorem witness_RawLoadsAndSwitches_places :
    (hostCmd 0x21 (rawParams 0 0)).p 12 2 = 1 ∧ (hostCmd 0x21 (rawParams 0 0)).p 16 8 = 0x010000000000 ∧
    (atRaw 8 layout7 []).inAllocs 3 0x010000000000 64 = true ∧ (atRaw 8 layout7 []).sourceOk 3 (hostCmd 0x21 (rawParams 0 0)) 1 = true ∧
    (atRaw 8 layout7 []).inAllocs 4 0x010000000000 64 = false ∧ (atRaw 8 layout7 []).mayLast 3 = false ∧
    (atRaw 8 layout7 []).sourceOk 3 (hostCmd 0x21 (rawParams 2 0)) 1 = true := by
  refine ⟨?_, ?_, ?_, ?_, ?_, ?_, ?_⟩ <;> decide +kernel
set_option maxRecDepth 100000 in
theorem witness_RawLoadsAndSwitches_status :
    (atRaw 8 layout7 []).rawStatus 3 (hostCmd 0x21 (rawParams 0 0)) (rawDs layout7) = 0 ∧
    (atRaw 8 layout7 []).rawStatus 3 (hostCmd 0x21 (rawParams 2 0)) (rawDs layout7) = 0 ∧
    (atRaw 8 layout7 []).rawStatus 3 (hostCmd 0x21 (rawParams 0 0)) (rawDs (List.replicate 64 1)) = 0x23B := by
  refine ⟨?_, ?_, ?_⟩ <;> decide +kernel
set_option maxRecDepth 100000 in
theorem witness_RawLoadsAndSwitches_stage :
    (match (atRaw 8 layout7 (rawParams 0 0)).rawStage 3 8192 with | .ok _ => true | _ => false) = true ∧
    (atRaw 8 layout7 (rawParams 0 0)).rawWaits 3 (hostCmd 0x21 (rawParams 0 0)) = false := by
  refine ⟨?_, ?_⟩ <;> decide +kernel
def raw1 (f : Load → Load) : Load :=
  f { load1 0 id with raw := true, payload := 0, digests := [], layouts := [parseLayout layout7], passes := [(0, 0)], srcAddr := 0x020000000000 }
theorem witness_RawLoadsAndSwitches_load :
    (∀ f ∈ [id, (fun l => { l with source := 2 }), fun l => { l with ctx := 3 }],
      let s := atLoads (raw1 f) 0x21 id
      s.loads[0]? = some (raw1 f) ∧ (raw1 f).raw = true ∧ s.live = true ∧ (raw1 f).dest = 0 ∧ CleanStore s ∧ (raw1 f).arrived = 0 ∧
        ((raw1 f).ctx = 16 ∨ (s.ctx (raw1 f).ctx).prog = none)) ∧
    (atLoads (raw1 id) 0x21 id).hostOpen (raw1 id) = true ∧ 0 < (raw1 id).asked ∧ (atReady id).hostOpen (raw1 id) = false ∧
    ((atLoads (raw1 id) 0x21 id).cmd? 16 0x21 0xBEEF true).isSome = true ∧ rawBytes (raw1 id).layouts ≤ (List.replicate 8192 (0 : Byte)).length ∧
    ([] : List Byte).length < rawBytes (raw1 id).layouts ∧
    (let l := raw1 fun l => { l with arrived := 8192 }
     l.arrived ≠ 0 ∧ l.passes = [(0, 0)] ∧ l.layouts[0]? = some (parseLayout layout7)) := by
  refine ⟨?_, ?_, ?_, ?_, ?_, ?_, ?_, ?_, ?_, ?_⟩
  · intro f hf
    simp only [List.mem_cons, List.not_mem_nil, or_false] at hf
    rcases hf with rfl | rfl | rfl
    · exact ⟨rfl, rfl, rfl, rfl, ⟨rfl, rfl, rfl⟩, rfl, .inl rfl⟩
    · exact ⟨rfl, rfl, rfl, rfl, ⟨rfl, rfl, rfl⟩, rfl, .inl rfl⟩
    · exact ⟨rfl, rfl, rfl, rfl, ⟨rfl, rfl, rfl⟩, rfl, .inr rfl⟩
  all_goals decide +kernel
def switchCmd (i : Byte) (a b : Nat) : State := atCmd 16 0x22 [i] fun s => { s with lastA := { st := a }, lastB := { st := b } }
theorem witness_RawLoadsAndSwitches_switch :
    (∀ i a b, Begins (switchCmd i a b) 16 0x22 0xBEEF (hostCmd 0x22 [i])) ∧ (hostCmd 0x22 [1]).p 8 1 = 1 ∧
    ((switchCmd 1 3 0).last 2).st = 0 ∧ ((switchCmd 1 3 1).last 2).st = 1 ∧ ((switchCmd 0 3 0).last 1).st = 3 ∧ ((switchCmd 1 3 4).last 2).st = 4 ∧
    (switchCmd 1 3 4).mayLast 16 = true ∧ (atCmd 3 0x22 [0] id).mayLast 3 = false :=
  ⟨fun _ _ _ => ⟨rfl, rfl⟩, by decide, rfl, rfl, rfl, rfl, rfl, rfl⟩
/-- A switch of the management context to a last, which waits for its switch point. -/
def atSwitch (i a b n : Nat) : State := atReady fun s => { s.modCHost 16 (fun h => { h with cmds := [{ hostCmd 0x22 [] with running := true }] }) with
  lastPtr := { s.lastPtr with pendingSw := [(16, 0xBEEF, i)] }, lastA := { st := a, inflight := n }, lastB := { st := b } }
theorem witness_RawLoadsAndSwitches_point :
    ((atSwitch 2 3 2 0).lastPtr.pendingSw = [(16, 0xBEEF, 2)] ∧ (atSwitch 2 3 2 0).live = true ∧ ((atSwitch 2 3 2 0).cmd? 16 0x22 0xBEEF true).isSome = true ∧
      ((atSwitch 2 3 2 0).last 2).st = 2 ∧ ((atSwitch 2 3 2 0).last (3 - 2)).st = 3) ∧
    ((atSwitch 1 1 2 0).last 1).st = 1 ∧ ((atSwitch 2 0 3 0).last 2).st = 3 ∧ (atReady id).lastPtr.pendingSw = [] := by
  refine ⟨⟨?_, ?_, ?_, ?_, ?_⟩, ?_, ?_, ?_⟩ <;> decide +kernel
theorem test_switch_drains_the_other_last :
    (match exec .switchPoint (atSwitch 2 3 2 1) with
      | .next t => (t.last 1).st == 4 && (t.last 2).st == 3 && t.lastPtr.active && t.lastPtr.valid && t.lastPtr.switches == 1
      | _ => false) = true := by decide +kernel
/-- Sixteen READs are outstanding on queue pair 9, so that another header read waits; with fifteen it goes out. -/
theorem witness_PackageLoads_reads :
    let s := fun n => atPkg 16 (pkgParams 0 0 0) fun s => { s with loads := [{ packageLoad 16 0xBEEF (hostCmd 0x20 (pkgParams 0 0 0)) pkgHead with asked := n }] }
    (hostCmd 0x20 (pkgParams 0 0 0)).p 36 4 = 9 ∧ (s 16).readsOut 9 = 16 ∧ (s 15).readsOut 9 = 15 ∧ (s 0).readsOut 8 = 0 := by
  refine ⟨?_, ?_, ?_, ?_⟩ <;> decide +kernel

/-! ## Snapshots (15) -/

/-- An image of a context with no program, no records and no regions, of one unit. -/
def image1 : Image :=
  { kind := 1, scaling := false, label := 9, step := 12, serial := 0, length := unit2M, ctx := 3, regs := [], decision := false, scale := 0, prog := none,
    recs := [], serveCount := 0, copies := [], sregs := [], regions := [] }
def valid0 : Gen := { image := some image1, valid := true, newest := true, units := 1 }
/-- A command of context 3 with its snapshot record changed, and its T3 limit. -/
def atSnapCmd (op lim : Nat) (ps : List Byte) (f : CtxSnap → CtxSnap) : State := atCmd 3 op ps fun s => s.modCtx 3 fun k =>
  (k.modSnap f).modMem fun m => { m with lim3 := lim, lim1 := 16 }
theorem begins_atSnapCmd (op : Nat) (h : op = 0x40 ∨ op = 0x41) (lim : Nat) (ps : List Byte) (f : CtxSnap → CtxSnap) :
    Begins (atSnapCmd op lim ps f) 3 op 0xBEEF (hostCmd op ps) ∧ (atSnapCmd op lim ps f).cmd? 3 op 0xBEEF true = none ∧ CleanStore (atSnapCmd op lim ps f) := by
  rcases h with rfl | rfl <;> exact ⟨⟨rfl, rfl⟩, rfl, ⟨rfl, rfl, rfl⟩⟩
/-- SNAPSHOT of a context with one T1 allocation. -/
def takeCmd : State := { atSnapCmd 0x40 16 [0] id with allocs := [alloc1] }
def sendCmd : State := { atSnapCmd 0x40 16 [0] fun p => { p with role := 1, peer := 2 } with allocs := [alloc1] }
def fullT2 : Alloc := { ctx := 3, tier := 2, base := t2Base + windowSize, units := (t2Size - windowSize) / unit2M, freeing := false }
theorem witness_SnapshotsAndStreams_busy :
    1 < ((atSnapCmd 0x40 16 [0] fun p => { p with role := 2 }).ctx 3).snap.role ∧
    (((atSnapCmd 0x40 16 [0] fun p => { p with retained := true }).ctx 3).snap.retained = true) ∧
    ((atSnapCmd 0x40 16 [0] fun p => { p with g1 := { writing := true } }).ctx 3).snap.g1.writing = true ∧
    ((atSnapCmd 0x40 16 [0] fun p => { p with op := some { kind := 4, tag := 0 } }).ctx 3).snap.op ≠ none ∧
    (let s := { takeCmd with allocs := [alloc1, fullT2] }
     ∀ im ∈ s.snapShape 3 false (hostCmd 0x40 [0]), s.freeT2 < im.length / unit2M) := by
  refine ⟨?_, ?_, ?_, ?_, ?_⟩
  · decide +kernel
  · decide +kernel
  · decide +kernel
  · decide +kernel
  · intro s im h
    have e : s.snapShape 3 false (hostCmd 0x40 [0]) = some (s.wholeShape 3 false 0) := by
      have c : (s.wholeShape 3 false 0).countOk = true := by decide +kernel
      have e : s.snapShape 3 false (hostCmd 0x40 [0]) = (some (s.wholeShape 3 false 0)).filter Image.countOk := rfl
      rw [e, Option.filter_some, if_pos c]
    rw [e] at h
    cases h
    have a : s.freeT2 = 0 := by decide +kernel
    have b : (s.wholeShape 3 false 0).length / unit2M = 3 := by decide +kernel
    omega
theorem witness_SnapshotsAndStreams_take :
    (takeCmd.snapBusy 3 (hostCmd 0x40 [0]) = false ∧ (takeCmd.snapShape 3 false (hostCmd 0x40 [0])).isSome = true ∧ (takeCmd.ctx 3).step.wave = none ∧
      (takeCmd.ctx 3).step.committed = (takeCmd.ctx 3).step.applied ∧ (takeCmd.ctx 3).snap.role = 0) ∧
    (takeCmd.takeT2 1 []).isSome = true ∧ (takeCmd.chargeGen 3 0 1).isSome = true ∧ ((atSnapCmd 0x40 0 [0] id).chargeGen 3 0 1).isNone = true ∧
    (sendCmd.snapBusy 3 (hostCmd 0x40 [0]) = false ∧ (sendCmd.ctx 3).snap.role = 1 ∧ sendCmd.link.grants = []) := by
  refine ⟨⟨?_, ?_, ?_, ?_, ?_⟩, ?_, ?_, ?_, ?_, ?_, ?_⟩ <;> decide +kernel
/-- Context 3 in an operation, its command running. -/
def atOp (op : Nat) (f : CtxSnap → CtxSnap) : State :=
  atReady fun s => (s.modCHost 3 fun h => { h with cmds := [{ hostCmd op [] with running := true }] }).modCtx 3 fun k => k.modSnap f
def opOf (kind sent : Nat) (begun : Bool) : SnapOp :=
  { kind := kind, tag := 0xBEEF, image := some image1, begun := begun, start := 0, sent := sent, staging := [(t2Base + windowSize, 1)] }
theorem witness_SnapshotsAndStreams_stop :
    (∀ o, ((atOp 0x40 fun p => { p with op := some o }).ctx 3).snap.op = some o ∧ (atOp 0x40 fun p => { p with op := some o }).live = true ∧
      ((atOp 0x40 fun p => { p with op := some o }).cmd? 3 0x40 0xBEEF true).isSome = true) ∧
    ((opOf 1 0 true).begun = true ∧ (opOf 1 0 true).kind = 1) ∧ (opOf 2 unit2M true).sent = image1.length ∧
    ((opOf 2 0 false).begun = false ∧ (opOf 2 0 true).sent ≠ image1.length ∧ (opOf 2 0 true).sent < image1.length) ∧
    (((atOp 0 fun p => { p with drain := some (opOf 3 0 true) }).ctx 3).snap.drain = some (opOf 3 0 true) ∧ (opOf 3 0 true).gen ≤ 1) ∧
    ((atReady id).ctx 3).snap.op = none :=
  ⟨fun _ => ⟨rfl, rfl, rfl⟩, ⟨rfl, rfl⟩, rfl, ⟨rfl, by decide, by decide⟩, ⟨rfl, by decide⟩, rfl⟩
theorem witness_SnapshotsAndStreams_restore :
    (let s := atSnapCmd 0x41 16 [0] fun p => { p with role := 1, g0 := valid0 }
     (s.ctx 3).snap.role = 1 ∧ s.restoreBusy 3 = false ∧ (s.ctx 3).snap.named 0 = some 0 ∧ ((s.ctx 3).snap.gen 0).image = some image1 ∧
       (s.ctx 3).snap.named 1 = none ∧ s.link.grants = []) ∧
    (atSnapCmd 0x41 16 [0] fun p => { p with role := 1, retained := true }).restoreBusy 3 = true ∧
    (let s := atSnapCmd 0x41 16 [0] fun p => { p with role := 2, retained := true }
     (s.ctx 3).snap.role = 2 ∧ s.restoreBusy 3 = false) ∧
    (let s := { atSnapCmd 0x41 16 [0] fun p => { p with role := 2 } with allocs := [alloc1] }
     (s.ctx 3).snap.retained = false ∧ s.holdsT1 3 = true) := by
  refine ⟨⟨?_, ?_, ?_, ?_, ?_, ?_⟩, ?_, ⟨?_, ?_⟩, ?_, ?_⟩ <;> decide +kernel
theorem witness_SnapshotsAndStreams_streams :
    (∀ o, ((atOp 0x41 fun p => { p with op := some o }).ctx 3).snap.op = some o ∧
      ((atOp 0x41 fun p => { p with op := some o }).cmd? 3 0x41 0xBEEF true).isSome = true) ∧
    (opOf 6 unit2M false).sent = image1.length ∧ (opOf 6 0 false).sent < image1.length ∧
    ({ opOf 5 0 false with placed := true } : SnapOp).placed = true := ⟨fun _ => ⟨rfl, rfl⟩, rfl, by decide, rfl⟩
theorem test_drain_validates_the_generation :
    (match exec (.streamTimeout 3) (atOp 0x41 fun p => { p with op := some (opOf 5 0 false) }), exec (.snapshotStopEnd 3) (atOp 0x40 fun p => { p with op := some (opOf 1 0 true) }) with
      | .next t, .next u => (t.ctx 3).snap.op.isNone && ((t.ctx 3).host.comps.map (·.status)) == [0x242] && (u.ctx 3).snap.drain.isSome &&
          ((u.ctx 3).host.comps.map (·.res0)) == [unit2M]
      | _, _ => false) = true := by decide +kernel

/-- One region of one unit at the base of T1. -/
def image1r : Image := { image1 with regions := [{ addr := 0x010000000000, size := unit2M, bytes := [] }] }
theorem witness_RestoresExportsAndImports_restore :
    (let s := atSnapCmd 0x41 16 [0] fun p => { p with g0 := { valid0 with image := some image1r } }
     (s.ctx 3).snap.role = 0 ∧ (s.ctx 3).runInProgress = false ∧ (s.ctx 3).snap.op = none ∧ (s.ctx 3).snap.retained = false ∧ s.holdsT1 3 = false ∧
       (s.ctx 3).snap.named 0 = some 0 ∧ ((s.ctx 3).snap.gen 0).image = some image1r) ∧
    ({ atSnapCmd 0x41 16 [0] id with allocs := [alloc1] } : State).holdsT1 3 = true ∧ ((atSnapCmd 0x41 16 [0] id).ctx 3).snap.named 0 = none ∧
    ({ atSnapCmd 0x41 16 [0] id with allocs := [{ alloc1 with ctx := 4 }] } : State).regionsOk 3 image1r.regions = false ∧
    (atSnapCmd 0x41 16 [0] id).regionsOk 3 image1r.regions = true ∧ 4 < ((atSnapCmd 0x41 16 [0] fun p => { p with role := 5 }).ctx 3).snap.role := by
  refine ⟨⟨?_, ?_, ?_, ?_, ?_, ?_, ?_⟩, ?_, ?_, ?_, ?_, ?_⟩ <;> decide +kernel
/-- How many units the scaling records take is an opaque constant of the configuration; with none the regions are taken, and with
regions that may not be had they are not. -/
theorem witness_RestoresExportsAndImports_regions (h : Config.scalingUnits 0 = 0) :
    ((atSnapCmd 0x41 16 [0] id).takeRegions 3 image1r).isSome = true ∧
      ({ atSnapCmd 0x41 16 [0] id with allocs := [{ alloc1 with ctx := 4 }] } : State).takeRegions 3 image1r = none := by
  have r := witness_RestoresExportsAndImports_restore
  refine ⟨?_, ?_⟩
  · unfold State.takeRegions
    rw [r.2.2.2.2.1]
    have e : image1r.recs.length = 0 := rfl
    rw [e, h]
    decide +kernel
  · unfold State.takeRegions
    rw [r.2.2.2.1]
    rfl
/-- EXPORT and IMPORT of bulk page 0, which is a DEVICE page of context 3; `b` stands in it. -/
def atImport (role off lim : Nat) (b : List Byte) (f : CtxSnap → CtxSnap) : State :=
  let s := atSnapCmd 0x41 lim [0] fun p => f { p with role := role, pages := 1, offset := off }
  { s with host := { s.host with pages := [(0, { owner := 2, seq := 0 })] }, mem := Mem.write [] t2Base b,
           allocs := [{ ctx := 3, tier := 2, base := t2Base, units := 1, freeing := false }] }
theorem witness_RestoresExportsAndImports_export :
    (let s := atImport 3 0 16 [] fun p => { p with g0 := valid0 }
     (s.ctx 3).snap.role = 3 ∧ s.restoreBusy 3 = false ∧ s.rangeDevice 3 (s.ctx 3).snap.firstPage (s.ctx 3).snap.pages = true ∧
       (s.ctx 3).snap.named 0 = some 0 ∧ (s.ctx 3).snap.named 1 = none) ∧
    (atSnapCmd 0x41 16 [0] fun p => { p with role := 3, pages := 1 }).rangeDevice 3 0 1 = false := by
  refine ⟨⟨?_, ?_, ?_, ?_, ?_⟩, ?_⟩ <;> decide +kernel
/-- The header of an image of one unit with one region (15 R398). -/
def imageHeader : List Byte := [90, 83, 83, 49, 1, 0, 1, 0, 9, 0, 0, 0, 0, 0, 0, 0, 12] ++ List.replicate 17 0 ++ [32] ++ List.replicate 13 0 ++ [1, 0, 0, 0, 3, 0, 0, 0, 0, 0, 0, 0, 84, 152, 10, 50]
set_option maxRecDepth 100000 in
theorem witness_RestoresExportsAndImports_import :
    (let s := atImport 4 0 16 imageHeader id
     (s.ctx 3).snap.importing = none ∧ (s.ctx 3).snap.writing = false ∧ (s.ctx 3).snap.offset = 0 ∧ Mem.read s.mem (pageBase 0) 64 = imageHeader ∧
       imageHeadOk imageHeader = true ∧ imageHeadOk (List.replicate 64 0) = false ∧ 1 ≤ (s.ctx 3).snap.pages ∧
       (s.chargeGen 3 (s.ctx 3).snap.target (field imageHeader 32 8 / unit2M)).isSome = true ∧
       ((atImport 4 0 0 imageHeader id).chargeGen 3 0 (field imageHeader 32 8 / unit2M)).isNone = true) ∧
    ((atImport 4 1 16 imageHeader id).ctx 3).snap.offset ≠ 0 ∧
    (((atImport 4 1 16 [] fun p => { p with g0 := { writing := true, units := 2, next := 1 } }).ctx 3).snap.importing = some 0 ∧
      ((atImport 4 0 16 [] fun p => { p with g0 := { writing := true, units := 2, next := 1 } }).ctx 3).snap.offset ≠ 1) := by
  refine ⟨⟨?_, ?_, ?_, ?_, ?_, ?_, ?_, ?_, ?_⟩, ?_, ?_, ?_⟩ <;> decide +kernel
theorem witness_RestoresExportsAndImports_complete :
    (∀ o, ((atOp 0x41 fun p => { p with op := some o }).ctx 3).snap.op = some o ∧ (atOp 0x41 fun p => { p with op := some o }).live = true ∧
      ((atOp 0x41 fun p => { p with op := some o }).cmd? 3 0x41 0xBEEF true).isSome = true ∧ CleanStore (atOp 0x41 fun p => { p with op := some o })) ∧
    image1.prog = none ∧ ((atReady id).ctx 3).snap.op = none ∧
    (let s := atOp 0x41 id
     ({ s with quarters := [(0, { s.quarter 0 with cur := some 3 })] } : State).quarter 0 = { s.quarter 0 with cur := some 3 }) ∧
    ((0 : Nat) ≠ field (Mem.read (Mem.write [] 32 [1]) 32 8) 0 8 ∧ (0 : Nat) = field (Mem.read [] 32 8) 0 8 ∧ imageChecks [] = false) ∧
    (let s := atImport 3 0 16 [] id
     ∀ i, i < 1 → 0 + i < 131072 ∧ (s.page (0 + i)).owner = 2) := by
  refine ⟨fun _ => ⟨rfl, rfl, rfl, ⟨rfl, rfl, rfl⟩⟩, rfl, rfl, rfl, ⟨?_, ?_, ?_⟩, ?_⟩ <;> decide +kernel
/-- The first two units of an image with one region of zeros, and its unit checks (15 R397, R398). -/
def imageBody : Mem := Mem.write (Mem.write [] 0 ([90, 83, 83, 49, 1, 0, 1, 0, 9, 0, 0, 0, 0, 0, 0, 0, 12] ++ List.replicate 17 0 ++ [96] ++ List.replicate 13 0 ++ [1, 0, 0, 0, 3, 0, 0, 0, 0, 0, 0, 0, 15, 183, 252, 120])) 4096 [0, 0, 0, 0, 0, 1, 0, 0, 0, 0, 0x20, 0, 0, 0, 0, 0]
def wholeImage : Mem := Mem.write imageBody (2 * unit2M) (unitChecks imageBody (2 * unit2M))
theorem wholeImage_read (a n : Nat) (h : a + n ≤ 2 * unit2M) : Mem.read wholeImage a n = Mem.read imageBody a n :=
  Mem.read_write_other _ _ _ _ _ (.inl h)
set_option maxRecDepth 100000 in
theorem witness_RestoresExportsAndImports_whole : imageChecks wholeImage = true := by
  have h0 : Mem.read wholeImage 0 64 = Mem.read imageBody 0 64 := wholeImage_read _ _ (by decide)
  have hh : imageHeadOk (Mem.read imageBody 0 64) = true := by decide +kernel
  have hc : field (Mem.read imageBody 0 64) 40 4 = 0 ∧ field (Mem.read imageBody 0 64) 44 4 = 0 ∧ field (Mem.read imageBody 0 64) 48 4 = 1 ∧
      field (Mem.read imageBody 0 64) 32 8 = imageLen (2 * unit2M) := by
    refine ⟨?_, ?_, ?_, ?_⟩ <;> decide +kernel
  have hd : imageDir wholeImage (Mem.read imageBody 0 64) = imageDir imageBody (Mem.read imageBody 0 64) := by
    unfold imageDir
    rw [hc.1, hc.2.1, hc.2.2.1]
    have : Mem.read wholeImage (dirOff 0 0) 16 = Mem.read imageBody (dirOff 0 0) 16 := wholeImage_read _ _ (by decide)
    simp [this]
  have hp : checksOff (layRegions (imageDirEnd (Mem.read imageBody 0 64)) (imageDir imageBody (Mem.read imageBody 0 64))).2 = 2 * unit2M := by
    decide +kernel
  have hu : unitChecks wholeImage (2 * unit2M) = unitChecks imageBody (2 * unit2M) := by
    unfold unitChecks unitCrc
    have e : 2 * unit2M / unit2M = 2 := by decide
    rw [e]
    have r0 : Mem.read wholeImage (0 * unit2M) unit2M = Mem.read imageBody (0 * unit2M) unit2M := wholeImage_read _ _ (by decide)
    have r1 : Mem.read wholeImage (1 * unit2M) unit2M = Mem.read imageBody (1 * unit2M) unit2M := wholeImage_read _ _ (by decide)
    simp only [List.range_succ, List.range_zero, List.nil_append, List.cons_append, List.flatMap_cons, List.flatMap_nil, r0, r1]
  have hl : (unitChecks imageBody (2 * unit2M)).length = 4 * (2 * unit2M / unit2M) := by
    have e : 2 * unit2M / unit2M = 2 := by decide
    unfold unitChecks
    rw [e]
    simp [List.range_succ, natLe]
  have hr : Mem.read wholeImage (2 * unit2M) (4 * (2 * unit2M / unit2M)) = unitChecks imageBody (2 * unit2M) := by
    rw [← hl]
    exact Mem.read_write _ _ _
  unfold imageChecks
  simp only [h0, hd, hp, hh, hc.2.2.2, hr, hu, beq_self_eq_true, Bool.and_self]
theorem witness_RestoresExportsAndImports_last_unit :
    (1 : Nat) + 1 ≤ 2 ∧ imageChecks (Mem.write [] (1 * unit2M) [1]) = false ∧ (0 : Nat) + 1 < 2 := by
  refine ⟨?_, ?_, ?_⟩ <;> decide +kernel
/-- A generation that holds the image above as it came, with the digest of its units. -/
def wholeGen : Gen :=
  let im : Image := { image1r with length := 3 * unit2M, raw := some wholeImage }
  { image := some im, valid := true, newest := true, units := 3, digest := sm3 ((List.range (im.length / unit2M)).flatMap im.unit) }
theorem witness_RestoresExportsAndImports_checks : wholeGen.checks = true := by
  have h := witness_RestoresExportsAndImports_whole
  have p : wholeGen.plain = ({ image1r with length := 3 * unit2M, raw := some wholeImage } : Image).unit := by
    funext u
    simp [Gen.plain, Gen.stored, wholeGen]
  unfold Gen.checks
  rw [p]
  simp only [wholeGen, Image.bytes, h, Bool.and_true, beq_self_eq_true, image1r, image1]
theorem wholeImage_head : Mem.read wholeImage 0 64 = Mem.read imageBody 0 64 := wholeImage_read _ _ (by decide)
set_option maxRecDepth 100000 in
theorem wholeImage_is : (readImage wholeImage).step = 12 ∧ (readImage wholeImage).prog = none ∧
    (readImage wholeImage).regions.map (fun r => (r.addr, r.size)) = [(0x010000000000, unit2M)] ∧ field (Mem.read wholeImage 32 8) 0 8 = 3 * unit2M := by
  have hc : field (Mem.read imageBody 0 64) 40 4 = 0 ∧ field (Mem.read imageBody 0 64) 44 4 = 0 ∧ field (Mem.read imageBody 0 64) 48 4 = 1 := by
    refine ⟨?_, ?_, ?_⟩ <;> decide +kernel
  have hd : imageDir wholeImage (Mem.read imageBody 0 64) = imageDir imageBody (Mem.read imageBody 0 64) := by
    unfold imageDir
    rw [hc.1, hc.2.1, hc.2.2]
    have : Mem.read wholeImage (dirOff 0 0) 16 = Mem.read imageBody (dirOff 0 0) 16 := wholeImage_read _ _ (by decide)
    simp [this]
  have hn : imageDir imageBody (Mem.read imageBody 0 64) = [{ addr := 0x010000000000, size := unit2M, bytes := [] }] := by decide +kernel
  have hl : field (Mem.read imageBody 32 8) 0 8 = 3 * unit2M := by decide +kernel
  have hs : field (Mem.read imageBody 0 64) 16 8 = 12 := by decide +kernel
  refine ⟨?_, ?_, ?_, ?_⟩
  · simp only [readImage, wholeImage_head, hs]
  · simp only [readImage, wholeImage_head, hc.1, beq_self_eq_true, if_true]
  · simp only [readImage, wholeImage_head, hd, hn, layRegions, List.map_cons, List.map_nil]
  · rw [wholeImage_read _ _ (by decide), hl]
/-- Context 3 holds the memory that the image's region names, and its own step is 11. -/
def atTake : State := { atOp 0x41 fun p => { p with op := some { opOf 5 0 false with placed := true, retained := true, got := 3 * unit2M, rx := wholeImage } } with
  allocs := [alloc1] }
theorem witness_RestoresExportsAndImports_streamed :
    (atTake.acceptsRetained 3 (readImage wholeImage) = false) ∧
    ((atTake.modStepOf 3 fun t => { t with applied := 11 }).acceptsRetained 3 (readImage wholeImage) = true) := by
  have w := wholeImage_is
  have r : ∀ s : State, ((readImage wholeImage).regions.all fun r => s.inT1Allocs 3 r.addr r.size) = s.inT1Allocs 3 0x010000000000 unit2M := by
    intro s
    have e : ((readImage wholeImage).regions.all fun r => s.inT1Allocs 3 r.addr r.size) =
        ((readImage wholeImage).regions.map (fun r => (r.addr, r.size))).all fun x => s.inT1Allocs 3 x.1 x.2 := by
      rw [List.all_map]; rfl
    rw [e, w.2.2.1]
    simp
  refine ⟨?_, ?_⟩ <;> unfold State.acceptsRetained <;> rw [r, w.1] <;> decide +kernel

/-- A stop to the fabric that still waits for its commit wave, and an image with scale registers. -/
theorem witness_SnapshotsAndStreams_waiting :
    let o : SnapOp := { opOf 2 0 false with image := none }
    ((atOp 0x40 fun p => { p with op := some o }).ctx 3).snap.op = some o ∧ o.kind = 2 ∧ o.image = none ∧
      ((atOp 0x40 fun p => { p with op := some o }).cmd? 3 0x40 0xBEEF true).isSome = true ∧
      ({ image1 with scaling := true, sregs := [(5, [(7, 0x40000000#32)])] } : Image).scaling = true := ⟨rfl, rfl, rfl, rfl, rfl⟩

/-! ## Firmware and keys (18) -/

theorem drop_prefix (a b : List Byte) (n : Nat) : (a ++ b).drop (a.length + n) = b.drop n := by simp

/-- The SM3 digest of a chunk of zeros. -/
def zeroDigest : List Byte := digestBytes (sm3 (List.replicate 4096 0))
theorem zeroDigest_length : zeroDigest.length = 32 := by rw [zeroDigest, digestBytes, List.length_reverse, natLe_length]
/-- An image of one chunk of zeros (18 R471): header, manifest, a signature block of zeros, padding and body. -/
def fwHeader : List Byte := [90, 70, 87, 49, 1, 0, 0, 0, 1, 0, 0, 0, 5, 0, 0, 0, 1, 7, 0, 0, 1, 0, 0, 0, 0, 16, 0, 0, 0, 0, 0, 0, 32] ++ List.replicate 27 0 ++ [149, 36, 219, 129]
def fwImg : List Byte := fwHeader ++ (zeroDigest ++ List.replicate 8096 0)
/-- The same for no ordering code. -/
def fwNoCode : List Byte := [90, 70, 87, 49, 1, 0, 0, 0, 1, 0, 0, 0, 5, 0, 0, 0, 1, 0, 0, 0, 1, 0, 0, 0, 0, 16, 0, 0, 0, 0, 0, 0, 32] ++ List.replicate 27 0 ++ [113, 109, 110, 112]
def stageParams (source : Byte) : List Byte :=
  [source] ++ List.replicate 7 0 ++ [0, 0, 0, 0, 0, 2, 0, 0] ++ [0, 0x20, 0, 0, 0, 0, 0, 0]
/-- FW_STAGE of the image in bulk page 0. -/
def atStage (ps b : List Byte) (f : Shk → Shk) : State := atCmd 16 0x60 ps fun s =>
  { s with mem := Mem.write [] t2Base b, shk := f s.shk, host := { s.host with pages := [(0, { owner := 1, seq := 0 })] } }
def staging1 (img : Option FwImage) (l : Option Lace) : Staging := { tag := 0xBEEF, source := 1, img := img, lace := l }
theorem witness_FirmwareAndKeys_stage :
    (∀ ps b f, Begins (atStage ps b f) 16 0x60 0xBEEF (hostCmd 0x60 ps) ∧ CleanStore (atStage ps b f)) ∧
    ((atStage [] [] fun k => { k with staging := some (staging1 none none) }).shk.staging ≠ none ∧ (atStage [] [] id).shk.staging = none) ∧
    (hostCmd 0x60 (stageParams 1)).p 8 1 = 1 ∧ (hostCmd 0x60 (stageParams 0)).p 16 8 = t2Base ∧ (hostCmd 0x60 (stageParams 0)).p 24 8 = 8192 ∧
    (atStage [] [] id).fwPages t2Base 8192 = true ∧ (atStage [] [] id).fwPages (t2Base + unit2M - 4096) 8192 = false := by
  refine ⟨fun _ _ _ => ⟨⟨rfl, rfl⟩, ⟨rfl, rfl, rfl⟩⟩, ⟨?_, ?_⟩, ?_, ?_, ?_, ?_, ?_⟩ <;> decide +kernel
theorem fwHeader_length : fwHeader.length = 64 := by decide +kernel
theorem fwImg_length : fwImg.length = 8192 := by
  rw [fwImg, List.length_append, List.length_append, fwHeader_length, zeroDigest_length, List.length_replicate]
theorem read_atStage (ps b : List Byte) (n : Nat) (h : b.length = n) : Mem.read (atStage ps b id).mem t2Base n = b := by
  subst h
  exact Mem.read_write [] t2Base b
theorem witness_FirmwareAndKeys_bytes (ps : List Byte) : Mem.read (atStage ps fwImg id).mem t2Base 8192 = fwImg := read_atStage _ _ _ fwImg_length
set_option maxRecDepth 100000 in
theorem witness_FirmwareAndKeys_image :
    fwHeaderOk fwImg = true ∧ fwLayoutOk fwImg = true ∧ fwHeaderOk (List.replicate 64 0) = false := by
  refine ⟨?_, ?_, ?_⟩ <;> decide +kernel
theorem witness_FirmwareAndKeys_chunk : fwChunksOk fwImg = true ∧ bit (field fwNoCode 17 1) codeBit = false := by
  have c : fwChunks fwImg = 1 := by decide +kernel
  have h1 : headPieces 1 = 1 := by decide
  have body : (fwImg.drop 4096).take 4096 = List.replicate 4096 0 := by
    have e : 4096 = fwHeader.length + (zeroDigest.length + 4000) := by rw [fwHeader_length, zeroDigest_length]
    conv => lhs; arg 2; rw [e]
    rw [fwImg, drop_prefix, drop_prefix, List.drop_replicate, List.take_replicate, show min 4096 (8096 - 4000) = 4096 from by decide]
  have man : (fwImg.drop 64).take 32 = zeroDigest := by
    rw [fwImg, ← fwHeader_length, List.drop_left, ← zeroDigest_length, List.take_left]
  refine ⟨?_, ?_⟩
  · unfold fwChunksOk chunkOk
    simp only [c, h1, List.range_succ, List.range_zero, List.nil_append, List.all_cons, List.all_nil, Bool.and_true]
    rw [show 4096 * (1 + 0) = 4096 from rfl, show 64 + 32 * 0 = 64 from rfl, body, man]
    exact beq_self_eq_true _
  · have e : field fwNoCode 17 1 = 0 := by decide +kernel
    rw [e]
    simp [bit]
theorem bit_7 : bit 7 codeBit = true := by unfold codeBit; cases Config.ordering <;> decide
/-- What a signature check answers is a constant of the configuration: the image ends in one status or the other. -/
theorem witness_FirmwareAndKeys_status :
    (fwSignatureOk fwImg = true → (atStage [] [] id).shk.fwStatus fwImg = 0 ∧ ({ (atStage [] [] id).shk with rollback := 2 } : Shk).fwStatus fwImg = 0x245) ∧
      (fwSignatureOk fwImg = false → (atStage [] [] id).shk.fwStatus fwImg ≠ 0) := by
  have h := witness_FirmwareAndKeys_image
  have c := witness_FirmwareAndKeys_chunk.1
  have l : field fwImg 16 1 = 1 ∧ field fwImg 17 1 = 7 := by
    refine ⟨?_, ?_⟩ <;> decide +kernel
  have r : (atStage [] [] id).shk.rollback = 0 := rfl
  refine ⟨fun s => ⟨?_, ?_⟩, fun s => ?_⟩
  · simp [Shk.fwStatus, h.1, h.2.1, s, c, l.1, l.2, r, bit_7]
  · simp [Shk.fwStatus, h.1, h.2.1, s, l.1]
  · simp [Shk.fwStatus, h.1, h.2.1, s]
def stagedState : State := atReady fun s => { s.modCHost 16 (fun h => { h with cmds := [{ hostCmd 0x60 [] with running := true }] }) with
  shk := { s.shk with staging := some (staging1 (some (image0 0)) none) } }
theorem witness_FirmwareAndKeys_write :
    stagedState.shk.staging = some (staging1 (some (image0 0)) none) ∧ stagedState.flt.active = false ∧
      (stagedState.cmd? 16 0x60 0xBEEF true).isSome = true ∧ (staging1 (some (image0 0)) none).source ≠ 0 ∧ (atReady id).shk.staging = none :=
  ⟨rfl, rfl, rfl, by decide, rfl⟩
/-- FW_ACTIVATE of version epoch 2 with this STAGED image. -/
def atActivate (epoch : Byte) : State := atCmd 16 0x61 (List.replicate 8 0 ++ [epoch]) fun s => { s with shk := { s.shk with slotS := some (image0 0) } }
theorem witness_FirmwareAndKeys_activate :
    (∀ e, Begins (atActivate e) 16 0x61 0xBEEF (hostCmd 0x61 (List.replicate 8 0 ++ [e])) ∧ (atActivate e).shk.staging = none ∧
      (atActivate e).shk.slotS = some (image0 0)) ∧
    BitVec.ofNat 32 ((hostCmd 0x61 (List.replicate 8 0 ++ [2])).p 16 8) = (image0 0).version ∧ (image0 0).verified = true ∧
    BitVec.ofNat 32 ((hostCmd 0x61 (List.replicate 8 0 ++ [3])).p 16 8) ≠ (image0 0).version :=
  ⟨fun _ => ⟨⟨rfl, rfl⟩, rfl, rfl⟩, by decide +kernel, rfl, by decide +kernel⟩
/-- ATTEST of one measurement, to an address. -/
def attestParams (a : List Byte) : List Byte := List.replicate 32 0 ++ [1, 0] ++ List.replicate 6 0 ++ a ++ List.replicate (72 - a.length) 0
theorem witness_FirmwareAndKeys_attest :
    (∀ n ps, n = 3 ∨ n = 16 → Begins (atCmd n 0x70 ps id) n 0x70 0xBEEF (hostCmd 0x70 ps)) ∧ (attestParams []).length = 112 ∧
    (hostCmd 0x70 (attestParams [])).p 48 8 = 0 ∧ (hostCmd 0x70 (attestParams [0, 0, 0, 0, 0, 1])).p 48 8 = 0x010000000000 := by
  refine ⟨?_, ?_, ?_, ?_⟩
  · rintro n ps (rfl | rfl) <;> exact ⟨rfl, rfl⟩
  all_goals decide +kernel
theorem quote_length_one (s : State) : (s.quote (List.replicate 32 0) 1).length = 296 := by
  have e : (List.range 16).filter (bit 1) = [0] := by decide +kernel
  unfold State.quote
  rw [e]
  simp only [List.length_append, List.flatMap_cons, List.flatMap_nil, natLe_length, keyBytes, digestBytes, sigBytes, List.length_reverse, List.length_replicate, List.length_cons, List.length_nil]
theorem witness_FirmwareAndKeys_attest_places :
    let s := atCmd 3 0x70 (attestParams [0, 0, 0, 0, 0, 1]) fun s => { s with allocs := [alloc1] }
    s.inAllocs 3 0x010000000000 (s.quote (List.replicate 32 0) 1).length = true ∧
      (atCmd 3 0x70 (attestParams [0, 0, 0, 0, 0, 1]) id).inAllocs 3 0x010000000000 296 = false ∧
      0x010000000000 + (s.quote (List.replicate 32 0) 1).length ≤ t1Base + t1Size ∧ CleanStore s := by
  intro s
  rw [quote_length_one]
  refine ⟨?_, ?_, ?_, ⟨rfl, rfl, rfl⟩⟩ <;> decide +kernel
/-- Enrolments of package-key slot 7, a revocation of it, one whose body check fails, and one of a management key; sequence 5, each
with its code, HMAC-SM3 under the key of zeros (18 R467). -/
def enrol2 : List Byte := [90, 73, 77, 49, 5, 0, 0, 0, 5, 0, 0, 0, 0, 0, 0, 0, 132, 206, 175, 62, 114, 81, 189, 240, 212, 117, 3, 247, 176, 201, 103, 74, 2, 7, 0, 0, 0, 0, 0, 0] ++ List.replicate 64 1 ++ List.replicate 52 0 ++ [251, 188, 243, 231]
def enrol3 : List Byte := [90, 73, 77, 49, 5, 0, 0, 0, 5, 0, 0, 0, 0, 0, 0, 0, 246, 19, 19, 69, 250, 248, 103, 145, 111, 70, 219, 92, 155, 241, 236, 110, 3, 7] ++ List.replicate 122 0 ++ [237, 171, 65, 150]
def enrolBad : List Byte := [90, 73, 77, 49, 5, 0, 0, 0, 5, 0, 0, 0, 0, 0, 0, 0, 54, 192, 70, 71, 161, 213, 198, 211, 97, 176, 148, 82, 128, 13, 205, 190, 2, 7, 0, 0, 0, 0, 0, 0] ++ List.replicate 64 1 ++ List.replicate 52 0 ++ [250, 188, 243, 231]
def enrol1 : List Byte := [90, 73, 77, 49, 5, 0, 0, 0, 5, 0, 0, 0, 0, 0, 0, 0, 188, 90, 228, 192, 151, 9, 65, 10, 242, 55, 174, 43, 197, 238, 59, 99, 1] ++ List.replicate 123 0 ++ [91, 198, 12, 163]
set_option maxRecDepth 100000 in
theorem witness_FirmwareAndKeys_enrol :
    (∀ b ∈ [enrol1, enrol2, enrol3, enrolBad], b.length = 160) ∧ (atMgmt [] true).mgmtOk 5 enrol1 = true ∧ (atMgmt [] true).mgmtOk 5 enrol2 = true ∧
    (atMgmt [] true).mgmtOk 5 enrol3 = true ∧ (atMgmt [] true).mgmtOk 5 enrolBad = true ∧ (atMgmt [] true).mgmtOk 5 datagram5 = false := by
  refine ⟨?_, ?_, ?_, ?_, ?_, ?_⟩ <;> decide +kernel
set_option maxRecDepth 100000 in
theorem witness_FirmwareAndKeys_bodies :
    enrolOk (enrol1.drop 32) = true ∧ enrolOk (enrol2.drop 32) = true ∧ enrolOk (enrol3.drop 32) = true ∧ enrolOk (enrolBad.drop 32) = false ∧
    field (enrol1.drop 32) 0 1 = 1 ∧ field (enrol2.drop 32) 0 1 = 2 ∧ field (enrol3.drop 32) 0 1 = 3 ∧
    ((atMgmt [] true).shk.enrol (enrol2.drop 32)).isSome = true ∧ ((atMgmt [] true).shk.enrol (enrolBad.drop 32)).isNone = true ∧
    (∀ k ∈ (atMgmt [keptOf 4 none true] true).host.kept, k.seq.toNat < (5#64).toNat) := by
  refine ⟨?_, ?_, ?_, ?_, ?_, ?_, ?_, ?_, ?_, ?_⟩ <;> decide +kernel
set_option maxRecDepth 100000 in
theorem test_enrolment_of_slot_7 :
    (match exec (.enrolPackageKey 0 0 0 enrol2) (atMgmt [] true) with
      | .next t => SMap.get none t.shk.pkgKeys 7 == some (BitVec.ofNat 512 (leNat (List.replicate 64 1))) && t.out.length == 1
      | _ => false) = true := by decide +kernel

/-! ### Lacing -/

def laceHeader : List Byte := [90, 70, 87, 49, 1, 0, 0, 0, 1, 0, 0, 0, 5, 0, 0, 0, 1, 7, 0, 0, 2, 0, 0, 0, 0, 32, 0, 0, 0, 0, 0, 0, 64] ++ List.replicate 27 0 ++ [147, 139, 237, 198]
/-- The head region of an image of two chunks, 4 KiB; the first is of zeros, and the second digest is zeros. -/
def headPiece : List Byte := laceHeader ++ (zeroDigest ++ List.replicate 4000 0)
/-- Piece 3 of release 1 by message, repair or end; its data in words. -/
def laceMsg (kind : BitVec 64) (release : BitVec 64) (index : BitVec 64) (ws : List (BitVec 64)) : Msg :=
  mkMsg 0 5 16 2 0 1 kind release index 0 ws
def lace0 : Lace := {}
def laceHeld : Lace := { release := some 1, held := [(3, some [1])] }
/-- The head has verified, and no chunk is held. -/
def laceOpen : Lace := { release := some 1, held := [(0, some headPiece)], headOk := true }
def atLace (l : Lace) (m : List Msg) (f : State → State) : State := inGroup m [] fun s =>
  f { s with shk := { s.shk with staging := some (staging1 none (some l)) } }
def pieceMsg : Msg := laceMsg 0x30 1 3 [7]
def zeroPiece : Msg := laceMsg 0x33 1 1 (List.replicate 512 0)
def badPiece : Msg := laceMsg 0x30 1 2 [7]
theorem witness_LacingBroadcast_piece :
    ((atLace lace0 [pieceMsg] id).link.inbox[0]? = some pieceMsg ∧ (atLace lace0 [pieceMsg] id).lacing = some lace0 ∧
      (atLace lace0 [pieceMsg] id).shk.path = false ∧ (atLace lace0 [pieceMsg] id).flt.active = false ∧ pieceMsg.w0.toNat % 256 = 0x30 ∧
      zeroPiece.w0.toNat % 256 = 0x33) ∧
    ((atLace lace0 [pieceMsg] id).accepts lace0 pieceMsg.laceRelease = true ∧ lace0.piece pieceMsg.laceIndex = none ∧ lace0.piece 0 = none ∧
      pieceMsg.laceIndex ≠ 0 ∧ lace0.headOk = false) ∧
    ((atLace lace0 [] id).accepts laceHeld (laceMsg 0x30 2 3 []).laceRelease = false ∧ laceHeld.piece pieceMsg.laceIndex ≠ none) := by
  refine ⟨⟨?_, ?_, ?_, ?_, ?_, ?_⟩, ⟨?_, ?_, ?_, ?_, ?_⟩, ?_, ?_⟩ <;> decide +kernel
set_option maxRecDepth 100000 in
theorem witness_LacingBroadcast_chunk :
    laceOpen.chunks = some 2 ∧ headPieces 2 = 1 ∧ laceOpen.headOk = true ∧ zeroPiece.laceIndex = 1 ∧ laceOpen.piece 1 = none ∧
    (2 < headPieces 2 + 2 ∧ (2 : Nat) ≠ 1 ∧ laceOpen.piece 2 = none) ∧ badPiece.laceIndex = 2 := by
  refine ⟨?_, ?_, ?_, ?_, ?_, ⟨?_, ?_, ?_⟩, ?_⟩ <;> decide +kernel
theorem wordsBytes_zeros (n : Nat) : wordsBytes (List.replicate n 0) = List.replicate (8 * n) 0 := by
  induction n with
  | zero => rfl
  | succ n ih =>
    rw [List.replicate_succ, show wordsBytes ((0 : BitVec 64) :: List.replicate n 0) = natLe 8 0 ++ wordsBytes (List.replicate n 0) from rfl, ih,
      show natLe 8 0 = List.replicate 8 (0 : Byte) from by decide, ← List.replicate_add]
    congr 1
    omega
theorem witness_LacingBroadcast_digest :
    chunkOk (laceOpen.join 1) (wordsBytes zeroPiece.data) (1 - 1) = true ∧ chunkOk (laceOpen.join 1) (wordsBytes badPiece.data) (2 - 1) = false := by
  have l : laceHeader.length = 64 := by decide +kernel
  have j : laceOpen.join 1 = headPiece := List.append_nil _
  have first : (headPiece.drop 64).take 32 = zeroDigest := by
    rw [headPiece, ← l, List.drop_left, ← zeroDigest_length, List.take_left]
  have second : (headPiece.drop 96).take 32 = List.replicate 32 0 := by
    have e : 96 = laceHeader.length + (zeroDigest.length + 0) := by rw [l, zeroDigest_length]
    rw [headPiece, e, drop_prefix, drop_prefix, List.drop_replicate, List.take_replicate, show min 32 (4000 - 0) = 32 from by decide]
  refine ⟨?_, ?_⟩
  · have d : wordsBytes zeroPiece.data = List.replicate 4096 0 := wordsBytes_zeros 512
    unfold chunkOk
    rw [j, d, show 64 + 32 * (1 - 1) = 64 from rfl, first]
    exact beq_self_eq_true _
  · unfold chunkOk
    rw [j, show 64 + 32 * (2 - 1) = 96 from rfl, second]
    decide +kernel
/-- Piece 3 of release 1 by datagram. -/
def laceDatagram : List Byte := [0x5A, 0x49, 0x4D, 0x31, 6, 0, 0, 0] ++ List.replicate 24 0 ++ [1, 0, 0, 0] ++ [5, 0, 0, 0] ++ [3, 0, 0, 0] ++ List.replicate 4100 0
def byPath (s : State) : State := { s with shk := { s.shk with path := true } }
set_option maxRecDepth 100000 in
theorem witness_LacingBroadcast_datagram :
    pieceDatagramOk laceDatagram = true ∧ pieceDatagramOk [] = false ∧ BitVec.ofNat 32 (field laceDatagram 32 4) = 1 ∧ field laceDatagram 40 4 = 3 ∧
    (atLace lace0 [] byPath).lacing = some lace0 ∧ (atLace lace0 [] byPath).shk.path = true ∧ (atLace lace0 [] byPath).flt.active = false ∧
    (atLace lace0 [] byPath).accepts lace0 1 = true ∧ (atLace lace0 [] byPath).accepts laceHeld 2 = false ∧ laceHeld.piece 3 ≠ none ∧
    (atReady id).lacing = none := by
  refine ⟨?_, ?_, ?_, ?_, ?_, ?_, ?_, ?_, ?_, ?_, ?_⟩ <;> decide +kernel
def endMsg3 : Msg := laceMsg 0x31 1 3 []
def bitmapMsg : Msg := laceMsg 0x32 1 0 [3]
def held1 (s : State) : State := { s with shk := { s.shk with staging := none, slotS := some (image0 0) } }
theorem witness_LacingBroadcast_end :
    ((atLace lace0 [endMsg3] id).link.inbox[0]? = some endMsg3 ∧ endMsg3.w0.toNat % 256 = 0x31 ∧ (atLace lace0 [endMsg3] id).lacing = some lace0 ∧
      (atLace lace0 [endMsg3] id).accepts lace0 endMsg3.laceRelease = true) ∧
    ((inGroup [endMsg3] [] id).lacing = none ∧ (inGroup [endMsg3] [] id).heldImage endMsg3.laceRelease = none) ∧
    (bitmapMsg.w0.toNat % 256 = 0x32 ∧ (inGroup [bitmapMsg] [] held1).lacing = none ∧
      (inGroup [bitmapMsg] [] held1).heldImage bitmapMsg.laceRelease = some (image0 0) ∧ (inGroup [bitmapMsg] [] held1).shk.repaired ≤ 65535) := by
  refine ⟨⟨?_, ?_, ?_, ?_⟩, ⟨?_, ?_⟩, ?_, ?_, ?_, ?_⟩ <;> decide +kernel
theorem witness_LacingBroadcast_timer :
    ({ lace0 with count := some 0 } : Lace).missing = [] ∧
    (let l : Lace := { lace0 with count := some 2, seed := some 2 }
     l.missing ≠ [] ∧ (atLace l [] id).lacing = some l ∧ ((atLace l [] id).parentOf 2 (atLace l [] id).link.coord).isSome = true ∧
       (atLace l [] byPath).shk.path = true) := by
  refine ⟨?_, ?_, ?_, ?_, ?_⟩ <;> decide +kernel
theorem test_piece_is_held :
    (match exec (.lacePiece 0) (atLace lace0 [pieceMsg] id) with
      | .next t => (t.lacing.map fun l => l.piece 3) == some (some [7, 0, 0, 0, 0, 0, 0, 0]) && t.shk.held == 1
      | _ => false) = true := by decide +kernel

/-- Whether a signature verifies is an opaque constant of the configuration, and so are the fused keys; one that names neither key fails. -/
theorem witness_FirmwareAndKeys_signer (b : List Byte) (k : fwSignerOk ((b.drop (64 + 32 * fwChunks b)).take 96) = true)
    (h : Config.fwSigOk (sm3 (b.take (64 + 32 * fwChunks b))) ((b.drop (64 + 32 * fwChunks b)).take 96) = true) : fwSignatureOk b = true := by
  simp [fwSignatureOk, k, h]
theorem witness_FirmwareAndKeys_off :
    (atPwr fun p => { p with sup := 3 }).pwr.sup = 3 ∧ (atStage [] [] id).pwr.sup ≠ 3 ∧
      t2Base ≤ t2Base + windowSize := ⟨rfl, by decide, by decide⟩
theorem witness_LacingBroadcast_unmet : ({ lace0 with seed := none } : Lace).seed = none := rfl

/-! ## The invariant, any number of steps, and ill-formed commands -/

theorem witness_InvariantKeptByEveryStep : State.reset.Ok where
  mem := rfl
  pwr := { clk := by unfold clkPoint clkMax; cases Config.ordering <;> decide, vpt := by unfold clkPoint clkMax; cases Config.ordering <;> decide,
           lead := by decide, still := (fun _ => rfl), cap := (fun c h => by cases h), req := .inl rfl, sup := by decide, rest := by decide,
           entering := (fun k h => by cases h), waking := (fun k h => by cases h), hist := by decide, idle := by decide }
  hlt := { score := by decide, hstate := by decide }
  rst := { phase := by decide, kind := by decide, retries := by decide, kept := by decide }
theorem witness_WaitingCommandsAreAllTaken :
    State.reset.Ok ∧ ({ State.reset with pending := [.healthScoreTick, .healthScoreTick] } : State).pending.drop 2 = [] :=
  ⟨witness_InvariantKeptByEveryStep, rfl⟩

/-- Well-formedness refuses a command that breaks a check, and accepts one that meets it. -/
theorem test_wf_upset_address : Instr.wf (.scrubAccess 0 [{ addr := 4, bits := 1 }]) = false := by decide
theorem test_wf_upset_none : Instr.wf (.scrubAccess 0 [{ addr := 8, bits := 0 }]) = false := by decide
theorem test_wf_upset_bits : Instr.wf (.rdmaRead 0 0 0 8 [{ addr := 8, bits := 81 }]) = false := by decide
theorem test_wf_upset_dma : Instr.wf (.dmaTransactionComplete 0 0 0 0 [{ addr := 12, bits := 1 }]) = false := by decide
theorem test_wf_upset : Instr.wf (.scrubAccess 0 [{ addr := 8, bits := 80 }]) = true := by decide
theorem test_wf_mtu : Instr.wf (.qpConnectRequest 0 0 0 1500) = false := by decide
theorem test_wf_flit : Instr.wf (.flitReceive 0 [] 0) = false := by decide
theorem test_wf_piece : Instr.wf (.lacePieceDatagram 0 []) = false := by decide
theorem test_wf_coolant : Instr.wf (.coolantReading 0 0 []) = false := by decide
theorem test_wf_register_size : Instr.wf (.registerWrite .admin 0 2 0) = false := by decide
theorem test_wf_register : Instr.wf (.registerWrite .admin 0 8 0) = true := by decide
theorem test_wf_nak : Instr.wf (.nakReceive 0 (Flit.mk 0 0 false 0 0 0 0 false 0 0 0 0 0 0 [])) = false := by decide
theorem test_wf_dump : Instr.wf (.dumpRegionComplete (List.replicate 0x4000001 0)) = false := by
  show decide ((List.replicate 0x4000001 (0 : Byte)).length ≤ 0x4000000) = false
  rw [List.length_replicate]
  decide

end Sys2Proof.Tests
end

/-!
What a read of the register spaces returns, what REGISTER_WRITE reaches, and the state right after reset (00_scope.md).
-/

namespace Sys2Proof.Machine

open Sys2Proof

/-! ## Bits and fields of a word -/

theorem b2n_getLsbD {w : Nat} (v : BitVec w) (i : Nat) : b2n (v.getLsbD i) = v.toNat / 2 ^ i % 2 := by
  rw [← Nat.toNat_testBit, ← BitVec.testBit_toNat]
  cases v.toNat.testBit i <;> rfl

/-- A field as the number that a mask of the word leaves. -/
theorem toNat_and_mask (v m : BitVec 64) (lo n : Nat) (h : m.toNat = (2 ^ n - 1) * 2 ^ lo) :
    (v &&& m).toNat = v.toNat / 2 ^ lo % 2 ^ n * 2 ^ lo := by
  rw [BitVec.toNat_and, h, ← Nat.div_add_mod' (v.toNat &&& _) (2 ^ lo), Nat.and_div_two_pow, Nat.and_mod_two_pow,
    Nat.mul_div_cancel _ (Nat.two_pow_pos lo), Nat.mul_mod_left, Nat.and_zero, Nat.and_two_pow_sub_one_eq_mod, Nat.add_zero]

/-- A word with one higher bit set or clear. -/
theorem toNat_or_bit (x : BitVec 64) (b : Bool) (i : Nat) (h : x.toNat < 2 ^ i) (hi : i < 64) :
    (x ||| if b then BitVec.ofNat 64 (2 ^ i) else 0#64).toNat = x.toNat + b2n b * 2 ^ i := by
  have := Nat.two_pow_add_eq_or_of_lt h (b2n b)
  cases b
  · simp [b2n]
  · have hm : 2 ^ i % 2 ^ 64 = 2 ^ i := Nat.mod_eq_of_lt (Nat.pow_lt_pow_right (by decide) hi)
    rw [if_pos rfl, BitVec.toNat_or, BitVec.toNat_ofNat, hm, Nat.or_comm]
    simpa [b2n, Nat.add_comm] using this.symm

/-! ## Which table a read goes to (00 R5, R8) -/

theorem within_of {a n b m : Nat} (lo : b ≤ a) (hi : a + n ≤ b + m) : within a n b m = true := by simp [within, lo, hi]

theorem not_within_of {a n b m : Nat} (h : a < b ∨ b + m < a + n) : within a n b m = false := by simp [within]; omega

theorem readReg_discarded (s : State) {a size : Nat} (h : size ≠ 8 ∨ a % 8 ≠ 0) : s.readReg a size = 0#64 := by
  have hb : (size != 8 || a % 8 != 0) = true := by simpa using h
  simp [State.readReg, hb]

/-- A read of the context blocks. -/
theorem readReg_ctx (s : State) {n off : Nat} (hn : n < 17) (ho : off < 0x1000) (al : off % 8 = 0) :
    s.readReg (ctxBase + 0x1000 * n + off) = BitVec.ofNat 64 (s.readCtx n off) := by
  unfold ctxBase
  have hd : (0x0F0000100000 + 0x1000 * n + off - 0x0F0000100000) / 0x1000 = n := by omega
  have hm : (0x0F0000100000 + 0x1000 * n + off - 0x0F0000100000) % 0x1000 = off := by omega
  have ha : (0x0F0000100000 + 0x1000 * n + off) % 8 = 0 := by omega
  have hw : within (0x0F0000100000 + 0x1000 * n + off) 8 0x0F0000100000 (17 * 0x1000) = true := within_of (by omega) (by omega)
  have hs : ¬ 0x0F1000000000 ≤ 0x0F0000100000 + 0x1000 * n + off := by omega
  simp [State.readReg, ctxBase, hd, hm, ha, hw, hs]

/-- A read of the link registers. -/
theorem readReg_link (s : State) {a : Nat} (al : a % 8 = 0) (lo : 0x0F0000030000 ≤ a) (hi : a < 0x0F0000040000) :
    s.readReg a = BitVec.ofNat 64 (s.readLink a) := by
  have hw : within a 8 ctxBase (17 * 0x1000) = false := not_within_of (.inl (by unfold ctxBase; omega))
  have hs : ¬ 0x0F1000000000 ≤ a := by omega
  simp [State.readReg, al, hw, hs, hi, Nat.not_lt.2 lo]

/-- A read of the snapshot streams' registers, which stand among the memory registers. -/
theorem readReg_stream (s : State) {a : Nat} (al : a % 8 = 0) (lo : 0x0F0000060000 ≤ a) (hi : a < 0x0F0000070000) :
    s.readReg a = BitVec.ofNat 64 (s.readMem a) := by
  have hw : within a 8 ctxBase (17 * 0x1000) = false := not_within_of (.inl (by unfold ctxBase; omega))
  have hs : ¬ 0x0F1000000000 ≤ a := by omega
  have past : ∀ c, c ≤ 0x0F0000060000 → ¬ a < c := fun c h => by omega
  simp [State.readReg, al, hw, hs, past, hi]

/-! ## What each register shows -/

theorem readReg_lace (s : State) :
    s.readReg 0x0F0000090000 = BitVec.ofNat 64 (b2n s.shk.seed + b2n s.shk.path * 2 + s.shk.laceRelease.toNat * 2 ^ 32) := rfl

theorem readReg_inject (s : State) :
    s.readReg 0x0F0000020028 = BitVec.ofNat 64 (s.ecc.injAddr * 8 + s.ecc.injFlips * 2 ^ 48 + b2n s.ecc.injArmed * 2 ^ 51) := rfl

theorem readReg_policy (s : State) :
    s.readReg 0x0F0000050008 =
      BitVec.ofNat 64 (s.hlt.probBelow + s.hlt.probExit * 2 ^ 10 + s.hlt.reqBelow * 2 ^ 20 + s.hlt.holdMin * 2 ^ 30) := rfl

theorem readReg_dir (s : State) {d : Nat} (hd : d < 8) :
    s.readReg (0x0F0000030040 + 8 * d) =
      BitVec.ofNat 64 ((s.dir d).ports.toNat + b2n (s.dir d).detour * 2 ^ 36 + b2n (s.dir d).down * 2 ^ 37) := by
  rw [readReg_link s (by omega) (by omega) (by omega)]
  have hw : within (0x0F0000030040 + 8 * d) 8 0x0F0000030040 64 = true := within_of (by omega) (by omega)
  have hx : (0x0F0000030040 + 8 * d - 0x0F0000030040) / 8 = d := by omega
  have hc : (0x0F0000030040 + 8 * d == 0x0F0000030000) = false := by simp; omega
  simp only [State.readLink, hw, hx, hc, if_true, Bool.false_eq_true, if_false]

/-- The registers of the streams stand above the other memory registers. -/
theorem readMem_stream (s : State) {a : Nat} (lo : 0x0F0000060000 ≤ a) (hi : a + 8 ≤ 0x0F0000060000 + 32 * 16)
    (hm : (a - 0x0F0000060000) % 32 = 0) :
    s.readMem a =
      let g := (s.ctx ((a - 0x0F0000060000) / 32)).snap
      g.peer.toNat + g.role * 2 ^ 16 + b2n g.retained * 2 ^ 19 + g.firstPage * 2 ^ 20 + g.pages * 2 ^ 37 := by
  have ne : ∀ c, c < 0x0F0000060000 → (a == c) = false := fun c h => by simp; omega
  have hp : within a 8 0x0F0000020100 (8 * 36) = false := not_within_of (by omega)
  have hw : within a 8 0x0F0000060000 (32 * 16) = true := within_of lo hi
  simp [State.readMem, ne, hp, hw, hm]

theorem readReg_resole (s : State) {n : Nat} (hn : n < 16) :
    s.readReg (0x0F0000060000 + 32 * n) = BitVec.ofNat 64 (
      let g := (s.ctx n).snap
      g.peer.toNat + g.role * 2 ^ 16 + b2n g.retained * 2 ^ 19 + g.firstPage * 2 ^ 20 + g.pages * 2 ^ 37) := by
  rw [readReg_stream s (by omega) (by omega) (by omega), readMem_stream s (by omega) (by omega) (by omega),
    show (0x0F0000060000 + 32 * n - 0x0F0000060000) / 32 = n by omega]

theorem readReg_seed (s : State) {n : Nat} (hn : n < 16) : s.readReg (ctxBase + 0x1000 * n + 0x250) = (s.ctx n).step.seed := by
  rw [readReg_ctx s (by omega) (by decide) (by decide)]
  have hn' : (n == 16) = false := by simp; omega
  have hw : within 0x250 8 0x800 2048 = false := by decide
  simp [State.readCtx, State.ctxWord, hn', hw]

/-! ## Which register a write reaches (00 R5, R8) -/

theorem registerWrite_discarded (o : Origin) (a : BitVec 48) (size : Nat) (v : BitVec 64) (s : State) (h : size ≠ 8 ∨ a.toNat % 8 ≠ 0) :
    Answers (.registerWrite o a size v) s s := by
  have hb : (size == 8 && a.toNat % 8 == 0) = false := by simpa [imp_iff_not_or] using h
  simp [Answers, exec, execRegisterWrite, hb]

theorem registerWrite_aligned (o : Origin) {a : Nat} (lt : a < 2 ^ 48) (al : a % 8 = 0) (v : BitVec 64) (s : State) :
    Answers (.registerWrite o (BitVec.ofNat 48 a) 8 v) s (s.writeReg o a v) := by
  have ha : (BitVec.ofNat 48 a).toNat = a := Nat.mod_eq_of_lt lt
  simp only [Answers, exec, execRegisterWrite, ha, al, beq_self_eq_true, Bool.and_self, if_true]

/-- An address of a register that the administrative context alone writes: outside the context blocks, the registers that any writer
reaches, and those of the snapshot streams. -/
structure AdminOnly (a : Nat) : Prop where
  ctx : within a 8 ctxBase (16 * 0x1000) = false
  count1 : a ≠ 0x0F0000020000
  count2 : a ≠ 0x0F0000020008
  drop : a ≠ 0x0F0000030080
  err : within a 8 0x0F0000031400 (8 * 36) = false
  stream : within a 8 0x0F0000060000 (32 * 16) = false

theorem writeReg_admin (s : State) (hs : s.pwr.sup ≠ 3) {a : Nat} (h : AdminOnly a) (v : BitVec 64) :
    s.writeReg .admin a v = s.writeAdmin a v := by
  simp [State.writeReg, State.writeAny, State.writeStream, hs, h.ctx, h.count1, h.count2, h.drop, h.err, h.stream]

theorem ctxWriter_iff (s : State) (hs : s.pwr.sup ≠ 3) (o : Origin) (n : CtxN) :
    s.ctxWriter o n.val = true ↔ o = .admin ∨ o = .ctx n := by
  cases o <;> simp [State.ctxWriter, hs, Fin.ext_iff]

/-! ## SHK_LACE (18 R484) -/

theorem laceWord_fields (v : BitVec 64) :
    BitVec.ofNat 64 (b2n (v.getLsbD 0) + b2n (v.getLsbD 1) * 2 + (v.extractLsb' 32 32).toNat * 2 ^ 32) = v &&& 0xFFFFFFFF00000003#64 := by
  have hm : v &&& 0xFFFFFFFF00000003#64 = (v &&& 0xFFFFFFFF00000000#64) ||| (v &&& 3#64) := by rw [← BitVec.and_or_distrib_left]; rfl
  have hi := toNat_and_mask v 0xFFFFFFFF00000000#64 32 32 rfl
  have lo := toNat_and_mask v 3#64 0 2 rfl
  have hx : (v.extractLsb' 32 32).toNat = v.toNat / 2 ^ 32 % 2 ^ 32 := by rw [BitVec.extractLsb'_toNat, Nat.shiftRight_eq_div_pow]
  have hor := Nat.two_pow_add_eq_or_of_lt (show (v &&& 3#64).toNat < 2 ^ 32 by omega) (v.toNat / 2 ^ 32 % 2 ^ 32)
  apply BitVec.eq_of_toNat_eq
  rw [hm, BitVec.toNat_or, hi, Nat.mul_comm (v.toNat / 2 ^ 32 % 2 ^ 32), ← hor, lo, hx, b2n_getLsbD, b2n_getLsbD, BitVec.toNat_ofNat]
  omega

theorem laceWrite_readsBack (v : BitVec 64) (s : State) (hs : s.pwr.sup ≠ 3) :
    ∃ t, Answers (.registerWrite .admin 0x0F0000090000#48 8 v) s t ∧ t.readReg 0x0F0000090000 = v &&& 0xFFFFFFFF00000003#64 ∧
      t = { s with shk := { s.shk with seed := t.shk.seed, path := t.shk.path, laceRelease := t.shk.laceRelease } } := by
  have hw : s.writeReg .admin 0x0F0000090000 v = s.writeLace v := writeReg_admin s hs (by constructor <;> decide) v
  refine ⟨s.writeLace v, hw ▸ registerWrite_aligned .admin (by decide) (by decide) v s, ?_, rfl⟩
  rw [readReg_lace]
  exact laceWord_fields v

/-! ## LNK_DIR_d (10 R273) -/

/-- Only the ports and what goes out change. -/
def PortsOut (s t : State) : Prop := ∃ ps os, t = { s with ports := ps, out := os }

theorem PortsOut.refl (s : State) : PortsOut s s := ⟨s.ports, s.out, rfl⟩

theorem PortsOut.trans {s t u : State} (h : PortsOut s t) (k : PortsOut t u) : PortsOut s u := by
  obtain ⟨ps, os, rfl⟩ := h
  obtain ⟨ps', os', rfl⟩ := k
  exact ⟨ps', os', rfl⟩

theorem PortsOut.foldl {α : Type} {f : State → α → State} (hf : ∀ s x, PortsOut s (f s x)) (l : List α) (s : State) :
    PortsOut s (l.foldl f s) := by
  induction l generalizing s with
  | nil => exact .refl s
  | cons x l ih => exact (hf s x).trans (ih _)

theorem State.enterExchange_portsOut (s : State) (p : Nat) : PortsOut s (s.enterExchange p) := ⟨_, _, rfl⟩

/-- The direction entry a write leaves where no other entry's mask names one of its ports. -/
def Direc.written (e : Direc) (v : BitVec 64) : Direc :=
  { e with ports := v.setWidth 36, detour := v.getLsbD 36, down := e.down && !v.getLsbD 37 }

/-- A write without a clash sets the entry; of the rest only ports change, and what goes out. -/
theorem writeDir_portsOut (s : State) (d : Nat) (v : BitVec 64)
    (h : ∀ e, e < 8 → e ≠ d → (s.dir e).ports &&& v.setWidth 36 = 0#36) :
    PortsOut (s.setDir d ((s.dir d).written v)) (s.writeDir d v) := by
  have clash : ((List.range 8).any fun e => e != d && (s.dir e).ports &&& v.setWidth 36 != 0#36) = false := by
    simp only [List.any_eq_false, List.mem_range, Bool.and_eq_true, bne_iff_ne, not_and, not_not]
    exact h
  simp only [State.writeDir, clash, Bool.false_eq_true, if_false]
  refine PortsOut.foldl (fun t p => ?_) _ _
  split
  · exact t.enterExchange_portsOut p
  · exact .refl t

theorem dirWord_fields (v : BitVec 64) (down : Bool) :
    BitVec.ofNat 64 ((v.setWidth 36).toNat + b2n (v.getLsbD 36) * 2 ^ 36 + b2n (down && !v.getLsbD 37) * 2 ^ 37) =
      (v &&& 0x1FFFFFFFFF#64) ||| (if down = true ∧ v.getLsbD 37 = false then 0x2000000000#64 else 0#64) := by
  have hb : (if down = true ∧ v.getLsbD 37 = false then 0x2000000000#64 else 0#64) =
      if (down && !v.getLsbD 37) then BitVec.ofNat 64 (2 ^ 37) else 0#64 := by simp
  have lo := toNat_and_mask v 0x1FFFFFFFFF#64 0 37 rfl
  have hb1 : b2n (down && !v.getLsbD 37) ≤ 1 := by cases (down && !v.getLsbD 37) <;> decide
  apply BitVec.eq_of_toNat_eq
  rw [hb, toNat_or_bit _ _ 37 (by omega) (by decide), lo, b2n_getLsbD, BitVec.toNat_setWidth, BitVec.toNat_ofNat]
  omega

theorem dirWrite_readsBack (v : BitVec 64) (s : State) (hs : s.pwr.sup ≠ 3) (d : DirId)
    (h : ∀ e, e < 8 → e ≠ d.val → (s.dir e).ports &&& v.setWidth 36 = 0#36) :
    ∃ t, Answers (.registerWrite .admin (BitVec.ofNat 48 (0x0F0000030040 + 8 * d.val)) 8 v) s t ∧
      t.readReg (0x0F0000030040 + 8 * d.val) =
        (v &&& 0x1FFFFFFFFF#64) ||| (if (s.dir d.val).down = true ∧ v.getLsbD 37 = false then 0x2000000000#64 else 0#64) ∧
      t = { s with dirs := t.dirs, ports := t.ports, out := t.out } := by
  have hd := d.isLt
  have hw : s.writeReg .admin (0x0F0000030040 + 8 * d.val) v = s.writeDir d.val v := by
    have hin : within (0x0F0000030040 + 8 * d.val) 8 0x0F0000030040 64 = true := within_of (by omega) (by omega)
    have hx : (0x0F0000030040 + 8 * d.val - 0x0F0000030040) / 8 = d.val := by omega
    have ne : ∀ c, c < 0x0F0000030040 → (0x0F0000030040 + 8 * d.val == c) = false := fun c h => by simp; omega
    rw [writeReg_admin s hs]
    · simp only [State.writeAdmin, ne 0x0F0000010010 (by decide), ne 0x0F0000020028 (by decide), hin, hx, Bool.false_eq_true, if_false, if_true]
    · have hb : ctxBase = 0x0F0000100000 := rfl
      constructor
      case ctx | err | stream => exact not_within_of (by omega)
      all_goals omega
  refine ⟨s.writeDir d.val v, hw ▸ registerWrite_aligned .admin (by omega) (by omega) v s, ?_⟩
  obtain ⟨ps, os, ht⟩ := writeDir_portsOut s d.val v h
  rw [ht]
  refine ⟨?_, rfl⟩
  have hdir : ({ s.setDir d.val ((s.dir d.val).written v) with ports := ps, out := os } : State).dir d.val = (s.dir d.val).written v :=
    s.dir_setDir d.val _
  rw [readReg_dir _ hd, hdir]
  exact dirWord_fields v (s.dir d.val).down

/-! ## HLT_POLICY (14 R393) -/

/-- Judging the health state moves it and its marks, and may report; score, thresholds and records stay. -/
def JudgeFrame (s t : State) : Prop :=
  ∃ st rq wh as os, t = { s with hlt := { s.hlt with hstate := st, requested := rq, withheld := wh, asked := as }, out := os }

theorem JudgeFrame.refl (s : State) : JudgeFrame s s := ⟨_, _, _, _, _, rfl⟩

theorem JudgeFrame.trans {s t u : State} (h : JudgeFrame s t) (k : JudgeFrame t u) : JudgeFrame s u := by
  obtain ⟨_, _, _, _, _, rfl⟩ := h
  obtain ⟨_, _, _, _, _, rfl⟩ := k
  exact ⟨_, _, _, _, _, rfl⟩

theorem State.judgeOnce_frame (s : State) : JudgeFrame s s.judgeOnce := by
  unfold State.judgeOnce
  dsimp only
  split_ifs
  all_goals exact ⟨_, _, _, _, _, rfl⟩

theorem State.judge_frame (s : State) : JudgeFrame s s.judge := s.judgeOnce_frame.trans s.judgeOnce.judgeOnce_frame

/-- A consistent HLT_POLICY is written, and the health state judged by it. -/
theorem writePolicy_consistent (s : State) (v : BitVec 64) (h1 : v.toNat / 2 ^ 20 % 1024 < v.toNat % 1024)
    (h2 : v.toNat % 1024 < v.toNat / 2 ^ 10 % 1024) (h3 : 1 ≤ v.toNat / 2 ^ 30 % 2048) (h4 : v.toNat / 2 ^ 30 % 2048 ≤ 1440) :
    JudgeFrame { s with hlt := { s.hlt with
      probBelow := v.toNat % 1024, probExit := v.toNat / 2 ^ 10 % 1024, reqBelow := v.toNat / 2 ^ 20 % 1024, holdMin := v.toNat / 2 ^ 30 % 2048,
      hintHeld := s.hlt.hintHeld && decide (v.toNat / 2 ^ 30 % 2048 ≤ s.hlt.holdMin) } } (s.writePolicy v) := by
  have f0 : fld v.toNat 9 0 = v.toNat % 1024 := by simp [fld]
  have f1 : fld v.toNat 19 10 = v.toNat / 2 ^ 10 % 1024 := rfl
  have f2 : fld v.toNat 29 20 = v.toNat / 2 ^ 20 % 1024 := rfl
  have f3 : fld v.toNat 40 30 = v.toNat / 2 ^ 30 % 2048 := rfl
  simp only [State.writePolicy, f0, f1, f2, f3, h1, h2, h3, h4, decide_true, Bool.and_self, if_true]
  exact State.judge_frame _

theorem policyWord_fields (v : BitVec 64) :
    BitVec.ofNat 64 (v.toNat % 1024 + v.toNat / 2 ^ 10 % 1024 * 2 ^ 10 + v.toNat / 2 ^ 20 % 1024 * 2 ^ 20 + v.toNat / 2 ^ 30 % 2048 * 2 ^ 30) =
      v &&& 0x1FFFFFFFFFF#64 := by
  apply BitVec.eq_of_toNat_eq
  rw [toNat_and_mask v 0x1FFFFFFFFFF#64 0 41 rfl, BitVec.toNat_ofNat]
  omega

theorem policyWrite_readsBack (v : BitVec 64) (s : State) (hs : s.pwr.sup ≠ 3) (h1 : v.toNat / 2 ^ 20 % 1024 < v.toNat % 1024)
    (h2 : v.toNat % 1024 < v.toNat / 2 ^ 10 % 1024) (h3 : 1 ≤ v.toNat / 2 ^ 30 % 2048) (h4 : v.toNat / 2 ^ 30 % 2048 ≤ 1440) :
    ∃ t, Answers (.registerWrite .admin 0x0F0000050008#48 8 v) s t ∧ t.readReg 0x0F0000050008 = v &&& 0x1FFFFFFFFFF#64 ∧
      t = { s with hlt := t.hlt, out := t.out } := by
  have hw : s.writeReg .admin 0x0F0000050008 v = s.writePolicy v := writeReg_admin s hs (by constructor <;> decide) v
  refine ⟨s.writePolicy v, hw ▸ registerWrite_aligned .admin (by decide) (by decide) v s, ?_⟩
  obtain ⟨st, rq, wh, as, os, ht⟩ := writePolicy_consistent s v h1 h2 h3 h4
  rw [ht]
  refine ⟨?_, rfl⟩
  rw [readReg_policy]
  exact policyWord_fields v

/-! ## MEM_INJECT (09 R241) -/

/-- ADDR names a word of T1 or T2. -/
def InjectNamed (v : BitVec 64) : Prop :=
  (t1Base ≤ 8 * (v.toNat / 8 % 2 ^ 45) ∧ 8 * (v.toNat / 8 % 2 ^ 45) < t1Base + t1Size) ∨
    (t2Base ≤ 8 * (v.toNat / 8 % 2 ^ 45) ∧ 8 * (v.toNat / 8 % 2 ^ 45) < t2Base + t2Size)

theorem inT1_or_inT2_iff (v : BitVec 64) :
    (inT1 (8 * (v.toNat / 8 % 2 ^ 45)) || inT2 (8 * (v.toNat / 8 % 2 ^ 45))) = true ↔ InjectNamed v := by
  simp only [inT1, inT2, within, Bool.or_eq_true, Bool.and_eq_true, decide_eq_true_eq, InjectNamed, Nat.succ_le_iff]

theorem injectWord_fields (v : BitVec 64) (armed : Bool) :
    BitVec.ofNat 64 (v.toNat / 8 % 2 ^ 45 * 8 + v.toNat / 2 ^ 48 % 4 * 2 ^ 48 + b2n (armed || v.getLsbD 50) * 2 ^ 51) =
      (v &&& 0x3FFFFFFFFFFF8#64) ||| (if armed = true ∨ v.getLsbD 50 = true then 0x8000000000000#64 else 0#64) := by
  have hb : (if armed = true ∨ v.getLsbD 50 = true then 0x8000000000000#64 else 0#64) =
      if (armed || v.getLsbD 50) then BitVec.ofNat 64 (2 ^ 51) else 0#64 := by simp
  have lo := toNat_and_mask v 0x3FFFFFFFFFFF8#64 3 47 rfl
  have hb1 : b2n (armed || v.getLsbD 50) ≤ 1 := by cases (armed || v.getLsbD 50) <;> decide
  apply BitVec.eq_of_toNat_eq
  rw [hb, toNat_or_bit _ _ 51 (by omega) (by decide), lo, BitVec.toNat_ofNat]
  omega

theorem injectWrite_readsBack (v : BitVec 64) (s : State) (hs : s.pwr.sup ≠ 3) :
    ∃ t, Answers (.registerWrite .admin 0x0F0000020028#48 8 v) s t ∧ t = { s with ecc := t.ecc } ∧
      (InjectNamed v → t.readReg 0x0F0000020028 = (v &&& 0x3FFFFFFFFFFF8#64) |||
        (if s.ecc.injArmed = true ∨ v.getLsbD 50 = true then 0x8000000000000#64 else 0#64)) ∧
      (¬ InjectNamed v → t.ecc.injAddr = s.ecc.injAddr ∧ t.ecc.injFlips = v.toNat / 2 ^ 48 % 4) := by
  have hw : s.writeReg .admin 0x0F0000020028 v = s.writeInject v := writeReg_admin s hs (by constructor <;> decide) v
  refine ⟨s.writeInject v, hw ▸ registerWrite_aligned .admin (by decide) (by decide) v s, rfl, fun named => ?_, fun other => ⟨?_, rfl⟩⟩
  · have ha : (s.writeInject v).ecc.injAddr = v.toNat / 8 % 2 ^ 45 := if_pos ((inT1_or_inT2_iff v).2 named)
    rw [readReg_inject, ha]
    exact injectWord_fields v s.ecc.injArmed
  · exact if_neg (mt (inT1_or_inT2_iff v).1 other)

/-! ## MEM_RESOLE_n and MEM_RESOLE_OFF_n (15 R417, R418) -/

/-- An address of the streams' registers. -/
structure StreamAddr (a : Nat) : Prop where
  low : 0x0F0000060000 ≤ a
  high : a + 8 ≤ 0x0F0000060000 + 32 * 16

theorem writeAny_stream (s : State) {a : Nat} (h : StreamAddr a) (v : BitVec 64) : s.writeAny a v = s := by
  obtain ⟨lo, hi⟩ := h
  have ne : ∀ c, c < 0x0F0000060000 → (a == c) = false := fun c h => by simp; omega
  have he : within a 8 0x0F0000031400 (8 * 36) = false := not_within_of (by omega)
  simp [State.writeAny, ne, he]

theorem writeAdmin_stream (s : State) {a : Nat} (h : StreamAddr a) (v : BitVec 64) : s.writeAdmin a v = s := by
  obtain ⟨lo, hi⟩ := h
  have below : ∀ c, c < 0x0F0000060000 → (a == c) = false := fun c h => by simp; omega
  have above : ∀ c, 0x0F0000070000 ≤ c → (a == c) = false := fun c h => by simp; omega
  have out : ∀ b m, b + m < 0x0F0000060000 → within a 8 b m = false := fun b m h => not_within_of (by omega)
  simp [State.writeAdmin, below, above, out]

theorem writeShank_below (s : State) {a : Nat} (h : a < 0x0F1000000000) (v : BitVec 64) : s.writeShank a v = s := by
  have above : ∀ c, 0x0F1000000000 ≤ c → (a == c) = false := fun c h => by simp; omega
  have out : ∀ b m, 0x0F1000000000 ≤ b → within a 8 b m = false := fun b m h => not_within_of (by omega)
  simp [State.writeShank, above, out]

/-- A write of a stream's registers reaches those registers alone, whoever writes. -/
theorem writeReg_stream (s : State) (hs : s.pwr.sup ≠ 3) (o : Origin) {a : Nat} (h : StreamAddr a) (v : BitVec 64) :
    s.writeReg o a v = s.writeStream o a v := by
  have hc : within a 8 ctxBase (16 * 0x1000) = false := not_within_of (.inl (by unfold ctxBase; have := h.high; omega))
  have hk : a < 0x0F1000000000 := by have := h.high; omega
  cases o <;> simp [State.writeReg, hs, hc, writeAny_stream s h, writeAdmin_stream _ h, writeShank_below _ hk]

theorem writeStream_other (s : State) (o : Origin) (a : Nat) (v : BitVec 64)
    (h : s.ctxWriter o ((a - 0x0F0000060000) / 32) = false) : s.writeStream o a v = s := by simp [State.writeStream, h]

theorem writeStream_resole (s : State) (o : Origin) {n : Nat} (hn : n < 16) (v : BitVec 64) (h : s.ctxWriter o n = true) :
    s.writeStream o (0x0F0000060000 + 32 * n) v = s.writeResole n v := by
  have hin : within (0x0F0000060000 + 32 * n) 8 0x0F0000060000 (32 * 16) = true := within_of (by omega) (by omega)
  have hd : (0x0F0000060000 + 32 * n - 0x0F0000060000) / 32 = n := by omega
  have hm : (0x0F0000060000 + 32 * n - 0x0F0000060000) % 32 = 0 := by omega
  simp only [State.writeStream, hin, hd, hm, h, Bool.not_true, Bool.or_self, Bool.false_eq_true, if_false]

/-- Any writer but the context itself and the administrative context writes nothing there. -/
theorem streamWrite_discarded (v : BitVec 64) (s : State) (hs : s.pwr.sup ≠ 3) (o : Origin) (n : CtxN) (h : ¬ (o = .admin ∨ o = .ctx n))
    {a : Nat} (ha : StreamAddr a) (al : a % 8 = 0) (hn : (a - 0x0F0000060000) / 32 = n.val) :
    Answers (.registerWrite o (BitVec.ofNat 48 a) 8 v) s s := by
  have hc : s.ctxWriter o n.val = false := Bool.eq_false_iff.2 (mt (ctxWriter_iff s hs o n).1 h)
  have hw : s.writeReg o a v = s := (writeReg_stream s hs o ha v).trans (writeStream_other s o a v (hn ▸ hc))
  have lt : a < 2 ^ 48 := by have := ha.high; omega
  simpa only [hw] using registerWrite_aligned o lt al v s

theorem resoleWord_fields (v : BitVec 64) :
    BitVec.ofNat 64 ((v.setWidth 16).toNat + v.toNat / 2 ^ 16 % 8 * 2 ^ 16 + b2n (v.getLsbD 19) * 2 ^ 19 + v.toNat / 2 ^ 20 % 2 ^ 17 * 2 ^ 20 +
      v.toNat / 2 ^ 37 % 2 ^ 17 * 2 ^ 37) = v &&& 0x3FFFFFFFFFFFFF#64 := by
  apply BitVec.eq_of_toNat_eq
  rw [toNat_and_mask v 0x3FFFFFFFFFFFFF#64 0 54 rfl, b2n_getLsbD, BitVec.toNat_setWidth, BitVec.toNat_ofNat]
  omega

/-- A stream's record as a word with a defined ROLE and PAGES leaves it. -/
def CtxSnap.resoled (g : CtxSnap) (v : BitVec 64) : CtxSnap :=
  { g with peer := v.setWidth 16, role := v.toNat / 2 ^ 16 % 8, retained := v.getLsbD 19, firstPage := v.toNat / 2 ^ 20 % 2 ^ 17,
           pages := v.toNat / 2 ^ 37 % 2 ^ 17 }

theorem writeResole_defined (s : State) (n : Nat) (v : BitVec 64) (hr : v.toNat / 2 ^ 16 % 8 ≤ 4) (hp : v.toNat / 2 ^ 37 % 2 ^ 17 ≠ 0) :
    s.writeResole n v = s.modCtx n fun k => k.modSnap fun g => g.resoled v := by
  have fr : fld v.toNat 18 16 = v.toNat / 2 ^ 16 % 8 := rfl
  have fp : fld v.toNat 53 37 = v.toNat / 2 ^ 37 % 2 ^ 17 := rfl
  simp only [State.writeResole, fr, fp, if_pos hr, beq_iff_eq, if_neg hp]
  rfl

theorem resoleWrite_readsBack (v : BitVec 64) (s : State) (hs : s.pwr.sup ≠ 3) (o : Origin) (n : CtxN) (ho : o = .admin ∨ o = .ctx n)
    (hr : v.toNat / 2 ^ 16 % 8 ≤ 4) (hp : v.toNat / 2 ^ 37 % 2 ^ 17 ≠ 0) :
    ∃ t, Answers (.registerWrite o (BitVec.ofNat 48 (0x0F0000060000 + 32 * n.val)) 8 v) s t ∧
      t.readReg (0x0F0000060000 + 32 * n.val) = v &&& 0x3FFFFFFFFFFFFF#64 ∧ t = { s with ctxs := t.ctxs } ∧
      ∀ m, m ≠ n.val → t.ctx m = s.ctx m := by
  have hn := n.isLt
  have hw : s.writeReg o (0x0F0000060000 + 32 * n.val) v = s.writeResole n.val v := by
    rw [writeReg_stream s hs o ⟨by omega, by omega⟩, writeStream_resole s o hn v ((ctxWriter_iff s hs o n).2 ho)]
  refine ⟨s.writeResole n.val v, hw ▸ registerWrite_aligned o (by omega) (by omega) v s, ?_⟩
  rw [writeResole_defined s n.val v hr hp]
  refine ⟨?_, rfl, fun m hne => s.ctx_modCtx_other _ hne.symm⟩
  rw [readReg_resole _ hn, State.ctx_modCtx]
  exact resoleWord_fields v

/-! ## CTX_JOB_SEED (07 R173, R189) -/

@[simp] theorem State.ctx_ledgerSlot (s : State) (n m : Nat) : (s.ledgerSlot n).ctx m = s.ctx m := rfl

/-- With no RUN in progress the seed is written, and the ledger keeps it. -/
theorem writeSeed_idle (s : State) (n : Nat) (v : BitVec 64) (h : (s.ctx n).runInProgress = false) :
    s.writeSeed n v = (s.modStepOf n fun t => { t with seed := v }).ledgerSlot n := by simp [State.writeSeed, h]

theorem seedWrite_readsBack (v : BitVec 64) (s : State) (hs : s.pwr.sup ≠ 3) (n : CtxN) (h : (s.ctx n.val).runInProgress = false) :
    ∃ t, Answers (.registerWrite (.ctx n) (BitVec.ofNat 48 (0x0F0000100000 + 0x1000 * n.val + 0x250)) 8 v) s t ∧
      t.readReg (0x0F0000100000 + 0x1000 * n.val + 0x250) = v ∧ t = { s with ctxs := t.ctxs, hlt := { s.hlt with slots := t.hlt.slots } } ∧
      ∀ m, m ≠ n.val → t.ctx m = s.ctx m := by
  have hn := n.isLt
  have hw : s.writeReg (.ctx n) (0x0F0000100000 + 0x1000 * n.val + 0x250) v = s.writeSeed n.val v := by
    have hin : within (0x0F0000100000 + 0x1000 * n.val + 0x250) 8 ctxBase (16 * 0x1000) = true :=
      within_of (by unfold ctxBase; omega) (by unfold ctxBase; omega)
    have hd : (0x0F0000100000 + 0x1000 * n.val + 0x250 - ctxBase) / 0x1000 = n.val := by unfold ctxBase; omega
    have hm : (0x0F0000100000 + 0x1000 * n.val + 0x250 - ctxBase) % 0x1000 = 0x250 := by unfold ctxBase; omega
    have hc : s.ctxWriter (.ctx n) n.val = true := (ctxWriter_iff s hs _ n).2 (.inr rfl)
    simp [State.writeReg, State.writeCtx, hs, hin, hd, hm, hc]
  refine ⟨s.writeSeed n.val v, hw ▸ registerWrite_aligned (.ctx n) (by omega) (by omega) v s, ?_⟩
  rw [writeSeed_idle s n.val v h]
  refine ⟨(readReg_seed _ hn).trans ?_, rfl, fun m hne => ?_⟩
  · rw [State.ctx_ledgerSlot, State.modStepOf, State.ctx_modCtx]; rfl
  · rw [State.ctx_ledgerSlot]; exact s.ctx_modCtx_other _ hne.symm

/-! ## Words of a fault record (00 R10, 14 R370) -/

theorem setWordAt_core (r : FRec) (v : BitVec 64) :
    (r.setWordAt 4 v).core = if v.toNat % 512 < 320 then v.toNat % 512 else r.core := by simp [FRec.setWordAt, fld]

theorem setWordAt_ctx (r : FRec) (v : BitVec 64) :
    (r.setWordAt 0 v).ctx =
      if v.toNat / 2 ^ 51 % 32 ≤ 16 ∨ v.toNat / 2 ^ 51 % 32 = 31 then v.toNat / 2 ^ 51 % 32 else r.ctx := by
  have hf : fld v.toNat 55 51 = v.toNat / 2 ^ 51 % 32 := rfl
  simp only [FRec.setWordAt, hf, Bool.or_eq_true, decide_eq_true_eq, beq_iff_eq]

theorem setWordAt_cls (r : FRec) (v : BitVec 64) :
    (r.setWordAt 0 v).cls =
      if 0x100 ≤ v.toNat / 2 ^ 32 % 2 ^ 16 ∧ v.toNat / 2 ^ 32 % 2 ^ 16 ≤ 0x10B then v.toNat / 2 ^ 32 % 2 ^ 16 else r.cls := by
  have hf : fld v.toNat 47 32 = v.toNat / 2 ^ 32 % 2 ^ 16 := rfl
  simp only [FRec.setWordAt, hf, Bool.and_eq_true, decide_eq_true_eq]

/-- Settles O30: each clause is the read-back of its register, whose word is put together again from the fields written. -/
theorem writableFieldsReadBack : Obligations.WritableFieldsReadBack := by
  unfold Obligations.WritableFieldsReadBack
  intro v s hs
  refine ⟨fun o a size h => registerWrite_discarded o a size v s h, fun a size h => readReg_discarded s h, laceWrite_readsBack v s hs,
    fun d h => dirWrite_readsBack v s hs d h, fun h1 h2 h3 h4 => policyWrite_readsBack v s hs h1 h2 h3 h4, injectWrite_readsBack v s hs,
    fun o n h => ⟨?_, ?_⟩, fun o n ho hr hp => resoleWrite_readsBack v s hs o n ho hr hp, fun n h => seedWrite_readsBack v s hs n h,
    fun r => ⟨setWordAt_core r v, setWordAt_ctx r v, setWordAt_cls r v⟩⟩
  all_goals
    have hn := n.isLt
    exact streamWrite_discarded v s hs o n h ⟨by omega, by omega⟩ (by omega) (by omega)

/-! ## The state right after reset -/

@[simp] theorem reset_core (c : Nat) : State.reset.core c = {} := rfl
@[simp] theorem reset_ctx (n : Nat) : State.reset.ctx n = {} := rfl
@[simp] theorem reset_quarter (q : Nat) : State.reset.quarter q = {} := rfl
@[simp] theorem reset_port (p : Nat) : State.reset.port p = {} := rfl
@[simp] theorem reset_dir (d : Nat) : State.reset.dir d = coldDir d := rfl
@[simp] theorem reset_byte (a : Nat) : Mem.byte State.reset.mem a = 0#8 := rfl

theorem reset_ok : State.reset.Ok where
  mem := rfl
  pwr :=
    { clk := clkPoint_floor, vpt := clkPoint_floor, lead := Nat.le_refl _, still := fun _ => rfl, cap := (fun _ h => nomatch h), req := .inl rfl,
      sup := by decide, rest := by decide, entering := (fun _ h => nomatch h), waking := (fun _ h => nomatch h), hist := by decide, idle := by decide }
  hlt := { score := by decide, hstate := by decide }
  rst := { phase := by decide, kind := by decide, retries := by decide, kept := by decide }

/-- No context has an item inside the module. -/
theorem reset_quiet (n : Nat) : State.reset.quiet n = 0 := by
  have hp : ({} : Port).flitsOf n = 0 := rfl
  have hd : ∀ d, ((coldDir d).held.filter fun e => e.1.ctx.toNat == n).length = 0 := fun _ => rfl
  have hc : (none == some n) = false := rfl
  simp only [State.quiet, reset_port, reset_dir, reset_core, hp, hd, hc, Bool.false_eq_true, if_false, List.map_const', List.sum_replicate,
    smul_zero]
  rfl

theorem reset_readyOn (n q : Nat) : State.reset.readyOn n q = false := rfl

theorem reset_ctxWord (n off : Nat) : State.reset.ctxWord n off = 0 := by
  have hc : State.reset.colls = [] := rfl
  unfold State.ctxWord
  split <;> simp [reset_ctx, hc, b2n, four16, Ctx.stageFlight, Ctx.usedIn, CtxMem.used]

/-- A FREE context's block reads 0 at every offset. -/
theorem reset_readCtx {n : Nat} (hn : n < 16) (off : Nat) : State.reset.readCtx n off = 0 := by
  have ne : (n == 16) = false := by simp; omega
  have hc : (none == some n) = false := rfl
  simp only [State.readCtx, ne, Bool.false_eq_true, if_false, reset_ctx, reset_quarter, reset_readyOn, reset_quiet, reset_ctxWord, hc]
  split
  · rfl
  · split <;> rfl

/-! ## What the ports' registers and the seen-filter show (10 R275 to R278, 11 R305) -/

theorem readLink_ports (s : State) {p : Nat} (hp : p < 36) :
    s.readLink (0x0F0000031000 + 8 * p) = b2n (s.port p).enable + b2n (s.port p).hold * 2 ∧
    s.readLink (0x0F0000031200 + 8 * p) =
      (s.port p).st + (s.port p).lanes.toNat * 2 ^ 4 + (s.port p).peer.toNat * 2 ^ 12 + (s.port p).peerPort * 2 ^ 28 + (s.port p).rtt * 2 ^ 34 ∧
    s.readLink (0x0F0000031400 + 8 * p) =
      (s.port p).refused + (s.port p).replays * 2 ^ 16 + (s.port p).degrades * 2 ^ 32 + (s.port p).lost * 2 ^ 40 + (s.port p).fecUncorr * 2 ^ 48 ∧
    s.readLink (0x0F0000031600 + 8 * p) = (s.port p).serial.toNat := by
  have single : ∀ b c, c < b → (b + 8 * p == c) = false := fun b c h => by simp; omega
  have dirs : ∀ b, 0x0F0000030080 < b → within (b + 8 * p) 8 0x0F0000030040 64 = false := fun b h => not_within_of (by omega)
  have own : ∀ b, within (b + 8 * p) 8 b (8 * 36) = true := fun b => within_of (by omega) (by omega)
  have lower : ∀ b c, c + 8 * 36 ≤ b → within (b + 8 * p) 8 c (8 * 36) = false := fun b c h => not_within_of (by omega)
  refine ⟨?_, ?_, ?_, ?_⟩ <;> simp [State.readLink, single, dirs, own, lower]

/-- With no entry the seen-filter reads 0. -/
theorem readLink_seen_empty (s : State) (h : s.link.seen = []) {e : Nat} (he : e < 128) : s.readLink (0x0F0000031800 + 8 * e) = 0 := by
  have single : ∀ c, c < 0x0F0000031800 → (0x0F0000031800 + 8 * e == c) = false := fun c h => by simp; omega
  have lower : ∀ c m, c + m ≤ 0x0F0000031800 → within (0x0F0000031800 + 8 * e) 8 c m = false := fun c m h => not_within_of (by omega)
  simp [State.readLink, single, lower, h]

theorem reset_readReg_ports {p : Nat} (hp : p < 36) :
    State.reset.readReg (0x0F0000031000 + 8 * p) = 1#64 ∧ State.reset.readReg (0x0F0000031200 + 8 * p) = 0#64 ∧
      State.reset.readReg (0x0F0000031400 + 8 * p) = 0#64 ∧ State.reset.readReg (0x0F0000031600 + 8 * p) = 0#64 := by
  obtain ⟨ctl, st, err, peer⟩ := readLink_ports State.reset hp
  have link : ∀ b, 0x0F0000031000 ≤ b → b ≤ 0x0F0000031600 → b % 8 = 0 →
      State.reset.readReg (b + 8 * p) = BitVec.ofNat 64 (State.reset.readLink (b + 8 * p)) :=
    fun b lo hi al => readReg_link _ (by omega) (by omega) (by omega)
  refine ⟨?_, ?_, ?_, ?_⟩
  · rw [link _ (by decide) (by decide) (by decide), ctl, reset_port]; rfl
  · rw [link _ (by decide) (by decide) (by decide), st, reset_port]; rfl
  · rw [link _ (by decide) (by decide) (by decide), err, reset_port]; rfl
  · rw [link _ (by decide) (by decide) (by decide), peer, reset_port]; rfl

theorem reset_readReg_seen {e : Nat} (he : e < 128) : State.reset.readReg (0x0F0000031800 + 8 * e) = 0#64 := by
  rw [readReg_link _ (by omega) (by omega) (by omega), readLink_seen_empty _ rfl he]

theorem reset_readReg_dir (d : Fin 8) : State.reset.readReg (0x0F0000030040 + 8 * d.val) = BitVec.ofNat 64 (15 * 2 ^ (4 * d.val)) := by
  rw [readReg_dir _ d.isLt, reset_dir]
  revert d
  decide

theorem reset_readReg_ctx {n : Nat} (hn : n < 16) {k : Nat} (hk : k < 512) : State.reset.readReg (ctxBase + 0x1000 * n + 8 * k) = 0#64 := by
  rw [readReg_ctx _ (by omega) (by omega) (by omega), reset_readCtx hn]

/-- The single registers whose Cold column is 0. -/
theorem reset_readReg_singles :
    ∀ a ∈ [0x0F0000030000, 0x0F0000030080, 0x0F0000030088, 0x0F0000020000, 0x0F0000020008, 0x0F0000020010, 0x0F0000020018, 0x0F0000020020,
      0x0F0000020028, 0x0F0000010000, 0x0F0000010008, 0x0F0000010010, 0x0F0000040000, 0x0F0000040008, 0x0F0000040010, 0x0F0000040018,
      0x0F0000040020, 0x0F0000070018, 0x0F0000070020, 0x0F0000080010, 0x0F0000090000, 0x0F0000090008], State.reset.readReg a = 0#64 := by
  decide +kernel

/-- Settles O57: the tables of the state are empty, so that each register reads what its record's defaults give. -/
theorem resetState : Obligations.ResetState := by
  unfold Obligations.ResetState
  refine ⟨reset_ok, rfl, reset_byte, fun n k => ⟨rfl, reset_readReg_ctx n.isLt k.isLt⟩, reset_readReg_singles,
    fun p => reset_readReg_ports p.isLt, reset_readReg_dir, fun e => reset_readReg_seen e.isLt, ?_⟩
  -- closed facts are left: HLT_POLICY, PWR_SUPPLY, PWR_GOV, PWR_REST and RST_BRINGUP
  decide +kernel

end Sys2Proof.Machine

/-! Rounding to a format: the grid of a magnitude, the codes in order of their magnitudes, and narrowing (02 R24, R29 to R33). -/

namespace Sys2Proof.Machine
open Sys2Proof

/-! ## The whole number that a shift rounds to -/

/-- A shift to the left is exact. -/
theorem roundShift_left (away : Bool) (m : Nat) {k : Int} (hk : 0 ≤ k) : (roundShift away m k : Rat) = m * 2 ^ k := by
  rw [roundShift, if_pos hk, Nat.cast_mul, Nat.cast_pow, ← zpow_natCast, Int.toNat_of_nonneg hk]; rfl

/-- A shift to the right rounds by the fraction that it drops. -/
theorem roundShift_right (away : Bool) (m : Nat) {k : Int} (hk : k < 0) :
    ∃ (q : Nat) (t : Rat), 0 ≤ t ∧ t < 1 ∧ (m : Rat) * 2 ^ k = q + t ∧
      roundShift away m k = if 1 / 2 < t then q + 1 else if t = 1 / 2 then (if away then q + 1 else q + q % 2) else q := by
  set d := 2 ^ (-k).toNat with hd
  have hr : m % d < d := Nat.mod_lt _ (Nat.two_pow_pos _)
  have h0 : (0 : Rat) < d := by exact_mod_cast (Nat.zero_le _).trans_lt hr
  have hz : (2 : Rat) ^ k = (d : Rat)⁻¹ := by
    rw [hd, Nat.cast_pow, ← zpow_natCast, Int.toNat_of_nonneg (by omega), zpow_neg, inv_inv]; rfl
  have hm : (m : Rat) = d * (m / d : Nat) + (m % d : Nat) := by exact_mod_cast (Nat.div_add_mod m d).symm
  refine ⟨m / d, (m % d : Nat) / d, by positivity, (div_lt_one h0).2 (by exact_mod_cast hr), ?_, ?_⟩
  · rw [hz]
    nth_rewrite 1 [hm]
    field_simp
  · have hlt : (1 / 2 < ((m % d : Nat) : Rat) / d) ↔ 2 * (m % d) > d := by
      rw [lt_div_iff₀ h0, one_div_mul_eq_div, div_lt_iff₀' two_pos, gt_iff_lt]; exact_mod_cast Iff.rfl
    have heq : (((m % d : Nat) : Rat) / d = 1 / 2) ↔ 2 * (m % d) = d := by
      rw [div_eq_div_iff h0.ne' two_ne_zero, one_mul, mul_comm]; exact_mod_cast Iff.rfl
    simp only [roundShift, if_neg (not_le.2 hk), beq_iff_eq, hlt, heq, ← hd]

/-- Rounding by a shift errs by half at most. -/
theorem roundShift_near (away : Bool) (m : Nat) (k : Int) : |(roundShift away m k : Rat) - m * 2 ^ k| ≤ 1 / 2 := by
  rcases le_or_gt 0 k with hk | hk
  · rw [roundShift_left away m hk]; norm_num
  · obtain ⟨q, t, h0, h1, hx, hn⟩ := roundShift_right away m hk
    have h5 : ((q % 2 : Nat) : Rat) ≤ 1 := by exact_mod_cast Nat.le_of_lt_succ (Nat.mod_lt q two_pos)
    have h6 : (0 : Rat) ≤ (q % 2 : Nat) := Nat.cast_nonneg _
    rw [hx, hn, abs_le]
    split_ifs <;> push_cast at * <;> constructor <;> linarith

/-- A tie goes to the larger whole number (02 R29). -/
theorem roundShift_tie_away {m : Nat} {k : Int} (h : |(roundShift true m k : Rat) - m * 2 ^ k| = 1 / 2) :
    (roundShift true m k : Rat) - m * 2 ^ k = 1 / 2 := by
  rcases le_or_gt 0 k with hk | hk
  · rw [roundShift_left true m hk] at h; norm_num at h
  · obtain ⟨q, t, h0, h1, hx, hn⟩ := roundShift_right true m hk
    rw [hx, hn] at h ⊢
    rcases lt_trichotomy (1 / 2) t with ht | ht | ht
    · rw [if_pos ht] at h ⊢
      rcases (abs_eq (by norm_num)).1 h with h | h <;> push_cast at h ⊢ <;> linarith
    · rw [if_neg ht.not_lt, if_pos ht.symm, if_pos rfl, ← ht]
      push_cast; ring
    · rw [if_neg ht.not_gt, if_neg ht.ne] at h ⊢
      rcases (abs_eq (by norm_num)).1 h with h | h <;> linarith

/-- A tie goes to the even whole number (02 R39). -/
theorem roundShift_tie_even {m : Nat} {k : Int} (h : |(roundShift false m k : Rat) - m * 2 ^ k| = 1 / 2) :
    roundShift false m k % 2 = 0 := by
  rcases le_or_gt 0 k with hk | hk
  · rw [roundShift_left false m hk] at h; norm_num at h
  · obtain ⟨q, t, h0, h1, hx, hn⟩ := roundShift_right false m hk
    rw [hx, hn] at h
    rcases lt_trichotomy (1 / 2) t with ht | ht | ht
    · rw [if_pos ht] at h
      rcases (abs_eq (by norm_num)).1 h with h | h <;> push_cast at h <;> linarith
    · rw [hn, if_neg ht.not_lt, if_pos ht.symm]
      simp only [Bool.false_eq_true, if_false]
      omega
    · rw [if_neg ht.not_gt, if_neg ht.ne] at h
      rcases (abs_eq (by norm_num)).1 h with h | h <;> linarith

/-- Rounding with ties away is the floor of the value and a half (02 R29). -/
theorem roundShift_floor (m : Nat) (k : Int) : ((roundShift true m k : Nat) : Int) = ⌊(m : Rat) * 2 ^ k + 1 / 2⌋ := by
  have hn := abs_le.1 (roundShift_near true m k)
  symm
  rw [Int.floor_eq_iff, Int.cast_natCast]
  refine ⟨by linarith [hn.2], lt_of_le_of_ne (by linarith [hn.1]) fun h => ?_⟩
  have := roundShift_tie_away (m := m) (k := k) (by rw [abs_eq (by norm_num)]; right; linarith)
  linarith

/-- Rounding a whole number gives it back. -/
theorem roundShift_whole {away : Bool} {m : Nat} {k : Int} {j : Nat} (h : (m : Rat) * 2 ^ k = j) : roundShift away m k = j := by
  have hn := roundShift_near away m k
  rw [h] at hn
  have : |((roundShift away m k : Int) - j : Int)| < 1 := by
    have : |(((roundShift away m k : Int) - j : Int) : Rat)| < 1 := by push_cast; linarith
    exact_mod_cast this
  have := abs_lt.1 this
  omega

/-! ## The exponent of a value -/

/-- The exponent of a magnitude is the whole part of its base-2 logarithm. -/
theorem expOf_add {m : Nat} (hm : m ≠ 0) (e : Int) : expOf m + e = Int.log 2 ((m : Rat) * 2 ^ e) := by
  have hp : (0 : Rat) < m := by exact_mod_cast Nat.pos_of_ne_zero hm
  have hx : (0 : Rat) < m * 2 ^ e := by positivity
  have hl : Nat.log2 m = Nat.log 2 m := Nat.log2_eq_log_two
  have lo : (2 : Rat) ^ expOf m ≤ m := by rw [expOf, zpow_natCast, hl]; exact_mod_cast Nat.pow_log_le_self 2 hm
  have hi : (m : Rat) < 2 ^ (expOf m + 1) := by
    rw [expOf, hl]; exact_mod_cast Nat.lt_pow_succ_log_self one_lt_two m
  apply le_antisymm
  · rw [← Int.zpow_le_iff_le_log one_lt_two hx, Nat.cast_ofNat, zpow_add₀ two_ne_zero]
    gcongr
  · rw [← Int.lt_add_one_iff, ← Int.lt_zpow_iff_log_lt one_lt_two hx, Nat.cast_ofNat, show expOf m + e + 1 = expOf m + 1 + e by ring,
      zpow_add₀ two_ne_zero]
    gcongr

/-! ## Magnitude codes (02 R24) -/

/-- The exponent of the spacing of a format's values near a magnitude (02 R29). -/
def gridExp (f : Nat) (x : Rat) : Int := max (Int.log 2 x) (1 - (fmtBias f : Int)) - fmtMant f

theorem gridExp_min (f : Nat) (x : Rat) : 1 - (fmtBias f : Int) - fmtMant f ≤ gridExp f x := by
  have := le_max_right (Int.log 2 x) (1 - (fmtBias f : Int)); unfold gridExp; omega

/-- A magnitude stays below the end of its binade. -/
theorem lt_gridExp (f : Nat) (x : Rat) : x < 2 ^ (fmtMant f + 1) * 2 ^ gridExp f x := by
  have h := Int.lt_zpow_succ_log_self one_lt_two x
  refine h.trans_le ?_
  rw [Nat.cast_ofNat, ← zpow_natCast, ← zpow_add₀ two_ne_zero]
  apply zpow_le_zpow_right₀ one_le_two
  have := le_max_left (Int.log 2 x) (1 - (fmtBias f : Int))
  unfold gridExp; push_cast; omega

/-- Above the least binade, a magnitude reaches the start of its binade. -/
theorem gridExp_le (f : Nat) {x : Rat} (hx : 0 < x) :
    gridExp f x = 1 - (fmtBias f : Int) - fmtMant f ∨ 2 ^ fmtMant f * 2 ^ gridExp f x ≤ x := by
  rcases le_total (Int.log 2 x) (1 - (fmtBias f : Int)) with h | h
  · left; rw [gridExp, max_eq_right h]
  · right
    have hl := Int.zpow_log_le_self one_lt_two hx
    rw [gridExp, max_eq_left h, ← zpow_natCast, ← zpow_add₀ two_ne_zero, add_sub_cancel]
    exact_mod_cast hl

/-- The magnitude of a magnitude code, as if no code were special (02 R24). -/
def magVal (f c : Nat) : Rat :=
  if c / 2 ^ fmtMant f = 0 then c * 2 ^ (1 - (fmtBias f : Int) - fmtMant f)
  else (2 ^ fmtMant f + c % 2 ^ fmtMant f : Nat) * 2 ^ (((c / 2 ^ fmtMant f : Nat) : Int) - fmtBias f - fmtMant f)

/-- The code of the significand `n` in the binade `k`, the end of the binade included. -/
theorem magVal_binade (f : Nat) {k n : Nat} (hn : n ≤ 2 ^ (fmtMant f + 1)) (hk : k = 0 ∨ 2 ^ fmtMant f ≤ n) :
    magVal f (k * 2 ^ fmtMant f + n) = n * 2 ^ ((k : Int) + 1 - fmtBias f - fmtMant f) := by
  have hM : 0 < 2 ^ fmtMant f := Nat.two_pow_pos _
  unfold magVal
  generalize fmtBias f = b at *
  rw [pow_succ] at hn
  generalize hj : fmtMant f = j at *
  rcases lt_or_ge n (2 ^ j) with h | h
  · have hk0 : k = 0 := by omega
    subst hk0
    rw [if_pos (by rw [zero_mul, zero_add, Nat.div_eq_of_lt h])]
    congr 2; ring
  · have hd : (k * 2 ^ j + n) / 2 ^ j = k + n / 2 ^ j := by rw [Nat.add_comm, Nat.add_mul_div_right _ _ hM, Nat.add_comm]
    have hm : (k * 2 ^ j + n) % 2 ^ j = n % 2 ^ j := by rw [Nat.add_comm, Nat.add_mul_mod_self_right]
    rw [hd, hm]
    rcases lt_or_ge n (2 ^ j * 2) with h2 | h2
    · have h1 : n / 2 ^ j = 1 := Nat.div_eq_of_lt_le (by omega) (by omega)
      rw [h1, if_neg (by omega), show 2 ^ j + n % 2 ^ j = n by have := Nat.div_add_mod n (2 ^ j); rw [h1] at this; omega]
      push_cast; ring_nf
    · have he : n = 2 ^ j * 2 := le_antisymm hn h2
      rw [he, Nat.mul_div_cancel_left _ hM, Nat.mul_mod_right, if_neg (by omega), add_zero]
      push_cast
      rw [show (k : Int) + 2 - b - j = 1 + ((k : Int) + 1 - b - j) by ring, zpow_add₀ two_ne_zero]
      ring

/-- Every magnitude code stands in a binade. -/
theorem exists_binade (f c : Nat) :
    ∃ k n, c = k * 2 ^ fmtMant f + n ∧ n < 2 ^ (fmtMant f + 1) ∧ (k = 0 ∨ 2 ^ fmtMant f ≤ n) := by
  have hm := Nat.mod_lt c (Nat.two_pow_pos (fmtMant f))
  have hd := Nat.div_add_mod' c (2 ^ fmtMant f)
  rw [pow_succ]
  rcases Nat.eq_zero_or_pos (c / 2 ^ fmtMant f) with h | h
  · exact ⟨0, c, by omega, by rw [h] at hd; omega, .inl rfl⟩
  · obtain ⟨k, hk⟩ := Nat.exists_eq_add_of_lt h
    refine ⟨k, 2 ^ fmtMant f + c % 2 ^ fmtMant f, ?_, by omega, .inr (by omega)⟩
    rw [hk] at hd
    linarith

/-- A larger code has a larger magnitude. -/
theorem magVal_strictMono (f : Nat) : StrictMono (magVal f) := by
  refine strictMono_nat_of_lt_succ fun c => ?_
  obtain ⟨k, n, rfl, hn, hk⟩ := exists_binade f c
  rw [add_assoc, magVal_binade f hn.le hk, magVal_binade f hn (hk.imp_right fun h => h.trans (Nat.le_succ n))]
  gcongr
  exact Nat.lt_succ_self n

@[simp] theorem magVal_zero (f : Nat) : magVal f 0 = 0 := by simp [magVal]

theorem magVal_nonneg (f c : Nat) : 0 ≤ magVal f c := magVal_zero f ▸ (magVal_strictMono f).monotone (Nat.zero_le c)

/-- A magnitude counted in spacings. -/
theorem mul_gridExp (f m : Nat) (e : Int) :
    (m : Rat) * 2 ^ (e - gridExp f (m * 2 ^ e)) * 2 ^ gridExp f ((m : Rat) * 2 ^ e) = m * 2 ^ e := by
  rw [mul_assoc, ← zpow_add₀ two_ne_zero, sub_add_cancel]

/-- The rounded significand stands in its binade, or at its end. -/
theorem roundShift_le (f : Nat) (away : Bool) (m : Nat) (e : Int) :
    roundShift away m (e - gridExp f (m * 2 ^ e)) ≤ 2 ^ (fmtMant f + 1) := by
  have hn := (abs_le.1 (roundShift_near away m (e - gridExp f (m * 2 ^ e)))).2
  have ha : (m : Rat) * 2 ^ (e - gridExp f (m * 2 ^ e)) < 2 ^ (fmtMant f + 1) :=
    lt_of_mul_lt_mul_right ((mul_gridExp f m e).trans_lt (lt_gridExp f _)) (by positivity)
  refine Nat.le_of_lt_succ ?_
  have : (roundShift away m (e - gridExp f (m * 2 ^ e)) : Rat) < (2 ^ (fmtMant f + 1) + 1 : Nat) := by push_cast; linarith
  exact_mod_cast this

theorem le_roundShift (f : Nat) (away : Bool) {m : Nat} (hm : m ≠ 0) (e : Int) :
    gridExp f (m * 2 ^ e) = 1 - (fmtBias f : Int) - fmtMant f ∨ 2 ^ fmtMant f ≤ roundShift away m (e - gridExp f (m * 2 ^ e)) := by
  have hx : (0 : Rat) < m * 2 ^ e := by have : (0 : Rat) < m := by exact_mod_cast Nat.pos_of_ne_zero hm
                                        positivity
  refine (gridExp_le f hx).imp_right fun h => ?_
  have hn := (abs_le.1 (roundShift_near away m (e - gridExp f (m * 2 ^ e)))).1
  have ha : (2 : Rat) ^ fmtMant f ≤ m * 2 ^ (e - gridExp f (m * 2 ^ e)) :=
    le_of_mul_le_mul_right (h.trans_eq (mul_gridExp f m e).symm) (by positivity)
  refine Nat.le_of_lt_succ ?_
  have : ((2 ^ fmtMant f : Nat) : Rat) < (roundShift away m (e - gridExp f (m * 2 ^ e)) + 1 : Nat) := by push_cast; linarith
  exact_mod_cast this

/-- The code of a rounded magnitude: its binade above the least, and its significand. -/
theorem roundCode_eq (f : Nat) (away : Bool) {m : Nat} (hm : m ≠ 0) (e : Int) :
    roundCode f away m e = (gridExp f (m * 2 ^ e) - (1 - (fmtBias f : Int) - fmtMant f)).toNat * 2 ^ fmtMant f +
      roundShift away m (e - gridExp f (m * 2 ^ e)) := by
  simp only [roundCode, gridExp, expOf_add hm]
  congr 3
  omega

/-- The code that a magnitude rounds to has the rounded significand on the grid of the magnitude (02 R29). -/
theorem magVal_roundCode (f : Nat) (away : Bool) {m : Nat} (hm : m ≠ 0) (e : Int) :
    magVal f (roundCode f away m e) =
      roundShift away m (e - gridExp f (m * 2 ^ e)) * 2 ^ gridExp f ((m : Rat) * 2 ^ e) := by
  have hg := gridExp_min f ((m : Rat) * 2 ^ e)
  rw [roundCode_eq f away hm, magVal_binade f (roundShift_le f away m e)]
  · congr 2; omega
  · exact (le_roundShift f away hm e).imp_left fun h => by rw [h]; simp

/-- A code's magnitude is whole on the grid of a magnitude, or below that magnitude's binade. -/
theorem magVal_grid (f c : Nat) {x : Rat} (hx : 0 < x) :
    (∃ j : Nat, magVal f c = j * 2 ^ gridExp f x) ∨
      (magVal f c < 2 ^ fmtMant f * 2 ^ gridExp f x ∧ 2 ^ fmtMant f * 2 ^ gridExp f x ≤ x) := by
  obtain ⟨k, n, rfl, hn, hk⟩ := exists_binade f c
  rw [magVal_binade f hn.le hk]
  rcases le_or_gt (gridExp f x) ((k : Int) + 1 - fmtBias f - fmtMant f) with h | h
  · left
    obtain ⟨d, hd⟩ := Int.eq_ofNat_of_zero_le (sub_nonneg.2 h)
    refine ⟨n * 2 ^ d, ?_⟩
    rw [eq_add_of_sub_eq hd, zpow_add₀ two_ne_zero, zpow_natCast]
    push_cast; ring
  · right
    refine ⟨?_, (gridExp_le f hx).resolve_left (by omega)⟩
    calc (n : Rat) * 2 ^ ((k : Int) + 1 - fmtBias f - fmtMant f)
        < 2 ^ (fmtMant f + 1) * 2 ^ ((k : Int) + 1 - fmtBias f - fmtMant f) := by gcongr; exact_mod_cast hn
      _ = 2 ^ fmtMant f * 2 ^ ((k : Int) + 1 - fmtBias f - fmtMant f + 1) := by rw [zpow_add_one₀ two_ne_zero]; ring
      _ ≤ 2 ^ fmtMant f * 2 ^ gridExp f x := by
        gcongr
        · exact one_le_two
        · exact h

theorem natCast_mul_zpow_pos {m : Nat} (hm : m ≠ 0) (e : Int) : (0 : Rat) < m * 2 ^ e := by
  have : (0 : Rat) < m := by exact_mod_cast Nat.pos_of_ne_zero hm
  positivity

/-- The code of a magnitude that the format has. -/
theorem roundCode_exact (f : Nat) (away : Bool) {m : Nat} (hm : m ≠ 0) {e : Int} {c : Nat} (h : (m : Rat) * 2 ^ e = magVal f c) :
    roundCode f away m e = c := by
  apply (magVal_strictMono f).injective
  rcases magVal_grid f c (natCast_mul_zpow_pos hm e) with ⟨j, hj⟩ | ⟨lt, le⟩
  · have hw : (m : Rat) * 2 ^ (e - gridExp f (m * 2 ^ e)) = j :=
      mul_right_cancel₀ (zpow_ne_zero _ two_ne_zero) ((mul_gridExp f m e).trans (h.trans hj))
    rw [magVal_roundCode f away hm, roundShift_whole hw, hj]
  · exact absurd (lt.trans_le le) (by rw [h]; exact lt_irrefl _)

/-! ## Codes with a sign -/

/-- The code of a sign and a magnitude code (02 R22). -/
def signed (f : Nat) (neg : Bool) (c : Nat) : Nat := c + if neg then 2 ^ (fmtExp f + fmtMant f) else 0

/-- Every code has a sign and a magnitude code. -/
theorem exists_signed {f x : Nat} (h : x < 2 ^ fmtBits f) : ∃ neg c, c < 2 ^ (fmtExp f + fmtMant f) ∧ x = signed f neg c := by
  rw [fmtBits, Nat.add_assoc, Nat.add_comm, pow_succ] at h
  rcases lt_or_ge x (2 ^ (fmtExp f + fmtMant f)) with lt | le
  · exact ⟨false, x, lt, by simp [signed]⟩
  · exact ⟨true, x - 2 ^ (fmtExp f + fmtMant f), by omega, by simp [signed]; omega⟩

section Fields
variable {f : Nat} (neg : Bool) {c : Nat} (hc : c < 2 ^ (fmtExp f + fmtMant f))

include hc in
theorem signed_sign : (signed f neg c / 2 ^ (fmtExp f + fmtMant f) % 2 == 1) = neg := by
  have hS := Nat.two_pow_pos (fmtExp f + fmtMant f)
  cases neg
  · simp [signed, Nat.div_eq_of_lt hc]
  · simp [signed, Nat.add_div_right _ hS, Nat.div_eq_of_lt hc]

include hc in
theorem signed_exponent : signed f neg c / 2 ^ fmtMant f % 2 ^ fmtExp f = c / 2 ^ fmtMant f := by
  have hE : c / 2 ^ fmtMant f < 2 ^ fmtExp f := Nat.div_lt_of_lt_mul (by rwa [← pow_add, Nat.add_comm])
  cases neg
  · simp [signed, Nat.mod_eq_of_lt hE]
  · simp only [signed, if_true, pow_add, Nat.add_mul_div_right _ _ (Nat.two_pow_pos (fmtMant f)), Nat.add_mod_right, Nat.mod_eq_of_lt hE]

theorem signed_mantissa (c : Nat) : signed f neg c % 2 ^ fmtMant f = c % 2 ^ fmtMant f := by
  cases neg <;> simp [signed, pow_add]

include hc in
theorem signed_eq_nan (h : f = 4 ∨ f = 5) : signed f neg c = 0x80 ↔ neg = true ∧ c = 0 := by
  have hS : fmtExp f + fmtMant f = 7 := by rcases h with rfl | rfl <;> rfl
  rw [hS] at hc
  cases neg <;> simp [signed, hS]; omega

include hc in
/-- The value of a sign and a magnitude code (02 R24). -/
theorem decodeFmt_signed :
    decodeFmt f (signed f neg c) =
      if fmtIeee f = true ∧ c / 2 ^ fmtMant f = 2 ^ fmtExp f - 1 then (if c % 2 ^ fmtMant f = 0 then .inf neg else .nan)
      else if (f = 4 ∨ f = 5) ∧ neg = true ∧ c = 0 then .nan
      else if c / 2 ^ fmtMant f = 0 then .fin neg c (1 - (fmtBias f : Int) - fmtMant f)
      else .fin neg (2 ^ fmtMant f + c % 2 ^ fmtMant f) (((c / 2 ^ fmtMant f : Nat) : Int) - fmtBias f - fmtMant f) := by
  have h8 : ((f = 4 ∨ f = 5) ∧ signed f neg c = 0x80) ↔ ((f = 4 ∨ f = 5) ∧ neg = true ∧ c = 0) :=
    and_congr_right fun h => signed_eq_nan neg hc h
  simp only [decodeFmt, signed_sign neg hc, signed_exponent neg hc, signed_mantissa, Bool.and_eq_true, Bool.or_eq_true, beq_iff_eq, h8]
  by_cases h0 : c / 2 ^ fmtMant f = 0
  · rw [Nat.mod_eq_of_lt (Nat.lt_of_div_eq_zero (Nat.two_pow_pos _) h0)]
  · simp only [if_neg h0]

end Fields

/-- The sign of a value as a factor. -/
def signFactor (neg : Bool) : Rat := if neg then -1 else 1

theorem Num.val_fin (neg : Bool) (m : Nat) (e : Int) : (Num.fin neg m e).val = signFactor neg * (m * 2 ^ e) := mul_assoc _ _ _

theorem Num.finite_fin (neg : Bool) (m : Nat) (e : Int) : (Num.fin neg m e).Finite := ⟨neg, m, e, rfl⟩

theorem Num.not_finite_inf (neg : Bool) : ¬ (Num.inf neg).Finite := fun ⟨_, _, _, h⟩ => nomatch h

theorem Num.not_finite_nan : ¬ Num.nan.Finite := fun ⟨_, _, _, h⟩ => nomatch h

section FiniteCodes
variable {f : Nat} (h1 : 1 ≤ f) (h6 : f ≤ 6)

include h1 h6 in
theorem fmtMax_lt : fmtMax f < 2 ^ (fmtExp f + fmtMant f) := by interval_cases f <;> decide

include h1 h6 in
/-- The largest finite magnitude code stands just below the special codes, or is the largest code. -/
theorem le_fmtMax_iff {c : Nat} (hc : c < 2 ^ (fmtExp f + fmtMant f)) :
    c ≤ fmtMax f ↔ ¬ (fmtIeee f = true ∧ c / 2 ^ fmtMant f = 2 ^ fmtExp f - 1) := by
  interval_cases f <;> simp [fmtMax, fmtIeee, fmtMant, fmtExp] at hc ⊢ <;> omega

include h1 h6 in
/-- A magnitude code up to the largest is finite, but for the NaN in the place of a negative zero (02 R24). -/
theorem decodeFmt_fin {neg : Bool} {c : Nat} (hc : c ≤ fmtMax f) (hn : ¬ ((f = 4 ∨ f = 5) ∧ neg = true ∧ c = 0)) :
    ∃ m e, decodeFmt f (signed f neg c) = .fin neg m e ∧ (m : Rat) * 2 ^ e = magVal f c := by
  have hlt := hc.trans_lt (fmtMax_lt h1 h6)
  rw [decodeFmt_signed neg hlt, if_neg ((le_fmtMax_iff h1 h6 hlt).1 hc), if_neg hn, magVal]
  split_ifs
  · exact ⟨_, _, rfl, rfl⟩
  · exact ⟨_, _, rfl, rfl⟩

include h1 h6 in
theorem finite_iff {neg : Bool} {c : Nat} (hc : c < 2 ^ (fmtExp f + fmtMant f)) :
    (decodeFmt f (signed f neg c)).Finite ↔ c ≤ fmtMax f ∧ ¬ ((f = 4 ∨ f = 5) ∧ neg = true ∧ c = 0) := by
  constructor
  · intro h
    rw [decodeFmt_signed neg hc] at h
    by_cases hi : fmtIeee f = true ∧ c / 2 ^ fmtMant f = 2 ^ fmtExp f - 1
    · rw [if_pos hi] at h
      split at h
      · exact absurd h (Num.not_finite_inf neg)
      · exact absurd h Num.not_finite_nan
    · rw [if_neg hi] at h
      refine ⟨(le_fmtMax_iff h1 h6 hc).2 hi, fun hn => ?_⟩
      rw [if_pos hn] at h
      exact Num.not_finite_nan h
  · rintro ⟨hm, hn⟩
    obtain ⟨m, e, h, -⟩ := decodeFmt_fin h1 h6 hm hn
    exact ⟨neg, m, e, h⟩

include h1 h6 in
theorem val_signed {neg : Bool} {c : Nat} (hc : c ≤ fmtMax f) :
    (decodeFmt f (signed f neg c)).val = signFactor neg * magVal f c := by
  by_cases hn : (f = 4 ∨ f = 5) ∧ neg = true ∧ c = 0
  · rw [decodeFmt_signed neg (hc.trans_lt (fmtMax_lt h1 h6)), if_neg ((le_fmtMax_iff h1 h6 (hc.trans_lt (fmtMax_lt h1 h6))).1 hc),
      if_pos hn, hn.2.2, magVal_zero, mul_zero]
    rfl
  · obtain ⟨m, e, h, hv⟩ := decodeFmt_fin h1 h6 hc hn
    rw [h, Num.val_fin, hv]

/-- The code of a narrowing result, zero rules included, is finite and has the sign's value (02 R33). -/
theorem decode_signCode (h1 : 1 ≤ f) (h6 : f ≤ 6) (neg : Bool) {c : Nat} (hc : c ≤ fmtMax f) :
    (decodeFmt f (signCode f neg c)).Finite ∧ (decodeFmt f (signCode f neg c)).val = signFactor neg * magVal f c := by
  by_cases hz : c = 0 ∧ (f = 4 ∨ f = 5)
  · have hs : signCode f neg c = signed f false 0 := by simp [signCode, hz, signed]
    rw [hs, val_signed h1 h6 (Nat.zero_le _), hz.1]
    exact ⟨(finite_iff h1 h6 (Nat.two_pow_pos _)).2 ⟨Nat.zero_le _, by simp⟩, by simp⟩
  · have hs : signCode f neg c = signed f neg c := by
      unfold signCode signed
      rw [if_neg (by simpa using hz)]
    rw [hs, val_signed h1 h6 hc]
    exact ⟨(finite_iff h1 h6 (hc.trans_lt (fmtMax_lt h1 h6))).2 ⟨hc, fun h => hz ⟨h.2.2, h.1⟩⟩, rfl⟩

end FiniteCodes

/-! ## Narrowing (02 R29) -/

/-- A finite non-zero value narrowed: the code of its rounded magnitude, or the largest code with a saturation. -/
theorem narrowNum_fin (f : Nat) (neg : Bool) {m : Nat} (hm : m ≠ 0) (e : Int) :
    narrowNum f (.fin neg m e) = (signCode f neg (min (roundCode f true m e) (fmtMax f)),
      { sat := if fmtMax f < roundCode f true m e then 1 else 0 }) := by
  simp only [narrowNum, beq_iff_eq, if_neg hm]
  split_ifs with h
  · rw [min_eq_right (le_of_lt h)]
  · rw [min_eq_left (not_lt.1 h)]

/-- Settles O9: the rounded magnitude is the floor of 02 R29 on its grid, and codes are ordered as their magnitudes are. -/
theorem narrowingRoundsToNearestTiesAway : Obligations.NarrowingRoundsToNearestTiesAway := by
  unfold Obligations.NarrowingRoundsToNearestTiesAway
  intro f h2 h6 neg m e hm
  have h1 : 1 ≤ f := one_le_two.trans h2
  have hm' : m ≠ 0 := hm.ne'
  intro x ex q y maxf r
  have hmax : maxf = magVal f (fmtMax f) := by
    have := val_signed h1 h6 (neg := false) (le_refl (fmtMax f))
    simpa [signed, signFactor] using this
  have hx : x / q = m * 2 ^ (e - gridExp f x) := by
    rw [div_eq_iff (zpow_ne_zero _ two_ne_zero)]; exact (mul_gridExp f m e).symm
  have hy : y = magVal f (roundCode f true m e) := by
    rw [magVal_roundCode f true hm', ← Int.cast_natCast (roundShift _ _ _), roundShift_floor, ← hx]; rfl
  have hr : r = _ := narrowNum_fin f neg hm' e
  have hlt : maxf < y ↔ fmtMax f < roundCode f true m e := by rw [hmax, hy, (magVal_strictMono f).lt_iff_lt]
  obtain ⟨fin, val⟩ := decode_signCode h1 h6 neg (min_le_right (roundCode f true m e) (fmtMax f))
  rw [hr]
  refine ⟨fin, ?_, by simp only [hlt]⟩
  rw [val, (magVal_strictMono f).monotone.map_min, ← hmax, ← hy]
  rfl

end Sys2Proof.Machine

/-! Rounding to nearest: no code is nearer than the rounded one, and the range of FP32 (02 R39). -/

namespace Sys2Proof.Machine
open Sys2Proof

/-! ## The nearest code -/

/-- The nearest whole number is as near as any, and only a tie has two. -/
theorem nearest_whole {n j : Int} {a : Rat} (h : |(n : Rat) - a| ≤ 1 / 2) :
    |(n : Rat) - a| ≤ |(j : Rat) - a| ∧ (|(n : Rat) - a| = |(j : Rat) - a| → j = n ∨ |(n : Rat) - a| = 1 / 2) := by
  rcases eq_or_ne j n with rfl | hne
  · exact ⟨le_rfl, fun _ => .inl rfl⟩
  · have h1 : (1 : Rat) ≤ |(j : Rat) - n| := by exact_mod_cast Int.one_le_abs (sub_ne_zero.2 hne)
    have h2 : |(j : Rat) - n| ≤ |(j : Rat) - a| + |(n : Rat) - a| := by
      rw [abs_sub_comm (n : Rat) a]; exact abs_sub_le _ _ _
    exact ⟨by linarith, fun he => .inr (by linarith)⟩

section Nearest
variable (f : Nat) (away : Bool) {m : Nat} (hm : m ≠ 0) (e : Int) (c : Nat)

/-- The distance of a point of the grid from a magnitude, in spacings. -/
theorem abs_grid_sub (a : Rat) (m : Nat) :
    |a * 2 ^ gridExp f ((m : Rat) * 2 ^ e) - m * 2 ^ e| =
      |a - m * 2 ^ (e - gridExp f (m * 2 ^ e))| * 2 ^ gridExp f ((m : Rat) * 2 ^ e) := by
  rw [← abs_of_pos (zpow_pos (two_pos (α := Rat)) (gridExp f ((m : Rat) * 2 ^ e))), ← abs_mul, sub_mul,
    abs_of_pos (zpow_pos (two_pos (α := Rat)) _), mul_gridExp]

include hm in
/-- No code's magnitude is nearer than the rounded one, and another as near means a tie. -/
theorem roundCode_nearest_or :
    |magVal f (roundCode f away m e) - m * 2 ^ e| ≤ |magVal f c - m * 2 ^ e| ∧
      (|magVal f (roundCode f away m e) - m * 2 ^ e| = |magVal f c - m * 2 ^ e| → c = roundCode f away m e ∨
        |(roundShift away m (e - gridExp f (m * 2 ^ e)) : Rat) - m * 2 ^ (e - gridExp f (m * 2 ^ e))| = 1 / 2) := by
  have hg : (0 : Rat) < 2 ^ gridExp f ((m : Rat) * 2 ^ e) := by positivity
  have near := roundShift_near away m (e - gridExp f (m * 2 ^ e))
  have hc := magVal_roundCode f away hm e
  rw [hc, abs_grid_sub]
  rcases magVal_grid f c (natCast_mul_zpow_pos hm e) with ⟨j, hj⟩ | ⟨lt, le⟩
  · obtain ⟨h1, h2⟩ := nearest_whole (n := (roundShift away m (e - gridExp f (m * 2 ^ e)) : Int)) (j := (j : Int)) (by exact_mod_cast near)
    rw [hj, abs_grid_sub]
    refine ⟨mul_le_mul_of_nonneg_right (by exact_mod_cast h1) hg.le, fun he => ?_⟩
    refine (h2 (by exact_mod_cast mul_right_cancel₀ hg.ne' he)).imp (fun h => ?_) fun h => by exact_mod_cast h
    rw [Int.natCast_inj] at h
    exact (magVal_strictMono f).injective (by rw [hj, hc, h])
  · obtain ⟨h1, -⟩ := nearest_whole (n := (roundShift away m (e - gridExp f (m * 2 ^ e)) : Int)) (j := ((2 ^ fmtMant f : Nat) : Int))
      (by exact_mod_cast near)
    have h1' := mul_le_mul_of_nonneg_right h1 hg.le
    push_cast at h1'
    rw [← abs_grid_sub f e (2 ^ fmtMant f) m, abs_of_nonpos (sub_nonpos.2 le)] at h1'
    have h3 : |magVal f c - m * 2 ^ e| = m * 2 ^ e - magVal f c := by
      rw [abs_of_nonpos (by linarith), neg_sub]
    rw [h3]
    exact ⟨by linarith, fun he => absurd he (by linarith)⟩

include hm in
/-- A magnitude rounds to the nearest code. -/
theorem roundCode_nearest : |magVal f (roundCode f away m e) - m * 2 ^ e| ≤ |magVal f c - m * 2 ^ e| :=
  (roundCode_nearest_or f away hm e c).1

include hm in
/-- Where two codes are as near, the rounded one is even (02 R39). -/
theorem roundCode_tie (hf : fmtMant f ≠ 0) (he : |magVal f (roundCode f false m e) - m * 2 ^ e| = |magVal f c - m * 2 ^ e|) :
    c = roundCode f false m e ∨ roundCode f false m e % 2 = 0 := by
  refine ((roundCode_nearest_or f false hm e c).2 he).imp_right fun h => ?_
  obtain ⟨j, hj⟩ := Nat.exists_eq_succ_of_ne_zero hf
  have := roundShift_tie_even h
  rw [roundCode_eq f false hm, hj, pow_succ, ← mul_assoc]
  omega

end Nearest

/-! ## FP32 codes -/

theorem magVal_f32_end : magVal 1 0x7F800000 = 2 ^ 128 := by norm_num [magVal, fmtMant, fmtBias]

theorem magVal_f32_max : magVal 1 0x7F7FFFFF = 2 ^ 128 - 2 ^ 104 := by norm_num [magVal, fmtMant, fmtBias]

/-- A magnitude leaves the range of FP32 from half a spacing above the largest value on (02 R39). -/
theorem roundCode_f32_lt {m : Nat} (hm : m ≠ 0) (e : Int) :
    roundCode 1 false m e < 0x7F800000 ↔ (m : Rat) * 2 ^ e < 2 ^ 128 - 2 ^ 103 := by
  have near := roundCode_nearest 1 false hm e
  constructor
  · intro h
    have le : magVal 1 (roundCode 1 false m e) ≤ 2 ^ 128 - 2 ^ 104 :=
      magVal_f32_max ▸ (magVal_strictMono 1).monotone (Nat.le_of_lt_succ h)
    by_contra hx
    have hx := not_lt.1 hx
    have ha := near 0x7F800000
    have hl : |magVal 1 (roundCode 1 false m e) - m * 2 ^ e| = m * 2 ^ e - magVal 1 (roundCode 1 false m e) := by
      rw [abs_of_nonpos (by linarith), neg_sub]
    rw [hl, magVal_f32_end] at ha
    rcases le_total (2 ^ 128) ((m : Rat) * 2 ^ e) with h2 | h2
    · rw [abs_of_nonpos (by linarith)] at ha; linarith
    · rw [abs_of_nonneg (by linarith)] at ha
      have hmag : magVal 1 (roundCode 1 false m e) = magVal 1 0x7F7FFFFF := by rw [magVal_f32_max]; linarith
      have hcode := (magVal_strictMono 1).injective hmag
      have := roundCode_tie 1 hm e 0x7F800000 (by decide) (by
        rw [hl, magVal_f32_end, abs_of_nonneg (by linarith), hmag, magVal_f32_max]; linarith)
      omega
  · intro hx
    by_contra h
    have le : (2 : Rat) ^ 128 ≤ magVal 1 (roundCode 1 false m e) := magVal_f32_end ▸ (magVal_strictMono 1).monotone (not_lt.1 h)
    have ha := near 0x7F7FFFFF
    rw [abs_of_nonneg (by linarith), magVal_f32_max] at ha
    rcases abs_cases ((2 : Rat) ^ 128 - 2 ^ 104 - m * 2 ^ e) with ⟨h2, -⟩ | ⟨h2, -⟩ <;> linarith

/-- The magnitude code of an FP32 code. -/
def f32Mag (x : F32) : Nat := x.toNat % 2 ^ 31

theorem f32Mag_lt (x : F32) : f32Mag x < 2 ^ 31 := Nat.mod_lt _ (by decide)

theorem f32_toNat (x : F32) : x.toNat = signed 1 x.msb (f32Mag x) := by
  have h := x.isLt
  have e : fmtExp 1 + fmtMant 1 = 31 := rfl
  rw [f32Mag, signed, e, BitVec.msb_eq_decide]
  simp only [decide_eq_true_eq]
  split <;> omega

theorem f32_signed {neg : Bool} {c : Nat} (hc : c < 2 ^ 31) :
    (f32Code neg c).toNat = signed 1 neg c ∧ (f32Code neg c).msb = neg ∧ f32Mag (f32Code neg c) = c := by
  have e : fmtExp 1 + fmtMant 1 = 31 := rfl
  rw [f32Mag, BitVec.msb_eq_decide, f32Code, BitVec.toNat_ofNat, signed, e]
  cases neg <;> simp <;> omega

theorem f32_eq (x : F32) : f32 x = decodeFmt 1 (signed 1 x.msb (f32Mag x)) := by rw [f32, f32_toNat]

theorem f32_finite_iff (x : F32) : (f32 x).Finite ↔ f32Mag x < 0x7F800000 := by
  rw [f32_eq, finite_iff (le_refl 1) (by decide) (f32Mag_lt x), ← Nat.lt_succ_iff]
  simp [fmtMax]

theorem f32_val {x : F32} (h : (f32 x).Finite) : (f32 x).val = signFactor x.msb * magVal 1 (f32Mag x) := by
  rw [f32_eq, val_signed (le_refl 1) (by decide) (Nat.le_of_lt_succ ((f32_finite_iff x).1 h))]

end Sys2Proof.Machine

/-! FP32 arithmetic of finite and of special operands (02 R27, R34, R39). -/

namespace Sys2Proof.Machine
open Sys2Proof

/-! ## One rounding to FP32 (02 R39) -/

@[simp] theorem signFactor_abs (neg : Bool) (x : Rat) : |signFactor neg * x| = |x| := by
  cases neg <;> simp [signFactor]

theorem signFactor_dist_same (neg : Bool) (a x : Rat) : |signFactor neg * a - signFactor neg * x| = |a - x| := by
  rw [← mul_sub, signFactor_abs]

theorem signFactor_dist_other {s t : Bool} (h : s ≠ t) {a x : Rat} (ha : 0 ≤ a) (hx : 0 ≤ x) :
    |signFactor s * a - signFactor t * x| = a + x := by
  cases s <;> cases t <;> simp_all [signFactor]
  · positivity
  · rw [abs_of_nonpos (by linarith)]; ring

/-- What `NearestEven` asks of a result, over the rationals. -/
theorem NearestEven.of_rat {v : Rat} {z : Prop} {r : F32 × Ev}
    (inside : |v| < 2 ^ 128 - 2 ^ 103 → (f32 r.1).Finite ∧ r.2 = {} ∧ (r.1.msb = true ↔ v < 0 ∨ (v = 0 ∧ z)) ∧
      ∀ y, (f32 y).Finite → |(f32 r.1).val - v| ≤ |(f32 y).val - v| ∧
        (|(f32 r.1).val - v| = |(f32 y).val - v| → (f32 y).val = (f32 r.1).val ∨ r.1.toNat % 2 = 0))
    (beyond : 2 ^ 128 - 2 ^ 103 ≤ |v| → r.2 = { ovf := true } ∧ (v < 0 → r.1 = f32Inf true) ∧ (0 < v → r.1 = f32Inf false)) :
    NearestEven (v : ℝ) z r where
  finite h := have h := inside (by exact_mod_cast h); ⟨h.1, h.2.1⟩
  sign h := by have h := (inside (by exact_mod_cast h)).2.2.1; exact_mod_cast h
  nearest h y hy := by have h := ((inside (by exact_mod_cast h)).2.2.2 y hy).1; exact_mod_cast h
  even h y hy e := ((inside (by exact_mod_cast h)).2.2.2 y hy).2 (by exact_mod_cast e)
  beyond h := by have h := beyond (by exact_mod_cast h); exact_mod_cast h

theorem signFactor_mul_neg {x : Rat} (hx : 0 < x) (neg : Bool) : signFactor neg * x < 0 ↔ neg = true := by
  cases neg <;> simp [signFactor, hx, hx.le]

theorem signFactor_mul_pos {x : Rat} (hx : 0 < x) (neg : Bool) : 0 < signFactor neg * x ↔ neg = false := by
  cases neg <;> simp [signFactor, hx, hx.le]

theorem f32Zero_finite (neg : Bool) : (f32 (f32Zero neg)).Finite := by cases neg <;> exact ⟨_, _, _, rfl⟩

theorem f32Zero_val (neg : Bool) : (f32 (f32Zero neg)).val = 0 := by cases neg <;> simp [f32Zero, f32, decodeFmt, fmtMant, fmtExp, fmtIeee, Num.val]

theorem f32Zero_msb (neg : Bool) : (f32Zero neg).msb = neg := by cases neg <;> rfl

theorem f32Zero_even (neg : Bool) : (f32Zero neg).toNat % 2 = 0 := by cases neg <;> rfl

/-- A zero of the sign asked for is the rounding of 0. -/
theorem nearestEven_zero {z : Prop} {neg : Bool} (hz : neg = true ↔ z) : NearestEven ((0 : Rat) : ℝ) z (f32Zero neg, {}) := by
  refine .of_rat (fun _ => ⟨f32Zero_finite neg, rfl, by rw [f32Zero_msb, hz]; simp, fun y _ => ?_⟩) fun h => absurd h (by norm_num)
  rw [f32Zero_val]
  exact ⟨by simp, fun _ => .inr (f32Zero_even neg)⟩

/-- A non-zero value in range rounds to the code of its sign and rounded magnitude. -/
theorem roundF32_of_ne {m : Nat} (hm : m ≠ 0) (neg : Bool) (e : Int) :
    roundF32 neg m e = if roundCode 1 false m e < 0x7F800000 then (f32Code neg (roundCode 1 false m e), {})
      else (f32Inf neg, { ovf := true }) := by
  simp only [roundF32, beq_iff_eq, if_neg hm, ge_iff_le, ← not_lt, ite_not]

/-- A value other than 0 is rounded once to nearest, ties to even (02 R39). -/
theorem nearestEven_roundF32 {m : Nat} (hm : m ≠ 0) (neg : Bool) (e : Int) (z : Prop) :
    NearestEven ((signFactor neg * (m * 2 ^ e) : Rat) : ℝ) z (roundF32 neg m e) := by
  have hx := natCast_mul_zpow_pos hm e
  refine .of_rat (fun h => ?_) fun h => ?_ <;> rw [signFactor_abs, abs_of_pos hx] at h <;> rw [roundF32_of_ne hm]
  · have hc := (roundCode_f32_lt hm e).2 h
    rw [if_pos hc]
    obtain ⟨hn, hs, hg⟩ := f32_signed (neg := neg) (hc.trans (by decide))
    have fin := (f32_finite_iff _).2 (hg ▸ hc)
    have val := f32_val fin
    rw [hs, hg] at val
    refine ⟨fin, rfl, ?_, fun y hy => ?_⟩
    · rw [hs, signFactor_mul_neg hx]
      exact ⟨.inl, fun h => h.resolve_right fun h0 => by cases neg <;> simp [signFactor, hx.ne'] at h0⟩
    · have even : roundCode 1 false m e % 2 = 0 → (f32Code neg (roundCode 1 false m e)).toNat % 2 = 0 := by
        intro h; rw [hn, signed]; cases neg <;> simp [fmtExp, fmtMant] <;> omega
      rw [val, f32_val hy, signFactor_dist_same]
      by_cases hsy : y.msb = neg
      · rw [hsy, signFactor_dist_same]
        refine ⟨roundCode_nearest 1 false hm e _, fun he => ?_⟩
        exact (roundCode_tie 1 hm e _ (by decide) he).imp (fun h => by rw [h]) even
      · have h0 := roundCode_nearest 1 false hm e 0
        have hy0 := magVal_nonneg 1 (f32Mag y)
        rw [magVal_zero, zero_sub, abs_neg, abs_of_pos hx] at h0
        rw [signFactor_dist_other hsy hy0 hx.le]
        refine ⟨by linarith, fun he => .inr (even ?_)⟩
        exact (roundCode_tie 1 hm e 0 (by decide) (by rw [magVal_zero, zero_sub, abs_neg, abs_of_pos hx]; linarith)).elim
          (fun h => by omega) id
  · rw [if_neg fun hc => absurd ((roundCode_f32_lt hm e).1 hc) (not_lt.2 h), signFactor_mul_neg hx, signFactor_mul_pos hx]
    exact ⟨rfl, fun h => by rw [h], fun h => by rw [h]⟩

theorem nearestEven_round (neg : Bool) (m : Nat) (e : Int) {z : Prop} (hz : m = 0 → (neg = true ↔ z)) :
    NearestEven ((signFactor neg * (m * 2 ^ e) : Rat) : ℝ) z (roundF32 neg m e) := by
  rcases eq_or_ne m 0 with rfl | hm
  · simpa [roundF32] using nearestEven_zero (hz rfl)
  · exact nearestEven_roundF32 hm neg e z

/-- A signed whole multiple, written as a sign and a magnitude. -/
theorem intCast_mul_zpow {i : Int} (hi : i ≠ 0) (e : Int) :
    (i : Rat) * 2 ^ e = signFactor (i < 0) * ((i.natAbs : Nat) * 2 ^ e) := by
  rw [← mul_assoc, Nat.cast_natAbs, Int.cast_abs]
  congr 1
  rcases lt_or_gt_of_ne hi with h | h
  · simp [signFactor, h, abs_of_neg (Int.cast_lt_zero.2 h)]
  · simp [signFactor, h.not_gt, abs_of_pos (Int.cast_pos.2 h)]

/-- A signed whole multiple of a power of two, rounded; an exact zero has the sign given. -/
theorem nearestEven_roundInt {zn : Bool} (i e : Int) {z : Prop} (hz : i = 0 → (zn = true ↔ z)) :
    NearestEven ((i * 2 ^ e : Rat) : ℝ) z (roundInt zn i e) := by
  rcases eq_or_ne i 0 with rfl | hi
  · simpa [roundInt] using nearestEven_zero (hz rfl)
  · rw [intCast_mul_zpow hi, roundInt, if_neg (by simpa using hi)]
    exact nearestEven_roundF32 (Int.natAbs_ne_zero.2 hi) _ e z

/-! ## Exact sums and products -/

/-- The exact sum over the smaller exponent. -/
theorem addFin_val (a : Bool) (m : Nat) (e : Int) (b : Bool) (n : Nat) (g : Int) :
    ((addFin a m e b n g).1 : Rat) * 2 ^ (addFin a m e b n g).2 = (Num.fin a m e).val + (Num.fin b n g).val := by
  have shift : ∀ (s : Bool) (k : Nat) (h : Int), min e g ≤ h →
      ((sgn s k * 2 ^ (h - min e g).toNat : Int) : Rat) * 2 ^ min e g = (Num.fin s k h).val := by
    intro s k h hle
    have hs : ((sgn s k : Int) : Rat) = signFactor s * k := by cases s <;> simp [sgn, signFactor]
    push_cast
    rw [hs, ← zpow_natCast, Int.toNat_of_nonneg (sub_nonneg.2 hle), mul_assoc, ← zpow_add₀ two_ne_zero, sub_add_cancel, Num.val_fin,
      mul_assoc]
  simp only [addFin]
  rw [Int.cast_add, add_mul, shift a m e (min_le_left _ _), shift b n g (min_le_right _ _)]

/-- The sum of finite values is rounded once. -/
theorem nearestEven_addNum (a : Bool) (m : Nat) (e : Int) (b : Bool) (n : Nat) (g : Int) {z : Prop}
    (hz : (a = true ∧ b = true ∧ m = 0 ∧ n = 0) ↔ z) :
    NearestEven (((Num.fin a m e).val + (Num.fin b n g).val : Rat) : ℝ) z (addNum (.fin a m e) (.fin b n g)) := by
  rw [← addFin_val]
  refine nearestEven_roundInt _ _ fun _ => ?_
  simpa [and_assoc] using hz

theorem signFactor_bne (a b : Bool) : signFactor (a != b) = signFactor a * signFactor b := by
  cases a <;> cases b <;> simp [signFactor]

/-- The exact product of finite values. -/
theorem mulNum_val (a : Bool) (m : Nat) (e : Int) (b : Bool) (n : Nat) (g : Int) :
    (Num.fin (a != b) (m * n) (e + g)).val = (Num.fin a m e).val * (Num.fin b n g).val := by
  rw [Num.val_fin, Num.val_fin, Num.val_fin, signFactor_bne, zpow_add₀ two_ne_zero]
  push_cast; ring

theorem Num.val_fin_eq_zero (a : Bool) (m : Nat) (e : Int) : (Num.fin a m e).val = 0 ↔ m = 0 := by
  rw [Num.val_fin]
  cases a <;> simp [signFactor, zpow_ne_zero]

/-! ## The codes behind decoded values -/

theorem f32_ext {x y : F32} (hs : x.msb = y.msb) (hm : f32Mag x = f32Mag y) : x = y :=
  BitVec.eq_of_toNat_eq (by rw [f32_toNat, f32_toNat, hs, hm])

/-- The decoded value of an FP32 code by its sign and magnitude code. -/
theorem f32_decode (x : F32) :
    f32 x = if f32Mag x / 2 ^ 23 = 255 then (if f32Mag x % 2 ^ 23 = 0 then .inf x.msb else .nan)
      else if f32Mag x / 2 ^ 23 = 0 then .fin x.msb (f32Mag x) (-149)
      else .fin x.msb (2 ^ 23 + f32Mag x % 2 ^ 23) (((f32Mag x / 2 ^ 23 : Nat) : Int) - 150) := by
  rw [f32_eq, decodeFmt_signed _ (f32Mag_lt x)]
  simp [fmtIeee, fmtMant, fmtExp, fmtBias, sub_sub]

theorem f32_fin_sign {x : F32} {s : Bool} {m : Nat} {e : Int} (h : f32 x = .fin s m e) : x.msb = s := by
  rw [f32_decode] at h
  split_ifs at h <;> cases h <;> rfl

theorem f32_fin_zero {x : F32} {s : Bool} {e : Int} (h : f32 x = .fin s 0 e) : x = f32Zero s := by
  have hs := f32_fin_sign h
  have hm : f32Mag x = 0 := by
    rw [f32_decode] at h
    split_ifs at h
    · injection h
    · injection h with _ hm _
      omega
  exact f32_ext (hs.trans (f32Zero_msb s).symm) (hm.trans (by cases s <;> rfl))

theorem f32_inf {x : F32} {s : Bool} (h : f32 x = .inf s) : x = f32Inf s := by
  have hm := f32Mag_lt x
  rw [f32_decode] at h
  split_ifs at h with h1 h2
  · injection h with hs
    exact f32_ext (hs.trans (by cases s <;> rfl)) (Eq.trans (b := 0x7F800000) (by omega) (by cases s <;> rfl))

theorem f32_negZero_iff {x : F32} {s : Bool} {m : Nat} {e : Int} (h : f32 x = .fin s m e) :
    x = 0x80000000#32 ↔ s = true ∧ m = 0 := by
  constructor
  · rintro rfl; cases h; exact ⟨rfl, rfl⟩
  · rintro ⟨rfl, rfl⟩; exact f32_fin_zero h

theorem f32_posZero_iff {x : F32} {s : Bool} {m : Nat} {e : Int} (h : f32 x = .fin s m e) :
    x = 0#32 ↔ s = false ∧ m = 0 := by
  constructor
  · rintro rfl; cases h; exact ⟨rfl, rfl⟩
  · rintro ⟨rfl, rfl⟩; exact f32_fin_zero h

/-- A decoded value with its sign inverted. -/
def Num.flip : Num → Num
  | .nan => .nan
  | .inf s => .inf !s
  | .fin s m e => .fin (!s) m e

theorem Num.val_flip (x : Num) : x.flip.val = -x.val := by
  rcases x with _ | s | ⟨s, m, e⟩
  · simp [Num.flip, Num.val]
  · simp [Num.flip, Num.val]
  · rw [Num.flip, Num.val_fin, Num.val_fin]; cases s <;> simp [signFactor]

theorem f32_f32Neg (x : F32) : f32 (f32Neg x) = (f32 x).flip := by
  have hs : (f32Neg x).msb = !x.msb := by rw [f32Neg, BitVec.msb_xor]; exact Bool.xor_true _
  have hm : f32Mag (f32Neg x) = f32Mag x := by
    rw [f32Mag, f32Mag, f32Neg, BitVec.toNat_xor, Nat.xor_mod_two_pow]; exact Nat.xor_zero _
  rw [f32_decode, f32_decode, hs, hm]
  split_ifs <;> rfl

/-! ## The operations of the vector unit on special operands -/

theorem addNum_nan_left (b : Num) : addNum .nan b = (f32NaN, {}) := rfl

theorem addNum_nan_right (a : Num) : addNum a .nan = (f32NaN, {}) := by cases a <;> rfl

theorem mulNum_nan_right (a : Num) : mulNum a .nan = some .nan := by cases a <;> rfl

/-- A NaN operand gives the canonical NaN with no flag. -/
theorem nan_operand {x y : F32} (h : f32 x = .nan ∨ f32 y = .nan) (z : F32) :
    fadd x y = (f32NaN, {}) ∧ fsub x y = (f32NaN, {}) ∧ fmul x y = (f32NaN, {}) ∧ ffma x y z = (f32NaN, {}) := by
  rcases h with h | h
  · simp only [fadd, fsub, fmul, ffma, h, addNum_nan_left]
    exact ⟨trivial, trivial, rfl, rfl⟩
  · simp only [fadd, fsub, fmul, ffma, f32_f32Neg, h, Num.flip, addNum_nan_right, mulNum_nan_right]
    exact ⟨trivial, trivial, rfl, rfl⟩

/-- A NaN addend gives the canonical NaN with no flag. -/
theorem nan_addend {z : F32} (h : f32 z = .nan) (x y : F32) : ffma x y z = (f32NaN, {}) := by
  unfold ffma
  split
  · rw [h, addNum_nan_right]
  · rw [if_pos h]

section Finite
variable {x y z : F32} {a b c : Bool} {m n l : Nat} {e g h : Int} (hx : f32 x = .fin a m e) (hy : f32 y = .fin b n g)

include hx hy in
theorem nearestEven_fadd :
    NearestEven (((f32 x).val : ℝ) + (f32 y).val) (x = 0x80000000#32 ∧ y = 0x80000000#32) (fadd x y) := by
  rw [fadd, hx, hy, ← Rat.cast_add]
  refine nearestEven_addNum a m e b n g ?_
  rw [f32_negZero_iff hx, f32_negZero_iff hy]; tauto

include hx hy in
theorem nearestEven_fsub :
    NearestEven (((f32 x).val : ℝ) - (f32 y).val) (x = 0x80000000#32 ∧ y = 0#32) (fsub x y) := by
  have hv : ((f32 x).val : ℝ) - (f32 y).val = ((f32 x).val : ℝ) + (f32 (f32Neg y)).val := by
    rw [f32_f32Neg, Num.val_flip]; push_cast; ring
  have hf : f32 (f32Neg y) = .fin (!b) n g := by rw [f32_f32Neg, hy]; rfl
  rw [hv, fsub]
  convert nearestEven_fadd hx hf using 1
  rw [f32_negZero_iff hf, f32_posZero_iff hy, Bool.not_eq_true']

include hx hy in
theorem nearestEven_fmul : NearestEven (((f32 x).val : ℝ) * (f32 y).val) (x.msb ≠ y.msb) (fmul x y) := by
  rw [fmul, f32_fin_sign hx, f32_fin_sign hy, hx, hy, ← Rat.cast_mul, ← mulNum_val, Num.val_fin]
  exact nearestEven_round _ _ _ fun _ => bne_iff_ne

include hx hy in
theorem nearestEven_ffma (hz : f32 z = .fin c l h) :
    NearestEven (((f32 x).val : ℝ) * (f32 y).val + (f32 z).val)
      (x.msb ≠ y.msb ∧ ((f32 x).val = 0 ∨ (f32 y).val = 0) ∧ z = 0x80000000#32) (ffma x y z) := by
  rw [f32_negZero_iff hz, ffma, f32_fin_sign hx, f32_fin_sign hy, hx, hy, hz, Num.val_fin_eq_zero, Num.val_fin_eq_zero, ← Rat.cast_mul,
    ← mulNum_val, ← Rat.cast_add]
  refine nearestEven_addNum _ _ _ c l h ?_
  rw [Nat.mul_eq_zero, bne_iff_ne]; tauto

end Finite

/-- Two infinities: their sum, difference and product (02 R27, R34). -/
theorem inf_inf {x y : F32} {s t : Bool} (hx : f32 x = .inf s) (hy : f32 y = .inf t) :
    fadd x y = (if s = t then (f32Inf s, {}) else (f32NaN, { inv := true })) ∧
    fsub x y = (if s = t then (f32NaN, { inv := true }) else (f32Inf s, {})) ∧ fmul x y = (f32Inf (s != t), {}) := by
  simp only [fadd, fsub, fmul, f32_f32Neg, hx, hy, Num.flip]
  refine ⟨?_, ?_, rfl⟩ <;> cases s <;> cases t <;> rfl

/-- An infinity beside a finite operand: sums and differences. -/
theorem inf_add_fin {x y : F32} {s : Bool} (hx : f32 x = .inf s) {b : Bool} {n : Nat} {g : Int} (hy : f32 y = .fin b n g) :
    fadd x y = (f32Inf s, {}) ∧ fadd y x = (f32Inf s, {}) ∧ fsub x y = (f32Inf s, {}) ∧ fsub y x = (f32Inf !s, {}) := by
  simp only [fadd, fsub, f32_f32Neg, hx, hy, Num.flip]
  exact ⟨rfl, rfl, rfl, rfl⟩

/-- An operation whose product is none is invalid. -/
theorem invalid_product {x y : F32} (h : mulNum (f32 x) (f32 y) = none) {z : F32} (hz : f32 z ≠ .nan) :
    fmul x y = (f32NaN, { inv := true }) ∧ ffma x y z = (f32NaN, { inv := true }) := by
  simp only [fmul, ffma, h, if_neg hz, and_self]

/-- An infinity beside a finite operand that is not zero: products. -/
theorem mulNum_inf_fin (s b : Bool) {n : Nat} (hn : n ≠ 0) (g : Int) :
    mulNum (.inf s) (.fin b n g) = some (.inf (s != b)) ∧ mulNum (.fin b n g) (.inf s) = some (.inf (s != b)) := by
  have comm : (b != s) = (s != b) := by cases s <;> cases b <;> rfl
  simp [mulNum, hn, comm]

/-- An infinite product with an addend. -/
theorem inf_product {x y : F32} {p : Bool} (h : mulNum (f32 x) (f32 y) = some (.inf p)) (z : F32) :
    fmul x y = (f32Inf p, {}) ∧ ((f32 z).Finite ∨ f32 z = .inf p → ffma x y z = (f32Inf p, {})) ∧
      (f32 z = .inf !p → ffma x y z = (f32NaN, { inv := true })) := by
  simp only [fmul, ffma, h]
  refine ⟨rfl, ?_, fun hz => ?_⟩
  · rintro (⟨c, l, k, hz⟩ | hz) <;> rw [hz]
    · rfl
    · simp [addNum]
  · rw [hz]; cases p <;> rfl

/-- Settles O13: finite operands are summed or multiplied exactly and rounded once by `nearestEven_roundInt` or
`nearestEven_round`; the special operands are those of 02 R27 and R34. -/
theorem vectorArithmeticRoundsOnce : Obligations.VectorArithmeticRoundsOnce := by
  unfold Obligations.VectorArithmeticRoundsOnce
  intro x y z a b c nan
  refine ⟨?_, fun h => nan_operand h z, fun h => nan_addend h x y, fun s t hx hy => inf_inf hx hy, ?_, fun p h => (inf_product h z).2⟩
  · rintro ⟨sa, m, e, ha⟩ ⟨sb, n, g, hb⟩
    refine ⟨nearestEven_fadd ha hb, nearestEven_fsub ha hb, nearestEven_fmul ha hb, ?_, fun u hc => ?_⟩
    · rintro ⟨sc, l, k, hc⟩
      exact nearestEven_ffma ha hb hc
    · simp only [ffma, show f32 x = _ from ha, show f32 y = _ from hb, show f32 z = _ from hc]; rfl
  · rintro s ha ⟨sb, n, g, hb⟩
    obtain ⟨h1, h2, h3, h4⟩ := inf_add_fin ha hb
    refine ⟨h1, h2, h3, h4, fun h0 => ?_, fun h0 => ?_⟩
    · rw [hb, Num.val_fin_eq_zero] at h0
      subst h0
      have hxy : mulNum (f32 x) (f32 y) = none := by rw [show f32 x = _ from ha, show f32 y = _ from hb]; rfl
      have hyx : mulNum (f32 y) (f32 x) = none := by rw [show f32 x = _ from ha, show f32 y = _ from hb]; rfl
      exact ⟨(invalid_product hxy (z := 0) (by decide)).1, (invalid_product hyx (z := 0) (by decide)).1,
        fun hc => ⟨(invalid_product hxy hc).2, (invalid_product hyx hc).2⟩⟩
    · rw [hb, Ne, Num.val_fin_eq_zero] at h0
      obtain ⟨hxy, hyx⟩ := mulNum_inf_fin s sb h0 g
      rw [f32_fin_sign hb]
      exact ⟨(inf_product (by rw [show f32 x = _ from ha, show f32 y = _ from hb]; exact hxy) z).1,
        (inf_product (by rw [show f32 x = _ from ha, show f32 y = _ from hb]; exact hyx) z).1⟩

end Sys2Proof.Machine

/-! Accumulation in an array cell: one step and a chain of steps (02 R42, R43, R45). -/

namespace Sys2Proof.Machine
open Sys2Proof

/-! ## Values that FP32 has -/

/-- A significand of 24 bits, its end included, is whole on the FP32 grid of its value. -/
theorem magVal_roundCode_fits {m : Nat} (hm : m ≠ 0) (hb : m ≤ 2 ^ 24) {e : Int} (he : -149 ≤ e) (away : Bool) :
    magVal 1 (roundCode 1 away m e) = m * 2 ^ e := by
  have hx := natCast_mul_zpow_pos hm e
  have whole : ∃ j : Nat, (m : Rat) * 2 ^ (e - gridExp 1 (m * 2 ^ e)) = j := by
    rcases le_or_gt (gridExp 1 ((m : Rat) * 2 ^ e)) e with h | h
    · obtain ⟨d, hd⟩ := Int.eq_ofNat_of_zero_le (sub_nonneg.2 h)
      exact ⟨m * 2 ^ d, by rw [hd, zpow_natCast]; push_cast; ring⟩
    · have hg := (gridExp_le 1 hx).resolve_left fun h0 => by simp [fmtBias, fmtMant] at h0; omega
      have hle : (2 : Rat) ^ 23 * 2 ^ gridExp 1 ((m : Rat) * 2 ^ e) ≤ 2 ^ 24 * 2 ^ e := hg.trans (by gcongr; exact_mod_cast hb)
      rw [← zpow_natCast, ← zpow_natCast, ← zpow_add₀ two_ne_zero, ← zpow_add₀ two_ne_zero,
        zpow_le_zpow_iff_right₀ one_lt_two] at hle
      have hge : gridExp 1 ((m : Rat) * 2 ^ e) = e + 1 := by push_cast at hle; omega
      refine ⟨2 ^ 23, ?_⟩
      rw [hge, zpow_add_one₀ two_ne_zero, mul_comm (_ ^ e), ← mul_assoc] at hg
      have hm24 : (2 : Rat) ^ 24 ≤ m := by
        have := le_of_mul_le_mul_right hg (by positivity)
        calc (2 : Rat) ^ 24 = 2 ^ fmtMant 1 * 2 := by norm_num [fmtMant]
          _ ≤ m := this
      rw [hge, le_antisymm hb (by exact_mod_cast hm24), show e - (e + 1) = -1 by omega]
      norm_num
  obtain ⟨j, hj⟩ := whole
  rw [magVal_roundCode 1 away hm, roundShift_whole hj, ← hj, mul_gridExp]

/-- A value that FP32 has, or would have with a larger range, is its own rounding; beyond the range it is an infinity with OVF. -/
theorem roundF32_fits {m : Nat} (hm : m ≠ 0) (hb : m ≤ 2 ^ 24) {e : Int} (he : -149 ≤ e) (neg : Bool) :
    ((m : Rat) * 2 ^ e < 2 ^ 128 → (f32 (roundF32 neg m e).1).Finite ∧ (f32 (roundF32 neg m e).1).val = (Num.fin neg m e).val ∧
      (roundF32 neg m e).2 = {}) ∧
    (2 ^ 128 ≤ (m : Rat) * 2 ^ e → roundF32 neg m e = (f32Inf neg, { ovf := true })) := by
  have hv := magVal_roundCode_fits hm hb he false
  have hc : roundCode 1 false m e < 0x7F800000 ↔ (m : Rat) * 2 ^ e < 2 ^ 128 := by
    rw [← hv, ← magVal_f32_end, (magVal_strictMono 1).lt_iff_lt]
  rw [roundF32_of_ne hm]
  constructor
  · intro h
    have h := hc.2 h
    rw [if_pos h]
    obtain ⟨-, hs, hg⟩ := f32_signed (neg := neg) (h.trans (by decide))
    have fin := (f32_finite_iff _).2 (hg ▸ h)
    exact ⟨fin, by rw [f32_val fin, hs, hg, hv, Num.val_fin], rfl⟩
  · intro h
    rw [if_neg (mt hc.1 (not_lt.2 h))]

theorem roundInt_fits {i : Int} (hb : i.natAbs ≤ 2 ^ 24) {e : Int} (he : -149 ≤ e) (zn : Bool) :
    (|(i : Rat) * 2 ^ e| < 2 ^ 128 → (f32 (roundInt zn i e).1).Finite ∧ (f32 (roundInt zn i e).1).val = i * 2 ^ e ∧
      (roundInt zn i e).2 = {} ∧ ((i : Rat) * 2 ^ e = 0 → (roundInt zn i e).1 = f32Zero zn)) ∧
    (2 ^ 128 ≤ |(i : Rat) * 2 ^ e| → f32 (roundInt zn i e).1 = .inf (decide ((i : Rat) * 2 ^ e < 0)) ∧
      (roundInt zn i e).2 = { ovf := true }) := by
  rcases eq_or_ne i 0 with rfl | hi
  · refine ⟨fun _ => ⟨f32Zero_finite zn, ?_, rfl, fun _ => rfl⟩, fun h => absurd h (by norm_num)⟩
    rw [show (roundInt zn 0 e).1 = f32Zero zn from rfl, f32Zero_val]; simp
  · have hne : (i : Rat) * 2 ^ e ≠ 0 := mul_ne_zero (Int.cast_ne_zero.2 hi) (zpow_ne_zero _ two_ne_zero)
    have hp := natCast_mul_zpow_pos (Int.natAbs_ne_zero.2 hi) e
    have hneg : (i : Rat) * 2 ^ e < 0 ↔ i < 0 := by
      rw [intCast_mul_zpow hi, signFactor_mul_neg hp, decide_eq_true_iff]
    obtain ⟨inside, beyond⟩ := roundF32_fits (Int.natAbs_ne_zero.2 hi) hb he (decide (i < 0))
    have habs : |(i : Rat) * 2 ^ e| = (i.natAbs : Nat) * 2 ^ e := by rw [intCast_mul_zpow hi, signFactor_abs, abs_of_pos hp]
    rw [roundInt, if_neg (by simpa using hi), habs]
    refine ⟨fun h => ?_, fun h => ?_⟩
    · obtain ⟨fin, val, ev⟩ := inside h
      exact ⟨fin, by rw [val, Num.val_fin, ← intCast_mul_zpow hi], ev, fun h0 => absurd h0 hne⟩
    · rw [beyond h, decide_eq_decide.2 hneg]
      exact ⟨by cases decide (i < 0) <;> rfl, rfl⟩

/-! ## One accumulation (02 R42) -/

theorem floorShift_eq (i k : Int) : floorShift i k = ⌊(i : Rat) * 2 ^ k⌋ := by
  rcases le_or_gt 0 k with h | h
  · obtain ⟨d, rfl⟩ := Int.eq_ofNat_of_zero_le h
    rw [floorShift, if_pos h, Int.toNat_natCast, zpow_natCast]
    exact_mod_cast (Int.floor_intCast (R := Rat) (i * 2 ^ d)).symm
  · obtain ⟨d, hd⟩ := Int.eq_ofNat_of_zero_le (neg_nonneg.2 h.le)
    have hz : (2 : Rat) ^ k = ((2 ^ d : Nat) : Rat)⁻¹ := by rw [← neg_neg k, hd, zpow_neg, zpow_natCast]; norm_cast
    rw [floorShift, if_neg h.not_ge, hd, Int.toNat_natCast, hz, ← div_eq_mul_inv, Rat.floor_intCast_div_natCast,
      Int.fdiv_eq_ediv_of_nonneg _ (by positivity)]
    norm_cast

theorem accExp_eq (a : Bool) (m : Nat) (e : Int) : accExp m e = accExponent (Num.fin a m e).val := by
  simp only [accExp, accExponent, Num.val_fin_eq_zero, beq_iff_eq]
  split_ifs with h
  · rfl
  · rw [Num.val_fin, signFactor_abs, abs_of_pos (natCast_mul_zpow_pos h e), expOf_add h]

/-- A magnitude stays below the end of the binade that `E` names. -/
theorem abs_lt_accExponent (v : Rat) {e : Int} (h : accExponent v ≤ e) : |v| < 2 ^ (e + 1) := by
  rcases eq_or_ne v 0 with rfl | hv
  · rw [abs_zero]; positivity
  · rw [accExponent, if_neg hv] at h
    have := Int.lt_zpow_succ_log_self one_lt_two |v|
    refine this.trans_le ?_
    rw [Nat.cast_ofNat]
    exact zpow_le_zpow_right₀ one_le_two (by have := (le_max_left _ _).trans h; omega)

/-- The exponent of the grid on which a sum is formed (02 R42). -/
def accGrid (a p : Rat) : Int := max (accExponent a) (accExponent p)

theorem accGrid_min (a p : Rat) : -126 ≤ accGrid a p := by
  refine le_trans ?_ (le_max_left (accExponent a) _)
  unfold accExponent
  split_ifs
  · exact le_rfl
  · exact le_max_right _ _

theorem abs_add_lt_accGrid (a p : Rat) : |a + p| < 2 ^ (accGrid a p + 2) := by
  have ha := abs_lt_accExponent a (le_max_left (accExponent a) (accExponent p))
  have hp := abs_lt_accExponent p (le_max_right (accExponent a) (accExponent p))
  rw [show accGrid a p + 2 = accGrid a p + 1 + 1 by ring, zpow_add_one₀ two_ne_zero (accGrid a p + 1), mul_two]
  exact (abs_add_le a p).trans_lt (add_lt_add ha hp)

/-- The sum floored in steps of `2 ^ (e - 23)`. -/
def accFloor (a p : Rat) : Rat := (⌊(a + p) / 2 ^ (accGrid a p - 23)⌋ : Int) * 2 ^ (accGrid a p - 23)

/-- The sum of 02 R42: floored again in steps twice as large where it leaves the binade. -/
def accValue (a p : Rat) : Rat :=
  if (2 : Rat) ^ (accGrid a p + 1) ≤ |accFloor a p| then
    (⌊accFloor a p / (2 * 2 ^ (accGrid a p - 23))⌋ : Int) * (2 * 2 ^ (accGrid a p - 23))
  else accFloor a p

/-- A finite accumulation rounds exactly `accValue`: 24 bits hold it. -/
theorem accFin_eq (na : Bool) (m : Nat) (ea : Int) (nb : Bool) (n : Nat) (eb : Int) :
    ∃ i e : Int, i.natAbs ≤ 2 ^ 24 ∧ -149 ≤ e ∧ (i : Rat) * 2 ^ e = accValue (Num.fin na m ea).val (Num.fin nb n eb).val ∧
      accFin na m ea nb n eb = roundInt (na && nb && m == 0 && n == 0) i e := by
  set a := (Num.fin na m ea).val with ha
  set p := (Num.fin nb n eb).val with hp
  set e := accGrid a p with he
  have hmin : -126 ≤ e := accGrid_min a p
  have hgrid : max (accExp m ea) (accExp n eb) = e := by rw [accExp_eq na, accExp_eq nb]; rfl
  set s : Int := ⌊(a + p) / 2 ^ (e - 23)⌋ with hs
  have hu : (0 : Rat) < 2 ^ (e - 23) := by positivity
  have hfloor : accFloor a p = s * 2 ^ (e - 23) := rfl
  have hshift : floorShift (addFin na m ea nb n eb).1 ((addFin na m ea nb n eb).2 - (e - 23)) = s := by
    rw [floorShift_eq, zpow_sub₀ two_ne_zero, ← mul_div_assoc, addFin_val]
  have hbig : s.natAbs ≥ 2 ^ 24 ↔ (2 : Rat) ^ (e + 1) ≤ |accFloor a p| := by
    rw [hfloor, abs_mul, abs_of_pos hu, show e + 1 = 24 + (e - 23) by ring, zpow_add₀ two_ne_zero, mul_le_mul_iff_left₀ hu, ge_iff_le,
      ← Int.cast_abs, Int.abs_eq_natAbs]
    norm_cast
  have hfin : accFin na m ea nb n eb = roundInt (na && nb && m == 0 && n == 0)
      (if s.natAbs ≥ 2 ^ 24 then Int.fdiv s 2 else s) (if s.natAbs ≥ 2 ^ 24 then e - 22 else e - 23) := by
    simp only [accFin, hgrid, hshift]
    split_ifs <;> rfl
  rw [hfin, accValue, ← he, if_congr hbig.symm rfl rfl]
  by_cases h : s.natAbs ≥ 2 ^ 24
  · simp only [if_pos h]
    have hdiv : s.fdiv 2 = ⌊accFloor a p / (2 * 2 ^ (e - 23))⌋ := by
      rw [hfloor, mul_div_mul_right _ _ hu.ne', Int.fdiv_eq_ediv_of_nonneg _ (by decide)]
      exact (Rat.floor_intCast_div_natCast s 2).symm
    refine ⟨s.fdiv 2, e - 22, ?_, by omega, ?_, rfl⟩
    · obtain ⟨lo, hi⟩ := abs_lt.1 (abs_add_lt_accGrid a p)
      have h25 : (2 : Rat) ^ (e + 2) = 33554432 * 2 ^ (e - 23) := by
        rw [show e + 2 = 25 + (e - 23) by ring, zpow_add₀ two_ne_zero]; norm_num
      have slt : s < 2 ^ 25 := by
        rw [hs, Int.floor_lt, div_lt_iff₀ hu]; push_cast; rw [← h25]; exact hi
      have sle : -2 ^ 25 ≤ s := by
        rw [hs, Int.le_floor, le_div_iff₀ hu]; push_cast; rw [neg_mul, ← h25]; exact lo.le
      rw [Int.fdiv_eq_ediv_of_nonneg _ (by decide)]
      omega
    · rw [hdiv, show e - 22 = 1 + (e - 23) by ring, zpow_add₀ two_ne_zero, zpow_one]
  · simp only [if_neg h]
    exact ⟨s, e - 23, by omega, by omega, hfloor.symm, rfl⟩

/-- One accumulation gives `accValue`, or the infinity of its sign beyond the range. -/
theorem accFin_val (na : Bool) (m : Nat) (ea : Int) (nb : Bool) (n : Nat) (eb : Int) :
    let s := accValue (Num.fin na m ea).val (Num.fin nb n eb).val
    let r := accFin na m ea nb n eb
    (|s| < 2 ^ 128 → (f32 r.1).Finite ∧ (f32 r.1).val = s ∧ r.2 = {} ∧ (s = 0 → r.1 = f32Zero (na && nb && m == 0 && n == 0))) ∧
      (2 ^ 128 ≤ |s| → f32 r.1 = .inf (decide (s < 0)) ∧ r.2 = { ovf := true }) := by
  obtain ⟨i, e, hb, he, hs, hr⟩ := accFin_eq na m ea nb n eb
  rw [hr, ← hs]
  exact roundInt_fits hb he _

/-- Settles O11: the floor of the exact sum has 24 bits on its grid, and FP32 has every such value in its range. -/
theorem accumulationFloorsToItsGrid : Obligations.AccumulationFloorsToItsGrid := by
  unfold Obligations.AccumulationFloorsToItsGrid
  intro acc na nb m n ea eb hacc a p e u s1 s r
  have ha : a = (Num.fin na m ea).val := congrArg Num.val hacc
  have hs : s = accValue (Num.fin na m ea).val (Num.fin nb n eb).val := by rw [← ha]; rfl
  have hr : r = accFin na m ea nb n eb := by rw [show r = accNum (f32 acc) (.fin nb n eb) from rfl, hacc]; rfl
  obtain ⟨inside, beyond⟩ := accFin_val na m ea nb n eb
  rw [← hs, ← hr] at inside beyond
  refine ⟨fun h => ?_, fun h => beyond (by exact_mod_cast h)⟩
  obtain ⟨fin, val, ev, zero⟩ := inside (by exact_mod_cast h)
  refine ⟨fin, val, ev, fun h0 => ?_⟩
  rw [zero h0, f32Zero]
  simp only [Bool.and_eq_true, beq_iff_eq, and_assoc, and_left_comm]

/-! ## A chain of accumulations (02 R45) -/

/-- Flooring never exceeds, and falls short by less than a step. -/
theorem floor_mul_le (x : Rat) {u : Rat} (hu : 0 < u) : (⌊x / u⌋ : Int) * u ≤ x ∧ x - (⌊x / u⌋ : Int) * u < u := by
  have h1 := mul_le_mul_of_nonneg_right (Int.floor_le (x / u)) hu.le
  have h2 := mul_lt_mul_of_pos_right (Int.lt_floor_add_one (x / u)) hu
  rw [div_mul_cancel₀ _ hu.ne'] at h1 h2
  exact ⟨h1, by linarith⟩

theorem accExponent_le {v : Rat} {E : Int} (hE : -126 ≤ E) (h : |v| < 2 ^ (E + 1)) : accExponent v ≤ E := by
  unfold accExponent
  split_ifs with hv
  · exact hE
  · refine max_le ?_ hE
    rw [← Int.lt_add_one_iff, ← Int.lt_zpow_iff_log_lt one_lt_two (abs_pos.2 hv)]
    exact_mod_cast h

/-- One accumulation never exceeds the exact sum. -/
theorem accValue_le (a p : Rat) : accValue a p ≤ a + p := by
  have hu : (0 : Rat) < 2 ^ (accGrid a p - 23) := by positivity
  have h1 := (floor_mul_le (a + p) hu).1
  unfold accValue
  split_ifs
  · exact (floor_mul_le (accFloor a p) (mul_pos two_pos hu)).1.trans h1
  · exact h1

/-- The two floors of a sum that leaves the binade fall short by less than one of the larger steps. -/
theorem accFloor_twice (a p : Rat) {u : Rat} (hu : u = 2 ^ (accGrid a p - 23)) :
    a + p - (⌊accFloor a p / (2 * u)⌋ : Int) * (2 * u) < 2 * u := by
  have hu0 : 0 < u := hu ▸ by positivity
  have h1 := (floor_mul_le (a + p) hu0).2
  set s : Int := ⌊(a + p) / u⌋ with hs
  have hf : accFloor a p / (2 * u) = (s : Rat) / (2 : Nat) := by
    rw [accFloor, ← hu, ← hs, Nat.cast_ofNat, mul_div_mul_right _ _ hu0.ne']
  rw [hf, Rat.floor_intCast_div_natCast]
  have h2 : (s : Rat) ≤ 2 * (s / (2 : Nat) : Int) + 1 := by exact_mod_cast (by omega : s ≤ 2 * (s / 2) + 1)
  nlinarith

/-- A sum that is floored again lies outside the binade. -/
theorem le_abs_accFloor_twice {a p : Rat} {u : Rat} (hu : u = 2 ^ (accGrid a p - 23)) (h : (2 : Rat) ^ (accGrid a p + 1) ≤ |accFloor a p|) :
    (2 : Rat) ^ (accGrid a p + 1) ≤ |(⌊accFloor a p / (2 * u)⌋ : Int) * (2 * u)| := by
  have hu0 : 0 < 2 * u := hu ▸ by positivity
  have hE : (2 : Rat) ^ (accGrid a p + 1) = ((2 ^ 23 : Int) : Rat) * (2 * u) := by
    rw [hu, show accGrid a p + 1 = 23 + (1 + (accGrid a p - 23)) by ring, zpow_add₀ two_ne_zero, zpow_add₀ two_ne_zero]; norm_num
  rcases le_abs.1 h with h | h
  · refine le_trans ?_ (le_abs_self _)
    rw [hE] at h ⊢
    exact mul_le_mul_of_nonneg_right (Int.cast_le.2 (Int.le_floor.2 ((le_div_iff₀ hu0).2 h))) hu0.le
  · exact (h.trans (neg_le_neg (floor_mul_le (accFloor a p) hu0).1)).trans (neg_le_abs _)

/-- One accumulation falls short by less than a step of any grid that holds its operands and its result. -/
theorem lt_accValue {a p : Rat} {E : Int} (hE : -126 ≤ E) (ha : |a| < 2 ^ (E + 1)) (hp : |p| < 2 ^ (E + 1))
    (hs : |accValue a p| < 2 ^ (E + 1)) : a + p - accValue a p < 2 ^ (E - 23) := by
  have he : accGrid a p ≤ E := max_le (accExponent_le hE ha) (accExponent_le hE hp)
  unfold accValue at hs ⊢
  split_ifs at hs ⊢ with h
  · have hlt : accGrid a p + 1 < E + 1 := (zpow_lt_zpow_iff_right₀ one_lt_two).1 ((le_abs_accFloor_twice rfl h).trans_lt hs)
    refine (accFloor_twice a p rfl).trans_le ?_
    rw [← zpow_one_add₀ two_ne_zero]
    exact zpow_le_zpow_right₀ one_le_two (by omega)
  · refine (floor_mul_le (a + p) (by positivity)).2.trans_le ?_
    exact zpow_le_zpow_right₀ one_le_two (by omega)

/-- An accumulation that stays finite has the value of 02 R42. -/
theorem accNum_val_of_finite {x : F32} (hx : (f32 x).Finite) {p : Num} (hp : p.Finite) (h : (f32 (accNum (f32 x) p).1).Finite) :
    (f32 (accNum (f32 x) p).1).val = accValue (f32 x).val p.val := by
  obtain ⟨na, m, ea, hx⟩ := hx
  obtain ⟨nb, n, eb, rfl⟩ := hp
  rw [hx] at h ⊢
  obtain ⟨inside, beyond⟩ := accFin_val na m ea nb n eb
  rcases lt_or_ge |accValue (Num.fin na m ea).val (Num.fin nb n eb).val| (2 ^ 128) with lt | le
  · exact (inside lt).2.1
  · exact absurd ((beyond le).1 ▸ h) (Num.not_finite_inf _)

theorem accChain_cons (a : F32) (p : Num) (ps : List Num) : accChain a (p :: ps) = a :: accChain (accNum (f32 a) p).1 ps := rfl

theorem mem_accChain_self (a : F32) (ps : List Num) : a ∈ accChain a ps := by
  cases ps <;> simp [accChain]

theorem accChain_getLastD (a : F32) (p : Num) (ps : List Num) :
    (accChain a (p :: ps)).getLastD 0#32 = (accChain (accNum (f32 a) p).1 ps).getLastD 0#32 := by
  rw [accChain_cons, List.getLastD_cons]
  cases ps <;> rfl

section Chain
variable (ps : List Num) (a : F32) (hps : ∀ p ∈ ps, p.Finite) (hfin : ∀ x ∈ accChain a ps, (f32 x).Finite)

include hps hfin in
theorem accChain_le : (f32 ((accChain a ps).getLastD 0#32)).val ≤ (f32 a).val + (ps.map Num.val).sum := by
  induction ps generalizing a with
  | nil => simp [accChain]
  | cons p ps ih =>
    rw [accChain_getLastD, List.map_cons, List.sum_cons]
    rw [accChain_cons, List.forall_mem_cons] at hfin
    rw [List.forall_mem_cons] at hps
    have step := accNum_val_of_finite hfin.1 hps.1 (hfin.2 _ (mem_accChain_self _ ps))
    have := ih _ hps.2 hfin.2
    linarith [accValue_le (f32 a).val p.val]

variable {E : Int} (hE : -126 ≤ E) (hp : ∀ p ∈ ps, |p.val| < (2 : Rat) ^ (E + 1)) (hx : ∀ x ∈ accChain a ps, |(f32 x).val| < (2 : Rat) ^ (E + 1))

include hps hfin hE hp hx in
theorem le_accChain :
    (f32 a).val + (ps.map Num.val).sum - (f32 ((accChain a ps).getLastD 0#32)).val ≤ ps.length * (2 : Rat) ^ (E - 23) ∧
      (ps ≠ [] → (f32 a).val + (ps.map Num.val).sum - (f32 ((accChain a ps).getLastD 0#32)).val < ps.length * (2 : Rat) ^ (E - 23)) := by
  induction ps generalizing a with
  | nil => simp [accChain]
  | cons p ps ih =>
    rw [accChain_getLastD, List.map_cons, List.sum_cons, List.length_cons]
    rw [accChain_cons, List.forall_mem_cons] at hfin hx
    rw [List.forall_mem_cons] at hps hp
    have hmem := mem_accChain_self (accNum (f32 a) p).1 ps
    have step := accNum_val_of_finite hfin.1 hps.1 (hfin.2 _ hmem)
    have short := lt_accValue hE hx.1 hp.1 (step ▸ hx.2 _ hmem)
    have rest := (ih _ hps.2 hfin.2 hp.2 hx.2).1
    have lt : (f32 a).val + (p.val + (ps.map Num.val).sum) - (f32 ((accChain (accNum (f32 a) p).1 ps).getLastD 0#32)).val <
        (ps.length + 1 : Nat) * (2 : Rat) ^ (E - 23) := by
      push_cast; linarith
    exact ⟨lt.le, fun _ => lt⟩

end Chain

/-- Settles O12: each accumulation floors, so that no step exceeds, and each falls short by less than a step of the grid. -/
theorem chainNeverExceedsExactSum : Obligations.ChainNeverExceedsExactSum := by
  unfold Obligations.ChainNeverExceedsExactSum
  intro a ps hne hps hfin exact result
  exact ⟨accChain_le ps a hps hfin, fun E hE hp hx => (le_accChain ps a hps hfin hE hp hx).2 hne⟩

end Sys2Proof.Machine

/-! Narrowing of special inputs, exact widening, and special operands of arrays and port adds (02 R25 to R44). -/

namespace Sys2Proof.Machine
open Sys2Proof

/-! ## Narrowing of zeros, infinities and NaN (02 R32, R33) -/

theorem signCode_zero (f : Nat) (neg : Bool) :
    signCode f neg 0 = if f = 4 ∨ f = 5 then 0 else if neg then 2 ^ (fmtBits f - 1) else 0 := by
  have hb : fmtBits f - 1 = fmtExp f + fmtMant f := by unfold fmtBits; omega
  rw [hb]
  simp [signCode]

theorem narrowNum_zero (f : Nat) (neg : Bool) (e : Int) : narrowNum f (.fin neg 0 e) = (signCode f neg 0, {}) := rfl

theorem narrowNum_inf (f : Nat) (neg : Bool) : narrowNum f (.inf neg) = (signCode f neg (fmtMax f), { ovf := true, sat := 1 }) := rfl

/-- A result of value 0 is the zero of the format's zero rules (02 R33). -/
theorem narrowNum_of_val_zero {f : Nat} (h1 : 1 ≤ f) (h6 : f ≤ 6) {neg : Bool} {m : Nat} {e : Int}
    (h : (decodeFmt f (narrowNum f (.fin neg m e)).1).val = 0) : (narrowNum f (.fin neg m e)).1 = signCode f neg 0 := by
  rcases eq_or_ne m 0 with rfl | hm
  · rfl
  · rw [narrowNum_fin f neg hm] at h ⊢
    rw [(decode_signCode h1 h6 neg (min_le_right _ _)).2, mul_eq_zero, or_iff_right (by cases neg <;> simp [signFactor]),
      ← magVal_zero f] at h
    rw [(magVal_strictMono f).injective h]

/-! ## Widening and its way back (02 R28) -/

/-- The significand and the exponent of a decoded value. -/
theorem decodeFmt_bounds {f c : Nat} {neg : Bool} {m : Nat} {e : Int} (h : decodeFmt f c = .fin neg m e) :
    m < 2 ^ (fmtMant f + 1) ∧ 1 - (fmtBias f : Int) - fmtMant f ≤ e := by
  have hm := Nat.mod_lt c (Nat.two_pow_pos (fmtMant f))
  rw [pow_succ]
  simp only [decodeFmt] at h
  split_ifs at h with h1 h2 h3 h4
  · injection h
    exact ⟨by omega, by omega⟩
  · injection h
    simp only [beq_iff_eq] at h4
    exact ⟨by omega, by omega⟩

theorem magVal_max_lt {f : Nat} (h2 : 2 ≤ f) (h6 : f ≤ 6) : magVal f (fmtMax f) < 2 ^ 128 := by
  interval_cases f <;> norm_num [magVal, fmtMax, fmtMant, fmtBias]

theorem f32_roundF32_zero (neg : Bool) (e : Int) : f32 (roundF32 neg 0 e).1 = .fin neg 0 (-149) := by
  change f32 (f32Zero neg) = _
  cases neg <;> decide

theorem signFactor_mul_inj {s t : Bool} {x y : Rat} (hx : 0 < x) (hy : 0 < y) (h : signFactor s * x = signFactor t * y) :
    s = t ∧ x = y := by
  have habs := congrArg abs h
  rw [signFactor_abs, signFactor_abs, abs_of_pos hx, abs_of_pos hy] at habs
  refine ⟨?_, habs⟩
  rw [Bool.eq_iff_iff, ← signFactor_mul_neg hx s, ← signFactor_mul_neg hy t, h]

/-- A finite code widens exactly, and narrowing gives it back with no event. -/
theorem widen_exact {f c : Nat} (h2 : 2 ≤ f) (h6 : f ≤ 6) (hc : c < 2 ^ fmtBits f) (hf : (decodeFmt f c).Finite) :
    (f32 (widen f c)).Finite ∧ (f32 (widen f c)).val = (decodeFmt f c).val ∧ narrowNum f (f32 (widen f c)) = (c, {}) := by
  have h1 : 1 ≤ f := one_le_two.trans h2
  obtain ⟨neg, k, hk, rfl⟩ := exists_signed hc
  obtain ⟨hmax, hnan⟩ := (finite_iff h1 h6 hk).1 hf
  obtain ⟨m, e, hd, hv⟩ := decodeFmt_fin h1 h6 hmax hnan
  have hcode : signCode f neg k = signed f neg k := by
    unfold signCode signed
    split_ifs with hz hn <;> simp_all
  have hw : widen f (signed f neg k) = (roundF32 neg m e).1 := by rw [widen, hd]
  rw [hw, hd]
  rcases eq_or_ne m 0 with rfl | hm
  · have hk0 : k = 0 := (magVal_strictMono f).injective (by rw [← hv, magVal_zero]; simp)
    rw [f32_roundF32_zero, narrowNum_zero, ← hcode, hk0]
    exact ⟨Num.finite_fin _ _ _, by simp [Num.val], rfl⟩
  · obtain ⟨hmb, heb⟩ := decodeFmt_bounds hd
    have hfit : m ≤ 2 ^ 24 ∧ -149 ≤ e := by
      interval_cases f <;> simp [fmtMant, fmtBias] at hmb heb <;> omega
    obtain ⟨⟨s, m', e', hr⟩, val, -⟩ := (roundF32_fits hm hfit.1 hfit.2 neg).1
      (hv ▸ ((magVal_strictMono f).monotone hmax).trans_lt (magVal_max_lt h2 h6))
    refine ⟨⟨s, m', e', hr⟩, val, ?_⟩
    rw [hr] at val ⊢
    have hm' : m' ≠ 0 := fun h0 => hm ((Num.val_fin_eq_zero neg m e).1 (val ▸ (Num.val_fin_eq_zero s m' e').2 h0))
    rw [Num.val_fin, Num.val_fin] at val
    obtain ⟨rfl, hx⟩ := signFactor_mul_inj (natCast_mul_zpow_pos hm' e') (natCast_mul_zpow_pos hm e) val
    rw [narrowNum_fin f s hm', roundCode_exact f true hm' (hx.trans hv), min_eq_left hmax, if_neg (not_lt.2 hmax), hcode]

/-! ## Special operands of array products and sums (02 R44) -/

theorem f32_f32Inf (s : Bool) : f32 (f32Inf s) = .inf s := by cases s <;> rfl

theorem mulNum_nan_operand {a b : Num} (h : a = .nan ∨ b = .nan) : mulNum a b = some .nan := by
  rcases h with rfl | rfl
  · rfl
  · exact mulNum_nan_right a

theorem accNum_nan_right (a : Num) : accNum a .nan = (f32NaN, {}) := by cases a <;> rfl

theorem accStep_of_product {f : Nat} {x y : Nat} {p : Num} (h : mulNum (decodeFmt f x) (decodeFmt f y) = some p) (acc : F32) :
    accStep f acc x y = accNum (f32 acc) p := by
  rw [accStep, h]

/-- The clauses of 02 R44 for one step of a cell. -/
theorem accStep_special (f x y : Nat) (acc : F32) :
    (decodeFmt f x = .nan ∨ decodeFmt f y = .nan → accStep f acc x y = (f32NaN, {})) ∧
    (∀ (sx sy : Bool) (e : Int), (decodeFmt f x = .inf sx ∧ decodeFmt f y = .fin sy 0 e) ∨
        (decodeFmt f x = .fin sy 0 e ∧ decodeFmt f y = .inf sx) → accStep f acc x y = (f32NaN, { inv := true })) ∧
    (∀ (sx sy : Bool) (m : Nat) (e : Int), decodeFmt f x = .inf sx → decodeFmt f y = .fin sy m e → m ≠ 0 → (f32 acc).Finite →
      f32 (accStep f acc x y).1 = .inf (sx != sy) ∧ (accStep f acc x y).2 = {}) ∧
    (∀ (sx sy : Bool), decodeFmt f x = .inf sx → decodeFmt f y = .inf sy → ∀ sa, f32 acc = .inf sa →
      (sa = (sx != sy) → accStep f acc x y = (acc, {})) ∧
      (sa ≠ (sx != sy) → accStep f acc x y = (f32NaN, { inv := true }))) := by
  refine ⟨fun h => ?_, fun sx sy e h => ?_, fun sx sy m e hx hy hm ⟨sa, n, g, ha⟩ => ?_, fun sx sy hx hy sa ha => ?_⟩
  · rw [accStep_of_product (mulNum_nan_operand h), accNum_nan_right]
  · rcases h with ⟨hx, hy⟩ | ⟨hx, hy⟩ <;> (rw [accStep, hx, hy]; rfl)
  · rw [accStep_of_product (by rw [hx, hy]; exact (mulNum_inf_fin sx sy hm e).1), ha]
    exact ⟨f32_f32Inf _, rfl⟩
  · rw [accStep_of_product (p := .inf (sx != sy)) (by rw [hx, hy]; rfl), ha, f32_inf ha]
    exact ⟨fun h => by rw [← h]; simp [accNum], fun h => by simp [accNum, h]⟩

/-! ## Port adds (02 R40) -/

/-- A NaN operand of a port add passes through it with no flag. -/
theorem portAdd_nan {x y : Nat} (h : decodeFmt 2 x = .nan ∨ decodeFmt 2 y = .nan) : portAddBf16 x y = (0x7FC0, {}) := by
  unfold portAddBf16
  rcases h with h | h <;> rw [h]
  · rfl
  · cases decodeFmt 2 x <;> rfl

theorem narrowNum_bf16_inf (s : Bool) : narrowNum 2 (.inf s) = (0x7F7F + (if s then 0x8000 else 0), { ovf := true, sat := 1 }) := by
  cases s <;> rfl

/-- Infinite operands of a port add. -/
theorem portAdd_inf (x y : Nat) :
    (∀ sx sy : Bool, decodeFmt 2 x = .inf sx → decodeFmt 2 y = .inf sy →
      (sx = sy → portAddBf16 x y = narrowNum 2 (.inf sx)) ∧ (sx ≠ sy → portAddBf16 x y = (0x7FC0, { inv := true }))) ∧
    (∀ sx : Bool, decodeFmt 2 x = .inf sx → (decodeFmt 2 y).Finite → portAddBf16 x y = narrowNum 2 (.inf sx)) ∧
    (∀ sy : Bool, (decodeFmt 2 x).Finite → decodeFmt 2 y = .inf sy → portAddBf16 x y = narrowNum 2 (.inf sy)) := by
  refine ⟨fun sx sy hx hy => ?_, fun sx hx ⟨s, m, e, hy⟩ => ?_, fun sy ⟨s, m, e, hx⟩ hy => ?_⟩ <;>
    simp only [portAddBf16, hx, hy]
  exact ⟨fun h => by simp [h], fun h => by simp [h, fmtNaN]⟩

/-- Settles O10: the special inputs by the zero rules and the key codes, widening by `widen_exact`, and the special operands of
the array and of a port add case by case. -/
theorem specialInputsAndWidening : Obligations.SpecialInputsAndWidening := by
  unfold Obligations.SpecialInputsAndWidening
  refine ⟨⟨?_, rfl, rfl, rfl, rfl, rfl, fun f m neg e h2 h6 h => ?_⟩, fun f c => widen_exact, ?_, fun x y => ?_⟩
  · rintro neg e sgn rfl
    simp only [narrowNum_zero, narrowNum_inf]
    cases neg <;> decide
  · rw [← signCode_zero]
    exact narrowNum_of_val_zero (one_le_two.trans h2) h6 h
  · intro f x y acc _ _ dx dy
    obtain ⟨nan, zero, inf, infs⟩ := accStep_special f x y acc
    exact ⟨nan, zero, inf, infs, fun p h => by rw [h]; rfl⟩
  · obtain ⟨both, left, right⟩ := portAdd_inf x y
    simp only [narrowNum_bf16_inf] at both left right
    exact ⟨portAdd_nan, both, left, right⟩

end Sys2Proof.Machine

/-! The counts of a context's registers and their CLR rows (02 R36, 03 R77, R78, 04 R112, 07 R173, R184, R190, 11 R303, 12 R331). -/

namespace Sys2Proof.Machine
open Sys2Proof

/-- A command that changes one context answers with that change alone. -/
theorem answersCtx_modCtx {i : Instr} {s : State} {n : Nat} {f : Ctx → Ctx} (h : exec i s = .next (s.modCtx n f)) :
    AnswersCtx i s n (f (s.ctx n)) :=
  ⟨_, h, s.ctx_modCtx n f, fun _ hm => s.ctx_modCtx_other f hm.symm, rfl⟩

/-- A CLR row of a context's counts acts for a writer of the context where bit 63 is 1, and changes nothing else (12 R331). -/
theorem clrRow_answers {i : Instr} {s : State} (hs : s.pwr.sup ≠ 3) {o : Origin} {n : CtxN} {v : BitVec 64} {g : CtxArith → CtxArith}
    (h : exec i s = .next (if s.ctxWriter o n.val then (if v.getLsbD 63 then s.modCtx n.val fun k => k.modArith g else s) else s)) :
    (o = .admin ∨ o = .ctx n → v.getLsbD 63 = true → AnswersCtx i s n.val ((s.ctx n.val).modArith g)) ∧
      (v.getLsbD 63 = false ∨ ¬ (o = .admin ∨ o = .ctx n) → Answers i s s) := by
  refine ⟨fun ho hv => ?_, fun hno => ?_⟩
  · rw [if_pos ((ctxWriter_iff s hs o n).2 ho), if_pos hv] at h
    exact answersCtx_modCtx h
  · rcases hno with hv | ho
    · rw [if_neg (Bool.eq_false_iff.1 hv), ite_self] at h
      exact h
    · rw [if_neg (mt (ctxWriter_iff s hs o n).1 ho)] at h
      exact h

/-- CLR_COUNT as a CLR row. -/
theorem exec_clrCount (o : Origin) (n : CtxN) (v : BitVec 64) (s : State) :
    exec (.clrCount o n v) s = .next (if s.ctxWriter o n.val then
      (if v.getLsbD 63 then s.modCtx n.val fun k => k.modArith fun a => { a with satCount := 0 } else s) else s) := by
  change execClrCount o n v s = _
  unfold execClrCount
  cases s.ctxWriter o n.val <;> rfl

/-- A written seed is kept by the context's step part and by the ledger, and changes nothing else (07 R173, R184). -/
theorem jobSeedWrite_idle {o : Origin} {n : CtxN} {s : State} (v : BitVec 64) (hw : s.ctxWriter o n.val = true)
    (h : (s.ctx n.val).runInProgress = false) :
    let k := s.ctx n.val
    ∃ t, Answers (.ctxJobSeedWrite o n v) s t ∧ t.ctx n.val = { k with step := { k.step with seed := v } } ∧
      (∀ m, m ≠ n.val → t.ctx m = s.ctx m) ∧ t = { s with ctxs := t.ctxs, hlt := { s.hlt with slots := t.hlt.slots } } ∧
      ∀ m, SMap.get (0#64, 0, 0) t.hlt.slots m =
        if m = n.val then (v, k.step.applied, k.step.committed) else SMap.get (0#64, 0, 0) s.hlt.slots m := by
  refine ⟨(s.modStepOf n.val fun t => { t with seed := v }).ledgerSlot n.val, ?_, ?_, fun m hm => ?_, rfl, fun m => ?_⟩
  · change Host.Outcome.next (if s.ctxWriter o n.val then s.writeSeed n.val v else s) = _
    rw [if_pos hw, writeSeed_idle s n.val v h]
  · rw [State.ctx_ledgerSlot, State.modStepOf, State.ctx_modCtx]; rfl
  · rw [State.ctx_ledgerSlot, State.modStepOf, State.ctx_modCtx_other _ _ hm.symm]
  · have hc : (s.modStepOf n.val fun t => { t with seed := v }).ctx n.val = { s.ctx n.val with step := { (s.ctx n.val).step with seed := v } } :=
      s.ctx_modCtx n.val _
    simp only [State.ledgerSlot, hc, SMap.get_set, eq_comm (a := n.val)]
    rfl

theorem admin_iff {s : State} (hs : s.pwr.sup ≠ 3) (o : Origin) : s.admin o = true ↔ o = .admin := by
  cases o <;> simp [State.admin, Origin.isAdmin, hs]

/-- Settles O28: every CLR row is `clrRow_answers` with its own counts; the seed and the accounts have rows of their own. -/
theorem contextCountsAreCleared : Obligations.ContextCountsAreCleared := by
  unfold Obligations.ContextCountsAreCleared
  intro o n v s hs k a
  have writer := ctxWriter_iff s hs o n
  obtain ⟨sat, sat0⟩ := clrRow_answers hs (exec_clrCount o n v s)
  obtain ⟨shadow, shadow0⟩ := clrRow_answers hs (i := .ctxShadowCountClr o n v) rfl
  obtain ⟨rescale, rescale0⟩ := clrRow_answers hs (i := .ctxRescaleCountClr o n v) rfl
  obtain ⟨tasks, tasks0⟩ := clrRow_answers hs (i := .ctxTaskCountClr o n v) rfl
  obtain ⟨updates, updates0⟩ := clrRow_answers hs (i := .ctxUpdateCountClr o n v) rfl
  obtain ⟨colls, colls0⟩ := clrRow_answers hs (i := .ctxCollCountClr o n v) rfl
  have seed : exec (.ctxJobSeedWrite o n v) s = .next (if s.ctxWriter o n.val then s.writeSeed n.val v else s) := rfl
  have acct : exec (.ctxAcctCtlClr o n v) s = .next (if s.admin o then s.writeAcctCtl n.val v else s) := rfl
  refine ⟨fun ho => ⟨fun hv => ⟨sat ho hv, shadow ho hv, rescale ho hv, tasks ho hv, updates ho hv, colls ho hv⟩,
      fun h => jobSeedWrite_idle v (writer.2 ho) h, fun h => ?_⟩,
    fun h => ⟨sat0 h, shadow0 h, rescale0 h, tasks0 h, updates0 h, colls0 h⟩, fun h => ?_, fun ho hv => ?_, fun h => ?_⟩
  · rw [Answers, seed, if_pos (writer.2 ho)]
    simp [State.writeSeed, show (s.ctx n.val).runInProgress = true from h]
  · rw [Answers, seed, if_neg (mt writer.1 h)]
  · rw [if_pos ((admin_iff hs o).2 ho), State.writeAcctCtl, if_pos hv] at acct
    exact answersCtx_modCtx acct
  · rw [Answers, acct]
    rcases h with ho | hv
    · rw [if_neg (mt (admin_iff hs o).1 ho)]
    · rw [State.writeAcctCtl, if_neg (Bool.eq_false_iff.1 hv), ite_self]

end Sys2Proof.Machine

/-! Memory reads and writes of whole vectors and rows. -/

namespace Sys2Proof

/-! ## Several writes in turn -/

/-- The bytes of memory after several writes in turn. -/
def Mem.writeAll (m : Mem) (ws : List (Nat × List Byte)) : Mem := ws.foldl (fun m w => Mem.write m w.1 w.2) m

/-- A write leaves the `n` bytes at `x` alone. -/
def Misses (w : Nat × List Byte) (x n : Nat) : Prop := x + n ≤ w.1 ∨ w.1 + w.2.length ≤ x

theorem Mem.writeAll_cons (m : Mem) (w : Nat × List Byte) (ws : List (Nat × List Byte)) :
    Mem.writeAll m (w :: ws) = Mem.writeAll (Mem.write m w.1 w.2) ws := rfl

theorem Mem.writeAll_append (m : Mem) (ws vs : List (Nat × List Byte)) :
    Mem.writeAll m (ws ++ vs) = Mem.writeAll (Mem.writeAll m ws) vs := List.foldl_append

/-- Bytes that no write touches read as before. -/
theorem Mem.read_writeAll_other (m : Mem) {ws : List (Nat × List Byte)} {x n : Nat} (h : ∀ w ∈ ws, Misses w x n) :
    Mem.read (Mem.writeAll m ws) x n = Mem.read m x n := by
  induction ws generalizing m with
  | nil => rfl
  | cons w ws ih =>
    rw [List.forall_mem_cons] at h
    rw [Mem.writeAll_cons, ih _ h.2, Mem.read_write_other _ _ _ _ _ h.1]

theorem Mem.byte_writeAll_other (m : Mem) {ws : List (Nat × List Byte)} {x : Nat} (h : ∀ w ∈ ws, Misses w x 1) :
    Mem.byte (Mem.writeAll m ws) x = Mem.byte m x := by
  have := Mem.read_writeAll_other m h
  simpa [Mem.read] using this

/-- Of writes that do not overlap each is read back. -/
theorem Mem.read_writeAll_mem (m : Mem) {ws : List (Nat × List Byte)} (h : ws.Pairwise fun w v => Misses v w.1 w.2.length)
    {w : Nat × List Byte} (hw : w ∈ ws) : Mem.read (Mem.writeAll m ws) w.1 w.2.length = w.2 := by
  induction ws generalizing m with
  | nil => simp at hw
  | cons v ws ih =>
    rw [List.pairwise_cons] at h
    rw [Mem.writeAll_cons]
    rcases List.mem_cons.1 hw with rfl | hw
    · rw [Mem.read_writeAll_other _ h.1, Mem.read_write]
    · exact ih _ h.2 hw

/-- A part of a run of bytes. -/
theorem Mem.read_part (m : Mem) (a : Nat) {i k n : Nat} (h : i + k ≤ n) :
    Mem.read m (a + i) k = ((Mem.read m a n).drop i).take k := by
  induction i generalizing a n with
  | zero =>
    induction k generalizing a n with
    | zero => simp [Mem.read]
    | succ k ih =>
      obtain ⟨n, rfl⟩ := Nat.exists_eq_succ_of_ne_zero (show n ≠ 0 by omega)
      have := ih (a := a + 1) (n := n) (by omega)
      simp only [Mem.read, List.drop_zero, List.take_succ_cons, Nat.add_zero] at this ⊢
      rw [this]
  | succ i ih =>
    obtain ⟨n, rfl⟩ := Nat.exists_eq_succ_of_ne_zero (show n ≠ 0 by omega)
    have := ih (a := a + 1) (n := n) (by omega)
    simp only [Mem.read, List.drop_succ_cons]
    rw [← this]; congr 1; omega

namespace Machine

/-! ## The bytes of a core store -/

/-- A write of good words in the core store changes the bytes alone. -/
theorem State.setCoreBytes_clean {s : State} (h : CleanStore s) (c off : Nat) (bs : List Byte) :
    s.setCoreBytes c off bs = s.setBytes (coreBase c + off) bs :=
  State.afterStore_clean (s := s.setBytes (coreBase c + off) bs) h.bad h.arm _ _

theorem CleanStore.setBytes {s : State} (h : CleanStore s) (a : Nat) (bs : List Byte) : CleanStore (s.setBytes a bs) :=
  ⟨h.bad, h.arm, h.rst⟩

theorem State.coreArith_frame (s : State) (c : Nat) (e : Ev) (g : Bool) : ∃ xs, s.coreArith c e g = { s with ctxs := xs } := by
  unfold State.coreArith
  split
  · exact ⟨_, rfl⟩
  · exact ⟨s.ctxs, rfl⟩

@[simp] theorem State.coreArith_mem (s : State) (c : Nat) (e : Ev) (g : Bool) : (s.coreArith c e g).mem = s.mem := by
  obtain ⟨xs, h⟩ := s.coreArith_frame c e g; rw [h]

@[simp] theorem State.coreArith_cores (s : State) (c : Nat) (e : Ev) (g : Bool) : (s.coreArith c e g).cores = s.cores := by
  obtain ⟨xs, h⟩ := s.coreArith_frame c e g; rw [h]

theorem CleanStore.coreArith {s : State} (h : CleanStore s) (c : Nat) (e : Ev) (g : Bool) : CleanStore (s.coreArith c e g) := by
  obtain ⟨xs, h'⟩ := s.coreArith_frame c e g; rw [h']; exact ⟨h.bad, h.arm, h.rst⟩

/-! ## FP32 codes in bytes (02 R23) -/

theorem natLe_four_append (x : F32) :
    (BitVec.ofNat 8 (x.toNat / 256 / 256 / 256) ++ BitVec.ofNat 8 (x.toNat / 256 / 256) ++ BitVec.ofNat 8 (x.toNat / 256) ++
      BitVec.ofNat 8 x.toNat : F32) = x := by
  have hx := x.isLt
  apply BitVec.eq_of_toNat_eq
  have join : ∀ (n : Nat) (a : BitVec n) (b : Byte), (a ++ b).toNat = a.toNat * 256 + b.toNat := by
    intro n a b
    rw [BitVec.toNat_append, ← Nat.shiftLeft_add_eq_or_of_lt b.isLt, Nat.shiftLeft_eq]
  rw [join, join, join]
  simp only [BitVec.toNat_ofNat]
  omega

@[simp] theorem length_natLe (n v : Nat) : (natLe n v).length = n := by
  induction n generalizing v with
  | zero => rfl
  | succ n ih => simp [natLe, ih]

/-- FP32 codes are read back from their bytes. -/
theorem f32s_f32Bytes (xs : List F32) : f32s (f32Bytes xs) = xs := by
  induction xs with
  | nil => rfl
  | cons x xs ih =>
    have h : f32Bytes (x :: xs) = BitVec.ofNat 8 x.toNat :: BitVec.ofNat 8 (x.toNat / 256) :: BitVec.ofNat 8 (x.toNat / 256 / 256) ::
      BitVec.ofNat 8 (x.toNat / 256 / 256 / 256) :: f32Bytes xs := rfl
    rw [h, f32s, natLe_four_append, ih]

@[simp] theorem length_f32Bytes (xs : List F32) : (f32Bytes xs).length = 4 * xs.length := by
  induction xs with
  | nil => rfl
  | cons x xs ih => rw [f32Bytes, List.flatMap_cons, List.length_append, ← f32Bytes, ih, length_natLe, List.length_cons]; omega

theorem length_f32s (bs : List Byte) : (f32s bs).length = bs.length / 4 := by
  induction bs using f32s.induct with
  | case1 a b c d r ih => simp only [f32s, List.length_cons, ih]; omega
  | case2 bs h =>
    rcases bs with _ | ⟨a, _ | ⟨b, _ | ⟨c, _ | ⟨d, r⟩⟩⟩⟩
    · rfl
    · simp [f32s]
    · simp [f32s]
    · simp [f32s]
    · exact absurd rfl (h a b c d r)

/-- The four bytes of one code among the bytes of codes. -/
theorem f32Bytes_part {xs : List F32} {i : Nat} (h : i < xs.length) : ((f32Bytes xs).drop (4 * i)).take 4 = natLe 4 xs[i].toNat := by
  induction xs generalizing i with
  | nil => simp at h
  | cons x xs ih =>
    rw [f32Bytes, List.flatMap_cons, ← f32Bytes]
    cases i with
    | zero => rw [Nat.mul_zero, List.drop_zero, List.take_left' (length_natLe 4 _)]; rfl
    | succ i =>
      rw [Nat.mul_succ, Nat.add_comm, ← List.drop_drop, List.drop_left' (length_natLe 4 _)]
      exact ih (Nat.lt_of_succ_lt_succ h)

end Machine

end Sys2Proof

/-! The vector unit: what its instructions write lane by lane, and its reductions (02 R46, 05 R133 to R141). -/

namespace Sys2Proof.Machine
open Sys2Proof

/-! ## One vector of a run -/

theorem State.vec_eq (s : State) (c off v : Nat) : s.vec c off v = f32s (Mem.read s.mem (coreBase c + (off + 1024 * v)) 1024) := rfl

@[simp] theorem State.length_vec (s : State) (c off v : Nat) : (s.vec c off v).length = 256 := by
  rw [State.vec_eq, length_f32s, Mem.read_length]

theorem State.vec_congr {s t : State} (h : t.mem = s.mem) (c off v : Nat) : t.vec c off v = s.vec c off v := by
  rw [State.vec_eq, State.vec_eq, h]

/-- Only the bytes from `b` up to `b + n` change, and no core. -/
structure BytesOnly (s t : State) (b n : Nat) : Prop where
  cores : t.cores = s.cores
  bytes : ∀ a, (a < b ∨ b + n ≤ a) → Mem.byte t.mem a = Mem.byte s.mem a

theorem State.setCoreBytes_bytesOnly {s : State} (h : CleanStore s) (c off : Nat) {bs : List Byte} {n : Nat} (hn : bs.length ≤ n) :
    BytesOnly s (s.setCoreBytes c off bs) (coreBase c + off) n := by
  rw [State.setCoreBytes_clean h]
  exact ⟨rfl, fun a ha => Mem.byte_write_other _ _ _ _ (by omega)⟩

theorem BytesOnly.coreArith {s t : State} {b n : Nat} (h : BytesOnly s t b n) (c : Nat) (e : Ev) (g : Bool) :
    BytesOnly s (t.coreArith c e g) b n :=
  ⟨by rw [State.coreArith_cores, h.cores], fun a ha => by rw [State.coreArith_mem, h.bytes a ha]⟩

/-- A vector that is written is read back. -/
theorem State.vec_setVec {s : State} (h : CleanStore s) (c off v : Nat) {xs : List F32} (hx : xs.length = 256) :
    (s.setVec c off v xs).vec c off v = xs := by
  have hl : (f32Bytes xs).length = 1024 := by rw [length_f32Bytes, hx]
  rw [State.setVec, State.setCoreBytes_clean h, State.vec_eq]
  change f32s (Mem.read (Mem.write s.mem _ (f32Bytes xs)) _ 1024) = xs
  rw [← hl, Mem.read_write, f32s_f32Bytes]

theorem State.setVec_bytesOnly {s : State} (h : CleanStore s) (c off v : Nat) {xs : List F32} (hx : xs.length ≤ 256) :
    BytesOnly s (s.setVec c off v xs) (coreBase c + (off + 1024 * v)) 1024 :=
  State.setCoreBytes_bytesOnly h c _ (by rw [length_f32Bytes]; omega)

/-- Lanes written: the vector holds the results, and nothing else changes but what events charge to the context. -/
theorem State.putLanes_frame {s : State} (h : CleanStore s) (c off v : Nat) {r : List (F32 × Ev)} (hr : r.length ≤ 256) :
    BytesOnly s (s.putLanes c off v r) (coreBase c + (off + 1024 * v)) 1024 :=
  (State.setVec_bytesOnly h c off v (by rwa [List.length_map])).coreArith c _ _

theorem State.vec_putLanes {s : State} (h : CleanStore s) (c off v : Nat) {r : List (F32 × Ev)} (hr : r.length = 256) :
    (s.putLanes c off v r).vec c off v = r.map (·.1) :=
  (State.vec_congr (State.coreArith_mem _ _ _ _) c off v).trans (State.vec_setVec h c off v (by rwa [List.length_map]))

/-- Each lane written is the result of the lane's operands. -/
theorem State.putLanes_lane {s : State} (h : CleanStore s) (c off v : Nat) {α : Type} {xs : List α} (hx : xs.length = 256)
    (f : α → F32 × Ev) (d : α) {e : Nat} (he : e < 256) :
    ((s.putLanes c off v (xs.map f)).vec c off v)[e]? = some (f (xs.getD e d)).1 := by
  rw [State.vec_putLanes h c off v (by rwa [List.length_map]), List.getElem?_map, List.getElem?_map,
    List.getElem?_eq_getElem (hx ▸ he), List.getD_eq_getElem _ _ (hx ▸ he)]
  rfl

theorem getD_zip {α β : Type} {a : List α} {b : List β} {n e : Nat} (ha : a.length = n) (hb : b.length = n) (he : e < n) (x : α) (y : β) :
    (a.zip b).getD e (x, y) = (a.getD e x, b.getD e y) := by
  rw [List.getD_eq_getElem _ _ (by rw [List.length_zip, ha, hb]; omega), List.getElem_zip, List.getD_eq_getElem _ _ (ha ▸ he),
    List.getD_eq_getElem _ _ (hb ▸ he)]

/-! ## VOP, ACT and WID (05 R134, R137, R141) -/

/-- An operand run: the vector, or zeros where it is not read. -/
def State.laneRun (s : State) (c : Nat) (reads : Bool) (off : BitVec 64) (v : Nat) : List F32 := if reads then s.vec c off.toNat v else noVec

@[simp] theorem State.length_laneRun (s : State) (c : Nat) (reads : Bool) (off : BitVec 64) (v : Nat) : (s.laneRun c reads off v).length = 256 := by
  cases reads
  · exact List.length_replicate
  · exact s.length_vec c _ v

/-- The number of codes in a vector of a format (02 R23). -/
theorem length_halves (bs : List Byte) : (halves bs).length = bs.length / 2 := by
  induction bs using halves.induct with
  | case1 a b r ih => simp only [halves, List.length_cons, ih]; omega
  | case2 bs h =>
    rcases bs with _ | ⟨a, _ | ⟨b, r⟩⟩
    · rfl
    · simp [halves]
    · exact absurd rfl (h a b r)

theorem length_bytesCodes_le {f : Nat} (hf : f < 8) (m : Mem) (a : Nat) : (bytesCodes f (Mem.read m a (vecBytes f))).length ≤ 256 := by
  interval_cases f <;> simp [bytesCodes, vecBytes, fmtBits, fmtExp, fmtMant, length_halves, length_f32s, Mem.read_length]

theorem length_bytesCodes {f : Nat} (h2 : 2 ≤ f) (h6 : f ≤ 6) (m : Mem) (a : Nat) : (bytesCodes f (Mem.read m a (vecBytes f))).length = 256 := by
  interval_cases f <;> simp [bytesCodes, vecBytes, fmtBits, fmtExp, fmtMant, length_halves, Mem.read_length]

section Lanes
variable {s : State} (hs : CleanStore s) (c : Nat) (w : VecWork) (v : Nat)

theorem State.vopStep_eq : State.vopStep c w s v = s.putLanes c w.rd.toNat v
    (((s.laneRun c (vopA w.f.fn.toNat) w.ra v).zip ((s.laneRun c (vopB w.f.fn.toNat) w.rb v).zip (s.laneRun c (vopD w.f.fn.toNat) w.rd v))).map
      fun p => vopLane w.f.fn.toNat p.1 p.2.1 p.2.2 ((s.core c).rs w.f.x.toNat)) := rfl

include hs in
theorem State.vopStep_frame : BytesOnly s (State.vopStep c w s v) (coreBase c + (w.rd.toNat + 1024 * v)) 1024 := by
  rw [State.vopStep_eq]
  exact State.putLanes_frame hs c _ v (by simp)

include hs in
/-- Each lane of VOP. -/
theorem State.vopStep_lane {e : Nat} (he : e < 256) : ((State.vopStep c w s v).vec c w.rd.toNat v)[e]? =
    some (vopLane w.f.fn.toNat ((s.laneRun c (vopA w.f.fn.toNat) w.ra v).getD e 0#32) ((s.laneRun c (vopB w.f.fn.toNat) w.rb v).getD e 0#32)
      ((s.laneRun c (vopD w.f.fn.toNat) w.rd v).getD e 0#32) ((s.core c).rs w.f.x.toNat)).1 := by
  rw [State.vopStep_eq, State.putLanes_lane hs c _ v (by simp) _ (0#32, 0#32, 0#32) he,
    getD_zip (n := 256) (by simp) (by simp) he, getD_zip (n := 256) (by simp) (by simp) he]

theorem State.actStep_eq : State.actStep c w s v = s.putLanes c w.rd.toNat v
    (((s.vec c w.ra.toNat v).zip (s.laneRun c (!(w.f.fn.toNat / 16 == 0)) w.rb v)).map fun p =>
      actLane (w.f.fn.toNat / 16) (w.f.fn.toNat % 16) (Config.actFree (w.f.fn.toNat % 16) (w.f.fn.toNat / 16) p.1 p.2) p.1 p.2) := by
  have hg : s.laneRun c (!(w.f.fn.toNat / 16 == 0)) w.rb v = if w.f.fn.toNat / 16 == 0 then noVec else s.vec c w.rb.toNat v := by
    cases h : (w.f.fn.toNat / 16 == 0) <;> rfl
  rw [hg]; rfl

include hs in
theorem State.actStep_frame : BytesOnly s (State.actStep c w s v) (coreBase c + (w.rd.toNat + 1024 * v)) 1024 := by
  rw [State.actStep_eq]
  exact State.putLanes_frame hs c _ v (by simp)

include hs in
/-- Each lane of ACT. -/
theorem State.actStep_lane {e : Nat} (he : e < 256) :
    let fn := w.f.fn.toNat % 16
    let mode := w.f.fn.toNat / 16
    let a := (s.vec c w.ra.toNat v).getD e 0#32
    let g := (s.laneRun c (!(mode == 0)) w.rb v).getD e 0#32
    ((State.actStep c w s v).vec c w.rd.toNat v)[e]? = some (actLane mode fn (Config.actFree fn mode a g) a g).1 := by
  intro fn mode a g
  rw [State.actStep_eq, State.putLanes_lane hs c _ v (by simp) _ (0#32, 0#32) he, getD_zip (n := 256) (by simp) (by simp) he]

/-- The codes of one vector of WID. -/
def State.widCodes (s : State) (c : Nat) (w : VecWork) (v : Nat) : List Nat :=
  let f := w.f.fn.toNat % 8
  bytesCodes f (Mem.read s.mem (coreBase c + (w.ra.toNat + vecBytes f * v)) (vecBytes f))

theorem State.widStep_eq : State.widStep c w s v = s.putLanes c w.rd.toNat v ((s.widCodes c w v).map fun k =>
    if w.f.fn.toNat / 8 % 2 == 1 then fmul (widen (w.f.fn.toNat % 8) k) ((s.core c).rs w.f.x.toNat)
    else (widen (w.f.fn.toNat % 8) k, {})) := by
  unfold State.widStep State.widCodes State.coreBytes State.bytes
  simp only [List.map_map]
  rfl

include hs in
theorem State.widStep_frame : BytesOnly s (State.widStep c w s v) (coreBase c + (w.rd.toNat + 1024 * v)) 1024 := by
  rw [State.widStep_eq]
  exact State.putLanes_frame hs c _ v (by rw [List.length_map]; exact length_bytesCodes_le (Nat.mod_lt _ (by decide)) _ _)

include hs in
/-- Each lane of WID. -/
theorem State.widStep_lane (h2 : 2 ≤ w.f.fn.toNat % 8) (h6 : w.f.fn.toNat % 8 ≤ 6) {e : Nat} (he : e < 256) :
    ((State.widStep c w s v).vec c w.rd.toNat v)[e]? = some
      (if w.f.fn.toNat / 8 % 2 = 1 then (fmul (widen (w.f.fn.toNat % 8) ((s.widCodes c w v).getD e 0)) ((s.core c).rs w.f.x.toNat)).1
        else widen (w.f.fn.toNat % 8) ((s.widCodes c w v).getD e 0)) := by
  have hl : (s.widCodes c w v).length = 256 := length_bytesCodes h2 h6 _ _
  rw [State.widStep_eq, State.putLanes_lane hs c _ v hl _ 0 he]
  simp only [beq_iff_eq]
  split <;> rfl

end Lanes

/-! ## VRED (05 R135) -/

section Reduce
variable {fn : Nat} {op : F32 → F32 → F32} (hop : ∀ a b, (vredOp fn a b).1 = op a b)

theorem length_vredLanes {a b : List F32} {n : Nat} (ha : a.length = n) (hb : b.length = n) : (vredLanes fn a b).1.length = n := by
  simp [vredLanes, ha, hb]

include hop in
/-- Two lists combined lane by lane. -/
theorem vredLanes_getD {a b : List F32} {n l : Nat} (ha : a.length = n) (hb : b.length = n) (hl : l < n) :
    (vredLanes fn a b).1.getD l 0#32 = op (a.getD l 0#32) (b.getD l 0#32) := by
  have hz : l < (a.zip b).length := by rw [List.length_zip, ha, hb]; omega
  have := getD_zip ha hb hl 0#32 0#32
  rw [List.getD_eq_getElem _ _ hz] at this
  rw [← hop, List.getD_eq_getElem _ _ (by rw [length_vredLanes ha hb]; exact hl)]
  simp only [vredLanes, List.getElem_map, this]

/-- The lanes and the events after the first `k + 1` vectors. -/
def State.vredAcc (s : State) (c : Nat) (fn off k : Nat) : List F32 × Ev :=
  (List.range k).foldl (fun (p : List F32 × Ev) i =>
    ((vredLanes fn p.1 (s.vec c off (i + 1))).1, p.2.add (vredLanes fn p.1 (s.vec c off (i + 1))).2)) (s.vec c off 0, {})

/-- Lane `l` after the first `k + 1` vectors, in ascending order. -/
def State.vredLane (s : State) (c : Nat) (op : F32 → F32 → F32) (off k l : Nat) : F32 :=
  (List.range k).foldl (fun a v => op a ((s.vec c off (v + 1)).getD l 0#32)) ((s.vec c off 0).getD l 0#32)

theorem State.vredLane_succ (s : State) (c : Nat) (op : F32 → F32 → F32) (off k l : Nat) :
    s.vredLane c op off (k + 1) l = op (s.vredLane c op off k l) ((s.vec c off (k + 1)).getD l 0#32) := by
  rw [State.vredLane, List.range_succ, List.foldl_append]; rfl

include hop in
theorem State.vredAcc_getD (s : State) (c off k : Nat) :
    (s.vredAcc c fn off k).1.length = 256 ∧ ∀ l, l < 256 → (s.vredAcc c fn off k).1.getD l 0#32 = s.vredLane c op off k l := by
  induction k with
  | zero => exact ⟨s.length_vec c off 0, fun _ _ => rfl⟩
  | succ k ih =>
    have hstep : (s.vredAcc c fn off (k + 1)).1 = (vredLanes fn (s.vredAcc c fn off k).1 (s.vec c off (k + 1))).1 := by
      rw [State.vredAcc, List.range_succ, List.foldl_append]; rfl
    rw [hstep]
    refine ⟨length_vredLanes ih.1 (s.length_vec c off _), fun l hl => ?_⟩
    rw [vredLanes_getD hop ih.1 (s.length_vec c off _) hl, ih.2 l hl, State.vredLane_succ]

include hop in
/-- Halving from 128 lanes down to one. -/
theorem vredFold_getD {lane : Nat → F32} (n : Nat) (hn : n ≤ 8) (acc : List F32) (e : Ev) (hl : acc.length = 2 ^ n)
    (ha : ∀ i, i < 2 ^ n → acc.getD i 0#32 = halved op lane (8 - n) i) : (vredFold fn n acc e).1.getD 0 0#32 = halved op lane 8 0 := by
  induction n generalizing acc e with
  | zero => exact ha 0 (by decide)
  | succ n ih =>
    rw [pow_succ] at hl ha
    have ht : (acc.take (2 ^ n)).length = 2 ^ n := by rw [List.length_take]; omega
    have hd : (acc.drop (2 ^ n)).length = 2 ^ n := by rw [List.length_drop]; omega
    refine ih (by omega) _ _ (length_vredLanes ht hd) fun i hi => ?_
    change (vredLanes fn (acc.take (2 ^ n)) (acc.drop (2 ^ n))).1.getD i 0#32 = _
    have h1 : (acc.take (2 ^ n)).getD i 0#32 = acc.getD i 0#32 := by simp [List.getD_eq_getElem?_getD, hi]
    have h2 : (acc.drop (2 ^ n)).getD i 0#32 = acc.getD (i + 2 ^ n) 0#32 := by
      simp [List.getD_eq_getElem?_getD, List.getElem?_drop, Nat.add_comm]
    have h8 : 8 - n = (8 - (n + 1)) + 1 := by omega
    rw [vredLanes_getD hop ht hd hi, h1, h2, ha i (by omega), ha (i + 2 ^ n) (by omega), h8, halved,
      show 7 - (8 - (n + 1)) = n by omega]

end Reduce

/-- The last lane of VRED. -/
def State.vredX (s : State) (c : Nat) (w : VecWork) : F32 :=
  (vredFold w.f.fn.toNat 8 (s.vredAcc c w.f.fn.toNat w.ra.toNat (w.f.n - 1)).1 (s.vredAcc c w.f.fn.toNat w.ra.toNat (w.f.n - 1)).2).1.getD 0 0#32

/-- What VRED does with its lanes: all of them to memory, or the last one to a scale register or to memory. -/
theorem State.vred_cases (s : State) (c : Nat) (w : VecWork) : ∃ e, s.vred c w =
    (if w.f.misc.toNat % 2 = 1 then s.setVec c w.rd.toNat 0 (s.vredAcc c w.f.fn.toNat w.ra.toNat (w.f.n - 1)).1
      else if w.f.misc.toNat / 2 % 2 = 1 then s.modCore c fun k => k.setS w.f.x.toNat (s.vredX c w)
      else s.setCoreBytes c w.rd.toNat (f32Bytes [s.vredX c w])).coreArith c e false := by
  have h : s.vred c w =
      if w.f.misc.toNat % 2 == 1 then
        (s.setVec c w.rd.toNat 0 (s.vredAcc c w.f.fn.toNat w.ra.toNat (w.f.n - 1)).1).coreArith c
          (s.vredAcc c w.f.fn.toNat w.ra.toNat (w.f.n - 1)).2 false
      else
        (if w.f.misc.toNat / 2 % 2 == 1 then s.modCore c fun k => k.setS w.f.x.toNat (s.vredX c w)
          else s.setCoreBytes c w.rd.toNat (f32Bytes [s.vredX c w])).coreArith c
          (vredFold w.f.fn.toNat 8 (s.vredAcc c w.f.fn.toNat w.ra.toNat (w.f.n - 1)).1
            (s.vredAcc c w.f.fn.toNat w.ra.toNat (w.f.n - 1)).2).2 false := by
    unfold State.vredX State.vred
    dsimp only
    generalize hp : List.foldl _ _ (List.range (w.f.n - 1)) = p
    rw [show s.vredAcc c w.f.fn.toNat w.ra.toNat (w.f.n - 1) = p from hp]
  rw [h]
  simp only [beq_iff_eq]
  split
  · exact ⟨_, rfl⟩
  · exact ⟨_, rfl⟩

/-- The last lane of VRED is that of the halved lanes. -/
theorem State.vredX_eq (s : State) (c : Nat) (w : VecWork) {op : F32 → F32 → F32} (hop : ∀ a b, (vredOp w.f.fn.toNat a b).1 = op a b) :
    s.vredX c w = halved op (s.vredLane c op w.ra.toNat (w.f.n - 1)) 8 0 := by
  obtain ⟨hl, ha⟩ := s.vredAcc_getD hop c w.ra.toNat (w.f.n - 1)
  exact vredFold_getD hop 8 le_rfl _ _ hl fun i hi => ha i hi

/-! ### Reductions that pick a lane -/

section Pick
variable {op : F32 → F32 → F32} {S : F32 → Prop} {φ : F32 → Rat}
  (pick : ∀ a b, S a → S b → S (op a b) ∧ φ a ≤ φ (op a b) ∧ φ b ≤ φ (op a b))

include pick in
/-- A lane of the reduction is one of the operands, and none of the lane's operands is beyond it. -/
theorem State.vredLane_pick (s : State) (c off k l : Nat) (h : ∀ v, v ≤ k → S ((s.vec c off v).getD l 0#32)) :
    S (s.vredLane c op off k l) ∧ ∀ v, v ≤ k → φ ((s.vec c off v).getD l 0#32) ≤ φ (s.vredLane c op off k l) := by
  induction k with
  | zero => exact ⟨h 0 le_rfl, fun v hv => by rw [Nat.le_zero.1 hv]; exact le_rfl⟩
  | succ k ih =>
    obtain ⟨hS, hle⟩ := ih fun v hv => h v (hv.trans (Nat.le_succ k))
    rw [State.vredLane_succ]
    obtain ⟨h1, h2, h3⟩ := pick _ _ hS (h (k + 1) le_rfl)
    refine ⟨h1, fun v hv => ?_⟩
    rcases Nat.le_or_eq_of_le_succ hv with hv | rfl
    · exact (hle v hv).trans h2
    · exact h3

include pick in
/-- After `d` halvings each lane is one of the lanes, and every lane has one that is not below it. -/
theorem halved_pick {lane : Nat → F32} (h : ∀ l, l < 256 → S (lane l)) (d : Nat) (hd : d ≤ 8) :
    (∀ i, i < 2 ^ (8 - d) → S (halved op lane d i)) ∧
      ∀ l, l < 256 → ∃ i, i < 2 ^ (8 - d) ∧ φ (lane l) ≤ φ (halved op lane d i) := by
  induction d with
  | zero => exact ⟨h, fun l hl => ⟨l, hl, le_rfl⟩⟩
  | succ d ih =>
    obtain ⟨hS, hle⟩ := ih (by omega)
    have h2 : 2 ^ (8 - d) = 2 * 2 ^ (7 - d) := by rw [← pow_succ']; congr 1; omega
    have step := fun i (hi : i < 2 ^ (8 - (d + 1))) =>
      pick _ _ (hS i (by rw [h2]; rw [show 8 - (d + 1) = 7 - d by omega] at hi; omega))
        (hS (i + 2 ^ (7 - d)) (by rw [h2]; rw [show 8 - (d + 1) = 7 - d by omega] at hi; omega))
    refine ⟨fun i hi => (step i hi).1, fun l hl => ?_⟩
    obtain ⟨i, hi, hli⟩ := hle l hl
    rcases lt_or_ge i (2 ^ (8 - (d + 1))) with hlt | hge
    · exact ⟨i, hlt, hli.trans (step i hlt).2.1⟩
    · rw [show 8 - (d + 1) = 7 - d by omega] at hge
      have hj : i - 2 ^ (7 - d) < 2 ^ (8 - (d + 1)) := by rw [show 8 - (d + 1) = 7 - d by omega]; omega
      refine ⟨i - 2 ^ (7 - d), hj, hli.trans ?_⟩
      have := (step _ hj).2.2
      rwa [halved, Nat.sub_add_cancel hge] at *

end Pick

/-! ## Maximum, minimum, absolute value and negation (02 R46) -/

theorem toNat_and_mag (x : F32) : (x &&& 0x7FFFFFFF#32).toNat = f32Mag x := by
  rw [BitVec.toNat_and]; exact Nat.and_two_pow_sub_one_eq_mod _ 31

theorem f32Key_eq (x : F32) : f32Key x = if x.msb then -(f32Mag x : Int) - 1 else f32Mag x := by
  rw [f32Key, toNat_and_mag]
  cases h : x.msb
  · have : x.toNat = f32Mag x := by rw [f32_toNat, h]; rfl
    simp [this]
  · rfl

/-- The key orders finite values as their values are ordered. -/
theorem val_le_of_key_le {x y : F32} (hx : (f32 x).Finite) (hy : (f32 y).Finite) (h : f32Key x ≤ f32Key y) : (f32 x).val ≤ (f32 y).val := by
  rw [f32Key_eq, f32Key_eq] at h
  rw [f32_val hx, f32_val hy]
  have hx0 := magVal_nonneg 1 (f32Mag x)
  have hy0 := magVal_nonneg 1 (f32Mag y)
  cases hxm : x.msb <;> cases hym : y.msb <;> simp [hxm, hym, signFactor] at h ⊢
  · exact (magVal_strictMono 1).monotone h
  · omega
  · linarith
  · exact (magVal_strictMono 1).monotone h

theorem Num.Finite.ne_nan {a : Num} (h : a.Finite) : a ≠ .nan := by
  obtain ⟨s, m, e, rfl⟩ := h; exact Num.noConfusion

theorem fmax_finite {x y : F32} (hx : (f32 x).Finite) (hy : (f32 y).Finite) :
    (fmax x y = x ∨ fmax x y = y) ∧ (f32 (fmax x y)).val = max (f32 x).val (f32 y).val := by
  rw [fmax, if_neg (not_or.2 ⟨hx.ne_nan, hy.ne_nan⟩)]
  split_ifs with h
  · exact ⟨.inr rfl, (max_eq_right (val_le_of_key_le hx hy h.le)).symm⟩
  · exact ⟨.inl rfl, (max_eq_left (val_le_of_key_le hy hx (not_lt.1 h))).symm⟩

theorem fmin_finite {x y : F32} (hx : (f32 x).Finite) (hy : (f32 y).Finite) :
    (fmin x y = x ∨ fmin x y = y) ∧ (f32 (fmin x y)).val = min (f32 x).val (f32 y).val := by
  rw [fmin, if_neg (not_or.2 ⟨hx.ne_nan, hy.ne_nan⟩)]
  split_ifs with h
  · exact ⟨.inr rfl, (min_eq_right (val_le_of_key_le hy hx h.le)).symm⟩
  · exact ⟨.inl rfl, (min_eq_left (val_le_of_key_le hx hy (not_lt.1 h))).symm⟩

theorem fabs_finite {x : F32} (hx : (f32 x).Finite) : (f32 (fabs x)).val = |(f32 x).val| := by
  rw [fabs, if_neg hx.ne_nan]
  have hm : f32Mag (x &&& 0x7FFFFFFF#32) = f32Mag x := by
    rw [f32Mag, toNat_and_mag, Nat.mod_eq_of_lt (f32Mag_lt x)]
  have hs : (x &&& 0x7FFFFFFF#32).msb = false := by rw [BitVec.msb_and]; exact Bool.and_false _
  have fin : (f32 (x &&& 0x7FFFFFFF#32)).Finite := (f32_finite_iff _).2 (hm ▸ (f32_finite_iff x).1 hx)
  rw [f32_val fin, f32_val hx, hs, hm, signFactor_abs, abs_of_nonneg (magVal_nonneg _ _)]
  exact one_mul _

theorem fneg_finite {x : F32} (hx : (f32 x).Finite) : (f32 (fneg x)).val = -(f32 x).val := by
  rw [fneg, if_neg hx.ne_nan, f32_f32Neg, Num.val_flip]

/-! ## VANY (05 R136) -/

theorem f32IsZero_iff (x : F32) : f32IsZero x = true ↔ x = 0x00000000#32 ∨ x = 0x80000000#32 := by
  have h : f32IsZero x = true ↔ f32Mag x = 0 := by
    rw [f32IsZero, beq_iff_eq, ← BitVec.toNat_inj, toNat_and_mag]; rfl
  rw [h]
  constructor
  · intro h0
    cases hs : x.msb
    · exact .inl (f32_ext (y := 0x00000000#32) hs h0)
    · exact .inr (f32_ext (y := 0x80000000#32) hs h0)
  · rintro (rfl | rfl) <;> rfl

theorem f32Finite_iff (x : F32) : f32Finite x = true ↔ (f32 x).Finite := by
  unfold f32Finite
  rcases f32 x with _ | s | ⟨s, m, e⟩
  · simp [Num.not_finite_nan]
  · simp [Num.not_finite_inf]
  · simp [Num.finite_fin]

/-- The tests of VANY by FN. -/
theorem vanyTest_iff {fn : BitVec 8} (h : fn.toNat ≤ 3) (x : F32) :
    vanyTest fn.toNat x = true ↔ (fn = 0 ∧ f32 x = .nan) ∨ (fn = 1 ∧ ∃ b, f32 x = .inf b) ∨
      (fn = 2 ∧ x ≠ 0x00000000#32 ∧ x ≠ 0x80000000#32) ∨ (fn = 3 ∧ ¬ (f32 x).Finite) := by
  have hfn : fn = 0 ∨ fn = 1 ∨ fn = 2 ∨ fn = 3 := by
    revert fn; decide
  rcases hfn with rfl | rfl | rfl | rfl
  · simp [vanyTest]
  · simp only [vanyTest]
    rcases f32 x with _ | s | ⟨s, m, e⟩ <;> simp
  · have := f32IsZero_iff x
    simp [vanyTest, ← Bool.not_eq_true, this]
  · have := f32Finite_iff x
    simp [vanyTest, ← Bool.not_eq_true, this]

theorem State.vany_flag (s : State) (c : Nat) (w : VecWork) (h : w.f.fn.toNat ≤ 3) :
    (((s.vany c w).core c).rf w.f.d.toNat = true ↔ ∃ v x, v < w.f.n ∧ x ∈ s.vec c w.ra.toNat v ∧
      ((w.f.fn = 0 ∧ f32 x = .nan) ∨ (w.f.fn = 1 ∧ ∃ b, f32 x = .inf b) ∨ (w.f.fn = 2 ∧ x ≠ 0x00000000#32 ∧ x ≠ 0x80000000#32) ∨
        (w.f.fn = 3 ∧ ¬ (f32 x).Finite))) := by
  rw [State.vany, State.core_modCore, Core.rf_setF, List.any_eq_true]
  simp only [List.mem_range, List.any_eq_true, vanyTest_iff h]
  exact ⟨fun ⟨v, hv, x, hx, t⟩ => ⟨v, x, hv, hx, t⟩, fun ⟨v, x, hv, hx, t⟩ => ⟨v, hv, x, hx, t⟩⟩

/-! ## The statement -/

/-- Bytes outside a vector's place in a run, in the form of the statement. -/
theorem BytesOnly.vector {s t : State} {c off v : Nat} (h : BytesOnly s t (coreBase c + (off + 1024 * v)) 1024) :
    t.cores = s.cores ∧ ∀ a, (a < c * 0x800000 + off + 1024 * v ∨ c * 0x800000 + off + 1024 * v + 1024 ≤ a) →
      Mem.byte t.mem a = Mem.byte s.mem a := by
  rw [← Nat.add_assoc] at h
  exact ⟨h.cores, h.bytes⟩

/-- One vector of VOP: the frame, and each lane by FN (05 R134). -/
theorem vop_lanes {s : State} (hs : CleanStore s) (c : Nat) (w : VecWork) (v : Nat) {e : Nat} (he : e < 256) :
    let lane := fun (off : BitVec 64) => (s.vec c off.toNat v).getD e 0#32
    let x := (s.core c).rs w.f.x.toNat
    let r := ((State.vopStep c w s v).vec c w.rd.toNat v)[e]?
    (w.f.fn = 0 → r = some (fadd (lane w.ra) (lane w.rb)).1) ∧ (w.f.fn = 1 → r = some (fsub (lane w.ra) (lane w.rb)).1) ∧
    (w.f.fn = 2 → r = some (fmul (lane w.ra) (lane w.rb)).1) ∧ (w.f.fn = 3 → r = some (ffma (lane w.ra) (lane w.rb) (lane w.rd)).1) ∧
    (w.f.fn = 4 → r = some (fadd (lane w.ra) x).1) ∧ (w.f.fn = 5 → r = some (fmul (lane w.ra) x).1) ∧
    (w.f.fn = 6 → r = some (ffma (lane w.ra) x (lane w.rd)).1) ∧ (w.f.fn = 7 → r = some (ffma (lane w.ra) x (lane w.rb)).1) ∧
    (w.f.fn = 8 → r = some (fmax (lane w.ra) (lane w.rb))) ∧ (w.f.fn = 9 → r = some (fmin (lane w.ra) (lane w.rb))) ∧
    (w.f.fn = 10 → r = some (fmax (lane w.ra) x)) ∧ (w.f.fn = 11 → r = some (fabs (lane w.ra))) ∧
    (w.f.fn = 12 → r = some (fneg (lane w.ra))) ∧ (w.f.fn = 13 → r = some (lane w.ra)) ∧ (w.f.fn = 14 → r = some x) := by
  intro lane x r
  have hr : r = _ := State.vopStep_lane hs c w v he
  rw [hr]
  refine ⟨?_, ?_, ?_, ?_, ?_, ?_, ?_, ?_, ?_, ?_, ?_, ?_, ?_, ?_, ?_⟩ <;> intro h <;> rw [h] <;> rfl

/-- One vector of ACT: each lane by mode (05 R137). -/
theorem act_lanes {s : State} (hs : CleanStore s) (c : Nat) (w : VecWork) (v : Nat) {e : Nat} (he : e < 256) :
    let lane := fun (off : BitVec 64) => (s.vec c off.toNat v).getD e 0#32
    let fn := w.f.fn.toNat % 16
    let r := ((State.actStep c w s v).vec c w.rd.toNat v)[e]?
    (w.f.fn.toNat < 16 → r = some (actF fn (lane w.ra)).1) ∧
    ∀ m, m = 1 ∨ m = 2 → w.f.fn.toNat / 16 = m → r = some (actLane m fn (Config.actFree fn m (lane w.ra) (lane w.rb)) (lane w.ra) (lane w.rb)).1 := by
  intro lane fn r
  have hr : r = _ := State.actStep_lane hs c w v he
  rw [hr]
  refine ⟨fun h => ?_, ?_⟩
  · rw [Nat.div_eq_of_lt h]; rfl
  · rintro m (rfl | rfl) h <;> rw [h] <;> rfl

/-- One vector of WID: the code widened, times S[X] where DS = 1 (05 R141). -/
theorem wid_lanes {s : State} (hs : CleanStore s) (c : Nat) (w : VecWork) (v : Nat) {e : Nat} (he : e < 256) :
    let f := w.f.fn.toNat % 8
    let code := (s.widCodes c w v).getD e 0
    let r := ((State.widStep c w s v).vec c w.rd.toNat v)[e]?
    2 ≤ f → f ≤ 6 → (w.f.fn.toNat < 8 → r = some (widen f code)) ∧
      (8 ≤ w.f.fn.toNat → w.f.fn.toNat < 16 → r = some (fmul (widen f code) ((s.core c).rs w.f.x.toNat)).1) := by
  intro f code r h2 h6
  have hr : r = _ := State.widStep_lane hs c w v h2 h6 he
  rw [hr]
  exact ⟨fun h => by rw [if_neg (by omega)], fun h8 h16 => by rw [if_pos (by omega)]⟩

/-- The operation of VRED by FN (05 R135). -/
theorem vredOp_eq {fn : BitVec 8} {op : F32 → F32 → F32}
    (h : (fn = 0 ∧ op = fun a b => (fadd a b).1) ∨ (fn = 1 ∧ op = fmax) ∨ (fn = 2 ∧ op = fmin) ∨ (fn = 3 ∧ op = fun a b => fmax (fabs a) (fabs b)))
    (a b : F32) : (vredOp fn.toNat a b).1 = op a b := by
  rcases h with ⟨rfl, rfl⟩ | ⟨rfl, rfl⟩ | ⟨rfl, rfl⟩ | ⟨rfl, rfl⟩ <;> rfl

section Vred
variable {s : State} (hs : CleanStore s) (c : Nat) (w : VecWork) {op : F32 → F32 → F32} (hop : ∀ a b, (vredOp w.f.fn.toNat a b).1 = op a b)

include hs hop in
/-- VRED with LANES = 1: the 256 lanes go to the vector at the destination. -/
theorem vred_lanes (h : w.f.misc.toNat % 2 = 1) :
    (∀ l, l < 256 → ((s.vred c w).vec c w.rd.toNat 0)[l]? = some (s.vredLane c op w.ra.toNat (w.f.n - 1) l)) ∧
      BytesOnly s (s.vred c w) (coreBase c + w.rd.toNat) 1024 := by
  obtain ⟨e, he⟩ := s.vred_cases c w
  obtain ⟨hl, ha⟩ := s.vredAcc_getD hop c w.ra.toNat (w.f.n - 1)
  rw [if_pos h] at he
  rw [he]
  refine ⟨fun l hlt => ?_, (State.setVec_bytesOnly hs c w.rd.toNat 0 hl.le).coreArith c e false⟩
  rw [State.vec_congr (State.coreArith_mem _ _ _ _), State.vec_setVec hs c _ 0 hl, List.getElem?_eq_getElem (hl ▸ hlt), ← ha l hlt,
    List.getD_eq_getElem]

include hop in
/-- VRED with TOS: the last lane goes to S[X] alone. -/
theorem vred_toScale (h : w.f.misc.toNat % 2 = 0) (h2 : w.f.misc.toNat / 2 % 2 = 1) :
    ((s.vred c w).core c).rs w.f.x.toNat = halved op (s.vredLane c op w.ra.toNat (w.f.n - 1)) 8 0 ∧ (s.vred c w).mem = s.mem ∧
      ∀ i, i ≠ w.f.x.toNat → ((s.vred c w).core c).rs i = (s.core c).rs i := by
  obtain ⟨e, he⟩ := s.vred_cases c w
  rw [if_neg (by omega), if_pos h2, s.vredX_eq c w hop] at he
  have hk : (s.vred c w).core c = (s.core c).setS w.f.x.toNat (halved op (s.vredLane c op w.ra.toNat (w.f.n - 1)) 8 0) := by
    rw [he, State.core, State.coreArith_cores]; exact s.core_modCore c _
  rw [hk]
  exact ⟨Core.rs_setS _ _ _, by rw [he, State.coreArith_mem, State.modCore_mem], fun i hi => Core.rs_setS_other _ _ hi.symm⟩

include hs hop in
/-- VRED otherwise: the last lane goes to the four bytes at the destination. -/
theorem vred_toMemory (h : w.f.misc.toNat % 2 = 0) (h2 : w.f.misc.toNat / 2 % 2 = 0) :
    Mem.read (s.vred c w).mem (coreBase c + w.rd.toNat) 4 = natLe 4 (halved op (s.vredLane c op w.ra.toNat (w.f.n - 1)) 8 0).toNat ∧
      BytesOnly s (s.vred c w) (coreBase c + w.rd.toNat) 4 := by
  obtain ⟨e, he⟩ := s.vred_cases c w
  rw [if_neg (by omega), if_neg (by omega), s.vredX_eq c w hop] at he
  rw [he]
  refine ⟨?_, (State.setCoreBytes_bytesOnly hs c w.rd.toNat (length_f32Bytes _).le).coreArith c e false⟩
  rw [State.coreArith_mem, State.setCoreBytes_clean hs]
  exact Mem.read_write s.mem _ (f32Bytes [_])

end Vred

/-- A reduction of finite lanes that picks one of two operands picks one of all lanes, and none is beyond it. -/
theorem vred_picks {s : State} (c : Nat) (w : VecWork) {op : F32 → F32 → F32} {φ : F32 → Rat}
    (pick : ∀ a b, (f32 a).Finite → (f32 b).Finite → (op a b = a ∨ op a b = b) ∧ φ a ≤ φ (op a b) ∧ φ b ≤ φ (op a b))
    (fin : ∀ v, v < w.f.n → ∀ y ∈ s.vec c w.ra.toNat v, (f32 y).Finite) :
    let x := halved op (s.vredLane c op w.ra.toNat (w.f.n - 1)) 8 0
    (∃ v, v < w.f.n ∧ x ∈ s.vec c w.ra.toNat v) ∧ ∀ v, v < w.f.n → ∀ y ∈ s.vec c w.ra.toNat v, φ y ≤ φ x := by
  intro x
  have hn : 0 < w.f.n := Nat.succ_pos _
  have pickS : ∀ a b, (∃ v, v < w.f.n ∧ a ∈ s.vec c w.ra.toNat v) → (∃ v, v < w.f.n ∧ b ∈ s.vec c w.ra.toNat v) →
      (∃ v, v < w.f.n ∧ op a b ∈ s.vec c w.ra.toNat v) ∧ φ a ≤ φ (op a b) ∧ φ b ≤ φ (op a b) := by
    rintro a b ⟨v, hv, ha⟩ ⟨u, hu, hb⟩
    obtain ⟨h | h, hle⟩ := pick a b (fin v hv a ha) (fin u hu b hb)
    · exact ⟨⟨v, hv, h.symm ▸ ha⟩, hle⟩
    · exact ⟨⟨u, hu, h.symm ▸ hb⟩, hle⟩
  have mem : ∀ v l, l < 256 → (s.vec c w.ra.toNat v).getD l 0#32 ∈ s.vec c w.ra.toNat v := fun v l hl => by
    rw [List.getD_eq_getElem _ _ (by rwa [State.length_vec])]; exact List.getElem_mem _
  have lanes := fun l (hl : l < 256) => State.vredLane_pick pickS s c w.ra.toNat (w.f.n - 1) l fun v hv => ⟨v, by omega, mem v l hl⟩
  obtain ⟨top, below⟩ := halved_pick pickS (fun l hl => (lanes l hl).1) 8 le_rfl
  refine ⟨top 0 (by decide), fun v hv y hy => ?_⟩
  obtain ⟨l, hl, rfl⟩ := List.mem_iff_getElem.1 hy
  rw [State.length_vec] at hl
  obtain ⟨i, hi, hle⟩ := below l hl
  have h1 := (lanes l hl).2 v (by omega)
  rw [List.getD_eq_getElem _ _ (by rwa [State.length_vec])] at h1
  have h0 : i = 0 := by simpa using hi
  subst h0
  exact h1.trans hle

/-- Settles O16: lanes by `putLanes_lane`, reductions by induction over the vectors and the halvings, the values of MAX and MIN through the key
that orders the codes. -/
theorem vectorLanesAndReductions : Obligations.VectorLanesAndReductions := by
  unfold Obligations.VectorLanesAndReductions
  refine ⟨fun c w s v e he hs => ?_, fun c w s op hs hfn => ?_, fun c w s => ?_⟩
  · intro lane x base keeps
    obtain ⟨act0, actm⟩ := act_lanes hs c w v he
    have code : s.widCodes c w v = bytesCodes (w.f.fn.toNat % 8)
        (Mem.read s.mem (c * 0x800000 + (w.ra.toNat + vecBytes (w.f.fn.toNat % 8) * v)) (vecBytes (w.f.fn.toNat % 8))) := rfl
    have wid := wid_lanes hs c w v he
    rw [code] at wid
    exact ⟨⟨(State.vopStep_frame hs c w v).vector, vop_lanes hs c w v he⟩, ⟨(State.actStep_frame hs c w v).vector, act0, actm⟩,
      (State.widStep_frame hs c w v).vector, wid⟩
  · intro lane t base x
    have hop := vredOp_eq hfn
    refine ⟨fun h => ?_, fun h h2 => vred_toScale c w hop h h2, fun h h2 => ?_, fun fin => ⟨fun h => ?_, fun h => ?_⟩⟩
    · obtain ⟨lanes, only⟩ := vred_lanes hs c w hop h
      exact ⟨lanes, only.cores, only.bytes⟩
    · obtain ⟨word, only⟩ := vred_toMemory hs c w hop h h2
      exact ⟨word, only.cores, only.bytes⟩
    · have hmax : op = fmax := by rw [h] at hfn; simpa using hfn
      subst hmax
      refine vred_picks (φ := fun y => (f32 y).val) c w (fun a b ha hb => ?_) fin
      obtain ⟨pick, val⟩ := fmax_finite ha hb
      exact ⟨pick, val ▸ le_max_left _ _, val ▸ le_max_right _ _⟩
    · have hmin : op = fmin := by rw [h] at hfn; simpa using hfn
      subst hmin
      have picks := vred_picks (φ := fun y => -(f32 y).val) c w (op := fmin) (fun a b ha hb => by
        obtain ⟨pick, val⟩ := fmin_finite ha hb
        exact ⟨pick, neg_le_neg (val ▸ min_le_left _ _), neg_le_neg (val ▸ min_le_right _ _)⟩) fin
      exact ⟨picks.1, fun v hv y hy => neg_le_neg_iff.1 (picks.2 v hv y hy)⟩
  · refine ⟨fun x y hx hy => ?_, by decide, by decide, by decide, by decide, fun x y h => ?_, fun x h => ?_, rfl, ?_, fun h => s.vany_flag c w h⟩
    · obtain ⟨max1, max2⟩ := fmax_finite hx hy
      obtain ⟨min1, min2⟩ := fmin_finite hx hy
      exact ⟨max1, max2, min1, min2, fabs_finite hx, fneg_finite hx⟩
    · exact ⟨if_pos h, if_pos h⟩
    · exact ⟨if_pos h, if_pos h⟩
    · rw [State.vany, State.core_modCore, Core.setF_a]

end Sys2Proof.Machine

/-! The cells of a product and the drain of an FP32 tile (02 R43, 05 R130, 04 R92). -/

namespace Sys2Proof.Machine
open Sys2Proof

/-! ## Cells (02 R43, 05 R130) -/

/-- The accumulator of a cell is the chain of its products, whatever events they raise. -/
theorem accCell_fst (acc : F32) (ps : List (Num × Num)) : (accCell acc ps).1 = ps.foldl (fun a p => (accMul a p.1 p.2).1) acc := by
  have chain : ∀ (ps : List (Num × Num)) (a : F32 × Ev),
      (ps.foldl (fun (a : F32 × Ev) p => let r := accMul a.1 p.1 p.2; (r.1, a.2.add r.2)) a).1 =
        ps.foldl (fun a p => (accMul a p.1 p.2).1) a.1 := by
    intro ps
    induction ps with
    | nil => exact fun _ => rfl
    | cons p ps ih => exact fun a => ih _
  exact chain ps _

/-- Cell (m, n) of a product. -/
theorem accTile_cell (init : List F32) (l r : List (List Num)) {m n : Nat} (hm : m < 64) (hn : n < 64) :
    (accTile init l r)[64 * m + n]? = some (accCell (init.getD (64 * m + n) 0#32) ((column l m).zip (column r n))) := by
  have hi : 64 * m + n < 4096 := by omega
  rw [accTile, List.getElem?_map, List.getElem?_range hi, Option.map_some, show (64 * m + n) / 64 = m by omega,
    show (64 * m + n) % 64 = n by omega]

/-! ## Rows of a tile (04 R92, 05 R120) -/

/-- Writes into the core store, one after the other. -/
theorem State.foldl_setCoreBytes {α : Type} (c : Nat) (off : α → Nat) (bs : α → List Byte) (xs : List α) {s : State} (h : CleanStore s) :
    xs.foldl (fun s x => s.setCoreBytes c (off x) (bs x)) s =
      { s with mem := Mem.writeAll s.mem (xs.map fun x => (coreBase c + off x, bs x)) } := by
  induction xs generalizing s with
  | nil => rfl
  | cons x xs ih => rw [List.foldl_cons, State.setCoreBytes_clean h, ih (h.setBytes _ _)]; rfl

/-- FP32 codes as the bytes of a row. -/
theorem codeBytes_f32 (xs : List F32) : codeBytes 1 (xs.map (·.toNat)) = f32Bytes xs := by
  induction xs with
  | nil => rfl
  | cons x xs ih =>
    cases xs with
    | nil => simp [codeBytes, f32Bytes, fmtBits, fmtExp, fmtMant]
    | cons y ys =>
      have h : codeBytes 1 ((x :: y :: ys).map (·.toNat)) = natLe 4 x.toNat ++ codeBytes 1 ((y :: ys).map (·.toNat)) := rfl
      rw [h, ih]; rfl

/-- Row `m` of the descaled values. -/
def drainRow (acc : List F32) (d : Nat → F32) (m : Nat) : List F32 := (List.range 64).map fun n => (fmul (acc.getD (64 * m + n) 0#32) (d n)).1

@[simp] theorem length_drainRow (acc : List F32) (d : Nat → F32) (m : Nat) : (drainRow acc d m).length = 64 := by simp [drainRow]

theorem getElem_drainRow (acc : List F32) (d : Nat → F32) (m : Nat) {n : Nat} (hn : n < (drainRow acc d m).length) :
    (drainRow acc d m)[n] = (fmul (acc.getD (64 * m + n) 0#32) (d n)).1 := by simp [drainRow]

/-- The lines of the descaled tile in row order. -/
theorem tileLines_drainValues (acc : List F32) (d : Nat → F32) :
    tileLines false (((drainValues acc d).map (·.1)).map (·.toNat)) = (List.range 64).map fun m => (drainRow acc d m).map (·.toNat) := by
  refine List.map_congr_left fun m hm => ?_
  simp only [drainRow, List.map_map]
  refine List.map_congr_left fun n hn => ?_
  rw [List.mem_range] at hm hn
  have hi : 64 * m + n < 4096 := by omega
  simp only [Bool.false_eq_true, if_false, List.getD_eq_getElem?_getD, drainValues, List.map_map, List.getElem?_map, List.getElem?_range hi,
    Option.map_some, Option.getD_some, Function.comp_apply, show (64 * m + n) % 64 = n by omega, Nat.mul_comm m 64]

/-- The writes of a drain of FP32 rows. -/
def drainWrites (c : Nat) (tout : BitVec 64) (acc : List F32) (d : Nat → F32) : List (Nat × List Byte) :=
  (List.range 64).map fun m => (coreBase c + (tOffset tout + m * rowStep tout), f32Bytes (drainRow acc d m))

/-- A drain into an FP32 tile in row order writes its 64 rows (04 R92). -/
theorem State.drain_f32 {s : State} (hs : CleanStore s) (c : Nat) (f : MF) (tl tr : BitVec 64) {tout : BitVec 64} (acc : List F32)
    (hf : tFmt tout = 1) (ho : tOrder tout = 0) :
    (s.drain c f tl tr tout acc).cores = s.cores ∧
      (s.drain c f tl tr tout acc).mem = Mem.writeAll s.mem (drainWrites c tout acc (s.descale c f tl tr tout)) := by
  set ys := drainValues acc (s.descale c f tl tr tout) with hys
  have hd : s.drain c f tl tr tout acc =
      (s.coreArith c (sumEv (·.2) ys) false).putTile c (tOffset tout) tout (tileLines false ((ys.map (·.1)).map (·.toNat))) := by
    simp only [State.drain, hf, beq_self_eq_true, if_true, State.writeTile, ho, ← hys]
  have zip : ((List.range 64).map fun m => (drainRow acc (s.descale c f tl tr tout) m).map (·.toNat)).zip (List.range 64) =
      (List.range 64).map fun m => ((drainRow acc (s.descale c f tl tr tout) m).map (·.toNat), m) := by
    have := List.zip_map' (f := fun m => (drainRow acc (s.descale c f tl tr tout) m).map (·.toNat)) (g := id) (l := List.range 64)
    rwa [List.map_id] at this
  rw [hd, State.putTile, hf, hys, tileLines_drainValues, zip, State.foldl_setCoreBytes c _ _ _ (hs.coreArith c _ _)]
  refine ⟨State.coreArith_cores _ _ _ _, ?_⟩
  simp only [State.coreArith_mem, List.map_map, Function.comp_def, codeBytes_f32, drainWrites]

theorem length_drainBytes (acc : List F32) (d : Nat → F32) (m : Nat) : (f32Bytes (drainRow acc d m)).length = 256 := by
  rw [length_f32Bytes, length_drainRow]

/-- Rows at least 256 bytes apart do not overlap. -/
theorem drainWrites_pairwise (c : Nat) {tout : BitVec 64} (acc : List F32) (d : Nat → F32) (h : 256 ≤ rowStep tout) :
    (drainWrites c tout acc d).Pairwise fun w v => Misses v w.1 w.2.length := by
  rw [drainWrites, List.pairwise_map]
  refine List.pairwise_lt_range.imp fun {m k} hlt => .inl ?_
  have := Nat.mul_le_mul_right (rowStep tout) (Nat.succ_le_of_lt hlt)
  rw [Nat.succ_mul] at this
  simp only [length_drainBytes]
  omega

/-- Settles O19: a cell is its chain of products, and a drain is 64 writes of rows that do not overlap. -/
theorem matrixCellsAndDrain : Obligations.MatrixCellsAndDrain := by
  unfold Obligations.MatrixCellsAndDrain
  refine ⟨fun init l r m n hm hn => ?_, fun c f tl tr tout acc s hf ho hstep hs _ => ?_⟩
  · rw [accTile_cell init l r hm hn, Option.map_some, accCell_fst]
    rfl
  · intro t row
    obtain ⟨hcores, hmem⟩ := State.drain_f32 hs c f tl tr acc hf ho
    have hrow : ∀ m, row m = coreBase c + (tOffset tout + m * rowStep tout) := fun m => Nat.add_assoc _ _ _
    refine ⟨hcores, fun m n hm hn => ?_, fun a ha => ?_⟩
    · have hw := Mem.read_writeAll_mem s.mem (drainWrites_pairwise c acc (s.descale c f tl tr tout) hstep)
        (List.mem_map_of_mem (List.mem_range.2 hm))
      simp only [length_drainBytes] at hw
      have hl : n < (drainRow acc (s.descale c f tl tr tout) m).length := by rwa [length_drainRow]
      rw [hrow, Mem.read_part t.mem _ (show 4 * n + 4 ≤ 256 by omega), hmem, hw, f32Bytes_part hl, getElem_drainRow]
    · rw [hmem, Mem.byte_writeAll_other]
      simp only [drainWrites, List.forall_mem_map, List.mem_range, Misses, length_drainBytes]
      intro m hm
      have := ha m hm
      rw [hrow] at this
      omega

end Sys2Proof.Machine

/-! The update of a weight: rules, generator, commit, and the bytes that an applied UPD writes (07 R168 to R172). -/

namespace Sys2Proof.Machine
open Sys2Proof

/-! ## The last place of a weight (07 R171) -/

theorem expOf_eq {m k : Nat} (lo : 2 ^ k ≤ m) (hi : m < 2 ^ (k + 1)) : expOf m = k := by
  rw [expOf, Nat.log2_eq_log_two, Nat.log_eq_of_pow_le_of_lt_pow lo hi]

/-- The exponent of the last place of a finite BF16 code. -/
theorem ulpExp_eq {w : Nat} (hw : w < 2 ^ 16) (hf : (decodeFmt 2 w).Finite) :
    ulpExp w = max (if (decodeFmt 2 w).val = 0 then -126 else Int.log 2 |(decodeFmt 2 w).val|) (-126) - 7 := by
  obtain ⟨neg, c, hc, rfl⟩ := exists_signed (f := 2) hw
  have hulp : ulpExp (signed 2 neg c) = max ((c / 128 : Nat) : Int) 1 - 134 := by
    have := signed_exponent neg hc
    simp only [fmtMant, fmtExp, Nat.reducePow] at this
    rw [ulpExp, this]
  have hlog : ∀ (m : Nat) (e : Int), m ≠ 0 → Int.log 2 |(Num.fin neg m e).val| = expOf m + e := fun m e hm => by
    rw [Num.val_fin, signFactor_abs, abs_of_pos (natCast_mul_zpow_pos hm e), expOf_add hm]
  obtain ⟨hmax, -⟩ := (finite_iff (by decide) (by decide) hc).1 hf
  have hd : decodeFmt 2 (signed 2 neg c) =
      if c / 128 = 0 then .fin neg c (-133) else .fin neg (128 + c % 128) (((c / 128 : Nat) : Int) - 134) := by
    rw [decodeFmt_signed neg hc, if_neg ((le_fmtMax_iff (by decide) (by decide) hc).1 hmax),
      if_neg (fun h => by rcases h.1 with h | h <;> cases h)]
    simp only [fmtMant, fmtBias, Nat.reducePow]
    norm_num [sub_sub]
  rw [hulp, hd]
  by_cases h0 : c / 128 = 0
  · rw [if_pos h0, h0]
    rcases eq_or_ne c 0 with rfl | hc0
    · simp [Num.val]
    · have : expOf c < 7 := by
        rw [expOf]; exact_mod_cast (Nat.log2_lt hc0).2 (by omega)
      rw [if_neg (mt (Num.val_fin_eq_zero _ _ _).1 hc0), hlog c _ hc0]
      omega
  · have hm : 128 + c % 128 ≠ 0 := by omega
    rw [if_neg h0, if_neg (mt (Num.val_fin_eq_zero _ _ _).1 hm), hlog _ _ hm, expOf_eq (k := 7) (by omega) (by omega)]
    omega

/-! ## The commit of a weight (07 R171) -/

/-- A signed whole multiple as a decoded value. -/
theorem Num.val_fin_int (i e : Int) : (Num.fin (decide (i < 0)) i.natAbs e).val = i * 2 ^ e := by
  rcases eq_or_ne i 0 with rfl | hi
  · simp [Num.val]
  · rw [Num.val_fin, intCast_mul_zpow hi]

/-- The exact sum of a commit. -/
theorem commitSum_fin {w : Nat} {d : F32} (hw : (decodeFmt 2 w).Finite) (hd : (f32 d).Finite) (c : Int) :
    ∃ neg m e, commitSum w c d = .fin neg m e ∧
      (Num.fin neg m e).val = (decodeFmt 2 w).val + (f32 d).val + c * (2 : Rat) ^ (-8 : Int) * (2 : Rat) ^ ulpExp w := by
  obtain ⟨a, m, e, hw⟩ := hw
  obtain ⟨b, n, g, hd⟩ := hd
  rw [commitSum, hw, hd]
  let p := addFin a m e b n g
  let q := addFin (decide (p.1 < 0)) p.1.natAbs p.2 (decide (c < 0)) c.natAbs (ulpExp w - 8)
  refine ⟨decide (q.1 < 0), q.1.natAbs, q.2, rfl, ?_⟩
  rw [Num.val_fin_int, addFin_val, Num.val_fin_int, Num.val_fin_int, addFin_val, mul_assoc, ← zpow_add₀ two_ne_zero, neg_add_eq_sub]

theorem commitSum_not_finite {w : Nat} {d : F32} (h : ¬ (decodeFmt 2 w).Finite ∨ ¬ (f32 d).Finite) (c : Int) :
    ∀ neg m e, commitSum w c d ≠ .fin neg m e := by
  intro neg m e he
  unfold commitSum at he
  split at he
  · cases he
  · cases he
  · split at he <;> cases he
  · cases he
  · cases he
  · next hw hd => exact h.elim (· (hw ▸ Num.finite_fin _ _ _)) (· (hd ▸ Num.finite_fin _ _ _))

/-- A finite value narrows to a finite code. -/
theorem narrowNum_finite {f : Nat} (h1 : 1 ≤ f) (h6 : f ≤ 6) (neg : Bool) (m : Nat) (e : Int) :
    (decodeFmt f (narrowNum f (.fin neg m e)).1).Finite := by
  rcases eq_or_ne m 0 with rfl | hm
  · exact (decode_signCode h1 h6 neg (Nat.zero_le _)).1
  · rw [narrowNum_fin f neg hm]
    exact (decode_signCode h1 h6 neg (min_le_right _ _)).1

/-- What the new weight leaves of the exact sum, in steps of 1/256 of its last place, with the random bits added. -/
theorem commitRemainder_eq (neg : Bool) (m : Nat) (e : Int) {w : Nat} (hw : (decodeFmt 2 w).Finite) (u : Nat) :
    commitRemainder neg m e w u =
      ⌊((Num.fin neg m e).val - (decodeFmt 2 w).val) / (2 : Rat) ^ ulpExp w * 256 + u * (2 : Rat) ^ (-16 : Int)⌋ := by
  obtain ⟨b, n, g, hw⟩ := hw
  have hneg : (Num.fin (!b) n g).val = -(Num.fin b n g).val := Num.val_flip (.fin b n g)
  have hu : (Num.fin false u (-16)).val = u * (2 : Rat) ^ (-16 : Int) := by rw [Num.val_fin]; exact one_mul _
  rw [commitRemainder, hw]
  simp only [floorShift_eq, addFin_val, Num.val_fin_int, hu]
  rw [zpow_add₀ two_ne_zero, zpow_sub₀ two_ne_zero, ← mul_assoc, ← mul_div_assoc, addFin_val, hneg, ← sub_eq_add_neg]
  norm_num

/-- The clauses of R171 for one weight. -/
theorem commitWeight_clauses (w : Nat) (c : Int) (d : F32) (u : Nat) :
    let r := commitWeight w c d u
    ((decodeFmt 2 w).Finite → (f32 d).Finite →
      let x : Rat := (decodeFmt 2 w).val + (f32 d).val + c * (2 : Rat) ^ (-8 : Int) * (2 : Rat) ^ ulpExp w
      let n : Int := ⌊(x - (decodeFmt 2 r.1).val) / (2 : Rat) ^ ulpExp r.1 * 256 + u * (2 : Rat) ^ (-16 : Int)⌋
      (∃ (neg : Bool) (m : Nat) (e : Int), (Num.fin neg m e).val = x ∧ r.1 = (narrowNum 2 (.fin neg m e)).1 ∧
        r.2.2.2 = (narrowNum 2 (.fin neg m e)).2) ∧
      r.2.1 = max (-128) (min 127 n) ∧ (r.2.2.1 = true ↔ n < -128 ∨ 127 < n)) ∧
    (¬ (decodeFmt 2 w).Finite ∨ ¬ (f32 d).Finite → r.2.1 = 0 ∧ r.2.2.1 = false) := by
  intro r
  refine ⟨fun hw hd => ?_, fun h => ?_⟩
  · obtain ⟨neg, m, e, hs, hx⟩ := commitSum_fin hw hd c
    have hr : r = ((narrowNum 2 (.fin neg m e)).1, max (-128) (min 127 (commitRemainder neg m e (narrowNum 2 (.fin neg m e)).1 u)),
        decide (commitRemainder neg m e (narrowNum 2 (.fin neg m e)).1 u < -128) ||
          decide (127 < commitRemainder neg m e (narrowNum 2 (.fin neg m e)).1 u), (narrowNum 2 (.fin neg m e)).2) := by
      change commitWeight w c d u = _
      rw [commitWeight, hs]
    have hn := commitRemainder_eq neg m e (narrowNum_finite (f := 2) (by decide) (by decide) neg m e) u
    rw [hx] at hn
    intro x n
    have hn' : n = commitRemainder neg m e (narrowNum 2 (.fin neg m e)).1 u := by rw [hn, ← congrArg Prod.fst hr]
    rw [hn', hr]
    exact ⟨⟨neg, m, e, hx, rfl, rfl⟩, rfl, by simp⟩
  · have hs := commitSum_not_finite h c
    change (commitWeight w c d u).2.1 = 0 ∧ (commitWeight w c d u).2.2.1 = false
    rw [commitWeight]
    cases hc : commitSum w c d with
    | nan => exact ⟨rfl, rfl⟩
    | inf s => exact ⟨rfl, rfl⟩
    | fin s m e => exact absurd hc (hs s m e)

/-! ## The rules (07 R169, R170) -/

theorem ruleStep_clauses (r : Rule) (i : RuleIn) (g w m1 m2 : F32) :
    let mul := fun a b => (fmul a b).1
    let fma := fun a b c => (ffma a b c).1
    let gs := mul (mul g i.invLs) i.gf
    let lr := i.lr ^^^ 0x80000000#32
    let out := ruleStep r i g w m1 m2
    (r.kind = 1 → out.d = mul lr (fma r.wd w gs)) ∧
    (r.kind = 2 → out.m1 = fma r.b1 m1 (fma r.wd w gs) ∧ out.d = mul lr out.m1) ∧
    (r.kind = 3 → out.m1 = fma r.b1 m1 (mul r.c1 gs) ∧ out.m2 = fma r.b2 m2 (mul r.c2 (mul gs gs)) ∧
      out.d = mul lr (fma r.wd w (fdiv (mul out.m1 i.bc1) (fadd (fsqrt (mul out.m2 i.bc2)).1 r.eps).1).1)) := by
  refine ⟨fun h => ?_, fun h => ?_, fun h => ?_⟩ <;> simp only [ruleStep, h] <;> simp only [f32Neg, and_self]

/-! ## The reciprocal of a power of two (07 R170) -/

theorem magVal_pow2 {E : Nat} (h : 1 ≤ E) : magVal 1 (E * 2 ^ 23) = 2 ^ ((E : Int) - 127) := by
  simp only [magVal, fmtMant, fmtBias]
  rw [Nat.mul_div_cancel _ (by decide), if_neg (by omega), Nat.mul_mod_left, Nat.add_zero,
    show (E : Int) - 127 = 23 + (E - 127 - 23) by ring, zpow_add₀ two_ne_zero]
  norm_num

theorem pow2F32_eq (x : Int) : pow2F32 x = f32Code false ((x + 127).toNat * 2 ^ 23) := by
  rw [f32Code, if_neg Bool.false_ne_true, Nat.add_zero, pow2F32]

theorem f32_pow2F32 {x : Int} (lo : -126 ≤ x) (hi : x ≤ 126) : f32 (pow2F32 x) = .fin false (2 ^ 23) (x - 23) := by
  have hE : (x + 127).toNat * 2 ^ 23 < 2 ^ 31 := by omega
  obtain ⟨-, hs, hg⟩ := f32_signed (neg := false) hE
  rw [pow2F32_eq, f32_decode, hs, hg, Nat.mul_div_cancel _ (by decide), if_neg (by omega), if_neg (by omega), Nat.mul_mod_left]
  congr 1
  omega

theorem divBits_self {a : Nat} (h : 0 < a) : divBits a a = (2 * 2 ^ (80 + Nat.log2 a), -((80 + Nat.log2 a : Nat) : Int) - 1) := by
  rw [divBits, Nat.mul_div_cancel_left _ h, Nat.mul_mod_right, if_pos (beq_self_eq_true 0), Nat.add_zero]

/-- The quotient of finite operands is rounded once. -/
theorem fdiv_fin {x y : F32} {a b : Bool} {m n : Nat} {e g : Int} (hx : f32 x = .fin a m e) (hy : f32 y = .fin b n g) (hn : n ≠ 0) :
    fdiv x y = roundF32 (a != b) (divBits m n).1 (e - g + (divBits m n).2) := by
  rw [fdiv, hx, hy]
  simp only [beq_iff_eq, hn, if_false]

/-- The reciprocal of a power of two is exact. -/
theorem invOf_pow2F32 {x : Int} (lo : -126 ≤ x) (hi : x ≤ 126) : invOf (pow2F32 x) = pow2F32 (-x) := by
  have hone : f32 0x3F800000#32 = .fin false (2 ^ 23) (-23) := by
    have := f32_pow2F32 (x := 0) (by decide) (by decide)
    simpa [pow2F32] using this
  have hcode : roundCode 1 false (2 ^ 104) (-23 - (x - 23) + -104) = (-x + 127).toNat * 2 ^ 23 := by
    apply roundCode_exact 1 false (pow_ne_zero 104 two_ne_zero)
    rw [magVal_pow2 (by omega), Nat.cast_pow, Nat.cast_ofNat, ← zpow_natCast, ← zpow_add₀ two_ne_zero]
    congr 1
    omega
  have hdiv : divBits (2 ^ 23) (2 ^ 23) = (2 ^ 104, -104) := by
    rw [divBits_self (pow_pos two_pos 23), Nat.log2_two_pow, ← pow_succ']
    norm_num
  rw [invOf, fdiv_fin hone (f32_pow2F32 lo hi) (pow_ne_zero 23 two_ne_zero), hdiv, bne_self_eq_false,
    roundF32_of_ne (pow_ne_zero 104 two_ne_zero), hcode, if_pos (by omega), pow2F32_eq]

/-! ## The generator (07 R172) -/

/-- `mix64` in whole numbers. -/
def mixNat (z : Nat) : Nat :=
  let y := (z ^^^ z / 2 ^ 30) * 0xBF58476D1CE4E5B9 % 2 ^ 64
  let x := (y ^^^ y / 2 ^ 27) * 0x94D049BB133111EB % 2 ^ 64
  x ^^^ x / 2 ^ 31

/-- A word mixed with its own upper bits. -/
theorem toNat_xor_shift (z : BitVec 64) (r : Nat) : (z ^^^ z >>> r).toNat = z.toNat ^^^ z.toNat / 2 ^ r := by
  rw [BitVec.toNat_xor, BitVec.toNat_ushiftRight, Nat.shiftRight_eq_div_pow]

theorem toNat_mul_ofNat (z : BitVec 64) {k : Nat} (h : k < 2 ^ 64) : (z * BitVec.ofNat 64 k).toNat = z.toNat * k % 2 ^ 64 := by
  rw [BitVec.toNat_mul, BitVec.toNat_ofNat, Nat.mod_eq_of_lt h]

theorem mix64_toNat (z : BitVec 64) : (mix64 z).toNat = mixNat z.toNat := by
  rw [mix64, mixNat, toNat_xor_shift, toNat_mul_ofNat _ (by norm_num), toNat_xor_shift, toNat_mul_ofNat _ (by norm_num), toNat_xor_shift]

theorem elementBits_eq (seed e : BitVec 64) {epoch : Nat} (tid : BitVec 32) (h : epoch < 2 ^ 48) :
    elementBits (tensorKey seed epoch tid) e =
      mixNat (mixNat (mixNat (mixNat ((seed.toNat + 0x9E3779B97F4A7C15) % 2 ^ 64) ^^^ epoch) ^^^ tid.toNat) ^^^ e.toNat) / 2 ^ 48 := by
  have hb := (mix64 (tensorKey seed epoch tid ^^^ e)).isLt
  have htid : (tid.setWidth 64).toNat = tid.toNat := by rw [BitVec.toNat_setWidth]; omega
  have hep : (BitVec.ofNat 64 epoch).toNat = epoch := by rw [BitVec.toNat_ofNat]; omega
  have hadd : (seed + 0x9E3779B97F4A7C15#64).toNat = (seed.toNat + 0x9E3779B97F4A7C15) % 2 ^ 64 := by
    rw [BitVec.toNat_add, BitVec.toNat_ofNat, Nat.add_mod_mod]
  rw [elementBits, BitVec.extractLsb'_toNat, Nat.shiftRight_eq_div_pow, Nat.mod_eq_of_lt (by omega), mix64_toNat, BitVec.toNat_xor,
    tensorKey, mix64_toNat, BitVec.toNat_xor, htid, mix64_toNat, BitVec.toNat_xor, hep, mix64_toNat, hadd]
end Sys2Proof.Machine

/-! The update of a weight: rules, generator, commit, and the bytes that an applied UPD writes (07 R168 to R172). -/

namespace Sys2Proof.Machine
open Sys2Proof

/-! ## Columns of rows: where the results of an UPD stand

A run of an UPD is a column, the results of one weight are a row of one cell from each column. -/

/-- A run of equal cells: where it begins, the bytes of a cell, and what is written to each. -/
structure Column where
  base : Nat
  size : Nat
  val : Nat → List Byte

/-- The write of the cell of row `j` in a core store that begins at `b`. -/
def Column.put (b j : Nat) (k : Column) : Nat × List Byte := (b + (k.base + k.size * j), k.val j)

/-- The cells of `n` rows of two columns do not overlap. -/
def Column.Apart (n : Nat) (k l : Column) : Prop := k.base + k.size * n ≤ l.base ∨ l.base + l.size * n ≤ k.base

/-- The writes of `n` rows, row by row. -/
def rowWrites (b : Nat) (ks : List Column) (n : Nat) : List (Nat × List Byte) := (List.range n).flatMap fun j => ks.map (Column.put b j)

theorem mem_rowWrites {b n : Nat} {ks : List Column} {w : Nat × List Byte} :
    w ∈ rowWrites b ks n ↔ ∃ j < n, ∃ k ∈ ks, k.put b j = w := by
  simp [rowWrites]

theorem rowWrites_succ (b : Nat) (ks : List Column) (n : Nat) : rowWrites b ks (n + 1) = rowWrites b ks n ++ ks.map (Column.put b n) := by
  simp [rowWrites, List.range_succ]

/-- A row's cell lies within the column. -/
theorem cell_le (size : Nat) {j n : Nat} (h : j < n) : size * j + size ≤ size * n := Nat.mul_le_mul_left size h

theorem Column.Apart.misses {k l : Column} {b n i j : Nat} (h : k.Apart n l) (hi : i < n) (hj : j < n) (hk : (k.val i).length = k.size) :
    Misses (k.put b i) (b + (l.base + l.size * j)) l.size := by
  have hi := cell_le k.size hi
  have hj := cell_le l.size hj
  simp only [Misses, Column.put, hk]
  rcases h with h | h <;> omega

/-- Cells of different rows of one column do not overlap. -/
theorem Column.misses_row {k : Column} {b i j : Nat} (h : i ≠ j) (hk : (k.val i).length = k.size) :
    Misses (k.put b i) (b + (k.base + k.size * j)) k.size := by
  simp only [Misses, Column.put, hk]
  rcases Nat.lt_or_gt_of_ne h with h | h
  · have := cell_le k.size h; omega
  · have := cell_le k.size h; omega

theorem Column.Apart.symm {n : Nat} {k l : Column} (h : k.Apart n l) : l.Apart n k := Or.symm h

section
variable {n : Nat} {ks : List Column} (apart : ks.Pairwise (Column.Apart n)) (len : ∀ k ∈ ks, ∀ j, (k.val j).length = k.size)
include apart len

theorem misses_cell {b i j : Nat} {k l : Column} (hk : k ∈ ks) (hl : l ∈ ks) (hij : i ≠ j) (hi : i < n) (hj : j < n) :
    Misses (k.put b i) (b + (l.base + l.size * j)) l.size := by
  by_cases h : k = l
  · exact h ▸ Column.misses_row hij (len k hk i)
  · have : Std.Symm (Column.Apart n) := ⟨fun _ _ => Column.Apart.symm⟩
    exact (apart.forall hk hl h).misses hi hj (len k hk i)

/-- The writes of the rows do not overlap. -/
theorem pairwise_rowWrites (b : Nat) : (rowWrites b ks n).Pairwise fun w v => Misses v w.1 w.2.length := by
  refine List.pairwise_flatMap.2 ⟨fun j hj => ?_, ?_⟩
  · rw [List.pairwise_map]
    refine (List.Pairwise.and_mem.1 apart).imp fun {k l} ⟨hk, hl, h⟩ => ?_
    have := h.symm.misses (b := b) (List.mem_range.1 hj) (List.mem_range.1 hj) (len l hl j)
    exact (len k hk j).symm ▸ this
  · refine (List.Pairwise.and_mem.1 List.nodup_range).imp fun {i j} ⟨hi, hj, hij⟩ w hw v hv => ?_
    obtain ⟨k, hk, rfl⟩ := List.mem_map.1 hw
    obtain ⟨l, hl, rfl⟩ := List.mem_map.1 hv
    have := misses_cell apart len (b := b) hl hk hij.symm (List.mem_range.1 hj) (List.mem_range.1 hi)
    exact (len k hk i).symm ▸ this

/-- Each cell is read back. -/
theorem read_rowWrites (m : Mem) (b : Nat) {j : Nat} {k : Column} (hk : k ∈ ks) (hj : j < n) :
    Mem.read (Mem.writeAll m (rowWrites b ks n)) (b + (k.base + k.size * j)) k.size = k.val j := by
  have := Mem.read_writeAll_mem m (pairwise_rowWrites apart len b) (mem_rowWrites.2 ⟨j, hj, k, hk, rfl⟩)
  rwa [Column.put, len k hk j] at this

/-- The cells of a later row read as before. -/
theorem read_rowWrites_later (m : Mem) (b : Nat) {i j : Nat} {k : Column} (hk : k ∈ ks) (hij : i ≤ j) (hj : j < n) :
    Mem.read (Mem.writeAll m (rowWrites b ks i)) (b + (k.base + k.size * j)) k.size = Mem.read m (b + (k.base + k.size * j)) k.size := by
  refine Mem.read_writeAll_other _ fun w hw => ?_
  obtain ⟨r, hr, l, hl, rfl⟩ := mem_rowWrites.1 hw
  exact misses_cell apart len hl hk (by omega) (by omega) hj

end

/-! ## One weight of an UPD (07 R168) -/

/-- What an UPD reads of one weight. -/
structure UpdRow where
  w : Nat
  o : Int
  g : F32
  m1 : F32
  m2 : F32

/-- The values of weight `j` in a core store that begins at `b`. -/
def UpdWork.row (u : UpdWork) (b : Nat) (m : Mem) (j : Nat) : UpdRow :=
  let mb := u.rule.momentBytes
  { w := leNat (Mem.read m (b + (u.aw + 2 * j)) 2)
    o := offcut ((Mem.read m (b + (u.ao + 1 * j)) 1).headD 0#8)
    g := readVal u.gBytes (Mem.read m (b + (u.ag + u.gBytes * j)) u.gBytes)
    m1 := if u.rule.moments ≥ 1 then readVal mb (Mem.read m (b + (u.am + mb * j)) mb) else 0#32
    m2 := if u.rule.moments ≥ 2 then readVal mb (Mem.read m (b + (u.am + mb * u.n + mb * j)) mb) else 0#32 }

/-- The rule applied to a row. -/
def UpdWork.out (u : UpdWork) (i : RuleIn) (r : UpdRow) : RuleOut := ruleStep u.rule i r.g (widen 2 r.w) r.m1 r.m2

/-- The commit of a row's weight. -/
def UpdWork.commit (u : UpdWork) (i : RuleIn) (key : BitVec 64) (r : UpdRow) (j : Nat) : Nat × Int × Bool × Ev :=
  commitWeight r.w r.o (u.out i r).d (elementBits key (u.ae + BitVec.ofNat 64 j))

/-- The columns of results, of the rows that the UPD reads. -/
def UpdWork.cols (u : UpdWork) (i : RuleIn) (key : BitVec 64) (row : Nat → UpdRow) : List Column :=
  let mb := u.rule.momentBytes
  [⟨u.aw, 2, fun j => natLe 2 (u.commit i key (row j) j).1⟩, ⟨u.ao, 1, fun j => [BitVec.ofInt 8 (u.commit i key (row j) j).2.1]⟩] ++
    (if u.rule.moments ≥ 1 then [⟨u.am, mb, fun j => (storeMoment mb (u.out i (row j)).m1).1⟩] else []) ++
    (if u.rule.moments ≥ 2 then [⟨u.am + mb * u.n, mb, fun j => (storeMoment mb (u.out i (row j)).m2).1⟩] else [])

/-- A state that differs in its contexts alone. -/
def CtxsOnly (s t : State) : Prop := ∃ xs, t = { s with ctxs := xs }

theorem CtxsOnly.refl (s : State) : CtxsOnly s s := ⟨s.ctxs, rfl⟩

theorem CtxsOnly.coreArith {s t : State} (h : CtxsOnly s t) (c : Nat) (e : Ev) (g : Bool) : CtxsOnly s (t.coreArith c e g) := by
  obtain ⟨xs, rfl⟩ := h
  obtain ⟨ys, h⟩ := State.coreArith_frame { s with ctxs := xs } c e g
  exact ⟨ys, h⟩

theorem CtxsOnly.modCtx {s t : State} (h : CtxsOnly s t) (n : Nat) (f : Ctx → Ctx) : CtxsOnly s (t.modCtx n f) := by
  obtain ⟨xs, rfl⟩ := h
  exact ⟨_, rfl⟩

/-- Stores of several runs of bytes in a core store, in turn. -/
def State.setCells (s : State) (c : Nat) (ws : List (Nat × List Byte)) : State := ws.foldl (fun s w => s.setCoreBytes c w.1 w.2) s

theorem State.setCells_clean {s : State} (h : CleanStore s) (c : Nat) (ws : List (Nat × List Byte)) :
    s.setCells c ws = { s with mem := Mem.writeAll s.mem (ws.map fun w => (coreBase c + w.1, w.2)) } := by
  induction ws generalizing s with
  | nil => rfl
  | cons w ws ih =>
    have step : s.setCells c (w :: ws) = (s.setBytes (coreBase c + w.1) w.2).setCells c ws := by
      rw [← State.setCoreBytes_clean h]; rfl
    rw [step, ih (h.setBytes _ _)]
    rfl

/-- The cell of row `j` in a core store. -/
def Column.cell (j : Nat) (k : Column) : Nat × List Byte := (k.base + k.size * j, k.val j)

/-- The events and the clamp of one weight are counted. -/
def UpdWork.charge (u : UpdWork) (c : Nat) (s : State) (e e' : Ev) (cl : Bool) : State :=
  let s := (s.coreArith c e false).coreArith c e' (u.gfmt == 2)
  if cl then
    match (s.core c).ctx with
    | some n => s.modCtx n fun k => k.modArith fun a => { a with clamped := satAdd 15 a.clamped 1 }
    | none => s
  else s

theorem UpdWork.charge_ctxsOnly (u : UpdWork) (c : Nat) (s : State) (e e' : Ev) (cl : Bool) : CtxsOnly s (u.charge c s e e' cl) := by
  have h := ((CtxsOnly.refl s).coreArith c e false).coreArith c e' (u.gfmt == 2)
  rw [UpdWork.charge]
  split
  · split
    · exact h.modCtx _ _
    · exact h
  · exact h

/-- One weight's results are stored in its row's cells, and its events and clamp are counted. -/
theorem State.updOne_eq (s : State) (c : Nat) (u : UpdWork) (i : RuleIn) (key : BitVec 64) (j : Nat) :
    ∃ e e' cl, State.updOne c u i key s j =
      u.charge c (s.setCells c ((u.cols i key (u.row (coreBase c) s.mem)).map (Column.cell j))) e e' cl := by
  have e1 : j * u.rule.momentBytes = u.rule.momentBytes * j := Nat.mul_comm ..
  have e2 : u.am + (u.n + j) * u.rule.momentBytes = u.am + u.rule.momentBytes * u.n + u.rule.momentBytes * j := by ring
  unfold State.updOne
  by_cases m1 : u.rule.moments ≥ 1 <;> by_cases m2 : u.rule.moments ≥ 2 <;>
    simp only [m1, m2, if_true, if_false, UpdWork.cols, UpdWork.commit, UpdWork.row, UpdWork.out, e1, e2, Nat.one_mul, State.coreBytes,
      State.bytes, State.setCells, Column.cell, List.map_cons, List.map_nil, List.foldl_cons, List.foldl_nil, List.cons_append,
      List.nil_append, UpdWork.charge] <;>
    exact ⟨_, _, _, rfl⟩

/-- What holds of each column. -/
theorem UpdWork.forall_mem_cols (u : UpdWork) (i : RuleIn) (key : BitVec 64) (row : Nat → UpdRow) {P : Column → Prop} :
    (∀ k ∈ u.cols i key row, P k) ↔
      P ⟨u.aw, 2, fun j => natLe 2 (u.commit i key (row j) j).1⟩ ∧ P ⟨u.ao, 1, fun j => [BitVec.ofInt 8 (u.commit i key (row j) j).2.1]⟩ ∧
      (u.rule.moments ≥ 1 → P ⟨u.am, u.rule.momentBytes, fun j => (storeMoment u.rule.momentBytes (u.out i (row j)).m1).1⟩) ∧
      (u.rule.moments ≥ 2 →
        P ⟨u.am + u.rule.momentBytes * u.n, u.rule.momentBytes, fun j => (storeMoment u.rule.momentBytes (u.out i (row j)).m2).1⟩) := by
  simp only [UpdWork.cols, List.forall_mem_append, List.forall_mem_cons, List.mem_ite_nil_right, and_imp, List.mem_singleton,
    forall_eq_apply_imp_iff, forall_eq, and_assoc]

/-- Only the row of the weight matters for its cells. -/
theorem UpdWork.cols_congr (u : UpdWork) (i : RuleIn) (key : BitVec 64) (b : Nat) {row row' : Nat → UpdRow} {j : Nat} (h : row j = row' j) :
    (u.cols i key row).map (Column.put b j) = (u.cols i key row').map (Column.put b j) := by
  simp only [UpdWork.cols, List.map_append, apply_ite (List.map (Column.put b j)), List.map_cons, List.map_nil, Column.put, h]

theorem State.updOne_clean {s : State} (h : CleanStore s) (c : Nat) (u : UpdWork) (i : RuleIn) (key : BitVec 64) (j : Nat) :
    CtxsOnly { s with mem := Mem.writeAll s.mem ((u.cols i key (u.row (coreBase c) s.mem)).map (Column.put (coreBase c) j)) }
      (State.updOne c u i key s j) := by
  obtain ⟨e, e', cl, he⟩ := s.updOne_eq c u i key j
  have := u.charge_ctxsOnly c (s.setCells c ((u.cols i key (u.row (coreBase c) s.mem)).map (Column.cell j))) e e' cl
  rwa [← he, State.setCells_clean h, List.map_map] at this

/-! ## The runs of an UPD that does not clash -/

/-- The gradients: read, never written. -/
def UpdWork.gradients (u : UpdWork) : Column := ⟨u.ag, u.gBytes, fun _ => []⟩

theorem UpdWork.reads_eq (u : UpdWork) (i : RuleIn) (key : BitVec 64) (row : Nat → UpdRow) :
    u.reads = (u.gradients :: u.cols i key row).map fun k => (k.base, k.size * u.n) := by
  have hm : u.rule.moments = 0 ∨ u.rule.moments = 1 ∨ u.rule.moments = 2 := by
    unfold Rule.moments; split <;> [simp; split <;> simp]
  rcases hm with hm | hm | hm <;>
    simp [UpdWork.reads, UpdWork.writes, UpdWork.gradients, UpdWork.cols, hm, List.range_succ, Nat.mul_comm]

theorem UpdWork.apart_of_clash_eq_false {u : UpdWork} (h : u.clash = false) (i : RuleIn) (key : BitVec 64) (row : Nat → UpdRow) :
    (u.gradients :: u.cols i key row).Pairwise (Column.Apart u.n) := by
  have hp : u.reads.Pairwise fun a b => overlaps b.1 b.2 a.1 a.2 = false := by
    rw [List.pairwise_iff_getElem]
    intro x y hx hy hxy
    simp only [UpdWork.clash, List.any_eq_false, List.mem_range] at h
    have := h y hy
    rw [Bool.not_eq_true, List.any_eq_false] at this
    simpa [hx, hy] using this x (List.mem_range.2 hxy)
  rw [u.reads_eq i key row, List.pairwise_map] at hp
  refine hp.imp fun {k l} hkl => ?_
  simp only [overlaps, Bool.and_eq_false_iff, decide_eq_false_iff_not, not_lt] at hkl
  exact hkl

/-- A moment has four bytes in FP32 and two in BF16. -/
theorem Rule.momentBytes_eq {r : Rule} (h : r.kind ≠ 1) : r.momentBytes = if r.mfmt = 1 then 4 else 2 := by
  simp [Rule.momentBytes, h]

theorem Rule.one_le_moments {r : Rule} : r.moments ≥ 1 ↔ r.kind ≠ 1 := by
  by_cases h : r.kind = 1
  · simp [Rule.moments, h]
  · by_cases h2 : r.kind = 2 <;> simp [Rule.moments, h, h2]

theorem Rule.two_le_moments {r : Rule} (h1 : 1 ≤ r.kind) (h3 : r.kind ≤ 3) : r.moments ≥ 2 ↔ r.kind = 3 := by
  obtain h | h | h : r.kind = 1 ∨ r.kind = 2 ∨ r.kind = 3 := by omega
  all_goals simp [Rule.moments, h]

theorem length_storeMoment {r : Rule} (h : r.moments ≥ 1) (x : F32) : (storeMoment r.momentBytes x).1.length = r.momentBytes := by
  rw [Rule.momentBytes_eq (Rule.one_le_moments.1 h)]
  split <;> simp [storeMoment]

theorem UpdWork.length_cols (u : UpdWork) (i : RuleIn) (key : BitVec 64) (row : Nat → UpdRow) :
    ∀ k ∈ u.cols i key row, ∀ j, (k.val j).length = k.size :=
  (u.forall_mem_cols i key row).2 ⟨fun _ => length_natLe 2 _, fun _ => rfl, fun h _ => length_storeMoment h _,
    fun h _ => length_storeMoment (by omega) _⟩

/-! ## The weights of an UPD in turn -/

section
variable {u : UpdWork} (h : u.clash = false) (i : RuleIn) (key : BitVec 64) (row : Nat → UpdRow)
include h

/-- A weight that is still to come reads as at the beginning. -/
theorem UpdWork.row_rowWrites (b : Nat) (m : Mem) {k j : Nat} (hk : k ≤ j) (hj : j < u.n) :
    u.row b (Mem.writeAll m (rowWrites b (u.cols i key row) k)) j = u.row b m j := by
  have apart := UpdWork.apart_of_clash_eq_false h i key row
  rw [List.pairwise_cons] at apart
  obtain ⟨grad, apart⟩ := apart
  have len := u.length_cols i key row
  have cell : ∀ col ∈ u.cols i key row, Mem.read (Mem.writeAll m (rowWrites b (u.cols i key row) k)) (b + (col.base + col.size * j)) col.size =
      Mem.read m (b + (col.base + col.size * j)) col.size :=
    fun col hc => read_rowWrites_later apart len m b hc hk hj
  have hg : Mem.read (Mem.writeAll m (rowWrites b (u.cols i key row) k)) (b + (u.ag + u.gBytes * j)) u.gBytes =
      Mem.read m (b + (u.ag + u.gBytes * j)) u.gBytes := by
    refine Mem.read_writeAll_other _ fun w hw => ?_
    obtain ⟨r, hr, col, hc, rfl⟩ := mem_rowWrites.1 hw
    exact (grad col hc).symm.misses (l := u.gradients) (by omega) hj (len col hc r)
  generalize Mem.writeAll m (rowWrites b (u.cols i key row) k) = m' at cell hg ⊢
  obtain ⟨hw, ho, h1, h2⟩ := (u.forall_mem_cols i key row).1 cell
  simp only [UpdWork.row, hg, hw, ho]
  congr 1
  · exact ite_congr rfl (fun hm => by rw [h1 hm]) fun _ => rfl
  · exact ite_congr rfl (fun hm => by rw [h2 hm]) fun _ => rfl

theorem foldl_updOne {s : State} (hs : CleanStore s) (c : Nat) {k : Nat} (hk : k ≤ u.n) :
    CtxsOnly { s with mem := Mem.writeAll s.mem (rowWrites (coreBase c) (u.cols i key (u.row (coreBase c) s.mem)) k) }
      ((List.range k).foldl (State.updOne c u i key) s) := by
  induction k with
  | zero => exact CtxsOnly.refl s
  | succ k ih =>
    obtain ⟨xs, ih⟩ := ih (by omega)
    rw [List.range_succ, List.foldl_append, ih, rowWrites_succ, Mem.writeAll_append,
      u.cols_congr i key (coreBase c) (UpdWork.row_rowWrites h i key _ (coreBase c) s.mem le_rfl hk).symm]
    exact State.updOne_clean (s := { s with mem := _, ctxs := xs }) ⟨hs.bad, hs.arm, hs.rst⟩ c u i key k

/-- An UPD applied over good words: its cells are written, its entry stands in phase 1, and beyond that only contexts change. -/
theorem State.updApply_clean {s : State} (hs : CleanStore s) (c n : Nat) (run : Run) :
    let i := (s.core c).ruleIn u.rule (invOf ((s.ctx n).step.lossScale run))
    let key := tensorKey (s.ctx n).step.seed run.epoch u.tid
    ∃ xs, s.updApply c n run u =
      State.modCore { s with mem := Mem.writeAll s.mem (rowWrites (coreBase c) (u.cols i key (u.row (coreBase c) s.mem)) u.n), ctxs := xs } c
        fun k => k.headPhase 1 := by
  intro i key
  obtain ⟨xs, hx⟩ := foldl_updOne h i key hs c le_rfl
  refine ⟨xs, ?_⟩
  rw [State.updApply, State.badRuns_clean hs, State.meetWords]
  simp only [h, Bool.false_eq_true, if_false]
  rw [← hx]

end

/-! ## The bytes that an applied UPD writes, and R168 to R172 together -/

/-- A value of four bytes in FP32, of two in BF16. -/
def valueAt (m : Mem) (k a : Nat) : F32 := if k = 4 then BitVec.ofNat 32 (leNat (Mem.read m a 4)) else widen 2 (leNat (Mem.read m a 2))

theorem readVal_eq {k : Nat} (h : k = 4 ∨ k = 2) (m : Mem) (a : Nat) : readVal k (Mem.read m a k) = valueAt m k a := by
  obtain rfl | rfl := h <;> rfl

theorem storeMoment_eq (k : Nat) (x : F32) : (storeMoment k x).1 = if k = 4 then natLe 4 x.toNat else natLe 2 (narrowNum 2 (f32 x)).1 := by
  by_cases h : k = 4 <;> simp [storeMoment, h, toBf16]

/-- The values of weight `j` by the rule's kind. -/
theorem UpdWork.row_eq {u : UpdWork} (h1 : 1 ≤ u.rule.kind) (h3 : u.rule.kind ≤ 3) (b : Nat) (m : Mem) (j : Nat) :
    let mb := if u.rule.mfmt = 1 then 4 else 2
    let gb := if u.gfmt = 3 then 4 else 2
    u.row b m j =
      { w := leNat (Mem.read m (b + u.aw + 2 * j) 2)
        o := (Mem.byte m (b + u.ao + j)).toInt
        g := valueAt m gb (b + (u.ag + gb * j))
        m1 := if u.rule.kind = 1 then 0#32 else valueAt m mb (b + (u.am + j * mb))
        m2 := if u.rule.kind = 3 then valueAt m mb (b + (u.am + (u.n + j) * mb)) else 0#32 } := by
  intro mb gb
  have hg : u.gBytes = gb := by simp [UpdWork.gBytes, gb]
  have two : ∀ p : Prop, [Decidable p] → (if p then 4 else 2) = 4 ∨ (if p then 4 else 2) = 2 := fun p _ => by split <;> simp
  simp only [UpdWork.row, Rule.one_le_moments, Rule.two_le_moments h1 h3, hg, Nat.one_mul]
  congr 1
  · rw [← Nat.add_assoc]
  · rw [← Nat.add_assoc]; rfl
  · exact readVal_eq (two _) _ _
  · rw [ite_not]
    refine ite_congr rfl (fun _ => rfl) fun hk => ?_
    rw [Rule.momentBytes_eq hk, readVal_eq (two _), Nat.mul_comm]
  · refine ite_congr rfl (fun hk => ?_) fun _ => rfl
    rw [Rule.momentBytes_eq (by omega), readVal_eq (two _), Nat.add_mul, Nat.mul_comm u.n, Nat.mul_comm j, Nat.add_assoc u.am]

section
variable {s : State} (hs : CleanStore s) {u : UpdWork} (h : u.clash = false) (c n : Nat) (run : Run)
include hs h

/-- An applied UPD leaves its results in their cells. -/
theorem read_updApply {k : Column} {j : Nat} (hj : j < u.n)
    (hk : k ∈ u.cols ((s.core c).ruleIn u.rule (invOf ((s.ctx n).step.lossScale run))) (tensorKey (s.ctx n).step.seed run.epoch u.tid)
      (u.row (coreBase c) s.mem)) :
    Mem.read (s.updApply c n run u).mem (coreBase c + (k.base + k.size * j)) k.size = k.val j := by
  obtain ⟨xs, hx⟩ := State.updApply_clean h hs c n run
  rw [hx, State.modCore_mem]
  exact read_rowWrites (List.pairwise_cons.1 (UpdWork.apart_of_clash_eq_false h _ _ _)).2 (u.length_cols _ _ _) s.mem (coreBase c) hk hj

/-- A byte outside the cells of an applied UPD stays. -/
theorem byte_updApply {a : Nat}
    (ha : ∀ j < u.n, ∀ k ∈ u.cols ((s.core c).ruleIn u.rule (invOf ((s.ctx n).step.lossScale run)))
      (tensorKey (s.ctx n).step.seed run.epoch u.tid) (u.row (coreBase c) s.mem),
      a < coreBase c + (k.base + k.size * j) ∨ coreBase c + (k.base + k.size * j) + k.size ≤ a) :
    Mem.byte (s.updApply c n run u).mem a = Mem.byte s.mem a := by
  obtain ⟨xs, hx⟩ := State.updApply_clean h hs c n run
  rw [hx, State.modCore_mem]
  refine Mem.byte_writeAll_other _ fun w hw => ?_
  obtain ⟨j, hj, k, hk, rfl⟩ := mem_rowWrites.1 hw
  rw [Misses, Column.put, u.length_cols _ _ _ k hk j]
  exact ha j hj k hk

/-- An applied UPD's entry stands in phase 1; no other core changes. -/
theorem core_updApply : (s.updApply c n run u).core c = (s.core c).headPhase 1 ∧ ∀ x, x ≠ c → (s.updApply c n run u).core x = s.core x := by
  obtain ⟨xs, hx⟩ := State.updApply_clean h hs c n run
  rw [hx]
  exact ⟨State.core_modCore _ _ _, fun x hne => State.core_modCore_other _ _ hne.symm⟩

end

/-- Settles O23: the rules, the generator and the commit are taken each by its own lemma; an UPD that is applied writes the cells of its
rows one after another, and since its runs do not overlap a row still to come reads as at the beginning. -/
theorem weightCommit : Obligations.WeightCommit := by
  refine ⟨fun _ hw hf => by rw [ulpExp_eq hw hf], fun w c d u _ _ _ _ => commitWeight_clauses w c d u, ruleStep_clauses,
    fun _ lo hi => invOf_pow2F32 lo hi, fun seed e _ tid h => elementBits_eq seed e tid h, ?_⟩
  intro c n run s u hs hc h1 h3 _ b t i mb gb read stored
  have hmb : u.rule.kind ≠ 1 → u.rule.momentBytes = mb := Rule.momentBytes_eq
  have at1 : ∀ j, b + u.am + j * mb = b + (u.am + mb * j) := fun j => by ring
  have at2 : ∀ j, b + u.am + (u.n + j) * mb = b + (u.am + mb * u.n + mb * j) := fun j => by ring
  refine ⟨fun j hj => ?_, fun a ha => byte_updApply hs hc c.val n run fun j hj => ?_, core_updApply hs hc c.val n run⟩
  · intro w m1 m2 out cw
    have hrow : u.row (coreBase c.val) s.mem j = ⟨w, (Mem.byte s.mem (b + u.ao + j)).toInt, read gb (u.ag + gb * j), m1, m2⟩ :=
      UpdWork.row_eq h1 h3 _ _ _
    obtain ⟨hw, ho, hm1, hm2⟩ := (u.forall_mem_cols _ _ _).1 fun k hk => read_updApply hs hc c.val n run hj hk
    simp only [hrow, Nat.one_mul] at hw ho hm1 hm2
    rw [Rule.one_le_moments] at hm1
    rw [Rule.two_le_moments h1 h3] at hm2
    refine ⟨?_, ?_, fun hk => ?_, fun hk => ?_⟩
    · rw [Nat.add_assoc]; exact hw
    · rw [Nat.add_assoc]; exact List.head_eq_of_cons_eq ho
    · have := hm1 hk
      rw [hmb hk, storeMoment_eq] at this
      rw [at1]; exact this
    · have := hm2 hk
      rw [hmb (by omega), storeMoment_eq] at this
      rw [at2]; exact this
  · obtain ⟨hw, ho, hm1, hm2⟩ := ha j hj
    rw [u.forall_mem_cols, Rule.one_le_moments, Rule.two_le_moments h1 h3]
    refine ⟨?_, ?_, fun hk => ?_, fun hk => ?_⟩
    · rw [Nat.add_assoc] at hw; exact hw
    · have : a ≠ coreBase c.val + u.ao + j := ho
      change a < coreBase c.val + (u.ao + 1 * j) ∨ coreBase c.val + (u.ao + 1 * j) + 1 ≤ a
      omega
    · have := hm1 hk
      rw [at1] at this
      rw [hmb hk]; exact this
    · have := hm2 hk
      rw [at2] at this
      rw [hmb (by omega)]; exact this

end Sys2Proof.Machine

/-! MMA at its issue, the last k step, the drain's end and the shadow check (05 R117, R129 to R132, 04 R91, R93, 03 R75, R76). -/

namespace Sys2Proof.Machine
open Sys2Proof

/-! ## A pump that finds nothing to start (04 R98) -/

theorem State.startVq_nil {s : State} {c : Nat} (h : (s.core c).vq = []) : s.startVq c = none := by simp [State.startVq, h]

theorem State.startDq_nil {s : State} {c : Nat} (h : (s.core c).dq = []) : s.startDq c = none := by simp [State.startDq, h]

theorem State.pump_nil {s : State} {c : Nat} (hv : (s.core c).vq = []) (hd : (s.core c).dq = []) : s.pump c = s := by
  simp [State.pump, State.pumpN, State.startVq_nil hv, State.startDq_nil hd]

/-! ## The queues of the two arrays (04 R499) -/

section
variable {q : Nat} (h : q < 2) (k : Core) (l : List QEntry)
include h

theorem Core.setQueue_array_vq : (k.setQueue q l).vq = k.vq := by
  obtain rfl | rfl : q = 0 ∨ q = 1 := by omega
  all_goals rfl

theorem Core.setQueue_array_dq : (k.setQueue q l).dq = k.dq := by
  obtain rfl | rfl : q = 0 ∨ q = 1 := by omega
  all_goals rfl

theorem Core.queue_setQueue_array : (k.setQueue q l).queue q = l := by
  obtain rfl | rfl : q = 0 ∨ q = 1 := by omega
  all_goals rfl

theorem Core.setQueue_pc : (k.setQueue q l).pc = k.pc := by
  obtain rfl | rfl : q = 0 ∨ q = 1 := by omega
  all_goals rfl

end

theorem IdleCore.queue_array {k : Core} (h : IdleCore k) {q : Nat} (hq : q < 2) : k.queue q = [] := by
  obtain rfl | rfl : q = 0 ∨ q = 1 := by omega
  · exact h.mq0
  · exact h.mq1

/-- The work of a core whose one array instruction stands in the queue of array `arr`. -/
theorem Core.work_of_queue {k : Core} {arr : Fin 2} {e : QEntry} (hq : k.queue arr.val = [e]) (hv : k.vq = [])
    (h0 : arr.val = 0 → k.mq1 = []) (h1 : arr.val = 1 → k.mq0 = []) : k.work = [e] := by
  obtain ha | ha : arr.val = 0 ∨ arr.val = 1 := by omega
  · have hm : k.mq0 = [e] := by rwa [ha] at hq
    simp [Core.work, hv, hm, h0 ha]
  · have hm : k.mq1 = [e] := by rwa [ha] at hq
    simp [Core.work, hv, hm, h1 ha]

/-- An instruction does not hold itself. -/
theorem Core.heldBy_alone {k : Core} {e : QEntry} (h : k.work = [e]) (reads writes : List Res) : k.heldBy e.seq reads writes = false := by
  simp [Core.heldBy, h]

/-! ## MMA at its issue (05 R129 to R131) -/

/-- What a core hands over for an MMA. -/
def Core.mmaEntry (k : Core) (w : MF) : QEntry :=
  let tl := k.rt w.tl.toNat
  let tr := k.rt w.tr.toNat
  let tout := k.rt w.tout.toNat
  let ti := k.rt w.ti.toNat
  { seq := k.nextSeq, pc := k.pc, word := encodeM w, work := .mma w tl tr tout ti (SMap.get 0 k.tilesPO (tSlot tout)),
    reads := k.mmaReads w tl tr tout ti, writes := mmaWrites w tout, phase := 0 }

/-- A core with an empty array queue that has handed an MMA over. -/
def Core.mmaIssued (k : Core) (w : MF) : Core :=
  (({ (k.setQueue w.arr.toNat [k.mmaEntry w]).next with nextSeq := k.nextSeq + 1 } : Core).noteKeep w).noteTileNo w
    (k.rt w.tl.toNat) (k.rt w.tout.toNat)

theorem Core.noteTileNo_frame (k : Core) (w : MF) (tl tout : BitVec 64) : ∃ m, k.noteTileNo w tl tout = { k with tilesPO := m } := by
  unfold Core.noteTileNo
  split
  · exact ⟨k.tilesPO, rfl⟩
  · exact ⟨_, rfl⟩

theorem Core.noteKeep_frame (k : Core) (w : MF) :
    ∃ a b c d, k.noteKeep w = { k with keep0 := a, owe0 := b, keep1 := c, owe1 := d } := by
  by_cases h : w.arr = 1#1
  · exact ⟨k.keep0, k.owe0, _, _, if_pos h⟩
  · exact ⟨_, _, k.keep1, k.owe1, if_neg h⟩

theorem Core.kept_noteKeep (k : Core) (w : MF) : (k.noteKeep w).kept w.arr.toNat = decide (w.keep = 1) := by
  obtain ha | ha : w.arr = 0 ∨ w.arr = 1 := by bv_omega
  all_goals
    rw [Core.noteKeep, ha]
    rfl

section
variable (k : Core) (w : MF)

theorem Core.mmaIssued_frame : ∃ m a b c d, k.mmaIssued w =
    { (k.setQueue w.arr.toNat [k.mmaEntry w]).next with
      nextSeq := k.nextSeq + 1, tilesPO := m, keep0 := a, owe0 := b, keep1 := c, owe1 := d } := by
  obtain ⟨a, b, c, d, hk⟩ := Core.noteKeep_frame { (k.setQueue w.arr.toNat [k.mmaEntry w]).next with nextSeq := k.nextSeq + 1 } w
  obtain ⟨m, hm⟩ := Core.noteTileNo_frame _ w (k.rt w.tl.toNat) (k.rt w.tout.toNat)
  exact ⟨m, a, b, c, d, by rw [Core.mmaIssued, hm, hk]⟩

theorem Core.mmaIssued_kept : (k.mmaIssued w).kept w.arr.toNat = decide (w.keep = 1) := by
  obtain ⟨m, hm⟩ := Core.noteTileNo_frame _ w (k.rt w.tl.toNat) (k.rt w.tout.toNat)
  rw [← Core.kept_noteKeep, Core.mmaIssued, hm]
  rfl

theorem Core.mmaIssued_queue : (k.mmaIssued w).queue w.arr.toNat = [k.mmaEntry w] := by
  obtain ⟨m, a, b, c, d, h⟩ := k.mmaIssued_frame w
  rw [h]
  exact Core.queue_setQueue_array w.arr.isLt k _

theorem Core.mmaIssued_pc : (k.mmaIssued w).pc = k.pc + 1 := by
  obtain ⟨m, a, b, c, d, h⟩ := k.mmaIssued_frame w
  rw [h]
  exact congrArg (· + 1) (Core.setQueue_pc w.arr.isLt k _)

theorem Core.mmaIssued_nextSeq : (k.mmaIssued w).nextSeq = k.nextSeq + 1 := by
  obtain ⟨m, a, b, c, d, h⟩ := k.mmaIssued_frame w
  rw [h]

theorem Core.mmaIssued_vq : (k.mmaIssued w).vq = k.vq := by
  obtain ⟨m, a, b, c, d, h⟩ := k.mmaIssued_frame w
  rw [h]
  exact Core.setQueue_array_vq w.arr.isLt k _

theorem Core.mmaIssued_dq : (k.mmaIssued w).dq = k.dq := by
  obtain ⟨m, a, b, c, d, h⟩ := k.mmaIssued_frame w
  rw [h]
  exact Core.setQueue_array_dq w.arr.isLt k _

end

section
variable {c : CoreId} {s : State} {w : MF} (hw : w.rest = 0) (hi : AtInsn s c.val (encodeM w))
include hw hi

/-- The issue check lets an MMA with its unused bits 0 through to the check of its tiles. -/
theorem State.issue_mma (body : State → State) : s.issue c.val (encodeM w) (w.rest == 0#16) body = body s := by
  rw [hw]
  exact State.issue_runs hi (by rw [encodeM_opcode]; decide) body

/-- An MMA whose tiles R131 accepts is handed to the empty queue of its array. -/
theorem exec_mma_accepted (hk : IdleCore (s.core c.val))
    (ok : s.mmaOk c.val w ((s.core c.val).rt w.tl.toNat) ((s.core c.val).rt w.tr.toNat) ((s.core c.val).rt w.tout.toNat)
      ((s.core c.val).rt w.ti.toNat) = true) :
    Answers (.mma c w) s (s.setCore c.val ((s.core c.val).mmaIssued w)) := by
  have hq := hk.queue_array w.arr.isLt
  change Host.Outcome.next (s.issue c.val (encodeM w) (w.rest == 0#16) _) = _
  rw [State.issue_mma hw hi]
  dsimp only
  rw [ok, State.push_room (by simp [hq])]
  simp only [Bool.not_true, Bool.false_eq_true, if_false, hq, List.nil_append]
  refine congrArg Host.Outcome.next (State.pump_nil ?_ ?_)
  · rw [State.core_setCore]
    exact (Core.mmaIssued_vq _ w).trans hk.vq
  · rw [State.core_setCore]
    exact (Core.mmaIssued_dq _ w).trans hk.dq

/-- Another MMA faults. -/
theorem exec_mma_refused
    (bad : s.mmaOk c.val w ((s.core c.val).rt w.tl.toNat) ((s.core c.val).rt w.tr.toNat) ((s.core c.val).rt w.tout.toNat)
      ((s.core c.val).rt w.ti.toNat) = false) :
    Answers (.mma c w) s (s.insnFault c.val) := by
  change Host.Outcome.next (s.issue c.val (encodeM w) (w.rest == 0#16) _) = _
  rw [State.issue_mma hw hi]
  dsimp only
  rw [bad]
  rfl

end

/-! ## The tiles that R131 accepts -/

/-- A tile fits where each of its rows does (04 R88). -/
theorem tileFits_iff (t : BitVec 64) {rows : Nat} (hr : 0 < rows) (out : Bool) :
    tileFits t rows out = true ↔
      ∀ r, r < (if out = true ∧ tOrder t = 2 then 2 * rows else rows) → tOffset t + r * rowStep t + rowSize (tFmt t) ≤ 0x600000 := by
  have fits : ∀ n, 0 < n → (tOffset t + (n - 1) * rowStep t + rowSize (tFmt t) ≤ 0x600000 ↔
      ∀ r, r < n → tOffset t + r * rowStep t + rowSize (tFmt t) ≤ 0x600000) := by
    refine fun n hn => ⟨fun h r hlt => ?_, fun h => h (n - 1) (by omega)⟩
    have := Nat.mul_le_mul_right (rowStep t) (Nat.le_sub_one_of_lt hlt)
    omega
  unfold tileFits coreSize
  by_cases ho : out = true ∧ tOrder t = 2
  · simp only [ho.1, ho.2, beq_self_eq_true, Bool.and_self, if_true, and_self, decide_eq_true_eq]
    exact fits (2 * rows) (by omega)
  · rw [if_neg (by simpa using ho), if_neg ho, decide_eq_true_eq]
    exact fits rows hr

/-- An operand tile fits where each of its rows does. -/
theorem tileFits_operand (t : BitVec 64) {rows : Nat} (hr : 0 < rows) :
    tileFits t rows false = true ↔ ∀ r, r < rows → tOffset t + r * rowStep t + rowSize (tFmt t) ≤ 0x600000 := by
  simpa using tileFits_iff t hr false

/-- An output tile fits where each of its rows does, the column-order copy included. -/
theorem tileFits_output (t : BitVec 64) :
    tileFits t 64 true = true ↔ ∀ r, r < (if tOrder t = 2 then 128 else 64) → tOffset t + r * rowStep t + rowSize (tFmt t) ≤ 0x600000 := by
  simpa using tileFits_iff t (rows := 64) (by decide) true

/-- The output tile of a draining MMA (05 R129, R131). -/
theorem State.mmaOutOk_iff (s : State) (c : Nat) (f : MF) (tout : BitVec 64) :
    s.mmaOutOk c f tout = true ↔
      1 ≤ tFmt tout ∧ tSbase tout ≤ 1984 ∧
      (∀ r, r < (if tOrder tout = 2 then 128 else 64) → tOffset tout + r * rowStep tout + rowSize (tFmt tout) ≤ 0x600000) ∧
      (tFmt tout ≤ 3 → f.cblk = 0) ∧
      (4 ≤ tFmt tout → tTrk tout = true ∧ ∃ n tid, (s.core c).ctx = some n ∧ (s.core c).slotPO (tSlot tout) = some tid ∧
        ((s.ctx n).perChan tid = true ∨ f.cblk = 0)) := by
  rw [← tileFits_output, State.mmaOutOk]
  by_cases hn : 4 ≤ tFmt tout
  · have h3 : ¬ tFmt tout ≤ 3 := by omega
    simp only [fmtNarrow, hn, decide_true, if_true, h3, false_implies, true_implies, true_and]
    cases hc : (s.core c).ctx with
    | none => simp
    | some n =>
      cases hs : (s.core c).slotPO (tSlot tout) with
      | none => simp
      | some tid => simp [and_assoc]
  · have h3 : tFmt tout ≤ 3 := by omega
    simp [fmtNarrow, hn, h3, and_assoc]

/-- The tiles of an MMA that R131 accepts. -/
theorem State.mmaOk_iff (s : State) (c : Nat) (w : MF) (tl tr tout ti : BitVec 64) :
    let k := s.core c
    let inside := fun (x : BitVec 64) (rows : Nat) => ∀ r, r < rows → tOffset x + r * rowStep x + rowSize (tFmt x) ≤ 0x600000
    s.mmaOk c w tl tr tout ti = true ↔
      tFmt tl = tFmt tr ∧ 2 ≤ tFmt tl ∧ inside tl (mmaK w) ∧ inside tr (mmaK w) ∧ w.init ≠ 3 ∧
      (w.init = 1 → tFmt ti = 1 ∧ inside ti 64) ∧ (w.init = 2 → k.kept w.arr.toNat = true) ∧
      (w.keep = 1 → w.cblk = 0) ∧ (w.keep = 0 → s.mmaOutOk c w tout = true) := by
  intro k inside
  have hK : 0 < mmaK w := by unfold mmaK; omega
  have hin : ∀ (x : BitVec 64) {n : Nat}, 0 < n → (tileFits x n false = true ↔ inside x n) := fun x _ hn => tileFits_operand x hn
  have hkeep : ((if w.keep = 1#1 then w.cblk == 0#10 else s.mmaOutOk c w tout) = true) ↔
      (w.keep = 1 → w.cblk = 0) ∧ (w.keep = 0 → s.mmaOutOk c w tout = true) := by
    obtain h | h : w.keep = 0 ∨ w.keep = 1 := by bv_omega
    all_goals simp [h]
  simp only [State.mmaOk, Bool.and_eq_true, hkeep, hin tl hK, hin tr hK]
  simp [hin ti (show 0 < 64 by decide), and_assoc, bne_iff_ne, Decidable.imp_iff_not_or, k]

/-! ## A drain starts nothing -/

/-- Every word is good, and queues 2 and 3 of core `c` are empty: a pump of the core finds nothing to start. -/
structure Still (s : State) (c : Nat) : Prop where
  clean : CleanStore s
  vq : (s.core c).vq = []
  dq : (s.core c).dq = []

theorem Still.pump {s : State} {c : Nat} (h : Still s c) : s.pump c = s := State.pump_nil h.vq h.dq

theorem Core.putDescales_queues (k : Core) (ds : List (Nat × F32 × Ev)) : (k.putDescales ds).vq = k.vq ∧ (k.putDescales ds).dq = k.dq := by
  unfold Core.putDescales
  induction ds generalizing k with
  | nil => exact ⟨rfl, rfl⟩
  | cons d ds ih => exact ih (k.setS d.1 d.2.1)

namespace Still
variable {s : State} {c : Nat}

theorem ite {p : Prop} [Decidable p] {s t : State} (h : Still s c) (h' : Still t c) : Still (if p then s else t) c := by
  split
  · exact h
  · exact h'

theorem modCtx (h : Still s c) (n : Nat) (f : Ctx → Ctx) : Still (s.modCtx n f) c := ⟨⟨h.clean.bad, h.clean.arm, h.clean.rst⟩, h.vq, h.dq⟩

theorem setBytes (h : Still s c) (a : Nat) (bs : List Byte) : Still (s.setBytes a bs) c := ⟨h.clean.setBytes a bs, h.vq, h.dq⟩

/-- A change of a core that leaves its queues 2 and 3. -/
theorem modCore (h : Still s c) (x : Nat) {f : Core → Core} (hf : ∀ k, (f k).vq = k.vq ∧ (f k).dq = k.dq) : Still (s.modCore x f) c := by
  have hcl : CleanStore (s.modCore x f) := ⟨h.clean.bad, h.clean.arm, h.clean.rst⟩
  by_cases hx : x = c
  · subst hx
    obtain ⟨hv, hd⟩ := hf (s.core x)
    exact ⟨hcl, by rw [State.core_modCore, hv, h.vq], by rw [State.core_modCore, hd, h.dq]⟩
  · exact ⟨hcl, by rw [State.core_modCore_other _ _ hx, h.vq], by rw [State.core_modCore_other _ _ hx, h.dq]⟩

theorem coreArith (h : Still s c) (x : Nat) (e : Ev) (g : Bool) : Still (s.coreArith x e g) c := by
  unfold State.coreArith
  split
  · exact h.modCtx _ _
  · exact h

theorem foldl {α : Type} {f : State → α → State} (hf : ∀ s x, Still s c → Still (f s x) c) (l : List α) (h : Still s c) :
    Still (l.foldl f s) c := by
  induction l generalizing s with
  | nil => exact h
  | cons x l ih => exact ih (hf s x h)

theorem setCoreBytes (h : Still s c) (x off : Nat) (bs : List Byte) : Still (s.setCoreBytes x off bs) c := by
  rw [State.setCoreBytes_clean h.clean]
  exact h.setBytes _ _

theorem putTile (h : Still s c) (x off : Nat) (t : BitVec 64) (ls : List (List Nat)) : Still (s.putTile x off t ls) c :=
  foldl (fun _ _ h => h.setCoreBytes _ _ _) _ h

theorem writeTile (h : Still s c) (x : Nat) (t : BitVec 64) (codes : List Nat) : Still (s.writeTile x t codes) c := by
  unfold State.writeTile
  split
  · exact h.putTile _ _ _ _
  · exact h.putTile _ _ _ _
  · exact (h.putTile _ _ _ _).putTile _ _ _ _

theorem recordDescales (h : Still s c) (n x : Nat) (k : Core) (ds : List (Nat × F32 × Ev)) : Still (s.recordDescales n x k ds) c := by
  have h' := h.modCtx n fun y => { y with saved := SMap.set none y.saved x (some (k.putDescales ds)) }
  unfold State.recordDescales
  generalize State.modCtx s n _ = s' at h' ⊢
  dsimp only
  cases (if k.ctx.isSome = true then s'.recordAddr n x else none) with
  | none => exact h'
  | some a =>
    refine foldl (fun s d h => ?_) _ h'
    rw [State.storeScale, State.store_clean h.clean]
    exact h.setBytes _ _

theorem writeDescales (h : Still s c) (n : Nat) (u : ScaleUse) (only : Option (BitVec 32)) (held : Bool) (x : Nat) :
    Still (State.writeDescales n u only held s x) c := by
  unfold State.writeDescales
  simp only [h.clean.rst, Bool.false_and, Bool.false_eq_true, if_false]
  exact h.ite (ite (h.ite ((h.modCore x fun k => k.putDescales_queues _).modCtx _ _)) (h.ite ((h.recordDescales _ _ _ _).modCtx _ _)))

end Still

theorem State.badScales_clean {s : State} (h : CleanStore s) (n : Nat) (u : ScaleUse) (only : Option (BitVec 32)) : s.badScales n u only = [] := by
  refine List.flatMap_eq_nil_iff.2 fun p _ => List.append_eq_nil_iff.2 ⟨?_, ?_⟩
  all_goals
    split
    · exact State.badIn_clean h _ _
    · rfl

namespace Still
variable {s : State} {c : Nat}

theorem newScale (h : Still s c) (n : Nat) (r : Run) (tid : BitVec 32) : Still (s.newScale n r tid) c := by
  rw [State.newScale, State.allDescales, State.badScales_clean h.clean]
  exact foldl (fun _ _ h => h.writeDescales _ _ _ _ _) _ h

theorem fixScales (h : Still s c) (x i : Nat) (m : SMap F32) : Still (s.fixScales x i m) c := by
  unfold State.fixScales
  split
  · exact h.ite ((h.modCtx _ _).newScale _ _ _)
  · exact h

theorem produces (h : Still s c) (x i : Nat) (chans : List Nat) : Still (s.produces x i chans) c := by
  unfold State.produces
  split
  · exact h.ite ((h.modCtx _ _).newScale _ _ _)
  · exact h

theorem recordSlot (h : Still s c) (x i : Nat) (es : List Elem) : Still (s.recordSlot x i es) c := by
  unfold State.recordSlot
  split
  · exact h
  have h' : ∀ sl, Still (s.modCore x fun k => k.setSlot i (some (es.foldl Slot.record sl))) c := fun sl => h.modCore x fun k => ⟨rfl, rfl⟩
  dsimp only
  split
  · exact h' _
  split
  · exact ite ((h' _).modCtx _ _) (h' _)
  · exact h' _

end Still

/-- What the core remembers of a narrow tile is no queue. -/
theorem Core.noteTile_queues (k : Core) (t : BitVec 64) (scale : Nat → F32) (es : List Elem) :
    (k.noteTile t scale es).vq = k.vq ∧ (k.noteTile t scale es).dq = k.dq := by
  have forms : ∀ (g : Nat → Nat) (l : Nat → List Elem) (rs : List Nat) (k : Core),
      let k' := rs.foldl (fun k r => k.noteForms (tFmt t) (g r) scale (l r)) k
      k'.vq = k.vq ∧ k'.dq = k.dq := by
    intro g l rs
    induction rs with
    | nil => exact fun _ => ⟨rfl, rfl⟩
    | cons r rs ih => exact fun k => ih _
  unfold Core.noteTile
  split
  · exact forms _ _ _ _
  · exact forms _ _ _ _
  · exact ⟨(forms _ _ _ _).1.trans (forms _ _ _ _).1, (forms _ _ _ _).2.trans (forms _ _ _ _).2⟩

/-- A drain (04 R92) leaves the store good and queues 2 and 3 empty. -/
theorem Still.drain {s : State} {c : Nat} (h : Still s c) (x : Nat) (f : MF) (tl tr tout : BitVec 64) (acc : List F32) :
    Still (s.drain x f tl tr tout acc) c := by
  unfold State.drain
  extract_lets fmt ys s0 vs r rerun
  have h0 : Still s0 c := h.coreArith _ _ _
  refine ite (h0.writeTile _ _ _) (ite ((h0.writeTile _ _ _).coreArith _ _ _) ?_)
  split
  · exact h0
  rename_i row y run _ _
  extract_lets m s1 s2
  have h1 : Still s1 c := ite (h0.fixScales _ _ _) h0
  have h2 : Still s2 c := ite h1 (h1.produces _ _ _)
  split
  · exact h2
  extract_lets scale es s3 s4
  have h4 : Still s4 c := ((h2.writeTile x tout _).coreArith x _ _).modCore x fun k => k.noteTile_queues tout scale es
  exact ite h4 (h4.recordSlot _ _ _)

/-! ## The last k step (04 R91, R93) -/

section
variable (k : Core) (arr : Nat)

theorem Core.setFeed_queues (l : List Feed) : (k.setFeed arr l).vq = k.vq ∧ (k.setFeed arr l).dq = k.dq := by
  unfold Core.setFeed; split <;> exact ⟨rfl, rfl⟩
theorem Core.setAcc_queues (a : Option (List F32)) : (k.setAcc arr a).vq = k.vq ∧ (k.setAcc arr a).dq = k.dq := by
  unfold Core.setAcc; split <;> exact ⟨rfl, rfl⟩
theorem Core.popArray_queues : (k.popArray arr).vq = k.vq ∧ (k.popArray arr).dq = k.dq := by
  unfold Core.popArray; split <;> exact ⟨rfl, rfl⟩
theorem Core.takeLatch_queues (q : Nat) : (k.takeLatch arr q).vq = k.vq ∧ (k.takeLatch arr q).dq = k.dq := by
  unfold Core.takeLatch; split <;> exact ⟨rfl, rfl⟩
theorem Core.setLatch_queues (b : Bool) : (k.setLatch arr b).vq = k.vq ∧ (k.setLatch arr b).dq = k.dq := by
  unfold Core.setLatch; split <;> exact ⟨rfl, rfl⟩
theorem Core.setHeld_queues (h : Option (List F32 × MF × BitVec 64)) : (k.setHeld arr h).vq = k.vq ∧ (k.setHeld arr h).dq = k.dq := by
  unfold Core.setHeld; split <;> exact ⟨rfl, rfl⟩
theorem Core.latch_setFeed (l : List Feed) : (k.setFeed arr l).latch arr = k.latch arr := by
  unfold Core.setFeed Core.latch; split <;> simp_all
theorem Core.latch_setAcc (a : Option (List F32)) : (k.setAcc arr a).latch arr = k.latch arr := by
  unfold Core.setAcc Core.latch; split <;> simp_all

end

section
variable {c : CoreId} {s : State} {arr : Fin 2} {e : QEntry} {f : MF} {tl tr tout ti : BitVec 64} {i : Nat}
  (hq : (s.core c.val).queue arr.val = [e]) (hw : (s.core c.val).work = [e]) (hp : e.phase = 0) (he : e.work = .mma f tl tr tout ti i)
include hq hw hp he

/-- The oldest MMA of an array runs its last k step, and what waited for it may start. -/
theorem exec_arrayLastKStep :
    exec (.arrayLastKStep c arr) s = .next ((s.mmaLast c.val arr.val e f tl tr tout ti i).pump c.val) := by
  change Host.Outcome.next (match (s.core c.val).queue arr.val with | [] => s | e :: _ => _) = _
  rw [hq]
  simp [hp, Core.heldBy_alone hw, he]

end

/-- The state with an MMA's products accumulated, before its accumulators go on. -/
def State.mmaFed (s : State) (c arr : Nat) (f : MF) (tl tr ti : BitVec 64) : State :=
  (s.modCore c fun k => k.setFeed arr (s.feeds c f tl tr ti)).coreArith c (sumEv (·.2) (s.mmaCells c f tl tr ti)) false

theorem State.mmaFed_core (s : State) (c arr : Nat) (f : MF) (tl tr ti : BitVec 64) :
    (s.mmaFed c arr f tl tr ti).core c = (s.core c).setFeed arr (s.feeds c f tl tr ti) := by
  rw [State.mmaFed, State.core, State.coreArith_cores]
  exact s.core_modCore c _

section
variable {s : State} (hs : CleanStore s) (c arr : Nat) (e : QEntry) (f : MF) (tl tr tout ti : BitVec 64) (i : Nat)
include hs

/-- A tile that the shadow buffer cannot hold faults (05 R117, R132). -/
theorem State.mmaLast_shadowFault (h : s.shadowFault c f tl tr tout ti i = true) :
    s.mmaLast c arr e f tl tr tout ti i = s.insnFaultAt c e.pc e.word := by
  simp [State.mmaLast, State.badRuns_clean hs, State.meetWords, h]

/-- With KEEP = 1 the accumulators stay in place. -/
theorem State.mmaLast_keep (h : f.keep = 1) :
    s.mmaLast c arr e f tl tr tout ti i =
      (s.mmaFed c arr f tl tr ti).modCore c fun k => (k.popArray arr).setAcc arr (some ((s.mmaCells c f tl tr ti).map (·.1))) := by
  have hf : s.shadowFault c f tl tr tout ti i = false := by simp [State.shadowFault, h]
  simp [State.mmaLast, State.badRuns_clean hs, State.meetWords, hf, h, State.mmaFed]

/-- With KEEP = 0 and a free latch the accumulators drain. -/
theorem State.mmaLast_drain (h : f.keep = 0) (hl : (s.core c).latch arr = false)
    (hv : ((s.mmaFed c arr f tl tr ti).modCore c fun k => k.setAcc arr none).shadowRow c tl tout = none)
    (hn : s.shadowRow c tl tout = none) :
    s.mmaLast c arr e f tl tr tout ti i =
      (((s.mmaFed c arr f tl tr ti).modCore c fun k => k.setAcc arr none).drain c f tl tr tout ((s.mmaCells c f tl tr ti).map (·.1))).modCore c
        fun k => ((k.popArray arr).takeLatch arr e.seq).setFeed arr [] := by
  have hf : s.shadowFault c f tl tr tout ti i = false := by simp [State.shadowFault, hn]
  have free : (((s.mmaFed c arr f tl tr ti).core c).setAcc arr none).latch arr = false := by
    rw [Core.latch_setAcc, State.mmaFed_core, Core.latch_setFeed, hl]
  unfold State.mmaFed at hv free ⊢
  simp [State.mmaLast, State.badRuns_clean hs, State.meetWords, hf, h, free, State.copyDrain, hv]

end

theorem Still.mmaFed {s : State} {c : Nat} (h : Still s c) (arr : Nat) (f : MF) (tl tr ti : BitVec 64) : Still (s.mmaFed c arr f tl tr ti) c :=
  (h.modCore c fun k => k.setFeed_queues arr _).coreArith c _ _

/-! ## The shadow verdict (03 R76) -/

theorem Ctx.charge_counts (k : Ctx) (e : Ev) (g : Bool) :
    (k.charge e g).arith.checked = k.arith.checked ∧ (k.charge e g).arith.exceeded = k.arith.exceeded := by
  unfold Ctx.charge Ctx.overflow
  dsimp only
  repeat' split
  all_goals exact ⟨rfl, rfl⟩

theorem Ctx.shadowVerdict_counts (k : Ctx) (r : RecipeRow) (t : ShadowTile) (b : Bool) :
    (k.shadowVerdict r t b).arith.checked = satAdd 32 k.arith.checked 1 ∧
      (k.shadowVerdict r t b).arith.exceeded = satAdd 31 k.arith.exceeded (b2n b) := by
  unfold Ctx.shadowVerdict
  extract_lets k' x n
  by_cases h : n ≥ r.shRun
  · rw [if_pos h]; exact ⟨rfl, rfl⟩
  · rw [if_neg h]; exact ⟨rfl, rfl⟩

/-- The oldest shadowed tile of a tensor with a row is compared, its events are charged, and its verdict enters the counts. -/
theorem exec_shadowRecompute {c : CoreId} {s : State} {t : ShadowTile} {ts : List ShadowTile} {r : RecipeRow}
    (hts : (s.core c.val).shadow = t :: ts) (hr : (s.ctx t.ctx).rowOf t.tid = some r) :
    exec (.shadowRecompute c) s = .next (((s.modCore c.val fun k => { k with shadow := ts }).arith t.ctx (shadowMax t).2.2 false).modCtx t.ctx
      fun k => k.shadowVerdict r t (shadowExceeds r t)) := by
  change execShadowRecompute c s = _
  simp only [execShadowRecompute, hts, State.ctx_modCore, hr]

/-- Settles O18: an MMA is checked and handed over at its issue; its last k step and the drain leave queues 2 and 3 of an idle core
empty, so that the pump behind each event starts nothing. -/
theorem matrixInstructionsRun : Obligations.MatrixInstructionsRun := by
  intro c s k
  refine ⟨fun w hw hi hk => ⟨fun ok => ?_, exec_mma_refused hw hi⟩, fun w tl tr tout ti => ?_,
    fun arr e f tl tr tout ti i hq hv hd h0 h1 hp he hs => ?_, fun arr hl hh hv hd => ?_, fun t ts r hts hr => ?_⟩
  · refine ⟨k.mmaEntry w, rfl, rfl, rfl, rfl, _, exec_mma_accepted hw hi hk ok, ?_⟩
    rw [State.core_setCore]
    exact ⟨k.mmaIssued_queue w, k.mmaIssued_pc w, k.mmaIssued_nextSeq w, k.mmaIssued_kept w, rfl⟩
  · have h := s.mmaOk_iff c.val w tl tr tout ti
    simp only [State.mmaOutOk_iff] at h
    exact h
  · intro cells acc u
    have step := exec_arrayLastKStep hq (Core.work_of_queue hq hv h0 h1) hp he
    have fed : Still u c.val := (Still.mk hs hv hd).mmaFed arr.val f tl tr ti
    refine ⟨fun hf => ?_, fun hk => ?_, fun hk hl => ?_⟩
    · rw [Answers, step, State.mmaLast_shadowFault hs _ _ _ _ _ _ _ _ _ hf]
    · have h : Still (u.modCore c.val fun k => (k.popArray arr.val).setAcc arr.val (some acc)) c.val :=
        fed.modCore c.val fun k => by
          obtain ⟨av, ad⟩ := (k.popArray arr.val).setAcc_queues arr.val (some acc)
          obtain ⟨pv, pd⟩ := k.popArray_queues arr.val
          exact ⟨av.trans pv, ad.trans pd⟩
      rw [Answers, step, State.mmaLast_keep hs _ _ _ _ _ _ _ _ _ hk]
      exact congrArg _ h.pump
    · intro v hsv hss
      have h : Still ((v.drain c.val f tl tr tout acc).modCore c.val fun k =>
          ((k.popArray arr.val).takeLatch arr.val e.seq).setFeed arr.val []) c.val :=
        ((fed.modCore c.val fun k => k.setAcc_queues arr.val none).drain c.val f tl tr tout acc).modCore c.val fun k => by
          obtain ⟨fv, fd⟩ := ((k.popArray arr.val).takeLatch arr.val e.seq).setFeed_queues arr.val []
          obtain ⟨tv, td⟩ := (k.popArray arr.val).takeLatch_queues arr.val e.seq
          obtain ⟨pv, pd⟩ := k.popArray_queues arr.val
          exact ⟨fv.trans (tv.trans pv), fd.trans (td.trans pd)⟩
      rw [Answers, step, State.mmaLast_drain hs _ _ _ _ _ _ _ _ _ hk hl hsv hss]
      exact congrArg _ h.pump
  · change Host.Outcome.next (if !(s.core c.val).latch arr.val then s else _) = _
    have hh' : (s.core c.val).held arr.val = none := hh
    rw [show (s.core c.val).latch arr.val = true from hl, hh']
    obtain ⟨v, d⟩ : ((k.setLatch arr.val false).setHeld arr.val none).vq = k.vq ∧ ((k.setLatch arr.val false).setHeld arr.val none).dq = k.dq := by
      obtain ⟨v, d⟩ := (k.setLatch arr.val false).setHeld_queues arr.val none
      obtain ⟨v', d'⟩ := k.setLatch_queues arr.val false
      exact ⟨v.trans v', d.trans d'⟩
    refine congrArg Host.Outcome.next (State.pump_nil ?_ ?_)
    · rw [State.core_modCore]; exact v.trans hv
    · rw [State.core_modCore]; exact d.trans hd
  · refine ⟨_, exec_shadowRecompute hts hr, ?_, ?_, ?_, rfl⟩
    · simp [State.arith]
    · simp [State.arith, Ctx.shadowVerdict_counts, Ctx.charge_counts, satAdd]
    · simp [State.arith, Ctx.shadowVerdict_counts, Ctx.charge_counts, satAdd, b2n]

end Sys2Proof.Machine

/-! Raw loads and the switch of the last (03 R81, 08 R199 to R210). -/

namespace Sys2Proof.Machine
open Sys2Proof

/-! ## A command's row and its end (13 R352, R354) -/

/-- The state in which the row of a command runs: the command is marked as running. -/
def State.started (s : State) (n op : Nat) (tag : BitVec 16) : State :=
  s.modCHost n fun h =>
    { h with cmds := updFirst (fun c => c.opcode == op && c.tag == tag && !c.running) (fun c => { c with running := true }) h.cmds }

section
variable {s : State} {n op : Nat} {tag : BitVec 16} {c : Cmd} (hb : Begins s n op tag c)
include hb

theorem State.command_runs (body : Cmd → State → State) : s.command n op tag body = body c (s.started n op tag) := by
  simp only [State.command, hb.live, hb.cmd, Bool.not_true, Bool.false_eq_true, if_false]
  rfl

theorem State.commandIf_runs {go : Cmd → Bool} (hg : go c = true) (body : Cmd → State → State) :
    s.commandIf n op tag go body = body c (s.started n op tag) := by
  simp only [State.commandIf, hb.cmd, hg, if_true, State.command_runs hb]

end

theorem State.ctx_modCHost (s : State) (n : Nat) (f : CtxHost → CtxHost) (m : Nat) :
    (s.modCHost n f).ctx m = if n = m then (s.ctx m).modHost f else s.ctx m := by
  split
  · subst_vars; exact State.ctx_modCtx _ _ _
  · exact State.ctx_modCtx_other _ _ ‹_›

/-- The first entry with a mark unset, once it is set, is found as an entry with the mark set. -/
theorem find?_updFirst_isSome {α : Type} {p q : α → Bool} {f : α → α} (hf : ∀ x, p x = true → q (f x) = true) {l : List α} {x : α}
    (h : l.find? p = some x) : ((updFirst p f l).find? q).isSome = true := by
  induction l with
  | nil => cases h
  | cons y l ih =>
    by_cases hy : p y = true
    · simp [updFirst, hy, hf y hy]
    · rw [List.find?_cons_of_neg hy] at h
      have := ih h
      cases hq : q y <;> simp [updFirst, hy, hq, this]

/-- A command whose row runs is among the running ones. -/
theorem State.started_cmd? {s : State} {n op : Nat} {tag : BitVec 16} {c : Cmd} (h : s.cmd? n op tag false = some c) :
    ∃ d, (s.started n op tag).cmd? n op tag true = some d := by
  have hp : (fun c : Cmd => c.opcode == op && c.tag == tag && c.running == false) =
      fun c => c.opcode == op && c.tag == tag && !c.running := by
    funext c; cases c.running <;> simp
  rw [State.cmd?, hp] at h
  rw [← Option.isSome_iff_exists, State.cmd?, State.started, State.ctx_modCHost, if_pos rfl]
  exact find?_updFirst_isSome (fun x hx => by simp_all) h

theorem State.cmd?_congr {s t : State} {n : Nat} (h : (t.ctx n).host = (s.ctx n).host) (op : Nat) (tag : BitVec 16) (b : Bool) :
    t.cmd? n op tag b = s.cmd? n op tag b := by rw [State.cmd?, h]; rfl

theorem State.finish_ctxsOnly (s : State) (n op : Nat) (tag : BitVec 16) (st r0 r1 : Nat) : CtxsOnly s (s.finish n op tag st r0 r1) := by
  unfold State.finish State.finishWith
  split
  · exact CtxsOnly.refl s
  · exact ⟨_, rfl⟩

section
variable (s : State) (n op : Nat) (tag : BitVec 16) (st r0 r1 : Nat)

@[simp] theorem State.finish_mem : (s.finish n op tag st r0 r1).mem = s.mem := by
  obtain ⟨xs, h⟩ := s.finish_ctxsOnly n op tag st r0 r1; rw [h]
@[simp] theorem State.finish_loads : (s.finish n op tag st r0 r1).loads = s.loads := by
  obtain ⟨xs, h⟩ := s.finish_ctxsOnly n op tag st r0 r1; rw [h]
@[simp] theorem State.finish_lastA : (s.finish n op tag st r0 r1).lastA = s.lastA := by
  obtain ⟨xs, h⟩ := s.finish_ctxsOnly n op tag st r0 r1; rw [h]
@[simp] theorem State.finish_lastB : (s.finish n op tag st r0 r1).lastB = s.lastB := by
  obtain ⟨xs, h⟩ := s.finish_ctxsOnly n op tag st r0 r1; rw [h]
@[simp] theorem State.finish_lastPtr : (s.finish n op tag st r0 r1).lastPtr = s.lastPtr := by
  obtain ⟨xs, h⟩ := s.finish_ctxsOnly n op tag st r0 r1; rw [h]

theorem State.finish_last (i : Nat) : (s.finish n op tag st r0 r1).last i = s.last i := by simp [State.last]

end

/-- A running command that ends has the newest completion. -/
theorem State.finish_done {s : State} {n op : Nat} {tag : BitVec 16} {c : Cmd} (h : s.cmd? n op tag true = some c) (st r0 r1 : Nat) :
    Done (s.finish n op tag st r0 r1) n op tag st r0 r1 := by
  simp only [State.finish, State.finishWith, h, Done, State.ctx_modCHost, if_true]
  exact ⟨_, List.getLast?_concat .., rfl, rfl, rfl, rfl, rfl⟩

theorem Done.congr {s t : State} {n op : Nat} {tag : BitVec 16} {st r0 r1 : Nat} (h : Done s n op tag st r0 r1)
    (hc : t.ctxs = s.ctxs) : Done t n op tag st r0 r1 := by
  rw [Done, State.ctx, hc]; exact h

/-- A command that ends as its row begins. -/
theorem EndsWith.of_finish {i : Instr} {s : State} {n op : Nat} {tag : BitVec 16} {c : Cmd} {st r0 r1 : Nat}
    (hc : s.cmd? n op tag false = some c) (h : exec i s = .next ((s.started n op tag).finish n op tag st r0 r1)) :
    EndsWith i s n op tag st r0 r1 := by
  obtain ⟨d, hd⟩ := State.started_cmd? hc
  exact ⟨_, h, State.finish_done hd _ _ _, State.finish_mem ..⟩

/-! ## What a command's start leaves of its context -/

section
variable (s : State) (n : Nat) (f : CtxHost → CtxHost) (m : Nat)

@[simp] theorem State.ctx_modCHost_sched : ((s.modCHost n f).ctx m).sched = (s.ctx m).sched := by
  rw [State.ctx_modCHost]; split <;> rfl
@[simp] theorem State.ctx_modCHost_step : ((s.modCHost n f).ctx m).step = (s.ctx m).step := by
  rw [State.ctx_modCHost]; split <;> rfl
@[simp] theorem State.ctx_modCHost_mem : ((s.modCHost n f).ctx m).mem = (s.ctx m).mem := by
  rw [State.ctx_modCHost]; split <;> rfl
@[simp] theorem State.ctx_modCHost_snap : ((s.modCHost n f).ctx m).snap = (s.ctx m).snap := by
  rw [State.ctx_modCHost]; split <;> rfl
@[simp] theorem State.ctx_modCHost_runs : ((s.modCHost n f).ctx m).runs = (s.ctx m).runs := by
  rw [State.ctx_modCHost]; split <;> rfl

/-- Charges do not depend on commands. -/
theorem State.charge_modCHost : (s.modCHost n f).charge = s.charge := by
  funext x tier place units
  simp [State.charge, State.findRoom, State.usedRanges, State.fillRanges, State.areasOf, State.staging, State.heldUnits, State.t3Used,
    Ctx.usedIn]

end

theorem CleanStore.started {s : State} (h : CleanStore s) (n op : Nat) (tag : BitVec 16) : CleanStore (s.started n op tag) :=
  ⟨h.bad, h.arm, h.rst⟩

theorem State.rawStage_started (s : State) (n op : Nat) (tag : BitVec 16) : (s.started n op tag).rawStage = s.rawStage := by
  funext m b
  rw [State.rawStage, State.started, State.charge_modCHost]; rfl

theorem State.rawStatus_started (s : State) (n op : Nat) (tag : BitVec 16) : (s.started n op tag).rawStatus = s.rawStatus := by
  funext m c ds
  rw [State.rawStatus, State.started, State.ctx_modCHost_mem]; rfl

section
variable (s : State) (n op : Nat) (tag : BitVec 16)

@[simp] theorem State.started_inAllocs : (s.started n op tag).inAllocs = s.inAllocs := rfl
@[simp] theorem State.started_sourceOk : (s.started n op tag).sourceOk = s.sourceOk := rfl
@[simp] theorem State.started_mayLast : (s.started n op tag).mayLast = s.mayLast := rfl
@[simp] theorem State.started_last : (s.started n op tag).last = s.last := rfl

end

/-! ## READ requests (08 R202) -/

/-- A load without its count of READ requests. -/
def Load.bare (l : Load) : Load := { l with asked := 0 }

/-- Only READ requests go out, and loads count them. -/
structure AskedOnly (s t : State) : Prop where
  rest : t = { s with loads := t.loads, out := t.out }
  loads : t.loads.map Load.bare = s.loads.map Load.bare

namespace AskedOnly
variable {s t u : State}

theorem refl (s : State) : AskedOnly s s := ⟨rfl, rfl⟩

theorem trans (h : AskedOnly s t) (h' : AskedOnly t u) : AskedOnly s u :=
  ⟨h'.rest.trans (by rw [h.rest]), h'.loads.trans h.loads⟩

theorem foldl {α : Type} {f : State → α → State} (hf : ∀ s x, AskedOnly s (f s x)) (l : List α) (s : State) : AskedOnly s (l.foldl f s) := by
  induction l generalizing s with
  | nil => exact refl s
  | cons x l ih => exact (hf s x).trans (ih _)

theorem mem (h : AskedOnly s t) : t.mem = s.mem := by rw [h.rest]
theorem ctxs (h : AskedOnly s t) : t.ctxs = s.ctxs := by rw [h.rest]

theorem clean (h : AskedOnly s t) (hs : CleanStore s) : CleanStore t := by rw [h.rest]; exact ⟨hs.bad, hs.arm, hs.rst⟩

theorem load (h : AskedOnly s t) {k : Nat} {l : Load} (hl : s.loads[k]? = some l) : ∃ a, t.loads[k]? = some { l with asked := a } := by
  have h' := congrArg (·[k]?) h.loads
  simp only [List.getElem?_map, hl, Option.map_some] at h'
  obtain ⟨l', hl', hb⟩ := Option.map_eq_some_iff.1 h'
  refine ⟨l'.asked, hl'.trans (congrArg some ?_)⟩
  calc l' = { l'.bare with asked := l'.asked } := rfl
    _ = { l.bare with asked := l'.asked } := by rw [hb]
    _ = { l with asked := l'.asked } := rfl

end AskedOnly

theorem map_modify_same {α β : Type} {f : α → α} {g : α → β} (h : ∀ x, g (f x) = g x) (k : Nat) (l : List α) :
    (l.modify k f).map g = l.map g := by
  refine List.ext_getElem? fun i => ?_
  rw [List.getElem?_map, List.getElem?_map, List.getElem?_modify]
  by_cases hi : k = i
  · simp [hi, Function.comp_def, h]
  · simp [hi]

theorem State.askHost_askedOnly (s : State) (k : Nat) : AskedOnly s (s.askHost k) := by
  unfold State.askHost
  split
  · exact AskedOnly.refl s
  · rename_i l _
    exact ⟨rfl, map_modify_same (f := fun x => { x with asked := l.asked + 1 }) (fun _ => rfl) k s.loads⟩

theorem State.askLoads_askedOnly (s : State) : AskedOnly s s.askLoads := by
  refine AskedOnly.foldl (fun s k => AskedOnly.foldl (fun s _ => ?_) _ s) _ s
  split
  · split
    · exact s.askHost_askedOnly k
    · exact AskedOnly.refl s
  · exact AskedOnly.refl s

theorem State.askRest_askedOnly (s : State) (k : Nat) : AskedOnly s (s.askRest k) := by
  unfold State.askRest
  split
  · exact AskedOnly.foldl (fun s _ => s.askHost_askedOnly k) _ s
  · exact AskedOnly.refl s

/-! ## Loads whose destination is the context's own (08 R199, R207) -/

/-- Such a load needs no space of a last. -/
theorem State.giveSpace_context {s : State} {k : Nat} {l : Load} (hl : s.loads[k]? = some l) (hd : l.dest = 0) : s.giveSpace k = some s := by
  simp [State.giveSpace, hl, hd]

theorem State.enterLoad_context (s : State) {l : Load} (hd : l.dest = 0) :
    s.enterLoad l = ({ s with loads := s.loads ++ [l] } : State).askLoads := by
  rw [State.enterLoad, State.giveSpace_context (l := l) (by simp) hd]
  rfl

theorem State.enterLoad_askedOnly (s : State) {l : Load} (hd : l.dest = 0) : AskedOnly { s with loads := s.loads ++ [l] } (s.enterLoad l) := by
  rw [State.enterLoad_context s hd]
  exact State.askLoads_askedOnly _

/-- Undefined bytes over ranges of good words: nothing else changes but the count of free values. -/
theorem State.foldl_scramble {s : State} (hs : CleanStore s) (rs : List (Nat × Nat)) :
    ∃ m fr, rs.foldl (fun s r => s.scramble r.1 r.2) s = { s with mem := m, free := fr } ∧
      ∀ x, (∀ r ∈ rs, x < r.1 ∨ r.1 + r.2 ≤ x) → Mem.byte m x = Mem.byte s.mem x := by
  induction rs generalizing s with
  | nil => exact ⟨s.mem, s.free, rfl, fun _ _ => rfl⟩
  | cons r rs ih =>
    set v := (List.range r.2).map fun i => Config.freeByte s.free (r.1 + i) with hv
    have one : s.scramble r.1 r.2 = { s with mem := Mem.write s.mem r.1 v, free := s.free + 1 } := by
      simp [State.scramble, State.undefBytes, State.inject, State.draw, State.setBytes, hs.arm, hv]
    obtain ⟨m, fr, h, hm⟩ := ih (s := { s with mem := Mem.write s.mem r.1 v, free := s.free + 1 }) ⟨hs.bad, hs.arm, hs.rst⟩
    refine ⟨m, fr, by rw [List.foldl_cons, one, h], fun x hx => ?_⟩
    obtain ⟨h1, h2⟩ := List.forall_mem_cons.1 hx
    rw [hm x h2]
    exact Mem.byte_write_other _ _ _ _ (by simpa [hv] using h1)

/-- A refused load leaves every byte outside its destinations (08 R204). -/
theorem State.refuseLoad_context {s : State} (hs : CleanStore s) {n op : Nat} {tag : BitVec 16} {c : Cmd} (hc : s.cmd? n op tag true = some c)
    (rs : List (Nat × Nat)) (st : Nat) :
    let t := s.refuseLoad n op tag 0 rs st
    Done t n op tag st 0 0 ∧ t.loads = s.loads ∧ ∀ x, (∀ r ∈ rs, x < r.1 ∨ r.1 + r.2 ≤ x) → Mem.byte t.mem x = Mem.byte s.mem x := by
  obtain ⟨m, fr, h, hm⟩ := State.foldl_scramble hs (rs.filter fun r => s.inT1Allocs n r.1 r.2)
  have ht : s.refuseLoad n op tag 0 rs st = ({ s with mem := m, free := fr } : State).finish n op tag st 0 0 := by
    rw [← h]; rfl
  dsimp only
  rw [ht]
  refine ⟨State.finish_done (s := { s with mem := m, free := fr }) hc _ _ _, State.finish_loads .., fun x hx => ?_⟩
  rw [State.finish_mem]
  exact hm x fun r hr => hx r (List.mem_filter.1 hr).1

theorem State.land_clean {s : State} (hs : CleanStore s) (l : Load) (a : Nat) (bs : List Byte) (next : State → State) :
    s.land l a bs next = next (s.setBytes a bs) := by
  simp [State.land, State.store_clean hs]

/-- A transfer whose words are not replayed. -/
theorem State.cross_zero (s : State) (w consumer ctx : Nat) (core : Option (Nat × BitVec 32)) (body : State → State) :
    s.cross 0 w consumer ctx core body = body s := rfl

theorem State.host_modCtx (s : State) (n : Nat) {f : Ctx → Ctx} (hf : ∀ k, (f k).host = k.host) (m : Nat) :
    ((s.modCtx n f).ctx m).host = (s.ctx m).host := by
  by_cases h : n = m
  · subst h; rw [State.ctx_modCtx, hf]
  · rw [State.ctx_modCtx_other _ _ h]

/-- Contexts keep their host parts, and nothing else changes but the fills. -/
structure HostsKept (s t : State) : Prop where
  rest : ∃ xs fs, t = { s with ctxs := xs, fills := fs }
  host : ∀ m, (t.ctx m).host = (s.ctx m).host

theorem HostsKept.refl (s : State) : HostsKept s s := ⟨⟨_, _, rfl⟩, fun _ => rfl⟩

theorem HostsKept.trans {s t u : State} (h : HostsKept s t) (h' : HostsKept t u) : HostsKept s u := by
  obtain ⟨xs, fs, ht⟩ := h.rest
  obtain ⟨ys, gs, hu⟩ := h'.rest
  exact ⟨⟨ys, gs, by rw [hu, ht]⟩, fun m => (h'.host m).trans (h.host m)⟩

theorem HostsKept.modCtx (s : State) (n : Nat) {f : Ctx → Ctx} (hf : ∀ k, (f k).host = k.host) : HostsKept s (s.modCtx n f) :=
  ⟨⟨_, s.fills, rfl⟩, State.host_modCtx s n hf⟩

theorem State.releaseStage_hostsKept (s : State) (l : Load) : HostsKept s (s.releaseStage l) := by
  unfold State.releaseStage
  split
  · exact HostsKept.refl s
  · exact ⟨⟨_, _, rfl⟩, State.host_modCtx s l.ctx (f := fun k => k.modMem fun m => m.setUsed 2 (m.used 2 - _)) fun _ => rfl⟩

theorem Ctx.foldl_dropCarried_host {α : Type} (cs : List (BitVec 32 × α)) (k : Ctx) :
    (cs.foldl (fun k e => k.dropCarried e.1) k).host = k.host := by
  induction cs generalizing k with
  | nil => rfl
  | cons e cs ih =>
    rw [List.foldl_cons, ih, Ctx.dropCarried]
    split <;> rfl

theorem State.noteCopies_hostsKept (s : State) (l : Load) : HostsKept s (s.noteCopies l) := by
  unfold State.noteCopies
  split
  · exact HostsKept.refl s
  · exact HostsKept.modCtx s l.ctx fun k => Ctx.foldl_dropCarried_host (k.loadCopies l) k

theorem State.useSets_hostsKept (s : State) (n : Nat) (sets : List Nat) : HostsKept s (s.useSets n sets) := by
  unfold State.useSets
  split
  · exact HostsKept.refl s
  · exact HostsKept.modCtx s n fun _ => rfl

/-- A load into a context that fails leaves the list, and its command ends (08 R204, R207). -/
theorem State.failLoad_context {s : State} (hs : CleanStore s) {k : Nat} {l : Load} (hl : s.loads[k]? = some l) (hd : l.dest = 0) {c : Cmd}
    (hc : s.cmd? l.ctx l.opcode l.tag true = some c) (st : Nat) :
    let t := s.failLoad k st
    t.loads.map Load.bare = (dropAt k s.loads).map Load.bare ∧ Done t l.ctx l.opcode l.tag st 0 0 := by
  set u : State := { s with loads := dropAt k s.loads } with hu
  have left : (u.abandonLoad l).loads = dropAt k s.loads ∧ ((u.abandonLoad l).ctx l.ctx).host = (s.ctx l.ctx).host := by
    obtain ⟨⟨xs, fs, hr⟩, hh⟩ := u.releaseStage_hostsKept l
    have hcl : CleanStore (u.releaseStage l) := by rw [hr]; exact ⟨hs.bad, hs.arm, hs.rst⟩
    obtain ⟨m, fr, hsc, -⟩ := State.foldl_scramble hcl l.ctxRanges
    have hl' : (u.releaseStage l).loads = dropAt k s.loads := by rw [hr]
    simp only [State.abandonLoad, hsc, hd, beq_self_eq_true, if_true]
    split
    · exact ⟨hl', hh l.ctx⟩
    · exact ⟨hl', hh l.ctx⟩
  have ht : s.failLoad k st = ((u.abandonLoad l).finish l.ctx l.opcode l.tag st 0 0).askLoads := by
    simp only [State.failLoad, hl, hu]
  have ask := State.askLoads_askedOnly ((u.abandonLoad l).finish l.ctx l.opcode l.tag st 0 0)
  dsimp only
  rw [ht]
  refine ⟨by rw [ask.loads, State.finish_loads, left.1], Done.congr (State.finish_done (c := c) ?_ st 0 0) ask.ctxs⟩
  rw [State.cmd?_congr left.2]
  exact hc

/-! ## LOAD_RAW (08 R199) -/

section
variable {n : CtxId} {tag : Tag} {c : Cmd} {s : State} (hb : Begins s n.val 0x21 tag c) (hs : CleanStore s)
  (hw : c.p 9 1 ≠ 0 ∨ s.rawWaits n.val c = false)

/-- The descriptors that a command names. -/
def State.rawDescs (s : State) (c : Cmd) : List (Layout × List Byte) :=
  parseLayouts (Mem.read s.mem (c.p 16 8) (64 * c.p 12 2)) (c.p 12 2)

/-- The descriptors and the source of a raw load may be read. -/
def State.rawPlaces (s : State) (n : Nat) (c : Cmd) : Prop := s.inAllocs n (c.p 16 8) (64 * c.p 12 2) = true ∧ s.sourceOk n c 1 = true

include hb hw

/-- The row of LOAD_RAW runs: its command meets the condition to start. -/
theorem exec_loadRaw_runs : exec (.loadRaw n tag) s = execLoadRaw n tag s ∧
    ∀ body, s.commandIf n.val 0x21 tag (fun c => !(c.p 9 1 == 0 && s.rawWaits n.val c)) body = body c (s.started n.val 0x21 tag) := by
  refine ⟨rfl, State.commandIf_runs hb ?_⟩
  obtain h | h := hw <;> simp [h]

theorem exec_loadRaw_misplaced (h : ¬ s.rawPlaces n.val c) :
    exec (.loadRaw n tag) s = .next ((s.started n.val 0x21 tag).finish n.val 0x21 tag 0x204 0 0) := by
  obtain ⟨he, row⟩ := exec_loadRaw_runs hb hw
  simp only [State.rawPlaces, not_and_or, Bool.not_eq_true] at h
  rw [he, execLoadRaw, row]
  simp [h]

theorem exec_loadRaw_forbidden (h : s.rawPlaces n.val c) (hd : c.p 10 1 ≠ 0) (hm : s.mayLast n.val = false) :
    exec (.loadRaw n tag) s = .next ((s.started n.val 0x21 tag).finish n.val 0x21 tag 0x239 0 0) := by
  obtain ⟨he, row⟩ := exec_loadRaw_runs hb hw
  rw [he, execLoadRaw, row]
  simp [h.1, h.2, hd, hm]

theorem exec_loadRaw_busy (h : s.rawPlaces n.val c) (hd : c.p 10 1 ≠ 0) (hm : s.mayLast n.val = true)
    (hl : (s.last (c.p 10 1)).st = 1 ∨ (s.last (c.p 10 1)).st = 3 ∨ (s.last (c.p 10 1)).st = 4) :
    exec (.loadRaw n tag) s = .next ((s.started n.val 0x21 tag).finish n.val 0x21 tag 0x237 0 0) := by
  obtain ⟨he, row⟩ := exec_loadRaw_runs hb hw
  rw [he, execLoadRaw, row]
  simp [h.1, h.2, hd, hm, hl, or_assoc]

include hs

/-- Into the context itself, the descriptors are checked as they stand. -/
theorem exec_loadRaw_checked (h : s.rawPlaces n.val c) (hd : c.p 10 1 = 0) :
    let t := s.started n.val 0x21 tag
    let ds := s.rawDescs c
    let rs := (ds.map (·.1)).flatMap Layout.ranges
    let st := s.rawStatus n.val c ds
    let u := roundUp (rawBytes (ds.map (·.1))) unit2M / unit2M
    (st ≠ 0 → exec (.loadRaw n tag) s = .next (t.refuseLoad n.val 0x21 tag 0 (if st = 0x23B then [] else rs) st)) ∧
    (st = 0 → c.p 9 1 = 2 → exec (.loadRaw n tag) s = .next (t.enterLoad (rawLoad n.val tag c (ds.map (·.1)) none))) ∧
    (∀ a, st = 0 → c.p 9 1 = 0 → s.rawStage n.val (rawBytes (ds.map (·.1))) = .ok a →
      exec (.loadRaw n tag) s = .next ((t.addUsed n.val 2 u).enterLoad (rawLoad n.val tag c (ds.map (·.1)) (some (a, u))))) := by
  obtain ⟨he, row⟩ := exec_loadRaw_runs hb hw
  have hread : (s.started n.val 0x21 tag).load (c.p 16 8) (64 * c.p 12 2) =
      (.inl (Mem.read s.mem (c.p 16 8) (64 * c.p 12 2)), s.started n.val 0x21 tag) := State.load_clean (hs.started ..) _ _
  intro t ds rs st u
  rw [he, execLoadRaw, row]
  simp only [State.started_inAllocs, State.started_sourceOk, h.1, h.2, hd, hread, State.beginLast, bne_self_eq_false, Bool.false_and,
    Bool.not_true, Bool.or_self, Bool.false_eq_true, if_false, beq_self_eq_true, if_true, State.rawStatus_started, State.rawStage_started]
  have hds : parseLayouts (Mem.read s.mem (c.p 16 8) (64 * c.p 12 2)) (c.p 12 2) = ds := rfl
  simp only [hds, bne_iff_ne, beq_iff_eq]
  refine ⟨fun hst => ?_, fun hst hsrc => ?_, fun a hst hsrc ha => ?_⟩
  · rw [if_pos hst]
  · rw [if_neg (not_not.2 hst), if_pos hsrc]
  · rw [if_neg (not_not.2 hst), if_neg (by omega)]
    simp only [ha]
    rfl

end

/-- The use of T2 by a context whose command has taken a staging area. -/
theorem State.used_stage (s : State) (n op : Nat) (tag : BitVec 16) (u : Nat) :
    (((s.started n op tag).addUsed n 2 u).ctx n).mem.used 2 = (s.ctx n).mem.used 2 + u := by
  have h : ((s.started n op tag).ctx n).mem = (s.ctx n).mem := State.ctx_modCHost_mem ..
  rw [State.addUsed, State.ctx_modCtx, ← h]
  rfl

/-- LOAD_RAW into the context itself (03 R81, 08 R199, R204). -/
theorem loadRaw_context {n : CtxId} {tag : Tag} {c : Cmd} {s : State} (hb : Begins s n.val 0x21 tag c) (hs : CleanStore s)
    (hw : c.p 9 1 ≠ 0 ∨ s.rawWaits n.val c = false) (h : s.rawPlaces n.val c) (hd : c.p 10 1 = 0) :
    let i := Instr.loadRaw n tag
    let ds := s.rawDescs c
    let st := s.rawStatus n.val c ds
    ((∃ x ∈ ds, x.1.ok x.2 false = false) ∨ layoutsApart (ds.map (·.1)) = false → st = 0x23B) ∧
    (st = 0x23B → EndsWith i s n.val 0x21 tag st 0 0) ∧
    (st ≠ 0 → ∃ t, Answers i s t ∧ Done t n.val 0x21 tag st 0 0 ∧ t.loads = s.loads ∧
      ∀ x, (∀ r ∈ (ds.map (·.1)).flatMap Layout.ranges, x < r.1 ∨ r.1 + r.2 ≤ x) → Mem.byte t.mem x = Mem.byte s.mem x) ∧
    (st = 0 → c.p 9 1 = 2 → ∃ t, Answers i s t ∧ t.mem = s.mem ∧
      t.loads.map Load.bare = (s.loads ++ [rawLoad n.val tag c (ds.map (·.1)) none]).map Load.bare) ∧
    (st = 0 → c.p 9 1 = 0 → let u := roundUp (rawBytes (ds.map (·.1))) unit2M / unit2M
      ∀ a, s.rawStage n.val (rawBytes (ds.map (·.1))) = .ok a → ∃ t, Answers i s t ∧ t.mem = s.mem ∧
        t.loads.map Load.bare = (s.loads ++ [rawLoad n.val tag c (ds.map (·.1)) (some (a, u))]).map Load.bare ∧
        (t.ctx n.val).mem.used 2 = (s.ctx n.val).mem.used 2 + u) := by
  intro i ds st
  obtain ⟨refused, entered, staged⟩ := exec_loadRaw_checked hb hs hw h hd
  obtain ⟨d, hrun⟩ := State.started_cmd? hb.cmd
  have hdest : ∀ stage, (rawLoad n.val tag c (ds.map (·.1)) stage).dest = 0 := fun _ => hd
  refine ⟨fun hbad => ?_, fun hst => ?_, fun hst => ?_, fun hst hsrc => ?_, fun hst hsrc => ?_⟩
  · have : (!(ds.all fun x => x.1.ok x.2 false) || !layoutsApart (ds.map (·.1))) = true := by
      simpa using hbad
    simp only [st, State.rawStatus, hd, bne_self_eq_false, this, if_true]
  · have he := refused (show st ≠ 0 by omega)
    rw [if_pos hst] at he
    exact EndsWith.of_finish hb.cmd he
  · obtain ⟨hdone, hl, hbytes⟩ := State.refuseLoad_context (hs.started n.val 0x21 tag) hrun
      (if st = 0x23B then [] else (ds.map (·.1)).flatMap Layout.ranges) st
    refine ⟨_, refused hst, hdone, hl, fun x hx => hbytes x fun r hr => hx r ?_⟩
    split at hr
    · cases hr
    · exact hr
  · have ask := State.enterLoad_askedOnly (s.started n.val 0x21 tag) (hdest none)
    exact ⟨_, entered hst hsrc, ask.mem, ask.loads⟩
  · intro u a ha
    have ask := State.enterLoad_askedOnly ((s.started n.val 0x21 tag).addUsed n.val 2 u) (hdest (some (a, u)))
    refine ⟨_, staged a hst hsrc ha, ask.mem, ask.loads, ?_⟩
    rw [State.ctx, ask.ctxs]
    exact s.used_stage n.val 0x21 tag u

theorem State.loads_modLoad {s : State} {k : Nat} {l : Load} (hl : s.loads[k]? = some l) (f : Load → Load) :
    (s.modLoad k f).loads[k]? = some (f l) := by
  simp [State.modLoad, hl]

/-- The greatest magnitudes of the two outputs of each tensor of a source, as the arrival measures them (03 R81). -/
def rawAmaxes (ls : List Layout) (src : Nat → Byte) : SMap (SMap F32) :=
  ((List.range ls.length).flatMap fun i =>
    match ls[i]? with | some d => [(2 * i, d.amax src 0), (2 * i + 1, d.amax src 1)] | none => []).filter fun e => !e.2.isEmpty

/-- A load for a context without a program enters no history. -/
theorem State.loadHists_none {s : State} {l : Load} (h : l.ctx = 16 ∨ (s.ctx l.ctx).prog = none) : s.loadHists l = s := by
  obtain h | h := h <;> simp [State.loadHists, h]

/-! ## The arrival of a raw load's source (03 R81, 08 R201) -/

section
variable {k : Nat} {l : Load} {s : State} (hl : s.loads[k]? = some l) (hr : l.raw = true) (live : s.live = true) (hd : l.dest = 0)
include hl hr live hd

/-- A host source that has gone or that brought too few bytes fails the load (08 R202). -/
theorem exec_rawArrival_fails {data : List Byte} (h0 : l.arrived = 0) (hsrc : l.source = 0)
    (h : s.hostOpen l = false ∨ (0 < l.asked ∧ data.length < rawBytes l.layouts)) :
    exec (.rawArrivalComplete k data 0) s = .next (s.failLoad k 0x213) := by
  have due : s.hostDue l = true := by
    obtain h | h := h
    · simp [State.hostDue, h]
    · simp [State.hostDue, Load.answered, hr, h0, h.1]
  have short : (l.source == 0 && (decide (data.length < rawBytes l.layouts) || !s.hostOpen l)) = true := by
    obtain h | h := h <;> simp [hsrc, h]
  change execRawArrivalComplete k data s 0 = _
  simp only [execRawArrivalComplete, hl, hr, h0, live, due, State.giveSpace_context hl hd]
  simp [short]

/-- A source that has arrived is measured; without a program no history is entered (03 R81). -/
theorem rawArrival_arrives (hs : CleanStore s) {data : List Byte} (h0 : l.arrived = 0) (noProg : l.ctx = 16 ∨ (s.ctx l.ctx).prog = none)
    (h : l.source = 2 ∨ (l.source = 0 ∧ s.hostOpen l = true ∧ 0 < l.asked ∧ rawBytes l.layouts ≤ data.length)) :
    ∃ t a am, Answers (.rawArrivalComplete k data 0) s t ∧
      t.loads[k]? = some { l with asked := a, arrived := rawBytes l.layouts, amaxes := am } ∧
      t.mem = Mem.write s.mem l.srcAddr (if l.source = 0 then data.take (rawBytes l.layouts) else []) := by
  have due : s.hostDue l = true := by
    obtain h | ⟨hsrc, hopen, hasked, -⟩ := h
    · simp [State.hostDue, h]
    · simp [State.hostDue, Load.answered, hr, h0, hasked]
  have enough : (l.source == 0 && (decide (data.length < rawBytes l.layouts) || !s.hostOpen l)) = false := by
    obtain h | ⟨hsrc, hopen, -, hlen⟩ := h
    · simp [h]
    · simp [hopen, Nat.not_lt.2 hlen]
  set s1 := if l.source == 0 then s.askRest k else s with hs1
  have ask : AskedOnly s s1 := by
    rw [hs1]; split
    · exact s.askRest_askedOnly k
    · exact AskedOnly.refl s
  obtain ⟨a, hl1⟩ := ask.load hl
  set s2 := s1.setBytes l.srcAddr (if l.source == 0 then data.take (rawBytes l.layouts) else []) with hs2
  have clean2 : CleanStore s2 := (ask.clean hs).setBytes _ _
  have got : ∀ f, (s2.modLoad k f).loads[k]? = some (f { l with asked := a }) := State.loads_modLoad hl1
  have noProg2 : l.ctx = 16 ∨ (s2.ctx l.ctx).prog = none := by
    rw [State.ctx, show s2.ctxs = s.ctxs from ask.ctxs]; exact noProg
  set am := rawAmaxes l.layouts fun a => Mem.byte s2.mem (l.srcAddr + a)
  have run : execRawArrivalComplete k data s 0 =
      .next (s2.modLoad k fun x => { x with arrived := rawBytes l.layouts, amaxes := am }).askLoads := by
    simp only [execRawArrivalComplete, hl, hr, h0, live, due, State.giveSpace_context hl hd, State.cross_zero, ← hs1,
      State.land_clean (ask.clean hs), ← hs2, State.badIn_clean clean2, State.meetWords, Bool.not_true, lt_irrefl,
      decide_false, Bool.or_self, Bool.false_eq_true, if_false, enough, got]
    rw [State.loadHists_none (by exact noProg2)]
    rfl
  have ask' := State.askLoads_askedOnly (s2.modLoad k fun x => { x with arrived := rawBytes l.layouts, amaxes := am })
  obtain ⟨a', hl'⟩ := ask'.load (got _)
  refine ⟨_, a', am, run, hl', ask'.mem.trans ?_⟩
  simp only [hs2, State.modLoad, State.setBytes, ask.mem, beq_iff_eq]

/-- A pass of the quantiser writes one output at its destination and leaves the list of passes without it (08 R200). -/
theorem quantiserPass_writes (hs : CleanStore s) (hcome : l.arrived ≠ 0) {i j : Nat} {rest : List (Nat × Nat)} {d : Layout}
    (hp : l.passes = (i, j) :: rest) (hi : l.layouts[i]? = some d) :
    let src := fun a => Mem.byte s.mem (l.srcAddr + a)
    let bs := (d.output src ((s.ctx l.ctx).loadRow d) (SMap.get [] l.amaxes (2 * i + j % 2)) j).1
    ∃ t, Answers (.quantiserPassComplete k 0) s t ∧ t.loads[k]? = some { l with passes := rest } ∧
      t.mem = Mem.write s.mem (d.dest j) bs := by
  intro src bs
  have run : ∃ x y, execQuantiserPassComplete k s 0 =
      .next (((s.setBytes (d.dest j) bs).arith l.ctx x y).modLoad k fun l => { l with passes := rest }) := by
    refine ⟨(d.output src ((s.ctx l.ctx).loadRow d) (SMap.get [] l.amaxes (2 * i + j % 2)) j).2,
      (if j == 2 then 2 else d.fmt) == (s.ctx l.ctx).gradFmt, ?_⟩
    simp only [execQuantiserPassComplete, hl, hr, hp, hi, live, hd, hcome, State.cross_zero, State.badIn_clean hs, State.meetWords,
      State.land_clean hs, beq_self_eq_true, if_true, Nat.zero_add, Bool.not_true, beq_eq_false_iff_ne.2, Bool.or_self, ne_eq,
      not_false_eq_true, Bool.false_eq_true, if_false]
    rfl
  obtain ⟨x, y, run⟩ := run
  exact ⟨_, run, State.loads_modLoad (s := (s.setBytes (d.dest j) bs).arith l.ctx x y) hl _, rfl⟩

/-- A raw load whose passes have run leaves the list, and its command ends (08 R203). -/
theorem loadComplete_ends {c : Cmd} (hcome : l.arrived ≠ 0) (hcopy : l.copying = false) (hp : l.passes = [])
    (hc : s.cmd? l.ctx l.opcode l.tag true = some c) :
    ∃ t, Answers (.loadComplete k) s t ∧ Done t l.ctx l.opcode l.tag 0 l.arrived 0 ∧ t.loads = dropAt k s.loads ∧ t.mem = s.mem := by
  set u := ((s.noteCopies l).releaseStage l).useSets l.ctx (l.layouts.map (·.set)) with hu
  have kept : HostsKept s u :=
    ((s.noteCopies_hostsKept l).trans (State.releaseStage_hostsKept ..)).trans (State.useSets_hostsKept ..)
  obtain ⟨xs, fs, frame⟩ := kept.rest
  have run : execLoadComplete k s = .next (({ u with loads := dropAt k u.loads } : State).finish l.ctx l.opcode l.tag 0 l.arrived 0) := by
    simp only [execLoadComplete, hl, hr, live, hd, Load.done, hcopy, hp, Nat.pos_of_ne_zero hcome, State.readyLast, State.loadGen]
    simp [hu, live]
  have running : ({ u with loads := dropAt k u.loads } : State).cmd? l.ctx l.opcode l.tag true = some c :=
    (State.cmd?_congr (kept.host l.ctx) ..).trans hc
  refine ⟨_, run, State.finish_done running _ _ _, ?_, ?_⟩
  · rw [State.finish_loads, frame]
  · rw [State.finish_mem, frame]

end

/-! ## The switch of the last (08 R205, R207, R210, R214) -/

section
variable {n : CtxId} {tag : Tag} {c : Cmd} {s : State} (hb : Begins s n.val 0x22 tag c)
include hb

theorem exec_lastSwitch_forbidden (h : s.mayLast n.val = false) :
    exec (.lastSwitch n tag) s = .next ((s.started n.val 0x22 tag).finish n.val 0x22 tag 0x239 0 0) := by
  change execLastSwitch n tag s = _
  rw [execLastSwitch, State.command_runs hb]
  simp [h]

theorem exec_lastSwitch_absent (h : s.mayLast n.val = true) (hst : (s.last (c.p 8 1 + 1)).st = 0 ∨ (s.last (c.p 8 1 + 1)).st = 1) :
    exec (.lastSwitch n tag) s = .next ((s.started n.val 0x22 tag).finish n.val 0x22 tag 0x238 0 0) := by
  change execLastSwitch n tag s = _
  rw [execLastSwitch, State.command_runs hb]
  simp [h, hst]

theorem exec_lastSwitch_active (h : s.mayLast n.val = true) (hst : (s.last (c.p 8 1 + 1)).st = 3) :
    exec (.lastSwitch n tag) s =
      .next ((s.started n.val 0x22 tag).finish n.val 0x22 tag 0 (if s.lastPtr.active then 1 else 0) 0) := by
  change execLastSwitch n tag s = _
  rw [execLastSwitch, State.command_runs hb]
  simp only [State.started_mayLast, State.started_last, h, hst]
  rfl

/-- A READY or DRAINING last waits for the switch point. -/
theorem exec_lastSwitch_waits (h : s.mayLast n.val = true) (hst : (s.last (c.p 8 1 + 1)).st = 2 ∨ (s.last (c.p 8 1 + 1)).st = 4) :
    exec (.lastSwitch n tag) s = .next { s.started n.val 0x22 tag with
      lastPtr := { s.lastPtr with pendingSw := s.lastPtr.pendingSw ++ [(n.val, tag, c.p 8 1 + 1)] } } := by
  change execLastSwitch n tag s = _
  rw [execLastSwitch, State.command_runs hb]
  obtain hst | hst := hst <;> simp only [State.started_mayLast, State.started_last, h, hst] <;> rfl

end

/-- The state in which the oldest accepted switch is judged: the switches after it still wait. -/
def State.popSwitch (s : State) (rest : List (Nat × BitVec 16 × Nat)) : State := { s with lastPtr := { s.lastPtr with pendingSw := rest } }

section
variable {n i : Nat} {tag : BitVec 16} {rest : List (Nat × BitVec 16 × Nat)} {s : State}
  (hp : s.lastPtr.pendingSw = (n, tag, i) :: rest) (live : s.live = true)
include hp live

theorem exec_switchPoint : exec .switchPoint s = .next (
    if (s.last i).st == 0 || (s.last i).st == 1 then (s.popSwitch rest).finish n 0x22 tag 0x238 0 0
    else (if (s.last i).st == 3 then s.popSwitch rest else (s.popSwitch rest).switchTo i).finish n 0x22 tag 0 (i - 1) 0) := by
  change execSwitchPoint s = _
  simp only [execSwitchPoint, hp, live]
  rfl

theorem exec_switchPoint_absent (hst : (s.last i).st = 0 ∨ (s.last i).st = 1) :
    exec .switchPoint s = .next ((s.popSwitch rest).finish n 0x22 tag 0x238 0 0) := by
  rw [exec_switchPoint hp live, if_pos (by simpa using hst)]

theorem exec_switchPoint_active (hst : (s.last i).st = 3) :
    exec .switchPoint s = .next ((s.popSwitch rest).finish n 0x22 tag 0 (i - 1) 0) := by
  rw [exec_switchPoint hp live, if_neg (by simp [hst]), if_pos (by simp [hst])]

theorem exec_switchPoint_moves (hst : ¬ ((s.last i).st = 0 ∨ (s.last i).st = 1)) (h3 : (s.last i).st ≠ 3) :
    exec .switchPoint s = .next (((s.popSwitch rest).switchTo i).finish n 0x22 tag 0 (i - 1) 0) := by
  rw [exec_switchPoint hp live, if_neg (by simpa using hst), if_neg (by simpa using h3)]

end

theorem State.switchTo_last (s : State) {i : Nat} (hi : i = 1 ∨ i = 2) :
    (s.switchTo i).last i = { s.last i with st := 3 } ∧ (s.switchTo i).last (3 - i) = (s.last (3 - i)).giveWay := by
  obtain rfl | rfl := hi <;> exact ⟨rfl, rfl⟩

theorem State.switchTo_rest (s : State) (i : Nat) :
    (s.switchTo i).mem = s.mem ∧ (s.switchTo i).ctxs = s.ctxs ∧
      (s.switchTo i).lastPtr = { s.lastPtr with active := i == 2, valid := true, switches := satAdd 32 s.lastPtr.switches 1 } := by
  simp only [State.switchTo, State.setLast]
  split <;> split <;> exact ⟨rfl, rfl, rfl⟩

/-- SWITCH_POINT with a switch that waits (08 R207, R210, R214). -/
theorem switchPoint_takes {n i : Nat} {tag : BitVec 16} {rest : List (Nat × BitVec 16 × Nat)} {c : Cmd} {s : State}
    (hp : s.lastPtr.pendingSw = (n, tag, i) :: rest) (live : s.live = true) (hc : s.cmd? n 0x22 tag true = some c) (hi : i = 1 ∨ i = 2) :
    ∃ t, Answers .switchPoint s t ∧ t.lastPtr.pendingSw = rest ∧ t.mem = s.mem ∧
      ((s.last i).st = 2 ∨ (s.last i).st = 4 → Done t n 0x22 tag 0 (i - 1) 0 ∧ t.last i = { s.last i with st := 3 } ∧
        t.last (3 - i) = (s.last (3 - i)).giveWay ∧ t.lastPtr.active = (i == 2) ∧ t.lastPtr.valid = true ∧
        t.lastPtr.switches = satAdd 32 s.lastPtr.switches 1) ∧
      ((s.last i).st = 0 ∨ (s.last i).st = 1 → Done t n 0x22 tag 0x238 0 0 ∧ t.lastA = s.lastA ∧ t.lastB = s.lastB) ∧
      ((s.last i).st = 3 → Done t n 0x22 tag 0 (i - 1) 0 ∧ t.lastA = s.lastA ∧ t.lastB = s.lastB) := by
  have running : (s.popSwitch rest).cmd? n 0x22 tag true = some c := hc
  by_cases hst : (s.last i).st = 0 ∨ (s.last i).st = 1
  · refine ⟨_, exec_switchPoint_absent hp live hst, by rw [State.finish_lastPtr]; rfl, State.finish_mem .., fun h => by omega, fun _ => ?_,
      fun h => by omega⟩
    exact ⟨State.finish_done running _ _ _, State.finish_lastA .., State.finish_lastB ..⟩
  · by_cases h3 : (s.last i).st = 3
    · refine ⟨_, exec_switchPoint_active hp live h3, by rw [State.finish_lastPtr]; rfl, State.finish_mem .., fun h => by omega,
        fun h => by omega, fun _ => ?_⟩
      exact ⟨State.finish_done running _ _ _, State.finish_lastA .., State.finish_lastB ..⟩
    · obtain ⟨named, other⟩ := (s.popSwitch rest).switchTo_last hi
      obtain ⟨hmem, hctxs, hptr⟩ := (s.popSwitch rest).switchTo_rest i
      have running' : ((s.popSwitch rest).switchTo i).cmd? n 0x22 tag true = some c := by
        rw [State.cmd?_congr (s := s.popSwitch rest) (by rw [State.ctx, hctxs]; rfl)]; exact running
      refine ⟨_, exec_switchPoint_moves hp live hst h3, by rw [State.finish_lastPtr, hptr]; rfl, (State.finish_mem ..).trans hmem,
        fun _ => ?_, fun h => absurd h hst, fun h => absurd h h3⟩
      rw [State.finish_last, State.finish_last, State.finish_lastPtr, hptr]
      exact ⟨State.finish_done running' _ _ _, named, other, rfl, rfl, rfl⟩

/-! ## The obligation -/

/-- Settles O52: LOAD_RAW row by row, then the arrival, the passes and the end of a load, then the two instructions of the switch. -/
theorem rawLoadsAndSwitches : Obligations.RawLoadsAndSwitches := by
  unfold Obligations.RawLoadsAndSwitches
  refine ⟨?loadRaw, ?landing, ?lastSwitch, ?switchPoint, fun s h => ?idle⟩
  case loadRaw =>
    intro n tag c s hb hs i d count ds bytes places hw
    refine ⟨fun h => ?_, fun h hd hm => ?_, fun h hd hm hl => ?_, fun h hd => loadRaw_context hb hs hw h hd⟩
    · exact EndsWith.of_finish hb.cmd (exec_loadRaw_misplaced hb hw h)
    · exact EndsWith.of_finish hb.cmd (exec_loadRaw_forbidden hb hw h hd hm)
    · exact EndsWith.of_finish hb.cmd (exec_loadRaw_busy hb hw h hd hm hl)
  case landing =>
    intro k l s hl hr live hd hs
    refine ⟨fun h0 noProg => ?arrival, ?pass, ?ends⟩
    case arrival =>
      intro n
      refine ⟨fun data hsrc => ?_, fun data hsrc hopen hasked hlen => ?_, fun data c hsrc hshort hc => ?_⟩
      · obtain ⟨t, a, am, run, hl', hmem⟩ := rawArrival_arrives hl hr live hd hs (data := data) h0 noProg (.inl hsrc)
        rw [if_neg (by omega)] at hmem
        exact ⟨t, _, run, hmem, hl', rfl, rfl, rfl⟩
      · obtain ⟨t, a, am, run, hl', hmem⟩ := rawArrival_arrives hl hr live hd hs h0 noProg (.inr ⟨hsrc, hopen, hasked, hlen⟩)
        have width : (data.take n).length = n := List.length_take_of_le hlen
        rw [if_pos hsrc] at hmem
        refine ⟨t, _, run, hl', rfl, ?_, fun x hx => ?_⟩
        · have := Mem.read_write s.mem l.srcAddr (data.take n)
          rw [width] at this
          rw [hmem]; exact this
        · rw [hmem]
          exact Mem.byte_write_other _ _ _ _ (by rw [width]; exact hx)
      · have opcode : l.opcode = 0x21 := by simp [Load.opcode, hr]
        obtain ⟨gone, hdone⟩ := State.failLoad_context hs hl hd (by rw [opcode]; exact hc) 0x213
        rw [opcode] at hdone
        exact ⟨_, exec_rawArrival_fails hl hr live hd h0 hsrc hshort, gone, hdone⟩
    case pass =>
      intro i j rest d hcome hp hi src bs a
      obtain ⟨t, run, hl', hmem⟩ := quantiserPass_writes hl hr live hd hs hcome hp hi
      refine ⟨t, run, hl', ?_, fun x hx => ?_⟩
      · rw [hmem]; exact Mem.read_write ..
      · rw [hmem]; exact Mem.byte_write_other _ _ _ _ hx
    case ends =>
      intro c hcome hcopy hp hc
      have opcode : l.opcode = 0x21 := by simp [Load.opcode, hr]
      have := loadComplete_ends hl hr live hd hcome hcopy hp (by rw [opcode]; exact hc)
      rwa [opcode] at this
  case lastSwitch =>
    intro n tag c s hb i st
    refine ⟨fun hm => EndsWith.of_finish hb.cmd (exec_lastSwitch_forbidden hb hm), fun hm => ⟨fun h => ?_, fun h => ?_, fun h => ?_⟩⟩
    · exact EndsWith.of_finish hb.cmd (exec_lastSwitch_absent hb hm h)
    · exact EndsWith.of_finish hb.cmd (exec_lastSwitch_active hb hm h)
    · exact ⟨_, exec_lastSwitch_waits hb hm h, rfl, rfl, rfl, rfl⟩
  case switchPoint =>
    intro n i tag rest c s hp live hc hi o
    obtain ⟨t, run, hrest, hmem, moved, stays⟩ := switchPoint_takes hp live hc hi
    refine ⟨t, run, hrest, hmem, fun h => ?_, stays⟩
    obtain ⟨hdone, named, other, ptr⟩ := moved h
    refine ⟨hdone, named, other.trans ?_, ptr⟩
    simp [Last.giveWay, o]
  case idle =>
    change execSwitchPoint s = _
    simp [execSwitchPoint, h]

end Sys2Proof.Machine

/-! Vector instructions: the issue check, queue 2 of the core, and the pump behind it (04 R98, R499, 05 R128, R133 to R141). -/

namespace Sys2Proof.Machine
open Sys2Proof

/-! ## What a vector instruction leaves of the queues -/

/-- From `a` to `s` every word stays good and no core's queue 2 or queue 3 changes. -/
structure QueuesKept (a s : State) : Prop where
  clean : CleanStore s
  vq : ∀ x, (s.core x).vq = (a.core x).vq
  dq : ∀ x, (s.core x).dq = (a.core x).dq

namespace QueuesKept
variable {a s : State}

theorem refl (h : CleanStore s) : QueuesKept s s := ⟨h, fun _ => rfl, fun _ => rfl⟩

theorem ite {p : Prop} [Decidable p] {s t : State} (h : QueuesKept a s) (h' : QueuesKept a t) : QueuesKept a (if p then s else t) := by
  split
  · exact h
  · exact h'

theorem foldl {α : Type} {f : State → α → State} (hf : ∀ s x, QueuesKept a s → QueuesKept a (f s x)) (l : List α) (h : QueuesKept a s) :
    QueuesKept a (l.foldl f s) := by
  induction l generalizing s with
  | nil => exact h
  | cons x l ih => exact ih (hf s x h)

theorem modCtx (h : QueuesKept a s) (n : Nat) (f : Ctx → Ctx) : QueuesKept a (s.modCtx n f) :=
  ⟨⟨h.clean.bad, h.clean.arm, h.clean.rst⟩, h.vq, h.dq⟩

/-- A change of a core that leaves its queues 2 and 3. -/
theorem modCore (h : QueuesKept a s) (c : Nat) {f : Core → Core} (hf : ∀ k, (f k).vq = k.vq ∧ (f k).dq = k.dq) :
    QueuesKept a (s.modCore c f) := by
  have hc : ∀ x, ((s.modCore c f).core x).vq = (s.core x).vq ∧ ((s.modCore c f).core x).dq = (s.core x).dq := by
    intro x
    by_cases hx : c = x
    · subst hx; rw [State.core_modCore]; exact hf _
    · rw [State.core_modCore_other _ _ hx]; exact ⟨rfl, rfl⟩
  exact ⟨⟨h.clean.bad, h.clean.arm, h.clean.rst⟩, fun x => (hc x).1.trans (h.vq x), fun x => (hc x).2.trans (h.dq x)⟩

theorem setBytes (h : QueuesKept a s) (b : Nat) (bs : List Byte) : QueuesKept a (s.setBytes b bs) := ⟨h.clean.setBytes b bs, h.vq, h.dq⟩

theorem setCoreBytes (h : QueuesKept a s) (c off : Nat) (bs : List Byte) : QueuesKept a (s.setCoreBytes c off bs) := by
  rw [State.setCoreBytes_clean h.clean]
  exact h.setBytes _ _

theorem coreArith (h : QueuesKept a s) (c : Nat) (e : Ev) (g : Bool) : QueuesKept a (s.coreArith c e g) := by
  unfold State.coreArith
  split
  · exact h.modCtx _ _
  · exact h

theorem setVec (h : QueuesKept a s) (c off v : Nat) (xs : List F32) : QueuesKept a (s.setVec c off v xs) := h.setCoreBytes c _ _

theorem putLanes (h : QueuesKept a s) (c off v : Nat) (r : List (F32 × Ev)) : QueuesKept a (s.putLanes c off v r) :=
  (h.setVec c off v _).coreArith c _ _

/-! ### Descales (03 R55, R72) -/

theorem recordDescales (h : QueuesKept a s) (n c : Nat) (k : Core) (ds : List (Nat × F32 × Ev)) : QueuesKept a (s.recordDescales n c k ds) := by
  have h' := h.modCtx n fun y => { y with saved := SMap.set none y.saved c (some (k.putDescales ds)) }
  unfold State.recordDescales
  generalize State.modCtx s n _ = s' at h' ⊢
  dsimp only
  split
  · refine foldl (fun s d h => ?_) ds h'
    rw [State.storeScale, State.store_clean h.clean]
    exact h.setBytes _ _
  · exact h'

theorem newScale (h : QueuesKept a s) (n : Nat) (r : Run) (tid : BitVec 32) : QueuesKept a (s.newScale n r tid) := by
  rw [State.newScale, State.allDescales, State.badScales_clean h.clean]
  refine foldl (fun s x h => ?_) _ h
  unfold State.writeDescales
  simp only [h.clean.rst, Bool.false_and, Bool.false_eq_true, if_false]
  exact h.ite (ite ((h.modCore x fun k => k.putDescales_queues _).modCtx _ _) ((h.recordDescales _ _ _ _).modCtx _ _))

theorem fixScales (h : QueuesKept a s) (c i : Nat) (m : SMap F32) : QueuesKept a (s.fixScales c i m) := by
  unfold State.fixScales
  split
  · exact h.ite ((h.modCtx _ _).newScale _ _ _)
  · exact h

theorem produces (h : QueuesKept a s) (c i : Nat) (chans : List Nat) : QueuesKept a (s.produces c i chans) := by
  unfold State.produces
  split
  · exact h.ite ((h.modCtx _ _).newScale _ _ _)
  · exact h

/-! ### QNT (05 R140) -/

theorem recordSlot (h : QueuesKept a s) (c i : Nat) (es : List Elem) : QueuesKept a (s.recordSlot c i es) := by
  unfold State.recordSlot
  split
  · exact h
  have h' : ∀ sl, QueuesKept a (s.modCore c fun k => k.setSlot i (some (es.foldl Slot.record sl))) := fun sl => h.modCore c fun k => ⟨rfl, rfl⟩
  dsimp only
  split
  · exact h' _
  split
  · exact ite ((h' _).modCtx _ _) (h' _)
  · exact h' _

theorem qntStep (h : QueuesKept a s) (c : Nat) (w : VecWork) (f : Nat) (scale : Nat → F32) (record : Bool) (v : Nat) :
    QueuesKept a (State.qntStep c w f scale record s v) := by
  unfold State.qntStep
  extract_lets es off s1 s2 s3
  have h2 : QueuesKept a s2 := (h.setCoreBytes c off _).coreArith c _ _
  have h3 : QueuesKept a s3 := ite (h2.modCore c fun k => ⟨rfl, rfl⟩) h2
  exact ite (h3.recordSlot c _ es) h3

theorem qnt (h : QueuesKept a s) (c : Nat) (w : VecWork) : QueuesKept a (s.qnt c w) := by
  have vectors : ∀ {s} (f : Nat) (scale : Nat → F32) (record : Bool), QueuesKept a s →
      QueuesKept a (eachVec (State.qntStep c w f scale record) w.f.n s) :=
    fun f scale record h => foldl (fun _ v h => h.qntStep c w f scale record v) _ h
  unfold State.qnt
  extract_lets one s1
  have h1 : QueuesKept a s1 := ite h (h.produces c _ _)
  refine ite (vectors _ _ _ h) (ite ((vectors _ _ _ h).modCore c fun k => ⟨rfl, rfl⟩) ?_)
  split
  · exact vectors _ _ _ h1
  · exact h1

/-! ### The other instructions (05 R128, R134 to R137, R141) -/

theorem vred (h : QueuesKept a s) (c : Nat) (w : VecWork) : QueuesKept a (s.vred c w) := by
  unfold State.vred
  extract_lets fn first
  split
  refine ite ((h.setVec c _ _ _).coreArith c _ _) ?_
  split
  refine coreArith ?_ c _ _
  exact ite (h.modCore c fun k => ⟨rfl, rfl⟩) (h.setCoreBytes c _ _)

theorem vany (h : QueuesKept a s) (c : Nat) (w : VecWork) : QueuesKept a (s.vany c w) := by
  unfold State.vany
  exact h.modCore c fun k => ⟨rfl, rfl⟩

theorem sld (h : QueuesKept a s) (c : Nat) (w : VecWork) : QueuesKept a (s.sld c w) := by
  unfold State.sld
  refine h.modCore c fun k => ?_
  generalize (f32s (s.coreBytes c w.ra.toNat (1024 * w.f.n))).zip _ = ps
  induction ps generalizing k with
  | nil => exact ⟨rfl, rfl⟩
  | cons p ps ih => exact ih (k.setS p.2 p.1)

/-- A vector instruction changes no queue 2 and no queue 3. -/
theorem vecEffect (h : QueuesKept a s) (c : Nat) (w : VecWork) : QueuesKept a (s.vecEffect c w) := by
  unfold State.vecEffect
  cases w.op with
  | vop => exact foldl (fun s v h => h.putLanes c _ v _) _ h
  | vred => exact h.vred c w
  | vany => exact h.vany c w
  | act => exact foldl (fun s v h => h.putLanes c _ v _) _ h
  | qnt => exact h.qnt c w
  | wid => exact foldl (fun s v h => h.putLanes c _ v _) _ h
  | sld => exact h.sld c w
  | sst => exact h.setCoreBytes c _ _

end QueuesKept

/-! ## The pump behind queue 2 (04 R98, R499) -/

theorem Core.headPhase_dq (k : Core) (p : Nat) : (k.headPhase p).dq = k.dq := by unfold Core.headPhase; split <;> rfl

/-- Where the head of queue 2 has started and queue 3 is empty, the pump finds nothing to start. -/
theorem State.pump_started {s : State} {c : Nat} (hv : ∀ e ∈ (s.core c).vq.head?, e.phase ≠ 0) (hd : (s.core c).dq = []) : s.pump c = s := by
  have hvq : s.startVq c = none := by
    unfold State.startVq
    dsimp only
    split
    · rfl
    · rename_i e es h
      rw [if_pos]
      simp [hv e (by simp [h])]
  simp [State.pump, State.pumpN, hvq, State.startDq_nil hd]

/-- A pump that starts the one thing that may start: the head of queue 2, which then stands in another phase. -/
theorem State.pump_startVq {s t : State} {c p : Nat} (h : s.startVq c = some (t.modCore c fun k => k.headPhase p)) (hp : p ≠ 0)
    (hd : (t.core c).dq = []) : s.pump c = t.modCore c fun k => k.headPhase p := by
  have hvq : (t.modCore c fun k => k.headPhase p).startVq c = none := by
    unfold State.startVq Core.headPhase
    rw [State.core_modCore]
    dsimp only
    split
    · rfl
    · rename_i e es h
      rw [if_pos]
      split at h
      · cases h; simp [hp]
      · rename_i h'; rw [h'] at h; cases h
  have hdq : (t.modCore c fun k => k.headPhase p).startDq c = none :=
    State.startDq_nil (by rw [State.core_modCore, Core.headPhase_dq, hd])
  simp [State.pump, State.pumpN, h, hvq, hdq]

/-- Over good words a vector instruction has its effect. -/
theorem State.execVec_clean {s : State} (h : CleanStore s) (c : Nat) (w : VecWork) : s.execVec c w = s.vecEffect c w := by
  simp [State.execVec, State.badRuns_clean h, State.meetWords]

/-! ## Issue of a vector instruction (05 R133) -/

theorem rangeOk_all {rs : List (Nat × Nat)} (h : ∀ r ∈ rs, r.1 % 128 = 0 ∧ r.1 + r.2 ≤ 0x600000) : rs.all rangeOk = true := by
  refine List.all_eq_true.2 fun r hr => ?_
  obtain ⟨aligned, inside⟩ := h r hr
  simp [rangeOk, coreSize, aligned, inside]

section
variable {c : CoreId} {op : VecOp} {opc : BitVec 8} {w : VF} {s : State} (hop : opcodeDefined opc = true)
  (hi : AtInsn s c.val (encodeV opc w)) (hf : Free s c.val (vecRegs op w) [] [])
  (hr : ∀ r ∈ ((s.core c.val).vecWork op w).readRuns ++ ((s.core c.val).vecWork op w).writeRuns false, r.1 % 128 = 0 ∧ r.1 + r.2 ≤ 0x600000)
  (hq : (op == .qnt && !s.qntOk c.val ((s.core c.val).vecWork op w)) = false)
include hop hi hf hr hq

/-- A good vector instruction is handed to queue 2, and what may start starts. -/
theorem State.vecIssue_good : s.vecIssue c.val op opc w true =
    (s.push c.val 2 (encodeV opc w) (.vec ((s.core c.val).vecWork op w)) ((s.core c.val).vecWork op w).reads
      (((s.core c.val).vecWork op w).writes (s.core c.val).inRerun) id).pump c.val := by
  unfold State.vecIssue
  rw [State.issue_runs hi (by rw [encodeV_opcode]; exact hop), State.ifFree_free hf]
  dsimp only
  rw [rangeOk_all hr, hq]
  rfl

/-- A full queue 2 whose head has started stops the sequencer. -/
theorem State.vecIssue_full (h16 : (s.core c.val).vq.length = 16) (he : ∃ e, (s.core c.val).vq.head? = some e ∧ e.phase ≠ 0)
    (hd : (s.core c.val).dq = []) : s.vecIssue c.val op opc w true = s.setCore c.val { s.core c.val with seqHeld := some 2 } := by
  rw [State.vecIssue_good hop hi hf hr hq, State.push_full (by rw [show (s.core c.val).queue 2 = (s.core c.val).vq from rfl, h16])]
  refine State.pump_started ?_ ?_
  · obtain ⟨e, he, hp⟩ := he
    rw [State.core_setCore]
    intro e' he'
    rw [show e' = e from Option.some.inj (he'.symm.trans he)]
    exact hp
  · rw [State.core_setCore]; exact hd

/-- On an idle core over good words the instruction starts as it enters queue 2. -/
theorem State.vecIssue_idle (hk : IdleCore (s.core c.val)) (hs : CleanStore s) :
    let v := (s.core c.val).vecWork op w
    let t := s.setCore c.val ((s.core c.val).handed (encodeV opc w) (.vec v) v.reads (v.writes (s.core c.val).inRerun) 0)
    s.vecIssue c.val op opc w true = 
      if op == .qnt && t.qntJit c.val v then (t.fixScales c.val v.slotIx (t.qntMeasure c.val v)).modCore c.val fun k => k.headPhase 2
      else (t.vecEffect c.val v).modCore c.val fun k => k.headPhase 1 := by
  intro v t
  have room : (s.core c.val).queue 2 = [] := hk.vq
  have clean : CleanStore t := ⟨hs.bad, hs.arm, hs.rst⟩
  have core : t.core c.val = (s.core c.val).handed (encodeV opc w) (.vec v) v.reads (v.writes (s.core c.val).inRerun) 0 := State.core_setCore ..
  have dq : (t.core c.val).dq = [] := by rw [core]; exact hk.dq
  have pushed : s.push c.val 2 (encodeV opc w) (.vec v) v.reads (v.writes (s.core c.val).inRerun) id = t := by
    rw [State.push_room (by simp [room]), room]
    rfl
  have start : t.startVq c.val = some (t.startVec c.val v) := by
    unfold State.startVq
    rw [core]
    simp [Core.handed, Core.heldBy, Core.work, hk.mq0, hk.mq1]
  rw [State.vecIssue_good hop hi hf hr hq, pushed]
  have hop' : v.op = op := rfl
  rw [State.startVec, hop', State.execVec_clean clean] at start
  split
  · rename_i jit
    rw [if_pos jit] at start
    exact State.pump_startVq start (by decide) (by rw [((QueuesKept.refl clean).fixScales _ _ _).dq, dq])
  · rename_i jit
    rw [if_neg jit] at start
    exact State.pump_startVq start (by decide) (by rw [((QueuesKept.refl clean).vecEffect _ _).dq, dq])

end

/-- Settles O15: an instruction that passes the check at issue enters queue 2, and the pump behind it starts the entry where the core is idle and
nothing where the queue is full; no effect of a vector instruction changes a queue. -/
theorem vectorInstructionsRun : Obligations.VectorInstructionsRun := by
  intro c w s k runs
  have run : ∀ {i op opc} {good : Bool}, opcodeDefined opc = true → (op == VecOp.qnt) = false →
      exec i s = .next (s.vecIssue c.val op opc w good) → runs i op opc (good = true) := by
    intro i op opc good hop hne hex hgood hi hf v hr
    have hq : (op == .qnt && !s.qntOk c.val v) = false := by rw [hne]; rfl
    rw [hgood] at hex
    refine ⟨fun hk hs => ?_, fun h16 he hd => ?_⟩
    · rw [Answers, hex, State.vecIssue_idle hop hi hf hr hq hk hs, hne]; rfl
    · rw [Answers, hex, State.vecIssue_full hop hi hf hr hq h16 he hd]
  refine ⟨run rfl rfl rfl, run rfl rfl rfl, run rfl rfl rfl, run rfl rfl rfl, run rfl rfl rfl, run rfl rfl rfl, run rfl rfl rfl, ?_⟩
  intro v word t good hi hf hq hr hk hs
  have run := State.vecIssue_idle (op := .qnt) (opc := 0x64#8) rfl hi hf hr (by rw [hq]; rfl) hk hs
  have hex : exec (.qnt c w) s = .next (s.vecIssue c.val .qnt 0x64#8 w true) := by rw [← good]; rfl
  refine ⟨fun jit => ?_, fun jit => ?_⟩
  · rw [Answers, hex, run, if_neg (by rw [jit]; decide)]; rfl
  · rw [Answers, hex, run, if_pos (by rw [jit]; rfl)]

end Sys2Proof.Machine

/-! Completions of a core's queues: the head of queue 2, room in a queue, the pass of a just-in-time QNT, and outstanding accesses
(04 R98, R499, 03 R72, 05 R149, 07 R182). -/

namespace Sys2Proof

/-! ## One key set twice -/

theorem SMap.put_put {α : Type} (m : SMap α) (i : Nat) (v w : α) : SMap.put (SMap.put m i v) i w = SMap.put m i w := by
  induction m with
  | nil => simp [SMap.put]
  | cons e m ih =>
    obtain ⟨k, u⟩ := e
    by_cases hlt : i < k
    · simp [SMap.put, hlt]
    · by_cases heq : i = k
      · simp [SMap.put, heq]
      · simp [SMap.put, hlt, heq, ih]

theorem SMap.filter_put {α : Type} (m : SMap α) (i : Nat) (v : α) :
    (SMap.put m i v).filter (fun e => e.1 != i) = m.filter fun e => e.1 != i := by
  induction m with
  | nil => simp [SMap.put]
  | cons e m ih =>
    obtain ⟨k, u⟩ := e
    by_cases hlt : i < k
    · simp [SMap.put, hlt]
    · by_cases heq : i = k
      · simp [SMap.put, heq]
      · simp [SMap.put, hlt, heq, List.filter_cons, ih]

/-- Of two values set at a key, the first one listed, the second one stays. -/
theorem SMap.set_set {α : Type} [DecidableEq α] {d v : α} (h : v ≠ d) (m : SMap α) (i : Nat) (w : α) :
    SMap.set d (SMap.set d m i v) i w = SMap.set d m i w := by
  rw [SMap.set, SMap.set, SMap.set, if_neg h, SMap.filter_put, SMap.put_put]

theorem Mem.write_append (m : Mem) (a : Nat) (bs cs : List Byte) : Mem.write m a (bs ++ cs) = Mem.write (Mem.write m a bs) (a + bs.length) cs := by
  induction bs generalizing m a with
  | nil => rfl
  | cons b bs ih =>
    rw [List.cons_append, Mem.write, ih, Mem.write, List.length_cons, Nat.add_right_comm, Nat.add_assoc]

namespace Machine

theorem dropAt_eq_eraseIdx {α : Type} (i : Nat) (l : List α) : dropAt i l = l.eraseIdx i := by
  induction i, l using dropAt.induct with
  | case1 i => cases i <;> rfl
  | case2 x xs => rfl
  | case3 i x xs ih => rw [dropAt, ih]; rfl

theorem State.setCore_setCore (s : State) (c : Nat) {k : Core} (l : Core) (h : k ≠ {}) : (s.setCore c k).setCore c l = s.setCore c l := by
  rw [State.setCore, State.setCore_cores, SMap.set_set h]; rfl

/-! ## A module-side write below the window (13 R346) -/

/-- Over good words it writes its bytes, whether or not page borders cut them. -/
theorem State.devWrite_below {s : State} (hs : CleanStore s) {n a : Nat} {bs : List Byte} (ht : a + bs.length ≤ t2Base)
    (hn : bs ≠ [] → a % unit2M + bs.length ≤ n * unit2M) : s.devWrite n a bs = (none, s.setBytes a bs) := by
  induction n generalizing s a bs with
  | zero =>
    have none : bs = [] := by
      by_contra hne
      have := hn hne
      have := List.length_pos_iff.2 hne
      omega
    rw [none]; rfl
  | succ n ih =>
    by_cases hne : bs = []
    · rw [hne]; rfl
    have pos := List.length_pos_iff.2 hne
    have outside : inWindow a = false := by
      simp only [inWindow, within, Bool.and_eq_false_iff, decide_eq_false_iff_not]
      omega
    have inPage : a % unit2M < unit2M := Nat.mod_lt a (by decide)
    set k := pagePart a bs.length with hk
    have hk' : k = min bs.length (unit2M - a % unit2M) := rfl
    have rest : (s.setBytes a (bs.take k)).devWrite n (a + k) (bs.drop k) =
        (none, (s.setBytes a (bs.take k)).setBytes (a + k) (bs.drop k)) := by
      refine ih (hs.setBytes _ _) (by rw [List.length_drop]; omega) fun hdrop => ?_
      have more : k < bs.length := by rwa [ne_eq, List.drop_eq_nil_iff, not_le] at hdrop
      have border : (a + k) % unit2M = 0 := by
        rw [Nat.add_mod, show k = unit2M - a % unit2M by omega]
        unfold unit2M at *; omega
      have := hn hne
      rw [Nat.add_mul, Nat.one_mul] at this
      rw [border, List.length_drop]
      omega
    have run : s.devWrite (n + 1) a bs = (s.setBytes a (bs.take k)).devWrite n (a + k) (bs.drop k) := by
      simp [State.devWrite, outside, State.store_clean hs, ← hk, hne]
    have joined := Mem.write_append s.mem a (bs.take k) (bs.drop k)
    rw [List.take_append_drop, List.length_take_of_le (by omega)] at joined
    rw [run, rest, State.setBytes, State.setBytes, State.setBytes, joined]

theorem State.writeFor_below {s : State} (hs : CleanStore s) (n : Nat) {a : Nat} {bs : List Byte} (ht : a + bs.length ≤ t2Base)
    (ha : a < t2Base) : s.writeFor n a bs = (none, s.setBytes a bs) := by
  have outside : inWindow a = false := by
    simp only [inWindow, within, Bool.and_eq_false_iff, decide_eq_false_iff_not]
    omega
  have pages : a % unit2M + bs.length ≤ (bs.length / unit2M + 2) * unit2M := by
    unfold unit2M; omega
  rw [State.writeFor, outside]
  exact State.devWrite_below hs ht fun _ => pages

/-! ## Queue 2 (04 R98, 07 R182) -/

section
variable {c : CoreId} {s : State} {e : QEntry} (hv : (s.core c.val).vq = [e]) (hd : (s.core c.val).dq = [])
include hv hd

/-- A completed entry that adds nothing to the journal leaves the queue empty, and nothing waits behind it. -/
theorem exec_vectorComplete (hp : e.phase = 1 ∨ e.phase = 3) (hw : (∃ w, e.work = .vec w) ∨ e.phase = 3) :
    Answers (.vectorUpdateInstructionComplete c) s (s.setCore c.val { s.core c.val with vq := [] }) := by
  have ended : (e.phase != 1 && e.phase != 3) = false := by obtain hp | hp := hp <;> simp [hp]
  have run : exec (.vectorUpdateInstructionComplete c) s = .next ((s.modCore c.val fun k => { k with vq := [] }).pump c.val) := by
    change execVectorUpdateInstructionComplete c s = _
    simp only [execVectorUpdateInstructionComplete, hv, ended]
    obtain ⟨w, hw⟩ | hw := hw
    · simp [hw]
    · cases e.work <;> simp [hw]
  rw [Answers, run, State.pump_nil]
  · rfl
  · rw [State.core_modCore]
  · rw [State.core_modCore]; exact hd

/-- A completed UPD that wrote adds its entry to the journal of its context. -/
theorem exec_updComplete {f : UF} {aw ag ao am n : Nat} {tid : BitVec 32} {ae : BitVec 64} {run : Run} (hp : e.phase = 1)
    (hw : e.work = .upd f aw ag ao am tid ae) (hc : (s.core c.val).ctx = some n) (hr : s.coreRun c.val = some run) :
    Answers (.vectorUpdateInstructionComplete c) s ((s.modCtx n fun k => k.modStep fun t =>
      { t with journal := t.journal ++ [{ epoch := run.epoch, tid := tid, elem := ae, ng := f.ng.toNat }] }).modCore c.val
        fun k => { k with vq := [] }) := by
  have journal : s.journalAdd c.val f tid ae = s.modCtx n fun k => k.modStep fun t =>
      { t with journal := t.journal ++ [{ epoch := run.epoch, tid := tid, elem := ae, ng := f.ng.toNat }] } := by
    simp [State.journalAdd, hc, hr]
  change execVectorUpdateInstructionComplete c s = _
  simp only [execVectorUpdateInstructionComplete, hv, hp, hw, State.cross_zero, journal]
  refine congrArg Host.Outcome.next (State.pump_nil ?_ ?_)
  · rw [State.core_modCore]
  · rw [State.core_modCore]; exact hd

end

/-! ## Outstanding accesses (05 R149) -/

section
variable {c : CoreId} {i : Nat} {r : Remote} {s : State} (hr : (s.core c.val).remote[i]? = some r)
include hr

/-- An earlier access to the same bytes, one of the two a store, holds the later one. -/
theorem exec_remoteAldAstComplete_held {j : Nat} {q : Remote} (hq : (s.core c.val).remote[j]? = some q) (hseq : q.seq < r.seq)
    (haddr : q.addr = r.addr) (hst : q.load = false ∨ r.load = false) (n : Nat) : Answers (.remoteAldAstComplete c i n) s s := by
  have before : ((s.core c.val).remote.any fun q => q.before r) = true := by
    refine List.any_eq_true.2 ⟨q, List.mem_of_getElem? hq, ?_⟩
    obtain hst | hst := hst <;> simp [Remote.before, hseq, haddr, hst]
  change execRemoteAldAstComplete c i s n = _
  simp [execRemoteAldAstComplete, hr, before]

end

/-- A load of good words brings its eight bytes into its register. -/
theorem State.remoteDone_load {s : State} (hs : CleanStore s) (c : Nat) {r : Remote} (h : r.load = true) :
    s.remoteDone c r = s.modCore c fun k => k.setA r.reg (BitVec.ofNat 64 (leNat (Mem.read s.mem r.addr 8))) := by
  simp only [State.remoteDone, h, State.load_clean hs, if_true]
  rfl

/-- A store over good words below the window writes its eight bytes. -/
theorem State.remoteDone_store {s : State} (hs : CleanStore s) (c : Nat) {r : Remote} (h : r.load = false)
    (hret : (s.ctx (s.core c).ctxNum).inRetained r.addr 8 = false) (ht : r.addr + 8 ≤ t2Base) :
    s.remoteDone c r = s.setBytes r.addr (natLe 8 r.value.toNat) := by
  have len : (natLe 8 r.value.toNat).length = 8 := rfl
  simp only [State.remoteDone, h, hret, State.writeFor_below hs (s.core c).ctxNum (bs := natLe 8 r.value.toNat) (by rw [len]; exact ht) (by omega),
    Bool.false_eq_true, if_false]

theorem Core.vq_of_work_nil {k : Core} (h : k.work = []) : k.vq = [] := by
  obtain ⟨h2, -⟩ := List.append_eq_nil_iff.1 h
  obtain ⟨hv, -⟩ := List.append_eq_nil_iff.1 h2
  exact hv

/-- A core without its outstanding access `i`. -/
def Core.dropRemote (k : Core) (i : Nat) : Core := { k with remote := k.remote.eraseIdx i }

@[simp] theorem Core.dropRemote_vq (k : Core) (i : Nat) : (k.dropRemote i).vq = k.vq := rfl
@[simp] theorem Core.dropRemote_dq (k : Core) (i : Nat) : (k.dropRemote i).dq = k.dq := rfl

/-- A core in a context is listed in the table of cores. -/
theorem Core.dropRemote_ne_default {k : Core} (h : k.ctx.isSome = true) (i : Nat) : k.dropRemote i ≠ {} := by
  intro hk
  have : (k.dropRemote i).ctx = none := by rw [hk]
  rw [show k.ctx = none from this] at h
  cases h

section
variable {c : CoreId} {i : Nat} {r : Remote} {s : State} (hr : (s.core c.val).remote[i]? = some r) (hw : (s.core c.val).work = [])
  (hb : ∀ q ∈ (s.core c.val).remote, q.before r = false) (hd : (s.core c.val).dq = []) (hs : CleanStore s)
include hr hw hb

/-- An access that follows nothing leaves the list and has its effect. -/
theorem exec_remoteAldAstComplete_done : exec (.remoteAldAstComplete c i 0) s =
    .next (((s.setCore c.val ((s.core c.val).dropRemote i)).remoteDone c.val r).pump c.val) := by
  have before : ((s.core c.val).remote.any fun q => q.before r) = false := List.any_eq_false.2 fun q hq => by simp [hb q hq]
  change execRemoteAldAstComplete c i s 0 = _
  simp only [execRemoteAldAstComplete, hr, hw, before, State.cross_zero, Core.dropRemote, ← dropAt_eq_eraseIdx]
  rfl

include hd hs

theorem exec_remoteAldAstComplete_load (hl : r.load = true) (hc : (s.core c.val).ctx.isSome = true) :
    Answers (.remoteAldAstComplete c i 0) s (s.setCore c.val
      (((s.core c.val).dropRemote i).setA r.reg (BitVec.ofNat 64 (leNat (Mem.read s.mem r.addr 8))))) := by
  have clean : CleanStore (s.setCore c.val ((s.core c.val).dropRemote i)) := ⟨hs.bad, hs.arm, hs.rst⟩
  have vq := Core.vq_of_work_nil hw
  rw [Answers, exec_remoteAldAstComplete_done hr hw hb, State.remoteDone_load clean _ hl, State.modCore, State.core_setCore,
    State.setCore_setCore _ _ _ (Core.dropRemote_ne_default hc i), State.pump_nil]
  · rfl
  · simp [vq]
  · simp [hd]

theorem exec_remoteAldAstComplete_store (hst : r.load = false) (hret : (s.ctx (s.core c.val).ctxNum).inRetained r.addr 8 = false)
    (ht : r.addr + 8 ≤ t2Base) : Answers (.remoteAldAstComplete c i 0) s
      ((s.setCore c.val ((s.core c.val).dropRemote i)).setBytes r.addr (natLe 8 r.value.toNat)) := by
  have clean : CleanStore (s.setCore c.val ((s.core c.val).dropRemote i)) := ⟨hs.bad, hs.arm, hs.rst⟩
  have core : (s.setCore c.val ((s.core c.val).dropRemote i)).core c.val = (s.core c.val).dropRemote i := State.core_setCore ..
  have vq := Core.vq_of_work_nil hw
  rw [Answers, exec_remoteAldAstComplete_done hr hw hb, State.remoteDone_store clean _ hst (by rw [core]; exact hret) ht, State.pump_nil]
  · exact (congrArg Core.vq core).trans (by simp [vq])
  · exact (congrArg Core.dq core).trans (by simp [hd])

end

/-- Settles O20: each completion is run once by its own lemma; what is left of queues 2 and 3 starts nothing. -/
theorem queueCompletions : Obligations.QueueCompletions := by
  intro c s k
  refine ⟨fun e w hv hd hw hp => exec_vectorComplete hv hd (.inl hp) (.inl ⟨w, hw⟩), ?upd, ?room, ?jit, ?access,
    fun i j r q hr hq hseq haddr hst n => exec_remoteAldAstComplete_held hr hq hseq haddr hst n⟩
  case upd =>
    intro e f aw ag ao am tid ae n run hv hd hw hc hr
    refine ⟨fun hp => exec_vectorComplete hv hd (.inr hp) (.inr hp), fun hp => ⟨_, exec_updComplete hv hd hp hw hc hr, ?_, ?_, rfl⟩⟩
    · rw [State.core_modCore]
    · rw [State.ctx_modCore, State.ctx_modCtx]; rfl
  case room =>
    intro q hheld hlen
    change execIssueQueueRoom c q s = _
    simp [execIssueQueueRoom, show (s.core c.val).seqHeld = some q.val from hheld, show ((s.core c.val).queue q.val).length < 16 from hlen, k]
  case jit =>
    intro e es w hv hw hp hs
    change execJitQuantisePass c s = _
    simp [execJitQuantisePass, show (s.core c.val).vq = e :: es from hv, hw, hp, State.execVec_clean hs]
  case access =>
    intro i r hr hq hv h0 h1 hd hc hs
    have work : k.work = [] := by simp [Core.work, hv, h0, h1]
    have free : ∀ q ∈ k.remote, q.before r = false := by
      intro q hm
      by_contra hbefore
      simp only [Remote.before, Bool.not_eq_false, Bool.and_eq_true, decide_eq_true_eq, beq_iff_eq] at hbefore
      obtain ⟨⟨hseq, haddr⟩, hstore⟩ := hbefore
      simp [hq q hm hseq haddr] at hstore
    refine ⟨fun hl => exec_remoteAldAstComplete_load hr work free hd hs hl hc, fun hst hret ht =>
      ⟨_, exec_remoteAldAstComplete_store hr work free hd hs hst hret ht, ?_, ?_, ?_, rfl⟩⟩
    · exact congrArg Core.remote (State.core_setCore s c.val (k.dropRemote i))
    · exact Mem.read_write s.mem r.addr (natLe 8 r.value.toNat)
    · exact fun a ha => Mem.byte_write_other _ _ _ _ ha

end Machine
end Sys2Proof

/-! Tasks: the order of the pools, homes, taking a task and the bound of a block (04 R107 to R111, 05 R123). -/

namespace Sys2Proof.Machine
open Sys2Proof

/-! ## The order of runnable tasks (04 R108) -/

section
variable (k : Ctx)

theorem Ctx.before_iff (a b : PoolTask) : k.before a b = true ↔ k.prioOf b < k.prioOf a ∨ (k.prioOf a = k.prioOf b ∧
    (a.order < b.order ∨ (a.order = b.order ∧ (a.tid < b.tid ∨ (a.tid = b.tid ∧ a.run < b.run))))) := by
  simp [Ctx.before]

theorem Ctx.not_before_self (a : PoolTask) : ¬ k.before a a = true := by rw [k.before_iff]; omega

theorem Ctx.not_before_of_before {a b : PoolTask} (h : k.before a b = true) : ¬ k.before b a = true := by
  rw [k.before_iff] at h ⊢; omega

theorem Ctx.not_before_trans {a b c : PoolTask} (h : ¬ k.before a b = true) (h' : ¬ k.before b c = true) : ¬ k.before a c = true := by
  rw [k.before_iff] at h h' ⊢; omega

theorem Ctx.bestOf_eq_none {l : List PoolTask} (h : k.bestOf l = none) : l = [] := by
  cases l with
  | nil => rfl
  | cons t ts =>
    rw [Ctx.bestOf] at h
    split at h
    · split at h <;> cases h
    · cases h

/-- The best of some tasks is one of them, and no other comes before it. -/
theorem Ctx.bestOf_spec {l : List PoolTask} {t : PoolTask} (h : k.bestOf l = some t) : t ∈ l ∧ ∀ u ∈ l, ¬ k.before u t = true := by
  induction l generalizing t with
  | nil => cases h
  | cons x xs ih =>
    rw [Ctx.bestOf] at h
    split at h
    · rename_i u hu
      obtain ⟨mem, least⟩ := ih hu
      split at h
      · rename_i hb
        cases h
        exact ⟨List.mem_cons_of_mem _ mem, List.forall_mem_cons.2 ⟨k.not_before_of_before hb, least⟩⟩
      · rename_i hb
        cases h
        exact ⟨List.mem_cons_self, List.forall_mem_cons.2 ⟨k.not_before_self _, fun v hv => k.not_before_trans (least v hv) hb⟩⟩
    · rename_i hn
      cases h
      rw [k.bestOf_eq_none hn]
      exact ⟨List.mem_cons_self, by simpa using k.not_before_self x⟩

/-- The runnable tasks of a quarter's own pool. -/
def Ctx.ownPool (q : Nat) : List PoolTask := k.pool.filter fun t => t.quarter == q && t.pooled

/-- The tasks that a core of another quarter may take from a quarter's pool. -/
def Ctx.otherPool (q : Nat) : List PoolTask := k.pool.filter fun t => t.quarter == q && t.pooled && !t.pin

/-- What the pools of the other quarters offer a core of quarter `q`. -/
def Ctx.offers (q : Nat) : List PoolTask := [1, 2, 3].filterMap fun i => k.bestOf (k.otherPool ((q + i) % 4))

theorem Ctx.mem_ownPool {q : Nat} {t : PoolTask} : t ∈ k.ownPool q ↔ t ∈ k.pool ∧ t.quarter = q ∧ t.pooled = true := by
  simp [Ctx.ownPool]

theorem Ctx.mem_otherPool {q : Nat} {t : PoolTask} : t ∈ k.otherPool q ↔ t ∈ k.pool ∧ t.quarter = q ∧ t.pooled = true ∧ t.pin = false := by
  simp [Ctx.otherPool, and_assoc]

end

/-- A choice among some tasks is one of them. -/
theorem foldl_choice_mem {α : Type} {p : α → α → Prop} [DecidableRel p] (os : List α) (o : α) :
    os.foldl (fun m t => if p t m then t else m) o ∈ o :: os := by
  induction os generalizing o with
  | nil => exact List.mem_singleton.2 rfl
  | cons x xs ih =>
    rw [List.foldl_cons]
    split
    · exact List.mem_cons_of_mem _ (ih x)
    · obtain h | h := List.mem_cons.1 (ih o)
      · rw [h]; exact List.mem_cons_self
      · exact List.mem_cons_of_mem _ (List.mem_cons_of_mem _ h)

section
variable {k : Ctx} {q : Nat}

theorem Ctx.nextTask_own {t : PoolTask} (h : k.bestOf (k.ownPool q) = some t) : k.nextTask q = some (t, false) := by
  rw [Ctx.ownPool] at h
  rw [Ctx.nextTask, h]

theorem Ctx.nextTask_other (h : k.bestOf (k.ownPool q) = none) : k.nextTask q = match k.offers q with
    | [] => none
    | o :: os => some (os.foldl (fun m t => if k.prioOf t > k.prioOf m then t else m) o, true) := by
  rw [Ctx.ownPool] at h
  rw [Ctx.nextTask, h]
  rfl

/-- What a core takes is the best of its quarter's own pool, or, where that is empty, a task of another quarter's pool that is not pinned. -/
theorem Ctx.nextTask_cases {t : PoolTask} {steal : Bool} (h : k.nextTask q = some (t, steal)) :
    (steal = false ∧ k.bestOf (k.ownPool q) = some t) ∨
      (steal = true ∧ k.ownPool q = [] ∧ ∃ i ∈ [1, 2, 3], t ∈ k.otherPool ((q + i) % 4)) := by
  cases hown : k.bestOf (k.ownPool q) with
  | some u =>
    rw [Ctx.nextTask_own hown] at h
    cases h
    exact .inl ⟨rfl, rfl⟩
  | none =>
    rw [Ctx.nextTask_other hown] at h
    cases hoff : k.offers q with
    | nil => rw [hoff] at h; cases h
    | cons o os =>
      rw [hoff] at h
      obtain ⟨ht, hsteal⟩ := Prod.mk.inj (Option.some.inj h)
      have offered : t ∈ k.offers q := by rw [hoff, ← ht]; exact foldl_choice_mem os o
      obtain ⟨i, hi, hbest⟩ := List.mem_filterMap.1 offered
      exact .inr ⟨hsteal.symm, k.bestOf_eq_none hown, i, hi, (k.bestOf_spec hbest).1⟩

end

/-- The task taken and the tasks it is taken before (04 R108). -/
theorem Ctx.nextTask_spec {k : Ctx} {q : Nat} {t : PoolTask} {steal : Bool} (h : k.nextTask q = some (t, steal)) :
    t ∈ k.pool ∧ t.pooled = true ∧
      (steal = false → t.quarter = q ∧ ∀ u ∈ k.pool, u.quarter = q → u.pooled = true →
        k.prioOf u ≤ k.prioOf t ∧ (k.prioOf u = k.prioOf t → t.order ≤ u.order ∧ (u.order = t.order → t.tid ≤ u.tid))) ∧
      (steal = true → t.quarter ≠ q % 4 ∧ t.pin = false ∧ ∀ u ∈ k.pool, u.quarter = q → u.pooled = false) := by
  obtain ⟨rfl, hbest⟩ | ⟨rfl, hown, i, hi, hoff⟩ := Ctx.nextTask_cases h
  · obtain ⟨mem, least⟩ := k.bestOf_spec hbest
    obtain ⟨pool, quarter, pooled⟩ := k.mem_ownPool.1 mem
    refine ⟨pool, pooled, fun _ => ⟨quarter, fun u hu hq hp => ?_⟩, nofun⟩
    have := least u (k.mem_ownPool.2 ⟨hu, hq, hp⟩)
    rw [k.before_iff] at this
    omega
  · obtain ⟨pool, quarter, pooled, pin⟩ := k.mem_otherPool.1 hoff
    refine ⟨pool, pooled, nofun, fun _ => ⟨?_, pin, fun u hu hq => ?_⟩⟩
    · simp only [List.mem_cons, List.not_mem_nil, or_false] at hi
      omega
    · by_contra hp
      have : u ∈ k.ownPool q := k.mem_ownPool.2 ⟨hu, hq, by simpa using hp⟩
      rw [hown] at this
      cases this

/-! ## Homes (04 R107) -/

theorem Ctx.fewest_spec (k : Ctx) :
    k.fewest < 4 ∧ ∀ j, j < 4 → k.poolLen k.fewest ≤ k.poolLen j ∧ (k.poolLen j = k.poolLen k.fewest → k.fewest ≤ j) := by
  simp only [Ctx.fewest, List.foldl_cons, List.foldl_nil]
  refine ⟨by split_ifs <;> omega, fun j hj => ?_⟩
  interval_cases j <;> split_ifs <;> omega

section
variable {s : State} (k : Ctx) {d : TaskDesc}

theorem State.homeOf_any (h : d.home = 0xFF) (hp : d.pin = false) : s.homeOf k d = (k.fewest, false) := by
  simp [State.homeOf, h, hp]

theorem State.homeOf_own (h : d.home < 4) (hp : d.pin = false ∨ s.enabledOf d.home ≠ 0) : s.homeOf k d = (d.home, d.pin) := by
  have hne : d.home ≠ 0xFF := by omega
  obtain hp | hp := hp <;> simp [State.homeOf, hne, hp]

/-- A pinned task whose home has no enabled core goes unpinned to the lowest quarter that has one. -/
theorem State.homeOf_moved {q : Nat} (hq : q < 4) (h : d.home < 4) (hp : d.pin = true) (h0 : s.enabledOf d.home = 0)
    (hn : s.enabledOf q ≠ 0) (hl : ∀ j, j < q → s.enabledOf j = 0) : s.homeOf k d = (q, false) := by
  have hne : d.home ≠ 0xFF := by omega
  have lowest : (List.range 4).find? (fun q => s.enabledOf q != 0) = some q := by
    rw [List.find?_range_eq_some]
    exact ⟨by simpa using hn, List.mem_range.2 hq, fun j hj => by simp [hl j hj]⟩
  simp [State.homeOf, hne, hp, h0, lowest]

end

/-! ## Taking a task (04 R108 to R111) -/

/-- One step of a refill: a queued task enters its pool where that has room; the map counts the tasks that entered before. -/
def Ctx.enterPool (k : Ctx) (a : List PoolTask × SMap Nat) (t : PoolTask) : List PoolTask × SMap Nat :=
  if t.pooled then (a.1 ++ [t], a.2)
  else if SMap.get 0 a.2 t.quarter + k.poolLen t.quarter < 4096 then (a.1 ++ [{ t with pooled := true }], SMap.upd 0 a.2 t.quarter (· + 1))
  else (a.1 ++ [t], a.2)

theorem Ctx.refill_eq (k : Ctx) : k.refill = { k with pool := (k.pool.foldl k.enterPool ([], [])).1 } := rfl

theorem Ctx.length_enterPool (k : Ctx) (a : List PoolTask × SMap Nat) (t : PoolTask) : (k.enterPool a t).1.length = a.1.length + 1 := by
  unfold Ctx.enterPool
  split_ifs <;> simp

theorem Ctx.length_foldl_enterPool (k : Ctx) (ts : List PoolTask) (a : List PoolTask × SMap Nat) :
    (ts.foldl k.enterPool a).1.length = a.1.length + ts.length := by
  induction ts generalizing a with
  | nil => rfl
  | cons t ts ih => rw [List.foldl_cons, ih, k.length_enterPool, List.length_cons]; omega

/-- Queued tasks that enter their pools stay among the context's tasks. -/
theorem Ctx.refill_frame (k : Ctx) : ∃ l, k.refill = { k with pool := l } ∧ l.length = k.pool.length :=
  ⟨_, k.refill_eq, (k.length_foldl_enterPool k.pool ([], [])).trans (by simp)⟩

/-- A task taken leaves the pool and is counted. -/
theorem Ctx.takeOut_spec (k : Ctx) {t : PoolTask} (ht : t ∈ k.pool) (steal : Bool) :
    (k.takeOut t steal).pool.length < k.pool.length ∧
      (k.takeOut t steal).arith.taken = (if steal then k.arith.taken else satAdd 32 k.arith.taken 1) ∧
      (k.takeOut t steal).arith.stolen = (if steal then satAdd 31 k.arith.stolen 1 else k.arith.stolen) := by
  obtain ⟨l, hl, hlen⟩ := ({ k with pool := k.pool.filter fun u => u != t } : Ctx).refill_frame
  have fewer : l.length < k.pool.length := by
    rw [hlen]
    exact List.length_filter_lt_length_iff_exists.2 ⟨t, ht, by simp⟩
  rw [Ctx.takeOut, hl]
  cases steal
  · exact ⟨fewer, rfl, rfl⟩
  · exact ⟨fewer, rfl, rfl⟩

/-- The A registers at the start of a task: the argument, the task id, and zeros. -/
theorem Core.startTask_ra (k : Core) (n : Nat) (t : TaskRun) (arg : BitVec 64) (code : List (BitVec 64)) :
    (k.startTask n t arg code).ra 0 = arg ∧ (k.startTask n t arg code).ra 1 = BitVec.ofNat 64 t.tid ∧
      ∀ i, 2 ≤ i → (k.startTask n t arg code).ra i = 0 := by
  simp only [Core.ra, Core.startTask, SMap.get_set]
  refine ⟨rfl, rfl, fun i hi => ?_⟩
  rw [if_neg (by omega), if_neg (by omega)]; rfl

/-- Over good words a task starts with its code block, where that begins with a BLK. -/
theorem State.startTask_clean {s : State} (hs : CleanStore s) (c n : Nat) (r : Run) (d : TaskDesc) (base : Nat)
    (hblk : ((bytesWords (Mem.read s.mem (base + d.entry) (8 * d.len))).headD 0).extractLsb' 56 8 = 0x01#8) :
    s.startTask c n r d base = s.modCore c fun k => k.startTask n { run := r.id, tid := d.tid }
      (BitVec.ofNat 64 ((d.arg.toNat + r.argOff.toNat) % 2 ^ 48)) (bytesWords (Mem.read s.mem (base + d.entry) (8 * d.len))) := by
  have read : s.readCode (base + d.entry) d.len = (.inl (bytesWords (Mem.read s.mem (base + d.entry) (8 * d.len))), s) := by
    rw [State.readCode, State.load_clean hs]; rfl
  rw [State.startTask, read]
  exact if_pos (beq_iff_eq.2 hblk)

section
variable {c : CoreId} {s : State} {n : Nat} (hn : s.idleIn c.val = some n) (hclk : (s.core c.val).clockOff = false)
include hn hclk

/-- A core that is offered nothing stops its clock. -/
theorem exec_taskTake_none (h : (s.ctx n).nextTask (c.val / 80) = none) :
    Answers (.taskTake c) s (s.setCore c.val { s.core c.val with clockOff := true }) := by
  change execTaskTake c s = _
  simp only [execTaskTake, hn, hclk, quarterOf, h, Bool.false_eq_true, if_false]
  rfl

/-- A core that is offered a task takes it out of its pool and starts it. -/
theorem exec_taskTake_some {t : PoolTask} {steal : Bool} {p : Prog} {r : Run} {d : TaskDesc}
    (h : (s.ctx n).nextTask (c.val / 80) = some (t, steal)) (hp : (s.ctx n).prog = some p) (hr : (s.ctx n).run? t.run = some r)
    (hd : p.tasks.find? (fun d => d.tid == t.tid) = some d) :
    Answers (.taskTake c) s ((s.modCtx n fun k => k.takeOut t steal).startTask c.val n r d p.addr) := by
  change execTaskTake c s = _
  simp only [execTaskTake, hn, hclk, quarterOf, h, hp, hr, hd, State.cross_zero, Bool.false_eq_true, if_false]

end

theorem exec_coreClockRestart {c : CoreId} {s : State} {n : Nat} (hn : s.idleIn c.val = some n) (hclk : (s.core c.val).clockOff = true)
    (h : (s.ctx n).nextTask (c.val / 80) ≠ none) :
    Answers (.coreClockRestart c) s (s.setCore c.val { s.core c.val with clockOff := false }) := by
  change execCoreClockRestart c s = _
  simp only [execCoreClockRestart, hn, hclk, quarterOf, Option.isSome_iff_ne_none.2 h, Bool.and_self, if_true]
  rfl

/-! ## A first fatal fault (14 R369, R371, R377, R382) -/

/-- Only ports, directions and the link record change. -/
def LinkOnly (s t : State) : Prop := ∃ ps ds l, t = { s with ports := ps, dirs := ds, link := l }

namespace LinkOnly
variable {s t u : State}

theorem refl (s : State) : LinkOnly s s := ⟨_, _, _, rfl⟩

theorem trans (h : LinkOnly s t) (h' : LinkOnly t u) : LinkOnly s u := by
  obtain ⟨_, _, _, rfl⟩ := h
  obtain ⟨_, _, _, rfl⟩ := h'
  exact ⟨_, _, _, rfl⟩

theorem foldl {α : Type} {f : State → α → State} (hf : ∀ s x, LinkOnly s (f s x)) (l : List α) (s : State) : LinkOnly s (l.foldl f s) := by
  induction l generalizing s with
  | nil => exact refl s
  | cons x l ih => exact (hf s x).trans (ih _)

theorem sendAll {send : State → Flit → State} (hf : ∀ s f, LinkOnly s (send s f)) (fs : List Flit) (s : State) :
    LinkOnly s (Machine.sendAll send s fs) := by
  induction fs generalizing s with
  | nil => exact refl s
  | cons f fs ih => exact (hf s f).trans (ih _)

theorem leaveBuf (s : State) (h vc : Nat) : LinkOnly s (s.leaveBuf h vc) := by
  unfold State.leaveBuf
  split
  · exact ⟨_, _, _, rfl⟩
  · exact refl s

theorem sendIn (s : State) (d : Nat) (arr rail : Option Nat) (f : Flit) : LinkOnly s (s.sendIn d arr rail f) := by
  have dropped : LinkOnly s (s.dropUnreach.leaveBuf (holderOf arr) f.vc.toNat) :=
    trans (t := s.dropUnreach) ⟨_, _, _, rfl⟩ (leaveBuf ..)
  unfold State.sendIn
  split
  · exact dropped
  split
  · exact dropped
  split
  · exact ⟨_, _, _, rfl⟩
  · exact ⟨_, _, _, rfl⟩

theorem sendAborts (s : State) (except : Option Nat) (w2 w3 : BitVec 64) : LinkOnly s (s.sendAborts except w2 w3) := by
  refine foldl (fun s d => ?_) _ s
  split
  · exact refl s
  · exact sendAll (fun s f => sendIn s d none none f) _ s

theorem originate (s : State) (cls ctx : Nat) (subject : BitVec 16) : LinkOnly s (s.originate cls ctx subject) := by
  unfold State.originate
  dsimp only
  split
  · exact refl s
  · exact trans (t := s.enterSeen _) ⟨_, _, _, rfl⟩ (sendAborts ..)

end LinkOnly

/-- Only the health record and what goes out change, and the fault records stay. -/
def HealthOnly (s t : State) : Prop := ∃ h os, t = { s with hlt := h, out := os } ∧ h.recs = s.hlt.recs

namespace HealthOnly

theorem refl (s : State) : HealthOnly s s := ⟨_, _, rfl, rfl⟩

theorem trans {s t u : State} (h : HealthOnly s t) (h' : HealthOnly t u) : HealthOnly s u := by
  obtain ⟨_, _, rfl, hr⟩ := h
  obtain ⟨_, _, rfl, hr'⟩ := h'
  exact ⟨_, _, rfl, hr'.trans hr⟩

theorem of_judgeFrame {s t : State} (h : JudgeFrame s t) : HealthOnly s t := by
  obtain ⟨_, _, _, _, _, rfl⟩ := h
  exact ⟨_, _, rfl, rfl⟩

theorem penalise (s : State) (input amount : Nat) (cap : Option Nat) : HealthOnly s (s.penalise input amount cap) := by
  unfold State.penalise
  extract_lets now recent sum amt
  split
  · exact refl s
  · refine trans ?_ (of_judgeFrame (State.judge_frame _))
    exact ⟨_, _, rfl, rfl⟩

theorem note24 (s : State) (kind : Nat) : HealthOnly s (s.note24 kind) := ⟨_, _, rfl, rfl⟩

theorem expel (s : State) (cause : Nat) : HealthOnly s (s.expel cause) := by
  unfold State.expel
  split
  · exact refl s
  · exact ⟨_, _, rfl, rfl⟩

theorem classHealth (s : State) (r : FRec) : HealthOnly s (s.classHealth r) := by
  have expelled : ∀ (t : State) (kind count cause : Nat), HealthOnly t (if t.count24 kind ≥ count then t.expel cause else t) := by
    intro t kind count cause
    split
    · exact expel t cause
    · exact refl t
  unfold State.classHealth
  split
  · exact refl s
  split
  · exact penalise ..
  split
  · exact ((penalise ..).trans (note24 ..)).trans (expelled ..)
  split
  · exact (note24 ..).trans (expelled ..)
  · exact refl s

end HealthOnly

/-- The state in which the record of a fault is filled: an entry into a rest state is abandoned, and the wave has begun. -/
def State.waveBegun (s : State) (r : FRec) : State :=
  if s.abandonEntry.link.member && formsKey r.cls then s.abandonEntry.originate r.cls r.ctx r.subject else s.abandonEntry

/-- The state with a first fault recorded and latched. -/
def State.latchedFirst (s : State) (r : FRec) : State :=
  { s.commitRec (s.fillRec r false) with
    flt := { s.flt with active := true, tf := s.now, primary := some s.hlt.nextSeq, secondaries := 0, ms1 := [], told := [], twoMs := false } }

theorem State.fatal_first_eq {s : State} (h : s.flt.active = false) (r : FRec) :
    s.fatal r = (if ((s.waveBegun r).latchedFirst r).dumpDue then ((s.waveBegun r).latchedFirst r).openDump
      else (s.waveBegun r).latchedFirst r).classHealth r := by
  unfold State.fatal
  rw [h]
  rfl

theorem State.waveBegun_frame (s : State) (r : FRec) : ∃ p ps ds l, s.waveBegun r = { s with pwr := p, ports := ps, dirs := ds, link := l } := by
  obtain ⟨p, hp⟩ : ∃ p, s.abandonEntry = { s with pwr := p } := by
    unfold State.abandonEntry
    split
    · exact ⟨s.pwr, rfl⟩
    · exact ⟨_, rfl⟩
  rw [State.waveBegun, hp]
  split
  · obtain ⟨ps, ds, l, hl⟩ := LinkOnly.originate { s with pwr := p } r.cls r.ctx r.subject
    exact ⟨p, ps, ds, l, hl⟩
  · exact ⟨p, s.ports, s.dirs, s.link, rfl⟩

/-- A first fatal fault latches and is recorded under the next sequence number; memory and cores stay. -/
theorem State.fatal_first {s : State} (h : s.flt.active = false) (r : FRec) :
    (s.fatal r).mem = s.mem ∧ (s.fatal r).cores = s.cores ∧ (s.fatal r).flt.active = true ∧
      ∃ u : State, (s.fatal r).record s.hlt.nextSeq = u.fillRec r false := by
  obtain ⟨p, ps, ds, l, hv⟩ := s.waveBegun_frame r
  set v := s.waveBegun r with hvdef
  obtain ⟨f, hf, active⟩ : ∃ f, (if (v.latchedFirst r).dumpDue then (v.latchedFirst r).openDump else v.latchedFirst r) =
      { v.latchedFirst r with flt := f } ∧ f.active = true := by
    unfold State.openDump
    split
    · split
      · exact ⟨_, rfl, rfl⟩
      · exact ⟨_, rfl, rfl⟩
    · exact ⟨_, rfl, rfl⟩
  obtain ⟨hh, os, ht, hrecs⟩ := HealthOnly.classHealth { v.latchedFirst r with flt := f } r
  rw [State.fatal_first_eq h, ← hvdef, hf, ht]
  refine ⟨by rw [State.latchedFirst, hv]; rfl, by rw [State.latchedFirst, hv]; rfl, active, v, ?_⟩
  have next : v.hlt.nextSeq = s.hlt.nextSeq := by rw [hv]
  rw [State.record, hrecs, ← next]
  exact SMap.get_set_self ..

/-- What a core says of a block that reaches its bound: FC_HANG at the block's BLK. -/
def State.hangRec (s : State) (c : Nat) (b : Block) : FRec :=
  { cls := 0x100, ctx := (s.core c).ctxNum, subject := s.link.coord, insn := true, coreValid := true, core := c, word := b.pc,
    task := (s.core c).taskId, instr := b.word, detail := BitVec.ofNat 64 (classBound b.cls + b.cls * 2 ^ 32) }

/-- A core that stops at the bound of a block. -/
def Core.hang (k : Core) (b : Block) : Core := { k with halted := true, clocks := classBound b.cls }

theorem exec_blockBoundExpiry {c : CoreId} {s : State} {b : Block} (hb : (s.core c.val).block = some b)
    (ht : (s.core c.val).task.isSome = true) (hh : (s.core c.val).halted = false) :
    Answers (.blockBoundExpiry c) s ((s.modCore c.val fun k => k.hang b).fatal (s.hangRec c.val b)) := by
  change execBlockBoundExpiry c s = _
  simp only [execBlockBoundExpiry, hb, hh, Option.isNone_eq_false_iff.2 ht, Bool.or_self, Bool.false_eq_true, if_false]
  rfl

end Sys2Proof.Machine

/-! Completing a task: semaphore, counts of the successors, and what becomes runnable (04 R102, R107, R110). -/

namespace Sys2Proof.Machine
open Sys2Proof

/-! ## Entries of a list by their key -/

section
variable {α : Type} {key : α → Nat} {i : Nat} {f : α → α} (hf : ∀ x, key x = i → key (f x) = i) (l : List α)
include hf

/-- Changing the first entry with key `i` changes what is found under `i` alone. -/
theorem find?_updFirst_key (j : Nat) : (updFirst (fun x => key x == i) f l).find? (fun x => key x == j) =
    if i = j then (l.find? fun x => key x == j).map f else l.find? fun x => key x == j := by
  induction l with
  | nil => simp [updFirst]
  | cons x l ih =>
    by_cases hx : key x = i
    · by_cases hij : i = j
      · subst hij; simp [updFirst, hf x hx, hx]
      · simp [updFirst, hf x hx, hx, hij]
    · by_cases hj : key x = j
      · have hij : i ≠ j := fun h => hx (hj.trans h.symm)
        simp [updFirst, hj, hij, hij.symm]
      · simpa [updFirst, hx, hj] using ih

theorem map_updFirst_key : (updFirst (fun x => key x == i) f l).map key = l.map key := by
  induction l with
  | nil => rfl
  | cons x l ih =>
    rw [updFirst]
    split
    · rename_i hx
      have hx : key x = i := by simpa using hx
      simp [hf x hx, hx]
    · simp [ih]

end

theorem Ctx.run?_modRun (k : Ctx) {i : Nat} {f : Run → Run} (hf : ∀ r, r.id = i → (f r).id = i) (j : Nat) :
    (k.modRun i f).run? j = if i = j then (k.run? j).map f else k.run? j := find?_updFirst_key hf k.runs j

theorem Run.task?_modTask (r : Run) {i : Nat} {f : TaskProg → TaskProg} (hf : ∀ x, x.tid = i → (f x).tid = i) (j : Nat) :
    (r.modTask i f).task? j = if i = j then (r.task? j).map f else r.task? j := find?_updFirst_key hf r.tasks j

theorem Ctx.run?_id {k : Ctx} {i : Nat} {r : Run} (h : k.run? i = some r) : r.id = i := by
  simpa using List.find?_some h

theorem Run.task?_tid {r : Run} {i : Nat} {x : TaskProg} (h : r.task? i = some x) : x ∈ r.tasks ∧ x.tid = i :=
  ⟨List.mem_of_find?_eq_some h, by simpa using List.find?_some h⟩

/-! ## What moving tasks on leaves (04 R107, 12 R312) -/

/-- From `s` to `t` tasks of context `n` become runnable, and quarters may be rescheduled: memory, semaphores and the counts of tasks that RUNs
have run stay, no task leaves a pool, and cores at most stop. -/
structure TasksMoved (n : Nat) (s t : State) : Prop where
  mem : t.mem = s.mem
  core : ∀ c, ∃ st w, t.core c = { s.core c with stopped := st, wait := w }
  sems : (t.ctx n).sems = (s.ctx n).sems
  pool : ∀ w ∈ (s.ctx n).pool, w ∈ (t.ctx n).pool
  ran : ∀ i, ((t.ctx n).run? i).map (·.ran) = ((s.ctx n).run? i).map (·.ran)

/-- From `s` to `t` quarters are rescheduled: contexts change in their scheduling alone, and cores at most stop. -/
structure Rescheduled (s t : State) : Prop where
  mem : t.mem = s.mem
  core : ∀ c, ∃ st w, t.core c = { s.core c with stopped := st, wait := w }
  ctx : ∀ n, ∃ h, t.ctx n = { s.ctx n with sched := h }

namespace Rescheduled
variable {s t u : State}

theorem refl (s : State) : Rescheduled s s := ⟨rfl, fun _ => ⟨_, _, rfl⟩, fun _ => ⟨_, rfl⟩⟩

theorem trans (h : Rescheduled s t) (h' : Rescheduled t u) : Rescheduled s u := by
  refine ⟨h'.mem.trans h.mem, fun c => ?_, fun n => ?_⟩
  · obtain ⟨_, _, e⟩ := h.core c
    obtain ⟨st, w, e'⟩ := h'.core c
    exact ⟨st, w, by rw [e', e]⟩
  · obtain ⟨_, e⟩ := h.ctx n
    obtain ⟨x, e'⟩ := h'.ctx n
    exact ⟨x, by rw [e', e]⟩

theorem foldl {α : Type} {f : State → α → State} (hf : ∀ s x, Rescheduled s (f s x)) (l : List α) (s : State) : Rescheduled s (l.foldl f s) := by
  induction l generalizing s with
  | nil => exact refl s
  | cons x l ih => exact (hf s x).trans (ih _)

theorem modQuarter (s : State) (q : Nat) (f : Quarter → Quarter) : Rescheduled s (s.modQuarter q f) :=
  ⟨rfl, fun _ => ⟨_, _, rfl⟩, fun _ => ⟨_, rfl⟩⟩

theorem modSched (s : State) (n : Nat) (f : CtxSched → CtxSched) : Rescheduled s (s.modCtx n fun k => k.modSched f) := by
  refine ⟨rfl, fun _ => ⟨_, _, rfl⟩, fun m => ?_⟩
  by_cases h : n = m
  · subst h; exact ⟨f (s.ctx n).sched, State.ctx_modCtx ..⟩
  · exact ⟨(s.ctx m).sched, State.ctx_modCtx_other _ _ h⟩

theorem stopHere (s : State) (c : Nat) : Rescheduled s (s.modCore c Core.stopHere) := by
  refine ⟨rfl, fun x => ?_, fun _ => ⟨_, rfl⟩⟩
  by_cases h : c = x
  · subst h
    rw [State.core_modCore, Core.stopHere]
    split
    · exact ⟨_, _, rfl⟩
    · exact ⟨_, _, rfl⟩
  · exact ⟨_, _, State.core_modCore_other _ _ h⟩

theorem beginSlice (s : State) (q n : Nat) : Rescheduled s (s.beginSlice q n) := by
  unfold State.beginSlice
  exact (modSched s n _).trans (modQuarter _ q _)

theorem countPreempt (s : State) (q n : Nat) : Rescheduled s (s.countPreempt q n) := by
  unfold State.countPreempt
  exact (modSched s n _).trans (modQuarter _ q _)

theorem endSlice (s : State) (q old : Nat) (new : Option Nat) : Rescheduled s (s.endSlice q old new) := by
  have stopped : Rescheduled s ((s.modQuarter q fun k => { k with phase := 1, next := new, ended := s.now, counted := false }).stopBoundary q) :=
    (modQuarter s q _).trans (foldl stopHere _ _)
  unfold State.endSlice
  dsimp only
  split
  · exact stopped.trans (countPreempt _ q old)
  · exact stopped

theorem reschedule (s : State) (q : Nat) : Rescheduled s (s.reschedule q) := by
  unfold State.reschedule
  dsimp only
  split
  · exact refl s
  split
  · split
    · exact modQuarter s q _
    · exact refl s
  split
  case h_1 => exact refl s
  case h_2 n _ _ =>
    unfold State.beginRestore
    exact (modQuarter s q _).trans (beginSlice _ q n)
  case h_3 o _ _ =>
    split
    · exact endSlice s q o none
    · exact refl s
  case h_4 o n _ _ =>
    split
    · exact endSlice s q o (some n)
    split
    · split
      · exact beginSlice s q o
      · exact refl s
    split
    · exact modQuarter s q _
    split
    · exact endSlice s q o (some n)
    · exact refl s

theorem all (s : State) : Rescheduled s s.rescheduleAll := foldl reschedule _ s

theorem tasksMoved (h : Rescheduled s t) (n : Nat) : TasksMoved n s t := by
  obtain ⟨x, hx⟩ := h.ctx n
  refine ⟨h.mem, h.core, ?_, ?_, ?_⟩ <;> rw [hx]
  · exact fun w hw => hw
  · exact fun i => rfl

end Rescheduled

namespace TasksMoved
variable {n : Nat} {s t u : State}

theorem refl (n : Nat) (s : State) : TasksMoved n s s := (Rescheduled.refl s).tasksMoved n

theorem trans (h : TasksMoved n s t) (h' : TasksMoved n t u) : TasksMoved n s u := by
  refine ⟨h'.mem.trans h.mem, fun c => ?_, h'.sems.trans h.sems, fun w hw => h'.pool w (h.pool w hw), fun i => (h'.ran i).trans (h.ran i)⟩
  obtain ⟨_, _, e⟩ := h.core c
  obtain ⟨st, w, e'⟩ := h'.core c
  exact ⟨st, w, by rw [e', e]⟩

theorem foldl {α : Type} {f : State → α → State} (hf : ∀ s x, TasksMoved n s (f s x)) (l : List α) (s : State) :
    TasksMoved n s (l.foldl f s) := by
  induction l generalizing s with
  | nil => exact refl n s
  | cons x l ih => exact (hf s x).trans (ih _)

/-- A change of the context that leaves its semaphores, its pool and what its RUNs have run. -/
theorem modCtx (s : State) {f : Ctx → Ctx} (hsems : ∀ k, (f k).sems = k.sems) (hpool : ∀ k, ∀ w ∈ k.pool, w ∈ (f k).pool)
    (hran : ∀ i, ((f (s.ctx n)).run? i).map (·.ran) = ((s.ctx n).run? i).map (·.ran)) : TasksMoved n s (s.modCtx n f) := by
  refine ⟨rfl, fun _ => ⟨_, _, rfl⟩, ?_, ?_, ?_⟩ <;> rw [State.ctx_modCtx]
  · exact hsems _
  · exact hpool _
  · exact hran

end TasksMoved

/-- A change of a RUN that leaves what it has run. -/
theorem Ctx.ran_modRun (k : Ctx) {run : Nat} {f : Run → Run} (hid : ∀ r, r.id = run → (f r).id = run) (hran : ∀ r, (f r).ran = r.ran) (i : Nat) :
    ((k.modRun run f).run? i).map (·.ran) = (k.run? i).map (·.ran) := by
  rw [Ctx.run?_modRun _ hid]
  split
  · rw [Option.map_map]
    exact congrFun (congrArg Option.map (funext hran)) _
  · rfl

theorem State.straggle_tasksMoved (s : State) (n m : Nat) : TasksMoved n s (s.straggle m) :=
  ⟨rfl, fun _ => ⟨_, _, rfl⟩, rfl, fun _ h => h, fun _ => rfl⟩

theorem State.poolAdd_tasksMoved (s : State) (n run : Nat) (d : TaskDesc) : TasksMoved n s (s.poolAdd n run d) := by
  have started : ∀ k : Ctx, ∀ i, ((k.modRun run fun r => r.modTask d.tid fun t => { t with st := 1 }).run? i).map (·.ran) =
      (k.run? i).map (·.ran) := fun k => k.ran_modRun (fun _ h => h) fun _ => rfl
  unfold State.poolAdd
  split
  · refine TasksMoved.trans ?_ (State.straggle_tasksMoved _ n 1)
    exact TasksMoved.modCtx s (fun _ => rfl) (fun _ _ h => h) (started _)
  · exact TasksMoved.modCtx s (fun _ => rfl) (fun _ _ h => List.mem_append_left _ h) (started _)

theorem State.makeRunnable_tasksMoved (s : State) (n : Nat) (ids : List (Nat × Nat)) : TasksMoved n s (s.makeRunnable n ids) := by
  unfold State.makeRunnable
  split
  · exact TasksMoved.refl n s
  · rename_i p _
    dsimp only
    generalize (ids.filterMap _).foldr insertTask [] = ds
    have added : TasksMoved n s (ds.foldl (fun s d => s.poolAdd n d.1 d.2) s) := TasksMoved.foldl (fun s d => s.poolAdd_tasksMoved n d.1 d.2) ds s
    exact (added.trans (TasksMoved.modCtx _ (f := fun k => { k with order := k.order + 1 }) (fun _ => rfl) (fun _ _ h => h) fun _ => rfl)).trans
      ((Rescheduled.all _).tasksMoved n)

/-! ## A RUN with its tasks changed -/

/-- Only RUNs of context `n` change; RUN `run` then is `q`. -/
structure RunIs (n run : Nat) (s t : State) (q : Run) : Prop where
  rest : t = { s with ctxs := t.ctxs }
  ctx : t.ctx n = { s.ctx n with runs := (t.ctx n).runs }
  run : (t.ctx n).run? run = some q

namespace RunIs
variable {n run : Nat} {s t u : State} {q : Run}

theorem refl (h : (s.ctx n).run? run = some q) : RunIs n run s s q := ⟨rfl, rfl, h⟩

theorem modRun (h : RunIs n run s t q) {f : Run → Run} (hf : ∀ r, r.id = run → (f r).id = run) :
    RunIs n run s (t.modCtx n fun k => k.modRun run f) (f q) := by
  refine ⟨?_, ?_, ?_⟩
  · rw [h.rest]; rfl
  · rw [State.ctx_modCtx, h.ctx]; rfl
  · rw [State.ctx_modCtx, Ctx.run?_modRun _ hf, if_pos rfl, h.run]; rfl

theorem mem (h : RunIs n run s t q) : t.mem = s.mem := by rw [h.rest]
theorem core (h : RunIs n run s t q) (c : Nat) : t.core c = s.core c := by rw [h.rest]; rfl
theorem sems (h : RunIs n run s t q) : (t.ctx n).sems = (s.ctx n).sems := by rw [h.ctx]
theorem prog (h : RunIs n run s t q) : (t.ctx n).prog = (s.ctx n).prog := by rw [h.ctx]
theorem pool (h : RunIs n run s t q) : (t.ctx n).pool = (s.ctx n).pool := by rw [h.ctx]
theorem order (h : RunIs n run s t q) : (t.ctx n).order = (s.ctx n).order := by rw [h.ctx]
theorem rst (h : RunIs n run s t q) : t.rst = s.rst := by rw [h.rest]

end RunIs

/-- The same RUN with the same tasks' ids; task `i` of the one is changed by `f i` in the other. -/
structure TasksTo (r q : Run) (f : Nat → TaskProg → TaskProg) : Prop where
  id : q.id = r.id
  ran : q.ran = r.ran
  tids : q.tasks.map (·.tid) = r.tasks.map (·.tid)
  task : ∀ i, q.task? i = (r.task? i).map (f i)

/-! ## The counts of the successors (04 R110) -/

/-- How often a list of successors names a task; 0xFFFFFFFF names none. -/
def namings (succ : List Nat) (i : Nat) : Nat := if i = 0xFFFFFFFF then 0 else succ.count i

theorem namings_cons (j : Nat) (succ : List Nat) (i : Nat) :
    namings (j :: succ) i = namings succ i + if i ≠ 0xFFFFFFFF ∧ i = j then 1 else 0 := by
  by_cases hi : i = 0xFFFFFFFF
  · simp [namings, hi]
  · by_cases hj : i = j
    · subst hj; simp [namings, hi]
    · simp [namings, hi, hj, Ne.symm hj]

/-- The task with its count lowered. -/
def TaskProg.lower (x : TaskProg) (m : Nat) : TaskProg := { x with count := x.count - m }

/-- The count of each successor falls by the times that the task names it. -/
theorem State.foldl_dropDep (n run c : Nat) (who : BitVec 32) {succ : List Nat} {s t : State} {r : Run} (h : RunIs n run s t r)
    (hs : ∀ i ∈ succ, i ≠ 0xFFFFFFFF → ∃ x, r.task? i = some x ∧ succ.count i ≤ x.count) :
    ∃ q, RunIs n run s (succ.foldl (fun s i => if i == 0xFFFFFFFF then s else s.dropDep n run c who i) t) q ∧
      TasksTo r q fun i x => x.lower (namings succ i) := by
  induction succ generalizing t r with
  | nil => exact ⟨r, h, rfl, rfl, rfl, fun i => by simp [namings, TaskProg.lower]⟩
  | cons j succ ih =>
    rw [List.foldl_cons]
    by_cases hj : j = 0xFFFFFFFF
    · obtain ⟨q, hq, htasks⟩ := ih h fun i hi hne => by
        obtain ⟨x, hx, hc⟩ := hs i (List.mem_cons_of_mem _ hi) hne
        exact ⟨x, hx, (List.count_le_count_cons ..).trans hc⟩
      have same : ∀ i, namings (j :: succ) i = namings succ i := fun i => by
        rw [namings_cons, if_neg (by omega), Nat.add_zero]
      exact ⟨q, by simpa [hj] using hq, by simpa only [same] using htasks⟩
    · obtain ⟨x, hx, hc⟩ := hs j List.mem_cons_self hj
      rw [List.count_cons_self] at hc
      have drop : t.dropDep n run c who j = t.modCtx n fun k => k.modRun run fun r => r.modTask j (·.lower 1) := by
        simp [State.dropDep, h.run, hx, show x.count ≠ 0 by omega]
        rfl
      have lowered : ∀ i, (r.modTask j (·.lower 1)).task? i = (r.task? i).map fun x => x.lower (if i = j then 1 else 0) := fun i => by
        rw [Run.task?_modTask r (f := (·.lower 1)) fun _ h => h]
        by_cases hij : i = j
        · simp [hij]
        · simp [hij, Ne.symm hij, TaskProg.lower]
      obtain ⟨q, hq, hid, hran, htids, htask⟩ := ih (h.modRun (f := fun r => r.modTask j (·.lower 1)) fun _ h => h)
        fun i hi hne => by
          obtain ⟨y, hy, hcount⟩ := hs i (List.mem_cons_of_mem _ hi) hne
          refine ⟨_, (lowered i).trans (by rw [hy]; rfl), ?_⟩
          by_cases hij : i = j
          · subst hij
            rw [List.count_cons_self] at hcount
            simp only [TaskProg.lower, if_true]
            omega
          · rw [List.count_cons_of_ne (Ne.symm hij)] at hcount
            simpa [TaskProg.lower, hij] using hcount
      refine ⟨q, ?_, hid, hran, htids.trans (map_updFirst_key (f := (·.lower 1)) (fun _ h => h) r.tasks), fun i => ?_⟩
      · rw [if_neg (by simpa using hj), drop]; exact hq
      · rw [htask, lowered, Option.map_map]
        refine congrArg (Option.map · _) (funext fun x => ?_)
        simp only [Function.comp, TaskProg.lower, namings_cons, Nat.sub_sub, Nat.add_comm]
        by_cases hij : i = j
        · simp [hij, hj]
        · simp [hij]

/-! ## A task that ends (04 R102, R110) -/

/-- An increment that stays below the top. -/
theorem State.semInc_below {s : State} {n i m : Nat} (h : (s.sem n i).toNat + m < 2 ^ 32) (who : Option (Nat × BitVec 32)) :
    s.semInc n i m who = s.setSem n i (s.sem n i + BitVec.ofNat 32 m) := by
  unfold State.semInc
  rw [if_neg (by omega)]

/-- The core of a task that ends is idle. -/
def Core.leaveTask (k : Core) : Core := { k with task := none, ended := false, code := [], block := none }

/-- The RUN of a task that ends. -/
def Run.endTask (r : Run) (tid : Nat) : Run := { r.modTask tid (fun x => { x with st := 2 }) with ran := r.ran + 1 }

/-- What a task that ends does before others become runnable: the core is idle, the task counts as run, its semaphore is incremented and the
counts of its successors fall. -/
def State.leaveTask (s : State) (c n : Nat) (t : TaskRun) (d : TaskDesc) : State :=
  let u := (s.modCore c Core.leaveTask).modCtx n fun k => k.modRun t.run fun r => r.endTask t.tid
  d.succ.foldl (fun s i => if i == 0xFFFFFFFF then s else s.dropDep n t.run c (BitVec.ofNat 32 t.tid) i)
    (if d.sem == 0xFFFF then u else u.semInc n d.sem 1 (some (c, BitVec.ofNat 32 t.tid)))

theorem State.endTask_eq (s : State) (c n : Nat) (t : TaskRun) (d : TaskDesc) : s.endTask c n t d = (s.leaveTask c n t d).advanceRun n t.run := rfl

/-- The semaphores of a context with the one that a task names incremented; 0xFFFF names none. -/
def semsAfter (sems : SMap (BitVec 32)) (i : Nat) : SMap (BitVec 32) :=
  if i = 0xFFFF then sems else SMap.set (0#32) sems i (SMap.get (0#32) sems i + 1)

theorem get_semsAfter (sems : SMap (BitVec 32)) (j : Nat) {i : Nat} (hi : i < 256) :
    SMap.get (0#32) (semsAfter sems j) i = if i = j then SMap.get (0#32) sems i + 1 else SMap.get (0#32) sems i := by
  rw [semsAfter]
  split
  · rw [if_neg (by omega)]
  · rw [SMap.get_set]
    by_cases h : i = j
    · subst h; rw [if_pos rfl]
    · rw [if_neg h, if_neg (Ne.symm h)]

/-- State `v` is `s` with a task of core `c` ended, its semaphore incremented, and the RUN now `q`. -/
structure TaskLeft (s v : State) (c n run sem : Nat) (q : Run) : Prop where
  mem : v.mem = s.mem
  rst : v.rst = s.rst
  core : v.core c = (s.core c).leaveTask
  ctx : ∃ rs, v.ctx n = { s.ctx n with runs := rs, sems := semsAfter (s.ctx n).sems sem }
  run : (v.ctx n).run? run = some q

theorem State.leaveTask_spec {s : State} (c : Nat) {n : Nat} {t : TaskRun} {d : TaskDesc} {r : Run} (hr : (s.ctx n).run? t.run = some r)
    (hsem : d.sem = 0xFFFF ∨ (d.sem < 256 ∧ (s.sem n d.sem).toNat + 1 < 2 ^ 32))
    (hsucc : ∀ i ∈ d.succ, i ≠ 0xFFFFFFFF → i ≠ t.tid ∧ ∃ x, r.task? i = some x ∧ d.succ.count i ≤ x.count) :
    ∃ q, TaskLeft s (s.leaveTask c n t d) c n t.run d.sem q ∧ TasksTo (r.endTask t.tid) q fun i x => x.lower (namings d.succ i) := by
  set u := (s.modCore c Core.leaveTask).modCtx n fun k => k.modRun t.run fun r => r.endTask t.tid with hu
  set v := if d.sem == 0xFFFF then u else u.semInc n d.sem 1 (some (c, BitVec.ofNat 32 t.tid)) with hv
  have ctxu : u.ctx n = (s.ctx n).modRun t.run fun r => r.endTask t.tid := State.ctx_modCtx ..
  have runu : (u.ctx n).run? t.run = some (r.endTask t.tid) := by
    rw [ctxu, Ctx.run?_modRun _ (f := fun r => r.endTask t.tid) fun _ h => h, if_pos rfl, hr]; rfl
  have named : ∃ xs, v = { u with ctxs := xs } ∧ v.ctx n = { u.ctx n with sems := semsAfter (s.ctx n).sems d.sem } := by
    by_cases h : d.sem = 0xFFFF
    · have same : v = u := if_pos (by simpa using h)
      refine ⟨u.ctxs, same, ?_⟩
      rw [same, semsAfter, if_pos h, ctxu]; rfl
    · obtain hsem | ⟨-, hsem⟩ := hsem
      · exact absurd hsem h
      have value : u.sem n d.sem = s.sem n d.sem := by rw [State.sem, ctxu]; rfl
      have inc : v = u.setSem n d.sem (s.sem n d.sem + 1) := by
        rw [hv, if_neg (by simpa using h), State.semInc_below (by rw [value]; exact hsem), value]; rfl
      refine ⟨_, inc, ?_⟩
      rw [inc, State.setSem, State.ctx_modCtx, semsAfter, if_neg h, ctxu]; rfl
  obtain ⟨xs, hvu, hvctx⟩ := named
  have runv : (v.ctx n).run? t.run = some (r.endTask t.tid) := by rw [hvctx]; exact runu
  have left : ∀ i ∈ d.succ, i ≠ 0xFFFFFFFF → ∃ x, (r.endTask t.tid).task? i = some x ∧ d.succ.count i ≤ x.count := by
    intro i hi hne
    obtain ⟨hit, x, hx, hcount⟩ := hsucc i hi hne
    refine ⟨x, ?_, hcount⟩
    exact (Run.task?_modTask r (f := fun x => { x with st := 2 }) (fun _ h => h) i).trans (by rw [if_neg (Ne.symm hit), hx])
  obtain ⟨q, hq, htasks⟩ := State.foldl_dropDep n t.run c (BitVec.ofNat 32 t.tid) (RunIs.refl runv) left
  refine ⟨q, ⟨hq.mem.trans (by rw [hvu]; rfl), hq.rst.trans (by rw [hvu]; rfl), (hq.core c).trans ?_, ?_, hq.run⟩, htasks⟩
  · rw [hvu]
    exact State.core_modCore s c Core.leaveTask
  · have ctx := hq.ctx
    rw [hvctx, ctxu] at ctx
    exact ⟨_, ctx⟩

/-! ## Tasks that become runnable together (04 R107, R110) -/

theorem TasksTo.refl (r : Run) : TasksTo r r fun _ x => x := ⟨rfl, rfl, rfl, fun i => by simp⟩

theorem TasksTo.trans {r q u : Run} {f g : Nat → TaskProg → TaskProg} (h : TasksTo r q f) (h' : TasksTo q u g) :
    TasksTo r u fun i x => g i (f i x) :=
  ⟨h'.id.trans h.id, h'.ran.trans h.ran, h'.tids.trans h.tids, fun i => by rw [h'.task, h.task, Option.map_map]; rfl⟩

/-- A task that becomes runnable. -/
def TaskProg.ready (x : TaskProg) : TaskProg := { x with st := 1 }

/-- A task that waits with a count of 0 becomes runnable. -/
def TaskProg.moveOn (x : TaskProg) : TaskProg := if x.st = 0 ∧ x.count = 0 then x.ready else x

theorem TaskProg.moveOn_count (x : TaskProg) : x.moveOn.count = x.count := by unfold TaskProg.moveOn; split <;> rfl

theorem TaskProg.moveOn_st (x : TaskProg) : x.moveOn.st = if x.st = 0 ∧ x.count = 0 then 1 else x.st := by
  unfold TaskProg.moveOn; split <;> rfl

theorem TasksTo.ready (r : Run) (tid : Nat) :
    TasksTo r (r.modTask tid TaskProg.ready) fun i x => if i = tid then x.ready else x := by
  refine ⟨rfl, rfl, map_updFirst_key (key := TaskProg.tid) (f := TaskProg.ready) (fun _ h => h) r.tasks, fun i => ?_⟩
  rw [Run.task?_modTask r (f := TaskProg.ready) fun _ h => h]
  by_cases h : i = tid
  · simp [h]
  · simp [h, Ne.symm h]

/-- A task's entry as it enters its pool. -/
def State.poolTask (s : State) (k : Ctx) (run : Nat) (d : TaskDesc) : PoolTask :=
  { run := run, tid := d.tid, quarter := (s.homeOf k d).1, prio := d.prio, pin := (s.homeOf k d).2, order := k.order,
    pooled := decide (k.poolLen (s.homeOf k d).1 < 4096) }

/-- Without a partial reset a task enters its pool behind those there. -/
theorem State.poolAdd_open {s : State} (hb : s.rst.busy = false) (n run : Nat) (d : TaskDesc) : s.poolAdd n run d = s.modCtx n fun k =>
    ({ k with pool := k.pool ++ [s.poolTask k run d] } : Ctx).modRun run fun r => r.modTask d.tid TaskProg.ready := by
  simp only [State.poolAdd, State.poolsReset, hb, Bool.false_and, Bool.false_eq_true, if_false]
  rfl

/-- The pool entry `w` of a task `d` of RUN `run` that became runnable in state `s` as the `place`th. -/
structure EntryOf (s : State) (run place : Nat) (d : TaskDesc) (w : PoolTask) : Prop where
  ofRun : w.run = run
  ofTask : w.tid = d.tid
  prio : w.prio = d.prio
  order : w.order = place
  home : d.home < 4 → s.enabledOf d.home ≠ 0 → w.quarter = d.home ∧ w.pin = d.pin

theorem EntryOf.congr {s t : State} {run place : Nat} {d : TaskDesc} {w : PoolTask} (h : EntryOf t run place d w) (hr : t.rst = s.rst) :
    EntryOf s run place d w :=
  ⟨h.ofRun, h.ofTask, h.prio, h.order, fun h4 hn => h.home h4 (by rw [State.enabledOf, hr]; exact hn)⟩

theorem State.poolTask_entryOf (s : State) (k : Ctx) (run : Nat) (d : TaskDesc) : EntryOf s run k.order d (s.poolTask k run d) := by
  refine ⟨rfl, rfl, rfl, rfl, fun h hn => ?_⟩
  simp only [State.poolTask, State.homeOf_own k h (.inr hn), and_self]

/-- From `s` to `t` the tasks `ds` of RUN `run` became runnable, one after another. -/
structure Entered (n run : Nat) (s t : State) (ds : List (Nat × TaskDesc)) (r q : Run) : Prop where
  found : (t.ctx n).run? run = some q
  tasks : TasksTo r q fun i x => if i ∈ ds.map (·.2.tid) then x.ready else x
  entries : ∀ d ∈ ds, ∃ w ∈ (t.ctx n).pool, EntryOf s run (s.ctx n).order d.2 w

theorem State.foldl_poolAdd_entered {n run : Nat} {ds : List (Nat × TaskDesc)} (hds : ∀ d ∈ ds, d.1 = run) {s : State} {r : Run}
    (hb : s.rst.busy = false) (hr : (s.ctx n).run? run = some r) :
    ∃ q, Entered n run s (ds.foldl (fun s d => s.poolAdd n d.1 d.2) s) ds r q := by
  induction ds generalizing s r with
  | nil => exact ⟨r, hr, by simpa using TasksTo.refl r, by simp⟩
  | cons d ds ih =>
    obtain ⟨hd, hrest⟩ := List.forall_mem_cons.1 hds
    set u := s.poolAdd n d.1 d.2 with hu
    have added : u = s.modCtx n fun k =>
        ({ k with pool := k.pool ++ [s.poolTask k run d.2] } : Ctx).modRun run fun r => r.modTask d.2.tid TaskProg.ready := by
      rw [hu, State.poolAdd_open hb, hd]
    have ctxu : u.ctx n = ({ s.ctx n with pool := (s.ctx n).pool ++ [s.poolTask (s.ctx n) run d.2] } : Ctx).modRun run fun r =>
        r.modTask d.2.tid TaskProg.ready := by
      rw [added, State.ctx_modCtx]
    have rst : u.rst = s.rst := by rw [added]; rfl
    have order : (u.ctx n).order = (s.ctx n).order := by rw [ctxu]; rfl
    have runu : (u.ctx n).run? run = some (r.modTask d.2.tid TaskProg.ready) := by
      rw [ctxu, Ctx.run?_modRun _ (f := fun r => r.modTask d.2.tid TaskProg.ready) fun _ h => h, if_pos rfl]
      exact congrArg (Option.map _) hr
    obtain ⟨q, run, tasks, entries⟩ := ih hrest (s := u) (by rw [rst]; exact hb) runu
    have kept : TasksMoved n u (ds.foldl (fun s d => s.poolAdd n d.1 d.2) u) := TasksMoved.foldl (fun s d => s.poolAdd_tasksMoved n d.1 d.2) ds u
    refine ⟨q, run, ?_, List.forall_mem_cons.2 ⟨⟨s.poolTask (s.ctx n) _ d.2, kept.pool _ ?_, State.poolTask_entryOf ..⟩, fun e he => ?_⟩⟩
    · obtain ⟨hid, hran, htids, htask⟩ := (TasksTo.ready r d.2.tid).trans tasks
      refine ⟨hid, hran, htids, fun i => (htask i).trans (congrArg (Option.map · _) (funext fun x => ?_))⟩
      by_cases h1 : i = d.2.tid <;> by_cases h2 : i ∈ ds.map (·.2.tid) <;> simp [h1, h2, TaskProg.ready]
    · rw [ctxu]
      exact List.mem_append_right _ (List.mem_singleton.2 rfl)
    · obtain ⟨w, hw, entry⟩ := entries e he
      rw [order] at entry
      exact ⟨w, hw, entry.congr rst⟩

theorem mem_insertTask {d e : Nat × TaskDesc} {l : List (Nat × TaskDesc)} : e ∈ insertTask d l ↔ e = d ∨ e ∈ l := by
  induction l with
  | nil => simp [insertTask]
  | cons x l ih =>
    rw [insertTask]
    split
    · simp
    · rw [List.mem_cons, ih, List.mem_cons]; tauto

theorem mem_foldr_insertTask {e : Nat × TaskDesc} {l : List (Nat × TaskDesc)} : e ∈ l.foldr insertTask [] ↔ e ∈ l := by
  induction l with
  | nil => rfl
  | cons d l ih => rw [List.foldr_cons, mem_insertTask, ih, List.mem_cons]

/-- The tasks of some RUNs with their descriptors, in the order in which they become runnable. -/
def Prog.described (p : Prog) (ids : List (Nat × Nat)) : List (Nat × TaskDesc) :=
  (ids.filterMap fun i => (p.tasks.find? fun d => d.tid == i.2).map fun d => (i.1, d)).foldr insertTask []

theorem Prog.mem_described {p : Prog} {ids : List (Nat × Nat)} {e : Nat × TaskDesc} :
    e ∈ p.described ids ↔ ∃ i ∈ ids, i.1 = e.1 ∧ p.tasks.find? (fun d => d.tid == i.2) = some e.2 := by
  rw [Prog.described, mem_foldr_insertTask, List.mem_filterMap]
  refine exists_congr fun i => and_congr_right fun _ => ?_
  rw [Option.map_eq_some_iff]
  constructor
  · rintro ⟨d, hd, rfl⟩; exact ⟨rfl, hd⟩
  · rintro ⟨h, hd⟩; exact ⟨e.2, hd, by rw [h]⟩

theorem State.makeRunnable_eq {s : State} {n : Nat} {p : Prog} (hp : (s.ctx n).prog = some p) (ids : List (Nat × Nat)) :
    s.makeRunnable n ids = (((p.described ids).foldl (fun s d => s.poolAdd n d.1 d.2) s).modCtx n
      fun k => { k with order := k.order + 1 }).rescheduleAll := by
  unfold State.makeRunnable
  rw [hp]
  rfl

/-- A RUN that has let micro-batches leave and enter. -/
def Run.admitted (r : Run) (p : Prog) : Run := (r.leave p).admitAll p

/-- Without stages the due tasks that have descriptors are those that wait with a count of 0. -/
theorem Run.mem_due {r : Run} {p : Prog} (hst : p.stages = []) (hnd : (r.tasks.map (·.tid)).Nodup)
    (hdesc : ∀ x ∈ r.tasks, ∃ e ∈ p.tasks, e.tid = x.tid) {i : Nat} {x : TaskProg} (hx : r.task? i = some x) :
    i ∈ (p.described ((r.admitted p).due p)).map (·.2.tid) ↔ x.st = 0 ∧ x.count = 0 := by
  obtain ⟨hmem, htid⟩ := Run.task?_tid hx
  have free : ∀ tid, (r.admitted p).free p tid = true := fun tid => by simp [Run.free, Prog.stageOf, hst]
  have mem_due : ∀ j, j ∈ (r.admitted p).due p ↔ ∃ y ∈ r.tasks, (y.st = 0 ∧ y.count = 0) ∧ ((r.admitted p).id, y.tid) = j := by
    intro j
    rw [Run.due, List.mem_map]
    refine exists_congr fun y => ?_
    rw [List.mem_filter, free, and_assoc]
    exact and_congr_right fun _ => and_congr_left fun _ => by simp
  constructor
  · intro h
    obtain ⟨d, hd, rfl⟩ := List.mem_map.1 h
    obtain ⟨j, hj, -, hfind⟩ := Prog.mem_described.1 hd
    obtain ⟨y, hy, waits, rfl⟩ := (mem_due j).1 hj
    have hyd : d.2.tid = y.tid := by simpa using List.find?_some hfind
    have : y = x := List.inj_on_of_nodup_map hnd hy hmem (hyd.symm.trans htid.symm)
    exact this ▸ waits
  · intro waits
    obtain ⟨e, he, hex⟩ := hdesc x hmem
    obtain ⟨d, hd⟩ : ∃ d, p.tasks.find? (fun d => d.tid == i) = some d := by
      rw [← Option.isSome_iff_exists, List.find?_isSome]
      exact ⟨e, he, by simp [hex, htid]⟩
    refine List.mem_map.2 ⟨((r.admitted p).id, d), Prog.mem_described.2 ⟨((r.admitted p).id, i), ?_, rfl, hd⟩, by simpa using List.find?_some hd⟩
    exact (mem_due _).2 ⟨x, hmem, waits, by rw [htid]⟩

section
variable {s : State} {n run : Nat} {p : Prog} {r : Run} (hp : (s.ctx n).prog = some p) (hr : (s.ctx n).run? run = some r)
include hp hr

theorem State.advanceRun_eq : s.advanceRun n run =
    (s.modCtx n fun k => k.modRun run fun _ => r.admitted p).makeRunnable n ((r.admitted p).due p) := by
  have id : (r.admitted p).id = run := (Ctx.run?_id hr : r.id = run)
  have moved : ([run].filterMap (s.ctx n).run?).map (fun r => (r.leave p).admitAll p) = [r.admitted p] := by
    simp [hr, Run.admitted]
  unfold State.advanceRun State.advanceRuns
  rw [hp]
  dsimp only
  rw [moved]
  simp only [List.foldl_cons, List.foldl_nil, id, List.flatMap_cons, List.flatMap_nil, List.append_nil]

theorem State.advanceRun_tasksMoved : TasksMoved n s (s.advanceRun n run) := by
  rw [State.advanceRun_eq hp hr]
  refine TasksMoved.trans ?_ (State.makeRunnable_tasksMoved _ n _)
  refine TasksMoved.modCtx s (fun _ => rfl) (fun _ _ h => h) fun i => ?_
  rw [Ctx.run?_modRun _ (f := fun _ => r.admitted p) fun _ _ => (Ctx.run?_id hr : r.id = run)]
  by_cases h : run = i
  · subst h; rw [if_pos rfl, hr]; rfl
  · rw [if_neg h]

/-- Without stages each task of the RUN that waits with a count of 0 becomes runnable, and no other task changes. -/
theorem State.advanceRun_spec (hst : p.stages = []) (hb : s.rst.busy = false) (hnd : (r.tasks.map (·.tid)).Nodup)
    (hdesc : ∀ x ∈ r.tasks, ∃ e ∈ p.tasks, e.tid = x.tid) {i : Nat} {x : TaskProg} (hx : r.task? i = some x) :
    ∃ q, ((s.advanceRun n run).ctx n).run? run = some q ∧ q.task? i = some x.moveOn ∧
      (x.st = 0 → x.count = 0 → ∃ e w, e ∈ p.tasks ∧ e.tid = i ∧ w ∈ ((s.advanceRun n run).ctx n).pool ∧
        EntryOf s run (s.ctx n).order e w) := by
  set r' := r.admitted p
  set u := s.modCtx n fun k => k.modRun run fun _ => r' with hu
  have id : r'.id = run := (Ctx.run?_id hr : r.id = run)
  have runu : RunIs n run s u r' := by
    have := (RunIs.refl hr).modRun (f := fun _ => r') fun _ _ => id
    exact this
  obtain ⟨q, entered⟩ := State.foldl_poolAdd_entered (ds := p.described (r'.due p)) (n := n) (run := run) (s := u) (r := r') (by
    intro d hd
    obtain ⟨j, hj, hj1, -⟩ := Prog.mem_described.1 hd
    obtain ⟨y, -, rfl⟩ := List.mem_map.1 hj
    exact hj1.symm.trans id) (by rw [runu.rst]; exact hb) runu.run
  set v := (p.described (r'.due p)).foldl (fun s d => s.poolAdd n d.1 d.2) u
  have due : i ∈ (p.described (r'.due p)).map (·.2.tid) ↔ x.st = 0 ∧ x.count = 0 := Run.mem_due hst hnd hdesc hx
  obtain ⟨h, hctx⟩ := (Rescheduled.all (v.modCtx n fun k => { k with order := k.order + 1 })).ctx n
  have adv : (s.advanceRun n run).ctx n = { v.ctx n with order := (v.ctx n).order + 1, sched := h } := by
    rw [State.advanceRun_eq hp hr, State.makeRunnable_eq (runu.prog.trans hp), hctx, State.ctx_modCtx]
  rw [adv]
  refine ⟨q, entered.found, ?_, fun h0 hc => ?_⟩
  · rw [entered.tasks.task, show r'.task? i = some x from hx]
    simp only [Option.map_some, due]
    rfl
  · obtain ⟨d, hd, htid⟩ := List.mem_map.1 (due.2 ⟨h0, hc⟩)
    obtain ⟨w, hw, entry⟩ := entered.entries d hd
    obtain ⟨j, -, -, hfind⟩ := Prog.mem_described.1 hd
    refine ⟨d.2, w, List.mem_of_find?_eq_some hfind, htid, hw, ?_⟩
    rw [runu.order] at entry
    exact entry.congr runu.rst

end

section
variable {c : CoreId} {n : Nat} {t : TaskRun} {p : Prog} {d : TaskDesc} {r : Run} {s : State} (hc : (s.core c.val).ctx = some n)
  (ht : (s.core c.val).task = some t) (he : (s.core c.val).ended = true) (hh : (s.core c.val).halted = false)
  (hquiet : (s.core c.val).taskQuiet = true) (hp : (s.ctx n).prog = some p) (hd : p.tasks.find? (fun d => d.tid == t.tid) = some d)

include hc ht he hh hquiet hp hd in
/-- A core at END with nothing outstanding completes its task. -/
theorem exec_taskComplete : Answers (.taskComplete c) s (s.endTask c.val n t d) := by
  change execTaskComplete c s = _
  simp [execTaskComplete, hc, ht, he, hh, hquiet, hp, hd]

variable (hr : (s.ctx n).run? t.run = some r) (hsem : d.sem = 0xFFFF ∨ (d.sem < 256 ∧ (s.sem n d.sem).toNat + 1 < 2 ^ 32))
  (hsucc : ∀ i ∈ d.succ, i ≠ 0xFFFFFFFF → i ≠ t.tid ∧ ∃ x, r.task? i = some x ∧ d.succ.count i ≤ x.count)
include hp hr hsem hsucc

/-- What the end of a task leaves, whatever becomes runnable behind it. -/
theorem State.endTask_spec :
    let u := s.endTask c.val n t d
    (u.core c.val).task = none ∧ (u.core c.val).ended = false ∧ (u.core c.val).a = (s.core c.val).a ∧ u.mem = s.mem ∧
      (u.ctx n).sems = semsAfter (s.ctx n).sems d.sem ∧ (∀ w ∈ (s.ctx n).pool, w ∈ (u.ctx n).pool) ∧
      ∃ q, (u.ctx n).run? t.run = some q ∧ q.ran = r.ran + 1 := by
  obtain ⟨q, left, tasks⟩ := State.leaveTask_spec c.val hr hsem hsucc
  obtain ⟨rs, hctx⟩ := left.ctx
  have moved := State.advanceRun_tasksMoved (s := s.leaveTask c.val n t d) (p := p) (by rw [hctx]; exact hp) left.run
  rw [← State.endTask_eq] at moved
  intro u
  obtain ⟨st, w, hcore⟩ := moved.core c.val
  rw [left.core] at hcore
  obtain ⟨q', hq', hran⟩ := Option.map_eq_some_iff.1 ((moved.ran t.run).trans (by rw [left.run]; rfl))
  refine ⟨by rw [hcore]; rfl, by rw [hcore]; rfl, by rw [hcore]; rfl, moved.mem.trans left.mem, moved.sems.trans (by rw [hctx]),
    fun w hw => moved.pool w (by rw [hctx]; exact hw), q', hq', hran.trans tasks.ran⟩

/-- Without stages: the tasks of the RUN behind the end of one of them. -/
theorem State.endTask_tasks (hst : p.stages = []) (hb : s.rst.busy = false) (hnd : (r.tasks.map (·.tid)).Nodup)
    (hdesc : ∀ x ∈ r.tasks, ∃ e ∈ p.tasks, e.tid = x.tid) {q : Run}
    (hq : ((s.endTask c.val n t d).ctx n).run? t.run = some q) {i : Nat} {x : TaskProg} (hx : r.task? i = some x) (hi : i ≠ t.tid) :
    let y := x.lower (namings d.succ i)
    q.task? i = some y.moveOn ∧
      (y.st = 0 → y.count = 0 → ∃ e w, e ∈ p.tasks ∧ e.tid = i ∧ w ∈ ((s.endTask c.val n t d).ctx n).pool ∧
        EntryOf s t.run (s.ctx n).order e w) := by
  obtain ⟨q0, left, tasks⟩ := State.leaveTask_spec c.val hr hsem hsucc
  obtain ⟨rs, hctx⟩ := left.ctx
  have tids : q0.tasks.map (·.tid) = r.tasks.map (·.tid) :=
    tasks.tids.trans (map_updFirst_key (key := TaskProg.tid) (f := fun x => { x with st := 2 }) (fun _ h => h) r.tasks)
  have described : ∀ z ∈ q0.tasks, ∃ e ∈ p.tasks, e.tid = z.tid := by
    intro z hz
    obtain ⟨z', hz', htid⟩ := List.mem_map.1 (tids ▸ List.mem_map_of_mem (f := fun x : TaskProg => x.tid) hz)
    obtain ⟨e, he, het⟩ := hdesc z' hz'
    exact ⟨e, he, het.trans htid⟩
  have hy : q0.task? i = some (x.lower (namings d.succ i)) := by
    have same : (r.endTask t.tid).task? i = r.task? i :=
      (Run.task?_modTask r (f := fun x => { x with st := 2 }) (fun _ h => h) i).trans (if_neg (Ne.symm hi))
    rw [tasks.task, same, hx]; rfl
  obtain ⟨q', hq', htask, hentry⟩ := State.advanceRun_spec (s := s.leaveTask c.val n t d) (by rw [hctx]; exact hp) left.run hst
    (by rw [left.rst]; exact hb) (by rw [tids]; exact hnd) described hy
  rw [← State.endTask_eq] at hq' hentry
  rw [hq] at hq'
  cases hq'
  refine ⟨htask, fun h0 hc => ?_⟩
  obtain ⟨e, w, hep, het, hw, entry⟩ := hentry h0 hc
  rw [hctx] at entry
  exact ⟨e, w, hep, het, hw, entry.congr left.rst⟩

end

/-! ## The obligation -/

/-- Settles O26: taking a task, its start and its end are run by their own lemmas; what becomes runnable behind the end is read off the tasks of
the RUN, and the choice of a task off the order of the pools. -/
theorem tasksAreTakenInOrderAndCompleted : Obligations.TasksAreTakenInOrderAndCompleted := by
  refine ⟨fun c s => ⟨fun n hn => ⟨?take, ?clockOff, ?restart⟩, ?complete, ?successors, ?bound⟩,
    fun s k d => ⟨?fewest, fun h hp => s.homeOf_own k h hp, fun q hq h hp h0 hn hl => State.homeOf_moved k hq h hp h0 hn hl⟩,
    fun k q t steal h => Ctx.nextTask_spec h⟩
  case take =>
    intro t steal p r d hclk hnext hp hr hd hs code hblk
    obtain ⟨mem, -⟩ := Ctx.nextTask_spec hnext
    obtain ⟨fewer, taken, stolen⟩ := (s.ctx n).takeOut_spec mem steal
    have run := exec_taskTake_some hn hclk hnext hp hr hd
    have clean : CleanStore (s.modCtx n fun k => k.takeOut t steal) := ⟨hs.bad, hs.arm, hs.rst⟩
    rw [State.startTask_clean clean _ _ _ _ _ hblk] at run
    refine ⟨_, run, ?_⟩
    have htid : d.tid = t.tid := by simpa using List.find?_some hd
    rw [State.core_modCore, State.ctx_modCore, State.ctx_modCtx]
    obtain ⟨arg, tid, zeros⟩ := Core.startTask_ra ((s.modCtx n fun k => k.takeOut t steal).core c.val) n
      { run := r.id, tid := d.tid } (BitVec.ofNat 64 ((d.arg.toNat + r.argOff.toNat) % 2 ^ 48)) code
    exact ⟨rfl, rfl, rfl, by rw [← htid]; rfl, arg,
      tid.trans (congrArg (BitVec.ofNat 64) htid), zeros, rfl, rfl, rfl, rfl, fewer, taken, stolen, rfl⟩
  case clockOff => exact fun hnext hclk => exec_taskTake_none hn hclk hnext
  case restart => exact fun hnext hclk => exec_coreClockRestart hn hclk hnext
  case complete =>
    intro n t p d r hc ht he hh hquiet hp hd hr hlt htop hnone
    have hsucc : ∀ i ∈ d.succ, i ≠ 0xFFFFFFFF → i ≠ t.tid ∧ ∃ x, r.task? i = some x ∧ d.succ.count i ≤ x.count :=
      fun i hi hne => absurd (hnone i hi) hne
    obtain ⟨task, ended, a, mem, sems, -, q, hq, ran⟩ := State.endTask_spec (c := c) hp hr (.inr ⟨hlt, htop⟩) hsucc
    refine ⟨_, exec_taskComplete hc ht he hh hquiet hp hd, task, ended, a, ?_, mem, q, hq, ran⟩
    rw [State.sem, sems, get_semsAfter _ _ hlt, if_pos rfl]; rfl
  case successors =>
    intro n t p d r hc ht he hh hquiet hp hd hr hst hb hsem hnd hdesc hsucc
    obtain ⟨task, -, -, mem, sems, pool, q, hq, ran⟩ := State.endTask_spec (c := c) hp hr hsem hsucc
    refine ⟨_, q, exec_taskComplete hc ht he hh hquiet hp hd, hq, ran, task, mem, fun i hi => ?_, pool, fun i x hx hne => ?_⟩
    · rw [State.sem, sems, get_semsAfter _ _ hi]; rfl
    · obtain ⟨htask, hentry⟩ := State.endTask_tasks (c := c) hp hr hsem hsucc hst hb hnd hdesc hq hx hne
      refine ⟨_, htask, ?_, ?_, fun h0 hcount => ?_⟩
      · exact TaskProg.moveOn_count _
      · rw [TaskProg.moveOn_st, TaskProg.moveOn_count]; rfl
      · rw [TaskProg.moveOn_count] at hcount
        obtain ⟨e, w, hep, het, hw, entry⟩ := hentry h0 hcount
        exact ⟨e, w, hep, het, hw, entry.ofRun.trans (Ctx.run?_id hr).symm, entry.ofTask.trans het, entry.prio, entry.order, entry.home⟩
  case bound =>
    intro b hb ht hh hf
    have run := exec_blockBoundExpiry hb ht hh
    obtain ⟨mem, cores, active, u, record⟩ := State.fatal_first (s := s.modCore c.val fun k => k.hang b) hf (s.hangRec c.val b)
    refine ⟨_, run, active, ?_, mem, ?_⟩
    · rw [State.core, cores, ← State.core, State.core_modCore]; rfl
    · rw [State.modCore_hlt] at record
      simp only [record]
      exact ⟨rfl, rfl, rfl, rfl, rfl, rfl, rfl⟩
  case fewest =>
    intro h hp
    rw [State.homeOf_any k h hp]
    exact k.fewest_spec

end Sys2Proof.Machine

/-!
The functions of ALU and ACMP and the conditions of BRA (05 R125, R126).
-/

namespace Sys2Proof.Machine

open Sys2Proof

/-! ## The functions of ALU (05 R125) -/

theorem toNat_sub_wraps (a b : BitVec 64) : (a - b).toNat = (a.toNat + (2 ^ 64 - b.toNat)) % 2 ^ 64 := by
  rw [BitVec.toNat_sub, Nat.add_comm]

theorem toInt_ite_slt_min (a b : BitVec 64) : (if a.slt b then a else b).toInt = min a.toInt b.toInt := by
  simp only [BitVec.slt_iff_toInt_lt]
  split <;> omega

theorem toInt_ite_slt_max (a b : BitVec 64) : (if a.slt b then b else a).toInt = max a.toInt b.toInt := by
  simp only [BitVec.slt_iff_toInt_lt]
  split <;> omega

theorem aluResult_shl (a b : BitVec 64) : (aluResult 6 a b).toNat = a.toNat * 2 ^ (b.toNat % 64) % 2 ^ 64 := by
  rw [aluResult, BitVec.toNat_shiftLeft, Nat.shiftLeft_eq]

theorem aluResult_shr (a b : BitVec 64) : (aluResult 7 a b).toNat = a.toNat / 2 ^ (b.toNat % 64) := by
  rw [aluResult, BitVec.toNat_ushiftRight, Nat.shiftRight_eq_div_pow]

theorem aluResult_sar (a b : BitVec 64) : (aluResult 8 a b).toInt = a.toInt / (2 ^ (b.toNat % 64) : Int) := by
  rw [aluResult, BitVec.toInt_sshiftRight, Int.shiftRight_eq_div_pow]
  norm_cast

/-! ## Signed and unsigned comparisons (05 R125, R126) -/

theorem not_slt_iff (a b : BitVec 64) : (!a.slt b) = true ↔ b.toInt ≤ a.toInt := by
  rw [Bool.not_eq_true', ← Bool.not_eq_true, BitVec.slt_iff_toInt_lt, not_lt]

theorem not_ult_iff (a b : BitVec 64) : (!a.ult b) = true ↔ b.toNat ≤ a.toNat := by
  rw [Bool.not_eq_true', ← Bool.not_eq_true, BitVec.ult_iff_toNat_lt, not_lt]

theorem beq_zero_iff (a : BitVec 64) : (a == 0#64) = true ↔ a.toInt = 0 := by
  rw [beq_iff_eq, ← BitVec.toInt_inj, BitVec.toInt_zero]

/-- Settles O3: each function is the library's operation on words, read through `toNat`, `toInt` or its bits. -/
theorem aluAndCompareValues : Obligations.AluAndCompareValues := by
  refine ⟨fun a b => ⟨BitVec.toNat_add a b, toNat_sub_wraps a b, BitVec.toNat_mul a b, fun i _ => BitVec.getLsbD_and,
      fun i _ => BitVec.getLsbD_or, fun i _ => BitVec.getLsbD_xor, aluResult_shl a b, aluResult_shr a b, aluResult_sar a b,
      toInt_ite_slt_min a b, toInt_ite_slt_max a b, rfl⟩,
    fun a b => ⟨?eq, ?ne, BitVec.slt_iff_toInt_lt, not_slt_iff a b, BitVec.ult_iff_toNat_lt, not_ult_iff a b,
      beq_zero_iff a, ?nonzero, ?negative, ?nonnegative⟩⟩
  case eq => exact beq_iff_eq.trans BitVec.toNat_inj.symm
  case ne => exact bne_iff_ne.trans (not_congr BitVec.toNat_inj.symm)
  case nonzero => exact bne_iff_ne.trans (not_congr ((beq_iff_eq).symm.trans (beq_zero_iff a)))
  case negative =>
    show a.msb = true ↔ _
    rw [BitVec.msb_eq_toInt, decide_eq_true_iff]
  case nonnegative =>
    show (!a.msb) = true ↔ _
    rw [BitVec.msb_eq_toInt, Bool.not_eq_true', decide_eq_false_iff_not, not_lt]

end Sys2Proof.Machine

/-!
Scalar instructions and branches: the issue check, the fields that must be 0, their next states and their faults (05 R115 to R119, R125, R126).
-/

namespace Sys2Proof.Machine

open Sys2Proof

/-! ## Good layout-S words (05 R115, R116) -/

theorem OpndForm.opndOk {w : SF} (h : OpndForm w) : w.opndOk = true := by
  obtain ⟨imm, reg⟩ := h
  unfold SF.opndOk
  split
  · exact beq_iff_eq.2 (imm ‹_›)
  · exact beq_iff_eq.2 (reg ‹_›)

section
variable {i : Instr} {c : CoreId} {op : BitVec 8} {w : SF} {ok : Bool} {s : State} {body : State → State}
  (hop : opcodeDefined op = true) (hok : ok = true) (hi : AtInsn s c.val (encodeS op w))
include hop hok hi

/-- A good instruction that the core stands at runs. -/
theorem answers_issued (hex : exec i s = .next (s.issue c.val (encodeS op w) ok body)) : Answers i s (body s) := by
  rw [Answers, hex, hok, State.issue_runs hi (by rw [encodeS_opcode]; exact hop)]

/-- A good instruction that nothing holds runs. -/
theorem answers_free {as : List Nat} {reads writes : List Res}
    (hex : exec i s = .next (s.issue c.val (encodeS op w) ok fun s => s.ifFree c.val as reads writes body))
    (hf : Free s c.val as reads writes) : Answers i s (body s) := by
  rw [Answers, answers_issued hop hok hi hex, State.ifFree_free hf]

end

theorem Core.next_setT (k : Core) (i : Nat) (v : BitVec 64) :
    (k.setT i v).next = { k with t := SMap.set 0 k.t i v, pc := k.pc + 1, afterBlk := false } := rfl

/-- Settles O2: each instruction is good, nothing holds it, and what it then does to the core is the statement's next state. -/
theorem scalarRegisterResults : Obligations.ScalarRegisterResults := by
  intro c w s k
  refine ⟨?nop, ?alu, ?alih, ?acmp, ?lset, ?lget, ?fset, ?tset, ?tget, ?toff, ?tsb⟩
  case nop =>
    intro hw hi
    have run := answers_issued (i := .nop c w) rfl (by rw [hw]; rfl) hi rfl
    exact run
  case alu =>
    intro hfn hform hmov hi hf
    have run := answers_free (i := .alu c w) rfl (by simp [SF.fnMax, hfn, hform.opndOk]; tauto) hi rfl hf
    exact run
  case alih =>
    intro hw hi hf
    have run := answers_free (i := .alih c w) rfl (by rw [hw]; rfl) hi rfl hf
    exact run
  case acmp =>
    intro hfn hform hd hi hf
    have run := answers_free (i := .acmp c w) rfl (by simp [SF.fnMax, SF.d8, hfn, hform.opndOk, hd]) hi rfl hf
    exact run
  case lset =>
    intro hfn ha hform hd hi hf
    have run := answers_free (i := .lset c w) rfl (by simp [SF.zero, SF.d8, hfn, ha, hform.opndOk, hd]) hi rfl hf
    exact run
  case lget =>
    intro hw ha hi hf
    have run := answers_free (i := .lget c w) rfl (by rw [hw]; simp [SF.zero, ha]) hi rfl hf
    exact run
  case fset =>
    intro b hw hd hi hf
    have hb : (w.imm == 1#32) = b := by rw [hw]; cases b <;> rfl
    have run := answers_free (i := .fset c w) rfl (by rw [hw]; cases b <;> simp [SF.zero, SF.d8, hd]) hi rfl hf
    rw [hb] at run
    exact run
  case tset =>
    intro hw hd hok hi hf
    have run := answers_free (i := .tset c w) rfl (by rw [hw]; simp [SF.zero, SF.d16, hd]) hi rfl hf
    rw [if_pos hok] at run
    exact run
  case tget =>
    intro hw ha hi hf
    have run := answers_free (i := .tget c w) rfl (by rw [hw]; simp [SF.zero, ha]) hi rfl hf
    exact run
  case toff =>
    intro v hw hd hsum hv halign hfmt hi hf
    have sum : w.sum (s.core c.val) = v := hsum
    have fmt : tFmt ((s.core c.val).rt w.d.toNat) ≠ 0 := hfmt
    have run := answers_free (i := .toff c w) rfl (by rw [hw]; simp [SF.zero, SF.d16, hd]) hi rfl hf
    rw [if_pos (by simp [sum, fmt]; omega), sum, Int.toNat_natCast, State.modCore, Core.next_setT] at run
    exact run
  case tsb =>
    intro v hw hd hsum hv hfmt hi hf
    have sum : w.sum (s.core c.val) = v := hsum
    have fmt : tFmt ((s.core c.val).rt w.d.toNat) ≠ 0 := hfmt
    have run := answers_free (i := .tsb c w) rfl (by rw [hw]; simp [SF.zero, SF.d16, hd]) hi rfl hf
    rw [if_pos (by simp [sum, fmt]; omega), sum, Int.toNat_natCast, State.modCore, Core.next_setT] at run
    exact run

/-! ## Branches (05 R126) -/

section
variable {s : State} {c : Nat} {off : Int}

/-- A target inside the code block. -/
theorem State.branch_inside {t : Nat} (ht : ((s.core c).pc : Int) + off = t) (hin : t < (s.core c).code.length) (taken : Bool) (f : Core → Core) :
    s.branch c off taken f = s.setCore c { f (s.core c) with pc := if taken then t else (s.core c).pc + 1, afterBlk := false } := by
  have inside : (decide (0 ≤ (t : Int)) && decide ((t : Int) < (s.core c).code.length)) = true := by simp [hin]
  simp only [State.branch, ht, inside, if_true, Int.toNat_natCast]
  rfl

/-- A target outside it. -/
theorem State.branch_outside (h : ((s.core c).pc : Int) + off < 0 ∨ ((s.core c).code.length : Int) ≤ (s.core c).pc + off)
    (taken : Bool) (f : Core → Core) : s.branch c off taken f = s.insnFault c := by
  have outside : (decide (0 ≤ ((s.core c).pc : Int) + off) && decide (((s.core c).pc : Int) + off < (s.core c).code.length)) = false := by
    simp; omega
  simp only [State.branch, outside, Bool.false_eq_true, if_false]

end

/-- LOOP goes on while the count after it is not 0. -/
theorem loop_taken_iff {l : BitVec 32} (h : l ≠ 0) : (l != 0#32 && l != 1#32) = true ↔ l - 1 ≠ 0 := by
  have one : l - 1 = 0 ↔ l = 1#32 := BitVec.sub_eq_iff_eq_add.trans (by simp)
  rw [ne_eq, one, Bool.and_eq_true, bne_iff_ne, bne_iff_ne]
  exact and_iff_right h

section
variable (c : CoreId) (w : SF) (s : State)

theorem exec_br (hw : w = ⟨0, 0, 0, 0, 0, w.imm⟩) (hi : AtInsn s c.val (encodeS 0x04#8 w)) :
    Answers (.br c w) s (s.branch c.val w.imm.toInt true id) :=
  answers_issued (i := .br c w) rfl (by rw [hw]; rfl) hi rfl

theorem exec_bra (hw : w = ⟨w.fn, 0, w.a, 0, 0, w.imm⟩) (hfn : w.fn.toNat ≤ 3) (hi : AtInsn s c.val (encodeS 0x05#8 w))
    (hf : Free s c.val [w.a.toNat] [] []) :
    Answers (.bra c w) s (s.branch c.val w.imm.toInt (braTaken w.fn.toNat ((s.core c.val).ra w.a.toNat)) id) :=
  answers_free (i := .bra c w) rfl (by rw [hw]; simp [SF.zero, SF.fnMax, hfn]) hi rfl hf

theorem exec_brf (hw : w = ⟨w.fn, w.d, 0, 0, 0, w.imm⟩) (hfn : w.fn.toNat ≤ 1) (hd : w.d.toNat < 8)
    (hi : AtInsn s c.val (encodeS 0x06#8 w)) (hf : Free s c.val [] [.freg w.d.toNat] []) :
    Answers (.brf c w) s (s.branch c.val w.imm.toInt (decide ((s.core c.val).rf w.d.toNat = decide (w.fn = 1))) id) :=
  answers_free (i := .brf c w) rfl (by rw [hw]; simp [SF.zero, SF.fnMax, SF.d8, hfn, hd]) hi rfl hf

theorem exec_loop (hw : w = ⟨0, w.d, 0, 0, 0, w.imm⟩) (hd : w.d.toNat < 8) (hi : AtInsn s c.val (encodeS 0x07#8 w)) :
    Answers (.loop c w) s (s.branch c.val w.imm.toInt ((s.core c.val).rl w.d.toNat != 0#32 && (s.core c.val).rl w.d.toNat != 1#32) fun k =>
      if (s.core c.val).rl w.d.toNat = 0#32 then k else k.setL w.d.toNat ((s.core c.val).rl w.d.toNat - 1#32)) :=
  answers_issued (i := .loop c w) rfl (by rw [hw]; simp [SF.zero, SF.d8, hd]) hi rfl

end

/-- Settles O4: each instruction is a branch by its own condition, inside the code block or outside it. -/
theorem branchesGoWhereR126Says : Obligations.BranchesGoWhereR126Says := by
  refine fun c w s => ⟨fun t ht hin => ⟨?br, ?bra, ?brf, ?loop⟩, fun hout => ⟨?brOut, ?braOut, ?brfOut, ?loopOut⟩⟩
  case br =>
    intro hw hi
    have run := exec_br c w s hw hi
    rw [State.branch_inside ht hin] at run
    exact run
  case bra =>
    intro hw hfn hi hf
    have run := exec_bra c w s hw hfn hi hf
    rw [State.branch_inside ht hin] at run
    exact run
  case brf =>
    intro hw hfn hd hi hf
    have run := exec_brf c w s hw hfn hd hi hf
    rw [State.branch_inside ht hin] at run
    simp only [decide_eq_true_eq] at run
    exact run
  case loop =>
    intro hw hd hi
    have run := exec_loop c w s hw hd hi
    rw [State.branch_inside ht hin] at run
    refine ⟨fun h0 => ?_, fun h0 => ?_⟩
    · have h0 : (s.core c.val).rl w.d.toNat = 0#32 := h0
      rw [if_pos h0, if_neg (by simp [h0])] at run
      exact run
    · have h1 : (s.core c.val).rl w.d.toNat ≠ 0#32 := h0
      rw [if_neg h1] at run
      simp only [loop_taken_iff h0] at run
      exact run
  case brOut => exact fun hw hi => State.branch_outside hout _ _ ▸ exec_br c w s hw hi
  case braOut => exact fun hw hfn hi hf => State.branch_outside hout _ _ ▸ exec_bra c w s hw hfn hi hf
  case brfOut => exact fun hw hfn hd hi hf => State.branch_outside hout _ _ ▸ exec_brf c w s hw hfn hd hi hf
  case loopOut => exact fun hw hd hi => State.branch_outside hout _ _ ▸ exec_loop c w s hw hd hi

/-! ## Illegal instructions (05 R116, R117, 14 R369, R370) -/

/-- A first FC_ILLEGAL changes no context and takes one sequence number: its class has no penalty. -/
theorem State.fatal_illegal {s : State} (h : s.flt.active = false) {r : FRec} (hr : r.cls = 0x106) :
    (s.fatal r).ctxs = s.ctxs ∧ (s.fatal r).hlt.nextSeq = s.hlt.nextSeq + 1 := by
  obtain ⟨p, ps, ds, l, hv⟩ := s.waveBegun_frame r
  have health : ∀ t : State, t.classHealth r = t := fun t => by simp [State.classHealth, hr]
  have dump : ∀ t : State, t.openDump.ctxs = t.ctxs ∧ t.openDump.hlt = t.hlt := fun t => by
    unfold State.openDump
    split
    · exact ⟨rfl, rfl⟩
    · exact ⟨rfl, rfl⟩
  rw [State.fatal_first_eq h, health, hv]
  split
  · rw [(dump _).1, (dump _).2]; exact ⟨rfl, rfl⟩
  · exact ⟨rfl, rfl⟩

/-- What the fault of an instruction says of the core that stands at it. -/
def State.illegalRec (s : State) (c : Nat) : FRec :=
  let k := s.core c
  { cls := 0x106, ctx := k.ctxNum, subject := s.link.coord, insn := true, coreValid := true, core := c, word := k.pc, task := k.taskId,
    instr := k.code.getD k.pc 0#64 }

/-- A core that issues nothing more. -/
def Core.halt (k : Core) : Core := { k with halted := true }

section
variable {i : Instr} {c : CoreId} {op : BitVec 8} {w : SF} {ok : Bool} {s : State} {body : State → State}

/-- An instruction with a bad field faults. -/
theorem answers_bad (hok : ok = false) (hi : AtInsn s c.val (encodeS op w))
    (hex : exec i s = .next (s.issue c.val (encodeS op w) ok body)) : Answers i s (s.insnFault c.val) := by
  rw [Answers, hex, hok, State.issue_bad hi]

end

theorem SF.zero_all {w : SF} (h : w ≠ ⟨0, 0, 0, 0, 0, 0⟩) : w.zero true true true true true true = false := by
  rw [← Bool.not_eq_true]
  intro hz
  obtain ⟨fn, d, a, b, i, imm⟩ := w
  simp [SF.zero] at hz
  simp [hz] at h

theorem tileOk_eq_false {v : BitVec 64} (h : tFmt v = 0 ∨ tFmt v = 7 ∨ tOrder v = 3 ∨ tOffset v % 32 ≠ 0 ∨ 2 ^ 55 ≤ v.toNat) : tileOk v = false := by
  have top : 2 ^ 55 ≤ v.toNat → fld v.toNat 63 55 ≠ 0 := by
    have := v.isLt
    simp only [fld]
    omega
  rw [← Bool.not_eq_true]
  simp only [tileOk, Bool.and_eq_true, decide_eq_true_eq, bne_iff_ne, not_and]
  omega

/-- Settles O6: the fault is a first fatal fault of class FC_ILLEGAL, and each of the instructions fails its check of fields or operands. -/
theorem illegalInstructionsOnlyFault : Obligations.IllegalInstructionsOnlyFault := by
  refine ⟨fun s c h => ?fault, fun i c s may w here undef hi => ?undefined,
    fun c w s => ⟨?nop, ?aluFn, ?aluOpnd, ?acmp, ?lset, ?lget, ?fset, ?tsetReg, ?tsetTile, ?sinc, ?blk⟩⟩
  case fault =>
    intro t k
    have ht : t = (s.modCore c Core.halt).fatal (s.illegalRec c) := rfl
    obtain ⟨mem, cores, active, u, record⟩ := State.fatal_first (s := s.modCore c Core.halt) h (s.illegalRec c)
    obtain ⟨ctxs, seq⟩ := State.fatal_illegal (s := s.modCore c Core.halt) h (r := s.illegalRec c) rfl
    have core : ∀ x, t.core x = (s.modCore c Core.halt).core x := fun x => by rw [ht, State.core, cores]; rfl
    refine ⟨(core c).trans (State.core_modCore ..), fun x hx => (core x).trans (State.core_modCore_other _ _ (Ne.symm hx)), mem, ctxs, active, seq, ?_⟩
    rw [ht, ← State.modCore_hlt s c Core.halt, record]
    exact ⟨rfl, rfl, rfl, rfl, rfl, rfl, rfl, rfl, rfl, rfl⟩
  case undefined =>
    have run : ∀ (word : BitVec 64) (ok : Bool) (body : State → State), exec i s = .next (s.issue c.val word ok body) →
        Answers i s (s.insnFault c.val) := fun word ok body hex => by rw [Answers, hex, State.issue_undefined may here undef]
    obtain ⟨f, rfl | rfl | rfl | rfl⟩ := hi
    · exact run _ _ _ rfl
    · exact run _ _ _ rfl
    · exact run _ _ _ rfl
    · exact run _ _ _ rfl
  case nop => exact fun hw hi => answers_bad (SF.zero_all hw) hi rfl
  case aluFn => exact fun hfn hi => answers_bad (by simp [SF.fnMax, hfn]) hi rfl
  case aluOpnd => exact fun h1 hb hi => answers_bad (by simp_all [SF.opndOk]) hi rfl
  case acmp => exact fun hd hi => answers_bad (by simp [SF.d8, hd]) hi rfl
  case lset => exact fun hd hi => answers_bad (by simp [SF.d8, hd]) hi rfl
  case lget => exact fun ha hi => answers_bad (by simp [ha]) hi rfl
  case fset => exact fun himm hi => answers_bad (by simp; omega) hi rfl
  case tsetReg => exact fun hd hi => answers_bad (by simp [SF.d16, hd]) hi rfl
  case tsetTile =>
    intro hw hd hi hf hv
    have run := answers_free (i := .tset c w) rfl (by rw [hw]; simp [SF.zero, SF.d16, hd]) hi rfl hf
    rw [if_neg (by rw [tileOk_eq_false hv]; decide)] at run
    exact run
  case sinc => exact fun himm hi => answers_bad (by simp [SF.semOk, himm]) hi rfl
  case blk => exact fun hfn hi => answers_bad (by simp [blkFields, hfn]) hi rfl

end Sys2Proof.Machine

/-!
The fields of a tile descriptor that TOFF and TSB replace, and ALD and AST (05 R119, R125, R127, R149).
-/

namespace Sys2Proof.Machine

open Sys2Proof

/-! ## Fields of a tile descriptor (05 R119) -/

theorem toNat_setField_offset (t : BitVec 64) {v : Nat} (hv : v < 2 ^ 23) : (setField t 0 23 v).toNat = 2 ^ 23 * (t.toNat / 2 ^ 23) + v := by
  have := t.isLt
  simp only [setField, fld, BitVec.toNat_ofNat]
  omega

theorem toNat_setField_sbase (t : BitVec 64) {v : Nat} (hv : v < 2048) :
    (setField t 26 11 v).toNat = 2 ^ 37 * (t.toNat / 2 ^ 37) + (2 ^ 26 * v + t.toNat % 2 ^ 26) := by
  have := t.isLt
  simp only [setField, fld, BitVec.toNat_ofNat]
  omega

/-- Above `n` a number with other low bits keeps its own. -/
theorem testBit_of_high {t u n r i : Nat} (h : u = 2 ^ n * (t / 2 ^ n) + r) (hr : r < 2 ^ n) (hi : n ≤ i) : u.testBit i = t.testBit i := by
  rw [h, Nat.testBit_two_pow_mul_add _ hr, if_neg (by omega), Nat.testBit_div_two_pow, Nat.sub_add_cancel hi]

theorem setField_offset (t : BitVec 64) {v : Nat} (hv : v < 2 ^ 23) :
    tOffset (setField t 0 23 v) = v ∧ ∀ i, 23 ≤ i → (setField t 0 23 v).getLsbD i = t.getLsbD i := by
  refine ⟨?_, fun i hi => testBit_of_high (toNat_setField_offset t hv) hv hi⟩
  rw [tOffset, toNat_setField_offset t hv, fld]
  omega

theorem setField_sbase (t : BitVec 64) {v : Nat} (hv : v < 2048) :
    tSbase (setField t 26 11 v) = v ∧ ∀ i, (i < 26 ∨ 37 ≤ i) → (setField t 26 11 v).getLsbD i = t.getLsbD i := by
  refine ⟨?_, fun i hi => ?_⟩
  · rw [tSbase, toNat_setField_sbase t hv, fld]
    omega
  · rcases hi with low | high
    · have same : (setField t 26 11 v).toNat % 2 ^ 26 = t.toNat % 2 ^ 26 := by
        rw [toNat_setField_sbase t hv]
        omega
      have bit : ∀ x : Nat, x.testBit i = (x % 2 ^ 26).testBit i := fun x => by rw [Nat.testBit_mod_two_pow, decide_eq_true low, Bool.true_and]
      exact (bit _).trans (same ▸ (bit _).symm)
    · exact testBit_of_high (toNat_setField_sbase t hv) (by omega) high

/-! ## Where an access stands (04 R88, R99, 05 R127) -/

section
variable {s : State} {c off : Nat}

/-- The own core store is reached by its device address and by its local address. -/
theorem State.reach_own (hctx : (s.core c).ctx.isSome = true) (hx : s.coreExists c = true) (hoff : off + 8 ≤ 0x600000) {a : Nat}
    (ha : a = c * 0x800000 + off ∨ a = 0xE00000000000 + off) (write aldRead : Bool) : s.reach c a 8 write aldRead = some (coreBase c + off) := by
  obtain ⟨n, hn⟩ := Option.isSome_iff_exists.1 hctx
  have hc : c < 320 := by
    simp only [State.coreExists, Bool.and_eq_true, decide_eq_true_eq] at hx
    exact hx.1
  have notLast : isLastAlias a = false := by
    rw [isLastAlias, decide_eq_false_iff_not]
    omega
  have here : resolve c a = some (coreBase c + off) := by
    obtain rfl | rfl := ha
    · have notAlias : isAlias (c * 0x800000 + off) = false := by
        rw [isAlias, beq_eq_false_iff_ne, fld]
        omega
      rw [resolve, notAlias]
      rfl
    · have named : isAlias (0xE00000000000 + off) = true := by
        rw [isAlias, beq_iff_eq, fld]
        omega
      have high : fld (0xE00000000000 + off) 43 23 = 0 := by
        rw [fld]
        omega
      have low : fld (0xE00000000000 + off) 22 0 = off := by
        rw [fld]
        omega
      rw [resolve, named, if_pos rfl, high, low]
      rfl
  have own : s.inCoreStore (coreBase c + off) 8 = true := by
    have hdiv : (coreBase c + off) / 0x800000 = c := by
      unfold coreBase
      omega
    simp only [State.inCoreStore, hdiv, hx, Bool.and_true, Bool.and_eq_true, decide_eq_true_eq]
    unfold coreBase coreSize
    omega
  simp [State.reach, hn, notLast, here, own]

theorem State.localAddr_own (hx : s.coreExists c = true) (hoff : off + 8 ≤ 0x600000) : s.localAddr c (coreBase c + off) = true := by
  rw [State.localAddr, hx, Bool.and_true]
  exact within_of (Nat.le_add_right ..) (by unfold coreSize; omega)

end

/-! ## ALD and AST (05 R127, R149) -/

theorem Core.next_setA (k : Core) (i : Nat) (v : BitVec 64) :
    (k.setA i v).next = { k with a := SMap.set 0 k.a i v, pc := k.pc + 1, afterBlk := false } := rfl

theorem AtInsn.ctx {s : State} {c : Nat} {word : BitVec 64} (h : AtInsn s c word) : (s.core c).ctx.isSome = true := by
  obtain ⟨_, _, _, ctx, _⟩ := State.mayIssue_ctx h.may
  exact ctx

/-- A local load of good words. -/
theorem State.aldLocal_clean {s : State} (h : CleanStore s) (c x d : Nat) :
    s.aldLocal c x d = s.modCore c fun k => (k.setA d (BitVec.ofNat 64 (leNat (Mem.read s.mem x 8)))).next := by
  rw [State.aldLocal, State.load_clean h]
  rfl

section
variable {c : CoreId} {w : SF} {s : State}

section
variable (hw : w = ⟨0, w.d, w.a, 0, 0, w.imm⟩) (hi : AtInsn s c.val (encodeS 0x0B#8 w)) (hf : Free s c.val [w.a.toNat, w.d.toNat] [] [])
include hw hi hf

theorem exec_ald_misaligned (h : (w.addr (s.core c.val)).toNat % 8 ≠ 0) : Answers (.ald c w) s (s.insnFault c.val) := by
  have run := answers_free (i := .ald c w) rfl (by rw [hw]; rfl) hi rfl hf
  rw [if_pos (bne_iff_ne.2 h)] at run
  exact run

/-- A load of the own core store. -/
theorem exec_ald_local (h : (w.addr (s.core c.val)).toNat % 8 = 0) {x : Nat} (hr : s.reach c.val (w.addr (s.core c.val)).toNat 8 false true = some x)
    (hl : s.localAddr c.val x = true) (hstore : Free s c.val [] [.store (x - coreBase c.val) 8] []) :
    Answers (.ald c w) s (s.aldLocal c.val x w.d.toNat) := by
  have run := answers_free (i := .ald c w) rfl (by rw [hw]; rfl) hi rfl hf
  rw [if_neg (by simp [h])] at run
  simp only [hr, hl, if_true, State.ifFree_free hstore] at run
  exact run

/-- A load elsewhere is left outstanding. -/
theorem exec_ald_remote (h : (w.addr (s.core c.val)).toNat % 8 = 0) {x : Nat} (hr : s.reach c.val (w.addr (s.core c.val)).toNat 8 false true = some x)
    (hl : s.localAddr c.val x = false) : Answers (.ald c w) s (s.modCore c.val fun k =>
      { k.next with remote := k.remote ++ [{ load := true, reg := w.d.toNat, addr := x, value := 0#64, seq := k.nextSeq }],
                    nextSeq := k.nextSeq + 1 }) := by
  have run := answers_free (i := .ald c w) rfl (by rw [hw]; rfl) hi rfl hf
  rw [if_neg (by simp [h])] at run
  simp only [hr, hl, Bool.false_eq_true, if_false] at run
  exact run

end

section
variable (hw : w = ⟨0, 0, w.a, w.b, 0, w.imm⟩) (hi : AtInsn s c.val (encodeS 0x0C#8 w)) (hf : Free s c.val [w.a.toNat, w.b.toNat] [] [])
include hw hi hf

theorem exec_ast_misaligned (h : (w.addr (s.core c.val)).toNat % 8 ≠ 0) : Answers (.ast c w) s (s.insnFault c.val) := by
  have run := answers_free (i := .ast c w) rfl (by rw [hw]; rfl) hi rfl hf
  rw [if_pos (bne_iff_ne.2 h)] at run
  exact run

/-- A store into the own core store. -/
theorem exec_ast_local (h : (w.addr (s.core c.val)).toNat % 8 = 0) {x : Nat} (hr : s.reach c.val (w.addr (s.core c.val)).toNat 8 true false = some x)
    (hl : s.localAddr c.val x = true) (hstore : Free s c.val [] [] [.store (x - coreBase c.val) 8]) (hs : CleanStore s) :
    Answers (.ast c w) s ((s.setBytes x (natLe 8 ((s.core c.val).ra w.b.toNat).toNat)).modCore c.val Core.next) := by
  have run := answers_free (i := .ast c w) rfl (by rw [hw]; rfl) hi rfl hf
  rw [if_neg (by simp [h])] at run
  simp only [hr, hl, if_true, State.ifFree_free hstore] at run
  rw [State.afterStore_clean (hs.setBytes x _).bad (hs.setBytes x _).arm] at run
  exact run

/-- A store elsewhere is left outstanding. -/
theorem exec_ast_remote (h : (w.addr (s.core c.val)).toNat % 8 = 0) {x : Nat} (hr : s.reach c.val (w.addr (s.core c.val)).toNat 8 true false = some x)
    (hl : s.localAddr c.val x = false) : Answers (.ast c w) s (s.modCore c.val fun k =>
      { k.next with remote := k.remote ++ [{ load := false, reg := 0, addr := x, value := k.ra w.b.toNat, seq := k.nextSeq }],
                    nextSeq := k.nextSeq + 1 }) := by
  have run := answers_free (i := .ast c w) rfl (by rw [hw]; rfl) hi rfl hf
  rw [if_neg (by simp [h])] at run
  simp only [hr, hl, Bool.false_eq_true, if_false] at run
  exact run

end

end

/-- Settles O5: a field is replaced between the bits above and below it; an access is local where both its addresses name the own core store. -/
theorem tileFieldsAndRegisterAccesses : Obligations.TileFieldsAndRegisterAccesses := by
  refine ⟨fun t v => ⟨fun hv => setField_offset t hv, fun hv => setField_sbase t hv⟩, fun c w s => ⟨fun hw hi hf => ⟨?aldLocal, ?aldRemote, ?aldBad⟩,
    fun hw hi hf => ⟨?astLocal, ?astRemote, ?astBad⟩⟩⟩
  case aldLocal =>
    intro off halign hoff haddr hx hs hstore
    have run := exec_ald_local hw hi hf (by obtain h | h := haddr <;> simp only [SF.addr, SF.simm, h] <;> omega)
      (State.reach_own hi.ctx hx hoff haddr false true) (State.localAddr_own hx hoff) (by rwa [Nat.add_sub_cancel_left])
    rw [State.aldLocal_clean hs, State.modCore, Core.next_setA] at run
    exact run
  case aldRemote => exact fun x h hr hl => exec_ald_remote hw hi hf h hr hl
  case aldBad => exact fun h => exec_ald_misaligned hw hi hf h
  case astLocal =>
    intro off halign hoff haddr hx hs hstore
    have run := exec_ast_local hw hi hf (by obtain h | h := haddr <;> simp only [SF.addr, SF.simm, h] <;> omega)
      (State.reach_own hi.ctx hx hoff haddr true false) (State.localAddr_own hx hoff) (by rwa [Nat.add_sub_cancel_left]) hs
    set bs := natLe 8 ((s.core c.val).ra w.b.toNat).toNat with hbs
    have len : bs.length = 8 := length_natLe _ _
    refine ⟨_, run, rfl, ?_, fun x hx => Mem.byte_write_other _ _ _ _ (by rwa [len])⟩
    have back := Mem.read_write s.mem (coreBase c.val + off) bs
    rwa [len] at back
  case astRemote => exact fun x h hr hl => exec_ast_remote hw hi hf h hr hl
  case astBad => exact fun h => exec_ast_misaligned hw hi hf h

end Sys2Proof.Machine

/-!
Semaphores, blocks, layer markers and END on a core (05 R121, R143 to R145, 04 R499).
-/

namespace Sys2Proof.Machine

open Sys2Proof

/-! ## An instruction of an idle core in queue 3 (04 R98, R499) -/

theorem free_nothing (s : State) (c : Nat) : Free s c [] [] [] := by
  refine ⟨?_, by simp [Core.heldBy, QEntry.holds, meetAny]⟩
  simp only [Core.regHeld, List.contains_nil, Bool.and_false, List.any_eq_false, Bool.or_eq_false_iff]
  refine ⟨fun _ _ => Bool.false_ne_true, fun e _ => ?_⟩
  split <;> exact Bool.false_ne_true

theorem IdleCore.free {s : State} {c : Nat} (h : IdleCore (s.core c)) (regs : List Nat) (reads writes : List Res) : Free s c regs reads writes :=
  ⟨by simp [Core.regHeld, h.remote, h.dq], by simp [Core.heldBy, Core.work, h.vq, h.mq0, h.mq1]⟩

/-- The entry of an instruction that core `k` hands to a queue. -/
def Core.entry (k : Core) (word : BitVec 64) (w : Work) : QEntry :=
  { seq := k.nextSeq, pc := k.pc, word := word, work := w, reads := [], writes := [], phase := 0 }

/-- A core past an instruction that it has handed to a queue. -/
def Core.passed (k : Core) : Core := { k with pc := k.pc + 1, afterBlk := false, nextSeq := k.nextSeq + 1 }

/-- A pump that starts the one entry of queue 3. -/
theorem State.pump_startDq {s t : State} {c : Nat} (hv : (s.core c).vq = []) (h : s.startDq c = some t) (htv : (t.core c).vq = [])
    (htd : (t.core c).dq = []) : s.pump c = t := by
  simp [State.pump, State.pumpN, State.startVq_nil hv, h, State.startVq_nil htv, State.startDq_nil htd]

section
variable {s : State} {c n : Nat} {e : QEntry} {es : List QEntry} (hd : (s.core c).dq = e :: es)
include hd

theorem State.startDq_swait {i : Nat} {a : BitVec 32} {dec : Bool} (hw : e.work = .swait i a dec) : s.startDq c =
    some ((s.popDq c).modCore c fun k => k.standAt { sem := i, amount := a, dec := dec, blk := false, cls := 0, word := 0#64 }) := by
  simp [State.startDq, hd, hw]

variable (hc : (s.core c).ctx = some n)
include hc

theorem State.startDq_sinc {i : Nat} {a : BitVec 32} (hw : e.work = .sinc i a) (done : (s.core c).doneBefore e.seq = true) : s.startDq c =
    some (((s.popDq c).semInc n i a.toNat (some (c, (s.core c).taskId))).modCore c fun k => k.noteInc e.seq i a.toNat) := by
  simp [State.startDq, hd, hw, hc, done]

theorem State.startDq_stry {i d : Nat} {a : BitVec 32} (hw : e.work = .stry i a d) :
    s.startDq c = some ((s.popDq c).semClock n i (some (c, d, a))) := by
  simp [State.startDq, hd, hw, hc]

theorem State.startDq_srd {i d : Nat} (hw : e.work = .srd i d) :
    s.startDq c = some (((s.popDq c).semClock n i none).readSem c n i d) := by
  simp [State.startDq, hd, hw, hc]

end

theorem Core.ne_default {k : Core} {n : Nat} (h : k.ctx = some n) : k ≠ {} := by
  rintro rfl
  exact nomatch h

theorem State.modCore_setCore {s : State} {c n : Nat} {k : Core} (hk : k.ctx = some n) (f : Core → Core) :
    (s.setCore c k).modCore c f = s.setCore c (f k) := by
  rw [State.modCore, State.core_setCore, State.setCore_setCore _ _ _ (Core.ne_default hk)]

/-- An idle core that has handed an instruction to its queue 3. -/
def Core.queued (k : Core) (word : BitVec 64) (w : Work) : Core := { k.passed with dq := [k.entry word w] }

section
variable {s : State} {c n : Nat} (hk : IdleCore (s.core c)) (hc : (s.core c).ctx = some n) (word : BitVec 64) (w : Work)

include hk in
theorem State.push_queued : s.push c 3 word w [] [] id = s.setCore c ((s.core c).queued word w) := by
  have room : (s.core c).queue 3 = [] := hk.dq
  rw [State.push_room (by simp [room]), room]
  rfl

include hk hc in
theorem State.popDq_queued : (s.setCore c ((s.core c).queued word w)).popDq c = s.setCore c (s.core c).passed := by
  have empty : ({ (s.core c).queued word w with dq := [] } : Core) = (s.core c).passed := by rw [← hk.dq]; rfl
  rw [State.popDq, State.modCore_setCore (k := (s.core c).queued word w) hc]
  exact congrArg (s.setCore c) empty

theorem State.dq_queued : ((s.setCore c ((s.core c).queued word w)).core c).dq = [(s.core c).entry word w] := by
  rw [State.core_setCore]
  rfl

include hc in
theorem State.ctx_queued : ((s.setCore c ((s.core c).queued word w)).core c).ctx = some n := by
  rw [State.core_setCore]
  exact hc

include hk in
theorem State.doneBefore_queued : ((s.setCore c ((s.core c).queued word w)).core c).doneBefore ((s.core c).entry word w).seq = true := by
  rw [State.core_setCore]
  simp [Core.doneBefore, Core.workBefore, Core.work, Core.queued, Core.passed, hk.vq, hk.mq0, hk.mq1, hk.remote, hk.latch0, hk.latch1]

include hk in
/-- The instruction starts, and nothing waits behind it. -/
theorem State.pump_queued {t : State} (h : (s.setCore c ((s.core c).queued word w)).startDq c = some t) (htv : (t.core c).vq = (s.core c).vq)
    (htd : (t.core c).dq = (s.core c).dq) : (s.push c 3 word w [] [] id).pump c = t := by
  rw [State.push_queued hk]
  exact State.pump_startDq (by rw [State.core_setCore]; exact hk.vq) h (htv.trans hk.vq) (htd.trans hk.dq)

end

/-! ## Outside a layer (03 R70) -/

theorem Core.noteInc_none {k : Core} (h : k.layer = none) (seq i amount : Nat) : k.noteInc seq i amount = k := by
  rw [Core.noteInc, h, Option.map_none, ← h]

theorem Core.noteDec_none {k : Core} (h : k.layer = none) (i amount : Nat) : k.noteDec i amount = k := by
  rw [Core.noteDec, h, Option.map_none, ← h]

/-! ## Waits and grants over all cores (05 R145) -/

theorem foldl_same {f : State → Nat → State} {s : State} {l : List Nat} (h : ∀ x ∈ l, f s x = s) : l.foldl f s = s := by
  induction l with
  | nil => rfl
  | cons x l ih =>
    rw [List.forall_mem_cons] at h
    rw [List.foldl_cons, h.1, ih h.2]

/-- Of all cores only `c` does something. -/
theorem foldl_cores {f : State → Nat → State} {s t : State} {c : Nat} (hc : c < 320) (before : ∀ x, x ≠ c → f s x = s) (here : f s c = t)
    (after : ∀ x, x ≠ c → f t x = t) : (List.range 320).foldl f s = t := by
  obtain ⟨l, r, hlr⟩ := List.append_of_mem (List.mem_range.2 hc)
  have nodup := List.nodup_range (n := 320)
  rw [hlr, List.nodup_middle, List.nodup_cons, List.mem_append, not_or] at nodup
  obtain ⟨⟨hl, hr⟩, -⟩ := nodup
  rw [hlr, List.foldl_append, List.foldl_cons, foldl_same fun x hx => before x (fun h => hl (h ▸ hx)), here,
    foldl_same fun x hx => after x fun h => hr (h ▸ hx)]

section
variable {s : State} {n i x : Nat} (h : s.waitsOn n i x = none)
include h

theorem State.grantPlain_none (v : BitVec 32) : s.grantPlain n i v x = s := by simp [State.grantPlain, h]

theorem State.grantDec_none {try_ : Option (Nat × Nat × BitVec 32)} (ht : ∀ y ∈ try_, y.1 ≠ x) : s.grantDec n i try_ x = s := by
  unfold State.grantDec
  split
  · rename_i tc d amount
    rw [if_neg (by simpa using ht (tc, d, amount) rfl), h]
  · rw [h]

end

/-- Where no core waits, a clock of the semaphore changes nothing. -/
theorem State.semClock_quiet {s : State} {n i : Nat} (h : NoWaiter s n i) : s.semClock n i none = s := by
  rw [State.semClock, foldl_same fun x _ => State.grantPlain_none (h x) _]
  exact foldl_same fun x _ => State.grantDec_none (h x) nofun

theorem State.waitsOn_congr {s t : State} {x : Nat} (h : t.core x = s.core x) (n i : Nat) : t.waitsOn n i x = s.waitsOn n i x := by
  rw [State.waitsOn, h]
  rfl

theorem State.tryDec_core_other (s : State) (n i : Nat) {c x : Nat} (d : Nat) (amount : BitVec 32) (h : x ≠ c) :
    (s.tryDec n i c d amount).core x = s.core x := by
  unfold State.tryDec
  dsimp only
  split
  · rw [State.core_modCore_other _ _ h.symm, State.core_modCore_other _ _ h.symm]
    rfl
  · exact State.core_modCore_other _ _ h.symm

theorem State.tryDec_queues (s : State) (n i c d : Nat) (amount : BitVec 32) :
    ((s.tryDec n i c d amount).core c).vq = (s.core c).vq ∧ ((s.tryDec n i c d amount).core c).dq = (s.core c).dq := by
  unfold State.tryDec
  dsimp only
  split
  · rw [State.core_modCore, State.core_modCore]
    exact ⟨rfl, rfl⟩
  · rw [State.core_modCore]
    exact ⟨rfl, rfl⟩

/-- Where no core waits, a clock decides the try alone. -/
theorem State.semClock_try {s : State} {n i c : Nat} (hc : c < 320) (h : NoWaiter s n i) (d : Nat) (amount : BitVec 32) :
    s.semClock n i (some (c, d, amount)) = s.tryDec n i c d amount := by
  have other : ∀ {x}, x ≠ c → ∀ y ∈ some (c, d, amount), y.1 ≠ x := by
    rintro x hx _ ⟨⟩
    exact hx.symm
  rw [State.semClock, foldl_same fun x _ => State.grantPlain_none (h x) _]
  refine foldl_cores hc (fun x hx => State.grantDec_none (h x) (other hx)) (by simp [State.grantDec]) fun x hx => ?_
  exact State.grantDec_none ((State.waitsOn_congr (s.tryDec_core_other n i d amount hx) n i).trans (h x)) (other hx)

/-- A core that waits on nothing. -/
theorem State.waitsOn_none {s : State} {x : Nat} (h : (s.core x).wait = none) (n i : Nat) : s.waitsOn n i x = none := by
  simp [State.waitsOn, h]

/-- A change of a core that leaves it at no wait leaves no core waiting that was not. -/
theorem NoWaiter.setCore {s : State} {n i : Nat} (h : NoWaiter s n i) (c : Nat) {k : Core} (hk : k.wait = none) : NoWaiter (s.setCore c k) n i := by
  intro x
  by_cases hx : c = x
  · subst hx
    exact State.waitsOn_none (by rw [State.core_setCore, hk]) n i
  · exact (State.waitsOn_congr (s.core_setCore_other k hx) n i).trans (h x)

/-- A try that the value meets takes its amount. -/
theorem State.tryDec_met {s : State} {n i c : Nat} {k : Core} (hk : k.ctx = some n) (hl : k.layer = none) {amount : BitVec 32}
    (h : amount.toNat ≤ (s.sem n i).toNat) (d : Nat) :
    (s.setCore c k).tryDec n i c d amount = (s.setSem n i (s.sem n i - amount)).setCore c (k.setF d true) := by
  have noted : (((s.setCore c k).setSem n i (s.sem n i - amount)).modCore c fun k => k.noteDec i amount.toNat) =
      (s.setSem n i (s.sem n i - amount)).setCore c k :=
    (State.modCore_setCore (s := s.setSem n i (s.sem n i - amount)) hk _).trans (congrArg _ (Core.noteDec_none hl i _))
  have sem : (s.setCore c k).sem n i = s.sem n i := rfl
  rw [State.tryDec, sem, if_pos h, noted, State.modCore_setCore hk]

/-- An increment past the top raises FC_ILLEGAL and leaves the value. -/
theorem State.semInc_over {s : State} {n i m : Nat} (h : 2 ^ 32 ≤ (s.sem n i).toNat + m) (c : Nat) (task : BitVec 32) :
    s.semInc n i m (some (c, task)) = s.illegalTask n c task := by
  rw [State.semInc, if_pos h]

theorem State.illegalTask_first {s : State} (h : s.flt.active = false) (n c : Nat) (task : BitVec 32) :
    (s.illegalTask n c task).flt.active = true ∧ (s.illegalTask n c task).cores = s.cores ∧ (s.illegalTask n c task).ctxs = s.ctxs := by
  obtain ⟨-, cores, active, -⟩ := State.fatal_first h { cls := 0x106, ctx := n, subject := s.link.coord, coreValid := true, core := c, task := task }
  exact ⟨active, cores, (State.fatal_illegal h rfl).1⟩

theorem State.mayIssue_active {s : State} {c : Nat} (h : s.mayIssue c = true) : s.flt.active = false := by
  have live := (State.mayIssue_ctx h).1
  rw [State.live, Bool.and_eq_true, Bool.not_eq_true'] at live
  exact live.2

theorem Core.standAt_nonzero (k : Core) {u : SemWait} (h : u.amount ≠ 0#32) : k.standAt u = { k with wait := some u } := by
  rw [Core.standAt, if_neg fun h0 => h (beq_iff_eq.1 h0)]

theorem Core.standAt_zero (k : Core) {u : SemWait} (h : u.amount = 0#32) : k.standAt u = k.granted u := by
  rw [Core.standAt, if_pos (beq_iff_eq.2 h)]

/-! ## SINC, SWAIT, STRY and SRD on an idle core (05 R144) -/

theorem SF.semOk_of {w : SF} (h : w.imm.toNat < 256) : w.semOk = true := decide_eq_true h

theorem SF.sem_of {w : SF} (h : w.imm.toNat < 256) : w.sem = w.imm.toNat := Nat.mod_eq_of_lt h

section
variable {c : CoreId} {n : Nat} {w : SF} {s : State} (hc : (s.core c.val).ctx = some n) (himm : w.imm.toNat < 256) (hk : IdleCore (s.core c.val))
  {amount : BitVec 32} (ha : ((s.core c.val).ra w.a.toNat).setWidth 32 = amount)
include hc himm hk

section
include ha

/-- SINC's increment is made as soon as it stands in queue 3. -/
theorem exec_sinc (hw : w = ⟨0, 0, w.a, 0, 0, w.imm⟩) (hi : AtInsn s c.val (encodeS 0x31#8 w)) {u : State}
    (hu : (s.setCore c.val (s.core c.val).passed).semInc n w.imm.toNat amount.toNat (some (c.val, (s.core c.val).taskId)) = u)
    (hcore : u.core c.val = (s.core c.val).passed) (hl : (s.core c.val).layer = none) :
    Answers (.sinc c w) s (u.setCore c.val (s.core c.val).passed) := by
  have run := answers_free (i := .sinc c w) rfl (by rw [SF.semOk_of himm, hw]; rfl) hi rfl
    (hk.free _ _ _)
  have start := State.startDq_sinc (State.dq_queued _ _) (State.ctx_queued hc (encodeS 0x31#8 w) (.sinc w.imm.toNat amount)) rfl
    (State.doneBefore_queued hk _ _)
  have task : ((s.setCore c.val ((s.core c.val).queued (encodeS 0x31#8 w) (.sinc w.imm.toNat amount))).core c.val).taskId = (s.core c.val).taskId := by
    rw [State.core_setCore]; rfl
  rw [State.popDq_queued hk hc, task, hu, State.modCore, hcore, Core.noteInc_none (k := (s.core c.val).passed) hl] at start
  rw [SF.sem_of himm, ha] at run
  refine run.trans (congrArg _ (State.pump_queued hk _ _ start ?_ ?_))
  · rw [State.core_setCore]; rfl
  · rw [State.core_setCore]; rfl

/-- SWAIT stands at its wait. -/
theorem exec_swait (hw : w = ⟨w.fn, 0, w.a, 0, 0, w.imm⟩) (hfn : w.fn.toNat ≤ 1) (hi : AtInsn s c.val (encodeS 0x32#8 w)) :
    Answers (.swait c w) s (s.setCore c.val ((s.core c.val).passed.standAt
      { sem := w.imm.toNat, amount := amount, dec := w.fn == 1#8, blk := false, cls := 0, word := 0#64 })) := by
  have run := answers_free (i := .swait c w) rfl (by rw [SF.semOk_of himm, hw]; simp [SF.zero, SF.fnMax, hfn]) hi rfl (hk.free _ _ _)
  have start := State.startDq_swait (State.dq_queued (s := s) (c := c.val) (encodeS 0x32#8 w) (.swait w.imm.toNat amount (w.fn == 1#8))) rfl
  rw [State.popDq_queued hk hc, State.modCore_setCore (k := (s.core c.val).passed) hc] at start
  rw [SF.sem_of himm, ha] at run
  have queues : ∀ (k : Core) (u : SemWait), (k.standAt u).vq = k.vq ∧ (k.standAt u).dq = k.dq := fun k u => by
    unfold Core.standAt Core.granted
    split
    · split <;> exact ⟨rfl, rfl⟩
    · exact ⟨rfl, rfl⟩
  refine run.trans (congrArg _ (State.pump_queued hk _ _ start ?_ ?_))
  · rw [State.core_setCore]; exact (queues _ _).1
  · rw [State.core_setCore]; exact (queues _ _).2

/-- STRY is decided where no core waits on its semaphore. -/
theorem exec_stry (hw : w = ⟨0, w.d, w.a, 0, 0, w.imm⟩) (hd : w.d.toNat < 8) (hi : AtInsn s c.val (encodeS 0x33#8 w))
    (hq : NoWaiter s n w.imm.toNat) :
    Answers (.stry c w) s ((s.setCore c.val (s.core c.val).passed).tryDec n w.imm.toNat c.val w.d.toNat amount) := by
  have run := answers_free (i := .stry c w) rfl (by rw [SF.semOk_of himm, hw]; simp [SF.zero, SF.d8, hd]) hi rfl (hk.free _ _ _)
  have start := State.startDq_stry (State.dq_queued _ _) (State.ctx_queued hc (encodeS 0x33#8 w) (.stry w.imm.toNat amount w.d.toNat)) rfl
  obtain ⟨-, -, -, -, -, -, -, -, wait, -⟩ := State.mayIssue_ctx hi.may
  rw [State.popDq_queued hk hc, State.semClock_try c.isLt (hq.setCore c.val (k := (s.core c.val).passed) wait)] at start
  rw [SF.sem_of himm, ha] at run
  have queues := State.tryDec_queues (s.setCore c.val (s.core c.val).passed) n w.imm.toNat c.val w.d.toNat amount
  rw [State.core_setCore] at queues
  exact run.trans (congrArg _ (State.pump_queued hk _ _ start queues.1 queues.2))

end

/-- SRD reads where no core waits on its semaphore. -/
theorem exec_srd (hw : w = ⟨0, w.d, 0, 0, 0, w.imm⟩) (hi : AtInsn s c.val (encodeS 0x34#8 w)) (hq : NoWaiter s n w.imm.toNat) :
    Answers (.srd c w) s (s.setCore c.val ((s.core c.val).passed.setA w.d.toNat ((s.sem n w.imm.toNat).setWidth 64))) := by
  have run := answers_free (i := .srd c w) rfl (by rw [SF.semOk_of himm, hw]; rfl) hi rfl
    (hk.free _ _ _)
  have start := State.startDq_srd (State.dq_queued _ _) (State.ctx_queued hc (encodeS 0x34#8 w) (.srd w.imm.toNat w.d.toNat)) rfl
  obtain ⟨-, -, -, -, -, -, -, -, wait, -⟩ := State.mayIssue_ctx hi.may
  rw [State.popDq_queued hk hc, State.semClock_quiet (hq.setCore c.val (k := (s.core c.val).passed) wait), State.readSem,
    State.modCore_setCore (k := (s.core c.val).passed) hc] at start
  rw [SF.sem_of himm] at run
  refine run.trans (congrArg _ (State.pump_queued hk _ _ start ?_ ?_))
  · rw [State.core_setCore]; rfl
  · rw [State.core_setCore]; rfl

end

/-! ## The grant of a wait (05 R145) -/

/-- A core that is granted its wait waits on nothing. -/
theorem Core.granted_wait (k : Core) (u : SemWait) : (k.granted u).wait = none := by
  unfold Core.granted
  split <;> rfl

section
variable {s : State} {n i c : Nat} {u : SemWait} (hu : s.waitsOn n i c = some u)
include hu

theorem State.waitsOn_ctx : (s.core c).ctx = some n := by
  unfold State.waitsOn at hu
  dsimp only at hu
  split at hu
  · simp_all
  · exact nomatch hu

variable (hc : c < 320) (alone : ∀ x, x ≠ c → s.waitsOn n i x = none)
include hc alone

/-- The one wait on a semaphore, not met by its value. -/
theorem State.semClock_unmet (h : (s.sem n i).toNat < u.amount.toNat) : s.semClock n i none = s := by
  have plain : s.grantPlain n i (s.sem n i) c = s := by simp [State.grantPlain, hu, h]
  have dec : s.grantDec n i none c = s := by simp [State.grantDec, hu, h]
  rw [State.semClock, foldl_cores hc (fun x hx => State.grantPlain_none (alone x hx) _) plain fun x hx => State.grantPlain_none (alone x hx) _]
  exact foldl_cores hc (fun x hx => State.grantDec_none (alone x hx) nofun) dec fun x hx => State.grantDec_none (alone x hx) nofun

variable (h : u.amount.toNat ≤ (s.sem n i).toNat)
include h

/-- A plain wait that the value meets is granted. -/
theorem State.semClock_plain (hd : u.dec = false) : s.semClock n i none = s.modCore c fun k => k.granted u := by
  have plain : s.grantPlain n i (s.sem n i) c = s.modCore c fun k => k.granted u := by simp [State.grantPlain, hu, h, hd]
  have none_ : ∀ x, (s.modCore c fun k => k.granted u).waitsOn n i x = none := by
    intro x
    by_cases hx : x = c
    · subst hx
      exact State.waitsOn_none (by rw [State.core_modCore, Core.granted_wait]) n i
    · exact (State.waitsOn_congr (s.core_modCore_other _ (Ne.symm hx)) n i).trans (alone x hx)
  rw [State.semClock, foldl_cores hc (fun x hx => State.grantPlain_none (alone x hx) _) plain fun x _ => State.grantPlain_none (none_ x) _]
  exact foldl_same fun x _ => State.grantDec_none (none_ x) nofun

/-- A decrementing wait that the value meets is granted, and takes its amount. -/
theorem State.semClock_dec (hd : u.dec = true) (hl : (s.core c).layer = none) : s.semClock n i none =
    (s.setSem n i (s.sem n i - u.amount)).setCore c ((s.core c).granted u) := by
  have plain : s.grantPlain n i (s.sem n i) c = s := by simp [State.grantPlain, hu, hd]
  have noted : ((s.setSem n i (s.sem n i - u.amount)).modCore c fun k => k.noteDec i u.amount.toNat) =
      (s.setSem n i (s.sem n i - u.amount)).setCore c (s.core c) :=
    congrArg _ (Core.noteDec_none hl _ _)
  have dec : s.grantDec n i none c = (s.setSem n i (s.sem n i - u.amount)).setCore c ((s.core c).granted u) := by
    simp only [State.grantDec, hu, hd, h, decide_true, Bool.and_self, if_true]
    rw [noted, State.modCore_setCore (State.waitsOn_ctx hu)]
  rw [State.semClock, foldl_cores hc (fun x hx => State.grantPlain_none (alone x hx) _) plain fun x hx => State.grantPlain_none (alone x hx) _]
  refine foldl_cores hc (fun x hx => State.grantDec_none (alone x hx) nofun) dec fun x hx => State.grantDec_none ?_ nofun
  exact (State.waitsOn_congr (s := s) (State.core_setCore_other _ _ (Ne.symm hx)) n i).trans (alone x hx)

end

/-! ## Blocks, layers and END (05 R121, R143) -/

theorem bit_three_iff {f : Nat} : bit f 3 = true ↔ 8 ≤ f % 16 := by
  rw [bit, beq_iff_eq]
  omega

theorem bit_four_eq {f : Nat} (h : f < 32) : bit f 4 = decide (16 ≤ f) := by
  rw [bit, Bool.eq_iff_iff, beq_iff_eq, decide_eq_true_iff]
  omega

section
variable {c : CoreId} {w : SF} {s : State} (hi : AtInsn s c.val (encodeS 0x01#8 w)) (hok : blkFields w = true)
include hi hok

/-- A BLK in a quarter that is not stopping. -/
theorem exec_blk (hp : (s.quarter (quarterOf c.val)).phase ≠ 1)
    (hf : Free s c.val (if bit w.fn.toNat 3 then [w.a.toNat] else []) [] []) :
    Answers (.blk c w) s (s.modCore c.val fun k => k.reachBlk w) := by
  have run := answers_issued (i := .blk c w) rfl hok hi rfl
  rw [if_neg (by rw [beq_iff_eq]; exact hp), State.ifFree_free hf] at run
  exact run

theorem exec_blk_stopping (hp : (s.quarter (quarterOf c.val)).phase = 1) :
    Answers (.blk c w) s (s.modCore c.val fun k => { k with block := none, clocks := 0, stopped := true }) := by
  have run := answers_issued (i := .blk c w) rfl hok hi rfl
  rw [if_pos (beq_iff_eq.2 hp)] at run
  exact run

end

/-- The fields of a BLK without a wait. -/
theorem blkFields_plain {fn : BitVec 8} (h : fn.toNat ≤ 6) : blkFields ⟨fn, 0, 0, 0, 0, 0⟩ = true := by
  have wait : bit fn.toNat 4 = false := by
    rw [bit_four_eq (by omega), decide_eq_false_iff_not]
    omega
  simp [blkFields, SF.zero, SF.semOk, wait]
  omega

/-- The fields of a BLK with a wait. -/
theorem blkFields_wait {fn : BitVec 8} {a : BitVec 5} {imm : BitVec 32} (hcls : fn.toNat % 8 ≤ 6) (hw : 8 ≤ fn.toNat % 16) (hfn : fn.toNat < 32)
    (himm : imm.toNat < 256) : blkFields ⟨fn, 0, a, 0, 0, imm⟩ = true := by
  simp [blkFields, SF.zero, SF.semOk, bit_three_iff.2 hw, hcls, hfn, himm]

theorem Core.mayEnd_of {k : Core} (hs : ∀ i, i < 8 → k.slotPO i = none) (hl : k.layer = none) (h0 : k.owe0 = false) (h1 : k.owe1 = false) :
    k.mayEnd = true := by
  have slots : (List.range 8).all (fun i => (k.slotPO i).isNone) = true := by
    refine List.all_eq_true.2 fun i hi => ?_
    rw [hs i (List.mem_range.1 hi)]
    rfl
  simp [Core.mayEnd, slots, hl, h0, h1]

/-! ## The obligation -/

/-- Settles O7: queue 3 of an idle core starts its one instruction at once; of all cores only the one that waits is granted. -/
theorem semaphoresBlocksLayersAndEnd : Obligations.SemaphoresBlocksLayersAndEnd := by
  refine ⟨?sems, fun c w s => ⟨fun hcls hi hph => ⟨?blk, ?blkWait⟩, ?blkStop, ?layerOpen, ?layerClose, ?endTask⟩⟩
  case sems =>
    intro c n w s k amount sem hc himm
    refine ⟨?sinc, ?swait, ?stry, ?srd, ?full, ?grant⟩
    case sinc =>
      intro hw hi hk hl
      refine ⟨fun h => ?_, fun h => ?_⟩
      · have sum : (s.setCore c.val k.passed).semInc n.val sem amount.toNat (some (c.val, k.taskId)) =
            (s.setCore c.val k.passed).setSem n.val sem (s.sem n.val sem + amount) := by
          rw [State.semInc_below (s := s.setCore c.val k.passed) (n := n.val) (i := sem) h, BitVec.ofNat_toNat, BitVec.setWidth_eq]
          rfl
        have run := exec_sinc hc himm hk rfl hw hi sum (State.core_setCore ..) hl
        have twice := State.modCore_setCore (s := s.setSem n.val sem (s.sem n.val sem + amount)) (c := c.val) (k := k.passed) hc fun _ => k.passed
        exact run.trans (congrArg _ twice)
      · have quiet : s.flt.active = false := State.mayIssue_active hi.may
        obtain ⟨active, cores, ctxs⟩ := State.illegalTask_first (s := s.setCore c.val k.passed) quiet n.val c.val k.taskId
        have past := State.semInc_over (s := s.setCore c.val k.passed) (n := n.val) (i := sem) h c.val k.taskId
        have run := exec_sinc hc himm hk rfl hw hi past (by rw [State.core, cores]; exact State.core_setCore ..) hl
        have kept : (((s.setCore c.val k.passed).illegalTask n.val c.val k.taskId).setCore c.val k.passed).sem n.val sem = s.sem n.val sem :=
          congrArg (fun xs : SMap Ctx => SMap.get 0#32 (SMap.get ({} : Ctx) xs n.val).sems sem) ctxs
        exact ⟨_, run, kept, active⟩
    case swait =>
      intro hw hfn hi hk
      have run := exec_swait hc himm hk rfl hw hfn hi
      refine ⟨fun h => ?_, fun h => ?_⟩
      · rw [Core.standAt_nonzero _ h] at run
        exact run
      · rw [Core.standAt_zero _ h] at run
        exact run
    case stry =>
      intro hw hd hi hk hq hl
      have run := exec_stry hc himm hk rfl hw hd hi hq
      refine ⟨fun h => ?_, fun h => ?_⟩
      · rw [State.tryDec_met (k := k.passed) hc hl h] at run
        exact run
      · rw [State.tryDec, if_neg (by exact Nat.not_le.2 h), State.modCore_setCore (k := k.passed) hc] at run
        exact run
    case srd =>
      intro hw hi hk hq
      exact exec_srd hc himm hk hw hi hq
    case full =>
      intro hw hfn hi hf h16
      have run := answers_free (i := .swait c w) rfl (by rw [SF.semOk_of himm, hw]; simp [SF.zero, SF.fnMax, hfn]) hi rfl hf
      rw [State.push_full (show 16 ≤ ((s.core c.val).queue 3).length from h16.ge)] at run
      exact run
    case grant =>
      intro v u live hu hl alone on
      have granted : on = k.granted u := rfl
      have run : exec (.semaphoreWaitGrant n v) s = .next (if s.live then s.semClock n.val v.toNat none else s) := rfl
      rw [live, if_pos rfl] at run
      refine ⟨fun h hd => ?_, fun h hd => ?_, fun h => ?_⟩
      · exact run.trans (congrArg _ (State.semClock_plain hu c.isLt alone h hd))
      · exact run.trans (congrArg _ (State.semClock_dec hu c.isLt alone h hd hl))
      · exact run.trans (congrArg _ (State.semClock_unmet hu c.isLt alone h))
  case blk =>
    intro hw hfn
    have plain : bit w.fn.toNat 3 = false := by
      rw [← Bool.not_eq_true, bit_three_iff]
      omega
    have run := exec_blk hi (by rw [hw]; exact blkFields_plain (by omega)) hph (by rw [plain]; exact free_nothing s c.val)
    simp only [Core.reachBlk, plain] at run
    exact run
  case blkWait =>
    intro hw h8 hfn himm hf ha
    have run := exec_blk hi (by rw [hw]; exact blkFields_wait hcls h8 hfn himm) hph (by rw [bit_three_iff.2 h8]; exact hf)
    simp only [Core.reachBlk, bit_three_iff.2 h8, bit_four_eq hfn, SF.sem_of himm, if_true] at run
    rw [State.modCore, Core.standAt_nonzero _ ha] at run
    exact run
  case blkStop =>
    intro hw hfn hi hp
    exact exec_blk_stopping hi (by rw [hw]; exact blkFields_plain hfn) hp
  case layerOpen =>
    intro hw hi hl hb
    have run := answers_issued (i := .layer c w) rfl (by rw [hw]; rfl) hi rfl
    have fn : w.fn = 0#8 := congrArg SF.fn hw
    dsimp only at run
    rw [if_pos fn, hl] at run
    simp only [hb, if_true] at run
    exact ⟨_, rfl, rfl, rfl, run⟩
  case layerClose =>
    intro hw hi hl
    obtain ⟨l, hl, hid⟩ := hl
    have run := answers_issued (i := .layer c w) rfl (by rw [hw]; rfl) hi rfl
    have fn : w.fn = 1#8 := congrArg SF.fn hw
    dsimp only at run
    rw [if_neg (by rw [fn]; decide), hl] at run
    simp only [hid, beq_self_eq_true, if_true] at run
    refine ⟨_, run, ?_⟩
    rw [State.core_setCore]
    exact ⟨rfl, rfl, rfl, rfl, fun x hx => State.core_setCore_other _ _ hx.symm⟩
  case endTask =>
    intro hw hi hs hl h0 h1
    have run := answers_issued (i := .endTask c w) rfl (by rw [hw]; rfl) hi rfl
    rw [if_pos (Core.mayEnd_of hs hl h0 h1)] at run
    exact run

end Sys2Proof.Machine

/-!
LEMMAS. A value that a sticky bit stands for rounds as its bits do (02 R39): quotients, roots and their multiples.
-/

namespace Sys2Proof.Machine

open Sys2Proof

/-- Strictly between the even neighbours of an odd count of spacings. -/
structure Between (u : ℝ) (q : Nat) (k : Int) : Prop where
  odd : q % 2 = 1
  near : |u - q * 2 ^ k| < 2 ^ k

/-- The bits `q * 2^k` carry a value: they are the value, or it lies strictly between the even neighbours of `q`. -/
structure Carries (u : ℝ) (q : Nat) (k : Int) : Prop where
  wide : 2 ^ 26 ≤ q
  close : u = q * 2 ^ k ∨ Between u q k

/-- A power of two times a carried value. -/
theorem Carries.scale {u : ℝ} {q : Nat} {k : Int} (h : Carries u q k) (j : Int) : Carries (u * 2 ^ j) q (k + j) where
  wide := h.wide
  close := by
    have hj : (0 : ℝ) < 2 ^ j := by positivity
    rw [zpow_add₀ two_ne_zero, ← mul_assoc]
    refine h.close.imp (fun h => by rw [h]) fun b => ⟨b.odd, ?_⟩
    rw [zpow_add₀ two_ne_zero, ← mul_assoc, ← sub_mul, abs_mul, abs_of_pos hj]
    exact mul_lt_mul_of_pos_right b.near hj

/-- The whole part of a value and a bit that tells whether that is all of it. -/
theorem Carries.of_floor {w : ℝ} {r : Nat} {whole : Bool} (lo : (r : ℝ) ≤ w) (hi : w < r + 1) (hw : whole = true ↔ (r : ℝ) = w)
    (wide : 2 ^ 25 ≤ r) (j : Int) : Carries (w * 2 ^ j) (2 * r + if whole then 0 else 1) (j - 1) where
  wide := by omega
  close := by
    have hj : (0 : ℝ) < 2 ^ (j - 1) := by positivity
    rw [show j = j - 1 + 1 by ring, zpow_add_one₀ two_ne_zero, add_sub_cancel_right]
    cases whole
    · refine .inr ⟨by simp, ?_⟩
      have lt : (r : ℝ) < w := lo.lt_of_ne fun h => absurd (hw.2 h) (by decide)
      rw [show w * (2 ^ (j - 1) * 2) - ((2 * r + if false = true then 0 else 1 : Nat) : ℝ) * 2 ^ (j - 1)
        = (2 * w - (2 * r + 1)) * 2 ^ (j - 1) by push_cast; ring, abs_mul, abs_of_pos hj]
      exact mul_lt_of_lt_one_left hj (abs_lt.2 ⟨by linarith, by linarith⟩)
    · left
      rw [← hw.1 rfl]; push_cast; simp; ring

section Sticky

variable {u : ℝ} {q : Nat} {k : Int}

/-- An even count of spacings is not an odd one. -/
theorem even_point {k h : Int} (hk : k < h) (i : Int) : ∃ j : Int, (i : ℝ) * 2 ^ h = (2 * j : Int) * 2 ^ k := by
  obtain ⟨d, hd⟩ := Int.eq_ofNat_of_zero_le (show 0 ≤ h - k - 1 by omega)
  refine ⟨i * 2 ^ d, ?_⟩
  rw [show h = k + 1 + (d : Int) by omega, zpow_add₀ two_ne_zero, zpow_add_one₀ two_ne_zero, zpow_natCast]
  push_cast; ring

/-- A multiple of twice the spacing that is not below the bits is above the value. -/
theorem Between.lt_point (b : Between u q k) {h : Int} (hk : k < h) (i : Int) (le : (q : ℝ) * 2 ^ k ≤ i * 2 ^ h) : u < i * 2 ^ h := by
  have hp : (0 : ℝ) < 2 ^ k := by positivity
  obtain ⟨j, hj⟩ := even_point hk i
  rw [hj] at le ⊢
  have hq : ((q : Int) : ℝ) ≤ (2 * j : Int) := by exact_mod_cast le_of_mul_le_mul_right le hp
  have hq : (q : Int) + 1 ≤ 2 * j := by have := Int.cast_le.1 hq; have := b.odd; omega
  have hq : ((q + 1 : Int) : ℝ) * 2 ^ k ≤ (2 * j : Int) * 2 ^ k := by gcongr
  have := (abs_lt.1 b.near).2
  push_cast at hq ⊢
  linarith

/-- A multiple of twice the spacing that is not above the bits is below the value. -/
theorem Between.point_lt (b : Between u q k) {h : Int} (hk : k < h) (i : Int) (le : i * 2 ^ h ≤ (q : ℝ) * 2 ^ k) : i * 2 ^ h < u := by
  have hp : (0 : ℝ) < 2 ^ k := by positivity
  obtain ⟨j, hj⟩ := even_point hk i
  rw [hj] at le ⊢
  have hq : ((2 * j : Int) : ℝ) ≤ ((q : Int) : ℝ) := by exact_mod_cast le_of_mul_le_mul_right le hp
  have hq : 2 * j + 1 ≤ (q : Int) := by have := Int.cast_le.1 hq; have := b.odd; omega
  have hq : ((2 * j + 1 : Int) : ℝ) * 2 ^ k ≤ (q : Int) * 2 ^ k := by gcongr
  have := (abs_lt.1 b.near).1
  push_cast at hq ⊢
  linarith

/-- A multiple of twice the spacing stands on the same side of the value and of the bits. -/
theorem Between.lt_point_iff (b : Between u q k) {h : Int} (hk : k < h) (i : Int) : u < i * 2 ^ h ↔ (q : ℝ) * 2 ^ k < i * 2 ^ h := by
  constructor
  · intro lt
    by_contra le
    exact absurd (b.point_lt hk i (not_lt.1 le)) lt.not_gt
  · exact fun lt => b.lt_point hk i lt.le

variable (wide : 2 ^ 26 ≤ q)

include wide

/-- The spacing of FP32 near the bits is at least eight times their own. -/
theorem gridExp_wide (k : Int) : k + 3 ≤ gridExp 1 ((q : Rat) * 2 ^ k) := by
  have hx := natCast_mul_zpow_pos (m := q) (by omega) k
  have : (26 : Int) + k ≤ Int.log 2 ((q : Rat) * 2 ^ k) := by
    rw [← Int.zpow_le_iff_le_log one_lt_two hx, Nat.cast_ofNat, zpow_add₀ two_ne_zero]
    gcongr
    exact_mod_cast wide
  have := le_max_left (Int.log 2 ((q : Rat) * 2 ^ k)) (1 - (fmtBias 1 : Int))
  simp only [gridExp, fmtMant] at *
  omega

/-- The rounded code is less than half a spacing from the value. -/
theorem Between.roundCode_near (b : Between u q k) :
    |((magVal 1 (roundCode 1 false q k) : Rat) : ℝ) - u| < 2 ^ gridExp 1 ((q : Rat) * 2 ^ k) / 2 := by
  have hg := gridExp_wide wide k
  have near := mul_le_mul_of_nonneg_right (roundShift_near false q (k - gridExp 1 (q * 2 ^ k)))
    (zpow_nonneg (zero_le_two (α := Rat)) (gridExp 1 (q * 2 ^ k)))
  rw [← abs_grid_sub, ← magVal_roundCode 1 false (by omega)] at near
  have hR := magVal_roundCode 1 false (m := q) (by omega) k
  generalize gridExp 1 ((q : Rat) * 2 ^ k) = g at *
  generalize roundShift false q (k - g) = N at *
  have half : (2 : ℝ) ^ g = 2 * 2 ^ (g - 1) := by rw [← zpow_one_add₀ two_ne_zero]; congr 1; ring
  have near : |(N : ℝ) * 2 ^ g - q * 2 ^ k| ≤ 1 / 2 * 2 ^ g := by
    have near := (Rat.cast_le (K := ℝ)).2 (hR ▸ near); push_cast at near; exact near
  rw [half] at near
  obtain ⟨n1, n2⟩ := abs_le.1 near
  have lo := b.point_lt (h := g - 1) (by omega) (2 * N - 1) (by push_cast; linarith)
  have hi := b.lt_point (h := g - 1) (by omega) (2 * N + 1) (by push_cast; linarith)
  push_cast at lo hi
  rw [hR]; push_cast
  rw [half, abs_lt]
  constructor <;> linarith

omit wide in
/-- Two different multiples of a spacing are not both less than half of it from a value. -/
theorem other_farther {N j : Nat} {g : Int} (hj : j ≠ N) (h : |(N : ℝ) * 2 ^ g - u| < 2 ^ g / 2) :
    |(N : ℝ) * 2 ^ g - u| < |(j : ℝ) * 2 ^ g - u| := by
  have hp : (0 : ℝ) < 2 ^ g := by positivity
  have apart : (2 : ℝ) ^ g ≤ |(j : ℝ) * 2 ^ g - N * 2 ^ g| := by
    rw [← sub_mul, abs_mul, abs_of_pos hp]
    refine le_mul_of_one_le_left hp.le ?_
    have : (1 : Int) ≤ |(j : Int) - N| := Int.one_le_abs (sub_ne_zero.2 (by exact_mod_cast hj))
    exact_mod_cast this
  have := abs_sub_le ((j : ℝ) * 2 ^ g) u (N * 2 ^ g)
  rw [abs_sub_comm u] at this
  linarith

/-- The rounded code is nearer to the value than any other. -/
theorem Between.roundCode_nearer (b : Between u q k) {c : Nat} (hc : c ≠ roundCode 1 false q k) :
    |((magVal 1 (roundCode 1 false q k) : Rat) : ℝ) - u| < |((magVal 1 c : Rat) : ℝ) - u| := by
  have hq : q ≠ 0 := by omega
  have hg := gridExp_wide wide k
  have near := b.roundCode_near wide
  have hR := magVal_roundCode 1 false hq k
  have hM := (magVal_strictMono 1).injective.ne hc
  rw [hR] at near hM ⊢
  rcases magVal_grid 1 c (natCast_mul_zpow_pos hq k) with ⟨j, hj⟩ | ⟨lt, le⟩
  · rw [hj] at hM ⊢
    push_cast at near ⊢
    exact other_farther (fun h => hM (by rw [h])) near
  · have lt := (Rat.cast_lt (K := ℝ)).2 lt
    have le := (Rat.cast_le (K := ℝ)).2 le
    rw [show fmtMant 1 = 23 from rfl] at lt le
    push_cast at lt le near ⊢
    generalize roundShift false q (k - gridExp 1 ((q : Rat) * 2 ^ k)) = N at *
    generalize gridExp 1 ((q : Rat) * 2 ^ k) = g at *
    have hP := b.point_lt (h := g) (by omega) (2 ^ 23) (by push_cast; norm_num at le ⊢; exact le)
    norm_num at lt hP
    rw [abs_of_neg (a := ((magVal 1 c : Rat) : ℝ) - u) (by linarith)]
    rcases eq_or_ne (2 ^ 23) N with rfl | h
    · push_cast
      rw [abs_of_neg (by linarith)]; linarith
    · have := other_farther h near
      norm_num at this
      rw [abs_of_neg (a := 8388608 * (2 : ℝ) ^ g - u) (by linarith)] at this
      linarith

/-- The value and its bits leave the range of FP32 together. -/
theorem Between.range_iff (b : Between u q k) : u < 2 ^ 128 - 2 ^ 103 ↔ roundCode 1 false q k < 0x7F800000 := by
  rw [roundCode_f32_lt (by omega), ← (Rat.cast_lt (K := ℝ))]
  have hT : (2 ^ 128 - 2 ^ 103 : ℝ) = ((2 ^ 25 - 1 : Int) : ℝ) * 2 ^ (103 : Int) := by norm_num
  push_cast
  rcases lt_or_ge k 103 with h | h
  · rw [hT]; exact b.lt_point_iff h _
  · have big : (2 ^ 26 : ℝ) * 2 ^ (103 : Int) ≤ q * 2 ^ k := by
      gcongr
      · exact_mod_cast wide
      · exact one_le_two
    have one : (2 : ℝ) ^ k * 2 ≤ q * 2 ^ k := by
      rw [mul_comm]; gcongr; exact_mod_cast (by omega : 2 ≤ q)
    have := (abs_lt.1 b.near).1
    norm_num at big ⊢
    constructor <;> intro _ <;> linarith

theorem Between.pos (b : Between u q k) : 0 < u := by
  have := b.point_lt (h := k + 1) (by omega) 0 (by simp; positivity)
  simpa using this

/-- A magnitude code of either sign has the value of the rounded code, or is farther from the value. -/
theorem Between.signed_farther (b : Between u q k) (s t : Bool) (c : Nat) :
    signFactor s * magVal 1 c = signFactor t * magVal 1 (roundCode 1 false q k) ∨
      |((signFactor t * magVal 1 (roundCode 1 false q k) : Rat) : ℝ) - signFactor t * u| <
        |((signFactor s * magVal 1 c : Rat) : ℝ) - signFactor t * u| := by
  have hu := b.pos wide
  have unit : ∀ t, |((signFactor t : Rat) : ℝ)| = 1 := by intro t; cases t <;> simp [signFactor]
  push_cast
  rw [← mul_sub, abs_mul, unit, one_mul]
  rcases eq_or_ne s t with rfl | hst
  · rw [← mul_sub, abs_mul, unit, one_mul]
    rcases eq_or_ne c (roundCode 1 false q k) with rfl | hc
    · exact .inl rfl
    · exact .inr (b.roundCode_nearer wide hc)
  · have hM : (0 : ℝ) ≤ (magVal 1 c : Rat) := by exact_mod_cast magVal_nonneg 1 c
    have far : |((signFactor s : Rat) : ℝ) * (magVal 1 c : Rat) - (signFactor t : Rat) * u| = (magVal 1 c : Rat) + u := by
      rw [← abs_of_nonneg (add_nonneg hM hu.le)]
      cases s <;> cases t
      · exact absurd rfl hst
      · simp [signFactor]
      · rw [← abs_neg]; congr 1; simp [signFactor]; ring
      · exact absurd rfl hst
    rw [far]
    rcases eq_or_ne 0 (roundCode 1 false q k) with h0 | h0
    · rw [← h0, magVal_zero, Rat.cast_zero, zero_sub, abs_neg, abs_of_pos hu]
      rcases hM.eq_or_lt with h | h
      · left; rw [← (by exact_mod_cast h : (0 : Rat) = magVal 1 c)]; simp
      · right; linarith
    · have := b.roundCode_nearer wide h0
      rw [magVal_zero, Rat.cast_zero, zero_sub, abs_neg, abs_of_pos hu] at this
      right; linarith

/-- A value strictly between bits is rounded once as its bits are (02 R39). -/
theorem Between.nearestEven (b : Between u q k) (neg : Bool) (z : Prop) :
    NearestEven (((signFactor neg : Rat) : ℝ) * u) z (roundF32 neg q k) := by
  have hu := b.pos wide
  have habs : |((signFactor neg : Rat) : ℝ) * u| = u := by cases neg <;> simp [signFactor, abs_of_pos hu]
  have hr := roundF32_of_ne (m := q) (by omega) neg k
  by_cases hin : roundCode 1 false q k < 0x7F800000
  · have hlt := (b.range_iff wide).2 hin
    rw [if_pos hin] at hr
    obtain ⟨hn, hs, hg⟩ := f32_signed (neg := neg) (hin.trans (by decide))
    have fin := (f32_finite_iff _).2 (hg ▸ hin)
    have dist : ∀ y, (f32 y).Finite → (f32 y).val = (f32 (f32Code neg (roundCode 1 false q k))).val ∨
        |((f32 (f32Code neg (roundCode 1 false q k))).val : ℝ) - signFactor neg * u| < |((f32 y).val : ℝ) - signFactor neg * u| := by
      intro y hy
      rw [f32_val hy, f32_val fin, hs, hg]
      exact b.signed_farther wide _ _ _
    rw [hr]
    exact {
      finite := fun _ => ⟨fin, rfl⟩
      sign := fun _ => by
        rw [hs]; cases neg <;> simp [signFactor, hu, hu.le, hu.ne']
      nearest := fun _ y hy => (dist y hy).elim (fun h => by rw [h]) le_of_lt
      even := fun _ y hy he => (dist y hy).imp_right fun h => absurd he h.ne
      beyond := fun h => absurd (habs ▸ h) (not_le.2 hlt) }
  · have hge := mt (b.range_iff wide).1 hin
    rw [if_neg hin] at hr
    rw [hr]
    exact {
      finite := fun h => absurd (habs ▸ h) hge
      sign := fun h => absurd (habs ▸ h) hge
      nearest := fun h => absurd (habs ▸ h) hge
      even := fun h => absurd (habs ▸ h) hge
      beyond := fun _ => by cases neg <;> simp [signFactor, hu.le] }
omit wide in
/-- A carried value is rounded once as its bits are (02 R39). -/
theorem Carries.nearestEven (h : Carries u q k) (neg : Bool) (z : Prop) :
    NearestEven (((signFactor neg : Rat) : ℝ) * u) z (roundF32 neg q k) := by
  rcases h.close with rfl | b
  · have := nearestEven_roundF32 (m := q) (by have := h.wide; omega) neg k z
    push_cast at this
    exact this
  · exact b.nearestEven h.wide neg z

end Sticky

/-! ## Quotients and roots -/

/-- The bits of a quotient carry it. -/
theorem carries_divBits {a b : Nat} (ha : a ≠ 0) (hb : b ≠ 0) : Carries ((a : ℝ) / b) (divBits a b).1 (divBits a b).2 := by
  have hbr : (0 : ℝ) < b := by exact_mod_cast Nat.pos_of_ne_zero hb
  generalize hk : 80 + Nat.log2 b = k
  have hw : (a : ℝ) / b = (a * 2 ^ k : Nat) / b * 2 ^ (-(k : Int)) := by
    rw [zpow_neg, zpow_natCast]; push_cast; field_simp
  have hd := Nat.div_add_mod (a * 2 ^ k) b
  have hm := Nat.mod_lt (a * 2 ^ k) (Nat.pos_of_ne_zero hb)
  have cast : ((a * 2 ^ k : Nat) : ℝ) = b * (a * 2 ^ k / b : Nat) + (a * 2 ^ k % b : Nat) := by exact_mod_cast hd.symm
  have wide : 2 ^ 25 ≤ a * 2 ^ k / b := by
    rw [Nat.le_div_iff_mul_le (Nat.pos_of_ne_zero hb)]
    calc 2 ^ 25 * b ≤ 2 ^ 25 * 2 ^ (Nat.log2 b + 1) := Nat.mul_le_mul_left _ Nat.lt_log2_self.le
      _ = 1 * 2 ^ (26 + Nat.log2 b) := by ring
      _ ≤ a * 2 ^ k := Nat.mul_le_mul (Nat.pos_of_ne_zero ha) (Nat.pow_le_pow_right two_pos (by omega))
  have := Carries.of_floor (w := ((a * 2 ^ k : Nat) : ℝ) / b) (r := a * 2 ^ k / b) (whole := a * 2 ^ k % b == 0)
    (by rw [le_div_iff₀ hbr, cast]; have := Nat.cast_nonneg (α := ℝ) (a * 2 ^ k % b); linarith)
    (by rw [div_lt_iff₀ hbr, cast]; have := (Nat.cast_lt (α := ℝ)).2 hm; linarith)
    (by rw [beq_iff_eq, eq_div_iff hbr.ne', cast]; constructor
        · intro h; rw [h]; push_cast; ring
        · intro h; exact_mod_cast (by linarith : ((a * 2 ^ k % b : Nat) : ℝ) = 0)) wide (-(k : Int))
  rw [← hw] at this
  simpa only [divBits, hk] using this

/-- The search for the root keeps the root between its bound and the next bit. -/
theorem isqrtFrom_spec (n : Nat) : ∀ k r, r * r ≤ n → n < (r + 2 ^ (k + 1)) * (r + 2 ^ (k + 1)) →
    isqrtFrom n k r * isqrtFrom n k r ≤ n ∧ n < (isqrtFrom n k r + 1) * (isqrtFrom n k r + 1)
  | 0, r, lo, hi => by
    rw [isqrtFrom]
    split_ifs with h
    · exact ⟨h, by simpa [add_assoc] using hi⟩
    · exact ⟨lo, not_le.1 h⟩
  | k + 1, r, lo, hi => by
    rw [isqrtFrom]
    split_ifs with h
    · exact isqrtFrom_spec n k _ h (by rwa [add_assoc, ← two_mul, ← pow_succ'])
    · exact isqrtFrom_spec n k r lo (not_le.1 h)

/-- The whole square root. -/
theorem isqrt_eq (n : Nat) : isqrt n = Nat.sqrt n := by
  obtain ⟨lo, hi⟩ := isqrtFrom_spec n (Nat.log2 n / 2 + 1) 0 (Nat.zero_le n) (by
    rw [Nat.zero_add, ← pow_add]
    exact Nat.lt_log2_self.trans_le (Nat.pow_le_pow_right two_pos (by omega)))
  exact Nat.eq_sqrt.2 ⟨lo, hi⟩

/-- The bits of a root carry it. -/
theorem carries_sqrtBits {m : Nat} (hm : m ≠ 0) (e : Int) :
    Carries (Real.sqrt (m * 2 ^ e)) (sqrtBits m e).1 (sqrtBits m e).2 := by
  obtain ⟨m', j, hm', hv, hs⟩ : ∃ (m' : Nat) (j : Int), m' ≠ 0 ∧ (m : ℝ) * 2 ^ e = m' * 2 ^ (2 * j) ∧
      (if e % 2 == 0 then (m, e) else (2 * m, e - 1)) = (m', 2 * j) := by
    rcases Int.emod_two_eq_zero_or_one e with h | h
    · exact ⟨m, e / 2, hm, by rw [show 2 * (e / 2) = e by omega], by rw [h]; simp; omega⟩
    · refine ⟨2 * m, e / 2, by omega, ?_, by rw [h]; simp; omega⟩
      rw [show e = 2 * (e / 2) + 1 by omega, zpow_add_one₀ two_ne_zero, show (2 * (e / 2) + 1) / 2 = e / 2 by omega]
      push_cast; ring
  generalize hn : m' * 2 ^ 160 = n
  have hroot : Real.sqrt (m * 2 ^ e) = Real.sqrt n * 2 ^ (j - 80) := by
    rw [hv, ← hn, show (m' : ℝ) * 2 ^ (2 * j) = (m' * 2 ^ 160 : Nat) * (2 ^ (j - 80)) ^ 2 by
      rw [← zpow_natCast, ← zpow_mul, show (j - 80) * (2 : Nat) = 2 * j - 160 by push_cast; ring, zpow_sub₀ two_ne_zero]
      push_cast
      field_simp
      norm_num, Real.sqrt_mul (Nat.cast_nonneg _), Real.sqrt_sq (by positivity)]
  have wide : 2 ^ 25 ≤ Nat.sqrt n := by
    rw [Nat.le_sqrt, ← hn]
    calc 2 ^ 25 * 2 ^ 25 ≤ 1 * 2 ^ 160 := by norm_num
      _ ≤ m' * 2 ^ 160 := Nat.mul_le_mul_right _ (Nat.pos_of_ne_zero hm')
  have := Carries.of_floor (w := Real.sqrt n) (r := Nat.sqrt n) (whole := Nat.sqrt n * Nat.sqrt n == n) Real.nat_sqrt_le_real_sqrt
    Real.real_sqrt_lt_nat_sqrt_succ
    (by rw [beq_iff_eq, eq_comm (a := ((Nat.sqrt n : Nat) : ℝ)),
      Real.sqrt_eq_iff_mul_self_eq (Nat.cast_nonneg _) (Nat.cast_nonneg _)]; exact_mod_cast eq_comm) wide (j - 80)
  rw [← hroot] at this
  simpa only [sqrtBits, hs, isqrt_eq, hn, Int.mul_ediv_cancel_left j two_ne_zero] using this

end Sys2Proof.Machine

/-!
PROOFS. The values of the activation functions and of their derivative factors (05 R137, R138, 06 R157).
-/

namespace Sys2Proof.Machine

open Sys2Proof

/-! ## Results that are rounded once, an exact 0 with either sign -/

/-- A result of a value: rounded once, and for the value 0 a zero without a flag. -/
def Near (u : ℝ) (y : F32 × Ev) : Prop := (u ≠ 0 → NearestEven u False y) ∧ (u = 0 → f32IsZero y.1 = true ∧ y.2 = {})

theorem near_zero (neg : Bool) : Near 0 (f32Zero neg, {}) := ⟨fun h => absurd rfl h, fun _ => ⟨by cases neg <;> rfl, rfl⟩⟩

theorem near_roundF32 (neg : Bool) (m : Nat) (e : Int) : Near ((Num.fin neg m e).val : ℝ) (roundF32 neg m e) := by
  rw [Num.val_fin]
  rcases eq_or_ne m 0 with rfl | hm
  · simpa [roundF32] using near_zero neg
  · refine ⟨fun _ => nearestEven_roundF32 hm neg e False, fun h => absurd ?_ hm⟩
    rwa [Rat.cast_eq_zero, ← Num.val_fin, Num.val_fin_eq_zero] at h

/-- A gradient times an exact factor. -/
theorem near_mulFac_num {g v : Num} (free : F32) (hg : g.Finite) (hv : v.Finite) : Near ((g.val : ℝ) * v.val) (mulFac free g (.num v)) := by
  obtain ⟨a, m, e, rfl⟩ := hg
  obtain ⟨b, n, h, rfl⟩ := hv
  rw [← Rat.cast_mul, ← mulNum_val]
  exact near_roundF32 _ _ _

/-- A gradient times a quotient of exact values. -/
theorem near_mulFac_quo {g : Num} (free : F32) (hg : g.Finite) (b : Bool) {p q : Nat} (hp : p ≠ 0) (hq : q ≠ 0) (k : Int) :
    Near ((g.val : ℝ) * (signFactor b * (p / q * 2 ^ k))) (mulFac free g (.quo b p q k)) := by
  obtain ⟨a, m, e, rfl⟩ := hg
  rcases eq_or_ne m 0 with rfl | hm
  · simpa [mulFac, Num.val] using near_zero (a != b)
  · have hval : ((Num.fin a m e).val : ℝ) * (signFactor b * (p / q * 2 ^ k)) =
        ((signFactor (a != b) : Rat) : ℝ) * ((m * p : Nat) / q * 2 ^ (e + k)) := by
      rw [Num.val_fin, signFactor_bne, zpow_add₀ two_ne_zero]; push_cast; ring
    have hne : ((Num.fin a m e).val : ℝ) * (signFactor b * (p / q * 2 ^ k)) ≠ 0 := by
      rw [hval]
      refine mul_ne_zero (by cases a <;> cases b <;> simp [signFactor]) (mul_ne_zero (div_ne_zero ?_ ?_) (by positivity)) <;> norm_cast
      exact Nat.mul_ne_zero hm hp
    refine ⟨fun _ => ?_, fun h => absurd h hne⟩
    have := ((carries_divBits (Nat.mul_ne_zero hm hp) hq).scale (e + k)).nearestEven (a != b) False
    rw [hval]
    simpa [mulFac, hm, add_comm] using this

/-- The exact value of a signed count. -/
theorem numInt_val (zn : Bool) (i e : Int) : (numInt zn i e).Finite ∧ (numInt zn i e).val = i * 2 ^ e := by
  rw [numInt]
  rcases eq_or_ne i 0 with rfl | hi
  · exact ⟨⟨_, _, _, rfl⟩, by simp [Num.val]⟩
  · rw [if_neg (by simpa using hi)]
    exact ⟨⟨_, _, _, rfl⟩, Num.val_fin_int i e⟩

theorem numOne_val : numOne.val = 1 := by simp [numOne, Num.val]

/-! ## NaN, infinities and zeros -/

/-- A lane with a factor is the gradient times it. -/
theorem actLane_fac {mode fn : Nat} {free x g : F32} (hx : (f32 x).Finite) (hm : mode ≠ 0) :
    actLane mode fn free x g = mulFac free (f32 g) (if mode = 1 then actDer1 fn x else actDer2 fn x) := by
  obtain ⟨a, m, e, hx⟩ := hx
  simp [actLane, hm, hx]

/-- A NaN input or gradient gives the canonical NaN. -/
theorem actLane_nan (fn : Nat) (x g free : F32) :
    (f32 x = .nan → ∀ m, m ≤ 2 → actLane m fn free x g = (0x7FC00000#32, {})) ∧
      (f32 g = .nan → actLane 1 fn free x g = (0x7FC00000#32, {}) ∧ actLane 2 fn free x g = (0x7FC00000#32, {})) := by
  refine ⟨fun hx m _ => ?_, fun hg => ?_⟩
  · rcases eq_or_ne m 0 with rfl | hm
    · simp only [actLane, beq_self_eq_true, if_true, actF, hx]; rfl
    · simp only [actLane, beq_iff_eq, hm, if_false, hx, if_true]; rfl
  · have nan : ∀ fac, mulFac free .nan fac = (0x7FC00000#32, {}) := fun fac => by simp only [mulFac]; rfl
    have nanX : (if f32 x = .nan then (f32NaN, ({} : Ev)) else (0x7FC00000#32, {})) = (0x7FC00000#32, {}) := ite_self _
    simp only [actLane, hg, nan]
    exact ⟨nanX, nanX⟩

/-- The entries of the table at the infinities and the zeros (05 R138). -/
theorem actF_table :
    let nan := (0x7FC00000#32, ({ inv := true } : Ev))
    let q := fun (x : F32) => (x, ({} : Ev))
    (upFrom 1 11).map (actF · 0xFF800000#32) = [q 0#32, q 0#32, q 0xBF800000#32, q 0x80000000#32, q 0x80000000#32, q 0#32, nan,
      q 0x80000000#32, nan, nan, q 0#32] ∧
    (upFrom 1 11).map (actF · 0x7F800000#32) = [q 0x7F800000#32, q 0x3F800000#32, q 0x3F800000#32, q 0x7F800000#32, q 0x7F800000#32,
      q 0x7F800000#32, q 0x7F800000#32, q 0#32, q 0#32, q 0x7F800000#32, q 0x7F800000#32] ∧
    (upFrom 1 11).map (actF · 0#32) = [q 0#32, q 0x3F000000#32, q 0#32, q 0#32, q 0#32, q 0x3F800000#32, q 0xFF800000#32,
      q 0x7F800000#32, q 0x7F800000#32, q 0#32, q 0x3F317218#32] ∧
    (upFrom 1 11).map (actF · 0x80000000#32) = [q 0#32, q 0x3F000000#32, q 0x80000000#32, q 0x80000000#32, q 0x80000000#32,
      q 0x3F800000#32, q 0xFF800000#32, q 0xFF800000#32, q 0xFF800000#32, q 0x80000000#32, q 0x3F317218#32] :=
  ⟨rfl, rfl, rfl, rfl⟩

/-! ## Algebraic values at finite inputs -/

theorem Num.val_fin_neg (a : Bool) (m : Nat) (e : Int) : (Num.fin a m e).val < 0 ↔ a = true ∧ m ≠ 0 := by
  rw [Num.val_fin]
  rcases eq_or_ne m 0 with rfl | hm
  · simp
  · rw [signFactor_mul_neg (natCast_mul_zpow_pos hm e)]; simp [hm]

theorem Num.val_fin_pos (a : Bool) (m : Nat) (e : Int) : 0 < (Num.fin a m e).val ↔ a = false ∧ m ≠ 0 := by
  rw [Num.val_fin]
  rcases eq_or_ne m 0 with rfl | hm
  · simp
  · rw [signFactor_mul_pos (natCast_mul_zpow_pos hm e)]; simp [hm]

section Finite

variable {x g : F32} {s : Bool} {m : Nat} {e : Int} (hx : f32 x = .fin s m e)

include hx

/-- A value rounds to its own code. -/
theorem roundF32_self (hm : m ≠ 0) : roundF32 s m e = (x, {}) := by
  have fin : (f32 x).Finite := ⟨_, _, _, hx⟩
  have hs := f32_fin_sign hx
  have hv : (m : Rat) * 2 ^ e = magVal 1 (f32Mag x) := by
    have := f32_val fin
    rw [hx, Num.val_fin, hs] at this
    exact mul_left_cancel₀ (by cases s <;> simp [signFactor]) this
  obtain ⟨-, hcs, hcm⟩ := f32_signed (neg := s) (f32Mag_lt x)
  rw [roundF32_of_ne hm, roundCode_exact 1 false hm hv, if_pos ((f32_finite_iff x).1 fin), f32_ext (hcs.trans hs.symm) hcm]

theorem actF_fin (hm : m ≠ 0) (fn : Nat) : actF fn x = actFin fn s m e := by simp [actF, hx, hm]

/-- A negative input of a function that has no value there, and of RELU. -/
theorem actF_negative (hs : s = true) (hm : m ≠ 0) :
    actF 7 x = (0x7FC00000#32, { inv := true }) ∧ actF 9 x = (0x7FC00000#32, { inv := true }) ∧
      actF 10 x = (0x7FC00000#32, { inv := true }) ∧ actF 1 x = (0#32, {}) := by
  subst hs
  simp only [actF_fin hx hm]
  exact ⟨rfl, rfl, rfl, rfl⟩

/-- RELU and SQRT of a positive input. -/
theorem actF_positive (hs : s = false) (hm : m ≠ 0) :
    actF 1 x = (x, {}) ∧ NearestEven (Real.sqrt (f32 x).val) False (actF 10 x) := by
  subst hs
  rw [actF_fin hx hm, actF_fin hx hm, hx]
  refine ⟨roundF32_self hx hm, ?_⟩
  have := (carries_sqrtBits hm e).nearestEven false False
  simpa [Num.val, signFactor, actFin] using this

/-- RCP of an input other than 0. -/
theorem actF_rcp (hm : m ≠ 0) : NearestEven ((f32 x).val : ℝ)⁻¹ False (actF 8 x) := by
  rw [actF_fin hx hm, hx, Num.val_fin]
  have := ((carries_divBits one_ne_zero hm).scale (-e)).nearestEven s False
  have hv : ((signFactor s * (m * 2 ^ e) : Rat) : ℝ)⁻¹ = signFactor s * ((1 : Nat) / m * 2 ^ (-e)) := by
    rw [zpow_neg]; push_cast
    cases s <;> simp [signFactor, mul_comm]
  rw [hv]
  simpa only [actFin, sub_eq_add_neg] using this

variable (free : F32) (hg : (f32 g).Finite)

include hg

/-- A lane whose factor is exact. -/
theorem near_lane_num {mode fn : Nat} (hm : mode ≠ 0) {v : Num} {d : ℝ} (hfac : (if mode = 1 then actDer1 fn x else actDer2 fn x) = .num v)
    (hv : v.Finite) (hd : (v.val : ℝ) = d) : Near ((f32 g).val * d) (actLane mode fn free x g) := by
  rw [actLane_fac ⟨_, _, _, hx⟩ hm, hfac, ← hd]
  exact near_mulFac_num free hg hv

/-- A lane whose factor is a quotient. -/
theorem near_lane_quo {mode fn : Nat} (hm : mode ≠ 0) {b : Bool} {q : Nat} {k : Int} {d : ℝ} (hq : q ≠ 0)
    (hfac : (if mode = 1 then actDer1 fn x else actDer2 fn x) = .quo b 1 q k)
    (hd : (signFactor b : ℝ) * (1 / q * 2 ^ k) = d) : Near ((f32 g).val * d) (actLane mode fn free x g) := by
  rw [actLane_fac ⟨_, _, _, hx⟩ hm, hfac, ← hd]
  simpa using near_mulFac_quo free hg b one_ne_zero hq k

end Finite

/-! ## The algebraic factors (06 R157) -/

theorem signFactor_sq (s : Bool) : signFactor s * signFactor s = 1 := by cases s <;> simp [signFactor]

theorem signFactor_not (s : Bool) : signFactor (!s) = -signFactor s := by cases s <;> simp [signFactor]

/-- The value of a sign and a whole magnitude. -/
theorem sgn_val (s : Bool) (m : Nat) (e : Int) : (sgn s m : Rat) * 2 ^ e = (Num.fin s m e).val := by
  rw [Num.val_fin]; cases s <;> simp [sgn, signFactor]

/-- A square, with a sign. -/
theorem Num.val_square (b s : Bool) (m : Nat) (e : Int) :
    (Num.fin b (m * m) (2 * e)).val = signFactor b * ((Num.fin s m e).val * (Num.fin s m e).val) := by
  simp only [Num.val_fin]
  rw [mul_mul_mul_comm, signFactor_sq, one_mul, two_mul, zpow_add₀ two_ne_zero]
  push_cast; ring

/-- Half a cube, with its sign inverted. -/
theorem Num.val_half_cube (s : Bool) (m : Nat) (e : Int) :
    (Num.fin (!s) (m * m * m) (3 * e - 1)).val = -((Num.fin s m e).val * (Num.fin s m e).val * (Num.fin s m e).val / 2) := by
  have h3 : signFactor s * signFactor s * signFactor s = signFactor s := by rw [signFactor_sq, one_mul]
  simp only [Num.val_fin]
  rw [signFactor_not, zpow_sub₀ two_ne_zero, show 3 * e = e + e + e by ring, zpow_add₀ two_ne_zero, zpow_add₀ two_ne_zero]
  push_cast
  linear_combination (-(m : Rat) ^ 3 * 2 ^ e * 2 ^ e * 2 ^ e / 2) * h3.symm

section Factors

variable {x g : F32} {s : Bool} {m : Nat} {e : Int} (hx : f32 x = .fin s m e)

include hx

/-- The factor of SIGM from its output `y` is `y (1 - y)`. -/
theorem actDer1_sigm : ∃ v, actDer1 2 x = .num v ∧ v.Finite ∧ v.val = (f32 x).val * (1 - (f32 x).val) := by
  rw [hx]
  rcases eq_or_ne m 0 with rfl | hm
  · exact ⟨.fin s 0 0, by simp [actDer1, hx], ⟨_, _, _, rfl⟩, by simp [Num.val]⟩
  · refine ⟨_, by simp only [actDer1, hx, beq_iff_eq, hm, if_false]; rfl, (numInt_val _ _ _).1, ?_⟩
    rw [(numInt_val _ _ _).2, Int.cast_mul, zpow_add₀ two_ne_zero, mul_mul_mul_comm, sgn_val, addFin_val, Num.val_fin (!s), Num.val_fin s,
      signFactor_not, show (Num.fin false 1 0).val = 1 from numOne_val]
    ring

/-- The factor of TANH from its output `y` is `1 - y^2`. -/
theorem actDer1_tanh : ∃ v, actDer1 3 x = .num v ∧ v.Finite ∧ v.val = 1 - (f32 x).val * (f32 x).val := by
  refine ⟨_, by simp only [actDer1, hx]; rfl, (numInt_val _ _ _).1, ?_⟩
  rw [(numInt_val _ _ _).2, addFin_val, Num.val_square true s, hx, show (Num.fin false 1 0).val = 1 from numOne_val,
    show signFactor true = -1 from rfl]
  ring

/-- The factor of RELU from an output that is not negative. -/
theorem actDer1_relu (h : 0 ≤ (f32 x).val) : ∃ v, actDer1 1 x = .num v ∧ v.Finite ∧ v.val = if x.toNat % 2 ^ 31 = 0 then 0 else 1 := by
  have hz : x.toNat % 2 ^ 31 = 0 ↔ m = 0 := by
    rw [show x.toNat % 2 ^ 31 = f32Mag x from rfl]
    rw [f32_decode] at hx
    split_ifs at hx <;> injection hx <;> omega
  rw [hx] at h
  rcases eq_or_ne m 0 with rfl | hm
  · exact ⟨.fin false 0 0, by simp [actDer1, hx], ⟨_, _, _, rfl⟩, by rw [if_pos (hz.2 rfl)]; simp [Num.val]⟩
  · have hs : s = false := by
      by_contra hs
      exact absurd h (not_le.2 ((Num.val_fin_neg s m e).2 ⟨by simpa using hs, hm⟩))
    exact ⟨numOne, by simp [actDer1, hx, hm, hs], ⟨_, _, _, rfl⟩, by rw [if_neg (mt hz.1 hm), numOne_val]⟩

/-- The factor of RELU from its input. -/
theorem actDer2_relu : ∃ v, actDer2 1 x = .num v ∧ v.Finite ∧ v.val = if x.msb = true ∨ x = 0#32 then 0 else 1 := by
  simp only [f32_posZero_iff hx, f32_fin_sign hx]
  rcases eq_or_ne m 0 with rfl | hm
  · exact ⟨.fin false 0 0, by simp [actDer2, hx, actDerZero], ⟨_, _, _, rfl⟩, by cases s <;> simp [Num.val]⟩
  · cases s
    · exact ⟨numOne, by simp [actDer2, hx, actDerFin, hm], ⟨_, _, _, rfl⟩, by simp [numOne_val, hm]⟩
    · exact ⟨.fin false 0 0, by simp [actDer2, hx, actDerFin, hm], ⟨_, _, _, rfl⟩, by simp [Num.val]⟩

variable (free : F32) (hg : (f32 g).Finite)

include hg

/-- The factors from the output (06 R157). -/
theorem near_lane_out :
    let v : ℝ := (f32 x).val
    let r : ℝ := (f32 g).val
    (0 ≤ v → Near (if x.toNat % 2 ^ 31 = 0 then 0 else r) (actLane 1 1 free x g)) ∧
      Near (r * (v * (1 - v))) (actLane 1 2 free x g) ∧ Near (r * (1 - v * v)) (actLane 1 3 free x g) ∧
      Near (r * v) (actLane 1 6 free x g) ∧ Near (-(r * (v * v))) (actLane 1 8 free x g) ∧
      Near (-(r * (v * v * v / 2))) (actLane 1 9 free x g) ∧ (v ≠ 0 → Near (r / (2 * v)) (actLane 1 10 free x g)) := by
  intro v r
  refine ⟨fun h0 => ?_, ?_, ?_, ?_, ?_, ?_, fun h0 => ?_⟩
  · obtain ⟨w, hw, hf, hv⟩ := actDer1_relu hx (Rat.cast_nonneg.1 h0)
    have := near_lane_num hx free hg one_ne_zero (fn := 1) (by simpa using hw) hf rfl
    rw [hv] at this
    split_ifs at this ⊢ <;> simpa using this
  · obtain ⟨w, hw, hf, hv⟩ := actDer1_sigm hx
    exact near_lane_num hx free hg one_ne_zero (fn := 2) (by simpa using hw) hf (by rw [hv]; push_cast; rfl)
  · obtain ⟨w, hw, hf, hv⟩ := actDer1_tanh hx
    exact near_lane_num hx free hg one_ne_zero (fn := 3) (by simpa using hw) hf (by rw [hv]; push_cast; rfl)
  · exact near_lane_num hx free hg one_ne_zero (v := .fin s m e) (by simp [actDer1, hx]) ⟨_, _, _, rfl⟩ (by rw [← hx])
  · rw [← mul_neg]
    refine near_lane_num hx free hg one_ne_zero (v := .fin true (m * m) (2 * e)) (by simp [actDer1, hx]) ⟨_, _, _, rfl⟩ ?_
    rw [Num.val_square true s, ← hx]; simp [signFactor, v]
  · rw [← mul_neg]
    refine near_lane_num hx free hg one_ne_zero (v := .fin (!s) (m * m * m) (3 * e - 1)) (by simp [actDer1, hx]) ⟨_, _, _, rfl⟩ ?_
    rw [Num.val_half_cube, ← hx]; push_cast; rfl
  · have hm : m ≠ 0 := fun h => h0 (by simp only [v, hx, h]; exact_mod_cast (Num.val_fin_eq_zero s 0 e).2 rfl)
    rw [div_eq_mul_inv]
    refine near_lane_quo hx free hg one_ne_zero hm (b := s) (k := -e - 1) (by simp [actDer1, hx, hm]) ?_
    simp only [v, hx, Num.val_fin]
    rw [zpow_sub₀ two_ne_zero, zpow_neg]
    push_cast
    cases s <;> simp [signFactor] <;> ring

/-- The factors from the input (05 R137). -/
theorem near_lane_in :
    let v : ℝ := (f32 x).val
    let r : ℝ := (f32 g).val
    Near (if x.msb = true ∨ x = 0#32 then 0 else r) (actLane 2 1 free x g) ∧
      (0 < v → Near (r / v) (actLane 2 7 free x g)) ∧ (v ≠ 0 → Near (-(r / (v * v))) (actLane 2 8 free x g)) := by
  intro v r
  have hv0 : v ≠ 0 → m ≠ 0 := fun h0 h => h0 (by simp only [v, hx, h]; exact_mod_cast (Num.val_fin_eq_zero s 0 e).2 rfl)
  refine ⟨?_, fun h0 => ?_, fun h0 => ?_⟩
  · obtain ⟨w, hw, hf, hv⟩ := actDer2_relu hx
    have := near_lane_num hx free hg two_ne_zero (fn := 1) (by simpa using hw) hf rfl
    rw [hv] at this
    split_ifs at this ⊢ <;> simpa using this
  · have hm := hv0 h0.ne'
    have hs : s = false := ((Num.val_fin_pos s m e).1 (hx ▸ Rat.cast_pos.1 h0)).1
    subst hs
    rw [div_eq_mul_inv]
    refine near_lane_quo hx free hg two_ne_zero hm (b := false) (k := -e) (by simp [actDer2, actDerFin, hx, hm]) ?_
    simp only [v, hx, Num.val_fin]
    rw [zpow_neg]
    push_cast
    simp [signFactor]; ring
  · have hm := hv0 h0
    rw [div_eq_mul_inv, ← mul_neg]
    refine near_lane_quo hx free hg two_ne_zero (Nat.mul_ne_zero hm hm) (b := true) (k := -2 * e) (by simp [actDer2, actDerFin, hx, hm]) ?_
    have hsq := Num.val_square false s m e
    rw [← hx] at hsq
    have : v * v = (m * m : ℝ) * 2 ^ (2 * e) := by
      simp only [v]
      rw [← Rat.cast_mul, ← one_mul (_ * _ : Rat), show (1 : Rat) = signFactor false from rfl, ← hsq, Num.val_fin]
      push_cast; simp [signFactor]
    rw [this, neg_mul, zpow_neg]
    push_cast
    simp [signFactor, mul_comm]

end Factors

/-! ## The values at points -/

/-- Where the spec states the factor, the free value plays no part. -/
theorem mulFac_free {fac : Fac} (h : fac ≠ .unstated) (free free' : F32) (g : Num) : mulFac free g fac = mulFac free' g fac := by
  cases fac with
  | unstated => exact absurd rfl h
  | num | quo | root | approx => cases g <;> rfl

/-- Values of the functions that are not algebraic (05 R138). -/
theorem actF_points : ∀ p ∈ [(2, 0x3F800000#32, 0x3F3B26A8#32), (2, 0xC0000000#32, 0x3DF420A9#32), (3, 0x3F800000#32, 0x3F42F7D6#32),
     (3, 0xC0000000#32, 0xBF76CA83#32), (4, 0x3F800000#32, 0x3F57625F#32), (4, 0xC0000000#32, 0xBD3A5E7C#32),
     (5, 0x3F800000#32, 0x3F3B26A8#32), (5, 0xC0000000#32, 0xBE7420A9#32), (6, 0x3F800000#32, 0x402DF854#32),
     (6, 0xC0000000#32, 0x3E0A9555#32), (7, 0x3F000000#32, 0xBF317218#32), (7, 0x40400000#32, 0x3F8C9F54#32),
     (9, 0x40400000#32, 0x3F13CD3A#32), (9, 0x3F000000#32, 0x3FB504F3#32), (11, 0x3F800000#32, 0x3FA818F5#32),
     (11, 0xC0000000#32, 0x3E01F96B#32)], actF p.1 p.2.1 = (p.2.2, {}) := by decide +kernel

/-- Lanes with a factor at the input and gradient 1: the mode, the function and the result. -/
def factorPoints : List (Nat × Nat × F32) :=
  [(2, 2, 0x3E4954A3#32), (2, 3, 0x3ED706E0#32), (2, 4, 0x3F8AAA15#32), (2, 5, 0x3F6D7BD1#32), (2, 6, 0x402DF854#32),
   (2, 9, 0xBF000000#32), (2, 10, 0x3F000000#32), (2, 11, 0x3F3B26A8#32), (1, 7, 0x3EBC5AB2#32), (1, 11, 0x3F21D2A7#32)]

theorem factorPoints_stated : ∀ p ∈ factorPoints,
    (if p.1 == 1 then actDer1 p.2.1 0x3F800000#32 else actDer2 p.2.1 0x3F800000#32) ≠ .unstated := by decide +kernel

theorem actLane_points_zero : ∀ p ∈ factorPoints, actLane p.1 p.2.1 0#32 0x3F800000#32 0x3F800000#32 = (p.2.2, {}) := by decide +kernel

theorem factorPoints_mode : ∀ p ∈ factorPoints, (p.1 == 0) = false := by decide

/-- Values of lanes with a factor, whatever the free value. -/
theorem actLane_points (free : F32) (p) (hp : p ∈ factorPoints) : actLane p.1 p.2.1 free 0x3F800000#32 0x3F800000#32 = (p.2.2, {}) := by
  rw [← actLane_points_zero p hp]
  simp only [actLane, factorPoints_mode p hp, mulFac_free (factorPoints_stated p hp) free 0#32]

/-- Settles O14: the special inputs by the table, the algebraic results by the bits that carry them, the others at points. -/
theorem activationValues : Obligations.ActivationValues := by
  unfold Obligations.ActivationValues
  refine ⟨fun fn x g free _ _ => ⟨(actLane_nan fn x g free).1, (actLane_nan fn x g free).2, rfl⟩, actF_table, fun x g free hx => ?_,
    actF_points, actLane_points⟩
  obtain ⟨s, m, e, hx⟩ := hx
  intro v r near
  have hv0 : v ≠ 0 → m ≠ 0 := fun h0 h => h0 (by simp only [v, hx, h]; exact_mod_cast (Num.val_fin_eq_zero s 0 e).2 rfl)
  refine ⟨fun h => ?_, fun h => ?_, fun h => actF_rcp hx (hv0 h), fun hg => ?_⟩
  · obtain ⟨hs, hm⟩ := (Num.val_fin_neg s m e).1 (hx ▸ Rat.cast_lt_zero.1 h)
    exact actF_negative hx hs hm
  · obtain ⟨hs, hm⟩ := (Num.val_fin_pos s m e).1 (hx ▸ Rat.cast_pos.1 h)
    exact actF_positive hx hs hm
  · obtain ⟨h1, h2, h3, h6, h8, h9, h10⟩ := near_lane_out hx free hg
    obtain ⟨i1, i7, i8⟩ := near_lane_in hx free hg
    exact ⟨h1, h2, h3, h6, h8, h9, h10, i1, i7, i8⟩

end Sys2Proof.Machine

/-!
The DMA engine of a core: a descriptor taken in, its transactions, and its end (05 R146, 04 R100, R102).
-/

namespace Sys2Proof.Machine

open Sys2Proof

/-! ## The descriptor in the core store (05 R146, R147) -/

/-- A backed, aligned descriptor of good words on a core without earlier stores is read. -/
theorem State.withDesc_clean {s : State} {c : Nat} {w : SF} {a : Int} (ha : w.sum (s.core c) = a) (h0 : 0 ≤ a) (h64 : a % 64 = 0)
    (hend : a + 64 ≤ coreSize) (hf : Free s c [] [.store a.toNat 64] []) (hs : CleanStore s) (body : List Byte → State → State) :
    s.withDesc c w body = body (Mem.read s.mem (coreBase c + a.toNat) 64) s := by
  have ok : (a < 0 || a % 64 != 0 || a + 64 > (coreSize : Int)) = false := by
    simp only [Bool.or_eq_false_iff, decide_eq_false_iff_not, bne_eq_false_iff_eq]; omega
  simp only [State.withDesc, ha, ok, State.ifFree_free hf, State.load_clean hs]
  rfl

/-! ## Transactions (04 R100, R102) -/

section
variable {p q : DmaPend} {x : Txn} (h : p.next? = some (x, q))
include h

/-- The descriptor after its next transaction is the same one, with the transaction outstanding. -/
theorem DmaPend.next?_same : q.d = p.d ∧ q.seq = p.seq ∧ q.cut = p.cut ∧ q.out = p.out ++ [x] := by
  unfold DmaPend.next? at h
  split at h
  · exact nomatch h
  · injection h with h
    injection h with hx hq
    subst hx
    split_ifs at hq <;> subst hq <;> exact ⟨rfl, rfl, rfl, rfl⟩

/-- Where a transaction lies, and how long it is. -/
theorem DmaPend.next?_txn : ∃ off, x.dsts = p.d.dests.map (· + off) ∧
    x.len = min (min (p.d.rowLen - p.pos) (512 - x.src % 512)) (512 - (p.d.dst.toNat + off) % 512) := by
  unfold DmaPend.next? at h
  split at h
  · exact nomatch h
  · injection h with h
    injection h with hx hq
    subst hx
    exact ⟨_, rfl, rfl⟩

end

/-- A length of at most the rest of a 512-byte block stays in it. -/
theorem block_of_le {a n : Nat} (h1 : 1 ≤ n) (h : n ≤ 512 - a % 512) : a / 512 = (a + n - 1) / 512 := by omega

/-- A transaction has 1 to 512 bytes of one block of its source and, for one destination, of one block of its destination. -/
theorem DmaPend.next?_bounds {p q : DmaPend} {x : Txn} (h : p.next? = some (x, q)) (hpos : p.pos < p.d.rowLen) (hm : p.d.mcast = false) :
    1 ≤ x.len ∧ x.len ≤ 512 ∧ x.src / 512 = (x.src + x.len - 1) / 512 ∧ ∀ b ∈ x.dsts, b / 512 = (b + x.len - 1) / 512 := by
  obtain ⟨off, hd, hl⟩ := DmaPend.next?_txn h
  have dests : p.d.dests = [p.d.dst.toNat] := by simp [DmaDesc.dests, hm]
  have h1 : 1 ≤ x.len := by omega
  refine ⟨h1, by omega, block_of_le h1 (by omega), ?_⟩
  rw [hd, dests]
  simp only [List.map_cons, List.map_nil, List.mem_singleton, forall_eq]
  exact block_of_le h1 (by omega)

/-- The transactions that a list of descriptors has outstanding. -/
def outstanding (ps : List DmaPend) : Nat := (ps.map fun p => p.out.length).sum

/-- A start leaves one more transaction outstanding. -/
theorem outstanding_startTxn {eldest : Bool} {ps qs : List DmaPend} (h : startTxn eldest ps = some qs) : outstanding qs = outstanding ps + 1 := by
  induction ps generalizing eldest qs with
  | nil => exact nomatch h
  | cons p ps ih =>
    unfold startTxn at h
    split at h
    · next x q hq =>
      cases h
      have hnext : p.next? = some (x, q) := by
        split_ifs at hq
        exact hq
      obtain ⟨-, -, -, hout⟩ := DmaPend.next?_same hnext
      simp [outstanding, hout]; omega
    · rw [Option.map_eq_some_iff] at h
      obtain ⟨rs, hrs, rfl⟩ := h
      have := ih hrs
      simp only [outstanding, List.map_cons, List.sum_cons] at this ⊢
      omega

/-- Starting keeps within 160 outstanding transactions. -/
theorem outstanding_startTxns (n : Nat) {ps : List DmaPend} (h : outstanding ps ≤ 160) : outstanding (startTxns n ps) ≤ 160 := by
  induction n generalizing ps with
  | zero => exact h
  | succ n ih =>
    unfold startTxns
    split_ifs with hfull
    · exact h
    · split
      · next qs hqs =>
        refine ih ?_
        rw [outstanding_startTxn hqs]
        exact Nat.lt_of_not_le hfull
      · exact h

/-- A lone descriptor stays, whatever transactions it starts. -/
theorem startTxns_singleton (n : Nat) (p : DmaPend) : ∃ q, startTxns n [p] = [q] ∧ q.d = p.d ∧ q.seq = p.seq ∧ q.cut = p.cut := by
  induction n generalizing p with
  | zero => exact ⟨p, rfl, rfl, rfl, rfl⟩
  | succ n ih =>
    have here : ∃ q, [p] = [q] ∧ q.d = p.d ∧ q.seq = p.seq ∧ q.cut = p.cut := ⟨p, rfl, rfl, rfl, rfl⟩
    unfold startTxns
    split_ifs
    · exact here
    · split
      · next qs hqs =>
        unfold startTxn at hqs
        split at hqs
        · next x q hq =>
          cases hqs
          rw [Bool.not_true, Bool.and_false] at hq
          obtain ⟨hd, hseq, hcut, -⟩ := DmaPend.next?_same hq
          obtain ⟨r, hr, hd', hseq', hcut'⟩ := ih q
          exact ⟨r, hr, hd'.trans hd, hseq'.trans hseq, hcut'.trans hcut⟩
        · exact nomatch hqs
      · exact here

theorem startTxns_nil (n : Nat) : startTxns n [] = [] := by cases n <;> rfl

/-! ## DMA on an idle core (05 R146) -/

/-- The engine takes the head of queue 3. -/
theorem State.startDq_dma {s : State} {c : Nat} {e : QEntry} {es : List QEntry} (hd : (s.core c).dq = e :: es) {d : DmaDesc} {ordc : Bool}
    (hw : e.work = .dma d ordc) (hf : s.flt.active = false) (hb : (s.core c).workBefore e.seq = true) (room : (s.core c).dma.length < 32) :
    s.startDq c = some ((s.popDq c).addDma c e.seq d) := by
  simp [State.startDq, hd, hw, hf, hb, room]

/-- A core whose engine holds these descriptors. -/
def Core.engine (k : Core) (ps : List DmaPend) : Core := { k with dma := ps }

theorem Core.engine_ne_default (k : Core) (p : DmaPend) (ps : List DmaPend) : k.engine (p :: ps) ≠ {} :=
  fun h => List.cons_ne_nil p ps (congrArg Core.dma h)

/-- A descriptor enters an empty engine. -/
theorem State.addDma_first {s : State} {c : Nat} (h : (s.core c).dma = []) (seq : Nat) (d : DmaDesc) :
    ∃ p, s.addDma c seq d = s.setCore c ((s.core c).engine [p]) ∧ p.d = d ∧ p.seq = seq ∧ p.cut = false := by
  let p : DmaPend := { d := d, seq := seq, task := (s.core c).taskId.toNat, plane := 0, row := 0, pos := 0, cut := false, out := [] }
  obtain ⟨q, hq, same⟩ := startTxns_singleton 160 p
  have entered : s.addDma c seq d = (s.setCore c ((s.core c).engine [p])).dmaRun c := by
    simp only [State.addDma, State.modCore, h, List.nil_append, p, Core.engine]
  rw [entered, State.dmaRun]
  split_ifs
  · exact ⟨p, rfl, rfl, rfl, rfl⟩
  · have run : { (s.core c).engine [p] with dma := startTxns 160 ((s.core c).engine [p]).dma } = (s.core c).engine [q] :=
      congrArg (s.core c).engine hq
    refine ⟨q, ?_, same⟩
    rw [State.modCore, State.core_setCore, run, State.setCore_setCore _ _ _ (Core.engine_ne_default _ p [])]

section
variable {s : State} {c : CoreId} {w : SF} {d : DmaDesc} {n : Nat} (hw : w = ⟨w.fn, 0, w.a, 0, 0, w.imm⟩) (hfn : w.fn.toNat ≤ 1)
  (hi : AtInsn s c.val (encodeS 0x30#8 w)) (hk : IdleCore (s.core c.val)) (hc : (s.core c.val).ctx = some n) (hs : CleanStore s)
include hw hfn hi hk hc hs

/-- DMA hands its descriptor to the engine as soon as it stands in queue 3. -/
theorem exec_dma {a : Int} (ha : w.sum (s.core c.val) = a) (h0 : 0 ≤ a) (h64 : a % 64 = 0) (hend : a + 64 ≤ coreSize)
    (hd : s.checkDma c.val (Mem.read s.mem (coreBase c.val + a.toNat) 64) = some d) :
    ∃ p, Answers (.dma c w) s (s.setCore c.val ((s.core c.val).passed.engine [p])) ∧ p.d = d ∧ p.seq = (s.core c.val).nextSeq ∧
      p.cut = false := by
  have run := answers_free (i := .dma c w) rfl (by rw [hw]; simp [SF.zero, SF.fnMax, hfn]) hi rfl (hk.free _ _ _)
  rw [State.withDesc_clean ha h0 h64 hend (hk.free _ _ _) hs] at run
  simp only [hd] at run
  have active : s.flt.active = false := State.mayIssue_active hi.may
  set u := s.setCore c.val ((s.core c.val).queued (encodeS 0x30#8 w) (.dma d (w.fn == 1#8))) with hu
  have core : u.core c.val = (s.core c.val).queued (encodeS 0x30#8 w) (.dma d (w.fn == 1#8)) := State.core_setCore ..
  have before : (u.core c.val).workBefore ((s.core c.val).entry (encodeS 0x30#8 w) (.dma d (w.fn == 1#8))).seq = true := by
    rw [core]; simp [Core.workBefore, Core.work, Core.queued, Core.passed, hk.vq, hk.mq0, hk.mq1, hk.latch0, hk.latch1]
  have room : (u.core c.val).dma.length < 32 := by
    have : (u.core c.val).dma = [] := by rw [core]; exact hk.dma
    rw [this]; decide
  have start := State.startDq_dma (State.dq_queued (s := s) (c := c.val) (encodeS 0x30#8 w) (.dma d (w.fn == 1#8))) rfl
    active before room
  obtain ⟨p, hp, hpd, hps, hpc⟩ := State.addDma_first (s := s.setCore c.val (s.core c.val).passed) (c := c.val)
    (by rw [State.core_setCore]; exact hk.dma) (s.core c.val).nextSeq d
  rw [State.core_setCore, State.setCore_setCore _ _ _ (Core.ne_default (k := (s.core c.val).passed) hc)] at hp
  rw [State.popDq_queued hk hc] at start
  refine ⟨p, run.trans (congrArg _ (State.pump_queued hk _ _ (start.trans (congrArg some hp)) ?_ ?_)), hpd, hps, hpc⟩
  · rw [State.core_setCore]; rfl
  · rw [State.core_setCore]; rfl

end

/-! ## A transaction that completes (04 R100) -/

theorem State.writeFor_nil (s : State) (n a : Nat) : s.writeFor n a [] = (none, s.setBytes a []) := by
  simp [State.writeFor, pagesOf, State.write, State.devWrite, State.setBytes, Mem.write]

/-- A write outside the bulk window, an empty one at its border included. -/
theorem State.writeFor_outside {s : State} (hs : CleanStore s) (n : Nat) {a : Nat} {bs : List Byte} (h : a + bs.length ≤ t2Base) :
    s.writeFor n a bs = (none, s.setBytes a bs) := by
  rcases eq_or_ne bs [] with rfl | hb
  · exact s.writeFor_nil n a
  · exact State.writeFor_below hs n h (by have := List.length_pos_iff.2 hb; omega)

/-- Over good words a transaction with one destination writes there the bytes at its source. -/
theorem State.txnDone_clean {s : State} (hs : CleanStore s) {c n i : Nat} {x : Txn} {b : Nat} (hx : x.dsts = [b]) (hc : (s.core c).ctxNum = n)
    (hr : (s.ctx n).inRetained b x.len = false) (h : b + x.len ≤ t2Base) : s.txnDone c i x 0 = s.setBytes b (Mem.read s.mem x.src x.len) := by
  have len : (Mem.read s.mem x.src x.len).length = x.len := Mem.read_length ..
  have load : s.load x.src x.len = (.inl (Mem.read s.mem x.src x.len), s) := State.load_clean hs _ _
  have write := State.writeFor_outside hs n (bs := Mem.read s.mem x.src x.len) (by rw [len]; exact h)
  rw [State.txnDone, if_neg (by decide), State.cross_zero, load]
  simp only [hc, hx, State.txnWrite, len, hr, Bool.false_eq_true, if_false, write]

/-- The engine's going on changes no memory and no context. -/
theorem State.dmaRun_frame (s : State) (c : Nat) : ∃ cs, s.dmaRun c = { s with cores := cs } := by
  unfold State.dmaRun
  split_ifs
  · exact ⟨s.cores, rfl⟩
  · exact ⟨_, rfl⟩

section
variable {s : State} {c : CoreId}

theorem exec_dmaTransaction (hs : CleanStore s) {i j n : Nat} {p : DmaPend} {x : Txn} {b : Nat} (hp : (s.core c.val).dma[i]? = some p)
    (hj : p.out[j]? = some x) (hx : x.dsts = [b]) (hc : (s.core c.val).ctx = some n) (hr : (s.ctx n).inRetained b x.len = false)
    (h : b + x.len ≤ t2Base) :
    ∃ cs, Answers (.dmaTransactionComplete c i j 0 []) s { s.setBytes b (Mem.read s.mem x.src x.len) with cores := cs } := by
  have ctxNum : ((s.dropTxn c.val i j).core c.val).ctxNum = n := by
    rw [State.dropTxn, State.core_modCore]; simp [Core.ctxNum, hc]
  have moved := State.txnDone_clean (s := s.dropTxn c.val i j) ⟨hs.bad, hs.arm, hs.rst⟩ (i := i) hx ctxNum hr h
  obtain ⟨cs, hcs⟩ := State.dmaRun_frame ((s.dropTxn c.val i j).setBytes b (Mem.read s.mem x.src x.len)) c.val
  refine ⟨cs, ?_⟩
  change execDmaTransactionComplete c i j 0 [] s = _
  simp only [execDmaTransactionComplete, hp, hj, State.applyUpsets, List.foldl_nil, moved]
  exact congrArg _ hcs

/-- An empty engine starts nothing. -/
theorem State.core_dmaRun_nil {s : State} {c : Nat} (h : (s.core c).dma = []) : (s.dmaRun c).core c = s.core c := by
  have same : ({ s.core c with dma := startTxns 160 (s.core c).dma } : Core) = s.core c := by rw [h, startTxns_nil, ← h]
  unfold State.dmaRun
  split_ifs
  · rfl
  · rw [State.core_modCore, same]

/-- The last descriptor of an engine leaves it and increments its semaphore (04 R102). -/
theorem exec_dmaDescriptor {n : Nat} {p : DmaPend} (hp : (s.core c.val).dma = [p]) (hc : (s.core c.val).ctx = some n) (hdone : p.done = true)
    (hv : (s.core c.val).vq = []) (hd : (s.core c.val).dq = []) (hl : (s.core c.val).layer = none) (hsem : (s.sem n p.d.sem).toNat + 1 < 2 ^ 32) :
    Answers (.dmaDescriptorComplete c 0) s
      (((s.setCore c.val ((s.core c.val).engine [])).setSem n p.d.sem (s.sem n p.d.sem + 1)).dmaRun c.val) := by
  have gone : ({ s.core c.val with dma := dropAt 0 (s.core c.val).dma } : Core) = (s.core c.val).engine [] := by rw [hp]; rfl
  have noted : (s.modCore c.val fun k => ({ k with dma := dropAt 0 k.dma } : Core).noteInc p.seq p.d.sem 1) =
      s.setCore c.val ((s.core c.val).engine []) := by
    rw [State.modCore, gone, Core.noteInc_none (k := (s.core c.val).engine []) hl]
  have inc := State.semInc_below (s := s.setCore c.val ((s.core c.val).engine [])) (n := n) (i := p.d.sem) (m := 1) hsem none
  set u := (s.setCore c.val ((s.core c.val).engine [])).setSem n p.d.sem (s.sem n p.d.sem + 1) with hu
  have core : u.core c.val = (s.core c.val).engine [] := State.core_setCore ..
  have ran : (u.dmaRun c.val).core c.val = (s.core c.val).engine [] := (State.core_dmaRun_nil (congrArg Core.dma core)).trans core
  have idle : (u.dmaRun c.val).pump c.val = u.dmaRun c.val := State.pump_nil (by rw [ran]; exact hv) (by rw [ran]; exact hd)
  change execDmaDescriptorComplete c 0 s = _
  rw [execDmaDescriptorComplete]
  simp only [hp, hc, List.getElem?_cons_zero, hdone, Bool.not_true, Bool.false_eq_true, if_false, noted]
  exact congrArg _ ((congrArg (fun t => (State.dmaRun t c.val).pump c.val) inc).trans idle)

end

/-- Settles O21: a lone descriptor stays while it starts transactions, and a transaction is bounded by the blocks it lies in. -/
theorem dmaMovesBytesAndCounts : Obligations.DmaMovesBytesAndCounts := by
  refine ⟨?issue, ?transaction, ?complete, ?bounds, fun ps h => outstanding_startTxns 160 h⟩
  case issue =>
    intro c w s d k a hw hfn hi hk hs h0 h64 hend hd
    obtain ⟨n, hc⟩ := Option.isSome_iff_exists.1 hi.ctx
    obtain ⟨p, run, hpd, hps, hpc⟩ := exec_dma hw hfn hi hk hc hs (a := a) rfl h0 h64 hend hd
    refine ⟨_, p, run, ?_, hpd, hps, hpc, ?_, ?_, rfl, rfl⟩
    · rw [State.core_setCore]; rfl
    · rw [State.core_setCore]; exact hk.dq
    · rw [State.core_setCore]; rfl
  case transaction =>
    intro c i j n s p x b k hp hj hx hs hc hr h
    obtain ⟨cs, run⟩ := exec_dmaTransaction hs hp hj hx hc hr h
    have len : (Mem.read s.mem x.src x.len).length = x.len := Mem.read_length ..
    refine ⟨_, run, ?_, fun y hy => Mem.byte_write_other _ _ _ _ (by rwa [len]), rfl⟩
    have back := Mem.read_write s.mem b (Mem.read s.mem x.src x.len)
    rwa [len] at back
  case complete =>
    rintro c i n s p k hp rfl hc hdone hv hd hl hsem
    refine ⟨_, exec_dmaDescriptor hp hc hdone hv hd hl hsem, ?_, ?_, ?_⟩
    all_goals set u := (s.setCore c.val ((s.core c.val).engine [])).setSem n p.d.sem (s.sem n p.d.sem + 1) with hu
    all_goals obtain ⟨cs, hcs⟩ := u.dmaRun_frame c.val
    · have sem : (u.dmaRun c.val).sem n p.d.sem = u.sem n p.d.sem := by rw [hcs]; rfl
      rw [sem, hu, State.setSem, State.sem, State.ctx_modCtx]
      exact SMap.get_set_self ..
    · have core : u.core c.val = (s.core c.val).engine [] := State.core_setCore ..
      rw [State.core_dmaRun_nil (congrArg Core.dma core), core]
      rfl
    · rw [hcs]; rfl
  case bounds =>
    intro p q x h hpos hm
    obtain ⟨h1, h512, hsrc, hdst⟩ := DmaPend.next?_bounds h hpos hm
    exact ⟨h1, h512, hsrc, fun b hb _ => hdst b hb⟩

end Sys2Proof.Machine

/-!
UPD behind a semaphore read that is still in its queue (05 R148, R149).
-/

namespace Sys2Proof.Machine

open Sys2Proof

/-! ## An UPD whose operand an SRD still writes (05 R149) -/

/-- The A registers that an UPD reads (05 R148). -/
def updRegs (w : UF) : List Nat := [w.aw.toNat, w.ag.toNat, w.ao.toNat, w.am.toNat, w.at_.toNat, w.ae.toNat]

/-- An UPD waits while one of its registers is still to be written. -/
theorem answers_upd_held {c : CoreId} {w : UF} {s : State} (hi : AtInsn s c.val (encodeU w))
    (hw : w.rest = 0) (held : (s.core c.val).regHeld (updRegs w) = true) : Answers (.upd c w) s s := by
  change execUpd c w s = _
  rw [execUpd, show (w.rest == 0#10) = true from beq_iff_eq.2 hw, State.issue_runs hi (by rw [encodeU_opcode]; rfl)]
  exact congrArg _ (State.ifFree_held (.inl held) _)

/-- An SRD in queue 3 into a register holds an instruction that reads it, though no load is outstanding. -/
theorem Core.regHeld_srd {k : Core} {e : QEntry} {i d : Nat} {rs : List Nat} (he : e ∈ k.dq) (hw : e.work = .srd i d) (hd : d ∈ rs) :
    k.regHeld rs = true := by
  rw [Core.regHeld, Bool.or_eq_true]
  exact .inr (List.any_eq_true.2 ⟨e, he, by simp [hw, hd]⟩)

/-! ## A core that stands at such an UPD -/

/-- An SGD rule whose scale registers are all `S[0]`. -/
def sgdRule : Rule :=
  { kind := 1, mfmt := 0, lrx := 0, gfx := 0, bc1x := 0, bc2x := 0, wd := 0, b1 := 0, c1 := 0, b2 := 0, c2 := 0, eps := 0 }

/-- A program with the one rule, and one layer with the master tensor 10. -/
def sgdProg : Prog :=
  { addr := 0, len := 0, codeOff := 0, codeLen := 0, tasks := [], rules := [sgdRule], stages := [],
    layers := [{ lid := 1, frozen := false, row := 0, master := 10, fwd := 9, trans := 0xFFFFFFFF }],
    recipe := { compat := false, initLs := 0, cleanRun := 0, rows := [] } }

/-- A step RUN with one task. -/
def stepRun : Run :=
  { id := 1, tag := 0, epoch := 5, step := true, argOff := 0, latched := 0, relFirst := 0, relCount := 0, released := true, replay := false,
    serveIx := 0, scaleIx := 0, tasks := [{ tid := 7, count := 0, st := 1 }], stages := [], reserved := 0, ran := 0, seq := 0, rerun := [] }

/-- UPD by rule 0 of 64 weights: weights, gradients, offcuts and moments at A[1] to A[4], tensor A[5], element A[6]. -/
def sgdUpd : UF := ⟨0, 1, 2, 3, 4, 5, 6, 0, 0⟩

/-- An SRD of semaphore 0 into A[1], waiting in queue 3. -/
def queuedSrd : QEntry := { seq := 0, pc := 0, word := 0, work := .srd 0 1, reads := [], writes := [], phase := 0 }

/-- A core of context 3 at the UPD, with the SRD into A[1] before it. -/
def srdBeforeUpd : State :=
  let k : Core := { ctx := some 3, task := some { run := 1, tid := 7 }, code := [0, encodeU sgdUpd], pc := 1, dq := [queuedSrd], nextSeq := 1 }
  let r : State := State.reset
  let s : State := { r with rst := { r.rst with phase := 6 },
                            cores := [(5, (((k.setA 2 0x80#64).setA 3 0x100#64).setA 4 0x180#64).setA 5 10#64)] }
  s.modCtx 3 fun x => { x with prog := some sgdProg, runs := [stepRun] }

theorem srdBeforeUpd_at : AtInsn srdBeforeUpd 5 (encodeU sgdUpd) := ⟨rfl, rfl⟩

/-- Refutes O22: with no load outstanding, an SRD in queue 3 into A[1] keeps an UPD that reads A[1] from entering queue 2. -/
theorem not_updatesAndCollectivesStart : ¬ Obligations.UpdatesAndCollectivesStart := by
  intro h
  obtain ⟨enters, -, -⟩ := h ⟨5, by decide⟩ 3 stepRun srdBeforeUpd rfl rfl
  obtain ⟨t, e, run, queue, -⟩ := enters sgdUpd sgdRule rfl srdBeforeUpd_at rfl (by decide) rfl rfl rfl rfl (by decide)
    (fun h => absurd rfl h) (by decide)
  have waits : Answers (.upd ⟨5, by decide⟩ sgdUpd) srdBeforeUpd srdBeforeUpd :=
    answers_upd_held srdBeforeUpd_at rfl (Core.regHeld_srd (e := queuedSrd) (List.mem_singleton.2 rfl) rfl (by decide))
  have same : t = srdBeforeUpd := by
    injection run.symm.trans waits
  rw [same] at queue
  exact absurd (congrArg List.length queue) (by simp)

end Sys2Proof.Machine

/-!
SLD and SST, and the quantiser: the scale registers, the codes in memory and the counts of a slot (05 R128, R140, 03 R53, R57).
-/

namespace Sys2Proof.Machine

open Sys2Proof

/-! ## Codes in bytes (02 R23) -/

/-- Four bytes as an FP32 code. -/
theorem f32_of_bytes (a b c d : Byte) : (d ++ c ++ b ++ a : F32) = BitVec.ofNat 32 (leNat [a, b, c, d]) := by
  have join : ∀ (n : Nat) (x : BitVec n) (y : Byte), (x ++ y).toNat = x.toNat * 256 + y.toNat := by
    intro n x y
    rw [BitVec.toNat_append, ← Nat.shiftLeft_add_eq_or_of_lt y.isLt, Nat.shiftLeft_eq]
  apply BitVec.eq_of_toNat_eq
  have := a.isLt; have := b.isLt; have := c.isLt; have := d.isLt
  rw [join, join, join, BitVec.toNat_ofNat]
  simp only [leNat]
  omega

/-- The code at a place among bytes. -/
theorem f32s_getElem (bs : List Byte) {i : Nat} (h : i < (f32s bs).length) : (f32s bs)[i] = BitVec.ofNat 32 (leNat ((bs.drop (4 * i)).take 4)) := by
  induction bs using f32s.induct generalizing i with
  | case1 a b c d r ih =>
    cases i with
    | zero => exact f32_of_bytes a b c d
    | succ i => exact (ih (Nat.lt_of_succ_lt_succ h)).trans (by rw [Nat.mul_succ]; rfl)
  | case2 bs hbs =>
    rw [f32s] at h
    · exact absurd h (Nat.not_lt_zero i)
    · exact hbs

/-- The codes of a run of memory. -/
theorem f32s_read (m : Mem) (a : Nat) {n i : Nat} (h : i < n) :
    (f32s (Mem.read m a (4 * n)))[i]? = some (BitVec.ofNat 32 (leNat (Mem.read m (a + 4 * i) 4))) := by
  have len : i < (f32s (Mem.read m a (4 * n))).length := by rw [length_f32s, Mem.read_length]; omega
  rw [List.getElem?_eq_getElem len, f32s_getElem _ len, ← Mem.read_part m a (by omega)]

/-- A part of a run that is written reads back as the part. -/
theorem Mem.read_write_part (m : Mem) (a : Nat) (bs : List Byte) {i k : Nat} (h : i + k ≤ bs.length) :
    Mem.read (Mem.write m a bs) (a + i) k = (bs.drop i).take k := by
  rw [Mem.read_part _ _ h, Mem.read_write]

/-- The bytes of codes of whole bytes. -/
theorem codeBytes_flatMap {f : Nat} (hf : f ≠ 6) (cs : List Nat) : codeBytes f cs = cs.flatMap (natLe (fmtBits f / 8)) := by
  induction cs with
  | nil => rfl
  | cons c cs ih =>
    cases cs with
    | nil => simp [codeBytes, hf]
    | cons d r => rw [codeBytes, if_neg (by simpa using hf), ih]; rfl

/-- One code among the bytes of codes of `b` bytes each. -/
theorem flatMap_natLe_part (b : Nat) {cs : List Nat} {i : Nat} (h : i < cs.length) :
    ((cs.flatMap (natLe b)).drop (b * i)).take b = natLe b cs[i] := by
  induction cs generalizing i with
  | nil => simp at h
  | cons c cs ih =>
    rw [List.flatMap_cons]
    cases i with
    | zero => rw [Nat.mul_zero, List.drop_zero, List.take_left' (length_natLe b _)]; rfl
    | succ i =>
      rw [Nat.mul_succ, Nat.add_comm, ← List.drop_drop, List.drop_left' (length_natLe b _)]
      exact ih (Nat.lt_of_succ_lt_succ h)

theorem length_flatMap_natLe (b : Nat) (cs : List Nat) : (cs.flatMap (natLe b)).length = b * cs.length := by
  rw [List.length_flatMap]
  simp [mul_comm]

/-- Two N4 codes to a byte, the earlier one low. -/
theorem codeBytes_pairs {cs : List Nat} {n : Nat} (h : cs.length = 2 * n) :
    codeBytes 6 cs = (List.range n).map fun i => BitVec.ofNat 8 (cs.getD (2 * i) 0 + 16 * cs.getD (2 * i + 1) 0) := by
  induction n generalizing cs with
  | zero => rw [List.length_eq_zero_iff.1 h]; rfl
  | succ n ih =>
    obtain ⟨c, d, r, rfl⟩ : ∃ c d r, cs = c :: d :: r := by
      match cs, h with
      | c :: d :: r, _ => exact ⟨c, d, r, rfl⟩
    rw [codeBytes, if_pos (by decide), ih (by simp at h; omega), List.range_succ_eq_map, List.map_cons, List.map_map]
    congr 1

/-! ## SLD and SST (05 R128) -/

/-- Scale registers from `x` on take codes, one after the other. -/
def Core.setSs (k : Core) (x : Nat) (xs : List F32) : Core := (xs.zip (upFrom x xs.length)).foldl (fun k p => k.setS p.2 p.1) k

theorem upFrom_succ (a n : Nat) : upFrom a (n + 1) = a :: upFrom (a + 1) n := by
  simp only [upFrom, List.range_succ_eq_map, List.map_cons, List.map_map, Nat.add_zero]
  congr 1
  exact List.map_congr_left fun i _ => by simp; omega

theorem Core.setSs_cons (k : Core) (x : Nat) (v : F32) (vs : List F32) : k.setSs x (v :: vs) = (k.setS x v).setSs (x + 1) vs := by
  rw [Core.setSs, List.length_cons, upFrom_succ]; rfl

theorem Core.setSs_a (k : Core) (x : Nat) (xs : List F32) : (k.setSs x xs).a = k.a := by
  induction xs generalizing k x with
  | nil => rfl
  | cons v vs ih => rw [Core.setSs_cons, ih]; rfl

theorem Core.rs_setSs_other (k : Core) {x i : Nat} {xs : List F32} (h : i < x ∨ x + xs.length ≤ i) : (k.setSs x xs).rs i = k.rs i := by
  induction xs generalizing k x with
  | nil => rfl
  | cons v vs ih =>
    rw [List.length_cons] at h
    rw [Core.setSs_cons, ih _ (by omega), Core.rs_setS_other _ _ (by omega)]

theorem Core.rs_setSs (k : Core) (x : Nat) {xs : List F32} {i : Nat} {v : F32} (h : xs[i]? = some v) : (k.setSs x xs).rs (x + i) = v := by
  induction xs generalizing k x i with
  | nil => exact nomatch h
  | cons u vs ih =>
    rw [Core.setSs_cons]
    cases i with
    | zero =>
      rw [Core.rs_setSs_other _ (.inl (show x + 0 < x + 1 by omega)), Nat.add_zero, Core.rs_setS]
      simpa using h
    | succ i =>
      rw [show x + (i + 1) = x + 1 + i by omega]
      exact ih (k.setS x u) (x + 1) h

section
variable (s : State) (c : Nat) (w : VecWork)

theorem State.sld_eq : s.sld c w =
    s.setCore c ((s.core c).setSs w.f.x.toNat (f32s (Mem.read s.mem (coreBase c + w.ra.toNat) (4 * (256 * w.f.n))))) := by
  rw [← Nat.mul_assoc]; rfl

theorem State.sst_eq (hs : CleanStore s) : s.sst c w =
    s.setBytes (coreBase c + w.rd.toNat) (f32Bytes ((upFrom w.f.x.toNat (256 * w.f.n)).map (s.core c).rs)) :=
  State.setCoreBytes_clean hs _ _ _

theorem State.core_sld : (s.sld c w).core c =
    (s.core c).setSs w.f.x.toNat (f32s (Mem.read s.mem (coreBase c + w.ra.toNat) (4 * (256 * w.f.n)))) := by
  rw [State.sld_eq]
  exact State.core_setCore ..

theorem sld_copies : let n := 256 * w.f.n
    (s.sld c w).mem = s.mem ∧ (∀ i, i < n → ((s.sld c w).core c).rs (w.f.x.toNat + i) =
      BitVec.ofNat 32 (leNat (Mem.read s.mem (c * 0x800000 + w.ra.toNat + 4 * i) 4))) ∧
    (∀ i, (i < w.f.x.toNat ∨ w.f.x.toNat + n ≤ i) → ((s.sld c w).core c).rs i = (s.core c).rs i) ∧
    ((s.sld c w).core c).a = (s.core c).a ∧ ∀ x, x ≠ c → (s.sld c w).core x = s.core x := by
  rw [show c * 0x800000 = coreBase c from rfl]
  dsimp only
  have len : (f32s (Mem.read s.mem (coreBase c + w.ra.toNat) (4 * (256 * w.f.n)))).length = 256 * w.f.n := by
    rw [length_f32s, Mem.read_length]; omega
  rw [State.core_sld]
  refine ⟨by rw [State.sld_eq, State.setCore_mem], fun i hi => ?_, fun i hi => ?_, Core.setSs_a _ _ _, fun x hx => ?_⟩
  · have code := f32s_read s.mem (coreBase c + w.ra.toNat) hi
    exact Core.rs_setSs (s.core c) w.f.x.toNat code
  · exact Core.rs_setSs_other _ (by rwa [len])
  · rw [State.sld_eq]
    exact State.core_setCore_other _ _ hx.symm

theorem sst_copies (hs : CleanStore s) : let n := 256 * w.f.n
    (s.sst c w).cores = s.cores ∧
    (∀ i, i < n → Mem.read (s.sst c w).mem (c * 0x800000 + w.rd.toNat + 4 * i) 4 = natLe 4 ((s.core c).rs (w.f.x.toNat + i)).toNat) ∧
    ∀ a, (a < c * 0x800000 + w.rd.toNat ∨ c * 0x800000 + w.rd.toNat + 4 * n ≤ a) → Mem.byte (s.sst c w).mem a = Mem.byte s.mem a := by
  intro n
  set xs := (upFrom w.f.x.toNat n).map (s.core c).rs with hxs
  have len : xs.length = n := by simp [hxs, upFrom]
  have mem : (s.sst c w).mem = Mem.write s.mem (coreBase c + w.rd.toNat) (f32Bytes xs) := by rw [State.sst_eq s c w hs]; rfl
  refine ⟨by rw [State.sst_eq s c w hs]; rfl, fun i hi => ?_, fun a ha => ?_⟩
  · have hx : i < xs.length := len ▸ hi
    have value : xs[i] = (s.core c).rs (w.f.x.toNat + i) := by simp [hxs, upFrom]
    rw [mem, ← value, ← f32Bytes_part hx]
    exact Mem.read_write_part s.mem _ _ (by rw [length_f32Bytes]; omega)
  · rw [mem]
    exact Mem.byte_write_other _ _ _ _ (by rw [length_f32Bytes, len]; exact ha)

end

/-- A layout-V instruction with a bad field faults. -/
theorem State.vecIssue_bad {s : State} {c : Nat} {op : VecOp} {opc : BitVec 8} {w : VF} {ok : Bool} (hi : AtInsn s c (encodeV opc w))
    (hok : ok = false) : s.vecIssue c op opc w ok = s.insnFault c := by
  rw [State.vecIssue, hok, State.issue_bad hi]

/-! ## The quantiser (05 R140, 03 R53) -/

/-- The exact value that an element is narrowed from: its product with the channel factor, where there is one, and the scale. -/
def quantNum (x : F32) (factor : Option F32) (scale : F32) : Num :=
  match (match factor with | some c => mulNum (f32 x) (f32 c) | none => some (f32 x)) with
  | some v => (mulNum v (f32 scale)).getD .nan
  | none => .nan

theorem quantElem_code (f ch : Nat) (x : F32) (factor : Option F32) (scale : F32) :
    (quantElem f ch x factor scale).code = (narrowNum f (quantNum x factor scale)).1 := by
  unfold quantElem quantNum
  dsimp only
  congr 3
  funext v
  cases mulNum v (f32 scale) <;> rfl

theorem zip_eq_map {α β : Type} {a : List α} {b : List β} {n : Nat} (ha : a.length = n) (hb : b.length = n) (x : α) (y : β) :
    a.zip b = (List.range n).map fun e => (a.getD e x, b.getD e y) := by
  refine List.ext_getElem (by simp [ha, hb]) fun e h1 h2 => ?_
  rw [List.length_zip, ha, hb, Nat.min_self] at h1
  rw [List.getElem_map, List.getElem_range, List.getElem_zip, List.getD_eq_getElem _ _ (ha ▸ h1), List.getD_eq_getElem _ _ (hb ▸ h1)]

theorem range_zip_map {α : Type} (n : Nat) (g : Nat → α) : (List.range n).zip ((List.range n).map g) = (List.range n).map fun e => (e, g e) := by
  refine List.ext_getElem (by simp) fun e h1 h2 => ?_
  simp

section
variable (s : State) (c : Nat) (w : VecWork) (f : Nat) (scale : Nat → F32) (v : Nat)

/-- The value that element `e` of a vector is narrowed from. -/
def State.qntNum (e : Nat) : Num :=
  quantNum ((s.vec c w.ra.toNat v).getD e 0#32) (if w.ck then some ((s.vec c w.rb.toNat v).getD e 0#32) else none) (scale (w.chan v e))

/-- The inputs of a vector, by element. -/
theorem State.qntInputs_eq : s.qntInputs c w v = (List.range 256).map fun e =>
    (e, (s.vec c w.ra.toNat v).getD e 0#32, if w.ck then some ((s.vec c w.rb.toNat v).getD e 0#32) else none) := by
  have xs := s.length_vec c w.ra.toNat v
  have fs := s.length_vec c w.rb.toNat v
  rw [State.qntInputs]
  cases w.ck
  · simp only [Bool.false_eq_true, if_false]
    rw [zip_eq_map xs List.length_replicate 0#32 none, range_zip_map]
    exact List.map_congr_left fun e _ => by
      rw [List.getD_eq_getElem?_getD (l := List.replicate _ _), List.getElem?_getD_replicate_default_eq]
  · simp only [if_true]
    rw [zip_eq_map xs ((List.length_map _).trans fs) 0#32 (some 0#32), range_zip_map]
    exact List.map_congr_left fun e _ => by rw [List.getD_map]

/-- The codes of a vector, each narrowed once. -/
theorem State.qntElems_codes :
    (s.qntElems c w f scale v).map (·.code) = (List.range 256).map fun e => (narrowNum f (s.qntNum c w scale v e)).1 := by
  rw [State.qntElems, State.qntInputs_eq, List.map_map, List.map_map]
  exact List.map_congr_left fun e _ => quantElem_code f _ _ _ _

/-- What a vector of QNT does to memory without a slot: its codes are written. -/
theorem State.qntStep_mem (hs : CleanStore s) : (State.qntStep c w f scale false s v).mem =
    Mem.write s.mem (coreBase c + (w.rd.toNat + vecBytes f * v))
      (codeBytes f ((List.range 256).map fun e => (narrowNum f (s.qntNum c w scale v e)).1)) := by
  rw [State.qntStep, State.qntElems_codes, State.setCoreBytes_clean hs]
  simp only [Bool.false_eq_true, if_false]
  split
  · rw [State.modCore_mem, State.coreArith_mem]; rfl
  · rw [State.coreArith_mem]; rfl

end

/-- The codes of 256 values in memory: bytes of their own in BF16, FP16, N8a and N8b, half a byte each in N4. -/
theorem qnt_written {m m' : Mem} {base f : Nat} {q : Nat → Num} (h2 : 2 ≤ f) (h6 : f ≤ 6)
    (h : m' = Mem.write m base (codeBytes f ((List.range 256).map fun e => (narrowNum f (q e)).1))) :
    (∀ a, (a < base ∨ base + vecBytes f ≤ a) → Mem.byte m' a = Mem.byte m a) ∧ ∀ e, e < 256 →
      (f ≤ 3 → Mem.read m' (base + 2 * e) 2 = natLe 2 (narrowNum f (q e)).1) ∧
      (f = 4 ∨ f = 5 → Mem.byte m' (base + e) = BitVec.ofNat 8 (narrowNum f (q e)).1) ∧
      (f = 6 → e % 2 = 0 → Mem.byte m' (base + e / 2) = BitVec.ofNat 8 ((narrowNum f (q e)).1 + 16 * (narrowNum f (q (e + 1))).1)) := by
  subst h
  set cs := (List.range 256).map fun e => (narrowNum f (q e)).1 with hcs
  have lenCs : cs.length = 256 := by rw [hcs, List.length_map, List.length_range]
  have code : ∀ e (he : e < cs.length), cs[e] = (narrowNum f (q e)).1 := fun e he => by simp [hcs]
  rcases eq_or_ne f 6 with rfl | hf
  · have pairs := codeBytes_pairs (n := 128) lenCs
    have len : (codeBytes 6 cs).length = 128 := by rw [pairs, List.length_map, List.length_range]
    refine ⟨fun a ha => Mem.byte_write_other _ _ _ _ (by rw [len]; exact ha), fun e he => ⟨fun h => absurd h (by decide),
      fun h => absurd h (by decide), fun _ heven => ?_⟩⟩
    rw [Mem.byte_write_at _ _ _ _ (by rw [len]; omega)]
    simp only [pairs, List.getElem_map, List.getElem_range]
    rw [show 2 * (e / 2) = e by omega, List.getD_eq_getElem _ _ (by omega), List.getD_eq_getElem _ _ (by omega), code, code]
  · have whole := codeBytes_flatMap hf cs
    have len : (codeBytes f cs).length = fmtBits f / 8 * 256 := by rw [whole, length_flatMap_natLe, lenCs]
    have size : vecBytes f = fmtBits f / 8 * 256 := by
      have h5 : f ≤ 5 := by omega
      interval_cases f <;> rfl
    have part : ∀ e, e < 256 → Mem.read (Mem.write m base (codeBytes f cs)) (base + fmtBits f / 8 * e) (fmtBits f / 8) =
        natLe (fmtBits f / 8) (narrowNum f (q e)).1 := by
      intro e he
      rw [Mem.read_write_part _ _ _ (by rw [len, ← Nat.mul_succ]; exact Nat.mul_le_mul_left _ he), whole,
        flatMap_natLe_part _ (lenCs ▸ he), code]
    refine ⟨fun a ha => Mem.byte_write_other _ _ _ _ (by rw [len, ← size]; exact ha),
      fun e he => ⟨fun h3 => ?_, fun h45 => ?_, fun h => absurd h hf⟩⟩
    · have bits : fmtBits f / 8 = 2 := by interval_cases f <;> rfl
      have := part e he
      rwa [bits] at this
    · have bits : fmtBits f / 8 = 1 := by rcases h45 with rfl | rfl <;> rfl
      have := part e he
      rw [bits, Nat.one_mul] at this
      exact List.head_eq_of_cons_eq this

/-! ## The tracker's counts (03 R57) -/

theorem amaxOf_toNat (a b : F32) : (amaxOf a b).toNat = max a.toNat b.toNat := by
  unfold amaxOf; split <;> omega

theorem slot_record (sl : Slot) (e : Elem) : let t := sl.record e
    t.elements = sl.elements + 1 ∧ t.saturated = sl.saturated + e.ev.sat ∧ t.underflow = sl.underflow + (if e.under then 1 else 0) ∧
    t.nonfinite = sl.nonfinite + (if e.nonfin then 1 else 0) ∧ t.tid = sl.tid ∧ t.tiles = sl.tiles ∧
    (let ch := if sl.perChan then e.ch else 0
     (∀ j, j ≠ ch → SMap.get 0#32 t.amax j = SMap.get 0#32 sl.amax j) ∧
     ((f32 e.x).Finite → (SMap.get 0#32 t.amax ch).toNat = max (SMap.get 0#32 sl.amax ch).toNat (e.x.toNat % 2 ^ 31)) ∧
     (¬ (f32 e.x).Finite → t.amax = sl.amax)) := by
  intro t
  have amax : t.amax = enterAmax sl.amax (if sl.perChan then e.ch else 0) e.x := rfl
  refine ⟨rfl, rfl, rfl, rfl, rfl, rfl, ?_⟩
  intro ch
  rw [amax, enterAmax]
  by_cases hf : f32Finite e.x = true
  · rw [if_pos hf]
    refine ⟨fun j hj => SMap.get_set_other _ _ _ hj.symm, fun _ => ?_, fun h => absurd ((f32Finite_iff e.x).1 hf) h⟩
    rw [SMap.upd, SMap.get_set_self, amaxOf_toNat, toNat_and_mag]
    rfl
  · rw [if_neg hf]
    exact ⟨fun _ _ => rfl, fun h => absurd ((f32Finite_iff e.x).2 h) hf, fun _ => rfl⟩

/-- Settles O17: the copies code by code, a vector of the quantiser by the bytes of its codes, and a record count by count. -/
theorem scaleCopiesAndQuantiser : Obligations.ScaleCopiesAndQuantiser := by
  refine ⟨fun c w s => ⟨sld_copies s c w, sst_copies s c w, ?sldBad, ?sstBad⟩, ?codes, slot_record⟩
  case sldBad =>
    intro d f u hf hi hx
    exact congrArg _ (State.vecIssue_bad hi (by rw [hf, sldFields, VF.n, decide_eq_false (Nat.not_le.2 hx), Bool.and_false]))
  case sstBad =>
    intro d f u hf hi hx
    exact congrArg _ (State.vecIssue_bad hi (by rw [hf, sstFields, VF.n, decide_eq_false (Nat.not_le.2 hx), Bool.and_false]))
  case codes =>
    intro c f w scale s v h2 h6 hs t base xs fs
    have written : t.mem = Mem.write s.mem base (codeBytes f ((List.range 256).map fun e => (narrowNum f (s.qntNum c w scale v e)).1)) :=
      s.qntStep_mem c w f scale v hs
    obtain ⟨bytes, codes⟩ := qnt_written h2 h6 written
    refine ⟨rfl, rfl, rfl, rfl, rfl, bytes, s.qntNum c w scale v, fun e he => ?_⟩
    obtain ⟨wide, narrow, pair⟩ := codes e he
    refine ⟨wide, narrow, pair, fun hck => ?_, fun hck => ?_⟩
    · rw [State.qntNum, hck]; rfl
    · rw [State.qntNum, hck]; rfl

end Sys2Proof.Machine

/-!
Tracker slots, their merge, the scales of the next step, descales and the scale rule (05 R142, 03 R55 to R69).
-/

namespace Sys2Proof.Machine

open Sys2Proof

/-! ## An instruction of an idle core that leaves queue 2 as it starts (05 R142) -/

/-- A pump that starts the one entry of queue 2. -/
theorem State.pump_startVq_once {s t : State} {c : Nat} (h : s.startVq c = some t) (htv : (t.core c).vq = []) (htd : (t.core c).dq = []) :
    s.pump c = t := by
  simp [State.pump, State.pumpN, h, State.startVq_nil htv, State.startDq_nil htd]

section
variable {s : State} {c : Nat} {e : QEntry} (hv : (s.core c).vq = [e]) (h0 : (s.core c).mq0 = []) (h1 : (s.core c).mq1 = []) (hp : e.phase = 0)
include hv h0 h1 hp

theorem State.startVq_topen {i off size : Nat} {tid : BitVec 32} (hw : e.work = .topen i tid off size) :
    s.startVq c = some ((s.modCore c fun k => { k with vq := [] }).slotOpen c i tid off size) := by
  simp [State.startVq, hv, hp, Core.heldBy_alone (k := s.core c) (e := e) (by simp [Core.work, hv, h0, h1]), hw]

theorem State.startVq_tclose {i : Nat} (hw : e.work = .tclose i) :
    s.startVq c = some ((s.modCore c fun k => { k with vq := [] }).slotClose c i e.seq) := by
  simp [State.startVq, hv, hp, Core.heldBy_alone (k := s.core c) (e := e) (by simp [Core.work, hv, h0, h1]), hw]

end

theorem State.push_handed {s : State} {c : Nat} (hk : IdleCore (s.core c)) (word : BitVec 64) (w : Work) (reads writes : List Res)
    (f : Core → Core) : s.push c 2 word w reads writes f = s.setCore c (f ((s.core c).handed word w reads writes 0)) := by
  have room : (s.core c).queue 2 = [] := hk.vq
  rw [State.push_room (by simp [room]), room]
  rfl

/-- The core after TOPEN: the slot is open, in program order and in the unit. -/
def Core.opened (k : Core) (i : Nat) (tid : BitVec 32) (sl : Slot) : Core :=
  { (k.passed.setSlotPO i (some tid)).setSlot i (some sl) with tilesPO := SMap.set 0 k.tilesPO i 0, vq := [] }

/-- The core after TCLOSE: the slot is closed, in program order and in the unit. -/
def Core.closed (k : Core) (i : Nat) : Core := { (k.passed.setSlotPO i none).setSlot i none with vq := [] }

section
variable (k : Core) (i : Nat)

theorem Core.slot_opened (tid : BitVec 32) (sl : Slot) : (k.opened i tid sl).slot i = some sl := SMap.get_set_self none _ i (some sl)
theorem Core.slotPO_opened (tid : BitVec 32) (sl : Slot) : (k.opened i tid sl).slotPO i = some tid := SMap.get_set_self none _ i (some tid)
theorem Core.slot_closed : (k.closed i).slot i = none := SMap.get_set_self none _ i none
theorem Core.slotPO_closed : (k.closed i).slotPO i = none := SMap.get_set_self none _ i none

end

/-- Outside a layer no merge is waited for. -/
theorem State.waitMerge_none (s : State) (n : Nat) {k : Core} (h : k.layer = none) : s.waitMerge n k = k := by
  unfold State.waitMerge
  split
  · rw [h, Option.map_none, ← h]
  · rfl

section
variable (s : State) {c n : Nat} {k : Core} (hc : k.ctx = some n)
include hc

theorem State.slotOpen_setCore (i off size : Nat) (tid : BitVec 32) :
    (s.setCore c k).slotOpen c i tid off size = s.setCore c (k.setSlot i (some (s.newSlot n tid off size k.inRerun))) := by
  simp only [State.slotOpen, State.core_setCore, hc]
  exact State.setCore_setCore s c _ (Core.ne_default hc)

theorem State.slotClose_setCore {i seq : Nat} {sl : Slot} (hs : k.slot i = some sl) (hr : sl.rerun = false) :
    (s.setCore c k).slotClose c i seq = (s.setCore c (k.setSlot i none)).modCtx n fun x =>
      { x with mergeQ := x.mergeQ ++ [{ slot := sl, core := c, run := k.runId, seq := seq }] } := by
  simp only [State.slotClose, State.core_setCore, hc, hs, hr, Bool.false_eq_true, if_false]
  rw [State.setCore_setCore s c _ (Core.ne_default hc)]

end

section
variable {c : CoreId} {n : Nat} {w : SF} {s : State} (hc : (s.core c.val).ctx = some n) (hk : IdleCore (s.core c.val)) (hd : w.d.toNat < 8)
include hc hk hd

/-- TOPEN with a free slot, of a tensor that has its record, opens the slot at once. -/
theorem exec_topen {tid : BitVec 32} (ht : ((s.core c.val).ra w.a.toNat).setWidth 32 = tid) (hw : w = ⟨0, w.d, w.a, w.b, 0, w.imm⟩)
    (hi : AtInsn s c.val (encodeS 0x68#8 w)) (hfree : (s.core c.val).slotPO w.d.toNat = none) (hrec : (s.ctx n).rec? tid ≠ none) :
    Answers (.topen c w) s (s.setCore c.val ((s.core c.val).opened w.d.toNat tid
      (s.newSlot n tid ((s.core c.val).ra w.b.toNat).toNat w.imm.toNat (s.core c.val).inRerun))) := by
  have known : s.firstUse n tid = some s := by
    obtain ⟨r, hr⟩ := Option.ne_none_iff_exists'.1 hrec
    simp [State.firstUse, hr]
  have run := answers_free (i := .topen c w) rfl (by rw [hw]; simp [SF.zero, SF.d8, hd]) hi rfl (hk.free _ _ _)
  simp only [hc, hfree, ht, known, Option.isSome_none, Bool.false_eq_true, if_false, State.push_handed hk] at run
  set off := ((s.core c.val).ra w.b.toNat).toNat
  set k : Core := { ((s.core c.val).handed (encodeS 0x68#8 w) (.topen w.d.toNat tid off w.imm.toNat) [] [.slot w.d.toNat] 0).setSlotPO
      w.d.toNat (some tid) with
    tilesPO := SMap.set 0 (s.core c.val).tilesPO w.d.toNat 0 } with hkdef
  have core : (s.setCore c.val k).core c.val = k := State.core_setCore ..
  have start := State.startVq_topen (s := s.setCore c.val k) (c := c.val) (by rw [core]; rfl) (by rw [core]; exact hk.mq0)
    (by rw [core]; exact hk.mq1) rfl rfl
  rw [State.modCore_setCore (k := k) hc, State.slotOpen_setCore s (k := { k with vq := [] }) hc] at start
  refine run.trans (congrArg _ (State.pump_startVq_once start ?_ ?_))
  · rw [State.core_setCore]; rfl
  · rw [State.core_setCore]; exact hk.dq

/-- TCLOSE of an open slot outside a layer closes the slot at once and hands its totals to the merge. -/
theorem exec_tclose {sl : Slot} (hw : w = ⟨0, w.d, 0, 0, 0, 0⟩) (hi : AtInsn s c.val (encodeS 0x69#8 w))
    (hpo : (s.core c.val).slotPO w.d.toNat = some sl.tid) (hs : (s.core c.val).slot w.d.toNat = some sl) (hr : sl.rerun = false)
    (hl : (s.core c.val).layer = none) (hlate : s.closeLate c.val n sl.tid = false) :
    Answers (.tclose c w) s ((s.setCore c.val ((s.core c.val).closed w.d.toNat)).modCtx n fun x =>
      { x with mergeQ := x.mergeQ ++ [{ slot := sl, core := c.val, run := (s.core c.val).runId, seq := (s.core c.val).nextSeq }] }) := by
  have run := answers_issued (i := .tclose c w) rfl (by rw [hw]; simp [SF.zero, SF.d8, hd]) hi rfl
  simp only [hc, hpo, hlate, Bool.false_eq_true, if_false, State.push_handed hk] at run
  set h := (s.core c.val).handed (encodeS 0x69#8 w) (.tclose w.d.toNat) [] [.slot w.d.toNat] 0 with hh
  rw [State.waitMerge_none s n (k := h.setSlotPO w.d.toNat none) hl] at run
  set k := h.setSlotPO w.d.toNat none with hkdef
  have core : (s.setCore c.val k).core c.val = k := State.core_setCore ..
  have start := State.startVq_tclose (s := s.setCore c.val k) (c := c.val) (by rw [core]; rfl) (by rw [core]; exact hk.mq0)
    (by rw [core]; exact hk.mq1) rfl rfl
  rw [State.modCore_setCore (k := k) hc, State.slotClose_setCore s (k := { k with vq := [] }) hc hs hr] at start
  refine run.trans (congrArg _ (State.pump_startVq_once start ?_ ?_))
  · rw [State.core_modCtx, State.core_setCore]; rfl
  · rw [State.core_modCtx, State.core_setCore]; exact hk.dq

end

/-! ## The merge (03 R58) -/

theorem Ctx.rec?_modRec (k : Ctx) (tid : BitVec 32) (f : ScaleRec → ScaleRec) : (k.modRec tid f).rec? tid = some (f (k.rec! tid)) := by
  rw [Ctx.rec?, Ctx.modRec, SMap.get_set_self]

theorem Ctx.rec!_modRec (k : Ctx) (tid : BitVec 32) (f : ScaleRec → ScaleRec) : (k.modRec tid f).rec! tid = f (k.rec! tid) := by
  rw [Ctx.rec!, Ctx.rec?_modRec]; rfl

theorem Ctx.rec!_modArith (k : Ctx) (f : CtxArith → CtxArith) (tid : BitVec 32) : (k.modArith f).rec! tid = k.rec! tid := rfl

theorem ScaleRec.pend_modPend (x : ScaleRec) (run : Nat) (f : Pend → Pend) : (x.modPend run f).pend run = f (x.pend run) := by
  rw [ScaleRec.pend, ScaleRec.modPend, SMap.get_set_self]; rfl

/-- A merge adds the slot's counts to the pending totals of its RUN, and leaves the merge queue. -/
theorem Ctx.mergeSlot_spec (k : Ctx) (c : Closed) : (k.mergeSlot c).mergeQ = k.mergeQ ∧
    (((k.mergeSlot c).rec! c.slot.tid).pend c.run).tot = ((k.rec! c.slot.tid).pend c.run).tot.add c.slot.totals := by
  have merged : (((k.modRec c.slot.tid fun x => x.modPend c.run fun p => p.merge c.slot).rec! c.slot.tid).pend c.run) =
      ((k.rec! c.slot.tid).pend c.run).merge c.slot := by
    rw [Ctx.rec!_modRec, ScaleRec.pend_modPend]
  unfold Ctx.mergeSlot
  dsimp only
  split
  · exact ⟨rfl, by rw [merged]; rfl⟩
  · split
    · refine ⟨rfl, ?_⟩
      rw [Ctx.rec!_modArith, Ctx.rec!_modRec, ScaleRec.pend_modPend, merged]
      rfl
    · exact ⟨rfl, by rw [merged]; rfl⟩

/-- The oldest closed slot of a core outside a layer is merged. -/
theorem exec_trackerMerge {n : CtxN} {s : State} {cl : Closed} {rest : List Closed} (h : (s.ctx n.val).mergeQ = cl :: rest)
    (hl : (s.core cl.core).layer = none) :
    Answers (.trackerMerge n) s (s.modCtx n.val fun x => ({ x with mergeQ := rest } : Ctx).mergeSlot cl) := by
  change execTrackerMerge n s = _
  simp only [execTrackerMerge, h, hl, Bool.false_and, Bool.false_eq_true, if_false]

/-! ## Descales (03 R55) -/

theorem Core.putDescales_ctx (k : Core) (ds : List (Nat × F32 × Ev)) : (k.putDescales ds).ctx = k.ctx := by
  unfold Core.putDescales
  induction ds generalizing k with
  | nil => rfl
  | cons d ds ih => rw [List.foldl_cons, ih, Core.setS_ctx]

/-- Descales of consecutive registers are put as scale registers are. -/
theorem Core.putDescales_range (k : Core) (b : Nat) (f : Nat → F32 × Ev) (l : Nat) :
    k.putDescales ((List.range l).map fun j => (b + j, f j)) = k.setSs b ((List.range l).map fun j => (f j).1) := by
  rw [Core.setSs, List.length_map, List.length_range, upFrom, List.zip_map', Core.putDescales, List.foldl_map, List.foldl_map]

/-- A product's registers take the descales of its channels. -/
theorem rs_productDescales (s : State) (k : Core) (n : Nat) (u : ScaleUse) (p : Product) {j : Nat} (hj : j < 64) :
    (k.putDescales (s.productDescales n u p)).rs (p.base.val + j) =
      (descaleOf (s.heldScale n u p.a 0) (s.heldScale n u p.b (p.chan + j))).1 := by
  rw [State.productDescales, Core.putDescales_range k p.base.val fun j => descaleOf (s.heldScale n u p.a 0) (s.heldScale n u p.b (p.chan + j))]
  refine Core.rs_setSs k _ ?_
  rw [List.getElem?_map, List.getElem?_range hj, Option.map_some]

/-- Every power of two of the normal range, decoded. -/
theorem f32_pow2F32_normal {x : Int} (lo : -126 ≤ x) (hi : x ≤ 127) : f32 (pow2F32 x) = .fin false (2 ^ 23) (x - 23) := by
  have hE : (x + 127).toNat * 2 ^ 23 < 2 ^ 31 := by omega
  obtain ⟨-, hs, hg⟩ := f32_signed (neg := false) hE
  rw [pow2F32_eq, f32_decode, hs, hg, Nat.mul_div_cancel _ (by decide), if_neg (by omega), if_neg (by omega), Nat.mul_mod_left]
  congr 1
  omega

/-- A power of two rounds to its code. -/
theorem roundF32_pow2 {j : Nat} {e x : Int} (h : j + e = x) (lo : -126 ≤ x) (hi : x ≤ 127) : roundF32 false (2 ^ j) e = (pow2F32 x, {}) := by
  have hcode : roundCode 1 false (2 ^ j) e = (x + 127).toNat * 2 ^ 23 := by
    apply roundCode_exact 1 false (pow_ne_zero j two_ne_zero)
    rw [magVal_pow2 (by omega), Nat.cast_pow, Nat.cast_ofNat, ← zpow_natCast, ← zpow_add₀ two_ne_zero]
    congr 1
    omega
  rw [roundF32_of_ne (pow_ne_zero j two_ne_zero), hcode, if_pos (by omega), pow2F32_eq]

/-- The descale of two powers of two is the reciprocal of their product (03 R55). -/
theorem descaleOf_pow2 {x y : Int} (hx : -126 ≤ x) (hx' : x ≤ 127) (hy : -126 ≤ y) (hy' : y ≤ 127) (lo : -127 ≤ x + y)
    (hi : x + y ≤ 126) :
    descaleOf (pow2F32 x) (pow2F32 y) = (pow2F32 (-(x + y)), {}) := by
  have hdiv : divBits 1 (2 ^ 23 * 2 ^ 23) = (2 ^ 81, -127) := by decide +kernel
  rw [descaleOf, f32_pow2F32_normal hx hx', f32_pow2F32_normal hy hy']
  have h0 : (2 ^ 23 * 2 ^ 23 == 0) = false := by decide
  simp only [mulNum, h0, hdiv, Bool.false_eq_true, if_false, bne_self_eq_false]
  refine roundF32_pow2 (j := 81) ?_ ?_ ?_ <;> omega

/-! ## The scale rule (03 R64) -/

/-- A whole number stands in the binade of its exponent. -/
theorem expOf_bounds {m : Nat} (hm : 0 < m) : (2 : Rat) ^ expOf m ≤ m ∧ (m : Rat) < 2 ^ (expOf m + 1) := by
  have h := expOf_add hm.ne' 0
  have hx : (0 : Rat) < (m : Rat) * 2 ^ (0 : Int) := natCast_mul_zpow_pos hm.ne' 0
  have lo := Int.zpow_log_le_self one_lt_two hx
  have hi := Int.lt_zpow_succ_log_self one_lt_two ((m : Rat) * 2 ^ (0 : Int))
  rw [← h] at lo hi
  simpa using And.intro lo hi

/-- The comparison of the scale rule, over the rationals. -/
theorem shifted_le_iff (m q : Nat) (k : Int) :
    (if 0 ≤ k then decide (q * 2 ^ k.toNat ≤ m) else decide (q ≤ m * 2 ^ (-k).toNat)) = true ↔ (q : Rat) * 2 ^ k ≤ m := by
  split_ifs with hk
  · obtain ⟨d, rfl⟩ := Int.eq_ofNat_of_zero_le hk
    rw [decide_eq_true_iff, zpow_natCast]
    exact_mod_cast Iff.rfl
  · obtain ⟨d, hd⟩ := Int.eq_ofNat_of_zero_le (show 0 ≤ -k by omega)
    rw [decide_eq_true_iff, hd, show k = -(d : Int) by omega, zpow_neg, zpow_natCast, ← div_eq_mul_inv, div_le_iff₀ (by positivity)]
    exact_mod_cast Iff.rfl

/-- The exponent of a ratio is the floor of its base-2 logarithm. -/
theorem log2Ratio_spec {m q : Nat} (e g : Int) (hm : 0 < m) (hq : 0 < q) : let x := log2Ratio m e q g
    (2 : Rat) ^ x * (q * (2 : Rat) ^ g) ≤ m * (2 : Rat) ^ e ∧ m * (2 : Rat) ^ e < (2 : Rat) ^ (x + 1) * (q * (2 : Rat) ^ g) := by
  obtain ⟨mlo, mhi⟩ := expOf_bounds hm
  obtain ⟨qlo, qhi⟩ := expOf_bounds hq
  set k := expOf m - expOf q with hk
  have shift : ∀ y : Int, (2 : Rat) ^ (y + e - g) * (q * 2 ^ g) = q * 2 ^ y * 2 ^ e := fun y => by
    rw [zpow_sub₀ two_ne_zero, zpow_add₀ two_ne_zero]; field_simp
  have step : ∀ y : Int, (q : Rat) * 2 ^ y ≤ m → (m : Rat) < q * 2 ^ (y + 1) → let x := y + e - g
      (2 : Rat) ^ x * (q * (2 : Rat) ^ g) ≤ m * (2 : Rat) ^ e ∧ m * (2 : Rat) ^ e < (2 : Rat) ^ (x + 1) * (q * (2 : Rat) ^ g) := by
    intro y lo hi
    dsimp only
    rw [show y + e - g + 1 = y + 1 + e - g by ring, shift, shift]
    exact ⟨by gcongr, by gcongr⟩
  have above : (m : Rat) < q * 2 ^ (k + 1) :=
    calc (m : Rat) < 2 ^ (expOf m + 1) := mhi
      _ = 2 ^ expOf q * 2 ^ (k + 1) := by rw [← zpow_add₀ two_ne_zero]; congr 1; omega
      _ ≤ q * 2 ^ (k + 1) := by gcongr
  have below : (q : Rat) * 2 ^ (k - 1) ≤ m :=
    calc (q : Rat) * 2 ^ (k - 1) ≤ 2 ^ (expOf q + 1) * 2 ^ (k - 1) := by gcongr
      _ = 2 ^ expOf m := by rw [← zpow_add₀ two_ne_zero]; congr 1; omega
      _ ≤ m := mlo
  have hlog : log2Ratio m e q g = (if (q : Rat) * 2 ^ k ≤ m then k else k - 1) + e - g := by
    simp only [log2Ratio, ← hk, shifted_le_iff]
  rw [hlog]
  split_ifs with hok
  · exact step k hok above
  · exact step (k - 1) below (by rw [sub_add_cancel]; exact not_le.1 hok)

/-! ## The scales of the next step (03 R68) -/

/-- Outside a step an event is charged to the flags alone. -/
theorem Ctx.charge_outside {k : Ctx} (h : k.inStep = false) (e : Ev) (grad : Bool) : ∃ a, k.charge e grad = { k with arith := a } := by
  have outside : ∀ a, ({ k with arith := a } : Ctx).overflow = { k with arith := a } := fun a => by
    rw [Ctx.overflow, if_pos]
    exact Bool.not_eq_true' _ ▸ h
  unfold Ctx.charge
  dsimp only
  split
  · exact ⟨_, outside _⟩
  · exact ⟨_, rfl⟩

/-- What the writing of a core's descales does, where no partial reset runs: nothing, or it puts them into the core, or into what the context
keeps for the core. -/
theorem State.writeDescales_cases {s : State} (hb : s.rst.busy = false) (n : Nat) (u : ScaleUse) (only : Option (BitVec 32)) (held : Bool)
    (c : Nat) : let ds := s.descales n u only c
    State.writeDescales n u only held s c = s ∨
      State.writeDescales n u only held s c = (s.modCore c fun k => k.putDescales ds).arith n (sumEv (·.2.2) ds) false ∨
      State.writeDescales n u only held s c =
        (s.recordDescales n c ((SMap.get none (s.ctx n).saved c).getD {}) ds).arith n (sumEv (·.2.2) ds) false := by
  unfold State.writeDescales
  simp only [hb, Bool.false_and, Bool.false_eq_true, if_false]
  split
  · exact .inl rfl
  · split
    · split
      · exact .inl rfl
      · exact .inr (.inl rfl)
    · generalize (held && _ : Bool) = waits
      cases waits
      · exact .inr (.inr rfl)
      · exact .inl rfl

/-- Where descales are written for context `n`: cores, bytes, and of the context its saved cores and its flags. -/
structure DescalesFor (n : Nat) (s t : State) : Prop where
  frame : t = { s with ctxs := t.ctxs, cores := t.cores, mem := t.mem }
  ctx : ∃ xs a, t.ctx n = { s.ctx n with saved := xs, arith := a }

namespace DescalesFor
variable {n : Nat} {s t : State}

theorem refl (n : Nat) (s : State) : DescalesFor n s s := ⟨rfl, _, _, rfl⟩

theorem clean (h : DescalesFor n s t) (hs : CleanStore s) : CleanStore t := by
  rw [h.frame]; exact ⟨hs.bad, hs.arm, hs.rst⟩

theorem modCore (h : DescalesFor n s t) (c : Nat) (f : Core → Core) : DescalesFor n s (t.modCore c f) :=
  ⟨by rw [h.frame]; rfl, h.ctx⟩

theorem setBytes (h : DescalesFor n s t) (a : Nat) (bs : List Byte) : DescalesFor n s (t.setBytes a bs) :=
  ⟨by rw [h.frame]; rfl, h.ctx⟩

theorem save (h : DescalesFor n s t) (f : SMap (Option Core) → SMap (Option Core)) :
    DescalesFor n s (t.modCtx n fun x => { x with saved := f x.saved }) := by
  obtain ⟨xs, a, hctx⟩ := h.ctx
  exact ⟨by rw [h.frame]; rfl, _, _, by rw [State.ctx_modCtx, hctx]⟩

theorem arith (h : DescalesFor n s t) (hs : (s.ctx n).inStep = false) (e : Ev) (grad : Bool) : DescalesFor n s (t.arith n e grad) := by
  obtain ⟨xs, a, hctx⟩ := h.ctx
  obtain ⟨b, hb⟩ := Ctx.charge_outside (k := t.ctx n) (by rw [hctx]; exact hs) e grad
  refine ⟨by rw [h.frame]; rfl, xs, b, ?_⟩
  rw [State.arith, State.ctx_modCtx, hb, hctx]

theorem storeScales (h : DescalesFor n s t) (hs : CleanStore s) (a : Nat) (ds : List (Nat × F32 × Ev)) :
    DescalesFor n s (ds.foldl (State.storeScale n a) t) := by
  induction ds generalizing t with
  | nil => exact h
  | cons d ds ih =>
    refine ih ?_
    rw [State.storeScale, State.store_clean (h.clean hs)]
    exact h.setBytes _ _

theorem recordDescales (h : DescalesFor n s t) (hs : CleanStore s) (c : Nat) (k : Core) (ds : List (Nat × F32 × Ev)) :
    DescalesFor n s (t.recordDescales n c k ds) := by
  have saved := h.save fun xs => SMap.set none xs c (some (k.putDescales ds))
  unfold State.recordDescales
  generalize State.modCtx t n _ = v at saved ⊢
  dsimp only
  split
  · exact saved.storeScales hs _ _
  · exact saved

theorem writeDescales (h : DescalesFor n s t) (hs : CleanStore s) (hout : (s.ctx n).inStep = false) (u : ScaleUse) (only : Option (BitVec 32))
    (held : Bool) (c : Nat) : DescalesFor n s (State.writeDescales n u only held t c) := by
  rcases State.writeDescales_cases (h.clean hs).rst n u only held c with e | e | e <;> rw [e]
  · exact h
  · exact (h.modCore _ _).arith hout _ _
  · exact (h.recordDescales hs _ _ _).arith hout _ _

theorem quarter (h : DescalesFor n s t) (q : Nat) : t.quarter q = s.quarter q := by rw [h.frame]; rfl

theorem coreExists (h : DescalesFor n s t) (c : Nat) : t.coreExists c = s.coreExists c := by rw [h.frame]; rfl

/-- Over the same bytes the operands of products hold the same scales. -/
theorem heldScale (h : DescalesFor n s t) (hmem : t.mem = s.mem) (u : ScaleUse) (tid : BitVec 32) (ch : Nat) :
    t.heldScale n u tid ch = s.heldScale n u tid ch := by
  obtain ⟨xs, a, hctx⟩ := h.ctx
  have lastA : t.lastA = s.lastA := by rw [h.frame]
  have lastB : t.lastB = s.lastB := by rw [h.frame]
  have bytes : t.bytes = s.bytes := by funext b m; rw [State.bytes, hmem]; rfl
  simp only [State.heldScale, State.carriedScale, State.copyScales, lastA, lastB, hctx, bytes]
  rfl

theorem descales (h : DescalesFor n s t) (hmem : t.mem = s.mem) (u : ScaleUse) (only : Option (BitVec 32)) (c : Nat) :
    t.descales n u only c = s.descales n u only c := by
  obtain ⟨xs, a, hctx⟩ := h.ctx
  have products : t.products n only c = s.products n only c := by simp only [State.products, hctx]
  have pairs : t.productDescales n u = s.productDescales n u := by
    funext p
    simp only [State.productDescales, h.heldScale hmem]
  rw [State.descales, products, pairs]
  rfl

end DescalesFor

/-- Context `n` has no save record of a core in T1. -/
def NoRecord (n : Nat) (s : State) : Prop := ∀ x, ((SMap.get none (s.ctx n).saved x).getD {}).ctx = none

theorem Ctx.charge_saved (k : Ctx) (e : Ev) (grad : Bool) : (k.charge e grad).saved = k.saved := by
  unfold Ctx.charge Ctx.overflow
  dsimp only
  split
  · split
    · rfl
    · split <;> rfl
  · rfl

namespace NoRecord
variable {n : Nat} {s : State} (h : NoRecord n s)
include h

theorem arith (e : Ev) (grad : Bool) : NoRecord n (s.arith n e grad) := fun x => by
  rw [State.arith, State.ctx_modCtx, Ctx.charge_saved]; exact h x

/-- Without a record the descales of a core that the quarter does not run are kept in the context alone. -/
theorem recordDescales (c : Nat) (ds : List (Nat × F32 × Ev)) :
    s.recordDescales n c ((SMap.get none (s.ctx n).saved c).getD {}) ds =
      s.modCtx n fun x => { x with saved := SMap.set none x.saved c (some (((SMap.get none (s.ctx n).saved c).getD {}).putDescales ds)) } := by
  simp [State.recordDescales, h c]

theorem save (c : Nat) (ds : List (Nat × F32 × Ev)) : NoRecord n (s.modCtx n fun x =>
    { x with saved := SMap.set none x.saved c (some (((SMap.get none (s.ctx n).saved c).getD {}).putDescales ds)) }) := fun x => by
  rw [State.ctx_modCtx]
  dsimp only
  rw [SMap.get_set]
  split
  · rw [Option.getD_some, Core.putDescales_ctx]; exact h c
  · exact h x

variable (hb : s.rst.busy = false) (u : ScaleUse) (only : Option (BitVec 32)) (held : Bool) (c : Nat)
include hb

theorem writeDescales : NoRecord n (State.writeDescales n u only held s c) := by
  rcases State.writeDescales_cases hb n u only held c with e | e | e <;> rw [e]
  · exact h
  · exact NoRecord.arith (s := s.modCore c _) h _ _
  · rw [h.recordDescales]
    exact (h.save c _).arith _ _

theorem writeDescales_mem : (State.writeDescales n u only held s c).mem = s.mem := by
  obtain ⟨ks, xs, e⟩ := State.writeDescales_frame n u only held s c (h c) hb
  rw [e]

theorem writeDescales_other {x : Nat} (hx : x ≠ c) : (State.writeDescales n u only held s c).core x = s.core x := by
  rcases State.writeDescales_cases hb n u only held c with e | e | e <;> rw [e]
  · exact State.core_modCore_other s (fun k => k.putDescales (s.descales n u only c)) hx.symm
  · rw [h.recordDescales]; rfl

end NoRecord

/-- A core that runs the context and no task takes the descales. -/
theorem State.writeDescales_core {n : Nat} {s : State} (hb : s.rst.busy = false) (u : ScaleUse) (only : Option (BitVec 32)) {c : Nat}
    (hex : s.coreExists c = true) (ht : (s.core c).task = none) (hcur : (s.quarter (quarterOf c)).cur = some n)
    (hph : (s.quarter (quarterOf c)).phase ≠ 3) :
    (State.writeDescales n u only true s c).core c = (s.core c).putDescales (s.descales n u only c) := by
  simp only [State.writeDescales, hex, ht, hcur, hb, hph, Bool.not_true, Bool.false_eq_true, if_false, beq_self_eq_true, Bool.true_and,
    bne_iff_ne, ne_eq, not_false_eq_true, if_true, Bool.false_and, Option.isSome_none]
  exact State.core_modCore s c fun k => k.putDescales (s.descales n u only c)

/-! ### All cores -/

/-- The firmware writes the descales of every core. -/
def State.descaleCores (n : Nat) (u : ScaleUse) (s : State) (cs : List Nat) : State := cs.foldl (State.writeDescales n u none true) s

section
variable {n : Nat} {s : State} (hs : CleanStore s) (hout : (s.ctx n).inStep = false) (u : ScaleUse)
include hs hout

theorem DescalesFor.descaleCores {t : State} (h : DescalesFor n s t) (cs : List Nat) : DescalesFor n s (t.descaleCores n u cs) := by
  induction cs generalizing t with
  | nil => exact h
  | cons c cs ih => exact ih (h.writeDescales hs hout u none true c)

omit hout in
/-- Without a record no byte changes, and a core that is not visited stays as it is. -/
theorem State.descaleCores_unvisited (hr : NoRecord n s) (cs : List Nat) :
    (s.descaleCores n u cs).mem = s.mem ∧ ∀ x, x ∉ cs → (s.descaleCores n u cs).core x = s.core x := by
  induction cs generalizing s with
  | nil => exact ⟨rfl, fun _ _ => rfl⟩
  | cons c cs ih =>
    have clean : CleanStore (State.writeDescales n u none true s c) := by
      obtain ⟨ks, xs, e⟩ := State.writeDescales_frame n u none true s c (hr c) hs.rst
      rw [e]; exact ⟨hs.bad, hs.arm, hs.rst⟩
    obtain ⟨mem, core⟩ := ih clean (hr.writeDescales hs.rst u none true c)
    refine ⟨mem.trans (hr.writeDescales_mem hs.rst u none true c), fun x hx => ?_⟩
    rw [List.mem_cons, not_or] at hx
    exact (core x hx.2).trans (hr.writeDescales_other hs.rst u none true c hx.1)

/-- A core that is visited once, runs the context and no task, takes the descales. -/
theorem State.descaleCores_core (hr : NoRecord n s) {cs : List Nat} (hcs : cs.Nodup) {x : Nat} (hx : x ∈ cs) (hex : s.coreExists x = true)
    (ht : (s.core x).task = none) (hcur : (s.quarter (quarterOf x)).cur = some n) (hph : (s.quarter (quarterOf x)).phase ≠ 3) :
    (s.descaleCores n u cs).core x = (s.core x).putDescales (s.descales n u none x) := by
  induction cs generalizing s with
  | nil => exact nomatch hx
  | cons c cs ih =>
    obtain ⟨hc, hcs⟩ := List.nodup_cons.1 hcs
    have first := (DescalesFor.refl n s).writeDescales hs hout u none true c
    have kept := hr.writeDescales hs.rst u none true c
    have mem := hr.writeDescales_mem hs.rst u none true c
    rcases eq_or_ne x c with rfl | hne
    · exact ((State.descaleCores_unvisited (first.clean hs) u kept cs).2 x hc).trans (State.writeDescales_core hs.rst u none hex ht hcur hph)
    · have other := hr.writeDescales_other hs.rst u none true c hne
      obtain ⟨xs, a, hctx⟩ := first.ctx
      have run := ih (s := State.writeDescales n u none true s c) (first.clean hs) (by rw [hctx]; exact hout) kept hcs
        ((List.mem_cons.1 hx).resolve_left hne) (by rw [first.coreExists]; exact hex) (by rw [other]; exact ht)
        (by rw [first.quarter]; exact hcur) (by rw [first.quarter]; exact hph)
      rwa [other, first.descales mem] at run

omit hout in
/-- The firmware's write over good words visits every core. -/
theorem State.firmDescales_clean : s.firmDescales n u = s.descaleCores n u (List.range 320) := by
  rw [State.firmDescales, State.allDescales, State.badScales_clean hs]
  rfl

end

/-- STEP_SCALES_FORMED outside a step forms the scales and writes the descales. -/
theorem exec_stepScalesFormed {n : CtxN} {s : State} (hout : (s.ctx n.val).inStep = false) (hp : (s.ctx n.val).prog ≠ none) :
    Answers (.stepScalesFormed n) s
      ((s.modCtx n.val fun k => k.formScalesNow (k.step.isReplay ((k.step.applied + 1) % 2 ^ 48))).firmDescales n.val (s.ctx n.val).nextUse) := by
  obtain ⟨p, hp⟩ := Option.ne_none_iff_exists'.1 hp
  change execStepScalesFormed n s 0 = _
  simp only [execStepScalesFormed, hout, hp, Option.isNone_some, Bool.or_self, Bool.false_eq_true, if_false, State.cross_zero]

/-- What forming the next step's scales leaves, and what it forms; a replay keeps the scales of the first attempt (03 R65, R68). -/
theorem Ctx.formScalesNow_spec (k : Ctx) (replay : Bool) : (k.formScalesNow replay).formed = some (k.step.applied + 1) ∧
    (k.formScalesNow replay).recs = (if replay = true ∧ k.formed = some (k.step.applied + 1) then k.recs else k.formStep.recs) ∧
    (k.formScalesNow replay).saved = k.saved ∧ (k.formScalesNow replay).inStep = k.inStep := by
  have cond : (replay && k.formed == some (k.step.applied + 1)) = true ↔ replay = true ∧ k.formed = some (k.step.applied + 1) := by
    rw [Bool.and_eq_true, beq_iff_eq]
  unfold Ctx.formScalesNow
  simp only [cond]
  split_ifs with h
  · exact ⟨h.2, rfl, rfl, rfl⟩
  · exact ⟨rfl, rfl, rfl, rfl⟩

theorem stepScalesFormed_spec {n : CtxN} {s : State} (hout : (s.ctx n.val).inStep = false) (hp : (s.ctx n.val).prog ≠ none)
    (hs : CleanStore s) :
    ∃ t, Answers (.stepScalesFormed n) s t ∧ (t.ctx n.val).formed = some ((s.ctx n.val).step.applied + 1) ∧
      (t.ctx n.val).recs = (if (s.ctx n.val).step.isReplay (((s.ctx n.val).step.applied + 1) % 2 ^ 48) ∧
        (s.ctx n.val).formed = some ((s.ctx n.val).step.applied + 1) then (s.ctx n.val).recs else (s.ctx n.val).formStep.recs) ∧
      t = { s with ctxs := t.ctxs, cores := t.cores, mem := t.mem } ∧
      ((∀ x, ((SMap.get none (s.ctx n.val).saved x).getD {}).ctx = none) → t.mem = s.mem ∧
        (∀ x, x < 320 → s.coreExists x = true → (s.core x).task = none →
          (s.quarter (x / 80)).cur = some n.val → (s.quarter (x / 80)).phase ≠ 3 →
          t.core x = (s.core x).putDescales (t.descales n.val (s.ctx n.val).nextUse none x))) := by
  set u := (s.ctx n.val).nextUse
  set v := s.modCtx n.val fun k => k.formScalesNow (k.step.isReplay ((k.step.applied + 1) % 2 ^ 48)) with hv
  obtain ⟨formed, recs, saved, inStep⟩ :=
    (s.ctx n.val).formScalesNow_spec ((s.ctx n.val).step.isReplay (((s.ctx n.val).step.applied + 1) % 2 ^ 48))
  have ctxv : v.ctx n.val = (s.ctx n.val).formScalesNow ((s.ctx n.val).step.isReplay (((s.ctx n.val).step.applied + 1) % 2 ^ 48)) := by
    rw [hv, State.ctx_modCtx]
  have clean : CleanStore v := ⟨hs.bad, hs.arm, hs.rst⟩
  have outv : (v.ctx n.val).inStep = false := by rw [ctxv, inStep]; exact hout
  have run := exec_stepScalesFormed hout hp
  rw [State.firmDescales_clean clean] at run
  have all := (DescalesFor.refl n.val v).descaleCores clean outv u (List.range 320)
  set t := v.descaleCores n.val u (List.range 320)
  obtain ⟨xs, a, hctx⟩ := all.ctx
  refine ⟨t, run, by rw [hctx, ctxv, ← formed], by rw [hctx, ctxv, ← recs], all.frame, fun hnone => ?_⟩
  have none : NoRecord n.val v := fun x => by rw [ctxv, saved]; exact hnone x
  obtain ⟨mem, -⟩ := State.descaleCores_unvisited clean u none (List.range 320)
  refine ⟨mem, fun x hx hex ht hcur hph => ?_⟩
  rw [all.descales mem]
  exact State.descaleCores_core clean outv u none List.nodup_range (List.mem_range.2 hx) hex ht hcur hph

/-- Settles O8: slots, merge and descales by what each command leaves; over all cores by induction on those visited. -/
theorem trackerSlotsOpenCloseAndMerge : Obligations.TrackerSlotsOpenCloseAndMerge := by
  intro c n w s k
  refine ⟨fun hc hk hd => ⟨?topen, ?tclose⟩, ?merge, fun hout hp hs => stepScalesFormed_spec hout hp hs,
    fun p u j hj => rs_productDescales s k n.val u p hj, fun x y hx hx' hy hy' lo hi => descaleOf_pow2 hx hx' hy hy' lo hi,
    fun m q e g hm hq => log2Ratio_spec e g hm hq⟩
  case topen =>
    intro hw hi hfree hl hrec
    refine ⟨_, s.newSlot n.val _ (k.ra w.b.toNat).toNat w.imm.toNat k.inRerun, exec_topen hc hk hd rfl hw hi hfree hrec, ?_, ?_, ?_,
      rfl, rfl, rfl, rfl, rfl, rfl, rfl, rfl, rfl, rfl, rfl, rfl⟩
    all_goals rw [State.core_setCore]
    · exact Core.slot_opened ..
    · exact Core.slotPO_opened ..
    · rfl
  case tclose =>
    intro sl hw hi hpo hsl hr hl hlate
    refine ⟨_, exec_tclose hc hk hd hw hi hpo hsl hr hl hlate, ?_, ?_, ?_, ?_, rfl⟩
    · rw [State.core_modCtx, State.core_setCore]; exact Core.slot_closed ..
    · rw [State.core_modCtx, State.core_setCore]; exact Core.slotPO_closed ..
    · rw [State.core_modCtx, State.core_setCore]; rfl
    · rw [State.ctx_modCtx]; rfl
  case merge =>
    intro cl rest hq hl
    obtain ⟨queue, totals⟩ := ({ s.ctx n.val with mergeQ := rest } : Ctx).mergeSlot_spec cl
    refine ⟨_, exec_trackerMerge hq hl, ?_, rfl, rfl, ?_⟩
    · rw [State.ctx_modCtx, queue]
    · rw [State.ctx_modCtx]
      exact ⟨congrArg Totals.elements totals, congrArg Totals.saturated totals, congrArg Totals.underflow totals,
        congrArg Totals.nonfinite totals⟩

end Sys2Proof.Machine

/-! Loads of packages: the checks, the chunks, the end of a load, and its copy to the cache (08 R197 to R207). -/

namespace Sys2Proof.Machine
open Sys2Proof

/-! ## The books that a charge in T1 reads (09 R222, R501) -/

/-- Allocations, fills and lasts are the same, and contexts differ in their host parts alone. -/
structure SameBooks (s t : State) : Prop where
  allocs : t.allocs = s.allocs
  fills : t.fills = s.fills
  lastA : t.lastA = s.lastA
  lastB : t.lastB = s.lastB
  ctx : ∀ m, ∃ h, t.ctx m = { s.ctx m with host := h }

namespace SameBooks
variable {s t : State} (h : SameBooks s t)

theorem started (s : State) (n op : Nat) (tag : BitVec 16) : SameBooks s (s.started n op tag) := by
  refine ⟨rfl, rfl, rfl, rfl, fun m => ?_⟩
  rw [State.started, State.ctx_modCHost]
  split
  · exact ⟨_, rfl⟩
  · exact ⟨_, rfl⟩

include h

theorem mem (m : Nat) : (t.ctx m).mem = (s.ctx m).mem := by obtain ⟨_, e⟩ := h.ctx m; rw [e]
theorem sched (m : Nat) : (t.ctx m).sched = (s.ctx m).sched := by obtain ⟨_, e⟩ := h.ctx m; rw [e]
theorem step (m : Nat) : (t.ctx m).step = (s.ctx m).step := by obtain ⟨_, e⟩ := h.ctx m; rw [e]
theorem runs (m : Nat) : (t.ctx m).runs = (s.ctx m).runs := by obtain ⟨_, e⟩ := h.ctx m; rw [e]
theorem prog (m : Nat) : (t.ctx m).prog = (s.ctx m).prog := by obtain ⟨_, e⟩ := h.ctx m; rw [e]

theorem last (i : Nat) : t.last i = s.last i := by rw [State.last, h.lastA, h.lastB]; rfl

theorem usedRanges : t.usedRanges 1 = s.usedRanges 1 := by
  simp [State.usedRanges, State.areasOf, h.allocs, h.lastA, h.lastB, h.mem, h.sched]

theorem fillRanges : t.fillRanges 1 = s.fillRanges 1 := by simp [State.fillRanges, State.areasOf, h.fills, h.mem, h.sched]

theorem findRoom (place units more : Nat) : t.findRoom 1 place units more = s.findRoom 1 place units more := by
  simp [State.findRoom, State.heldUnits, h.usedRanges, h.fillRanges, h.step, h.runs]

theorem charge (m place units : Nat) : t.charge m 1 place units = s.charge m 1 place units := by
  simp [State.charge, Ctx.usedIn, h.mem, h.step, h.findRoom]

theorem areas : t.areas = s.areas := by simp [State.areas, h.mem]

theorem takeArea (region bytes : Nat) : t.takeArea region bytes = s.takeArea region bytes := by
  rw [State.takeArea, h.areas, h.usedRanges, h.fillRanges]; rfl

/-- The same change of a context, where host parts have no part in it. -/
theorem modCtx (n : Nat) {f : Ctx → Ctx} (hf : ∀ k x, f { k with host := x } = { f k with host := x }) :
    SameBooks (s.modCtx n f) (t.modCtx n f) := by
  refine ⟨h.allocs, h.fills, h.lastA, h.lastB, fun m => ?_⟩
  obtain ⟨x, e⟩ := h.ctx m
  by_cases hm : n = m
  · subst hm
    exact ⟨x, by rw [State.ctx_modCtx, State.ctx_modCtx, e, hf]⟩
  · exact ⟨x, by rw [State.ctx_modCtx_other _ _ hm, State.ctx_modCtx_other _ _ hm, e]⟩

theorem setLast (i : Nat) (l : Last) : SameBooks (s.setLast i l) (t.setLast i l) := by
  unfold State.setLast
  split
  · exact ⟨h.allocs, h.fills, h.lastA, rfl, h.ctx⟩
  · exact ⟨h.allocs, h.fills, rfl, h.lastB, h.ctx⟩

theorem releaseLast (i : Nat) : SameBooks (s.releaseLast i) (t.releaseLast i) := by
  unfold State.releaseLast
  rw [h.last]
  dsimp only
  split
  · exact h
  · obtain ⟨allocs, fills, lastA, lastB, ctx⟩ := (h.setLast i _).modCtx 16
      (f := fun k => k.modMem fun m => m.setUsed 1 (m.used 1 - (s.last i).units)) fun _ _ => rfl
    exact ⟨allocs, congrArg (· ++ _) fills, lastA, lastB, ctx⟩

theorem beginLast (i : Nat) : SameBooks (s.beginLast i) (t.beginLast i) := by
  unfold State.beginLast
  split
  · exact h
  · dsimp only
    rw [(h.releaseLast i).last]
    exact (h.releaseLast i).setLast i _

end SameBooks

/-! ## The lasts (08 R205, R207) -/

@[simp] theorem State.last_setLast (s : State) (i : Nat) (l : Last) : (s.setLast i l).last i = l := by
  unfold State.setLast State.last
  split <;> rfl

/-- Only fills, lasts and the memory part of contexts change; adapter sets stay. -/
structure BooksOnly (s t : State) : Prop where
  rest : t = { s with ctxs := t.ctxs, fills := t.fills, lastA := t.lastA, lastB := t.lastB }
  host : ∀ m, (t.ctx m).host = (s.ctx m).host
  adapters : ∀ m, (t.ctx m).mem.adapters = (s.ctx m).mem.adapters

namespace BooksOnly
variable {s t u : State}

theorem refl (s : State) : BooksOnly s s := ⟨rfl, fun _ => rfl, fun _ => rfl⟩

theorem trans (h : BooksOnly s t) (h' : BooksOnly t u) : BooksOnly s u :=
  ⟨h'.rest.trans (by rw [h.rest]), fun m => (h'.host m).trans (h.host m), fun m => (h'.adapters m).trans (h.adapters m)⟩

theorem setLast (s : State) (i : Nat) (l : Last) : BooksOnly s (s.setLast i l) := by
  unfold State.setLast
  split
  · exact ⟨rfl, fun _ => rfl, fun _ => rfl⟩
  · exact ⟨rfl, fun _ => rfl, fun _ => rfl⟩

theorem setUsed (s : State) (n tier : Nat) (f : CtxMem → Nat) :
    BooksOnly s (s.modCtx n fun k => k.modMem fun m => m.setUsed tier (f m)) := by
  refine ⟨rfl, State.host_modCtx s n fun _ => rfl, fun m => ?_⟩
  by_cases h : n = m
  · subst h
    rw [State.ctx_modCtx, Ctx.modMem_mem, CtxMem.setUsed]
    split
    · rfl
    · split <;> rfl
  · rw [State.ctx_modCtx_other _ _ h]

theorem startFill (s : State) (tier base units : Nat) (waiter : Option (Nat × BitVec 16)) (retire : Option Nat) :
    BooksOnly s (s.startFill tier base units waiter retire) := ⟨rfl, fun _ => rfl, fun _ => rfl⟩

theorem releaseLast (s : State) (i : Nat) : BooksOnly s (s.releaseLast i) := by
  unfold State.releaseLast
  dsimp only
  split
  · exact refl s
  · exact ((setLast s i _).trans (setUsed _ 16 1 _)).trans (startFill ..)

theorem releaseStage (s : State) (l : Load) : BooksOnly s (s.releaseStage l) := by
  unfold State.releaseStage
  split
  · exact refl s
  · exact (setUsed s l.ctx 2 _).trans (startFill ..)

theorem beginLast (s : State) (i : Nat) : BooksOnly s (s.beginLast i) := by
  unfold State.beginLast
  split
  · exact refl s
  · exact (releaseLast s i).trans (setLast ..)

end BooksOnly

/-- A last whose space is released has none, and keeps its generation. -/
theorem State.releaseLast_last (s : State) (i : Nat) :
    ((s.releaseLast i).last i).base = none ∧ ((s.releaseLast i).last i).gen = (s.last i).gen := by
  unfold State.releaseLast
  dsimp only
  split
  · exact ⟨‹_›, rfl⟩
  · have emptied := State.last_setLast s i { s.last i with base := none, units := 0, size := 0, copies := [] }
    exact ⟨congrArg Last.base emptied, (congrArg Last.gen emptied).trans rfl⟩

/-- A last that takes a load is LOADING, without space, and keeps its generation. -/
theorem State.beginLast_last (s : State) {i : Nat} (hi : i ≠ 0) :
    ((s.beginLast i).last i).st = 1 ∧ ((s.beginLast i).last i).base = none ∧ ((s.beginLast i).last i).gen = (s.last i).gen := by
  obtain ⟨base, gen⟩ := s.releaseLast_last i
  rw [State.beginLast, if_neg (by simpa using hi)]
  dsimp only
  rw [State.last_setLast]
  exact ⟨rfl, base, gen⟩

/-! ## READ requests (08 R202, 13 R337) -/

/-- READs that one load has outstanding on a queue pair. -/
def Load.readsOn (l : Load) (q : Nat) : Nat := if l.source == 0 && l.qp == q then l.asked - l.answered else 0

theorem State.readsOut_eq (s : State) (q : Nat) : s.readsOut q = (s.loads.map (Load.readsOn · q)).sum := by
  unfold State.readsOut
  induction s.loads with
  | nil => rfl
  | cons l ls ih =>
    rw [List.map_cons, List.sum_cons, ← ih, Load.readsOn]
    by_cases h : (l.source == 0 && l.qp == q) = true
    · simp [h]
    · simp [h]

/-- One more READ adds at most one to those outstanding on the load's queue pair, and none on another. -/
theorem Load.readsOn_asked (l : Load) (q : Nat) :
    ({ l with asked := l.asked + 1 } : Load).readsOn q ≤ l.readsOn q + if l.qp = q then 1 else 0 := by
  unfold Load.readsOn Load.answered
  dsimp only
  grind

theorem State.readsOut_askHost {s : State} {k : Nat} {l : Load} (hl : s.loads[k]? = some l) (q : Nat) :
    (s.askHost k).readsOut q ≤ s.readsOut q + if l.qp = q then 1 else 0 := by
  have hk : k < s.loads.length := (List.getElem?_eq_some_iff.1 hl).1
  have asked : (s.askHost k).loads = s.loads.modify k fun x => { x with asked := l.asked + 1 } := by
    unfold State.askHost
    simp only [hl]
    rfl
  have sum : ∀ f : Load → Load, ((s.loads.modify k f).map (Load.readsOn · q)).sum + l.readsOn q =
      (s.loads.map (Load.readsOn · q)).sum + (f l).readsOn q := by
    intro f
    have parts := congrArg (fun ls => (ls.map (Load.readsOn · q)).sum) (List.take_append_drop k s.loads)
    rw [List.drop_eq_getElem_cons hk, (List.getElem?_eq_some_iff.1 hl).2] at parts
    simp only [List.modify_eq_take_cons_drop hk, (List.getElem?_eq_some_iff.1 hl).2, List.map_append, List.map_cons, List.sum_append,
      List.sum_cons] at parts ⊢
    omega
  rw [State.readsOut_eq, State.readsOut_eq, asked]
  have added : _ = _ + ({ l with asked := l.asked + 1 } : Load).readsOn q := sum fun x => { x with asked := l.asked + 1 }
  have := l.readsOn_asked q
  omega

/-- At most 16 READs are outstanding on a queue pair, if so before. -/
theorem State.askLoads_few {s : State} (h : ∀ q, s.readsOut q ≤ 16) : ∀ q, s.askLoads.readsOut q ≤ 16 := by
  refine List.foldlRecOn (motive := fun s : State => ∀ q, s.readsOut q ≤ 16) _ _ h fun s h k _ => ?_
  refine List.foldlRecOn (motive := fun s : State => ∀ q, s.readsOut q ≤ 16) _ _ h fun s h i _ q => ?_
  split
  · rename_i l hl
    split
    · rename_i may
      have room : s.readsOut l.qp < 16 := by simp only [Bool.and_eq_true, decide_eq_true_eq] at may; exact may.2
      have more := State.readsOut_askHost hl q
      by_cases hq : l.qp = q
      · subst hq; rw [if_pos rfl] at more; omega
      · rw [if_neg hq] at more; exact more.trans (h q)
    · exact h q
  · exact h q

/-- The requests for the header of a package go out, and nothing else changes. -/
theorem State.askHead_sends (s : State) (c : Cmd) (head : List Byte) : ∃ o, s.askHead c head = { s with out := o } ∧
    Out.rdmaRead (c.p 36 4) (c.p 24 8) (BitVec.ofNat 32 (c.p 32 4)) 64 ∈ o := by
  unfold State.askHead
  dsimp only
  split
  · exact ⟨_, rfl, by simp⟩
  · exact ⟨_, rfl, by simp⟩

/-! ## LOAD_PACKAGE (08 R197, R198, R203 to R205) -/

theorem State.packageStatus_congr {s t : State} (hshk : t.shk = s.shk) (hal : t.allocs = s.allocs) {n : Nat}
    (had : (t.ctx n).mem.adapters = (s.ctx n).mem.adapters) (c : Cmd) (h : List Byte) : t.packageStatus n c h = s.packageStatus n c h := by
  have sig : t.sigOk h = s.sigOk h := by rw [State.sigOk, State.pkgKeysList, hshk]; rfl
  have room : t.inT1Allocs = s.inT1Allocs := by funext m a len; rw [State.inT1Allocs, hal]; rfl
  have sets : (t.ctx n).mem.setLimitHit = (s.ctx n).mem.setLimitHit := by funext l; rw [CtxMem.setLimitHit, had]; rfl
  rw [State.packageStatus, sig, room, sets]
  rfl

/-- The checks of a package in their order (08 R197), once its first 64 bytes are there. -/
theorem State.packageStatus_order (n : Nat) (c : Cmd) (h : List Byte) (s : State) (hlen : 64 ≤ h.length) : let st := s.packageStatus n c h
    let head := headOk h = true ∧ (c.p 9 1 ≠ 1 → payloadOff h + headPayload h ≤ c.p 48 8)
    let sig := s.sigOk h = true
    let table := entriesOk (parseEntries h) (headPayload h) (c.p 10 1 != 0) = true
    let sets := (s.ctx n).mem.setLimitHit ((parseEntries h).map (·.set)) = false
    let place := c.p 10 1 = 0 → s.inT1Allocs n (c.p 40 8) (headPayload h) = true
    (¬ head → st = 0x234) ∧
    (head → headBytes h ≤ h.length → (¬ sig → st = 0x235) ∧ (sig → ¬ table → st = 0x234) ∧ (sig → table → ¬ sets → st = 0x23A) ∧
      (sig → table → sets → ¬ place → st = 0x210) ∧ (sig → table → sets → place → st = 0)) := by
  intro st head sig table sets place
  have come : (c.p 9 1 == 0 && decide (h.length < 64)) = false := by simp [Nat.not_lt.2 hlen]
  have good : (!headOk h || (c.p 9 1 != 1 && decide (c.p 48 8 < payloadOff h + headPayload h))) = true ↔ ¬ head := by
    simp only [head, Bool.or_eq_true, Bool.not_eq_true', Bool.and_eq_true, bne_iff_ne, decide_eq_true_eq, not_and_or, Bool.not_eq_true,
      Classical.not_imp, Nat.not_le]
  refine ⟨fun hh => ?_, fun hh hl => ?_⟩
  · simp only [st, State.packageStatus, come, good.2 hh, Bool.false_eq_true, if_false, if_true]
  · simp only [st, State.packageStatus, come, Bool.eq_false_iff.2 (mt good.1 (not_not.2 hh)), Nat.not_lt.2 hl, Bool.false_eq_true, if_false]
    refine ⟨fun h1 => ?_, fun h1 h2 => ?_, fun h1 h2 h3 => ?_, fun h1 h2 h3 h4 => ?_, fun h1 h2 h3 h4 => ?_⟩
    · rw [if_pos (by simpa [sig] using h1)]
    · rw [if_neg (by simpa using h1), if_pos (by simpa [table] using h2)]
    · rw [if_neg (by simpa using h1), if_neg (by simpa using h2), if_pos (by simpa [sets] using h3)]
    · rw [if_neg (by simpa using h1), if_neg (by simpa using h2), if_neg (by simpa using h3), if_pos (by simpa [place] using h4)]
    · rw [if_neg (by simpa using h1), if_neg (by simpa using h2), if_neg (by simpa using h3), if_neg (by simpa [place] using h4)]

section
variable {n : CtxId} {tag : Tag} {head : List Byte} {c : Cmd} {s : State} (hb : Begins s n.val 0x20 tag c)
include hb

/-- A check before the header fails. -/
theorem exec_loadPackage_early (ha : c.p 8 1 ≤ 1) (h : s.packageEarly n.val c ≠ 0) :
    exec (.loadPackage n tag head) s = .next ((s.started n.val 0x20 tag).finish n.val 0x20 tag (s.packageEarly n.val c) 0 0) := by
  change execLoadPackage n tag head s = _
  rw [execLoadPackage, State.commandIf_runs hb (by simp [ha, State.headWaits, h])]
  exact congrArg Host.Outcome.next (if_pos (bne_iff_ne.2 h))

/-- With 16 READs outstanding on its queue pair the command waits (13 R337). -/
theorem exec_loadPackage_waits (h0 : s.packageEarly n.val c = 0) (hsrc : c.p 9 1 = 0) (hq : 16 ≤ s.readsOut (c.p 36 4)) :
    exec (.loadPackage n tag head) s = .next s := by
  change execLoadPackage n tag head s = _
  simp [execLoadPackage, State.commandIf, hb.cmd, State.headWaits, h0, hsrc, hq]

end

/-- The state in which a package from the host is judged: its last is taken, and its header is asked for. -/
def State.headRead (s : State) (n : Nat) (tag : BitVec 16) (c : Cmd) (head : List Byte) : State :=
  ((s.started n 0x20 tag).beginLast (c.p 10 1)).askHead c head

/-- What judging a package from the host finds: only the books, the command's mark and what goes out are new. -/
structure HeadRead (s v : State) (n : Nat) (tag : BitVec 16) (c : Cmd) : Prop where
  books : ∃ o, BooksOnly { s.started n 0x20 tag with out := o } v
  asks : Out.rdmaRead (c.p 36 4) (c.p 24 8) (BitVec.ofNat 32 (c.p 32 4)) 64 ∈ v.out
  charge : SameBooks (s.beginLast (c.p 10 1)) v

theorem State.headRead_spec (s : State) (n : Nat) (tag : BitVec 16) (c : Cmd) (head : List Byte) :
    HeadRead s (s.headRead n tag c head) n tag c := by
  set u := (s.started n 0x20 tag).beginLast (c.p 10 1) with hu
  obtain ⟨o, hv, asks⟩ := u.askHead_sends c head
  obtain ⟨rest, host, adapters⟩ := BooksOnly.beginLast (s.started n 0x20 tag) (c.p 10 1)
  obtain ⟨allocs, fills, lastA, lastB, ctx⟩ := (SameBooks.started s n 0x20 tag).beginLast (c.p 10 1)
  rw [← hu] at rest host adapters allocs fills lastA lastB ctx
  rw [State.headRead, ← hu, hv]
  exact ⟨⟨o, by rw [rest], host, adapters⟩, asks, allocs, fills, lastA, lastB, ctx⟩

namespace HeadRead
variable {s v : State} {n : Nat} {tag : BitVec 16} {c : Cmd} (h : HeadRead s v n tag c)
include h

theorem rest : v = { s with ctxs := v.ctxs, fills := v.fills, lastA := v.lastA, lastB := v.lastB, out := v.out } := by
  obtain ⟨o, hrest, -, -⟩ := h.books
  rw [hrest]
  rfl

theorem loads : v.loads = s.loads := by rw [h.rest]
theorem mem : v.mem = s.mem := by rw [h.rest]
theorem clean (hs : CleanStore s) : CleanStore v := by rw [h.rest]; exact ⟨hs.bad, hs.arm, hs.rst⟩

theorem status (head : List Byte) : v.packageStatus n c head = s.packageStatus n c head := by
  obtain ⟨o, -, -, adapters⟩ := h.books
  refine State.packageStatus_congr (by rw [h.rest]) (by rw [h.rest]) ((adapters n).trans ?_) c head
  exact congrArg CtxMem.adapters (State.ctx_modCHost_mem s n _ n)

theorem running {d : Cmd} (hc : (s.started n 0x20 tag).cmd? n 0x20 tag true = some d) : v.cmd? n 0x20 tag true = some d := by
  obtain ⟨o, -, host, -⟩ := h.books
  exact (State.cmd?_congr (s := { s.started n 0x20 tag with out := o }) (host n) ..).trans hc

end HeadRead

/-- A package whose header comes from the host is judged by its checks. -/
theorem exec_loadPackage_judged {n : CtxId} {tag : Tag} {head : List Byte} {c : Cmd} {s : State} (hb : Begins s n.val 0x20 tag c)
    (ha : c.p 8 1 ≤ 1) (h0 : s.packageEarly n.val c = 0) (hsrc : c.p 9 1 = 0) (hq : s.readsOut (c.p 36 4) < 16) :
    let v := s.headRead n.val tag c head
    let st := s.packageStatus n.val c head
    (st ≠ 0 → exec (.loadPackage n tag head) s = .next (v.refuseLoad n.val 0x20 tag (c.p 10 1)
      (if headOk head then [(c.p 40 8, headPayload head)] else []) st)) ∧
    (st = 0 → exec (.loadPackage n tag head) s = .next (v.enterLoad (packageLoad n.val tag c head))) := by
  have early : (s.started n.val 0x20 tag).packageEarly n.val c = 0 := h0
  have read : ((s.started n.val 0x20 tag).beginLast (c.p 10 1)).headOf c head = (.inl head, s.headRead n.val tag c head) := by
    rw [State.headOf, if_pos (beq_iff_eq.2 hsrc)]; rfl
  have run : exec (.loadPackage n tag head) s = .next (
      if s.packageStatus n.val c head != 0 then (s.headRead n.val tag c head).refuseLoad n.val 0x20 tag (c.p 10 1)
        (if headOk head then [(c.p 40 8, headPayload head)] else []) (s.packageStatus n.val c head)
      else (s.headRead n.val tag c head).enterLoad (packageLoad n.val tag c head)) := by
    change execLoadPackage n tag head s = _
    rw [execLoadPackage, State.commandIf_runs hb (by simp [ha, State.headWaits, Nat.not_le.2 hq])]
    simp only [early, read, (s.headRead_spec n.val tag c head).status, bne_self_eq_false, Bool.false_eq_true, if_false]
  intro v st
  rw [run]
  exact ⟨fun h => by rw [if_pos (bne_iff_ne.2 h)], fun h => by rw [if_neg (by simpa using h)]⟩

/-! ## A package that is refused (08 R204, R207) -/

@[simp] theorem State.finish_out (s : State) (n op : Nat) (tag : BitVec 16) (st r0 r1 : Nat) : (s.finish n op tag st r0 r1).out = s.out := by
  obtain ⟨xs, h⟩ := s.finish_ctxsOnly n op tag st r0 r1; rw [h]

/-- Undefined bytes change memory, its injection and the count of free values alone. -/
theorem State.foldl_scramble_frame (s : State) (rs : List (Nat × Nat)) :
    ∃ m fr e, rs.foldl (fun s r => s.scramble r.1 r.2) s = { s with mem := m, free := fr, ecc := e } := by
  induction rs generalizing s with
  | nil => exact ⟨_, _, _, rfl⟩
  | cons r rs ih =>
    obtain ⟨m, fr, e, one⟩ : ∃ m fr e, s.scramble r.1 r.2 = { s with mem := m, free := fr, ecc := e } := by
      unfold State.scramble State.inject
      split
      · exact ⟨_, _, _, rfl⟩
      · exact ⟨_, _, _, rfl⟩
    obtain ⟨m', fr', e', rest⟩ := ih (s.scramble r.1 r.2)
    exact ⟨m', fr', e', by rw [List.foldl_cons, rest, one]⟩

theorem State.refuseLoad_spec {s : State} {n op : Nat} {tag : BitVec 16} {c : Cmd} (hc : s.cmd? n op tag true = some c) (d : Nat)
    (rs : List (Nat × Nat)) (st : Nat) : let t := s.refuseLoad n op tag d rs st
    Done t n op tag st 0 0 ∧ t.loads = s.loads ∧ t.out = s.out ∧ (d ≠ 0 → (t.last d).st = 0 ∧ t.mem = s.mem) ∧
      (CleanStore s → ∀ x, (∀ r ∈ rs, x < r.1 ∨ r.1 + r.2 ≤ x) → Mem.byte t.mem x = Mem.byte s.mem x) := by
  intro t
  rcases eq_or_ne d 0 with rfl | hd
  · obtain ⟨m, fr, e, h⟩ := State.foldl_scramble_frame s (rs.filter fun r => s.inT1Allocs n r.1 r.2)
    have ht : t = ({ s with mem := m, free := fr, ecc := e } : State).finish n op tag st 0 0 := congrArg (State.finish · n op tag st 0 0) h
    refine ⟨ht ▸ State.finish_done (s := { s with mem := m, free := fr, ecc := e }) hc st 0 0, ?_, ?_, fun h => absurd rfl h, fun hs => ?_⟩
    · rw [ht, State.finish_loads]
    · rw [ht, State.finish_out]
    · exact (State.refuseLoad_context hs hc rs st).2.2
  · set u := s.setLast d { s.last d with st := 0 } with hu
    have ht : t = u.finish n op tag st 0 0 := by
      simp only [t, State.refuseLoad, beq_eq_false_iff_ne.2 hd, Bool.false_eq_true, if_false, ← hu]
    have books : BooksOnly s u := BooksOnly.setLast ..
    have mem : t.mem = s.mem := by rw [ht, State.finish_mem, books.rest]
    refine ⟨?_, ?_, ?_, fun _ => ⟨?_, mem⟩, fun _ x _ => by rw [mem]⟩
    · rw [ht]; exact State.finish_done ((State.cmd?_congr (books.host n) ..).trans hc) ..
    · rw [ht, State.finish_loads, books.rest]
    · rw [ht, State.finish_out, books.rest]
    · rw [ht, State.finish_last, hu, State.last_setLast]

/-! ## A package that is entered (08 R197 point 4, R205) -/

/-- The requests of a load that has just been entered go out behind what went out before, and no queue pair comes to more than 16. -/
theorem State.askLoads_entered {s w : State} {l : Load} (hw : w.loads = s.loads ++ [l]) (h0 : l.asked = 0) :
    AskedOnly w w.askLoads ∧ (∀ o ∈ w.out, o ∈ w.askLoads.out) ∧ ((∀ q, s.readsOut q ≤ 16) → ∀ q, w.askLoads.readsOut q ≤ 16) := by
  have unasked : ∀ q, l.readsOn q = 0 := fun q => by simp [Load.readsOn, h0]
  have same : ∀ q, w.readsOut q = s.readsOut q := fun q => by simp [State.readsOut_eq, hw, unasked]
  exact ⟨w.askLoads_askedOnly, fun o ho => (State.askLoads_keeps w (Keeps.refl w)).sent.subset ho,
    fun h => State.askLoads_few fun q => same q ▸ h q⟩

theorem AskedOnly.last {s t : State} (h : AskedOnly s t) (i : Nat) : t.last i = s.last i := by rw [h.rest]; rfl

/-- The state of a load that goes to a last and finds its space at `b`. -/
def State.placedLoad (s : State) (l : Load) (b : Nat) : State :=
  { (s.setLast l.dest { s.last l.dest with base := some b, units := l.lastBytes / unit2M }).addUsed 16 1 (l.lastBytes / unit2M) with
    loads := s.loads ++ [{ l with destBase := b }] }

theorem State.enterLoad_placed {s : State} {l : Load} {b : Nat} (hd : l.dest ≠ 0) (hbase : (s.last l.dest).base = none)
    (hc : s.charge 16 1 4 (l.lastBytes / unit2M) = .ok b) : s.enterLoad l = (s.placedLoad l b).askLoads := by
  have entered : SameBooks s { s with loads := s.loads ++ [l] } := ⟨rfl, rfl, rfl, rfl, fun _ => ⟨_, rfl⟩⟩
  have charge : ({ s with loads := s.loads ++ [l] } : State).charge 16 1 4 (l.lastBytes / unit2M) = .ok b := (entered.charge ..).trans hc
  have here : (s.loads ++ [l])[s.loads.length]? = some l := by simp
  have noBase : (({ s with loads := s.loads ++ [l] } : State).last l.dest).base = none := hbase
  have moved : (s.loads ++ [l]).modify s.loads.length (fun l => { l with destBase := b }) = s.loads ++ [{ l with destBase := b }] := by
    rw [List.modify_eq_take_cons_drop (by simp)]
    simp
  simp only [State.enterLoad, State.giveSpace, here, charge, noBase, beq_eq_false_iff_ne.2 hd, Option.isSome_none, Bool.or_self,
    Bool.false_eq_true, if_false, Option.getD_some]
  refine congrArg State.askLoads ?_
  rw [State.placedLoad, ← moved, State.setLast, State.setLast]
  split
  · rfl
  · rfl

section
variable {n : CtxId} {tag : Tag} {head : List Byte} {c : Cmd} {s : State} (hb : Begins s n.val 0x20 tag c) (ha : c.p 8 1 ≤ 1)
  (h0 : s.packageEarly n.val c = 0) (hsrc : c.p 9 1 = 0) (hq : s.readsOut (c.p 36 4) < 16)
include hb ha h0 hsrc hq

/-- A package from the host that fails a check (08 R197, R204). -/
theorem loadPackage_refused (hst : s.packageStatus n.val c head ≠ 0) : ∃ t, Answers (.loadPackage n tag head) s t ∧
    Done t n.val 0x20 tag (s.packageStatus n.val c head) 0 0 ∧
    Out.rdmaRead (c.p 36 4) (c.p 24 8) (BitVec.ofNat 32 (c.p 32 4)) 64 ∈ t.out ∧ t.loads = s.loads ∧
    (c.p 10 1 ≠ 0 → (t.last (c.p 10 1)).st = 0 ∧ t.mem = s.mem) ∧
    (CleanStore s → ∀ x, (x < c.p 40 8 ∨ c.p 40 8 + headPayload head ≤ x) → Mem.byte t.mem x = Mem.byte s.mem x) := by
  have read := s.headRead_spec n.val tag c head
  obtain ⟨d, hrun⟩ := State.started_cmd? hb.cmd
  obtain ⟨done, loads, out, last, mem⟩ := State.refuseLoad_spec (read.running hrun) (c.p 10 1)
    (if headOk head then [(c.p 40 8, headPayload head)] else []) (s.packageStatus n.val c head)
  refine ⟨_, (exec_loadPackage_judged hb ha h0 hsrc hq).1 hst, done, out ▸ read.asks, loads.trans read.loads, fun hd => ?_, fun hs x hx => ?_⟩
  · exact ⟨(last hd).1, (last hd).2.trans read.mem⟩
  · refine (mem (read.clean hs) x fun r hr => ?_).trans (by rw [read.mem])
    split at hr
    · rw [List.mem_singleton.1 hr]; exact hx
    · cases hr

/-- A package from the host whose checks pass, for the context itself. -/
theorem loadPackage_entered (hst : s.packageStatus n.val c head = 0) (hd : c.p 10 1 = 0) : ∃ t, Answers (.loadPackage n tag head) s t ∧
    Out.rdmaRead (c.p 36 4) (c.p 24 8) (BitVec.ofNat 32 (c.p 32 4)) 64 ∈ t.out ∧ ((∀ q, s.readsOut q ≤ 16) → ∀ q, t.readsOut q ≤ 16) ∧
    t.loads.map Load.bare = (s.loads ++ [packageLoad n.val tag c head]).map Load.bare ∧ t.mem = s.mem := by
  have read := s.headRead_spec n.val tag c head
  set v := s.headRead n.val tag c head
  have run := (exec_loadPackage_judged hb ha h0 hsrc hq).2 hst
  rw [State.enterLoad_context v (l := packageLoad n.val tag c head) hd] at run
  obtain ⟨ask, sent, few⟩ := State.askLoads_entered (s := s) (w := { v with loads := v.loads ++ [packageLoad n.val tag c head] })
    (congrArg (· ++ _) read.loads) rfl
  exact ⟨_, run, sent _ read.asks, few, ask.loads.trans (by rw [read.loads]), ask.mem.trans read.mem⟩

/-- A package from the host whose checks pass, for a last that finds its space. -/
theorem loadPackage_placed (hst : s.packageStatus n.val c head = 0) (hd : c.p 10 1 ≠ 0) {b : Nat}
    (hc : (s.beginLast (c.p 10 1)).charge 16 1 4 ((packageLoad n.val tag c head).lastBytes / unit2M) = .ok b) :
    ∃ t, Answers (.loadPackage n tag head) s t ∧
    Out.rdmaRead (c.p 36 4) (c.p 24 8) (BitVec.ofNat 32 (c.p 32 4)) 64 ∈ t.out ∧ ((∀ q, s.readsOut q ≤ 16) → ∀ q, t.readsOut q ≤ 16) ∧
    t.loads.map Load.bare = (s.loads ++ [{ packageLoad n.val tag c head with destBase := b }]).map Load.bare ∧ t.mem = s.mem ∧
    (t.last (c.p 10 1)).st = 1 ∧ (t.last (c.p 10 1)).gen = (s.last (c.p 10 1)).gen ∧ (t.last (c.p 10 1)).base = some b ∧
    (t.last (c.p 10 1)).units = (packageLoad n.val tag c head).lastBytes / unit2M := by
  have read := s.headRead_spec n.val tag c head
  set v := s.headRead n.val tag c head
  set l := packageLoad n.val tag c head
  have run := (exec_loadPackage_judged hb ha h0 hsrc hq).2 hst
  obtain ⟨st, base, gen⟩ := s.beginLast_last hd
  have last : v.last (c.p 10 1) = (s.beginLast (c.p 10 1)).last (c.p 10 1) := read.charge.last _
  rw [State.enterLoad_placed (l := l) hd (by rw [← base, ← last]; rfl) ((read.charge.charge ..).trans hc)] at run
  have placed : (v.placedLoad l b).last (c.p 10 1) = { v.last (c.p 10 1) with base := some b, units := l.lastBytes / unit2M } :=
    State.last_setLast v (c.p 10 1) _
  obtain ⟨ask, sent, few⟩ := State.askLoads_entered (s := s) (w := v.placedLoad l b) (l := { l with destBase := b })
    (congrArg (· ++ _) read.loads) rfl
  have books : BooksOnly v (v.setLast l.dest { v.last l.dest with base := some b, units := l.lastBytes / unit2M }) := BooksOnly.setLast ..
  refine ⟨_, run, sent _ ?_, few, ask.loads.trans ?_, ask.mem.trans ?_, ?_⟩
  · have : (v.placedLoad l b).out = v.out := by rw [State.placedLoad, books.rest]; rfl
    rw [this]; exact read.asks
  · exact congrArg (fun ls => (ls ++ [_]).map Load.bare) read.loads
  · have : (v.placedLoad l b).mem = v.mem := by rw [State.placedLoad, books.rest]; rfl
    exact this.trans read.mem
  · rw [ask.last, placed, last]
    exact ⟨st, gen, rfl, rfl⟩

end

/-! ## A load that fails (08 R204, R207) -/

/-- What a package's load that leaves before its end leaves: the rest of memory, and its last EMPTY. -/
structure LoadLeft (l : Load) (s t : State) : Prop where
  loads : t.loads = s.loads
  host : ∀ m, (t.ctx m).host = (s.ctx m).host
  last : l.dest ≠ 0 → (t.last l.dest).st = 0 ∧ (t.last l.dest).base = none
  mem : CleanStore s → ∀ x, (x < l.destBase ∨ l.destBase + l.payload ≤ x) → Mem.byte t.mem x = Mem.byte s.mem x

theorem State.abandonLoad_left (s : State) {l : Load} (hr : l.raw = false) (hcopy : l.copying = false) : LoadLeft l s (s.abandonLoad l) := by
  have books := BooksOnly.releaseStage s l
  set u := s.releaseStage l with hu
  rcases eq_or_ne l.dest 0 with hd | hd
  · have ranges : l.ctxRanges = [(l.destBase, l.payload)] := by simp [Load.ctxRanges, hr, hd]
    have left : s.abandonLoad l = l.ctxRanges.foldl (fun s r => s.scramble r.1 r.2) u := by simp [State.abandonLoad, hcopy, hd, ← hu]
    obtain ⟨m, fr, e, frame⟩ := u.foldl_scramble_frame l.ctxRanges
    refine ⟨?_, ?_, fun h => absurd hd h, fun hs x hx => ?_⟩
    · rw [left, frame, books.rest]
    · rw [left, frame]; exact books.host
    · have clean : CleanStore u := by rw [books.rest]; exact ⟨hs.bad, hs.arm, hs.rst⟩
      obtain ⟨m, fr, frame, bytes⟩ := State.foldl_scramble clean l.ctxRanges
      rw [left, frame]
      refine (bytes x fun r hr => ?_).trans (by rw [books.rest])
      rw [ranges, List.mem_singleton] at hr
      rw [hr]; exact hx
  · have left : s.abandonLoad l = (u.releaseLast l.dest).setLast l.dest { (u.releaseLast l.dest).last l.dest with st := 0 } := by
      simp [State.abandonLoad, hcopy, hd, ← hu, Load.ctxRanges, hr]
    obtain ⟨rest, host, -⟩ := (books.trans (BooksOnly.releaseLast u l.dest)).trans (BooksOnly.setLast _ l.dest _)
    rw [left]
    refine ⟨by rw [rest], host, fun _ => ?_, fun _ x _ => by rw [rest]⟩
    rw [State.last_setLast]
    exact ⟨rfl, (u.releaseLast_last l.dest).1⟩

/-- A package's load that fails leaves the list, and its command ends. -/
theorem State.failLoad_package {s : State} {k : Nat} {l : Load} (hl : s.loads[k]? = some l) (hr : l.raw = false) (hcopy : l.copying = false)
    {c : Cmd} (hc : s.cmd? l.ctx 0x20 l.tag true = some c) (st : Nat) : let t := s.failLoad k st
    Done t l.ctx 0x20 l.tag st 0 0 ∧ t.loads.map Load.bare = (dropAt k s.loads).map Load.bare ∧
      (l.dest ≠ 0 → (t.last l.dest).st = 0 ∧ (t.last l.dest).base = none) ∧
      (CleanStore s → ∀ x, (x < l.destBase ∨ l.destBase + l.payload ≤ x) → Mem.byte t.mem x = Mem.byte s.mem x) := by
  obtain ⟨loads, host, last, mem⟩ := ({ s with loads := dropAt k s.loads } : State).abandonLoad_left hr hcopy
  set v := ({ s with loads := dropAt k s.loads } : State).abandonLoad l with hv
  have opcode : l.opcode = 0x20 := by simp [Load.opcode, hr]
  have ht : s.failLoad k st = (v.finish l.ctx 0x20 l.tag st 0 0).askLoads := by
    simp only [State.failLoad, hl, opcode, hv]
  have ask := State.askLoads_askedOnly (v.finish l.ctx 0x20 l.tag st 0 0)
  intro t
  simp only [t, ht]
  refine ⟨Done.congr (State.finish_done (c := c) ?_ st 0 0) ask.ctxs, ?_, ?_, fun hs => ?_⟩
  · rw [State.cmd?_congr (host l.ctx)]; exact hc
  · rw [ask.loads, State.finish_loads, loads]
  · rw [ask.last, State.finish_last]; exact last
  · rw [ask.mem, State.finish_mem]; exact mem ⟨hs.bad, hs.arm, hs.rst⟩

/-! ## PACKAGE_CHUNK_LAND (08 R197 point 5, R198, R202) -/

section
variable {k : Nat} {l : Load} {s : State} (hl : s.loads[k]? = some l) (hr : l.raw = false) (live : s.live = true) (hcopy : l.copying = false)
  (hnext : l.next < l.digests.length) (hsrc : l.source = 0)

include hsrc in
/-- The READ of the next chunk has not been asked for. -/
theorem exec_chunkLand_unasked {data : List Byte} (hl : s.loads[k]? = some l) (hr : l.raw = false) (hopen : s.hostOpen l = true)
    (hask : l.asked ≤ l.next) : exec (.packageChunkLand k data 0) s = .next s := by
  have due : s.hostDue l = false := by simp [State.hostDue, hsrc, hopen, Load.answered, hr, Nat.not_lt.2 hask]
  change execPackageChunkLand k data s 0 = _
  simp [execPackageChunkLand, hl, due]

variable (hbase : l.dest = 0 ∨ (s.last l.dest).base.isSome = true)
include hl hr live hcopy hnext hsrc hbase

/-- A chunk that is due is judged by its digest. -/
theorem exec_chunkLand_due {data : List Byte} (due : s.hostDue l = true) : exec (.packageChunkLand k data 0) s = .next (
    if s.hostOpen l && data.length == unit2M then
      if sm3 data != l.digests.getD l.next 0 then s.failLoad k 0x236
      else s.land l (l.destBase + l.next * unit2M) data fun s => (s.modLoad k fun l => { l with next := l.next + 1 }).askLoads
    else s.failLoad k 0x213) := by
  have space : s.giveSpace k = some s := by
    unfold State.giveSpace
    rw [hl]
    exact if_pos (by simpa using hbase)
  have chunk : s.chunkBytes l data = (if s.hostOpen l && data.length == unit2M then some data else none, s) := by
    simp [State.chunkBytes, hsrc]
  change execPackageChunkLand k data s 0 = _
  simp only [execPackageChunkLand, hl, hr, hcopy, live, Nat.not_le.2 hnext, due, space, State.cross_zero, chunk]
  simp only [decide_false, Bool.not_true, Bool.or_self, Bool.false_eq_true, if_false, bne_self_eq_false]
  cases (s.hostOpen l && data.length == unit2M)
  · simp [live]
  · simp

end

section
variable {k : Nat} {l : Load} {s : State} (hl : s.loads[k]? = some l) (hr : l.raw = false) (live : s.live = true) (hcopy : l.copying = false)
  (hnext : l.next < l.digests.length) (hsrc : l.source = 0) (hbase : l.dest = 0 ∨ (s.last l.dest).base.isSome = true)
include hl hr live hcopy hnext hsrc hbase

theorem exec_chunkLand_closed {data : List Byte} (hopen : s.hostOpen l = false) :
    exec (.packageChunkLand k data 0) s = .next (s.failLoad k 0x213) := by
  rw [exec_chunkLand_due hl hr live hcopy hnext hsrc hbase (by simp [State.hostDue, hopen])]
  simp [hopen]

variable (hopen : s.hostOpen l = true) (hask : l.next < l.asked) {data : List Byte} (hlen : data.length = unit2M)
include hopen hask hlen

theorem exec_chunkLand_mismatch (h : sm3 data ≠ l.digests.getD l.next 0) :
    exec (.packageChunkLand k data 0) s = .next (s.failLoad k 0x236) := by
  rw [exec_chunkLand_due hl hr live hcopy hnext hsrc hbase (by simp [State.hostDue, Load.answered, hr, hask]),
    if_pos (by simp [hopen, hlen]), if_pos (bne_iff_ne.2 h)]

/-- A chunk with its listed digest lands at its place. -/
theorem chunkLand_lands (h : sm3 data = l.digests.getD l.next 0) (hs : CleanStore s) : ∃ t, Answers (.packageChunkLand k data 0) s t ∧
    t.mem = Mem.write s.mem (l.destBase + l.next * unit2M) data ∧
    t.loads.map Load.bare = (s.loads.modify k fun l => { l with next := l.next + 1 }).map Load.bare ∧ t.ctxs = s.ctxs := by
  have run := exec_chunkLand_due (data := data) hl hr live hcopy hnext hsrc hbase (by simp [State.hostDue, Load.answered, hr, hask])
  rw [if_pos (by simp [hopen, hlen]), if_neg (by simpa using h), State.land_clean hs] at run
  have ask := State.askLoads_askedOnly
    ((s.setBytes (l.destBase + l.next * unit2M) data).modLoad k fun l => { l with next := l.next + 1 })
  exact ⟨_, run, ask.mem, ask.loads, ask.ctxs⟩

end

/-! ## LOAD_COMPLETE (08 R198, R203, R207, R212) -/

theorem Ctx.foldl_dropCarried_frame {α : Type} (cs : List (BitVec 32 × α)) (k : Ctx) :
    ∃ r, cs.foldl (fun k e => k.dropCarried e.1) k = { k with recs := r } := by
  induction cs generalizing k with
  | nil => exact ⟨_, rfl⟩
  | cons e cs ih =>
    obtain ⟨r, h⟩ : ∃ r, k.dropCarried e.1 = { k with recs := r } := by
      unfold Ctx.dropCarried
      split
      · exact ⟨_, rfl⟩
      · exact ⟨_, rfl⟩
    obtain ⟨r', h'⟩ := ih (k.dropCarried e.1)
    exact ⟨r', by rw [List.foldl_cons, h', h]⟩

/-- The places of a context's own copies are noted. -/
theorem State.noteCopies_ctx (s : State) {l : Load} (hd : l.dest = 0) : ∃ r, (s.noteCopies l).ctx l.ctx =
    { s.ctx l.ctx with recs := r, copies := putCopies (s.ctx l.ctx).copies ((s.ctx l.ctx).loadCopies l) } := by
  obtain ⟨r, h⟩ := Ctx.foldl_dropCarried_frame ((s.ctx l.ctx).loadCopies l) (s.ctx l.ctx)
  refine ⟨r, ?_⟩
  rw [State.noteCopies, if_neg (by simp [hd]), State.ctx_modCtx]
  dsimp only
  rw [h]

/-- The adapter sets of a list join those that are in use. -/
theorem getLsbD_foldl_sets (sets : List Nat) (a : BitVec 64) {i : Nat} (hi : i < 64) :
    (sets.foldl (fun a j => if j < 64 then a ||| BitVec.ofNat 64 (2 ^ j) else a) a).getLsbD i = (a.getLsbD i || decide (i ∈ sets)) := by
  induction sets generalizing a with
  | nil => simp
  | cons j sets ih =>
    rw [List.foldl_cons, ih]
    by_cases hj : j < 64
    · have bit : (BitVec.ofNat 64 (2 ^ j)).getLsbD i = decide (i = j) := by
        rw [BitVec.getLsbD_ofNat, Nat.testBit_two_pow]
        simp [hi, eq_comm]
      rw [if_pos hj, BitVec.getLsbD_or, bit, Bool.or_assoc]
      simp
    · have : i ≠ j := by omega
      rw [if_neg hj]
      simp [this]

theorem State.useSets_spec (s : State) (n : Nat) (sets : List Nat) : ((s.useSets n sets).ctx n).copies = (s.ctx n).copies ∧
    (n ≠ 16 → ∀ i, i < 64 → ((s.useSets n sets).ctx n).mem.adapters.getLsbD i =
      ((s.ctx n).mem.adapters.getLsbD i || decide (i ∈ sets))) := by
  unfold State.useSets
  split
  · rename_i h16
    exact ⟨rfl, fun h => absurd (beq_iff_eq.1 h16) h⟩
  · rw [State.ctx_modCtx]
    exact ⟨rfl, fun _ i hi => getLsbD_foldl_sets sets _ hi⟩

/-- Over good words a verified last is READY, with its directory behind the payload. -/
theorem State.readyLast_clean {s : State} (hs : CleanStore s) {l : Load} (hd : l.dest ≠ 0) : s.readyLast l =
    (s.setBytes (l.destBase + l.directoryOff) l.directory).setLast l.dest { s.last l.dest with
      st := 2, gen := (s.last l.dest).gen + 1, size := (s.last l.dest).units, copies := putCopies [] ((s.ctx l.ctx).loadCopies l) } := by
  rw [State.readyLast, if_neg (by simpa using hd), State.land_clean hs]
  rfl

/-- The state behind the end of a package's load: its last READY, its copies noted and its adapter sets in use. -/
def State.packageUsed (s : State) (l : Load) : State := ((s.readyLast l).noteCopies l).useSets l.ctx (l.entries.map (·.set))

section
variable {k : Nat} {l : Load} {s : State} (hl : s.loads[k]? = some l) (hr : l.raw = false) (live : s.live = true)
include hl hr

theorem exec_loadComplete_open (hnext : l.next ≠ l.digests.length) : exec (.loadComplete k) s = .next s := by
  have open_ : l.done = false := by simp [Load.done, hr, hnext]
  change execLoadComplete k s = _
  simp [execLoadComplete, hl, open_]

include live

theorem exec_loadComplete_package (hcopy : l.copying = false) (hnext : l.next = l.digests.length) (hs : CleanStore s) (hstage : l.stage = none) :
    exec (.loadComplete k) s = .next (
      if l.action = 1 then (s.packageUsed l).modLoad k fun l => { l with copying := true }
      else ({ s.packageUsed l with loads := dropAt k (s.packageUsed l).loads } : State).finish l.ctx 0x20 l.tag 0 l.payload
        ((s.packageUsed l).loadGen l)) := by
  have done : l.done = true := by simp [Load.done, hr, hcopy, hnext]
  have ready : (s.readyLast l).live = true := by
    rcases eq_or_ne l.dest 0 with hd | hd
    · rw [State.readyLast, if_pos (by simpa using hd)]; exact live
    · rw [State.readyLast_clean hs hd, (BooksOnly.setLast ..).rest]; exact live
  have stage : ∀ s : State, s.releaseStage l = s := fun s => by rw [State.releaseStage, hstage]
  have opcode : l.opcode = 0x20 := by simp [Load.opcode, hr]
  change execLoadComplete k s = _
  simp only [execLoadComplete, hl, done, live, ready, stage, hr, opcode, State.packageUsed]
  by_cases ha : l.action = 1
  · simp [ha]
  · simp [ha]

end

/-- The end of a command leaves the books, and of contexts all but their host parts. -/
theorem SameBooks.finishWith (s : State) (n op : Nat) (tag : BitVec 16) (st : Nat) (r0 r1 : BitVec 64) (fail : Bool) (extra : List Byte) :
    SameBooks s (s.finishWith n op tag st r0 r1 fail extra) := by
  unfold State.finishWith
  split
  · exact ⟨rfl, rfl, rfl, rfl, fun _ => ⟨_, rfl⟩⟩
  · refine ⟨rfl, rfl, rfl, rfl, fun m => ?_⟩
    rw [State.ctx_modCHost]
    split
    · exact ⟨_, rfl⟩
    · exact ⟨_, rfl⟩

theorem SameBooks.copies {s t : State} (h : SameBooks s t) (m : Nat) : (t.ctx m).copies = (s.ctx m).copies := by
  obtain ⟨_, e⟩ := h.ctx m; rw [e]

/-- What the end of a package's load notes: copies and adapter sets of the context, or a READY last with its directory. -/
structure PackageUsed (l : Load) (s t : State) : Prop where
  own : l.dest = 0 → t.mem = s.mem ∧ t.lastA = s.lastA ∧ t.lastB = s.lastB ∧
    (t.ctx l.ctx).copies = putCopies (s.ctx l.ctx).copies ((s.ctx l.ctx).loadCopies l)
  last : l.dest ≠ 0 → t.last l.dest = { s.last l.dest with
      st := 2, gen := (s.last l.dest).gen + 1, size := (s.last l.dest).units, copies := putCopies [] ((s.ctx l.ctx).loadCopies l) } ∧
    Mem.read t.mem (l.destBase + l.directoryOff) l.directory.length = l.directory
  sets : l.ctx ≠ 16 → ∀ i, i < 64 → (t.ctx l.ctx).mem.adapters.getLsbD i =
    ((s.ctx l.ctx).mem.adapters.getLsbD i || decide (i ∈ l.entries.map (·.set)))

theorem PackageUsed.congr {l : Load} {s t u : State} (h : PackageUsed l s t) (hb : SameBooks t u) (hm : u.mem = t.mem) : PackageUsed l s u := by
  obtain ⟨own, last, sets⟩ := h
  refine ⟨?_, ?_, ?_⟩
  · rw [hm, hb.lastA, hb.lastB, hb.copies]; exact own
  · rw [hm, hb.last]; exact last
  · rw [hb.mem]; exact sets

/-- Beside what it notes, the end of a package's load leaves loads and host parts as they are. -/
theorem State.packageUsed_spec {s : State} (hs : CleanStore s) (l : Load) : PackageUsed l s (s.packageUsed l) ∧
    (s.packageUsed l).loads = s.loads ∧ ∀ m, ((s.packageUsed l).ctx m).host = (s.ctx m).host := by
  obtain ⟨copies, sets⟩ := ((s.readyLast l).noteCopies l).useSets_spec l.ctx (l.entries.map (·.set))
  have kept : HostsKept (s.readyLast l) (s.packageUsed l) := (State.noteCopies_hostsKept _ l).trans (State.useSets_hostsKept ..)
  obtain ⟨xs, fs, rest⟩ := kept.rest
  rcases eq_or_ne l.dest 0 with hd | hd
  · have same : s.readyLast l = s := by rw [State.readyLast, if_pos (by simpa using hd)]
    rw [same] at kept rest copies sets
    obtain ⟨r, noted⟩ := s.noteCopies_ctx hd
    refine ⟨⟨fun _ => ⟨by rw [rest], by rw [rest], by rw [rest], ?_⟩, fun h => absurd hd h, ?_⟩, by rw [rest], kept.host⟩
    · rw [State.packageUsed, same, copies, noted]
    · rw [noted] at sets
      rw [State.packageUsed, same]
      exact sets
  · have ready := State.readyLast_clean hs hd
    have noted : (s.readyLast l).noteCopies l = s.readyLast l := by rw [State.noteCopies, if_pos (by simpa using hd)]
    have books := BooksOnly.setLast (s.setBytes (l.destBase + l.directoryOff) l.directory) l.dest { s.last l.dest with
      st := 2, gen := (s.last l.dest).gen + 1, size := (s.last l.dest).units, copies := putCopies [] ((s.ctx l.ctx).loadCopies l) }
    rw [← ready] at books
    rw [noted, books.adapters] at sets
    refine ⟨⟨fun h => absurd h hd, fun _ => ⟨?_, ?_⟩, ?_⟩, ?_, fun m => (kept.host m).trans (books.host m)⟩
    · rw [rest]
      change (s.readyLast l).last l.dest = _
      rw [ready, State.last_setLast]
    · rw [rest, books.rest]
      exact Mem.read_write ..
    · rw [State.packageUsed, noted]; exact sets
    · rw [rest, books.rest]; rfl

/-- The end of a package's load (08 R198, R203, R207, R212). -/
theorem loadComplete_package {k : Nat} {l : Load} {s : State} (hl : s.loads[k]? = some l) (hr : l.raw = false) (live : s.live = true)
    {c : Cmd} (hcopy : l.copying = false) (hnext : l.next = l.digests.length) (hc : s.cmd? l.ctx 0x20 l.tag true = some c) (hs : CleanStore s)
    (hstage : l.stage = none) : ∃ t, Answers (.loadComplete k) s t ∧ PackageUsed l s t ∧
      (l.action ≠ 1 → t.loads = dropAt k s.loads ∧ Done t l.ctx 0x20 l.tag 0 l.payload (t.loadGen l)) ∧
      (l.action = 1 → t.loads = s.loads.modify k fun l => { l with copying := true }) := by
  obtain ⟨used, loads, host⟩ := State.packageUsed_spec hs l
  have run := exec_loadComplete_package hl hr live hcopy hnext hs hstage
  set u := s.packageUsed l
  by_cases ha : l.action = 1
  · rw [if_pos ha] at run
    exact ⟨_, run, ⟨used.own, used.last, used.sets⟩, fun h => absurd ha h, fun _ => congrArg (List.modify · k _) loads⟩
  · rw [if_neg ha] at run
    set v : State := { u with loads := dropAt k u.loads }
    have running : v.cmd? l.ctx 0x20 l.tag true = some c := (State.cmd?_congr (s := s) (host l.ctx) ..).trans hc
    have books : SameBooks v (v.finish l.ctx 0x20 l.tag 0 l.payload (u.loadGen l)) := SameBooks.finishWith ..
    have usedv : PackageUsed l s v := ⟨used.own, used.last, used.sets⟩
    refine ⟨_, run, usedv.congr books (State.finish_mem ..), fun _ => ⟨?_, ?_⟩, fun h => absurd h ha⟩
    · rw [State.finish_loads, ← loads]
    · have gen : (v.finish l.ctx 0x20 l.tag 0 l.payload (u.loadGen l)).loadGen l = u.loadGen l := by
        rw [State.loadGen, books.last]; rfl
      rw [gen]
      exact State.finish_done running ..

/-! ## The package cache (08 R203) -/

/-- A running command that ends has the newest completion, with the CACHE_FAIL that it ends with. -/
theorem State.finishWith_done {s : State} {n op : Nat} {tag : BitVec 16} {c : Cmd} (h : s.cmd? n op tag true = some c) (st r0 r1 : Nat)
    (fail : Bool) (extra : List Byte) : let t := s.finishWith n op tag st (BitVec.ofNat 64 r0) (BitVec.ofNat 64 r1) fail extra
    Done t n op tag st r0 r1 ∧ (t.ctx n).host.comps.getLast?.map (·.cacheFail) = some fail := by
  simp only [State.finishWith, h, Done, State.ctx_modCHost, if_true, Ctx.modHost_host, List.getLast?_concat]
  exact ⟨⟨_, rfl, rfl, rfl, rfl, rfl, rfl⟩, rfl⟩

theorem State.finishWith_ctxsOnly (s : State) (n op : Nat) (tag : BitVec 16) (st : Nat) (r0 r1 : BitVec 64) (fail : Bool) (extra : List Byte) :
    CtxsOnly s (s.finishWith n op tag st r0 r1 fail extra) := by
  unfold State.finishWith
  split
  · exact CtxsOnly.refl s
  · exact ⟨_, rfl⟩

/-- Dropping the entries of an id changes the cache, and of contexts what they use of T3 alone; without an entry contexts stay. -/
theorem State.dropCached_spec (s : State) (id : BitVec 64) :
    s.dropCached id = { s with ctxs := (s.dropCached id).ctxs, cache := s.cache.filter fun e => !(e.pkgId == id && e.valid) } ∧
    (∀ m, ((s.dropCached id).ctx m).host = (s.ctx m).host) ∧ (s.cached id = none → (s.dropCached id).ctxs = s.ctxs) := by
  have fold : ∀ (es : List CacheEntry) (u : State), CtxsOnly u (es.foldl (fun s e => s.subUsed e.ctx 3 e.units) u) ∧
      ∀ m, ((es.foldl (fun s e => s.subUsed e.ctx 3 e.units) u).ctx m).host = (u.ctx m).host := by
    intro es
    induction es with
    | nil => exact fun u => ⟨CtxsOnly.refl u, fun _ => rfl⟩
    | cons e es ih =>
      intro u
      have one : BooksOnly u (u.subUsed e.ctx 3 e.units) := BooksOnly.setUsed ..
      obtain ⟨⟨xs, hx⟩, host⟩ := ih (u.subUsed e.ctx 3 e.units)
      exact ⟨⟨xs, by rw [List.foldl_cons, hx]; rfl⟩, fun m => (host m).trans (one.host m)⟩
  obtain ⟨⟨xs, hx⟩, host⟩ := fold (s.cache.filter fun e => e.pkgId == id && e.valid)
    { s with cache := s.cache.filter fun e => !(e.pkgId == id && e.valid) }
  refine ⟨?_, host, fun h => ?_⟩
  · rw [State.dropCached, hx]
  · have none_ : (s.cache.filter fun e => e.pkgId == id && e.valid) = [] := by
      rw [List.filter_eq_nil_iff]
      exact List.find?_eq_none.1 h
    rw [State.dropCached, none_]
    rfl

/-- A copy to the cache is good: it finished, an entry is free, T3 has room, and the destination still holds the package (log 56). -/
def State.goodCopy (s : State) (l : Load) (ok : Bool) : Prop :=
  ok = true ∧ s.cache.length < 16 ∧ (∃ b, s.charge l.ctx 3 0 ((payloadOff l.head + l.payload) / unit2M) = .ok b) ∧ s.unchanged l = true

/-- The command of a load that has copied its package to the cache ends. -/
def State.endCopy (s : State) (l : Load) (fail : Bool) : State :=
  s.finishWith l.ctx 0x20 l.tag 0 (BitVec.ofNat 64 l.payload) (BitVec.ofNat 64 (s.loadGen l)) fail []

theorem State.endCopy_spec {s : State} {l : Load} {c : Cmd} (hc : s.cmd? l.ctx 0x20 l.tag true = some c) (fail : Bool) :
    let t := s.endCopy l fail
    (t.loads = s.loads ∧ t.mem = s.mem ∧ t.cache = s.cache) ∧ SameBooks s t ∧ Done t l.ctx 0x20 l.tag 0 l.payload (s.loadGen l) ∧
      (t.ctx l.ctx).host.comps.getLast?.map (·.cacheFail) = some fail := by
  obtain ⟨xs, ends⟩ := s.finishWith_ctxsOnly l.ctx 0x20 l.tag 0 (BitVec.ofNat 64 l.payload) (BitVec.ofNat 64 (s.loadGen l)) fail []
  refine ⟨?_, SameBooks.finishWith .., State.finishWith_done hc ..⟩
  rw [State.endCopy, ends]
  exact ⟨rfl, rfl, rfl⟩

section
variable {k : Nat} {l : Load} {s : State} (hl : s.loads[k]? = some l) (live : s.live = true) (hcopy : l.copying = true) (hs : CleanStore s)
include hl live hcopy hs

/-- The end of a copy to the cache, good or not. -/
theorem exec_cacheCopyComplete (ok : Bool) :
    let u : State := { s with loads := dropAt k s.loads }
    (s.goodCopy l ok → exec (.cacheCopyComplete k ok 0) s =
      .next (((u.dropCached l.pkgId).enterCache l ((payloadOff l.head + l.payload) / unit2M)).endCopy l false)) ∧
    (¬ s.goodCopy l ok → exec (.cacheCopyComplete k ok 0) s = .next (u.endCopy l true)) := by
  intro u
  have clean : CleanStore u := ⟨hs.bad, hs.arm, hs.rst⟩
  have read : u.readCopy l = (none, u) := by rw [State.readCopy, State.badIn_clean clean, State.meetWords]
  have charge : u.charge l.ctx 3 0 ((payloadOff l.head + l.payload) / unit2M) =
      s.charge l.ctx 3 0 ((payloadOff l.head + l.payload) / unit2M) := by simp [State.charge, State.t3Used, u, State.ctx]
  have same : u.unchanged l = s.unchanged l := rfl
  change (_ → execCacheCopyComplete k ok s 0 = _) ∧ (_ → execCacheCopyComplete k ok s 0 = _)
  simp only [execCacheCopyComplete, hl, hcopy, live, State.cross_zero, Bool.not_true, Bool.or_self, Bool.false_eq_true, if_false]
  rw [show State.readCopy { s with loads := dropAt k s.loads } l = _ from read]
  simp only
  refine ⟨fun ⟨hok, hlen, ⟨b, hb⟩, hun⟩ => ?_, fun hbad => ?_⟩
  · rw [charge, hb]
    simp only [hok, show u.cache.length < 16 from hlen, same, hun, Bool.and_true, decide_true, if_true, Bool.not_true]
    rfl
  · have fails : ∀ b, s.charge l.ctx 3 0 ((payloadOff l.head + l.payload) / unit2M) = .ok b →
        (ok && decide (u.cache.length < 16) && s.unchanged l) = false := fun b hb => Bool.eq_false_iff.2 fun h => by
      simp only [Bool.and_eq_true, decide_eq_true_eq] at h
      exact hbad ⟨h.1.1, h.1.2, ⟨b, hb⟩, h.2⟩
    rw [charge, same]
    cases hch : s.charge l.ctx 3 0 ((payloadOff l.head + l.payload) / unit2M) with
    | ok b => simp only [Bool.and_true, fails b hch, Bool.false_eq_true, if_false, Bool.not_false]; rfl
    | overQuota | exhausted | wait => simp only [Bool.and_false, Bool.false_and, Bool.false_eq_true, if_false, Bool.not_false]; rfl

end

/-- The end of a copy to the cache (08 R203). -/
theorem cacheCopyComplete_ends {k : Nat} {l : Load} {s : State} (hl : s.loads[k]? = some l) (live : s.live = true)
    (hcopy : l.copying = true) (hs : CleanStore s) {c : Cmd} (hc : s.cmd? l.ctx 0x20 l.tag true = some c) (ok : Bool) :
    let units := (payloadOff l.head + l.payload) / unit2M
    ∃ t, Answers (.cacheCopyComplete k ok 0) s t ∧ t.loads = dropAt k s.loads ∧ t.mem = s.mem ∧
      Done t l.ctx 0x20 l.tag 0 l.payload (s.loadGen l) ∧
      (s.goodCopy l ok → (t.ctx l.ctx).host.comps.getLast?.map (·.cacheFail) = some false ∧
        (s.cached l.pkgId = none → (t.ctx l.ctx).mem.used 3 = (s.ctx l.ctx).mem.used 3 + units) ∧
        ∃ e, t.cache = s.cache.filter (fun x => !(x.pkgId == l.pkgId && x.valid)) ++ [e] ∧ e.pkgId = l.pkgId ∧ e.valid = true ∧
          e.ctx = l.ctx ∧ e.head = l.head) ∧
      (¬ s.goodCopy l ok → (t.ctx l.ctx).host.comps.getLast?.map (·.cacheFail) = some true ∧ t.cache = s.cache) := by
  intro units
  obtain ⟨good, bad⟩ := exec_cacheCopyComplete hl live hcopy hs ok
  set u : State := { s with loads := dropAt k s.loads }
  by_cases h : s.goodCopy l ok
  · obtain ⟨frame, host, ctxs⟩ := u.dropCached_spec l.pkgId
    set w := (u.dropCached l.pkgId).enterCache l units with hw
    have running : w.cmd? l.ctx 0x20 l.tag true = some c := by
      have books : BooksOnly _ w := BooksOnly.setUsed ..
      exact (State.cmd?_congr (s := s) ((books.host l.ctx).trans (host l.ctx)) ..).trans hc
    have gen : w.loadGen l = s.loadGen l := by
      rw [hw, State.loadGen, State.enterCache, State.addUsed, frame]; rfl
    obtain ⟨⟨loads, mem, cache⟩, books, done, fail⟩ := State.endCopy_spec running false
    refine ⟨_, good h, ?_, ?_, gen ▸ done, fun _ => ⟨fail, fun hnone => ?_, ?_⟩, fun hbad => absurd h hbad⟩
    · rw [loads, hw, State.enterCache, State.addUsed, frame]; rfl
    · rw [mem, hw, State.enterCache, State.addUsed, frame]; rfl
    · rw [books.mem, hw, State.enterCache, State.addUsed, State.ctx_modCtx, Ctx.modMem_mem]
      have same : (u.dropCached l.pkgId).ctx l.ctx = s.ctx l.ctx := by rw [State.ctx, ctxs hnone]; rfl
      exact congrArg (fun k : Ctx => k.mem.used 3 + units) same
    · exact ⟨_, by rw [cache, hw, State.enterCache, State.addUsed, frame]; rfl, rfl, rfl, rfl, rfl⟩
  · obtain ⟨⟨loads, mem, cache⟩, books, done, fail⟩ := State.endCopy_spec (s := u) hc true
    exact ⟨_, bad h, loads, mem, done, fun hgood => absurd hgood h, fun _ => ⟨fail, cache⟩⟩

/-- PACKAGE_CACHE_DROP runs the row of action 0x02 alone. -/
theorem exec_packageCacheDrop {n : CtxId} {tag : Tag} {c : Cmd} {s : State} (hb : Begins s n.val 0x20 tag c) (ha : c.p 8 1 = 2) :
    let v := s.started n.val 0x20 tag
    (s.cached (BitVec.ofNat 64 (c.p 16 8)) = none → exec (.packageCacheDrop n tag) s = .next (v.finish n.val 0x20 tag 0x23F 0 0)) ∧
    (∀ e, s.cached (BitVec.ofNat 64 (c.p 16 8)) = some e → exec (.packageCacheDrop n tag) s =
      .next ((({ v with cache := s.cache.filter fun x => x != e } : State).subUsed e.ctx 3 e.units).finish n.val 0x20 tag 0 0 0)) := by
  intro v
  have cached : v.cached = s.cached := rfl
  have run : exec (.packageCacheDrop n tag) s = .next (match v.cached (BitVec.ofNat 64 (c.p 16 8)) with
    | none => v.finish n.val 0x20 tag 0x23F 0 0
    | some e => (({ v with cache := v.cache.filter fun x => x != e } : State).subUsed e.ctx 3 e.units).finish n.val 0x20 tag 0 0 0) := by
    change execPackageCacheDrop n tag s = _
    rw [execPackageCacheDrop]
    exact congrArg Host.Outcome.next (State.commandIf_runs hb (by simp [ha]) _)
  rw [run, cached]
  exact ⟨fun h => by rw [h], fun e h => by rw [h]; rfl⟩

/-- The early checks of LOAD_PACKAGE in their order: source, right to the last, state of the last, the cache (log 55). -/
theorem State.packageEarly_order (s : State) (n : Nat) (c : Cmd) :
    let d := c.p 10 1
    let st := s.packageEarly n c
    let source := s.sourceOk n c (c.p 48 8) = true
    let dest := d = 0 ∨ s.mayLast n = true
    let open_ := d = 0 ∨ (s.last d).st = 0 ∨ (s.last d).st = 2
    let absent := c.p 9 1 = 1 ∧ s.cached (BitVec.ofNat 64 (c.p 16 8)) = none
    (¬ source → st = 0x204) ∧ (source → ¬ dest → st = 0x239) ∧ (source → dest → (s.last d).st ≤ 4 → ¬ open_ → st = 0x237) ∧
      (source → dest → open_ → absent → st = 0x23F) ∧ (source → dest → open_ → ¬ absent → st = 0) := by
  intro d st source dest open_ absent
  have held : dest → (d != 0 && !s.mayLast n) = false := fun h => by rcases h with h | h <;> simp [h]
  have idle : open_ → (d != 0 && ((s.last d).st == 1 || (s.last d).st == 3 || (s.last d).st == 4)) = false := fun h => by
    rcases h with h | h | h <;> simp [h]
  have none_iff : absent ↔ (c.p 9 1 == 1 && (s.cached (BitVec.ofNat 64 (c.p 16 8))).isNone) = true := by simp [absent]
  simp only [st, State.packageEarly]
  refine ⟨fun h1 => by rw [if_pos (by simpa [source] using h1)], fun h1 h2 => ?_, fun h1 h2 hst h3 => ?_,
    fun h1 h2 h3 h4 => ?_, fun h1 h2 h3 h4 => ?_⟩
  · rw [if_neg (by simp [show s.sourceOk n c (c.p 48 8) = true from h1]), if_pos (by simpa [dest, not_or, d] using h2)]
  · have busy : (s.last d).st = 1 ∨ (s.last d).st = 3 ∨ (s.last d).st = 4 := by simp only [open_, not_or] at h3; omega
    have hd : d ≠ 0 := fun h => h3 (.inl h)
    rw [if_neg (by simp [show s.sourceOk n c (c.p 48 8) = true from h1]), if_neg (Bool.eq_false_iff.1 (held h2)),
      if_pos (by simpa [or_assoc] using (⟨hd, busy⟩ : d ≠ 0 ∧ _))]
  · rw [if_neg (by simp [show s.sourceOk n c (c.p 48 8) = true from h1]), if_neg (Bool.eq_false_iff.1 (held h2)),
      if_neg (Bool.eq_false_iff.1 (idle h3)), if_pos (none_iff.1 h4)]
  · rw [if_neg (by simp [show s.sourceOk n c (c.p 48 8) = true from h1]), if_neg (Bool.eq_false_iff.1 (held h2)),
      if_neg (Bool.eq_false_iff.1 (idle h3)), if_neg fun h => h4 (none_iff.2 h)]

/-! ## The obligation -/

/-- Settles O51: LOAD_PACKAGE check by check, then the chunks, the end of a load and of its cache copy. -/
theorem packageLoads : Obligations.PackageLoads := by
  unfold Obligations.PackageLoads
  intro bare
  refine ⟨fun n tag head c s hb => ⟨?load, ?drop⟩, fun n c h s => s.packageStatus_order n c h,
    fun k l s hl hr live hd => ⟨?chunk, ?ends, ?open_, ?copy⟩⟩
  case load =>
    intro ha i d stop source dest open_
    have early : ∀ st, s.packageEarly n.val c = st → st ≠ 0 → stop st := fun st h h0 => by
      have := exec_loadPackage_early (head := head) hb ha (by rw [h]; exact h0)
      rw [h] at this
      exact EndsWith.of_finish hb.cmd this
    obtain ⟨e1, e2, e3, e4, passed⟩ := s.packageEarly_order n.val c
    have host : c.p 9 1 = 0 → ¬ (c.p 9 1 = 1 ∧ s.cached (BitVec.ofNat 64 (c.p 16 8)) = none) := fun h0 h => by omega
    refine ⟨fun h1 => early _ (e1 h1) (by decide), fun h1 h2 => early _ (e2 h1 h2) (by decide),
      fun h1 h2 h4 h3 => early _ (e3 h1 h2 h4 h3) (by decide), fun h1 h2 h3 hsrc hnone => early _ (e4 h1 h2 h3 ⟨hsrc, hnone⟩) (by decide),
      fun h1 h2 h3 hsrc hq => exec_loadPackage_waits hb (passed h1 h2 h3 (host hsrc)) hsrc hq, fun h1 h2 h3 hsrc hq => ?_⟩
    have h0 := passed h1 h2 h3 (host hsrc)
    exact ⟨loadPackage_refused hb ha h0 hsrc hq, loadPackage_entered hb ha h0 hsrc hq,
      fun hst hd b hc => loadPackage_placed hb ha h0 hsrc hq hst (by omega) hc⟩
  case drop =>
    intro ha
    obtain ⟨absent, present⟩ := exec_packageCacheDrop hb ha
    obtain ⟨d, hrun⟩ := State.started_cmd? hb.cmd
    refine ⟨fun h => EndsWith.of_finish hb.cmd (absent h), fun e he => ?_⟩
    set v : State := { s.started n.val 0x20 tag with cache := s.cache.filter fun x => x != e }
    have books : BooksOnly v (v.subUsed e.ctx 3 e.units) := BooksOnly.setUsed ..
    obtain ⟨xs, ends⟩ := (v.subUsed e.ctx 3 e.units).finish_ctxsOnly n.val 0x20 tag 0 0 0
    refine ⟨_, present e he, State.finish_done ((State.cmd?_congr (books.host n.val) ..).trans hrun) .., ?_, ?_⟩
    · rw [ends]; rfl
    · rw [ends]; rfl
  case chunk =>
    intro data hcopy hnext hbase hsrc a failed
    have fails : ∀ st c, exec (.packageChunkLand k data 0) s = .next (s.failLoad k st) → s.cmd? l.ctx 0x20 l.tag true = some c → failed st :=
      fun st c run hc => ⟨_, run, State.failLoad_package hl hr hcopy hc st⟩
    refine ⟨exec_chunkLand_unasked hsrc hl hr, fun c hopen hc => ?_, fun hopen hask hlen => ⟨fun hsm hs => ?_, fun c hsm hc => ?_⟩⟩
    · exact fails _ c (exec_chunkLand_closed hl hr live hcopy hnext hsrc hbase hopen) hc
    · obtain ⟨t, run, mem, loads, ctxs⟩ := chunkLand_lands hl hr live hcopy hnext hsrc hbase hopen hask hlen hsm hs
      have mem : t.mem = s.mem.write a data := mem
      have back := Mem.read_write s.mem a data
      rw [hlen, ← mem] at back
      exact ⟨t, run, back, fun x hx => by rw [mem]; exact Mem.byte_write_other _ _ _ _ (hlen ▸ hx), loads, ctxs⟩
    · exact fails _ c (exec_chunkLand_mismatch hl hr live hcopy hnext hsrc hbase hopen hask hlen hsm) hc
  case ends =>
    intro c hcopy hnext hc hs hstage
    obtain ⟨t, run, ⟨own, last, sets⟩, gone, stays⟩ := loadComplete_package hl hr live hcopy hnext hc hs hstage
    have off : l.directoryOff = l.payload := by simp [Load.directoryOff, hr]
    rw [off] at last
    exact ⟨t, run, gone, stays, own, last, sets⟩
  case open_ => exact exec_loadComplete_open hl hr
  case copy => exact fun c ok hcopy hc hs => cacheCopyComplete_ends hl live hcopy hs hc ok

end Sys2Proof.Machine

/-! Programs and RUNs: their checks and charges, admission, the local commit, and the commit wave (07 R177 to R184, 13 R363, R364). -/

namespace Sys2Proof.Machine
open Sys2Proof

/-! ## What faults and accesses leave of contexts (09 R226 to R237, 14 R368) -/

theorem HealthOnly.ctxs {s t : State} (h : HealthOnly s t) : t.ctxs = s.ctxs := by
  obtain ⟨_, _, rfl, _⟩ := h; rfl

theorem LinkOnly.ctxs {s t : State} (h : LinkOnly s t) : t.ctxs = s.ctxs := by
  obtain ⟨_, _, _, rfl⟩ := h; rfl

@[simp] theorem State.penalise_ctxs (s : State) (input amount : Nat) (cap : Option Nat) : (s.penalise input amount cap).ctxs = s.ctxs :=
  (HealthOnly.penalise ..).ctxs

@[simp] theorem State.expel_ctxs (s : State) (cause : Nat) : (s.expel cause).ctxs = s.ctxs := (HealthOnly.expel ..).ctxs

@[simp] theorem State.classHealth_ctxs (s : State) (r : FRec) : (s.classHealth r).ctxs = s.ctxs := (HealthOnly.classHealth ..).ctxs

/-- Where either way has the same contexts, so has their choice. -/
theorem State.ctxs_ite {p : Prop} [Decidable p] {s t a : State} (h : s.ctxs = a.ctxs) (k : t.ctxs = a.ctxs) :
    (if p then s else t).ctxs = a.ctxs := by
  split <;> assumption

theorem State.openDump_ctxs (s : State) : s.openDump.ctxs = s.ctxs := State.ctxs_ite rfl rfl

/-- A fatal fault, first or further, changes no context. -/
@[simp] theorem State.fatal_ctxs (s : State) (r : FRec) : (s.fatal r).ctxs = s.ctxs := by
  obtain ⟨p, ps, ds, l, hv⟩ := s.waveBegun_frame r
  have begun : (s.waveBegun r).ctxs = s.ctxs := by rw [hv]
  unfold State.fatal
  refine State.ctxs_ite (State.classHealth_ctxs ..) ?_
  refine (State.classHealth_ctxs ..).trans (State.ctxs_ite ((State.openDump_ctxs _).trans ?_) ?_)
  · exact State.ctxs_ite begun begun
  · exact State.ctxs_ite begun begun

@[simp] theorem State.uncorrFault_ctxs (s : State) (w consumer ctx : Nat) (core : Option (Nat × BitVec 32)) :
    (s.uncorrFault w consumer ctx core).ctxs = s.ctxs := State.fatal_ctxs ..

@[simp] theorem State.remap_ctxs (s : State) (a cause : Nat) : (s.remap a cause).ctxs = s.ctxs := by
  have charged : ∀ (t : State) (x : Nat), t.ctxs = s.ctxs → ((t.note24 2).penalise 2 5 (some x)).ctxs = s.ctxs :=
    fun t x h => (State.penalise_ctxs ..).trans h
  unfold State.remap
  exact State.ctxs_ite rfl (State.ctxs_ite ((State.penalise_ctxs ..).trans (charged _ _ rfl)) (charged _ _ rfl))

@[simp] theorem State.eccSingle_ctxs (s : State) (w found : Nat) : (s.eccSingle w found).ctxs = s.ctxs := by
  unfold State.eccSingle
  refine State.ctxs_ite ((State.remap_ctxs ..).trans ?_) ?_
  · exact State.ctxs_ite (a := s) ((State.penalise_ctxs ..).trans rfl) rfl
  · exact State.ctxs_ite (a := s) ((State.penalise_ctxs ..).trans rfl) rfl

@[simp] theorem State.eccDouble_ctxs (s : State) (w found : Nat) : (s.eccDouble w found).ctxs = s.ctxs :=
  (State.remap_ctxs ..).trans ((State.penalise_ctxs ..).trans rfl)

@[simp] theorem State.eccUncorr_ctxs (s : State) (w found : Nat) : (s.eccUncorr w found).ctxs = s.ctxs := by
  unfold State.eccUncorr
  extract_lets s1 s2 s3
  have counted : s3.ctxs = s.ctxs := (State.penalise_ctxs ..).trans rfl
  exact State.ctxs_ite ((State.expel_ctxs s3 2).trans counted) counted

@[simp] theorem State.meetWord_ctxs (s : State) (w found : Nat) : (s.meetWord w found).2.ctxs = s.ctxs := by
  unfold State.meetWord
  dsimp only
  split
  · rfl
  split
  · split
    · exact State.eccSingle_ctxs ..
    split
    · exact State.eccDouble_ctxs ..
    split
    · exact State.eccUncorr_ctxs ..
    split
    · exact State.eccUncorr_ctxs ..
    · rfl
    · exact State.eccSingle_ctxs ..
    · exact State.eccDouble_ctxs ..
  split
  · exact State.penalise_ctxs ..
  · rfl

@[simp] theorem State.meetWords_ctxs (s : State) (found : Nat) (ws : List Nat) : (s.meetWords found ws).2.ctxs = s.ctxs := by
  induction ws generalizing s with
  | nil => rfl
  | cons w ws ih =>
    rw [State.meetWords]
    have met := s.meetWord_ctxs w found
    split
    case h_1 t e => rw [e] at met; exact (ih t).trans met
    case h_2 t e => rw [e] at met; exact met

@[simp] theorem State.load_ctxs (s : State) (a n : Nat) : (s.load a n).2.ctxs = s.ctxs := by
  unfold State.load
  split
  · rfl
  · have met := s.meetWords_ctxs 0 (s.badIn a n)
    split
    case h_1 t e => rw [e] at met; exact met
    case h_2 w t e => rw [e] at met; exact met

@[simp] theorem State.store_ctxs (s : State) (a : Nat) (bs : List Byte) : (s.store a bs).2.ctxs = s.ctxs := by
  unfold State.store
  split
  · rfl
  · have met := s.meetWords_ctxs 2 ((partWords a bs.length).filter fun w => s.badBits w != 0)
    split
    case h_1 w t e => rw [e] at met; exact met
    case h_2 t e =>
      rw [e] at met
      unfold State.afterStore State.inject
      split
      · exact met
      · exact met

theorem State.readRegions_ctxs (s : State) (rs : List Region) : (s.readRegions rs).2.ctxs = s.ctxs := by
  induction rs generalizing s with
  | nil => rfl
  | cons r rs ih =>
    have read := s.load_ctxs r.addr r.size
    rw [State.readRegions]
    split
    case h_1 w t e => rw [e] at read; exact read
    case h_2 bs t e =>
      rw [e] at read
      have rest := (ih t).trans read
      split
      case h_1 w u e => rw [e] at rest; exact rest
      case h_2 l u e => rw [e] at rest; exact rest

/-! ## Sending -/

theorem LinkOnly.sendMsgIn (s : State) (d : Nat) (rail : Option Nat) (vc ctx : Nat) (tag : BitVec 32) (w0 w1 w2 w3 : BitVec 64)
    (data : List (BitVec 64)) : LinkOnly s (s.sendMsgIn d rail vc ctx tag w0 w1 w2 w3 data) :=
  LinkOnly.sendAll (fun s f => LinkOnly.sendIn s d none rail f) _ s

theorem LinkOnly.sendWave (s : State) (n : Nat) : LinkOnly s (s.sendWave n) := by
  unfold State.sendWave
  split
  · exact LinkOnly.refl s
  · split
    · exact LinkOnly.refl s
    · exact LinkOnly.sendMsgIn ..

theorem LinkOnly.sendFlit (s : State) (arr : Option Nat) (f : Flit) : LinkOnly s (s.sendFlit arr f) := by
  unfold State.sendFlit
  split
  · exact LinkOnly.trans (t := s.dropUnreach) ⟨_, _, _, rfl⟩ (LinkOnly.leaveBuf ..)
  split
  · exact LinkOnly.refl s
  split
  · exact LinkOnly.trans (t := s.dropHoplim) ⟨_, _, _, rfl⟩ (LinkOnly.leaveBuf ..)
  · exact LinkOnly.sendIn ..

theorem LinkOnly.sendStream (s : State) (n kind vc off : Nat) (peer : BitVec 16) (ws : List (BitVec 64)) :
    LinkOnly s (s.sendStream n kind vc off peer ws) := by
  unfold State.sendStream State.sendMsg
  split
  · exact ⟨_, _, _, rfl⟩
  · exact LinkOnly.sendAll (fun s f => LinkOnly.sendFlit s none f) _ s

/-! ## Commands of contexts across a release of RUNs -/

/-- Every context keeps its host part. -/
structure SameHosts (s t : State) : Prop where
  host : ∀ m, (t.ctx m).host = (s.ctx m).host

namespace SameHosts
variable {s t u : State}

theorem refl (s : State) : SameHosts s s := ⟨fun _ => rfl⟩

theorem trans (h : SameHosts s t) (h' : SameHosts t u) : SameHosts s u := ⟨fun m => (h'.host m).trans (h.host m)⟩

theorem of_ctxs (h : t.ctxs = s.ctxs) : SameHosts s t := ⟨fun m => by rw [State.ctx, h]; rfl⟩

theorem modCtx (s : State) (n : Nat) {f : Ctx → Ctx} (hf : ∀ k, (f k).host = k.host) : SameHosts s (s.modCtx n f) :=
  ⟨State.host_modCtx s n hf⟩

theorem foldl {α : Type} {f : State → α → State} (hf : ∀ s x, SameHosts s (f s x)) (l : List α) (s : State) : SameHosts s (l.foldl f s) := by
  induction l generalizing s with
  | nil => exact refl s
  | cons x l ih => exact (hf s x).trans (ih _)

theorem ite {p : Prop} [Decidable p] (h : SameHosts s t) (k : SameHosts s u) : SameHosts s (if p then t else u) := by
  split <;> assumption

theorem modStepOf (s : State) (n : Nat) (f : CtxStep → CtxStep) : SameHosts s (s.modStepOf n f) := modCtx s n fun _ => rfl

theorem setUsed (s : State) (n tier : Nat) (f : CtxMem → Nat) : SameHosts s (s.modCtx n fun k => k.modMem fun m => m.setUsed tier (f m)) :=
  modCtx s n fun _ => rfl

theorem modSnapOf (s : State) (n : Nat) (f : CtxSnap → CtxSnap) : SameHosts s (s.modSnapOf n f) := modCtx s n fun _ => rfl

theorem arith (s : State) (n : Nat) (e : Ev) (grad : Bool) : SameHosts s (s.arith n e grad) := by
  refine modCtx s n fun k => ?_
  unfold Ctx.charge Ctx.overflow
  dsimp only
  repeat' split
  all_goals rfl

theorem storeScale (n a : Nat) (s : State) (d : Nat × F32 × Ev) : SameHosts s (State.storeScale n a s d) := by
  have stored := s.store_ctxs (a + 0x600000 + 4 * d.1) (natLe 4 d.2.1.toNat)
  unfold State.storeScale
  split
  case h_1 t e => rw [e] at stored; exact of_ctxs stored
  case h_2 w t e => rw [e] at stored; exact of_ctxs ((State.uncorrFault_ctxs ..).trans stored)

theorem recordDescales (s : State) (n c : Nat) (k : Core) (ds : List (Nat × F32 × Ev)) : SameHosts s (s.recordDescales n c k ds) := by
  have saved : SameHosts s (s.modCtx n fun x => { x with saved := SMap.set none x.saved c (some (k.putDescales ds)) }) := modCtx s n fun _ => rfl
  unfold State.recordDescales
  generalize State.modCtx s n _ = v at saved ⊢
  dsimp only
  split
  · exact saved.trans (foldl (storeScale n _) ds v)
  · exact saved

theorem writeDescales (n : Nat) (u : ScaleUse) (only : Option (BitVec 32)) (held : Bool) (s : State) (c : Nat) :
    SameHosts s (State.writeDescales n u only held s c) := by
  unfold State.writeDescales
  refine ite (refl s) (ite (ite (of_ctxs rfl) (ite (refl s) ?_)) (ite (refl s) ?_))
  · exact trans (t := s.modCore c _) (of_ctxs rfl) (arith ..)
  · exact (recordDescales ..).trans (arith ..)

theorem firmDescales (s : State) (n : Nat) (u : ScaleUse) : SameHosts s (s.firmDescales n u) := by
  have met := s.meetWords_ctxs 0 (s.badScales n u none)
  unfold State.firmDescales State.allDescales
  split
  case h_1 w t e => rw [e] at met; exact of_ctxs ((State.uncorrFault_ctxs ..).trans met)
  case h_2 t e => rw [e] at met; exact (of_ctxs met).trans (foldl (writeDescales n u none true) _ t)

theorem putStepBlock (s : State) (n epoch : Nat) (prev replay : Bool) : SameHosts s (s.putStepBlock n epoch prev replay) := by
  unfold State.putStepBlock
  split
  · exact of_ctxs (State.store_ctxs ..)
  · exact refl s

theorem prevSet (s : State) (n epoch : Nat) : SameHosts s (s.prevSet n epoch).2 := by
  unfold State.prevSet
  split
  case h_1 a _ =>
    have read := s.load_ctxs a 64
    split
    case h_1 b t e => rw [e] at read; exact of_ctxs read
    case h_2 w t e => rw [e] at read; exact of_ctxs read
  case h_2 => exact refl s

theorem straggle (s : State) (n : Nat) : SameHosts s (s.straggle n) := of_ctxs rfl

theorem rescheduleAll (s : State) : SameHosts s s.rescheduleAll := ⟨fun m => by
  obtain ⟨_, e⟩ := (Rescheduled.all s).ctx m
  rw [e]⟩

theorem makeRunnable (s : State) (n : Nat) (ids : List (Nat × Nat)) : SameHosts s (s.makeRunnable n ids) := by
  have added : ∀ s (d : Nat × TaskDesc), SameHosts s (s.poolAdd n d.1 d.2) := fun s d =>
    ite (trans (t := s.modCtx n fun k => k.modRun d.1 fun r => r.modTask d.2.tid fun t => { t with st := 1 }) (modCtx s n fun _ => rfl)
      (straggle _ 1)) (modCtx s n fun _ => rfl)
  unfold State.makeRunnable
  split
  · exact refl s
  · dsimp only
    generalize (ids.filterMap _).foldr insertTask [] = ds
    exact ((foldl added ds s).trans (modCtx _ n (f := fun k => { k with order := k.order + 1 }) fun _ => rfl)).trans (rescheduleAll _)

theorem advanceRuns (s : State) (n : Nat) (ids : List Nat) : SameHosts s (s.advanceRuns n ids) := by
  have moved : ∀ (rs : List Run) (k : Ctx), (rs.foldl (fun k r => k.modRun r.id fun _ => r) k).host = k.host := fun rs => by
    induction rs with
    | nil => exact fun _ => rfl
    | cons r rs ih => exact fun k => ih _
  unfold State.advanceRuns
  split
  · exact (modCtx s n (moved _)).trans (makeRunnable ..)
  · exact refl s

theorem formScalesNow (k : Ctx) (replay : Bool) : (k.formScalesNow replay).host = k.host := by
  unfold Ctx.formScalesNow
  dsimp only
  split <;> rfl

theorem prepRun (n : Nat) (s : State) (id : Nat) : SameHosts s (State.prepRun n s id) := by
  have released : ∀ s : State, SameHosts s (s.modCtx n fun k => k.modRun id fun r => { r with released := true }) :=
    fun s => modCtx s n fun _ => rfl
  unfold State.prepRun
  split
  · exact refl s
  · rename_i r _
    refine ite (released s) ?_
    have read := prevSet s n r.epoch
    split
    case h_1 w t e => rw [e] at read; exact read.trans (of_ctxs (State.uncorrFault_ctxs ..))
    case h_2 prev t e =>
      rw [e] at read
      have formed := modCtx t n fun k => formScalesNow k r.replay
      exact (((read.trans formed).trans (firmDescales ..)).trans (putStepBlock ..)).trans (released _)

theorem releaseHeld (s : State) (n : Nat) : SameHosts s (s.releaseHeld n) := by
  unfold State.releaseHeld
  split
  · exact refl s
  · exact (foldl (prepRun n) _ s).trans (advanceRuns ..)

end SameHosts

/-- Every context keeps its commands other than its SNAPSHOT. -/
structure CmdsKept (s t : State) : Prop where
  cmd : ∀ m op tag b, op ≠ 0x40 → t.cmd? m op tag b = s.cmd? m op tag b

theorem SameHosts.cmds {s t : State} (h : SameHosts s t) : CmdsKept s t :=
  ⟨fun m op tag b _ => State.cmd?_congr (h.host m) op tag b⟩

/-- What is found is still found once an element that does not count is dropped. -/
theorem find?_dropFirst {α : Type} {p q : α → Bool} (h : ∀ x, p x = true → q x = false) (l : List α) :
    (dropFirst p l).find? q = l.find? q := by
  induction l with
  | nil => rfl
  | cons x l ih =>
    rw [dropFirst]
    split
    · rw [List.find?_cons_of_neg (by simp [h x ‹_›])]
    · rw [List.find?_cons, List.find?_cons, ih]

namespace CmdsKept
variable {s t u : State}

theorem refl (s : State) : CmdsKept s s := ⟨fun _ _ _ _ _ => rfl⟩

theorem trans (h : CmdsKept s t) (h' : CmdsKept t u) : CmdsKept s u :=
  ⟨fun m op tag b hop => (h'.cmd m op tag b hop).trans (h.cmd m op tag b hop)⟩

theorem finish (s : State) (n : Nat) (tag : BitVec 16) (st r0 r1 : Nat) : CmdsKept s (s.finish n 0x40 tag st r0 r1) := by
  refine ⟨fun m op tag' b hop => ?_⟩
  unfold State.finish State.finishWith
  split
  · rfl
  · rw [State.cmd?, State.ctx_modCHost]
    split
    · subst_vars
      refine find?_dropFirst (fun x hx => ?_) _
      have : x.opcode = 0x40 := by simp only [Bool.and_eq_true, beq_iff_eq] at hx; exact hx.1.1
      simp [this, Ne.symm hop]
    · rfl

theorem failSnapshot (s : State) (n st : Nat) : CmdsKept s (s.failSnapshot n st) := by
  unfold State.failSnapshot
  split
  · exact (SameHosts.modSnapOf s n _).cmds.trans (finish ..)
  · exact refl s

theorem flushStream (n k : Nat) (s : State) : CmdsKept s (State.flushStream n k s) := by
  induction k generalizing s with
  | zero => exact refl s
  | succ k ih =>
    unfold State.flushStream
    split
    · exact refl s
    split
    · exact refl s
    dsimp only
    split
    · exact refl s
    · refine trans (SameHosts.cmds ?_) (ih _)
      exact ((SameHosts.of_ctxs (LinkOnly.sendStream ..).ctxs).trans (SameHosts.modSnapOf _ n _)).trans (SameHosts.modSnapOf _ n _)

theorem pumpStream (s : State) (n : Nat) : CmdsKept s (s.pumpStream n) := by
  unfold State.pumpStream
  split
  · exact flushStream ..
  · exact refl s

theorem takeGrants (s : State) (n : Nat) : CmdsKept s (s.takeGrants n) := by
  have link : ∀ (s : State) (l : Link), SameHosts s { s with link := l } := fun _ _ => SameHosts.of_ctxs rfl
  unfold State.takeGrants
  split
  · exact refl s
  · exact ((link s _).trans (SameHosts.modSnapOf _ n _)).cmds.trans (pumpStream ..)

theorem stopToT2 (s : State) (n : Nat) (im : Image) : CmdsKept s (s.stopToT2 n im) := by
  unfold State.stopToT2
  dsimp only
  split
  · exact failSnapshot ..
  split
  · exact failSnapshot ..
  case h_2 v hv =>
    have charged : SameHosts s v := by
      unfold State.chargeGen at hv
      dsimp only at hv
      split at hv
      · cases hv
      · cases hv; exact SameHosts.modCtx s n fun _ => rfl
    have read := v.readRegions_ctxs im.regions
    split
    case h_1 w t e => rw [e] at read; exact (charged.trans (SameHosts.of_ctxs ((State.uncorrFault_ctxs ..).trans read))).cmds
    case h_2 rs t e =>
      rw [e] at read
      exact (((charged.trans (SameHosts.of_ctxs read)).trans (SameHosts.modSnapOf _ n _)).trans (SameHosts.modSnapOf _ n _)).cmds

theorem stopToFabric (s : State) (n : Nat) (im : Image) : CmdsKept s (s.stopToFabric n im) := by
  have read := s.readRegions_ctxs im.regions
  unfold State.stopToFabric
  split
  case h_1 w t e => rw [e] at read; exact (SameHosts.of_ctxs ((State.uncorrFault_ctxs ..).trans read)).cmds
  case h_2 rs t e =>
    rw [e] at read
    exact (((SameHosts.of_ctxs read).trans (SameHosts.modSnapOf _ n _)).trans (SameHosts.modSnapOf _ n _)).cmds.trans (takeGrants ..)

theorem beginStop (s : State) (n : Nat) : CmdsKept s (s.beginStop n) := by
  unfold State.beginStop
  split
  · exact refl s
  split
  · exact refl s
  split
  · exact refl s
  split
  · exact failSnapshot ..
  split
  · exact stopToT2 ..
  · exact stopToFabric ..

theorem committed (s : State) (n e : Nat) : CmdsKept s (s.committed n e) := by
  have moved : ∀ f, SameHosts s ((s.modStepOf n f).ledgerSlot n) := fun f =>
    (SameHosts.modCtx s n (f := fun k => k.modStep f) fun _ => rfl).trans (SameHosts.of_ctxs rfl)
  exact ((moved _).trans (SameHosts.releaseHeld ..)).cmds.trans (beginStop ..)

end CmdsKept

/-! ## The local commit in its context (07 R177, R180) -/

/-- A merge changes records and the count of tensors far off alone. -/
theorem Ctx.mergeSlot_eq (k : Ctx) (c : Closed) : ∃ xs f, k.mergeSlot c = { k with recs := xs, arith := { k.arith with farOff := f } } := by
  unfold Ctx.mergeSlot
  dsimp only
  split
  · exact ⟨_, _, rfl⟩
  · split
    · exact ⟨_, _, rfl⟩
    · exact ⟨_, _, rfl⟩

theorem Ctx.foldl_mergeSlot_eq (cs : List Closed) (k : Ctx) :
    ∃ xs f, cs.foldl Ctx.mergeSlot k = { k with recs := xs, arith := { k.arith with farOff := f } } := by
  induction cs generalizing k with
  | nil => exact ⟨_, _, rfl⟩
  | cons c cs ih =>
    obtain ⟨xs, f, first⟩ := k.mergeSlot_eq c
    obtain ⟨ys, g, rest⟩ := ih (k.mergeSlot c)
    exact ⟨ys, g, by rw [List.foldl_cons, rest, first]⟩

/-- What a RUN's end merges: records, the count of tensors far off, and the merge queue. -/
theorem Ctx.merged_eq (k : Ctx) (r : Run) :
    ∃ xs f, k.mergeAll.commitRecs r = { k with recs := xs, arith := { k.arith with farOff := f }, mergeQ := [] } := by
  obtain ⟨xs, f, merged⟩ := Ctx.foldl_mergeSlot_eq k.mergeQ k
  rw [Ctx.commitRecs, Ctx.mergeAll, merged]
  exact ⟨_, f, rfl⟩

/-- Clean steps that a loss scale asks for before it rises (07 R177). -/
def Ctx.cleanRun (k : Ctx) : Nat := match k.prog with | some p => p.recipe.cleanRun | none => 1

/-- The loss-scale part of a commit: of the step L and n, of the counts the skipped ones, and histories. -/
theorem Ctx.commitLoss_eq (k : Ctx) : let l := k.step.nextLoss k.cleanRun
    ∃ xs, k.commitLoss = { k with
      recs := xs
      step := { k.step with scale := l.1, clean := l.2 }
      arith := { k.arith with skipped := satAdd 24 k.arith.skipped (b2n (k.step.decided && k.step.decision)) } } := by
  intro l
  have histories : ∀ (same : Bool) (f : F32) (k : Ctx), ∃ xs, (if same then k else k.scaleHist f) = { k with recs := xs } := fun same f k => by
    cases same
    · exact ⟨_, rfl⟩
    · exact ⟨_, rfl⟩
  obtain ⟨xs, e⟩ := histories (l.1 == k.step.scale) (if k.step.scale.toNat < l.1.toNat then 0x40000000#32 else 0x3F000000#32)
    (k.modArith fun a => { a with skipped := satAdd 24 a.skipped (b2n (k.step.decided && k.step.decision)) })
  exact ⟨xs, congrArg (fun k : Ctx => k.modStep fun t => { t with scale := l.1, clean := l.2 }) e⟩

/-- A context after its step's local commit, before it joins the commit wave. -/
def Ctx.applied (k : Ctx) (r : Run) : Ctx :=
  (((k.mergeAll.commitRecs r).modStep fun t => { t with applied := r.epoch }).commitLoss).modStep fun t =>
    { t with decided := false, decision := false, fixed := false, stepctl := false, ovfBit := false }

theorem Ctx.applied_spec (k : Ctx) (r : Run) : let l := k.step.nextLoss k.cleanRun
    (k.applied r).host = k.host ∧ (k.applied r).step = { k.step with
      applied := r.epoch, decided := false, decision := false, fixed := false, stepctl := false, ovfBit := false
      scale := l.1, clean := l.2 } ∧
    (k.applied r).arith.skipped = satAdd 24 k.arith.skipped (b2n (k.step.decided && k.step.decision)) := by
  obtain ⟨xs, f, merged⟩ := k.merged_eq r
  obtain ⟨ys, lost⟩ := ((k.mergeAll.commitRecs r).modStep fun t => { t with applied := r.epoch }).commitLoss_eq
  rw [Ctx.applied, lost, merged]
  exact ⟨rfl, rfl, rfl⟩

/-! ## The commit wave (07 R183, R184) -/

/-- What a member's contribution does: the wave is set or goes on, and messages go out. -/
structure InWave (n : Nat) (s t : State) : Prop where
  ctx : ∃ w, t.ctx n = (s.ctx n).modStep fun k => { k with wave := some w }
  hosts : SameHosts s t
  rest : t = { s with ctxs := t.ctxs, ports := t.ports, dirs := t.dirs, link := t.link }

theorem InWave.of_send {n : Nat} {s u t : State} (h : InWave n s u) (sent : LinkOnly u t) : InWave n s t := by
  have ctxs := sent.ctxs
  refine ⟨by rw [State.ctx, ctxs]; exact h.ctx, h.hosts.trans (SameHosts.of_ctxs ctxs), ?_⟩
  obtain ⟨ps, ds, l, rfl⟩ := sent
  rw [h.rest]

theorem State.contribute_member {s : State} (hm : s.link.member = true) (n : Nat) : InWave n s (s.contribute n) := by
  have started : ∀ e, InWave n s (s.startWave n e) := fun e => by
    refine InWave.of_send ?_ (LinkOnly.sendWave ..)
    exact ⟨⟨_, State.ctx_modCtx ..⟩, SameHosts.modCtx s n fun _ => rfl, rfl⟩
  unfold State.contribute
  simp only [hm, Bool.not_true, Bool.false_eq_true, if_false]
  split
  case h_1 w hw =>
    split
    · have still : (s.ctx n) = (s.ctx n).modStep fun k => { k with wave := some w } := by rw [← hw]; rfl
      exact InWave.of_send ⟨⟨w, still⟩, SameHosts.refl s, rfl⟩ (LinkOnly.sendWave s n)
    · exact started _
  case h_2 => exact started _

theorem CmdsKept.contribute (s : State) (n : Nat) : CmdsKept s (s.contribute n) := by
  cases hm : s.link.member with
  | true => exact (State.contribute_member hm n).hosts.cmds
  | false =>
    unfold State.contribute
    simp only [hm, Bool.not_false, if_true]
    exact CmdsKept.committed ..

/-! ## The end of a RUN (07 R180, 13 R364) -/

theorem State.govPeriod_ctxs (s : State) : s.govPeriod.ctxs = s.ctxs := rfl

theorem State.ctx_modStepOf (s : State) (n : Nat) (f : CtxStep → CtxStep) : (s.modStepOf n f).ctx n = (s.ctx n).modStep f :=
  State.ctx_modCtx ..

theorem State.ledgerSlot_ctxs (s : State) (n : Nat) : (s.ledgerSlot n).ctxs = s.ctxs := rfl

theorem State.putStepBlock_ctxs (s : State) (n epoch : Nat) (prev replay : Bool) : (s.putStepBlock n epoch prev replay).ctxs = s.ctxs := by
  unfold State.putStepBlock
  split
  · exact State.store_ctxs ..
  · rfl

theorem State.localCommit_spec (s : State) (n : Nat) (r : Run) : CmdsKept s (s.localCommit n r) ∧
    (s.link.member = true → ∃ w, (s.localCommit n r).ctx n = ((s.ctx n).applied r).modStep fun k => { k with wave := some w }) := by
  unfold State.localCommit
  dsimp only
  generalize ((s.ctx n).step.decided && (s.ctx n).step.decision) = set
  set u := s.modCtx n fun k => ((k.mergeAll.commitRecs r).modStep fun t => { t with applied := r.epoch }).commitLoss with hu
  have merged : SameHosts s u := SameHosts.modCtx s n fun k => by
    obtain ⟨xs, f, merged⟩ := k.merged_eq r
    obtain ⟨ys, lost⟩ := ((k.mergeAll.commitRecs r).modStep fun t => { t with applied := r.epoch }).commitLoss_eq
    rw [lost, merged]; rfl
  set v := (u.modStepOf n fun t => { t with decided := false, decision := false, fixed := false, stepctl := false, ovfBit := false }).ledgerSlot n
    with hv
  have hosts : SameHosts s v := (merged.trans (SameHosts.modStepOf ..)).trans (SameHosts.of_ctxs (State.ledgerSlot_ctxs ..))
  have here : v.ctx n = (s.ctx n).applied r := by
    rw [hv, State.ctx, State.ledgerSlot_ctxs]
    refine (State.ctx_modStepOf ..).trans ?_
    rw [hu, State.ctx_modCtx]; rfl
  have stored : ∀ t : State, ((t.putStepBlock n ((r.epoch + 1) % 2 ^ 48) set false).govPeriod).ctxs = t.ctxs := fun t => by
    rw [State.govPeriod_ctxs, State.putStepBlock_ctxs]
  refine ⟨(hosts.cmds.trans (CmdsKept.contribute v n)).trans (SameHosts.of_ctxs (stored _)).cmds, fun hm => ?_⟩
  obtain ⟨w, joined⟩ := (State.contribute_member (s := v) hm n).ctx
  refine ⟨w, ?_⟩
  rw [State.ctx, stored]
  exact joined.trans (by rw [here])

theorem State.dropLast_frame (s : State) (i : Nat) : ∃ a b, s.dropLast i = { s with lastA := a, lastB := b } := by
  unfold State.dropLast State.setLast
  dsimp only
  split
  · exact ⟨_, _, rfl⟩
  · split
    · exact ⟨_, _, rfl⟩
    · exact ⟨_, _, rfl⟩

theorem State.setOwner_frame (s : State) (p owner : Nat) : ∃ h, s.setOwner p owner = { s with host := h } := by
  unfold State.setOwner
  dsimp only
  split
  · exact ⟨_, rfl⟩
  · exact ⟨_, rfl⟩

theorem State.releasePages_frame (s : State) (n : Nat) (r : Run) : ∃ h, s.releasePages n r = { s with host := h } := by
  unfold State.releasePages
  generalize upFrom r.relFirst r.relCount = ps
  induction ps generalizing s with
  | nil => exact ⟨_, rfl⟩
  | cons p ps ih =>
    rw [List.foldl_cons]
    split
    · obtain ⟨g, first⟩ := s.setOwner_frame p 1
      obtain ⟨h, rest⟩ := ih (s.setOwner p 1)
      exact ⟨h, by rw [rest, first]⟩
    · exact ih s

/-- What a RUN that leaves takes with it: of its context the RUN, its tasks and its space; the last; and owners of pages. -/
theorem State.leaveRun_spec (s : State) (n : Nat) (r : Run) : SameHosts s (s.leaveRun n r) ∧ (s.leaveRun n r).mem = s.mem ∧
    ∃ m p, (s.leaveRun n r).ctx n = { s.ctx n with runs := (s.ctx n).runs.filter fun x => x.id != r.id, pool := p, mem := m } := by
  unfold State.leaveRun
  set u := s.modCtx n fun k => { k with runs := k.runs.filter fun x => x.id != r.id, pool := k.pool.filter fun t => t.run != r.id } with hu
  have left : SameHosts s u := SameHosts.modCtx s n fun _ => rfl
  obtain ⟨a, b, dropped⟩ := u.dropLast_frame r.latched
  obtain ⟨h, owned⟩ := (u.dropLast r.latched).releasePages_frame n r
  have ctxs : ((u.dropLast r.latched).releasePages n r).ctxs = u.ctxs := by rw [owned, dropped]
  refine ⟨(left.trans (SameHosts.of_ctxs ctxs)).trans (SameHosts.setUsed ..), ?_, ?_⟩
  · change ((u.dropLast r.latched).releasePages n r).mem = s.mem
    rw [owned, dropped]; rfl
  · rw [State.subUsed, State.ctx_modCtx, State.ctx, ctxs]
    change ∃ m p, Ctx.modMem (u.ctx n) _ = _
    rw [hu, State.ctx_modCtx]
    exact ⟨_, _, rfl⟩

section
variable {n : CtxN} {tag : Tag} {s : State} {r : Run} (hr : (s.ctx n.val).runs.find? (fun r => r.tag == tag) = some r)
include hr

theorem exec_runEnd_waits (h : s.live = false ∨ s.runDone n.val r = false) : Answers (.runEnd n tag) s s := by
  change execRunEnd n tag s 0 = _
  simp only [execRunEnd, hr]
  rcases h with h | h <;> simp [h]

theorem exec_runEnd (live : s.live = true) (hd : s.runDone n.val r = true) : exec (.runEnd n tag) s =
    .next (((if r.step then s.localCommit n.val r else s.modCtx n.val fun k => k.mergeAll.commitRecs r).leaveRun n.val r).finish n.val 0x31 tag 0
      (lastResult r.latched) r.ran) := by
  change execRunEnd n tag s 0 = _
  simp only [execRunEnd, hr, live, hd, Bool.not_true, Bool.or_self, Bool.false_eq_true, if_false, State.cross_zero]

/-- A RUN that is done ends, and its step is applied (07 R180, 03 R69). -/
theorem runEnd_ends (live : s.live = true) (hd : s.runDone n.val r = true) (hc : s.cmd? n.val 0x31 tag true ≠ none) : let k := s.ctx n.val
    ∃ t, Answers (.runEnd n tag) s t ∧ Done t n.val 0x31 tag 0 (lastResult r.latched) r.ran ∧
      (r.step = false → (t.ctx n.val).runs = k.runs.filter (fun x => x.id != r.id) ∧ (t.ctx n.val).step = k.step ∧ t.mem = s.mem) ∧
      (r.step = true → s.link.member = true → ∃ w, (t.ctx n.val).step = { (k.applied r).step with wave := some w } ∧
        (t.ctx n.val).arith = (k.applied r).arith) := by
  intro k
  obtain ⟨c, hc⟩ := Option.ne_none_iff_exists'.1 hc
  obtain ⟨xs, f, merged⟩ := k.merged_eq r
  obtain ⟨commit, joined⟩ := s.localCommit_spec n.val r
  set u := if r.step then s.localCommit n.val r else s.modCtx n.val fun k => k.mergeAll.commitRecs r with hu
  have kept : CmdsKept s u := by
    rw [hu]
    split
    · exact commit
    · refine (SameHosts.modCtx s n.val fun k => ?_).cmds
      obtain ⟨xs, f, merged⟩ := k.merged_eq r
      rw [merged]
  obtain ⟨hosts, mem, m, p, here⟩ := u.leaveRun_spec n.val r
  have running := ((kept.trans hosts.cmds).cmd n.val 0x31 tag true (by decide)).trans hc
  have ended : ∀ {α : Type} (g : Ctx → α), (∀ k h, g (k.modHost h) = g k) →
      g (((u.leaveRun n.val r).finish n.val 0x31 tag 0 (lastResult r.latched) r.ran).ctx n.val) = g ((u.leaveRun n.val r).ctx n.val) := fun g hg => by
    rw [State.finish, State.finishWith, running]
    dsimp only
    rw [State.ctx_modCHost, if_pos rfl, hg]
  refine ⟨_, exec_runEnd hr live hd, State.finish_done running .., fun hs => ?_, fun hs hm => ?_⟩
  · have plain : u = s.modCtx n.val fun k => k.mergeAll.commitRecs r := by rw [hu, hs]; rfl
    have ctx : u.ctx n.val = { k with recs := xs, arith := { k.arith with farOff := f }, mergeQ := [] } := by
      rw [plain, State.ctx_modCtx, merged]
    refine ⟨?_, ?_, ?_⟩
    · rw [ended Ctx.runs fun _ _ => rfl, here, ctx]
    · rw [ended Ctx.step fun _ _ => rfl, here, ctx]
    · rw [State.finish_mem, mem, plain]; rfl
  · have stepped : u = s.localCommit n.val r := by rw [hu, hs]; rfl
    obtain ⟨w, ctx⟩ := joined hm
    refine ⟨w, ?_, ?_⟩
    · rw [ended Ctx.step fun _ _ => rfl, here, stepped, ctx]; rfl
    · rw [ended Ctx.arith fun _ _ => rfl, here, stepped, ctx]; rfl

end

/-! ## The loss scale (07 R177) -/

/-- The loss scale 2^i. -/
def lossPow (i : Nat) : F32 := BitVec.ofNat 32 ((127 + i) * 2 ^ 23)

theorem lossPow_succ (i : Nat) : lossPow (i + 1) = lossPow i + 0x00800000#32 := by
  rw [lossPow, lossPow, ← BitVec.ofNat_add]
  exact congrArg (BitVec.ofNat 32) (by omega)

theorem lossPow_zero : lossPow 0 = 0x3F800000#32 := by decide

theorem lossPow_thirty : lossPow 30 = 0x4E800000#32 := by decide

/-- Of the loss scales up to 2^30 each is another. -/
theorem lossPow_inj {i j : Nat} (hi : i ≤ 30) (hj : j ≤ 30) : lossPow i = lossPow j ↔ i = j := by
  refine ⟨fun h => ?_, fun h => h ▸ rfl⟩
  have h := congrArg BitVec.toNat h
  simp only [lossPow, BitVec.toNat_ofNat] at h
  omega

section
variable {t : CtxStep} {e cr : Nat} (he : e ≤ 30) (hl : t.scale = lossPow e)
include he hl

/-- An overflow halves the loss scale, down to 1. -/
theorem CtxStep.nextLoss_overflow (hd : t.decided = true) (ho : t.decision = true) : t.nextLoss cr = (lossPow (e - 1), 0) := by
  have least : (t.scale == 0x3F800000#32) = decide (e = 0) := by
    rw [hl, ← lossPow_zero, Bool.eq_iff_iff, beq_iff_eq, decide_eq_true_iff, lossPow_inj he (by omega)]
  simp only [CtxStep.nextLoss, hd, ho, least, Bool.not_true, Bool.false_eq_true, if_false, if_true, decide_eq_true_eq]
  cases e with
  | zero => rw [if_pos rfl, hl]
  | succ e => rw [if_neg (by omega), hl, lossPow_succ, BitVec.add_sub_cancel, Nat.add_sub_cancel]

/-- The last of a run of clean steps doubles the loss scale, up to 2^30. -/
theorem CtxStep.nextLoss_rises (hd : t.decided = true) (ho : t.decision = false) (hc : t.clean + 1 = cr) :
    t.nextLoss cr = (lossPow (min (e + 1) 30), 0) := by
  have most : (t.scale == 0x4E800000#32) = decide (e = 30) := by
    rw [hl, ← lossPow_thirty, Bool.eq_iff_iff, beq_iff_eq, decide_eq_true_iff, lossPow_inj he (by omega)]
  simp only [CtxStep.nextLoss, hd, ho, most, hc, Nat.lt_irrefl, Bool.not_true, Bool.false_eq_true, if_false, decide_eq_true_eq]
  by_cases h : e = 30
  · rw [if_pos h, hl, h, Nat.min_eq_right (by omega)]
  · rw [if_neg h, hl, Nat.min_eq_left (by omega), lossPow_succ]

end

/-! ## The end of the wave (07 R183) -/

/-- A step part once step `e` is committed on the module. -/
def CtxStep.committedAt (t : CtxStep) (e : Nat) : CtxStep :=
  let prev := (e + 2 ^ 48 - 1) % 2 ^ 48
  { t with
    committed := e, wave := none
    retained := t.retained.filter fun r => r.epoch != prev
    journal := t.journal.filter fun j => j.epoch != prev }

section
variable {n : CtxN} {s : State} {w : Wave} (hw : (s.ctx n.val).step.wave = some w)
include hw

theorem exec_commitWaveComplete_waits (h : w.stage < s.groupDims.length) : Answers (.commitWaveComplete n) s s := by
  change execCommitWaveComplete n s 0 = _
  simp only [execCommitWaveComplete, hw, h, if_true]

/-- Words that differ raise FC_EPOCH_MISMATCH, and the wave is over. -/
theorem commitWaveComplete_mismatch (h : s.groupDims.length ≤ w.stage) (hne : w.mins ≠ w.maxs) (hf : s.flt.active = false) :
    ∃ t, Answers (.commitWaveComplete n) s t ∧ t.flt.active = true ∧ (t.record s.hlt.nextSeq).cls = 0x107 ∧
      (t.record s.hlt.nextSeq).detail = 0#64 ∧ (t.ctx n.val).step.wave = none ∧
      (t.ctx n.val).step.committed = (s.ctx n.val).step.committed ∧ t.mem = s.mem := by
  have run : exec (.commitWaveComplete n) s = .next ((s.setWave n.val none).epochMismatch n.val 0) := by
    change execCommitWaveComplete n s 0 = _
    simp only [execCommitWaveComplete, hw, Nat.not_lt.2 h, if_false, bne_iff_ne.2 hne, if_true]
  set v := s.setWave n.val none with hv
  have here : (v.epochMismatch n.val 0).ctx n.val = (s.ctx n.val).modStep fun t => { t with wave := none } := by
    rw [State.ctx, State.epochMismatch, State.fatal_ctxs]
    exact State.ctx_modCtx ..
  obtain ⟨mem, -, active, u, rec_⟩ := State.fatal_first (s := v) hf
    { cls := 0x107, ctx := n.val, subject := v.link.coord, detail := BitVec.ofNat 64 0 }
  refine ⟨_, run, active, ?_, ?_, ?_, ?_, mem⟩
  · exact (congrArg FRec.cls rec_).trans rfl
  · exact (congrArg FRec.detail rec_).trans rfl
  · rw [here]; rfl
  · rw [here]; rfl

/-- Words that agree commit the step. -/
theorem commitWaveComplete_commits (h : s.groupDims.length ≤ w.stage) (heq : w.mins = w.maxs)
    (hr : ∀ r ∈ (s.ctx n.val).runs, r.released = true) (hop : (s.ctx n.val).snap.op = none) :
    let v := s.modStepOf n.val fun t => t.committedAt w.epoch
    Answers (.commitWaveComplete n) s (v.ledgerSlot n.val) := by
  intro v
  change execCommitWaveComplete n s 0 = _
  simp only [execCommitWaveComplete, hw, Nat.not_lt.2 h, if_false, heq, bne_self_eq_false, Bool.false_eq_true, State.cross_zero]
  have ctx : (v.ledgerSlot n.val).ctx n.val = (s.ctx n.val).modStep fun t => t.committedAt w.epoch := by
    rw [State.ctx, State.ledgerSlot_ctxs]
    exact State.ctx_modStepOf s n.val _
  have held : ((v.ledgerSlot n.val).ctx n.val).runs.filter (fun r => !r.released) = [] := by
    rw [ctx]
    exact List.filter_eq_nil_iff.2 fun r hmem => by simp [hr r hmem]
  have free : (v.ledgerSlot n.val).releaseHeld n.val = v.ledgerSlot n.val := by rw [State.releaseHeld, held]
  have still : (v.ledgerSlot n.val).beginStop n.val = v.ledgerSlot n.val := by
    have none_ : ((v.ledgerSlot n.val).ctx n.val).snap.op = none := by rw [ctx]; exact hop
    rw [State.beginStop, none_]
  change Host.Outcome.next (((v.ledgerSlot n.val).releaseHeld n.val).beginStop n.val) = _
  rw [free, still]

end

/-! ## PROGRAM_LOAD (13 R363) -/

theorem any_updFirst {α : Type} {p q : α → Bool} {f : α → α} (h : ∀ x, q (f x) = q x) (l : List α) : (updFirst p f l).any q = l.any q := by
  induction l with
  | nil => rfl
  | cons x l ih =>
    rw [updFirst]
    split
    · simp [h]
    · simp [ih]

/-- A command's start changes no RUN in progress. -/
theorem State.started_runInProgress (s : State) (n op : Nat) (tag : BitVec 16) :
    ((s.started n op tag).ctx n).runInProgress = (s.ctx n).runInProgress := by
  rw [State.started, State.ctx_modCHost, if_pos rfl]
  exact congrArg (fun b => !(s.ctx n).runs.isEmpty || b || (s.ctx n).host.comps.any fun e => e.opcode == 0x31)
    (any_updFirst (q := fun c : Cmd => c.opcode == 0x31) (f := fun c => { c with running := true }) (fun _ => rfl) _)

/-- A context with a program installed. -/
def Ctx.installed (k : Ctx) (p : Prog) (base : Nat) : Ctx :=
  { k with
    prog := some p
    mem := { k.mem with taskArea := some (base, p.areaUnits) }
    step := { k.step with scale := p.recipe.initLs, clean := 0 } }

/-- An installed program has its task area and the recipe's loss scale; a fill of the old area may start. -/
theorem State.install_spec (s : State) (n : Nat) (p : Prog) (base : Nat) : let t := s.install n p base
    t.ctx n = (s.ctx n).installed p base ∧ SameHosts s t ∧ t.mem = s.mem ∧ t.cores = s.cores := by
  intro t
  obtain ⟨fs, ht⟩ : ∃ fs, t = { s.modCtx n (·.installed p base) with fills := fs } := by
    change ∃ fs, State.install s n p base = _
    unfold State.install
    dsimp only
    split
    · exact ⟨_, rfl⟩
    · exact ⟨_, rfl⟩
  rw [ht]
  exact ⟨State.ctx_modCtx s n (·.installed p base), ⟨(SameHosts.modCtx s n (f := (·.installed p base)) fun _ => rfl).host⟩, rfl, rfl⟩

/-- PROGRAM_LOAD once it begins. -/
def State.loadProgram (n : Nat) (tag : BitVec 16) (c : Cmd) (s : State) : State :=
  let a := c.p 16 8
  let len := c.p 24 8
  let stop := fun (s : State) st => s.finish n 0x30 tag st 0 0
  if (s.ctx n).runInProgress then stop s 0x23E
  else if !s.inT1Allocs n a len then stop s 0x204
  else s.cross 0 a 4 n none fun s =>
    match s.load a len with
    | (.inr w, s) => s.uncorrFault w 4 n none
    | (.inl bs, s) =>
      if imageStatus bs != 0 then stop s (imageStatus bs)
      else
        let p := parseProg a bs
        match s.takeArea 0 (p.areaUnits * unit2M) with
        | none => stop s 0x211
        | some b => stop (s.install n p b) 0

section
variable {s : State} {n : Nat} (tag : BitVec 16) {c : Cmd}

theorem State.loadProgram_busy (h : (s.ctx n).runInProgress = true) : State.loadProgram n tag c s = s.finish n 0x30 tag 0x23E 0 0 := by
  unfold State.loadProgram
  extract_lets a len stop
  rw [if_pos h]

variable (h0 : (s.ctx n).runInProgress = false)
include h0

theorem State.loadProgram_outside (h : s.inT1Allocs n (c.p 16 8) (c.p 24 8) = false) :
    State.loadProgram n tag c s = s.finish n 0x30 tag 0x204 0 0 := by
  unfold State.loadProgram
  extract_lets a len stop
  rw [if_neg (by simp [h0]), if_pos (by simp [a, len, h])]

variable (hin : s.inT1Allocs n (c.p 16 8) (c.p 24 8) = true) (hs : CleanStore s)
include hin hs

theorem State.loadProgram_bad (h : imageStatus (s.bytes (c.p 16 8) (c.p 24 8)) ≠ 0) :
    State.loadProgram n tag c s = s.finish n 0x30 tag (imageStatus (s.bytes (c.p 16 8) (c.p 24 8))) 0 0 := by
  unfold State.loadProgram
  extract_lets a len stop
  rw [if_neg (by simp [h0]), if_neg (by simp [a, len, hin]), State.cross_zero, State.load_clean hs]
  exact if_pos (bne_iff_ne.2 h)

variable (h : imageStatus (s.bytes (c.p 16 8) (c.p 24 8)) = 0)
include h

theorem State.loadProgram_full (ht : s.takeArea 0 ((parseProg (c.p 16 8) (s.bytes (c.p 16 8) (c.p 24 8))).areaUnits * unit2M) = none) :
    State.loadProgram n tag c s = s.finish n 0x30 tag 0x211 0 0 := by
  unfold State.loadProgram
  extract_lets a len stop
  rw [if_neg (by simp [h0]), if_neg (by simp [a, len, hin]), State.cross_zero, State.load_clean hs]
  refine (if_neg (by simpa using h)).trans ?_
  extract_lets p
  rw [show s.takeArea 0 (p.areaUnits * unit2M) = none from ht]

theorem State.loadProgram_installs {b : Nat}
    (ht : s.takeArea 0 ((parseProg (c.p 16 8) (s.bytes (c.p 16 8) (c.p 24 8))).areaUnits * unit2M) = some b) : State.loadProgram n tag c s =
    (s.install n (parseProg (c.p 16 8) (s.bytes (c.p 16 8) (c.p 24 8))) b).finish n 0x30 tag 0 0 0 := by
  unfold State.loadProgram
  extract_lets a len stop
  rw [if_neg (by simp [h0]), if_neg (by simp [a, len, hin]), State.cross_zero, State.load_clean hs]
  refine (if_neg (by simpa using h)).trans ?_
  extract_lets p
  rw [show s.takeArea 0 (p.areaUnits * unit2M) = some b from ht]

end

section
variable {n : CtxN} {tag : Tag} {c : Cmd} {s : State} (hb : Begins s n.val 0x30 tag c)
include hb

theorem exec_programLoad_waits (h : s.programWaits n.val c = true) : Answers (.programLoad n tag) s s := by
  have waits : ∀ body, s.commandIf n.val 0x30 tag (fun c => !s.programWaits n.val c) body = s := fun body => by
    simp only [State.commandIf, hb.cmd, h, Bool.not_true, Bool.false_eq_true, if_false]
  exact congrArg Host.Outcome.next (waits _)

theorem exec_programLoad_begins (h : s.programWaits n.val c = false) :
    exec (.programLoad n tag) s = .next (State.loadProgram n.val tag c (s.started n.val 0x30 tag)) := by
  have unfolded : execProgramLoad n tag s 0 =
    .next (s.commandIf n.val 0x30 tag (fun c => !s.programWaits n.val c) (State.loadProgram n.val tag)) := rfl
  exact unfolded.trans (congrArg Host.Outcome.next (State.commandIf_runs hb (by rw [h]; rfl) _))

end

/-! ## RUN before it is admitted (13 R364, 06 R165, 09 R222) -/

theorem State.findRoom_ne_overQuota (s : State) (tier place units more : Nat) : s.findRoom tier place units more ≠ .overQuota := by
  unfold State.findRoom
  dsimp only
  repeat' split
  all_goals simp

/-- The charge of a RUN: quota first, then exhaustion of either part, then a fill that either waits for. -/
theorem State.chargeRun_order (s : State) (n u j : Nat) : let k := s.ctx n
    let past := u + j ≠ 0 ∧ k.mem.lim1 < k.mem.used1 + k.step.retained.length + (u + j)
    let room := fun (x : Charge) => (u ≠ 0 ∧ s.findRoom 1 4 u j = x) ∨ (j ≠ 0 ∧ s.findRoom 1 4 j u = x)
    (past → s.chargeRun n u j = .overQuota) ∧ (¬ past → room .exhausted → s.chargeRun n u j = .exhausted) ∧
      (¬ past → ¬ room .exhausted → room .wait → s.chargeRun n u j = .wait) ∧
      (¬ past → ¬ room .exhausted → ¬ room .wait → ∃ b, s.chargeRun n u j = .ok b) := by
  intro k past room
  have quota : (k.usedIn 1 + (u + j) > k.mem.limit 1) ↔ k.mem.lim1 < k.mem.used1 + k.step.retained.length + (u + j) := Iff.rfl
  by_cases h0 : u + j = 0
  · have hu : u = 0 := by omega
    have hj : j = 0 := by omega
    subst hu hj
    have free : s.chargeRun n 0 0 = .ok 0 := rfl
    simp [past, room, free]
  · by_cases hp : k.mem.lim1 < k.mem.used1 + k.step.retained.length + (u + j)
    · have exceeded : s.chargeRun n u j = .overQuota := by
        rw [State.chargeRun, if_neg (by simpa using h0), if_pos (quota.2 hp)]
      have isPast : past := ⟨h0, hp⟩
      exact ⟨fun _ => exceeded, fun h => absurd isPast h, fun h => absurd isPast h, fun h => absurd isPast h⟩
    · have placed : ∀ a b : Nat, (if a == 0 then Charge.ok 0 else s.findRoom 1 4 a b) ≠ .overQuota ∧
          ∀ x : Charge, x = .exhausted ∨ x = .wait →
            ((if a == 0 then Charge.ok 0 else s.findRoom 1 4 a b) = x ↔ a ≠ 0 ∧ s.findRoom 1 4 a b = x) := by
        intro a b
        by_cases ha : a = 0
        · subst ha
          exact ⟨by simp, fun x hx => by rcases hx with rfl | rfl <;> simp⟩
        · simp [ha, s.findRoom_ne_overQuota]
      obtain ⟨a1, a2⟩ := placed u j
      obtain ⟨b1, b2⟩ := placed j u
      have exhausted : room .exhausted ↔ _ := or_congr (a2 .exhausted (.inl rfl)).symm (b2 .exhausted (.inl rfl)).symm
      have wait : room .wait ↔ _ := or_congr (a2 .wait (.inr rfl)).symm (b2 .wait (.inr rfl)).symm
      rw [State.chargeRun, if_neg (by simpa using h0), if_neg (fun h => hp (quota.1 h)), exhausted, wait]
      simp only [past, hp, and_false, not_false_eq_true, forall_const, false_implies, true_and]
      generalize (if u == 0 then Charge.ok 0 else s.findRoom 1 4 u j) = x at a1 ⊢
      generalize (if j == 0 then Charge.ok 0 else s.findRoom 1 4 j u) = y at b1 ⊢
      refine ⟨fun h => ?_, fun hx h => ?_, fun hx hw => ?_⟩
      · rcases h with rfl | rfl
        · rfl
        · cases x <;> rfl
      · rw [not_or] at hx
        rcases h with rfl | rfl
        · cases y with
          | exhausted => exact absurd rfl hx.2
          | _ => rfl
        · cases x with
          | exhausted => exact absurd rfl hx.1
          | _ => rfl
      · rw [not_or] at hx hw
        cases x with
        | ok b =>
          cases y with
          | ok b' => exact ⟨b, rfl⟩
          | overQuota => exact absurd rfl b1
          | exhausted => exact absurd rfl hx.2
          | wait => exact absurd rfl hw.2
        | overQuota => exact absurd rfl a1
        | exhausted => exact absurd rfl hx.1
        | wait => exact absurd rfl hw.1

/-- RUN's checks in their order (log 34). -/
theorem State.runStatus_order (s : State) (n : Nat) (c : Cmd) : let k := s.ctx n
    let e := c.p 16 8
    let st := s.runStatus n c
    let next := e = noStep ∨ (e ≠ k.step.applied ∧ e = (k.step.applied + 1) % 2 ^ 48)
    (s.rangeDevice n (c.p 32 4) (c.p 36 4) = false → st = 0x204) ∧
    (s.rangeDevice n (c.p 32 4) (c.p 36 4) = true → (k.prog = none → st = 0x223) ∧
      (k.prog ≠ none → e ≠ noStep → e = k.step.applied → st = 0x231) ∧
      (k.prog ≠ none → e ≠ noStep → e ≠ k.step.applied → e ≠ (k.step.applied + 1) % 2 ^ 48 → st = 0x232) ∧
      (k.prog ≠ none → next → (s.giveLast (c.p 8 1) = none → st = 0x238) ∧ (s.giveLast (c.p 8 1) ≠ none → st = 0))) := by
  intro k e st next
  simp only [st, State.runStatus]
  refine ⟨fun h => by simp [h], fun h => ⟨fun hp => by simp [h, k, hp], fun hp => ?_, fun hp => ?_, fun hp hn => ?_⟩⟩
  all_goals
    obtain ⟨p, hp⟩ := Option.ne_none_iff_exists'.1 hp
    simp only [h, show (s.ctx n).prog = some p from hp, Bool.not_true, Bool.false_eq_true, if_false, Option.isNone_some]
  · exact fun h1 h2 => by rw [if_pos (by rw [Bool.and_eq_true, bne_iff_ne, beq_iff_eq]; exact ⟨h1, h2⟩)]
  · exact fun h1 h2 h3 => by rw [if_neg (by simpa using fun _ => h2), if_pos (by simpa using ⟨h1, h3⟩)]
  · have old : ¬ (c.p 16 8 != noStep && c.p 16 8 == (s.ctx n).step.applied) = true := by
      rcases hn with h1 | ⟨h1, -⟩
      · simp [show c.p 16 8 = noStep from h1]
      · simpa using fun _ => h1
    have far : ¬ (c.p 16 8 != noStep && c.p 16 8 != ((s.ctx n).step.applied + 1) % 2 ^ 48) = true := by
      rcases hn with h1 | ⟨-, h1⟩
      · simp [show c.p 16 8 = noStep from h1]
      · simpa using fun _ => h1
    rw [if_neg old, if_neg far]
    exact ⟨fun hl => by simp [hl], fun hl => by rw [if_neg (by simpa using hl)]⟩

section
variable (s : State) (n op : Nat) (tag : BitVec 16)

theorem State.runStatus_started (m : Nat) (c : Cmd) : (s.started n op tag).runStatus m c = s.runStatus m c := by
  have books := SameBooks.started s n op tag
  rw [State.runStatus, books.prog, books.step]; rfl

theorem State.runCharge_started (m : Nat) (c : Cmd) (p : Prog) : (s.started n op tag).runCharge m c p = s.runCharge m c p := by
  have books := SameBooks.started s n op tag
  simp [State.runCharge, State.chargeRun, Ctx.usedIn, books.step, books.mem, books.findRoom]

end

section
variable {n : CtxN} {tag : Tag} {s : State}

theorem exec_run_held (h : (s.ctx n.val).step.reshard ≠ none ∨ (s.ctx n.val).snap.stopping = true) : Answers (.run n tag) s s := by
  have held : ((s.ctx n.val).step.reshard.isSome || (s.ctx n.val).snap.stopping) = true := by
    rcases h with h | h
    · simp [Option.isSome_iff_ne_none.2 h]
    · simp [h]
  change execRun n tag s = _
  rw [execRun, if_pos held]

variable {c : Cmd} (hresh : (s.ctx n.val).step.reshard = none) (hstop : (s.ctx n.val).snap.stopping = false) (hb : Begins s n.val 0x31 tag c)
include hresh hstop hb

theorem exec_run_waits (h : s.runWaits n.val c = true) : Answers (.run n tag) s s := by
  change execRun n tag s = _
  simp only [execRun, hresh, hstop, Option.isSome_none, Bool.or_self, Bool.false_eq_true, if_false, State.commandIf, hb.cmd, h, Bool.not_true]

/-- A RUN that fails a check ends with its status. -/
theorem exec_run_refused (h : s.runStatus n.val c ≠ 0) :
    exec (.run n tag) s = .next ((s.started n.val 0x31 tag).finish n.val 0x31 tag (s.runStatus n.val c) 0 0) := by
  have go : (!s.runWaits n.val c) = true := by
    rw [State.runWaits]
    split
    · simp [h]
    · rfl
  change execRun n tag s = _
  simp only [execRun, hresh, hstop, Option.isSome_none, Bool.or_self, Bool.false_eq_true, if_false,
    State.commandIf_runs hb (go := fun c => !s.runWaits n.val c) go, State.runStatus_started, bne_iff_ne.2 h, if_true]

variable {p : Prog} {l : Nat} (hp : (s.ctx n.val).prog = some p) (hl : s.giveLast (c.p 8 1) = some l) (h0 : s.runStatus n.val c = 0)
include hp hl h0

/-- A RUN that passes its checks is charged: it ends, waits, or is admitted. -/
theorem exec_run_charged : let v := s.started n.val 0x31 tag
    (s.runCharge n.val c p = .overQuota → exec (.run n tag) s = .next (v.finish n.val 0x31 tag 0x210 0 0)) ∧
    (s.runCharge n.val c p = .exhausted → exec (.run n tag) s = .next (v.finish n.val 0x31 tag 0x211 0 0)) ∧
    (s.runCharge n.val c p = .wait → exec (.run n tag) s = .next s) ∧
    (∀ b, s.runCharge n.val c p = .ok b → exec (.run n tag) s = .next (v.admitRun n.val tag c p l)) := by
  intro v
  have waits : s.runWaits n.val c = (s.runCharge n.val c p == .wait) := by rw [State.runWaits, hp]; simp [h0]
  have runs : s.runCharge n.val c p ≠ .wait → execRun n tag s = .next (match s.runCharge n.val c p with
      | .overQuota => v.finish n.val 0x31 tag 0x210 0 0
      | .exhausted => v.finish n.val 0x31 tag 0x211 0 0
      | _ => v.admitRun n.val tag c p l) := fun h => by
    simp only [execRun, hresh, hstop, Option.isSome_none, Bool.or_self, Bool.false_eq_true, if_false,
      State.commandIf_runs hb (go := fun c => !s.runWaits n.val c) (by simp [waits, h]), State.runStatus_started, h0, bne_self_eq_false,
      (SameBooks.started s n.val 0x31 tag).prog, hp, show (s.started n.val 0x31 tag).giveLast = s.giveLast from rfl, hl,
      State.runCharge_started]
    exact congrArg Host.Outcome.next rfl
  refine ⟨fun h => (runs (by simp [h])).trans (by rw [h]), fun h => (runs (by simp [h])).trans (by rw [h]), fun h => ?_,
    fun b h => (runs (by simp [h])).trans (by rw [h])⟩
  exact exec_run_waits hresh hstop hb (by rw [waits, h]; rfl)

end

/-! ## What the firmware's scales leave of a context (03 R68, R69) -/

/-- What a RUN's admission looks at in its context. -/
structure RunBook where
  runs : List Run
  nextRun : Nat
  mem : CtxMem
  prog : Option Prog
  wave : Option Wave
  committed : Nat
  applied : Nat

def Ctx.runBook (k : Ctx) : RunBook := ⟨k.runs, k.nextRun, k.mem, k.prog, k.step.wave, k.step.committed, k.step.applied⟩

/-- Contexts, cores and bytes change alone, and in context `n` nothing that an admission looks at. -/
structure ScalesOnly (n : Nat) (s t : State) : Prop where
  rest : t = { s with ctxs := t.ctxs, cores := t.cores, mem := t.mem }
  book : (t.ctx n).runBook = (s.ctx n).runBook

namespace ScalesOnly
variable {n : Nat} {s t u : State}

theorem refl (n : Nat) (s : State) : ScalesOnly n s s := ⟨rfl, rfl⟩

theorem trans (h : ScalesOnly n s t) (h' : ScalesOnly n t u) : ScalesOnly n s u := ⟨h'.rest.trans (by rw [h.rest]), h'.book.trans h.book⟩

theorem clean (h : ScalesOnly n s t) (hs : CleanStore s) : CleanStore t := by rw [h.rest]; exact ⟨hs.bad, hs.arm, hs.rst⟩

theorem link (h : ScalesOnly n s t) : t.link = s.link := by rw [h.rest]

theorem last (h : ScalesOnly n s t) (i : Nat) : t.last i = s.last i := by rw [h.rest]; rfl

theorem modCtx (s : State) {f : Ctx → Ctx} (hf : ∀ k, (f k).runBook = k.runBook) : ScalesOnly n s (s.modCtx n f) :=
  ⟨rfl, by rw [State.ctx_modCtx, hf]⟩

theorem setBytes (s : State) (a : Nat) (bs : List Byte) : ScalesOnly n s (s.setBytes a bs) := ⟨rfl, rfl⟩

theorem arith (s : State) (e : Ev) (grad : Bool) : ScalesOnly n s (s.arith n e grad) := by
  refine modCtx s fun k => ?_
  unfold Ctx.charge Ctx.overflow
  dsimp only
  repeat' split
  all_goals rfl

theorem storeScales (hs : CleanStore s) (a : Nat) (ds : List (Nat × F32 × Ev)) : ScalesOnly n s (ds.foldl (State.storeScale n a) s) := by
  induction ds generalizing s with
  | nil => exact refl n s
  | cons d ds ih =>
    have first : ScalesOnly n s (State.storeScale n a s d) := by
      rw [State.storeScale, State.store_clean hs]
      exact setBytes ..
    exact first.trans (ih (first.clean hs))

theorem recordDescales (hs : CleanStore s) (c : Nat) (k : Core) (ds : List (Nat × F32 × Ev)) : ScalesOnly n s (s.recordDescales n c k ds) := by
  have saved : ScalesOnly n s (s.modCtx n fun x => { x with saved := SMap.set none x.saved c (some (k.putDescales ds)) }) := modCtx s fun _ => rfl
  unfold State.recordDescales
  generalize State.modCtx s n _ = v at saved ⊢
  dsimp only
  split
  · exact saved.trans (storeScales (saved.clean hs) _ _)
  · exact saved

theorem writeDescales (hs : CleanStore s) (u : ScaleUse) (only : Option (BitVec 32)) (held : Bool) (c : Nat) :
    ScalesOnly n s (State.writeDescales n u only held s c) := by
  rcases State.writeDescales_cases hs.rst n u only held c with e | e | e <;> rw [e]
  · exact refl n s
  · exact trans (t := s.modCore c _) ⟨rfl, rfl⟩ (arith ..)
  · exact (recordDescales hs ..).trans (arith ..)

theorem firmDescales (hs : CleanStore s) (u : ScaleUse) : ScalesOnly n s (s.firmDescales n u) := by
  rw [State.firmDescales_clean hs]
  unfold State.descaleCores
  generalize List.range 320 = cs
  induction cs generalizing s with
  | nil => exact refl n s
  | cons c cs ih =>
    have first := writeDescales (n := n) hs u none true c
    exact first.trans (ih (first.clean hs))

theorem putStepBlock (hs : CleanStore s) (e : Nat) (prev replay : Bool) : ScalesOnly n s (s.putStepBlock n e prev replay) := by
  unfold State.putStepBlock
  split
  · rw [State.store_clean hs]; exact setBytes ..
  · exact refl n s

/-- The serving scales of a RUN that is no step. -/
theorem serveScales (hs : CleanStore s) (r : Run) : ScalesOnly n s (s.serveScales n r) := by
  unfold State.serveScales
  split
  · exact refl n s
  · have formed : ScalesOnly n s (s.modCtx n Ctx.formServe) := modCtx s fun _ => rfl
    exact formed.trans (firmDescales (formed.clean hs) _)

/-- The scales, descales and block of a step. -/
theorem stepScales (hs : CleanStore s) (r : Run) (prev : Bool) :
    ScalesOnly n s (((s.modCtx n fun k => k.formScalesNow r.replay).firmDescales n r.scaleUse).putStepBlock n r.epoch prev r.replay) := by
  have formed : ScalesOnly n s (s.modCtx n fun k => k.formScalesNow r.replay) := modCtx s fun k => by
    unfold Ctx.formScalesNow
    dsimp only
    split <;> rfl
  have written := formed.trans (firmDescales (formed.clean hs) r.scaleUse)
  exact written.trans (putStepBlock (written.clean hs) ..)

end ScalesOnly

/-- Before a RUN's first tasks stand its scales; then it is released (03 R68, 07 R178). -/
theorem State.prepRun_clean {s : State} (hs : CleanStore s) {n id : Nat} {r : Run} (hr : (s.ctx n).run? id = some r) :
    ∃ u, ScalesOnly n s u ∧ State.prepRun n s id = u.modCtx n fun k => k.modRun id fun r => { r with released := true } := by
  rw [State.prepRun, hr]
  cases hstep : r.step with
  | false => exact ⟨s, ScalesOnly.refl n s, by simp only [hstep, Bool.not_false, if_true]⟩
  | true =>
    obtain ⟨prev, hprev⟩ : ∃ prev, s.prevSet n r.epoch = (.inl prev, s) := by
      rw [State.prevSet]
      split
      · rw [State.load_clean hs]; exact ⟨_, rfl⟩
      · exact ⟨_, rfl⟩
    simp only [hstep, Bool.not_true, Bool.false_eq_true, if_false, hprev]
    exact ⟨_, ScalesOnly.stepScales hs r prev, rfl⟩

/-! ## What a release of tasks leaves of RUNs (04 R107, R108) -/

/-- Contexts, cores and quarters change alone, but for stragglers. -/
structure SchedOnly (s t : State) : Prop where
  rest : t = { s with ctxs := t.ctxs, cores := t.cores, quarters := t.quarters, rst := t.rst }

namespace SchedOnly
variable {s t u : State}

theorem refl (s : State) : SchedOnly s s := ⟨rfl⟩

theorem trans (h : SchedOnly s t) (h' : SchedOnly t u) : SchedOnly s u := ⟨h'.rest.trans (by rw [h.rest])⟩

theorem foldl {α : Type} {f : State → α → State} (hf : ∀ s x, SchedOnly s (f s x)) (l : List α) (s : State) : SchedOnly s (l.foldl f s) := by
  induction l generalizing s with
  | nil => exact refl s
  | cons x l ih => exact (hf s x).trans (ih _)

theorem ite {p : Prop} [Decidable p] (h : SchedOnly s t) (k : SchedOnly s u) : SchedOnly s (if p then t else u) := by
  split <;> assumption

theorem last (h : SchedOnly s t) (i : Nat) : t.last i = s.last i := by rw [h.rest]; rfl

theorem stopHere (s : State) (c : Nat) : SchedOnly s (s.modCore c Core.stopHere) := ⟨rfl⟩

theorem countPreempt (s : State) (q n : Nat) : SchedOnly s (s.countPreempt q n) := ⟨rfl⟩

theorem endSlice (s : State) (q old : Nat) (new : Option Nat) : SchedOnly s (s.endSlice q old new) := by
  have stopped : SchedOnly s ((s.modQuarter q fun k => { k with phase := 1, next := new, ended := s.now, counted := false }).stopBoundary q) :=
    trans ⟨rfl⟩ (foldl stopHere _ _)
  unfold State.endSlice
  dsimp only
  split
  · exact stopped.trans (countPreempt ..)
  · exact stopped

theorem reschedule (s : State) (q : Nat) : SchedOnly s (s.reschedule q) := by
  have waits : SchedOnly s (match s.pick q with | some n => s.modQuarter q fun k => { k with next := some n } | none => s) := by
    split
    · exact ⟨rfl⟩
    · exact refl s
  refine ite (refl s) (ite waits ?_)
  split
  case h_1 => exact refl s
  case h_2 => exact ⟨rfl⟩
  case h_3 => exact ite (endSlice ..) (refl s)
  case h_4 => exact ite (endSlice ..) (ite (ite ⟨rfl⟩ (refl s)) (ite ⟨rfl⟩ (ite (endSlice ..) (refl s))))

end SchedOnly

/-- A RUN without what its tasks' progress changes. -/
def Run.bare (r : Run) : Run := { r with tasks := [], stages := [] }

/-- Tasks move: RUNs of context `n` change in their tasks and stages alone, and its books stay. -/
structure RunsStay (n : Nat) (s t : State) : Prop where
  sched : SchedOnly s t
  next : (t.ctx n).nextRun = (s.ctx n).nextRun
  mem : (t.ctx n).mem = (s.ctx n).mem
  run : ∀ i, ((t.ctx n).run? i).map Run.bare = ((s.ctx n).run? i).map Run.bare

namespace RunsStay
variable {n : Nat} {s t u : State}

theorem refl (n : Nat) (s : State) : RunsStay n s s := ⟨SchedOnly.refl s, rfl, rfl, fun _ => rfl⟩

theorem trans (h : RunsStay n s t) (h' : RunsStay n t u) : RunsStay n s u :=
  ⟨h.sched.trans h'.sched, h'.next.trans h.next, h'.mem.trans h.mem, fun i => (h'.run i).trans (h.run i)⟩

theorem foldl {α : Type} {f : State → α → State} (hf : ∀ s x, RunsStay n s (f s x)) (l : List α) (s : State) :
    RunsStay n s (l.foldl f s) := by
  induction l generalizing s with
  | nil => exact refl n s
  | cons x l ih => exact (hf s x).trans (ih _)

/-- A RUN's tasks or stages change. -/
theorem modRun (s : State) {f : Ctx → Ctx} {run : Nat} {g : Run → Run} (hnext : ∀ k, (f k).nextRun = k.nextRun)
    (hmem : ∀ k, (f k).mem = k.mem) (hrun : ∀ k, (f k).runs = (k.modRun run g).runs) (hid : ∀ r, r.id = run → (g r).id = run)
    (hbare : ((s.ctx n).run? run).map (fun r => (g r).bare) = ((s.ctx n).run? run).map Run.bare) : RunsStay n s (s.modCtx n f) := by
  refine ⟨⟨rfl⟩, ?_, ?_, fun i => ?_⟩ <;> rw [State.ctx_modCtx]
  · exact hnext _
  · exact hmem _
  · rw [Ctx.run?, hrun]
    change (((s.ctx n).modRun run g).run? i).map Run.bare = _
    rw [Ctx.run?_modRun _ hid]
    split
    · subst_vars; rw [Option.map_map]; exact hbare
    · rfl

theorem poolAdd (s : State) (run : Nat) (d : TaskDesc) : RunsStay n s (s.poolAdd n run d) := by
  have moved : ∀ f : Ctx → Ctx, (∀ k, (f k).nextRun = k.nextRun) → (∀ k, (f k).mem = k.mem) →
      (∀ k, (f k).runs = (k.modRun run fun r => r.modTask d.tid fun t => { t with st := 1 }).runs) → RunsStay n s (s.modCtx n f) :=
    fun f hnext hmem hrun => modRun s hnext hmem hrun (fun _ h => h) rfl
  unfold State.poolAdd
  split
  · refine trans (moved (fun k => k.modRun run fun r => r.modTask d.tid fun t => { t with st := 1 }) (fun _ => rfl) (fun _ => rfl) fun _ => rfl) ?_
    exact ⟨⟨rfl⟩, rfl, rfl, fun _ => rfl⟩
  · exact moved _ (fun _ => rfl) (fun _ => rfl) fun _ => rfl

theorem reschedule (s : State) (q : Nat) : RunsStay n s (s.reschedule q) := by
  obtain ⟨_, e⟩ := (Rescheduled.reschedule s q).ctx n
  refine ⟨SchedOnly.reschedule s q, ?_, ?_, fun i => ?_⟩ <;> rw [e]
  rfl

theorem makeRunnable (s : State) (ids : List (Nat × Nat)) : RunsStay n s (s.makeRunnable n ids) := by
  unfold State.makeRunnable
  split
  · exact refl n s
  · dsimp only
    generalize (ids.filterMap _).foldr insertTask [] = ds
    have added : RunsStay n s (ds.foldl (fun s d => s.poolAdd n d.1 d.2) s) := foldl (fun s d => poolAdd s d.1 d.2) ds s
    have ordered : ∀ s : State, RunsStay n s (s.modCtx n fun k => { k with order := k.order + 1 }) := fun s => by
      refine ⟨⟨rfl⟩, ?_, ?_, fun i => ?_⟩ <;> rw [State.ctx_modCtx]
      rfl
    exact (added.trans (ordered _)).trans (foldl reschedule _ _)

theorem advanceRun (s : State) {run : Nat} {r : Run} (hr : (s.ctx n).run? run = some r) : RunsStay n s (s.advanceRun n run) := by
  cases hp : (s.ctx n).prog with
  | none =>
    have still : s.advanceRun n run = s := by rw [State.advanceRun, State.advanceRuns, hp]
    rw [still]
    exact refl n s
  | some p =>
    rw [State.advanceRun_eq hp hr]
    refine trans ?_ (makeRunnable _ _)
    exact modRun s (run := run) (g := fun _ => r.admitted p) (fun _ => rfl) (fun _ => rfl) (fun _ => rfl) (fun _ _ => (Ctx.run?_id hr : r.id = run))
      (by rw [hr]; rfl)

end RunsStay

/-! ## Admission (07 R179, R182, R184, 13 R364) -/

/-- A RUN that a last serves counts there. -/
theorem State.takeLast_last (s : State) {i : Nat} (hi : i ≠ 0) : ((s.takeLast i).last i).inflight = (s.last i).inflight + 1 := by
  rw [State.takeLast, if_neg (by simpa using hi), State.last_setLast]

theorem State.takeLast_frame (s : State) (i : Nat) : ∃ a b, s.takeLast i = { s with lastA := a, lastB := b } := by
  unfold State.takeLast State.setLast
  split
  · exact ⟨_, _, rfl⟩
  · split
    · exact ⟨_, _, rfl⟩
    · exact ⟨_, _, rfl⟩

/-- The state in which a RUN stands in its context, not yet released. -/
def State.enterRun (s : State) (n : Nat) (last units : Nat) (r : Run) : State :=
  let s := (s.takeLast last).addUsed n 1 units
  let s := if r.step then s else s.serveScales n r
  s.modCtx n fun k =>
    let k := if r.step then k.modStep fun t => { t.begin r.epoch with journalRes := true } else k.admitServe
    { k with runs := k.runs ++ [r], nextRun := k.nextRun + 1 }

theorem State.admitRun_eq (s : State) (n : Nat) (tag : BitVec 16) (c : Cmd) (p : Prog) (last : Nat) :
    let r := s.newRun n tag c p last (runUnits p)
    let u := s.enterRun n last (runUnits p + journalUnits (s.ctx n).step r.step) r
    s.admitRun n tag c p last =
      if (u.ctx n).step.wave.isSome || (u.ctx n).step.committed != (u.ctx n).step.applied then u.contribute n else u.releaseRun n r.id := rfl

/-- A step's begin leaves its wave and its epochs. -/
theorem CtxStep.begin_epochs (t : CtxStep) (e : Nat) :
    (t.begin e).wave = t.wave ∧ (t.begin e).committed = t.committed ∧ (t.begin e).applied = t.applied := by
  unfold CtxStep.begin
  dsimp only
  split
  · exact ⟨rfl, rfl, rfl⟩
  · exact ⟨rfl, rfl, rfl⟩

theorem State.enterRun_spec {s : State} (hs : CleanStore s) (n last units : Nat) (r : Run) : let u := s.enterRun n last units r
    let k := s.ctx n
    CleanStore u ∧ u.link = s.link ∧ (last ≠ 0 → (u.last last).inflight = (s.last last).inflight + 1) ∧
      (u.ctx n).runBook = ⟨k.runs ++ [r], k.nextRun + 1, { k.mem with used1 := k.mem.used1 + units }, k.prog, k.step.wave, k.step.committed,
        k.step.applied⟩ := by
  intro u k
  obtain ⟨a, b, taken⟩ := s.takeLast_frame last
  set v := (s.takeLast last).addUsed n 1 units with hv
  have frame : v = { s with ctxs := v.ctxs, lastA := a, lastB := b } := by rw [hv, taken]; rfl
  have clean : CleanStore v := by rw [frame]; exact ⟨hs.bad, hs.arm, hs.rst⟩
  have inflight : last ≠ 0 → (v.last last).inflight = (s.last last).inflight + 1 := s.takeLast_last
  have here : v.ctx n = { k with mem := { k.mem with used1 := k.mem.used1 + units } } := by
    rw [hv, State.addUsed, State.ctx_modCtx, taken]; rfl
  set w := if r.step then v else v.serveScales n r with hw
  have scaled : ScalesOnly n v w := by
    rw [hw]
    split
    · exact ScalesOnly.refl n v
    · exact ScalesOnly.serveScales clean r
  have entered : u = w.modCtx n fun k =>
      let k := if r.step then k.modStep fun t => { t.begin r.epoch with journalRes := true } else k.admitServe
      { k with runs := k.runs ++ [r], nextRun := k.nextRun + 1 } := rfl
  have begun : ∀ k : Ctx,
      (if r.step then k.modStep fun t => { t.begin r.epoch with journalRes := true } else k.admitServe).runBook = k.runBook := by
    intro k
    obtain ⟨wave, committed, applied⟩ := k.step.begin_epochs r.epoch
    split
    · simp only [Ctx.runBook, Ctx.modStep, wave, committed, applied]
    · rfl
  have appended : ∀ k k' : Ctx, k.runBook = k'.runBook → ({ k with runs := k.runs ++ [r], nextRun := k.nextRun + 1 } : Ctx).runBook =
      { k'.runBook with runs := k'.runs ++ [r], nextRun := k'.nextRun + 1 } := fun k k' h => by
    rw [← h, show k'.runs = k.runs from (congrArg RunBook.runs h).symm, show k'.nextRun = k.nextRun from (congrArg RunBook.nextRun h).symm]
    rfl
  refine ⟨?_, ?_, ?_, ?_⟩
  · rw [entered]; exact ⟨(scaled.clean clean).bad, (scaled.clean clean).arm, (scaled.clean clean).rst⟩
  · rw [entered]; exact scaled.link.trans (by rw [frame])
  · intro hl
    rw [entered]; exact (congrArg Last.inflight (scaled.last last)).trans (inflight hl)
  · rw [entered, State.ctx_modCtx]
    rw [appended _ _ ((begun _).trans scaled.book), here]
    rfl

/-- A RUN whose id is new is found under it. -/
theorem find?_append_new {rs : List Run} {i : Nat} (h : ∀ x ∈ rs, x.id < i) {r : Run} (hr : r.id = i) :
    (rs ++ [r]).find? (fun r => r.id == i) = some r := by
  rw [List.find?_append, List.find?_eq_none.2 fun x hx => by simpa using (h x hx).ne]
  simp [hr]

/-- What stands once a RUN is admitted: the RUN, the next id, the space it holds, and the count of its last. -/
structure Admitted (n last units : Nat) (r : Run) (s t : State) : Prop where
  run : ∃ q, (t.ctx n).run? (s.ctx n).nextRun = some q ∧ q.bare = r.bare
  next : (t.ctx n).nextRun = (s.ctx n).nextRun + 1
  used : (t.ctx n).mem.used1 = (s.ctx n).mem.used1 + units
  inflight : last ≠ 0 → (t.last last).inflight = (s.last last).inflight + 1

namespace Admitted
variable {n last units : Nat} {r : Run} {s t : State}

theorem enterRun (hs : CleanStore s) (hids : ∀ x ∈ (s.ctx n).runs, x.id < (s.ctx n).nextRun) (hr : r.id = (s.ctx n).nextRun) :
    Admitted n last units r s (s.enterRun n last units r) := by
  obtain ⟨-, -, inflight, book⟩ := State.enterRun_spec hs n last units r
  refine ⟨⟨r, ?_, rfl⟩, congrArg RunBook.nextRun book, congrArg (fun b : RunBook => b.mem.used1) book, inflight⟩
  rw [Ctx.run?, show ((s.enterRun n last units r).ctx n).runs = (s.ctx n).runs ++ [r] from congrArg RunBook.runs book]
  exact find?_append_new hids hr

/-- A contribution to the wave leaves the RUN as it waits. -/
theorem contribute (h : Admitted n last units r s t) (hm : t.link.member = true) : Admitted n last units r s (t.contribute n) := by
  obtain ⟨⟨w, ctx⟩, -, rest⟩ := State.contribute_member hm n
  refine ⟨?_, ?_, ?_, fun hl => ?_⟩
  · rw [ctx]; exact h.run
  · rw [ctx]; exact h.next
  · rw [ctx]; exact h.used
  · rw [rest]; exact h.inflight hl

/-- The release of the RUN's first tasks. -/
theorem releaseRun (h : Admitted n last units r s t) (ht : CleanStore t) :
    Admitted n last units { r with released := true } s (t.releaseRun n (s.ctx n).nextRun) := by
  obtain ⟨q, found, same⟩ := h.run
  obtain ⟨v, scaled, prep⟩ := State.prepRun_clean ht found
  have released : t.releaseRun n (s.ctx n).nextRun = (State.prepRun n t (s.ctx n).nextRun).advanceRun n (s.ctx n).nextRun := rfl
  rw [released, prep]
  set x := v.modCtx n fun k => k.modRun (s.ctx n).nextRun fun r => { r with released := true }
  have ctx : x.ctx n = (v.ctx n).modRun (s.ctx n).nextRun fun r => { r with released := true } := State.ctx_modCtx ..
  have foundX : (x.ctx n).run? (s.ctx n).nextRun = some { q with released := true } := by
    have foundV : (v.ctx n).run? (s.ctx n).nextRun = some q := by
      rw [Ctx.run?, show (v.ctx n).runs = (t.ctx n).runs from congrArg RunBook.runs scaled.book]; exact found
    rw [ctx, Ctx.run?_modRun _ (f := fun r => { r with released := true }) fun _ h => h, if_pos rfl, foundV]; rfl
  have stay := RunsStay.advanceRun x foundX
  refine ⟨?_, ?_, ?_, fun hl => ?_⟩
  · have run := stay.run (s.ctx n).nextRun
    rw [foundX] at run
    obtain ⟨q', found', same'⟩ := Option.map_eq_some_iff.1 run
    exact ⟨q', found', same'.trans (congrArg (fun r : Run => { r with released := true }) same)⟩
  · rw [stay.next, ctx]; exact (congrArg RunBook.nextRun scaled.book).trans h.next
  · rw [stay.mem, ctx]; exact (congrArg (fun b : RunBook => b.mem.used1) scaled.book).trans h.used
  · rw [stay.sched.last]; exact (congrArg Last.inflight (scaled.last last)).trans (h.inflight hl)

end Admitted

section
variable {s : State} (hs : CleanStore s) {n : Nat} (hids : ∀ x ∈ (s.ctx n).runs, x.id < (s.ctx n).nextRun)
  (tag : BitVec 16) (c : Cmd) (p : Prog) (l : Nat)
include hs hids

/-- While a wave is outstanding a RUN of a member is entered, and its tasks wait (07 R184). -/
theorem State.admitRun_held (hw : (s.ctx n).step.wave ≠ none) (hm : s.link.member = true) :
    Admitted n l (runUnits p + journalUnits (s.ctx n).step (c.p 16 8 != noStep)) (s.newRun n tag c p l (runUnits p)) s (s.admitRun n tag c p l) := by
  have admission := s.admitRun_eq n tag c p l
  set r := s.newRun n tag c p l (runUnits p)
  obtain ⟨clean, link, -, book⟩ := State.enterRun_spec hs n l (runUnits p + journalUnits (s.ctx n).step r.step) r
  have wave := congrArg RunBook.wave book
  have outstanding : ((s.enterRun n l (runUnits p + journalUnits (s.ctx n).step r.step) r).ctx n).step.wave.isSome = true :=
    (congrArg Option.isSome wave).trans (Option.isSome_iff_ne_none.2 hw)
  rw [admission, outstanding, Bool.true_or, if_pos rfl]
  exact (Admitted.enterRun hs hids rfl).contribute ((congrArg Link.member link).trans hm)

/-- With no wave outstanding a RUN's tasks are released at once (07 R179). -/
theorem State.admitRun_released (hw : (s.ctx n).step.wave = none) (hc : (s.ctx n).step.committed = (s.ctx n).step.applied) :
    Admitted n l (runUnits p + journalUnits (s.ctx n).step (c.p 16 8 != noStep)) { s.newRun n tag c p l (runUnits p) with released := true } s
      (s.admitRun n tag c p l) := by
  have admission := s.admitRun_eq n tag c p l
  set r := s.newRun n tag c p l (runUnits p)
  obtain ⟨clean, -, -, book⟩ := State.enterRun_spec hs n l (runUnits p + journalUnits (s.ctx n).step r.step) r
  set u := s.enterRun n l (runUnits p + journalUnits (s.ctx n).step r.step) r
  have wave : (u.ctx n).step.wave = none := (congrArg RunBook.wave book).trans hw
  have even : (u.ctx n).step.committed = (u.ctx n).step.applied :=
    ((congrArg RunBook.committed book).trans hc).trans (congrArg RunBook.applied book).symm
  have idle : ¬ ((u.ctx n).step.wave.isSome || (u.ctx n).step.committed != (u.ctx n).step.applied) = true := by simp [wave, even]
  rw [admission, if_neg idle]
  exact (Admitted.enterRun hs hids rfl).releaseRun clean

end

/-! ## The obligation on programs and RUNs -/

/-- PROGRAM_LOAD that finds room installs the program (07 R177, 13 R363). -/
theorem programLoad_installs {n : CtxN} {tag : Tag} {c : Cmd} {s : State} (hb : Begins s n.val 0x30 tag c)
    (h0 : (s.ctx n.val).runInProgress = false) (hin : s.inT1Allocs n.val (c.p 16 8) (c.p 24 8) = true) (hs : CleanStore s)
    (hst : imageStatus (s.bytes (c.p 16 8) (c.p 24 8)) = 0) {b : Nat} (hw : s.programWaits n.val c = false) :
    let p := parseProg (c.p 16 8) (s.bytes (c.p 16 8) (c.p 24 8))
    s.takeArea 0 (p.areaUnits * unit2M) = some b →
    ∃ t, Answers (.programLoad n tag) s t ∧ (t.ctx n.val).prog = some p ∧ (t.ctx n.val).step.scale = p.recipe.initLs ∧
      (t.ctx n.val).step.clean = 0 ∧ (t.ctx n.val).mem.taskArea = some (b, p.areaUnits) ∧ Done t n.val 0x30 tag 0 0 0 ∧ t.mem = s.mem ∧
      t.cores = s.cores := by
  intro p hp
  set v := s.started n.val 0x30 tag with hv
  have free : (v.ctx n.val).runInProgress = false := (State.started_runInProgress ..).trans h0
  have room : v.takeArea 0 (p.areaUnits * unit2M) = some b := ((SameBooks.started s n.val 0x30 tag).takeArea ..).trans hp
  have run : State.loadProgram n.val tag c v = (v.install n.val p b).finish n.val 0x30 tag 0 0 0 :=
    State.loadProgram_installs tag free hin (hs.started n.val 0x30 tag) hst room
  obtain ⟨here, hosts, mem, cores⟩ := v.install_spec n.val p b
  obtain ⟨d, hd⟩ := State.started_cmd? hb.cmd
  have running : (v.install n.val p b).cmd? n.val 0x30 tag true = some d := (State.cmd?_congr (hosts.host n.val) ..).trans hd
  obtain ⟨xs, ends⟩ := (v.install n.val p b).finish_ctxsOnly n.val 0x30 tag 0 0 0
  obtain ⟨x, ctx⟩ := (SameBooks.finishWith (v.install n.val p b) n.val 0x30 tag 0 (BitVec.ofNat 64 0) (BitVec.ofNat 64 0) false []).ctx n.val
  have ctx : (((v.install n.val p b).finish n.val 0x30 tag 0 0 0).ctx n.val) = _ := ctx
  refine ⟨_, (exec_programLoad_begins hb hw).trans (congrArg _ run), ?_, ?_, ?_, ?_, State.finish_done running .., ?_, ?_⟩
  · rw [ctx, here]; rfl
  · rw [ctx, here]; rfl
  · rw [ctx, here]; rfl
  · rw [ctx, here]; rfl
  · rw [ends]; exact mem
  · rw [ends]; exact cores

/-- The RUN that is admitted, as its command states it. -/
theorem run_admitted {n : CtxN} {tag : Tag} {c : Cmd} {s : State} {p : Prog} {l : Nat}
    (hx : exec (.run n tag) s = .next ((s.started n.val 0x31 tag).admitRun n.val tag c p l))
    (hids : ∀ x ∈ (s.ctx n.val).runs, x.id < (s.ctx n.val).nextRun) (hs : CleanStore s) : let k := s.ctx n.val
    let e := c.p 16 8
    (k.step.wave ≠ none ∧ s.link.member = true) ∨ (k.step.wave = none ∧ k.step.committed = k.step.applied) →
    ∃ t r, Answers (.run n tag) s t ∧ (t.ctx n.val).run? k.nextRun = some r ∧ r.tag = tag ∧ r.epoch = e ∧ r.step = (e != noStep) ∧
      r.latched = l ∧ r.argOff = BitVec.ofNat 64 (c.p 24 8) ∧ (t.ctx n.val).nextRun = k.nextRun + 1 ∧
      (t.ctx n.val).mem.used1 = k.mem.used1 + (runUnits p + journalUnits k.step (e != noStep)) ∧ (r.released = true ↔ k.step.wave = none) ∧
      (l ≠ 0 → (t.last l).inflight = (s.last l).inflight + 1) := by
  intro k e hwave
  set v := s.started n.val 0x31 tag with hv
  have books : SameBooks s v := SameBooks.started ..
  have next : (v.ctx n.val).nextRun = k.nextRun := by obtain ⟨h, ctx⟩ := books.ctx n.val; rw [ctx]
  have step := books.step n.val
  have ids : ∀ x ∈ (v.ctx n.val).runs, x.id < (v.ctx n.val).nextRun := by rw [books.runs, next]; exact hids
  have clean : CleanStore v := hs.started ..
  obtain ⟨b, hb, admitted⟩ : ∃ b, (b = true ↔ k.step.wave = none) ∧
      Admitted n.val l (runUnits p + journalUnits (v.ctx n.val).step (e != noStep)) { v.newRun n.val tag c p l (runUnits p) with released := b } v
        (v.admitRun n.val tag c p l) := by
    rcases hwave with ⟨hw, hm⟩ | ⟨hw, hc⟩
    · exact ⟨false, by simp [hw], State.admitRun_held clean ids tag c p l (by rw [step]; exact hw) hm⟩
    · exact ⟨true, by simp [hw], State.admitRun_released clean ids tag c p l (by rw [step]; exact hw) (by rw [step]; exact hc)⟩
  obtain ⟨⟨r, found, same⟩, next', used, inflight⟩ := admitted
  rw [next] at found next'
  rw [step, books.mem] at used
  exact ⟨_, r, hx, found, congrArg Run.tag same, congrArg Run.epoch same, congrArg Run.step same, congrArg Run.latched same,
    congrArg Run.argOff same, next', used, by rw [show r.released = b from congrArg Run.released same, hb], inflight⟩

/-- Settles O44: PROGRAM_LOAD and RUN check by check, then the end of a RUN with its local commit, and the end of the commit wave. -/
theorem programsRunAndCommit : Obligations.ProgramsRunAndCommit := by
  unfold Obligations.ProgramsRunAndCommit
  intro n tag s k
  refine ⟨fun c hb => ?load, fun c hresh hstop hb => ?run, exec_run_held, fun r hr live hd hc => ?ends, fun r hr h => exec_runEnd_waits hr h,
    fun t e cr he => ?loss, fun w hw => ⟨exec_commitWaveComplete_waits hw, commitWaveComplete_mismatch hw, fun h heq hrel hop => ?wave⟩⟩
  case load =>
    intro a ends
    have starts : s.programWaits n.val c = false → ∀ st, State.loadProgram n.val tag c (s.started n.val 0x30 tag) =
        (s.started n.val 0x30 tag).finish n.val 0x30 tag st 0 0 → ends st := fun hw st h =>
      EndsWith.of_finish hb.cmd ((exec_programLoad_begins hb hw).trans (congrArg _ h))
    have busy : ∀ b, k.runInProgress = b → ((s.started n.val 0x30 tag).ctx n.val).runInProgress = b := fun b h =>
      (State.started_runInProgress ..).trans h
    refine ⟨exec_programLoad_waits hb, fun h => ?_, fun h0 hin => ?_, fun h0 hin hs => ⟨fun hst => ?_,
      fun hst => ⟨fun hfull hw => ?_, fun b hroom => ?_⟩⟩⟩
    · exact starts (by simp [State.programWaits, show (s.ctx n.val).runInProgress = true from h]) _ (State.loadProgram_busy tag (busy _ h))
    · exact starts (by simp [State.programWaits, show s.inT1Allocs n.val (c.p 16 8) (c.p 24 8) = false from hin]) _
        (State.loadProgram_outside tag (busy _ h0) hin)
    · exact starts (by simp [State.programWaits, show imageStatus (s.bytes (c.p 16 8) (c.p 24 8)) ≠ 0 from hst]) _
        (State.loadProgram_bad tag (busy _ h0) hin (hs.started ..) hst)
    · exact starts hw _ (State.loadProgram_full tag (busy _ h0) hin (hs.started ..) hst
        (((SameBooks.started s n.val 0x30 tag).takeArea ..).trans hfull))
    · have hw : s.programWaits n.val c = false := by
        have taken : s.takeArea 0 ((parseProg (c.p 16 8) (s.bytes (c.p 16 8) (c.p 24 8))).areaUnits * unit2M) = some b := hroom
        simp [State.programWaits, taken]
      exact programLoad_installs hb h0 hin hs hst hw hroom
  case run =>
    intro e ends
    obtain ⟨c1, order⟩ := s.runStatus_order n.val c
    have stops : ∀ st, s.runStatus n.val c = st → st ≠ 0 → ends st := fun st h h0 => by
      have run := exec_run_refused hresh hstop hb (by rw [h]; exact h0)
      rw [h] at run
      exact EndsWith.of_finish hb.cmd run
    refine ⟨fun h => stops _ (c1 h) (by decide), fun h => ?_⟩
    obtain ⟨c2, c3, c4, c5⟩ := order h
    refine ⟨fun hp => stops _ (c2 hp) (by decide), fun hp h1 h2 => stops _ (c3 hp h1 h2) (by decide),
      fun hp h1 h2 h3 => stops _ (c4 hp h1 h2 h3) (by decide), fun p hp he => ?_⟩
    intro u j units past room
    have hsome : k.prog ≠ none := by rw [hp]; exact Option.some_ne_none p
    obtain ⟨c6, c7⟩ := c5 hsome he
    obtain ⟨q1, q2, q3, q4⟩ := s.chargeRun_order n.val u j
    have charged : ∀ l, s.giveLast (c.p 8 1) = some l → _ := fun l hl =>
      exec_run_charged hresh hstop hb hp hl (c7 (by rw [hl]; exact Option.some_ne_none l))
    refine ⟨fun hl => stops _ (c6 hl) (by decide), fun l hl => ?_, fun l hl h1 h2 h3 hids hs hwave => ?_⟩
    · obtain ⟨quota, full, waits, -⟩ := charged l hl
      exact ⟨fun h => EndsWith.of_finish hb.cmd (quota (q1 h)), fun h1 h2 => EndsWith.of_finish hb.cmd (full (q2 h1 h2)),
        fun h1 h2 h3 => waits (q3 h1 h2 h3)⟩
    · obtain ⟨-, -, -, admits⟩ := charged l hl
      obtain ⟨b, ok⟩ := q4 h1 h2 h3
      exact run_admitted (admits b ok) hids hs hwave
  case ends =>
    obtain ⟨t, run, done, plain, step⟩ := runEnd_ends hr live hd hc
    have result : lastResult r.latched = if r.latched = 0 then 0 else r.latched + 1 := by simp [lastResult]
    refine ⟨t, run, result ▸ done, plain, fun hstep hm => ?_⟩
    obtain ⟨w, hstep, harith⟩ := step hstep hm
    obtain ⟨-, applied, skipped⟩ := k.applied_spec r
    rw [hstep, harith, skipped, applied]
    refine ⟨rfl, rfl, rfl, Option.some_ne_none w, ?_⟩
    cases k.step.decided && k.step.decision <;> rfl
  case loss =>
    intro L hl
    refine ⟨fun hd => by simp [CtxStep.nextLoss, hd], fun hd ho => CtxStep.nextLoss_overflow he hl hd ho, fun hd ho hc => ?_,
      fun hd ho hc => CtxStep.nextLoss_rises he hl hd ho hc⟩
    simp [CtxStep.nextLoss, hd, ho, hc, hl]
  case wave =>
    have run := commitWaveComplete_commits hw h heq hrel hop
    set v := s.modStepOf n.val fun t => t.committedAt w.epoch
    have ctx : (v.ledgerSlot n.val).ctx n.val = k.modStep fun t => t.committedAt w.epoch := State.ctx_modStepOf ..
    refine ⟨_, run, ?_, ?_, ?_, ?_, ?_, rfl, rfl⟩
    · rw [ctx]; rfl
    · rw [ctx]; rfl
    · rw [ctx]; rfl
    · have slot : v.ctx n.val = k.modStep fun t => t.committedAt w.epoch := State.ctx_modStepOf ..
      refine (SMap.get_set_self ..).trans ?_
      rw [slot]; rfl
    · rw [ctx]; rfl

end Sys2Proof.Machine
